-- ==== Sys2Proof/Word.lean ====
section
/-! DEFINITION. The words of the YX8 and the sparse maps that hold its storage. -/

namespace Sys2Proof

/-- A byte (R90). -/
abbrev Byte := BitVec 8
/-- The 64-bit scalar word (R135). -/
abbrev Word := BitVec 64
/-- An instruction word (R144). -/
abbrev IWord := BitVec 32
/-- A vector register, 512 bits (R160). -/
abbrev VWord := BitVec 512

/-- Sparse storage: pairs of a key and a value, keys strictly rising, no value equal to what an
unlisted key reads as. What an unlisted key reads as is the argument d of the operations. -/
abbrev SMap (α : Type) := List (Nat × α)

/-- The value at key k, where an unlisted key reads d k. -/
def SMap.get {α : Type} (d : Nat → α) : SMap α → Nat → α
  | [], k => d k
  | (j, a) :: m, k => if j = k then a else SMap.get d m k

/-- Drop every entry of key k. -/
def SMap.erase {α : Type} (m : SMap α) (k : Nat) : SMap α := m.filter (fun p => p.1 != k)

/-- Put an entry before the first one whose key is larger. -/
def SMap.insert {α : Type} : SMap α → Nat → α → SMap α
  | [], k, a => [(k, a)]
  | (j, b) :: m, k, a => if k < j then (k, a) :: (j, b) :: m else (j, b) :: SMap.insert m k a

/-- Put a at key k, keeping the keys rising; a value equal to d k is not listed. -/
def SMap.set {α : Type} [DecidableEq α] (d : Nat → α) (m : SMap α) (k : Nat) (a : α) : SMap α :=
  if a = d k then m.erase k else (m.erase k).insert k a

/-- Every key of m lies above k. -/
def SMap.above {α : Type} (k : Nat) : SMap α → Bool
  | [] => true
  | (j, _) :: _ => decide (k < j)

/-- The canonical form of sparse storage: keys strictly rising, no entry equal to its default. -/
def SMap.wf {α : Type} [DecidableEq α] (d : Nat → α) : SMap α → Bool
  | [] => true
  | (j, a) :: m => !decide (a = d j) && SMap.above j m && SMap.wf d m

end Sys2Proof
end

