-- ==== Sys2Proof/Syntax.lean ====
section
/-! DEFINITION. The steps of the YX8: one constructor per row of spec/opcode_table.json. -/

namespace Sys2Proof

/-- A scalar or vector register field (R135, R159). -/
abbrev Reg := BitVec 5

/-- The four link directions, in the order of R319. -/
inductive Dir where
  | n | e | s | w
deriving DecidableEq, Repr

/-- The two management ports (R394). -/
inductive MPort where
  | a | b
deriving DecidableEq, Repr

/-- What a RETIRE names (R382). -/
inductive Retired where
  | tile (t : Nat) | hive (h : Nat) | pseudoChannel (p : Nat)
deriving DecidableEq, Repr

/-- A posted write arriving on a PCIe port (R388-R391). -/
structure PcieWrite where
  /-- true: the peer port; false: the host port -/
  peer      : Bool
  requester : BitVec 16
  /-- the function on the host port: 0 PF0, v + 1 VF v -/
  fn        : Nat
  bar       : Nat
  /-- the offset in the BAR -/
  addr      : Nat
  bytes     : List Byte
  /-- the EP bit, or a failed ECRC (R389) -/
  poisoned  : Bool
  /-- relaxed ordering (R390) -/
  relaxed   : Bool
  /-- how many writes its requester has sent on this port before it -/
  seq       : Nat
deriving DecidableEq, Repr

/-- What a request asks of a line's home (R107): a read of n bytes, a write, or an exact-sum addition. -/
inductive HomeOp where
  | read (n : Nat) | write (bytes : List Byte) | xadd (x : BitVec 32) | orBits (x : BitVec 64)
deriving DecidableEq, Repr

/-- A request of another device that reaches a line's home, bearing a context tag, and whether its page is a memory-side one (R105, R107, R130,
R323). -/
structure HomeReq where
  dev : Nat
  tag : Nat
  pa  : Nat
  memSide : Bool
  op  : HomeOp
deriving DecidableEq, Repr

/-- Every step of the part. The rows with an encoding come first in the table's order, then the
rows that are steps of other agents; a row's operands are its encoding's fields, or the place of the
step. Steps that only the outside world or an arbitrary choice starts stand last: compiled Lean code
cannot build a constructor with fields past the 245th, and the model's own code builds none of those. -/
inductive Instr where
  /-- ADD (R167). Writes the 64-bit wrapped sum of gA and gB to gD. -/
  | add (d : Reg) (a : Reg) (b : Reg)
  /-- SUB (R167). Writes the 64-bit wrapped difference gA minus gB to gD. -/
  | sub (d : Reg) (a : Reg) (b : Reg)
  /-- AND (R167). Writes the bitwise AND of gA and gB to gD. -/
  | and (d : Reg) (a : Reg) (b : Reg)
  /-- OR (R167). Writes the bitwise OR of gA and gB to gD. -/
  | or (d : Reg) (a : Reg) (b : Reg)
  /-- XOR (R167). Writes the bitwise XOR of gA and gB to gD. -/
  | xor (d : Reg) (a : Reg) (b : Reg)
  /-- SLL (R167). Shifts gA left by B[5:0] into gD. -/
  | sll (d : Reg) (a : Reg) (b : Reg)
  /-- SRL (R167). Shifts gA logically right by B[5:0] into gD. -/
  | srl (d : Reg) (a : Reg) (b : Reg)
  /-- SRA (R167). Shifts gA arithmetically right by B[5:0] into gD. -/
  | sra (d : Reg) (a : Reg) (b : Reg)
  /-- SLT (R167). Writes 1 to gD when gA is less than gB signed, else 0. -/
  | slt (d : Reg) (a : Reg) (b : Reg)
  /-- SLO (R167). Writes 1 to gD when gA is less than gB unsigned, else 0. -/
  | slo (d : Reg) (a : Reg) (b : Reg)
  /-- MUL (R167). Writes the low 64 bits of gA times gB to gD. -/
  | mul (d : Reg) (a : Reg) (b : Reg) (la : BitVec 4)
  /-- MULH (R167). Writes the high 64 bits of the signed product to gD. -/
  | mulh (d : Reg) (a : Reg) (b : Reg) (la : BitVec 4)
  /-- MULHZ (R167). Writes the high 64 bits of the unsigned product to gD. -/
  | mulhz (d : Reg) (a : Reg) (b : Reg) (la : BitVec 4)
  /-- DIV (R167). Writes the signed truncated quotient, or all ones on division by zero, to gD. -/
  | div (d : Reg) (a : Reg) (b : Reg) (la : BitVec 4)
  /-- DIVZ (R167). Writes the unsigned quotient, or all ones on division by zero, to gD. -/
  | divz (d : Reg) (a : Reg) (b : Reg) (la : BitVec 4)
  /-- REM (R167). Writes the signed remainder, or gA on division by zero, to gD. -/
  | rem (d : Reg) (a : Reg) (b : Reg) (la : BitVec 4)
  /-- REMZ (R167). Writes the unsigned remainder, or gA on division by zero, to gD. -/
  | remz (d : Reg) (a : Reg) (b : Reg) (la : BitVec 4)
  /-- MIN (R167). Writes the signed minimum of gA and gB to gD. -/
  | min (d : Reg) (a : Reg) (b : Reg)
  /-- MAX (R167). Writes the signed maximum of gA and gB to gD. -/
  | max (d : Reg) (a : Reg) (b : Reg)
  /-- MINZ (R167). Writes the unsigned minimum of gA and gB to gD. -/
  | minz (d : Reg) (a : Reg) (b : Reg)
  /-- MAXZ (R167). Writes the unsigned maximum of gA and gB to gD. -/
  | maxz (d : Reg) (a : Reg) (b : Reg)
  /-- CLZ (R167). Writes the count of leading zero bits of gA to gD. -/
  | clz (d : Reg) (a : Reg)
  /-- POPC (R167). Writes the count of one bits of gA to gD. -/
  | popc (d : Reg) (a : Reg)
  /-- BFX (R168). Extracts a bit field of gA described by gB into gD, optionally sign-extended. -/
  | bfx (d : Reg) (a : Reg) (b : Reg)
  /-- BFI (R168). Inserts gA into a bit field of gD described by gB. -/
  | bfi (d : Reg) (a : Reg) (b : Reg)
  /-- SEL (R167). Writes gA to gD when the old gD is nonzero, else gB. -/
  | sel (d : Reg) (a : Reg) (b : Reg)
  /-- ADDI (R169). Adds the sign-extended immediate to gA into gD. -/
  | addi (d : Reg) (a : Reg) (imm : BitVec 16)
  /-- ANDI (R169). ANDs gA with the zero-extended immediate into gD. -/
  | andi (d : Reg) (a : Reg) (imm : BitVec 16)
  /-- ORI (R169). ORs gA with the zero-extended immediate into gD. -/
  | ori (d : Reg) (a : Reg) (imm : BitVec 16)
  /-- XORI (R169). XORs gA with the zero-extended immediate into gD. -/
  | xori (d : Reg) (a : Reg) (imm : BitVec 16)
  /-- SLTI (R169). Writes 1 to gD when gA is less than the signed immediate. -/
  | slti (d : Reg) (a : Reg) (imm : BitVec 16)
  /-- SLLI (R169). Shifts gA left by an immediate amount into gD. -/
  | slli (d : Reg) (a : Reg) (n : BitVec 6)
  /-- SRLI (R169). Shifts gA logically right by an immediate amount into gD. -/
  | srli (d : Reg) (a : Reg) (n : BitVec 6)
  /-- SRAI (R169). Shifts gA arithmetically right by an immediate amount into gD. -/
  | srai (d : Reg) (a : Reg) (n : BitVec 6)
  /-- LUI (R169). Writes the sign-extended 21-bit immediate times 2^16 to gD. -/
  | lui (d : Reg) (imm : BitVec 21)
  /-- AUIPC (R169). Writes PC plus the sign-extended immediate times 2^16 to gD. -/
  | auipc (d : Reg) (imm : BitVec 21)
  /-- BEQ (R171). Branches when gA equals gB. -/
  | beq (a : Reg) (b : Reg) (off : BitVec 16)
  /-- BNE (R171). Branches when gA differs from gB. -/
  | bne (a : Reg) (b : Reg) (off : BitVec 16)
  /-- BLT (R171). Branches when gA is less than gB signed. -/
  | blt (a : Reg) (b : Reg) (off : BitVec 16)
  /-- BGE (R171). Branches when gA is greater than or equal to gB signed. -/
  | bge (a : Reg) (b : Reg) (off : BitVec 16)
  /-- BLO (R171). Branches when gA is less than gB unsigned. -/
  | blo (a : Reg) (b : Reg) (off : BitVec 16)
  /-- BHS (R171). Branches when gA is greater than or equal to gB unsigned. -/
  | bhs (a : Reg) (b : Reg) (off : BitVec 16)
  /-- JAL (R173). Writes PC+4 to gD and jumps PC-relative. -/
  | jal (d : Reg) (off : BitVec 21)
  /-- JALR (R173). Writes PC+4 to gD and jumps to gA plus the immediate. -/
  | jalr (d : Reg) (a : Reg) (imm : BitVec 16)
  /-- LOOP (R174). Starts a hardware loop counted in gD over the following body, or skips it when gA is zero. -/
  | loop (d : Reg) (a : Reg) (imm : BitVec 16)
  /-- START (R177). Makes a helper live on the core with a fresh or inherited frame and writes its slot to gD. -/
  | start (d : Reg) (a : Reg) (b : Reg)
  /-- HALT (R178). Ends the helper's task, waiting for its coprocessor work, then commits with optional frame retain. -/
  | halt (a : Reg)
  /-- YIELD (R179). Offers the core to another ready context, saving a control context when one is ready. -/
  | yield (d : Reg)
  /-- UPRET (R180). Clears the upcall cause and resumes at %upc.epc. -/
  | upret (a : Reg)
  /-- BQE (R172). Branches when the named incoming queue is empty or, with b=1, the outgoing queue is full, without popping. -/
  | bqe (a : Reg) (b : Reg) (off : BitVec 16)
  /-- LD_B (R181). Loads a sign-extended byte into gD. -/
  | ldB (d : Reg) (a : Reg) (off : BitVec 9) (la : BitVec 4)
  /-- LD_BZ (R181). Loads a zero-extended byte into gD. -/
  | ldBz (d : Reg) (a : Reg) (off : BitVec 9) (la : BitVec 4)
  /-- LD_H (R181). Loads a sign-extended halfword into gD. -/
  | ldH (d : Reg) (a : Reg) (off : BitVec 9) (la : BitVec 4)
  /-- LD_HZ (R181). Loads a zero-extended halfword into gD. -/
  | ldHz (d : Reg) (a : Reg) (off : BitVec 9) (la : BitVec 4)
  /-- LD_W (R181). Loads a sign-extended word into gD. -/
  | ldW (d : Reg) (a : Reg) (off : BitVec 9) (la : BitVec 4)
  /-- LD_WZ (R181). Loads a zero-extended word into gD. -/
  | ldWz (d : Reg) (a : Reg) (off : BitVec 9) (la : BitVec 4)
  /-- LD_D (R181). Loads a doubleword into gD. -/
  | ldD (d : Reg) (a : Reg) (off : BitVec 9) (la : BitVec 4)
  /-- LD_RO (R182). Loads a doubleword through the non-coherent read-only cache. -/
  | ldRo (d : Reg) (a : Reg) (off : BitVec 9) (la : BitVec 4)
  /-- ST_B (R183). Stores a byte of gB. -/
  | stB (b : Reg) (a : Reg) (off : BitVec 9)
  /-- ST_H (R183). Stores a halfword of gB. -/
  | stH (b : Reg) (a : Reg) (off : BitVec 9)
  /-- ST_W (R183). Stores a word of gB. -/
  | stW (b : Reg) (a : Reg) (off : BitVec 9)
  /-- ST_D (R183). Stores a doubleword of gB. -/
  | stD (b : Reg) (a : Reg) (off : BitVec 9)
  /-- ST_NT (R183). Stores a doubleword non-temporally through the write-combining buffer. -/
  | stNt (b : Reg) (a : Reg) (off : BitVec 9)
  /-- PREF (R185). Fills the line at gA into L1 when every check passes, otherwise does nothing. -/
  | pref (a : Reg)
  /-- FLUSH (R185). Writes the line's dirty bytes back to home at the given scope and, at yard scope or wider, frees its exact-sum entries. -/
  | flush (cc : BitVec 2) (a : Reg)
  /-- INVAL (R185). Flushes the line at the given scope, then discards it from L1 and the read-only cache. -/
  | inval (cc : BitVec 2) (a : Reg)
  /-- LDV (R186). Reads a doubleword and its line version at home as one step into gD and gD+1. -/
  | ldv (d : Reg) (a : Reg) (off : BitVec 9) (la : BitVec 4)
  /-- VREC (R188). Enters a line and version pair into the validation set. -/
  | vrec (a : Reg) (b : Reg)
  /-- VALID (R188). Holds the set's lines at home, writes 1 if every version is unchanged, and clears the set. -/
  | valid (d : Reg) (la : BitVec 4)
  /-- VCLR (R188). Clears the validation set. -/
  | vclr
  /-- CASV (R190). Writes the doubleword at home when the line's version equals gB, reporting success in gD. -/
  | casv (d : Reg) (a : Reg) (b : Reg) (la : BitVec 4)
  /-- CAS (R190). Writes the doubleword at home when its value equals gB, returning the old value in gD. -/
  | cas (d : Reg) (a : Reg) (b : Reg) (la : BitVec 4)
  /-- AMO_ADD (R191). Atomically adds gB to the word or doubleword at home. -/
  | amoAdd (d : Reg) (a : Reg) (b : Reg) (w : BitVec 1) (sc : BitVec 2) (la : BitVec 4)
  /-- AMO_AND (R191). Atomically ANDs gB into the memory value at home. -/
  | amoAnd (d : Reg) (a : Reg) (b : Reg) (w : BitVec 1) (sc : BitVec 2) (la : BitVec 4)
  /-- AMO_OR (R191). Atomically ORs gB into the memory value at home. -/
  | amoOr (d : Reg) (a : Reg) (b : Reg) (w : BitVec 1) (sc : BitVec 2) (la : BitVec 4)
  /-- AMO_XOR (R191). Atomically XORs gB into the memory value at home. -/
  | amoXor (d : Reg) (a : Reg) (b : Reg) (w : BitVec 1) (sc : BitVec 2) (la : BitVec 4)
  /-- AMO_MIN (R191). Atomically stores the signed minimum of memory and gB. -/
  | amoMin (d : Reg) (a : Reg) (b : Reg) (w : BitVec 1) (sc : BitVec 2) (la : BitVec 4)
  /-- AMO_MAX (R191). Atomically stores the signed maximum of memory and gB. -/
  | amoMax (d : Reg) (a : Reg) (b : Reg) (w : BitVec 1) (sc : BitVec 2) (la : BitVec 4)
  /-- AMO_SWAP (R191). Atomically swaps gB with the memory value. -/
  | amoSwap (d : Reg) (a : Reg) (b : Reg) (w : BitVec 1) (sc : BitVec 2) (la : BitVec 4)
  /-- AMO_XADD (R192). Adds the F32 value in gB exactly into the word's exact-sum entry at home. -/
  | amoXadd (d : Reg) (a : Reg) (b : Reg) (sc : BitVec 2) (la : BitVec 4)
  /-- FENCE_REL (R111). Blocks until every earlier access is performed at the given scope. -/
  | fenceRel (sc : BitVec 2)
  /-- FENCE_ACQ (R111). Waits for earlier loads and discards stale copies at the given scope. -/
  | fenceAcq (sc : BitVec 2)
  /-- FENCE_AR (R111). Performs a release then an acquire at the given scope as one instruction. -/
  | fenceAr (sc : BitVec 2)
  /-- EVW (R197). Waits until an event line of the mask is pending, then writes and clears the received lines. -/
  | evw (d : Reg) (a : Reg)
  /-- EVS (R199). Sends one event signal to a line of this or another comb tile. -/
  | evs (a : Reg)
  /-- BAR (R202). Releases at yard scope, sends a barrier arrival, waits for the round and acquires. -/
  | bar (a : Reg)
  /-- FILLW (R204). Waits until the fill word's generation differs from gB and writes it to gD. -/
  | fillw (d : Reg) (a : Reg) (b : Reg)
  /-- FILLT (R204). Writes the fill word's count and generation, or the superstep snapshot, to gD. -/
  | fillt (d : Reg) (a : Reg)
  /-- FILLA (R204). Rearms the fill word with a new target, clearing count and overflow, and returns the old ones. -/
  | filla (d : Reg) (a : Reg) (b : Reg)
  /-- TSYNC (R203). Ends a superstep: waits for helpers and sends, then barriers on %bar.0. -/
  | tsync (d : Reg)
  /-- MFS (R206). Reads a special register into gD. -/
  | mfs (d : Reg) (n : BitVec 12)
  /-- MTS (R206). Writes gA to a special register that has no behaviour of its own. -/
  | mts (a : Reg) (n : BitVec 12)
  /-- CTX_FT_WRITE (R29). A write setting %ctx.ft stalls the context until its tile is pinned to the package reference. -/
  | ctxFtWrite (a : Reg)
  /-- RING_REGISTER_WRITE (R99). A write to a ring register waits for the context's matrix and engine commands and may raise ring busy. -/
  | ringRegisterWrite (a : Reg) (n : BitVec 12)
  /-- MGRP_WRITE (R246). A write to %mgrp waits until every in-flight matrix command of the tile retires. -/
  | mgrpWrite (a : Reg)
  /-- FFLAGS_ACCESS (R214). An MFS or MTS of %st.fflags waits until every earlier coprocessor instruction has completed. -/
  | fflagsAccess (wr : Bool) (r : Reg)
  /-- TRAP_SUPP_READ (R302). A read of %trap.supp returns the suppressed count and clears it. -/
  | trapSuppRead (d : Reg)
  /-- S_KILL_WRITE (R322). A write to %s.kill kills the saved context with that tag in the same yard. -/
  | sKillWrite (a : Reg)
  /-- HV_TAG_WRITE (R304). A write to %hv.tag stalls until the named tag has finished draining. -/
  | hvTagWrite (a : Reg)
  /-- TRAP (R207). Raises the user-trap cause with gA as the trap value. -/
  | trap (a : Reg)
  /-- ERET (R309). With A=0 returns from a trap of the current level, restoring privilege, prefix and epc. -/
  | eret (a : Reg)
  /-- TLBW (R326). Installs a TLB entry and answers the named miss or parked accesses. -/
  | tlbw (a : Reg) (b : Reg)
  /-- TLBINV_PAGE (R327). Shoots down the guest-stage page at A of the issuer's virtual function. -/
  | tlbinvPage (a : Reg) (b : Reg)
  /-- SHOOTDOWN_COMPLETE (R338). When every acknowledgement has arrived, the blocked TLBINV completes. -/
  | shootdownComplete (cid : Nat)
  /-- CHOLD (R59). Sets the comb's border hold from gA[0] and returns the old hold. -/
  | chold (d : Reg) (a : Reg)
  /-- CFLOOR (R59). Sets the comb's floor from gA and returns the old floor. -/
  | cfloor (d : Reg) (a : Reg)
  /-- CLOAD (R59). Sets this tile's load adjustment and returns the old one. -/
  | cload (d : Reg) (a : Reg)
  /-- CCEDE (R60). Requests that a comb tile be ceded and writes a result code. -/
  | ccede (d : Reg) (a : Reg)
  /-- VADD (R218). Adds vector blocks element-wise. -/
  | vadd (v : Reg) (a : Reg) (b : Reg) (ext : BitVec 4) (la : BitVec 4)
  /-- VSUB (R218). Subtracts vector blocks element-wise. -/
  | vsub (v : Reg) (a : Reg) (b : Reg) (ext : BitVec 4) (la : BitVec 4)
  /-- VMUL (R218). Multiplies vector blocks element-wise. -/
  | vmul (v : Reg) (a : Reg) (b : Reg) (ext : BitVec 4) (la : BitVec 4)
  /-- VFMA (R218). Computes va times vb plus vd with one rounding. -/
  | vfma (v : Reg) (a : Reg) (b : Reg) (ext : BitVec 4) (la : BitVec 4)
  /-- VFMS (R218). Computes va times vb minus vd with one rounding. -/
  | vfms (v : Reg) (a : Reg) (b : Reg) (ext : BitVec 4) (la : BitVec 4)
  /-- VDIV (R218). Divides vector blocks element-wise. -/
  | vdiv (v : Reg) (a : Reg) (b : Reg) (ext : BitVec 4) (la : BitVec 4)
  /-- VSQRT (R218). Takes the square root of each element. -/
  | vsqrt (v : Reg) (a : Reg) (ext : BitVec 4) (la : BitVec 4)
  /-- VMIN (R218). Takes the element-wise minimum. -/
  | vmin (v : Reg) (a : Reg) (b : Reg) (ext : BitVec 4) (la : BitVec 4)
  /-- VMAX (R218). Takes the element-wise maximum. -/
  | vmax (v : Reg) (a : Reg) (b : Reg) (ext : BitVec 4) (la : BitVec 4)
  /-- VABS (R218). Takes the absolute value of each element. -/
  | vabs (v : Reg) (a : Reg) (ext : BitVec 4) (la : BitVec 4)
  /-- VNEG (R218). Negates each element. -/
  | vneg (v : Reg) (a : Reg) (ext : BitVec 4) (la : BitVec 4)
  /-- VCMP (R219). Compares two blocks element-wise into a mask register. -/
  | vcmp (cc : BitVec 2) (m : BitVec 3) (a : Reg) (b : Reg) (ext : BitVec 4) (la : BitVec 4)
  /-- VAND (R221). Bitwise AND of two blocks. -/
  | vand (v : Reg) (a : Reg) (b : Reg) (ext : BitVec 4) (la : BitVec 4)
  /-- VOR (R221). Bitwise OR of two blocks. -/
  | vor (v : Reg) (a : Reg) (b : Reg) (ext : BitVec 4) (la : BitVec 4)
  /-- VXOR (R221). Bitwise XOR of two blocks. -/
  | vxor (v : Reg) (a : Reg) (b : Reg) (ext : BitVec 4) (la : BitVec 4)
  /-- VSHL (R221). Shifts each element left by the matching element of vb. -/
  | vshl (v : Reg) (a : Reg) (b : Reg) (ext : BitVec 4) (la : BitVec 4)
  /-- VSHR (R221). Shifts each element logically right. -/
  | vshr (v : Reg) (a : Reg) (b : Reg) (ext : BitVec 4) (la : BitVec 4)
  /-- VSRA (R221). Shifts each element arithmetically right. -/
  | vsra (v : Reg) (a : Reg) (b : Reg) (ext : BitVec 4) (la : BitVec 4)
  /-- VMOV (R222). Copies enabled elements of va to vd. -/
  | vmov (v : Reg) (a : Reg) (ext : BitVec 4) (la : BitVec 4)
  /-- VBCAST (R222). Broadcasts a scalar register to every enabled element. -/
  | vbcast (v : Reg) (a : Reg) (ext : BitVec 4) (la : BitVec 4)
  /-- VSEL (R222). Selects each element from va or vb by the prefix mask. -/
  | vsel (v : Reg) (a : Reg) (b : Reg) (ext : BitVec 4) (la : BitVec 4)
  /-- VPERM (R223). Permutes elements of va by indices in vb. -/
  | vperm (v : Reg) (a : Reg) (b : Reg) (ext : BitVec 4) (la : BitVec 4)
  /-- VSWZ (R223). Rearranges elements within each register by a fixed pattern. -/
  | vswz (v : Reg) (a : Reg) (p : BitVec 5) (ext : BitVec 4) (la : BitVec 4)
  /-- VEXT (R224). Extracts element gB of a vector register into gD. -/
  | vext (d : Reg) (a : Reg) (b : Reg) (la : BitVec 4)
  /-- VEXT_MASK (R224). Copies a mask register into gD. -/
  | vextMask (d : Reg) (m : BitVec 3) (la : BitVec 4)
  /-- VINS (R224). Inserts gA into element gB of a vector register. -/
  | vins (v : Reg) (a : Reg) (b : Reg) (la : BitVec 4)
  /-- VINS_MASK (R224). Writes gA into a mask register. -/
  | vinsMask (m : BitVec 3) (a : Reg) (la : BitVec 4)
  /-- VLD (R225). Loads strided elements from shared memory into a block. -/
  | vld (v : Reg) (a : Reg) (b : Reg) (ext : BitVec 4) (la : BitVec 4)
  /-- VST (R225). Stores a block's elements to shared memory with a stride. -/
  | vst (v : Reg) (a : Reg) (b : Reg) (ext : BitVec 4)
  /-- VLDTM (R226). Loads elements from tile memory with member and element strides. -/
  | vldtm (v : Reg) (a : Reg) (b : Reg) (ext : BitVec 4) (la : BitVec 4)
  /-- VSTTM (R226). Stores elements to tile memory with member and element strides. -/
  | vsttm (v : Reg) (a : Reg) (b : Reg) (ext : BitVec 4)
  /-- VGATH (R227). Gathers elements at indexed addresses into a block. -/
  | vgath (v : Reg) (a : Reg) (b : Reg) (ext : BitVec 4) (la : BitVec 4)
  /-- VSCAT (R227). Scatters a block's elements to indexed addresses. -/
  | vscat (v : Reg) (a : Reg) (b : Reg) (ext : BitVec 4)
  /-- VCVT (R229). Converts elements from format fa to fb. -/
  | vcvt (v : Reg) (a : Reg) (ext : BitVec 4) (la : BitVec 4)
  /-- VPACK (R230). Packs L6 bytes four elements to three bytes. -/
  | vpack (v : Reg) (a : Reg) (ext : BitVec 4) (la : BitVec 4)
  /-- VUNPK (R230). Unpacks packed L6 to one element per byte. -/
  | vunpk (v : Reg) (a : Reg) (ext : BitVec 4) (la : BitVec 4)
  /-- VQNT (R231). Quantises groups into fb with one E8 scale per group written to gB. -/
  | vqnt (v : Reg) (a : Reg) (b : Reg) (ext : BitVec 4) (la : BitVec 4)
  /-- VRED (R232). Reduces the enabled elements to one value by sum, max, min or amax. -/
  | vred (v : Reg) (a : Reg) (p : BitVec 5) (ext : BitVec 4) (la : BitVec 4)
  /-- VDOT (R233). Adds one exact dot product per member into elements of vd with one rounding. -/
  | vdot (v : Reg) (a : Reg) (b : Reg) (ext : BitVec 4) (la : BitVec 4)
  /-- VRNG (R235). Writes counter-based generator values to enabled elements. -/
  | vrng (v : Reg) (ext : BitVec 4) (la : BitVec 4)
  /-- VCLS (R220). Sets mask bits for elements whose class is in the given set. -/
  | vcls (m : BitVec 3) (a : Reg) (cset : BitVec 5) (ext : BitVec 4) (la : BitVec 4)
  /-- VTBL (R236). Looks up each index in a 256-byte table held in four registers. -/
  | vtbl (v : Reg) (a : Reg) (b : Reg) (ext : BitVec 4) (la : BitVec 4)
  /-- VBFLY (R237). Performs radix-2 complex butterflies writing both vd and va. -/
  | vbfly (v : Reg) (a : Reg) (b : Reg) (ext : BitVec 4) (la : BitVec 4)
  /-- VCNT (R221). Counts ones, leading or trailing zeros of each element. -/
  | vcnt (v : Reg) (a : Reg) (p : BitVec 5) (ext : BitVec 4) (la : BitVec 4)
  /-- VSCAN (R234). Forms inclusive or exclusive exact prefix sums. -/
  | vscan (v : Reg) (a : Reg) (p : BitVec 5) (ext : BitVec 4) (la : BitVec 4)
  /-- FMT (R216). Sets the format prefix for the next instruction in %st.pfx. -/
  | fmt (f : BitVec 5) (g : BitVec 5) (r : BitVec 3) (t : BitVec 1) (m : BitVec 3) (k : BitVec 2)
  /-- VECTOR_EXECUTE (R209). A queued coprocessor operation at its queue head binds lane groups and executes once its sources are ready. -/
  | vectorExecute (core : Nat)
  /-- CP_GO (R258). Copies rows of bytes between memory, TM or a ring. -/
  | cpGo (a : Reg) (b : Reg) (sc : BitVec 2)
  /-- CP_LAND (R259). Arms or disarms a landing window in the BAR2 aperture. -/
  | cpLand (a : Reg) (b : Reg)
  /-- CP_TM (R260). Copies bytes from TM to TM. -/
  | cpTm (a : Reg) (b : Reg)
  /-- GA_GO (R262). Gathers indexed elements into a destination or ring. -/
  | gaGo (a : Reg) (b : Reg) (sc : BitVec 2)
  /-- SC_GO (R262). Scatters elements to indexed destinations. -/
  | scGo (a : Reg) (b : Reg) (sc : BitVec 2)
  /-- CO_RED (R264). Reduces every member's source into the root's destination. -/
  | coRed (a : Reg) (b : Reg) (sc : BitVec 2)
  /-- CO_BCAST (R264). Broadcasts the root's source to every member's destination. -/
  | coBcast (a : Reg) (b : Reg) (sc : BitVec 2)
  /-- CO_AR (R264). Reduces every member's source into every member's destination. -/
  | coAr (a : Reg) (b : Reg) (sc : BitVec 2)
  /-- MM (R248). Accumulates the product of two ring operand tiles into a 32x32 accumulator block. -/
  | mm (a : Reg) (b : Reg)
  /-- MMS (R84). Accumulates a block-scaled product using scale sums popped from qk. -/
  | mms (a : Reg) (b : Reg)
  /-- MMP (R249). Computes a paired product with a partner tile's B tile. -/
  | mmp (a : Reg) (b : Reg)
  /-- MZERO (R250). Zeroes a 32x32 accumulator block. -/
  | mzero (a : Reg)
  /-- MACR (R250). Reads accumulator spans into vector registers. -/
  | macr (v : Reg) (b : Reg) (la : BitVec 4)
  /-- MACW (R250). Writes vector registers into accumulator spans. -/
  | macw (v : Reg) (b : Reg)
  /-- MACST (R250). Converts an accumulator region and stores it to TM. -/
  | macst (a : Reg) (b : Reg)
  /-- MCMD_CHECK (R251). Checks required matrix capabilities against %mat.cap. -/
  | mcmdCheck (a : Reg)
  /-- MCMD_ZALL (R251). Zeroes the whole accumulator store after earlier matrix commands retire. -/
  | mcmdZall (a : Reg)
  /-- MCMD_PCANCEL (R251). Aborts every uncommitted MMP of the issuing context. -/
  | mcmdPcancel (a : Reg)
  /-- MRING_POP (R252). Waits for held tiles and advances a ring's head by n. -/
  | mringPop (a : Reg) (b : Reg)
  /-- MRING_PUSH (R252). Waits for room and advances a ring's tail by n declared tiles. -/
  | mringPush (a : Reg) (b : Reg)
  /-- MRING_RESET (R252). Waits for commands naming the ring to retire, then zeroes head and tail. -/
  | mringReset (a : Reg) (b : Reg)
  /-- MWAIT (R253). Blocks until every earlier matrix command of the context has retired. -/
  | mwait
  /-- LN_TASK (R266). Creates a launch of tasks from a launch block. -/
  | lnTask (a : Reg) (b : Reg)
  /-- LN_GRAPH (R267). Declares a dependence graph of launches. -/
  | lnGraph (a : Reg) (b : Reg)
  /-- LN_PHASE (R268). Forms a phase from a mask of graphs. -/
  | lnPhase (a : Reg) (b : Reg)
  /-- LN_CANCEL (R269). Cancels every uncommitted task below a launch, graph, phase or job. -/
  | lnCancel (a : Reg) (b : Reg)
  /-- LN_WAIT (R269). Blocks until the named level's counter reaches zero, then ORs its flags. -/
  | lnWait (a : Reg) (b : Reg)
  /-- RP_REC (R271). Records the next A vector or wax instructions into the repetition buffer. -/
  | rpRec (a : Reg)
  /-- RP_RUN (R272). Starts pushing A staggered replays of the recorded sequence. -/
  | rpRun (a : Reg) (b : Reg)
  /-- REPLAY_PUSH (R353). The sequencer pushes one replay per tile cycle while the vector queue has room. -/
  | replayPush (core : Nat)
  /-- WXLD (R279). Binds a wax opcode to a slot and loads its image. -/
  | wxld (a : Reg) (b : Reg)
  /-- WXREL (R280). Detaches any stream, unbinds the opcode and frees its slot. -/
  | wxrel (a : Reg)
  /-- WXSTM (R284). Starts a Glalin stream from a stream descriptor on a stream-only opcode. -/
  | wxstm (a : Reg) (b : Reg)
  /-- WXDET (R285). Stops the stream on an opcode and lets its graph drain. -/
  | wxdet (a : Reg)
  /-- WXQRY (R286). Returns the binding state of a wax opcode. -/
  | wxqry (d : Reg) (b : Reg) (la : BitVec 4)
  /-- EN_STAT (R273). Returns a status item of an engine without queueing. -/
  | enStat (d : Reg) (b : Reg) (la : BitVec 4)
  /-- WAX (R281). Executes a bound wax image element-wise over vector blocks. -/
  | wax (v : Reg) (a : Reg) (b : Reg) (ext : BitVec 4) (n : BitVec 3) (la : BitVec 4)
  /-- WAX_LOAD_COMPLETE (R279). The engine finishes reading and checking an image, taking the slot or unbinding on error. -/
  | waxLoadComplete (tile : Nat)
  /-- STREAM_START (R285). A stream whose ports are free begins running. -/
  | streamStart (tile : Nat)
  /-- STREAM_END (R285). A stream ends when every read port has ended and the graph drained. -/
  | streamEnd (tile : Nat)
  /-- ENGINE_ACCEPT (R242). A command at the head of the vector queue passes to its engine when the engine's input has room. -/
  | engineAccept (core : Nat)
  /-- MATRIX_COMMAND_START (R248). A matrix command starts once its ring slots are held and the engine is free. -/
  | matrixCommandStart (tile : Nat)
  /-- MATRIX_COMMAND_RETIRE (R98). A matrix command retires, writing its block and advancing ring heads by its pops. -/
  | matrixCommandRetire (tile : Nat)
  /-- MMP_PAIR_COMMIT (R249). When each side holds the other's B tile, both sides write and pop. -/
  | mmpPairCommit (tile : Nat)
  /-- COLLECTIVE_COMPLETE (R264). Matched collective commands of every member complete, writing results or reporting mismatch. -/
  | collectiveComplete (yard : Nat) (dom : Nat)
  /-- ENGINE_WRITE_HOME (R122). An engine's write to an owned shared line is applied at home, advancing its version and ending ownership. -/
  | engineWriteHome (tile : Nat)
  /-- TASK_DISPATCH (R343). Each calendar cycle the dispatcher takes at most one task and places it on a comb tile. -/
  | taskDispatch (yard : Nat)
  /-- HELPER_TASK_START (R347). A placed task becomes a helper once a slot and a frame are free on its tile. -/
  | helperTaskStart (tile : Nat)
  /-- TASK_COMMIT (R24). A halting task validates its read set, publishes its dirty bytes atomically and releases deferred commands. -/
  | taskCommit (cid : Nat)
  /-- SUCCESSOR_DISPATCHABLE (R345). In the calendar cycle after a counter reaches zero, successor launches become dispatchable and LN.WAIT completes. -/
  | successorDispatchable (yard : Nat)
  /-- TASK_FAULT_RECORD (R314). A task-fault record is delivered to the control context of the helper's core at its next boundary. -/
  | taskFaultRecord (cid : Nat)
  /-- UPCALL_ENTRY (R55). At an instruction boundary a pending upcall closes windows, sets epc and cause and jumps to %upc.vec. -/
  | upcallEntry (cid : Nat)
  /-- LATE_CAUSE_REPORT (R312). After the drain closing a collection window, the oldest late cause is reported and others suppressed. -/
  | lateCauseReport (cid : Nat)
  /-- SINGLE_STEP_TRAP (R315). With single step set at U, a step trap is taken to S after each instruction completes. -/
  | singleStepTrap (cid : Nat)
  /-- SLICE_EXPIRY (R316). The core's slice expires and the control context is saved with reason slice. -/
  | sliceExpiry (core : Nat)
  /-- BUDGET_EXCEEDED (R324). Waiting charged beyond the budget saves the context with reason budget. -/
  | budgetExceeded (cid : Nat)
  /-- CONTEXT_SAVE (R317). A control context is saved at a boundary: helpers aborted, coprocessor work drained or withdrawn, frame written. -/
  | contextSave (cid : Nat)
  /-- EVENT_ARRIVAL (R196). A signal reaching an event line sets its pending bit and wakes waiting EVW or ev pops. -/
  | eventArrival (tile : Nat) (line : Nat)
  /-- BARRIER_ARRIVAL (R202). A barrier arrival is counted for its domain's round. -/
  | barrierArrival (cid : Nat) (dom : Nat) (members : Nat)
  /-- SUPERSTEP_BOUNDARY (R203). 64 calendar cycles after the latest member, every member becomes ready with the fill-word snapshot taken. -/
  | superstepBoundary (yard : Nat) (dom : Nat)
  /-- LINK_VALUE_ARRIVAL (R299). A pushed value arrives in the neighbour core's incoming link queue or message buffer. -/
  | linkValueArrival (core : Nat) (dir : Dir)
  /-- TLB_MISS_RECORD (R333). A hive TLB miss writes a miss record into the TSC's ring when the next slot is free. -/
  | tlbMissRecord (hive : Nat)
  /-- PIN_SWITCH_COMPLETE (R361). The tile completes its switch to fixed timing at the first suitable 64-cycle calendar boundary. -/
  | pinSwitchComplete (tile : Nat)
  /-- CALENDAR_APPLY (R356). A port's calendar bytes take effect at the start of the first suitable calendar period. -/
  | calendarApply (port : Nat)
  /-- ROUTE_ENTRY_APPLY (R392). A changed Milay route entry takes effect after accesses under the old entry are acknowledged. -/
  | routeEntryApply (dev : Nat)
  /-- TENANT_CREATE (R366). Checks a free record's fields and forms its yard as one held comb. -/
  | tenantCreate (v : Nat)
  /-- TENANT_START (R365). Starts the yard's dispatcher and border agents. -/
  | tenantStart (v : Nat)
  /-- TENANT_SAVE (R373). Saves every context and engine state of the yard into its image area. -/
  | tenantSave (v : Nat)
  /-- TENANT_RESUME (R375). Loads the yard image and restarts every context as saved. -/
  | tenantResume (v : Nat)
  /-- TENANT_TEARDOWN (R376). Kills the yard's contexts, clears its tiles, flushes exact sums and frees the record. -/
  | tenantTeardown (v : Nat)
  /-- TENANT_MIGRATE_OUT (R377). Copies the saved yard's pages and image to another device under a ticket. -/
  | tenantMigrateOut (v : Nat)
  /-- TENANT_MIGRATE_IN (R378). Accepts a migrated yard under its ticket into a free record. -/
  | tenantMigrateIn (v : Nat)
  /-- TENANT_CHECKPOINT (R379). Saves the yard, writes step n to the store and buddy, and resumes. -/
  | tenantCheckpoint (v : Nat)
  /-- TENANT_ROLL_BACK (R381). Restores the whole group to the newest step held for every shard. -/
  | tenantRollBack (v : Nat)
  /-- TENANT_RESERVED_COMMAND (R364). A command code 10-15 sets status 12. -/
  | tenantReservedCommand (v : Nat) (code : Nat)
  /-- JOB_GO (R372). An AMO setting go in a job-table entry passes the rectangle's tiles to a new comb. -/
  | jobGo (v : Nat) (j : Nat)
  /-- JOB_END (R372). An AMO setting end cancels the job's launches, kills its contexts and passes its tiles away. -/
  | jobEnd (v : Nat) (j : Nat)
  /-- EVENT_POST (R395). H writing the last doubleword of the event post queues an event on both ports. -/
  | eventPost (bytes : List Byte)
  /-- MSIX_POST (R386). A write to the MSI-X post sends that message on the host port. -/
  | msixPost (w : Word)
  /-- COLD_RESET (R402). Power-on runs the boot sequence from step 1. -/
  | coldReset
  /-- ELASTIC_RETURN_COMPLETE (R361). Eight calendar cycles after a tile leaves fixed timing, it resumes issuing on elastic timing. -/
  | elasticReturnComplete (tile : Nat)
  /-- ENGINE_COMMAND_COMPLETE (R273). A copy, gather/scatter, collective or launch command finishes its transfer, raising its completed count or its late cause. -/
  | engineCommandComplete (tile : Nat) (eng : Nat)
  /-- MMP_PAIR_TIMEOUT (R249). A half waiting 1,024 calendar cycles without its partner aborts the pair. -/
  | mmpPairTimeout (tile : Nat)
  /-- WRITE_COMBINE_DRAIN (R183). The write-combining buffer writes ST.NT bytes back no later than 256 tile cycles after entry. -/
  | writeCombineDrain (tile : Nat)
  /-- LAUNCH_AGING (R344). A launch left undispatched 65,536 calendar cycles is served one priority higher. -/
  | launchAging (yard : Nat) (job : Nat) (id : Nat)
  /-- CEDE_REQUEST_EXPIRY (R60). An accepted cede request expires after 16 waggle periods. -/
  | cedeRequestExpiry (tile : Nat)
  /-- LOSS_GRACE_EXPIRY (R47). The 65,536-cycle loss grace expires, force-saving remaining contexts and aborting helpers. -/
  | lossGraceExpiry (tile : Nat)
  /-- HANDOVER_DRAIN_COMPLETE (R47). After the tile's requests drain, it is cleared, routers updated, generations advanced and the gain upcall raised. -/
  | handoverDrainComplete (tile : Nat)
  /-- TAG_DRAIN_COMPLETE (R323). When no request bearing a dead tag remains in flight, the tag is freed everywhere. -/
  | tagDrainComplete (tag : Nat)
  /-- UPRET_VACATE (R48). UPRET with bit 0 set while a loss is pending saves the context into the comb's save area as vacated. -/
  | upretVacate (a : Reg)
  /-- ERET_RESTORE (R320). In the resident handler, checks and restores the save frame at gA into the control-context slot. -/
  | eretRestore (a : Reg)
  /-- TLBINV_VF (R327). Shoots down every guest-stage entry of the issuer's virtual function. -/
  | tlbinvVf (a : Reg) (b : Reg)
  /-- TLBINV_GPA (R327). Shoots down the hypervisor-stage page at guest physical A in every virtual function. -/
  | tlbinvGpa (a : Reg) (b : Reg)
  /-- TLBINV_ALL (R327). Shoots down every TLB entry of the device. -/
  | tlbinvAll (a : Reg) (b : Reg)
  /-- FILL_WORD_ARRIVAL (R101). An arrival of m counted bytes updates a fill word's count, generation, overflow and event. -/
  | fillWordArrival (tile : Nat) (view : Nat) (off : Nat) (m : Nat)
  /-- HOME_ACCESS (R107). A request reaching a line's home is applied or served in the line's single write order. -/
  | homeAccess (req : HomeReq)
  /-- L1_WRITEBACK (R110). Dirty bytes of an L1 line leave for home at any time. -/
  | l1Writeback (tile : Nat) (line : Nat)
  /-- L2_EVICTION (R104). L2 evicts a line and raises its granule's version floor. -/
  | l2Eviction (line : Nat)
  /-- WAGGLE_BOUNDARY (R40). Every 4,096 calendar cycles each border agent computes load and pressure and may decide a move. -/
  | waggleBoundary
  /-- PCIE_POSTED_WRITE (R389). A posted write to a landing window is applied to TM and counted, or dropped. -/
  | pciePostedWrite (w : PcieWrite)
  /-- PCIE_UNSUPPORTED_REQUEST (R388). A memory read to BAR2 or an AtomicOp completes with Unsupported Request. -/
  | pcieUnsupportedRequest (peer : Bool) (tag : Nat)
  /-- MILAY_PORT_DOWN (R393). A port losing training is marked down and its traffic moves to other ports. -/
  | milayPortDown (port : Nat)
  /-- MILAY_ACCESS_TIMEOUT (R393). A remote access unacknowledged for 1 ms with all ports down raises the uncorrectable-memory-error cause. -/
  | milayAccessTimeout (id : Nat)
  /-- UNCORRECTABLE_TILE_ERROR (R310). An uncorrectable error in tile state raises 0x1C1 late at every context of the tile. -/
  | uncorrectableTileError (tile : Nat)
  /-- CHECKPOINT_STEP_COMPLETE (R379). When own and buddy copies are written, the record's step advances. -/
  | checkpointStepComplete (v : Nat)
  /-- MIGRATION_DONE (R377). When the destination reports saved, the source record tears down. -/
  | migrationDone (v : Nat) (ok : Bool)
  /-- SEM_READ (R395). A read of sem takes the management semaphore when free and returns the holder. tie: the other port reads it
  in the same management-core cycle. -/
  | semRead (p : MPort) (tie : Bool)
  /-- SEM_RELEASE (R395). A write of sem by its holder frees the semaphore. -/
  | semRelease (p : MPort)
  /-- SEM_TIMEOUT (R395). One second without a command from the holder frees the semaphore. -/
  | semTimeout
  /-- GET_INFO (R396). Replies with boot state, device id, versions and measurement count. -/
  | getInfo (p : MPort) (seq : Nat)
  /-- GET_RETIRE (R396). Replies with the retirement list. -/
  | getRetire (p : MPort) (seq : Nat)
  /-- STAGE_BLOB (R396). Writes a chunk of a new configuration blob to the spare flash slot. -/
  | stageBlob (p : MPort) (seq : Nat) (off : Nat) (chunk : List Byte)
  /-- COMMIT_BLOB (R397). Verifies the staged blob's signature and makes it current at the next reset. -/
  | commitBlob (p : MPort) (seq : Nat)
  /-- RETIRE (R382). Retires a tile, hive or pseudo-channel at once and logs it. -/
  | retire (p : MPort) (seq : Nat) (what : Retired)
  /-- RESET (R402). Management command performing a warm reset. -/
  | reset (p : MPort) (seq : Nat)
  /-- SPDM (R396). Carries one SPDM message on management port A. -/
  | spdm (p : MPort) (seq : Nat) (msg : List Byte)
  /-- EVENT_QUEUE_READ (R394). A read of the last doubleword of the event slot removes the oldest event. -/
  | eventQueueRead (p : MPort)
  /-- GET_VERSION (R400). SPDM request returning the supported version. -/
  | getVersion (p : MPort) (msg : List Byte)
  /-- GET_CAPABILITIES (R400). SPDM request returning capabilities. -/
  | getCapabilities (p : MPort) (msg : List Byte)
  /-- NEGOTIATE_ALGORITHMS (R400). SPDM request negotiating SHA-384 and ECDSA P-384. -/
  | negotiateAlgorithms (p : MPort) (msg : List Byte)
  /-- GET_DIGESTS (R400). SPDM request returning certificate digests. -/
  | getDigests (p : MPort) (msg : List Byte)
  /-- GET_CERTIFICATE (R400). SPDM request returning the certificate chain. -/
  | getCertificate (p : MPort) (msg : List Byte)
  /-- CHALLENGE (R400). SPDM request proving possession of the device signing key. -/
  | challenge (p : MPort) (msg : List Byte)
  /-- GET_MEASUREMENTS (R400). SPDM request returning measurement registers M0-M7. -/
  | getMeasurements (p : MPort) (index : Nat)
  /-- WARM_RESET (R402). A PCIe hot reset of the host port clears measurements and reruns boot, losing every yard. -/
  | warmReset
  /-- FLR_VF (R402). An FLR of a VF tears down its tenant record and posts an event. -/
  | flrVf (v : Nat)
  /-- FLR_PF0 (R402). An FLR of PF0 resets port A's registers and frees its semaphore. -/
  | flrPf0
  /-- FLR_PEER (R402). An FLR of the peer function clears only its PCIe state. -/
  | flrPeer
  /-- THERMAL_TRIP (R403). A die junction at 120 °C removes compute-die power and posts event kind 4. -/
  | thermalTrip
  /-- TLB_ENTRY_EVICTION (R330). A tile or hive TLB evicts an entry at any time, and a hive eviction removes every tile copy of it. -/
  | tlbEntryEviction (hiveLevel : Bool) (place : Nat) (k : Nat)
  /-- MILAY_PORT_TRAINED (R386). A Milay port completes training, its link status becomes up and routes may use it again. -/
  | milayPortTrained (port : Nat)
  /-- PCIE_COMPLETION (R385). A PCIe completion for a read of host or peer memory, or for a write awaited by a system-scope release, arrives. -/
  | pcieCompletion (id : Nat)
  /-- MILAY_ACKNOWLEDGEMENT (R111). A remote home's data or acknowledgement for a tenant-scope access returns over Milay. -/
  | milayAcknowledgement (id : Nat)
  /-- PEER_SHOOTDOWN_REQUEST (R338). An invalidation from a peer device arrives over Milay and this device runs the cancel, invalidate and acknowledge steps. -/
  | peerShootdownRequest (kind : Nat) (size : Nat) (vf : Nat) (addr : Nat)
  /-- DROOP_STRETCH (R360). A droop detector reports a droop and the elastic tile's next cycle is stretched and counted in %clk.stat. -/
  | droopStretch (tile : Nat) (depth : Nat)
  /-- L1_LINE_EVICTION (R110). The L1 or read-only cache drops a clean line, or refills the read-only cache from home, at any time. -/
  | l1LineEviction (tile : Nat) (line : Nat)
deriving DecidableEq, Repr

end Sys2Proof
end

