-- ==== Sys2Proof/WellFormed.lean ====
section
/-! DEFINITION. The checks of a step's fields that its encoding or description states apart from any
state: the reserved codes and registers of R62, R136, R147, R172, R174, R186, R190, R217. -/

namespace Sys2Proof

/-- A scalar destination: ev, number 29, as a destination raises the reserved-encoding cause (R136). -/
def dstOk (d : Reg) : Bool := d != 29

/-- A scalar field both read and written: 24-29 raise the reserved-encoding cause (R168, R190). -/
def rwOk (d : Reg) : Bool := decide (d.toNat < 24) || decide (30 ≤ d.toNat)

/-- The numbers of %ring.k.base, size, tilebytes, head and tail (R97). -/
def isRingReg (n : BitVec 12) : Bool :=
  decide (0x200 ≤ n.toNat) && decide (n.toNat < 0x240) && decide (n.toNat % 8 < 5)

/-- The special registers whose MTS is a row of its own in the table: %ctx.ft, %st.fflags, the rings,
%mgrp, %s.kill and %hv.tag. -/
def ownMts (n : BitVec 12) : Bool :=
  n == 0x010 || n == 0x020 || isRingReg n || n == 0x241 || n == 0x44F || n == 0x808

/-- The special registers whose MFS is a row of its own in the table: %st.fflags and %trap.supp. -/
def ownMfs (n : BitVec 12) : Bool := n == 0x020 || n == 0x451

/-- The state-free checks of a step: an encoded row's reserved codes, and a step's place within the
part (1,024 tiles and 64 service nodes numbered 1,024-1,087; four cores a tile; 16 slots a core). -/
def wellFormed : Instr → Bool
  | .add d _ _ => dstOk d
  | .sub d _ _ => dstOk d
  | .and d _ _ => dstOk d
  | .or d _ _ => dstOk d
  | .xor d _ _ => dstOk d
  | .sll d _ _ => dstOk d
  | .srl d _ _ => dstOk d
  | .sra d _ _ => dstOk d
  | .slt d _ _ => dstOk d
  | .slo d _ _ => dstOk d
  | .mul d _ _ _ => dstOk d
  | .mulh d _ _ _ => dstOk d
  | .mulhz d _ _ _ => dstOk d
  | .div d _ _ _ => dstOk d
  | .divz d _ _ _ => dstOk d
  | .rem d _ _ _ => dstOk d
  | .remz d _ _ _ => dstOk d
  | .min d _ _ => dstOk d
  | .max d _ _ => dstOk d
  | .minz d _ _ => dstOk d
  | .maxz d _ _ => dstOk d
  | .clz d _ => dstOk d
  | .popc d _ => dstOk d
  | .bfx d _ _ => dstOk d
  | .bfi d _ _ => rwOk d
  | .sel d _ _ => rwOk d
  | .addi d _ _ => dstOk d
  | .andi d _ _ => dstOk d
  | .ori d _ _ => dstOk d
  | .xori d _ _ => dstOk d
  | .slti d _ _ => dstOk d
  | .slli d _ _ => dstOk d
  | .srli d _ _ => dstOk d
  | .srai d _ _ => dstOk d
  | .lui d _ => dstOk d
  | .auipc d _ => dstOk d
  | .beq _ _ _ => true
  | .bne _ _ _ => true
  | .blt _ _ _ => true
  | .bge _ _ _ => true
  | .blo _ _ _ => true
  | .bhs _ _ _ => true
  | .jal d _ => dstOk d
  | .jalr d _ _ => dstOk d
  | .loop d _ imm => d != 0 && decide (d.toNat < 24) && decide (1 ≤ imm.toInt)
  | .start d _ _ => dstOk d
  | .halt _ => true
  | .yield d => dstOk d
  | .upret _ => true
  | .upretVacate _ => true
  | .bqe a b _ => decide (24 ≤ a.toNat) && decide (a.toNat ≤ 29) && decide (b.toNat ≤ 1) && !(b == 1 && a == 29)
  | .ldB d _ _ _ => dstOk d
  | .ldBz d _ _ _ => dstOk d
  | .ldH d _ _ _ => dstOk d
  | .ldHz d _ _ _ => dstOk d
  | .ldW d _ _ _ => dstOk d
  | .ldWz d _ _ _ => dstOk d
  | .ldD d _ _ _ => dstOk d
  | .ldRo d _ _ _ => dstOk d
  | .stB _ _ _ => true
  | .stH _ _ _ => true
  | .stW _ _ _ => true
  | .stD _ _ _ => true
  | .stNt _ _ _ => true
  | .pref _ => true
  | .flush _ _ => true
  | .inval _ _ => true
  | .ldv d _ _ _ => d != 0 && decide (d.toNat ≤ 22)
  | .vrec _ _ => true
  | .valid d _ => dstOk d
  | .vclr => true
  | .casv d _ _ _ => rwOk d
  | .cas d _ _ _ => rwOk d
  | .amoAdd d _ _ _ _ _ => dstOk d
  | .amoAnd d _ _ _ _ _ => dstOk d
  | .amoOr d _ _ _ _ _ => dstOk d
  | .amoXor d _ _ _ _ _ => dstOk d
  | .amoMin d _ _ _ _ _ => dstOk d
  | .amoMax d _ _ _ _ _ => dstOk d
  | .amoSwap d _ _ _ _ _ => dstOk d
  | .amoXadd d _ _ _ _ => dstOk d
  | .fenceRel _ => true
  | .fenceAcq _ => true
  | .fenceAr _ => true
  | .evw d _ => dstOk d
  | .evs _ => true
  | .bar _ => true
  | .fillw d _ _ => dstOk d
  | .fillt d _ => dstOk d
  | .filla d _ _ => dstOk d
  | .tsync d => dstOk d
  | .mfs d n => dstOk d && !ownMfs n
  | .mts _ n => !ownMts n
  | .ctxFtWrite _ => true
  | .ringRegisterWrite _ n => isRingReg n
  | .mgrpWrite _ => true
  | .fflagsAccess wr r => wr || dstOk r
  | .trapSuppRead d => dstOk d
  | .sKillWrite _ => true
  | .hvTagWrite _ => true
  | .trap _ => true
  | .eret _ => true
  | .eretRestore _ => true
  | .tlbw _ _ => true
  | .tlbinvPage _ _ => true
  | .tlbinvVf _ _ => true
  | .tlbinvGpa _ _ => true
  | .tlbinvAll _ _ => true
  | .shootdownComplete cid => decide (cid < 69632)
  | .chold d _ => dstOk d
  | .cfloor d _ => dstOk d
  | .cload d _ => dstOk d
  | .ccede d _ => dstOk d
  | .vadd _ _ _ _ _ => true
  | .vsub _ _ _ _ _ => true
  | .vmul _ _ _ _ _ => true
  | .vfma _ _ _ _ _ => true
  | .vfms _ _ _ _ _ => true
  | .vdiv _ _ _ _ _ => true
  | .vsqrt _ _ _ _ => true
  | .vmin _ _ _ _ _ => true
  | .vmax _ _ _ _ _ => true
  | .vabs _ _ _ _ => true
  | .vneg _ _ _ _ => true
  | .vcmp _ m _ _ _ _ => m != 0
  | .vand _ _ _ _ _ => true
  | .vor _ _ _ _ _ => true
  | .vxor _ _ _ _ _ => true
  | .vshl _ _ _ _ _ => true
  | .vshr _ _ _ _ _ => true
  | .vsra _ _ _ _ _ => true
  | .vmov _ _ _ _ => true
  | .vbcast _ _ _ _ => true
  | .vsel _ _ _ _ _ => true
  | .vperm _ _ _ _ _ => true
  | .vswz _ _ p _ _ => decide (p.toNat < 8)
  | .vext d _ _ _ => dstOk d
  | .vextMask d _ _ => dstOk d
  | .vins _ _ _ _ => true
  | .vinsMask m _ _ => m != 0
  | .vld _ _ _ _ _ => true
  | .vst _ _ _ _ => true
  | .vldtm _ _ _ _ _ => true
  | .vsttm _ _ _ _ => true
  | .vgath _ _ _ _ _ => true
  | .vscat _ _ _ _ => true
  | .vcvt _ _ _ _ => true
  | .vpack _ _ _ _ => true
  | .vunpk _ _ _ _ => true
  | .vqnt _ _ b _ _ => dstOk b
  | .vred _ _ p _ _ => decide (p.toNat < 4)
  | .vdot _ _ _ _ _ => true
  | .vrng _ _ _ => true
  | .vcls m _ _ _ _ => m != 0
  | .vtbl _ _ _ _ _ => true
  | .vbfly _ _ _ _ _ => true
  | .vcnt _ _ p _ _ => decide (p.toNat < 3)
  | .vscan _ _ p _ _ => decide (p.toNat < 2)
  | .fmt f g r _ _ _ => decide (f.toNat < 16) && decide (g.toNat < 16) && r != 6
  | .vectorExecute core => decide (core < 4352)
  | .cpGo _ _ _ => true
  | .cpLand _ _ => true
  | .cpTm _ _ => true
  | .gaGo _ _ _ => true
  | .scGo _ _ _ => true
  | .coRed _ _ _ => true
  | .coBcast _ _ _ => true
  | .coAr _ _ _ => true
  | .mm _ _ => true
  | .mms _ _ => true
  | .mmp _ _ => true
  | .mzero _ => true
  | .macr _ _ _ => true
  | .macw _ _ => true
  | .macst _ _ => true
  | .mcmdCheck _ => true
  | .mcmdZall _ => true
  | .mcmdPcancel _ => true
  | .mringPop _ _ => true
  | .mringPush _ _ => true
  | .mringReset _ _ => true
  | .mwait => true
  | .lnTask _ _ => true
  | .lnGraph _ _ => true
  | .lnPhase _ _ => true
  | .lnCancel _ _ => true
  | .lnWait _ _ => true
  | .rpRec _ => true
  | .rpRun _ _ => true
  | .replayPush core => decide (core < 4352)
  | .wxld _ _ => true
  | .wxrel _ => true
  | .wxstm _ _ => true
  | .wxdet _ => true
  | .wxqry d _ _ => dstOk d
  | .enStat d _ _ => dstOk d
  | .wax _ _ _ _ _ _ => true
  | .waxLoadComplete tile => decide (tile < 1088)
  | .streamStart tile => decide (tile < 1088)
  | .streamEnd tile => decide (tile < 1088)
  | .engineAccept core => decide (core < 4352)
  | .matrixCommandStart tile => decide (tile < 1088)
  | .matrixCommandRetire tile => decide (tile < 1088)
  | .mmpPairCommit tile => decide (tile < 1088)
  | .mmpPairTimeout tile => decide (tile < 1088)
  | .collectiveComplete yard _ => decide (yard < 32)
  | .fillWordArrival tile view _ _ => decide (tile < 1088) && decide (view < 4)
  | .engineWriteHome tile => decide (tile < 1088)
  | .homeAccess _ => true
  | .l1Writeback tile _ => decide (tile < 1088)
  | .writeCombineDrain tile => decide (tile < 1088)
  | .l2Eviction _ => true
  | .taskDispatch yard => decide (yard < 32)
  | .launchAging yard job _ => decide (yard < 32) && decide (job < 65536)
  | .helperTaskStart tile => decide (tile < 1088)
  | .taskCommit cid => decide (cid < 69632)
  | .successorDispatchable yard => decide (yard < 32)
  | .taskFaultRecord cid => decide (cid < 69632)
  | .waggleBoundary => true
  | .cedeRequestExpiry tile => decide (tile < 1088)
  | .lossGraceExpiry tile => decide (tile < 1088)
  | .handoverDrainComplete tile => decide (tile < 1088)
  | .upcallEntry cid => decide (cid < 69632)
  | .lateCauseReport cid => decide (cid < 69632)
  | .singleStepTrap cid => decide (cid < 69632)
  | .sliceExpiry core => decide (core < 4352)
  | .budgetExceeded cid => decide (cid < 69632)
  | .contextSave cid => decide (cid < 69632)
  | .tagDrainComplete tag => decide (tag < 65536)
  | .eventArrival tile line => decide (tile < 1088) && decide (line < 32)
  | .barrierArrival cid _ _ => decide (cid < 69632)
  | .superstepBoundary yard _ => decide (yard < 32)
  | .linkValueArrival core _ => decide (core < 4352)
  | .tlbMissRecord hive => decide (hive < 64)
  | .pinSwitchComplete tile => decide (tile < 1088)
  | .calendarApply _ => true
  | .routeEntryApply dev => decide (dev < 48)
  | .pciePostedWrite _ => true
  | .pcieUnsupportedRequest _ tag => decide (tag < 65536)
  | .milayPortDown port => decide (port < 18)
  | .milayAccessTimeout _ => true
  | .uncorrectableTileError tile => decide (tile < 1088)
  | .tenantCreate v => decide (v < 32)
  | .tenantStart v => decide (v < 32)
  | .tenantSave v => decide (v < 32)
  | .tenantResume v => decide (v < 32)
  | .tenantTeardown v => decide (v < 32)
  | .tenantMigrateOut v => decide (v < 32)
  | .tenantMigrateIn v => decide (v < 32)
  | .tenantCheckpoint v => decide (v < 32)
  | .tenantRollBack v => decide (v < 32)
  | .tenantReservedCommand v _ => decide (v < 32)
  | .checkpointStepComplete v => decide (v < 32)
  | .migrationDone v _ => decide (v < 32)
  | .jobGo v j => decide (v < 32) && decide (j < 64)
  | .jobEnd v j => decide (v < 32) && decide (j < 64)
  | .semRead _ _ => true
  | .semRelease _ => true
  | .semTimeout => true
  | .getInfo _ _ => true
  | .getRetire _ _ => true
  | .stageBlob _ _ _ _ => true
  | .commitBlob _ _ => true
  | .retire _ _ _ => true
  | .reset _ _ => true
  | .spdm _ _ _ => true
  | .eventQueueRead _ => true
  | .eventPost _ => true
  | .msixPost _ => true
  | .getVersion _ _ => true
  | .getCapabilities _ _ => true
  | .negotiateAlgorithms _ _ => true
  | .getDigests _ _ => true
  | .getCertificate _ _ => true
  | .challenge _ _ => true
  | .getMeasurements _ _ => true
  | .coldReset => true
  | .warmReset => true
  | .flrVf v => decide (v < 32)
  | .flrPf0 => true
  | .flrPeer => true
  | .thermalTrip => true
  | .elasticReturnComplete tile => decide (tile < 1088)
  | .tlbEntryEviction _ _ _ => true
  | .engineCommandComplete tile _ => decide (tile < 1088)
  | .milayPortTrained port => decide (port < 18)
  | .pcieCompletion _ => true
  | .milayAcknowledgement _ => true
  | .peerShootdownRequest _ _ _ _ => true
  | .droopStretch tile _ => decide (tile < 1088)
  | .l1LineEviction tile _ => decide (tile < 1088)

end Sys2Proof
end

