-- ==== Sys2Proof/Decode.lean ====
section
/-! DEFINITION. Decoding of instruction words (R144-R149) and their encoding, from the opcode map of
R146 and the field lists of the instruction chapters. -/

namespace Sys2Proof

/-- What the decoder answers for a word: an instruction, the zero word, or a reserved encoding (R147). -/
inductive Decoded where
  | ok (i : Instr)
  | zeroWord
  | reserved
deriving DecidableEq, Repr

/-- The row an MTS word stands for: some special registers have a row of their own (R29, R99, R246,
R214, R322, R304). -/
def mtsRow (a : Reg) (n : BitVec 12) : Instr :=
  if n = 0x010 then .ctxFtWrite a
  else if n = 0x020 then .fflagsAccess true a
  else if isRingReg n then .ringRegisterWrite a n
  else if n = 0x241 then .mgrpWrite a
  else if n = 0x44F then .sKillWrite a
  else if n = 0x808 then .hvTagWrite a
  else .mts a n

/-- The row an MFS word stands for (R214, R302). -/
def mfsRow (d : Reg) (n : BitVec 12) : Instr :=
  if n = 0x020 then .fflagsAccess false d
  else if n = 0x451 then .trapSuppRead d
  else .mfs d n

/-- Major 0x01, format A (R146). -/
def decode01 (w : IWord) : Option Instr :=
  if w.extractLsb' 4 7 = 0#7 ∧ w.extractLsb' 0 4 = 0#4 then some (.add (w.extractLsb' 21 5) (w.extractLsb' 16 5) (w.extractLsb' 11 5))
  else if w.extractLsb' 4 7 = 1#7 ∧ w.extractLsb' 0 4 = 0#4 then some (.sub (w.extractLsb' 21 5) (w.extractLsb' 16 5) (w.extractLsb' 11 5))
  else if w.extractLsb' 4 7 = 2#7 ∧ w.extractLsb' 0 4 = 0#4 then some (.and (w.extractLsb' 21 5) (w.extractLsb' 16 5) (w.extractLsb' 11 5))
  else if w.extractLsb' 4 7 = 3#7 ∧ w.extractLsb' 0 4 = 0#4 then some (.or (w.extractLsb' 21 5) (w.extractLsb' 16 5) (w.extractLsb' 11 5))
  else if w.extractLsb' 4 7 = 4#7 ∧ w.extractLsb' 0 4 = 0#4 then some (.xor (w.extractLsb' 21 5) (w.extractLsb' 16 5) (w.extractLsb' 11 5))
  else if w.extractLsb' 4 7 = 5#7 ∧ w.extractLsb' 0 4 = 0#4 then some (.sll (w.extractLsb' 21 5) (w.extractLsb' 16 5) (w.extractLsb' 11 5))
  else if w.extractLsb' 4 7 = 6#7 ∧ w.extractLsb' 0 4 = 0#4 then some (.srl (w.extractLsb' 21 5) (w.extractLsb' 16 5) (w.extractLsb' 11 5))
  else if w.extractLsb' 4 7 = 7#7 ∧ w.extractLsb' 0 4 = 0#4 then some (.sra (w.extractLsb' 21 5) (w.extractLsb' 16 5) (w.extractLsb' 11 5))
  else if w.extractLsb' 4 7 = 8#7 ∧ w.extractLsb' 0 4 = 0#4 then some (.slt (w.extractLsb' 21 5) (w.extractLsb' 16 5) (w.extractLsb' 11 5))
  else if w.extractLsb' 4 7 = 9#7 ∧ w.extractLsb' 0 4 = 0#4 then some (.slo (w.extractLsb' 21 5) (w.extractLsb' 16 5) (w.extractLsb' 11 5))
  else if w.extractLsb' 4 7 = 10#7 then some (.mul (w.extractLsb' 21 5) (w.extractLsb' 16 5) (w.extractLsb' 11 5) (w.extractLsb' 0 4))
  else if w.extractLsb' 4 7 = 11#7 then some (.mulh (w.extractLsb' 21 5) (w.extractLsb' 16 5) (w.extractLsb' 11 5) (w.extractLsb' 0 4))
  else if w.extractLsb' 4 7 = 12#7 then some (.mulhz (w.extractLsb' 21 5) (w.extractLsb' 16 5) (w.extractLsb' 11 5) (w.extractLsb' 0 4))
  else if w.extractLsb' 4 7 = 13#7 then some (.div (w.extractLsb' 21 5) (w.extractLsb' 16 5) (w.extractLsb' 11 5) (w.extractLsb' 0 4))
  else if w.extractLsb' 4 7 = 14#7 then some (.divz (w.extractLsb' 21 5) (w.extractLsb' 16 5) (w.extractLsb' 11 5) (w.extractLsb' 0 4))
  else if w.extractLsb' 4 7 = 15#7 then some (.rem (w.extractLsb' 21 5) (w.extractLsb' 16 5) (w.extractLsb' 11 5) (w.extractLsb' 0 4))
  else if w.extractLsb' 4 7 = 16#7 then some (.remz (w.extractLsb' 21 5) (w.extractLsb' 16 5) (w.extractLsb' 11 5) (w.extractLsb' 0 4))
  else if w.extractLsb' 4 7 = 17#7 ∧ w.extractLsb' 0 4 = 0#4 then some (.min (w.extractLsb' 21 5) (w.extractLsb' 16 5) (w.extractLsb' 11 5))
  else if w.extractLsb' 4 7 = 18#7 ∧ w.extractLsb' 0 4 = 0#4 then some (.max (w.extractLsb' 21 5) (w.extractLsb' 16 5) (w.extractLsb' 11 5))
  else if w.extractLsb' 4 7 = 19#7 ∧ w.extractLsb' 0 4 = 0#4 then some (.minz (w.extractLsb' 21 5) (w.extractLsb' 16 5) (w.extractLsb' 11 5))
  else if w.extractLsb' 4 7 = 20#7 ∧ w.extractLsb' 0 4 = 0#4 then some (.maxz (w.extractLsb' 21 5) (w.extractLsb' 16 5) (w.extractLsb' 11 5))
  else if w.extractLsb' 11 5 = 0#5 ∧ w.extractLsb' 4 7 = 21#7 ∧ w.extractLsb' 0 4 = 0#4 then some (.clz (w.extractLsb' 21 5) (w.extractLsb' 16 5))
  else if w.extractLsb' 11 5 = 0#5 ∧ w.extractLsb' 4 7 = 22#7 ∧ w.extractLsb' 0 4 = 0#4 then some (.popc (w.extractLsb' 21 5) (w.extractLsb' 16 5))
  else if w.extractLsb' 4 7 = 23#7 ∧ w.extractLsb' 0 4 = 0#4 then some (.bfx (w.extractLsb' 21 5) (w.extractLsb' 16 5) (w.extractLsb' 11 5))
  else if w.extractLsb' 4 7 = 24#7 ∧ w.extractLsb' 0 4 = 0#4 then some (.bfi (w.extractLsb' 21 5) (w.extractLsb' 16 5) (w.extractLsb' 11 5))
  else if w.extractLsb' 4 7 = 25#7 ∧ w.extractLsb' 0 4 = 0#4 then some (.sel (w.extractLsb' 21 5) (w.extractLsb' 16 5) (w.extractLsb' 11 5))
  else none

/-- Major 0x02, format I (R146). -/
def decode02 (w : IWord) : Option Instr :=
  some (.addi (w.extractLsb' 21 5) (w.extractLsb' 16 5) (w.extractLsb' 0 16))

/-- Major 0x03, format I (R146). -/
def decode03 (w : IWord) : Option Instr :=
  some (.andi (w.extractLsb' 21 5) (w.extractLsb' 16 5) (w.extractLsb' 0 16))

/-- Major 0x04, format I (R146). -/
def decode04 (w : IWord) : Option Instr :=
  some (.ori (w.extractLsb' 21 5) (w.extractLsb' 16 5) (w.extractLsb' 0 16))

/-- Major 0x05, format I (R146). -/
def decode05 (w : IWord) : Option Instr :=
  some (.xori (w.extractLsb' 21 5) (w.extractLsb' 16 5) (w.extractLsb' 0 16))

/-- Major 0x06, format I (R146). -/
def decode06 (w : IWord) : Option Instr :=
  some (.slti (w.extractLsb' 21 5) (w.extractLsb' 16 5) (w.extractLsb' 0 16))

/-- Major 0x07, format I (R146). -/
def decode07 (w : IWord) : Option Instr :=
  if w.extractLsb' 6 10 = 0#10 then some (.slli (w.extractLsb' 21 5) (w.extractLsb' 16 5) (w.extractLsb' 0 6))
  else if w.extractLsb' 6 10 = 1#10 then some (.srli (w.extractLsb' 21 5) (w.extractLsb' 16 5) (w.extractLsb' 0 6))
  else if w.extractLsb' 6 10 = 2#10 then some (.srai (w.extractLsb' 21 5) (w.extractLsb' 16 5) (w.extractLsb' 0 6))
  else none

/-- Major 0x08, format U (R146). -/
def decode08 (w : IWord) : Option Instr :=
  some (.lui (w.extractLsb' 21 5) (w.extractLsb' 0 21))

/-- Major 0x09, format U (R146). -/
def decode09 (w : IWord) : Option Instr :=
  some (.auipc (w.extractLsb' 21 5) (w.extractLsb' 0 21))

/-- Major 0x0A, format B (R146). -/
def decode0A (w : IWord) : Option Instr :=
  some (.beq (w.extractLsb' 21 5) (w.extractLsb' 16 5) (w.extractLsb' 0 16))

/-- Major 0x0B, format B (R146). -/
def decode0B (w : IWord) : Option Instr :=
  some (.bne (w.extractLsb' 21 5) (w.extractLsb' 16 5) (w.extractLsb' 0 16))

/-- Major 0x0C, format B (R146). -/
def decode0C (w : IWord) : Option Instr :=
  some (.blt (w.extractLsb' 21 5) (w.extractLsb' 16 5) (w.extractLsb' 0 16))

/-- Major 0x0D, format B (R146). -/
def decode0D (w : IWord) : Option Instr :=
  some (.bge (w.extractLsb' 21 5) (w.extractLsb' 16 5) (w.extractLsb' 0 16))

/-- Major 0x0E, format B (R146). -/
def decode0E (w : IWord) : Option Instr :=
  some (.blo (w.extractLsb' 21 5) (w.extractLsb' 16 5) (w.extractLsb' 0 16))

/-- Major 0x0F, format B (R146). -/
def decode0F (w : IWord) : Option Instr :=
  some (.bhs (w.extractLsb' 21 5) (w.extractLsb' 16 5) (w.extractLsb' 0 16))

/-- Major 0x10, format J (R146). -/
def decode10 (w : IWord) : Option Instr :=
  some (.jal (w.extractLsb' 21 5) (w.extractLsb' 0 21))

/-- Major 0x11, format I (R146). -/
def decode11 (w : IWord) : Option Instr :=
  some (.jalr (w.extractLsb' 21 5) (w.extractLsb' 16 5) (w.extractLsb' 0 16))

/-- Major 0x12, format I (R146). -/
def decode12 (w : IWord) : Option Instr :=
  some (.loop (w.extractLsb' 21 5) (w.extractLsb' 16 5) (w.extractLsb' 0 16))

/-- Major 0x13, format A (R146). -/
def decode13 (w : IWord) : Option Instr :=
  if w.extractLsb' 4 7 = 0#7 ∧ w.extractLsb' 0 4 = 0#4 then some (.start (w.extractLsb' 21 5) (w.extractLsb' 16 5) (w.extractLsb' 11 5))
  else if w.extractLsb' 21 5 = 0#5 ∧ w.extractLsb' 11 5 = 0#5 ∧ w.extractLsb' 4 7 = 1#7 ∧ w.extractLsb' 0 4 = 0#4 then some (.halt (w.extractLsb' 16 5))
  else if w.extractLsb' 16 5 = 0#5 ∧ w.extractLsb' 11 5 = 0#5 ∧ w.extractLsb' 4 7 = 2#7 ∧ w.extractLsb' 0 4 = 0#4 then some (.yield (w.extractLsb' 21 5))
  else if w.extractLsb' 21 5 = 0#5 ∧ w.extractLsb' 11 5 = 0#5 ∧ w.extractLsb' 4 7 = 3#7 ∧ w.extractLsb' 0 4 = 0#4 then some (.upret (w.extractLsb' 16 5))
  else none

/-- Major 0x14, format B (R146). -/
def decode14 (w : IWord) : Option Instr :=
  some (.bqe (w.extractLsb' 21 5) (w.extractLsb' 16 5) (w.extractLsb' 0 16))

/-- Major 0x15, format M (R146). -/
def decode15 (w : IWord) : Option Instr :=
  if w.extractLsb' 4 3 = 0#3 then some (.ldB (w.extractLsb' 21 5) (w.extractLsb' 16 5) (w.extractLsb' 7 9) (w.extractLsb' 0 4))
  else if w.extractLsb' 4 3 = 1#3 then some (.ldBz (w.extractLsb' 21 5) (w.extractLsb' 16 5) (w.extractLsb' 7 9) (w.extractLsb' 0 4))
  else if w.extractLsb' 4 3 = 2#3 then some (.ldH (w.extractLsb' 21 5) (w.extractLsb' 16 5) (w.extractLsb' 7 9) (w.extractLsb' 0 4))
  else if w.extractLsb' 4 3 = 3#3 then some (.ldHz (w.extractLsb' 21 5) (w.extractLsb' 16 5) (w.extractLsb' 7 9) (w.extractLsb' 0 4))
  else if w.extractLsb' 4 3 = 4#3 then some (.ldW (w.extractLsb' 21 5) (w.extractLsb' 16 5) (w.extractLsb' 7 9) (w.extractLsb' 0 4))
  else if w.extractLsb' 4 3 = 5#3 then some (.ldWz (w.extractLsb' 21 5) (w.extractLsb' 16 5) (w.extractLsb' 7 9) (w.extractLsb' 0 4))
  else if w.extractLsb' 4 3 = 6#3 then some (.ldD (w.extractLsb' 21 5) (w.extractLsb' 16 5) (w.extractLsb' 7 9) (w.extractLsb' 0 4))
  else if w.extractLsb' 4 3 = 7#3 then some (.ldRo (w.extractLsb' 21 5) (w.extractLsb' 16 5) (w.extractLsb' 7 9) (w.extractLsb' 0 4))
  else none

/-- Major 0x16, format S (R146). -/
def decode16 (w : IWord) : Option Instr :=
  if w.extractLsb' 4 3 = 0#3 ∧ w.extractLsb' 0 4 = 0#4 then some (.stB (w.extractLsb' 21 5) (w.extractLsb' 16 5) (w.extractLsb' 7 9))
  else if w.extractLsb' 4 3 = 1#3 ∧ w.extractLsb' 0 4 = 0#4 then some (.stH (w.extractLsb' 21 5) (w.extractLsb' 16 5) (w.extractLsb' 7 9))
  else if w.extractLsb' 4 3 = 2#3 ∧ w.extractLsb' 0 4 = 0#4 then some (.stW (w.extractLsb' 21 5) (w.extractLsb' 16 5) (w.extractLsb' 7 9))
  else if w.extractLsb' 4 3 = 3#3 ∧ w.extractLsb' 0 4 = 0#4 then some (.stD (w.extractLsb' 21 5) (w.extractLsb' 16 5) (w.extractLsb' 7 9))
  else if w.extractLsb' 4 3 = 4#3 ∧ w.extractLsb' 0 4 = 0#4 then some (.stNt (w.extractLsb' 21 5) (w.extractLsb' 16 5) (w.extractLsb' 7 9))
  else none

/-- Major 0x17, format A (R146). -/
def decode17 (w : IWord) : Option Instr :=
  if w.extractLsb' 21 5 = 0#5 ∧ w.extractLsb' 11 5 = 0#5 ∧ w.extractLsb' 4 7 = 0#7 ∧ w.extractLsb' 0 4 = 0#4 then some (.pref (w.extractLsb' 16 5))
  else if w.extractLsb' 23 3 = 0#3 ∧ w.extractLsb' 11 5 = 0#5 ∧ w.extractLsb' 4 7 = 1#7 ∧ w.extractLsb' 0 4 = 0#4 then some (.flush (w.extractLsb' 21 2) (w.extractLsb' 16 5))
  else if w.extractLsb' 23 3 = 0#3 ∧ w.extractLsb' 11 5 = 0#5 ∧ w.extractLsb' 4 7 = 2#7 ∧ w.extractLsb' 0 4 = 0#4 then some (.inval (w.extractLsb' 21 2) (w.extractLsb' 16 5))
  else none

/-- Major 0x18, format M (R146). -/
def decode18 (w : IWord) : Option Instr :=
  if w.extractLsb' 4 3 = 6#3 then some (.ldv (w.extractLsb' 21 5) (w.extractLsb' 16 5) (w.extractLsb' 7 9) (w.extractLsb' 0 4))
  else none

/-- Major 0x19, format A (R146). -/
def decode19 (w : IWord) : Option Instr :=
  if w.extractLsb' 21 5 = 0#5 ∧ w.extractLsb' 4 7 = 0#7 ∧ w.extractLsb' 0 4 = 0#4 then some (.vrec (w.extractLsb' 16 5) (w.extractLsb' 11 5))
  else if w.extractLsb' 16 5 = 0#5 ∧ w.extractLsb' 11 5 = 0#5 ∧ w.extractLsb' 4 7 = 1#7 then some (.valid (w.extractLsb' 21 5) (w.extractLsb' 0 4))
  else if w.extractLsb' 21 5 = 0#5 ∧ w.extractLsb' 16 5 = 0#5 ∧ w.extractLsb' 11 5 = 0#5 ∧ w.extractLsb' 4 7 = 2#7 ∧ w.extractLsb' 0 4 = 0#4 then some (.vclr)
  else if w.extractLsb' 4 7 = 3#7 then some (.casv (w.extractLsb' 21 5) (w.extractLsb' 16 5) (w.extractLsb' 11 5) (w.extractLsb' 0 4))
  else if w.extractLsb' 4 7 = 4#7 then some (.cas (w.extractLsb' 21 5) (w.extractLsb' 16 5) (w.extractLsb' 11 5) (w.extractLsb' 0 4))
  else none

/-- Major 0x1A, format A (R146). -/
def decode1A (w : IWord) : Option Instr :=
  if w.extractLsb' 10 1 = 0#1 ∧ w.extractLsb' 4 3 = 0#3 then some (.amoAdd (w.extractLsb' 21 5) (w.extractLsb' 16 5) (w.extractLsb' 11 5) (w.extractLsb' 9 1) (w.extractLsb' 7 2) (w.extractLsb' 0 4))
  else if w.extractLsb' 10 1 = 0#1 ∧ w.extractLsb' 4 3 = 1#3 then some (.amoAnd (w.extractLsb' 21 5) (w.extractLsb' 16 5) (w.extractLsb' 11 5) (w.extractLsb' 9 1) (w.extractLsb' 7 2) (w.extractLsb' 0 4))
  else if w.extractLsb' 10 1 = 0#1 ∧ w.extractLsb' 4 3 = 2#3 then some (.amoOr (w.extractLsb' 21 5) (w.extractLsb' 16 5) (w.extractLsb' 11 5) (w.extractLsb' 9 1) (w.extractLsb' 7 2) (w.extractLsb' 0 4))
  else if w.extractLsb' 10 1 = 0#1 ∧ w.extractLsb' 4 3 = 3#3 then some (.amoXor (w.extractLsb' 21 5) (w.extractLsb' 16 5) (w.extractLsb' 11 5) (w.extractLsb' 9 1) (w.extractLsb' 7 2) (w.extractLsb' 0 4))
  else if w.extractLsb' 10 1 = 0#1 ∧ w.extractLsb' 4 3 = 4#3 then some (.amoMin (w.extractLsb' 21 5) (w.extractLsb' 16 5) (w.extractLsb' 11 5) (w.extractLsb' 9 1) (w.extractLsb' 7 2) (w.extractLsb' 0 4))
  else if w.extractLsb' 10 1 = 0#1 ∧ w.extractLsb' 4 3 = 5#3 then some (.amoMax (w.extractLsb' 21 5) (w.extractLsb' 16 5) (w.extractLsb' 11 5) (w.extractLsb' 9 1) (w.extractLsb' 7 2) (w.extractLsb' 0 4))
  else if w.extractLsb' 10 1 = 0#1 ∧ w.extractLsb' 4 3 = 6#3 then some (.amoSwap (w.extractLsb' 21 5) (w.extractLsb' 16 5) (w.extractLsb' 11 5) (w.extractLsb' 9 1) (w.extractLsb' 7 2) (w.extractLsb' 0 4))
  else if w.extractLsb' 9 2 = 0#2 ∧ w.extractLsb' 4 3 = 7#3 then some (.amoXadd (w.extractLsb' 21 5) (w.extractLsb' 16 5) (w.extractLsb' 11 5) (w.extractLsb' 7 2) (w.extractLsb' 0 4))
  else none

/-- Major 0x1B, format A (R146). -/
def decode1B (w : IWord) : Option Instr :=
  if w.extractLsb' 21 5 = 0#5 ∧ w.extractLsb' 16 5 = 0#5 ∧ w.extractLsb' 11 5 = 0#5 ∧ w.extractLsb' 8 3 = 0#3 ∧ w.extractLsb' 4 2 = 1#2 ∧ w.extractLsb' 0 4 = 0#4 then some (.fenceRel (w.extractLsb' 6 2))
  else if w.extractLsb' 21 5 = 0#5 ∧ w.extractLsb' 16 5 = 0#5 ∧ w.extractLsb' 11 5 = 0#5 ∧ w.extractLsb' 8 3 = 0#3 ∧ w.extractLsb' 4 2 = 2#2 ∧ w.extractLsb' 0 4 = 0#4 then some (.fenceAcq (w.extractLsb' 6 2))
  else if w.extractLsb' 21 5 = 0#5 ∧ w.extractLsb' 16 5 = 0#5 ∧ w.extractLsb' 11 5 = 0#5 ∧ w.extractLsb' 8 3 = 0#3 ∧ w.extractLsb' 4 2 = 3#2 ∧ w.extractLsb' 0 4 = 0#4 then some (.fenceAr (w.extractLsb' 6 2))
  else none

/-- Major 0x1C, format A (R146). -/
def decode1C (w : IWord) : Option Instr :=
  if w.extractLsb' 11 5 = 0#5 ∧ w.extractLsb' 4 7 = 0#7 ∧ w.extractLsb' 0 4 = 0#4 then some (.evw (w.extractLsb' 21 5) (w.extractLsb' 16 5))
  else if w.extractLsb' 21 5 = 0#5 ∧ w.extractLsb' 11 5 = 0#5 ∧ w.extractLsb' 4 7 = 1#7 ∧ w.extractLsb' 0 4 = 0#4 then some (.evs (w.extractLsb' 16 5))
  else if w.extractLsb' 21 5 = 0#5 ∧ w.extractLsb' 11 5 = 0#5 ∧ w.extractLsb' 4 7 = 2#7 ∧ w.extractLsb' 0 4 = 0#4 then some (.bar (w.extractLsb' 16 5))
  else if w.extractLsb' 4 7 = 3#7 ∧ w.extractLsb' 0 4 = 0#4 then some (.fillw (w.extractLsb' 21 5) (w.extractLsb' 16 5) (w.extractLsb' 11 5))
  else if w.extractLsb' 11 5 = 0#5 ∧ w.extractLsb' 4 7 = 4#7 ∧ w.extractLsb' 0 4 = 0#4 then some (.fillt (w.extractLsb' 21 5) (w.extractLsb' 16 5))
  else if w.extractLsb' 4 7 = 5#7 ∧ w.extractLsb' 0 4 = 0#4 then some (.filla (w.extractLsb' 21 5) (w.extractLsb' 16 5) (w.extractLsb' 11 5))
  else if w.extractLsb' 16 5 = 0#5 ∧ w.extractLsb' 11 5 = 0#5 ∧ w.extractLsb' 4 7 = 6#7 ∧ w.extractLsb' 0 4 = 0#4 then some (.tsync (w.extractLsb' 21 5))
  else none

/-- Major 0x1D, format I (R146). -/
def decode1D (w : IWord) : Option Instr :=
  if w.extractLsb' 16 5 = 0#5 ∧ w.extractLsb' 12 4 = 0#4 then some (mfsRow (w.extractLsb' 21 5) (w.extractLsb' 0 12))
  else none

/-- Major 0x1E, format I (R146). -/
def decode1E (w : IWord) : Option Instr :=
  if w.extractLsb' 21 5 = 0#5 ∧ w.extractLsb' 12 4 = 0#4 then some (mtsRow (w.extractLsb' 16 5) (w.extractLsb' 0 12))
  else none

/-- Major 0x1F, format A (R146). -/
def decode1F (w : IWord) : Option Instr :=
  if w.extractLsb' 21 5 = 0#5 ∧ w.extractLsb' 11 5 = 0#5 ∧ w.extractLsb' 4 7 = 0#7 ∧ w.extractLsb' 0 4 = 0#4 then some (.trap (w.extractLsb' 16 5))
  else if w.extractLsb' 21 5 = 0#5 ∧ w.extractLsb' 11 5 = 0#5 ∧ w.extractLsb' 4 7 = 1#7 ∧ w.extractLsb' 0 4 = 0#4 then some (.eret (w.extractLsb' 16 5))
  else if w.extractLsb' 21 5 = 0#5 ∧ w.extractLsb' 4 7 = 2#7 ∧ w.extractLsb' 0 4 = 0#4 then some (.tlbw (w.extractLsb' 16 5) (w.extractLsb' 11 5))
  else if w.extractLsb' 21 5 = 0#5 ∧ w.extractLsb' 4 7 = 3#7 ∧ w.extractLsb' 0 4 = 0#4 then some (.tlbinvPage (w.extractLsb' 16 5) (w.extractLsb' 11 5))
  else none

/-- Major 0x20, format A (R146). -/
def decode20 (w : IWord) : Option Instr :=
  if w.extractLsb' 11 5 = 0#5 ∧ w.extractLsb' 4 7 = 0#7 ∧ w.extractLsb' 0 4 = 0#4 then some (.chold (w.extractLsb' 21 5) (w.extractLsb' 16 5))
  else if w.extractLsb' 11 5 = 0#5 ∧ w.extractLsb' 4 7 = 1#7 ∧ w.extractLsb' 0 4 = 0#4 then some (.cfloor (w.extractLsb' 21 5) (w.extractLsb' 16 5))
  else if w.extractLsb' 11 5 = 0#5 ∧ w.extractLsb' 4 7 = 2#7 ∧ w.extractLsb' 0 4 = 0#4 then some (.cload (w.extractLsb' 21 5) (w.extractLsb' 16 5))
  else if w.extractLsb' 11 5 = 0#5 ∧ w.extractLsb' 4 7 = 3#7 ∧ w.extractLsb' 0 4 = 0#4 then some (.ccede (w.extractLsb' 21 5) (w.extractLsb' 16 5))
  else none

/-- Major 0x21, format V (R146). -/
def decode21 (w : IWord) : Option Instr :=
  if w.extractLsb' 4 3 = 0#3 then some (.vadd (w.extractLsb' 21 5) (w.extractLsb' 16 5) (w.extractLsb' 11 5) (w.extractLsb' 7 4) (w.extractLsb' 0 4))
  else if w.extractLsb' 4 3 = 1#3 then some (.vsub (w.extractLsb' 21 5) (w.extractLsb' 16 5) (w.extractLsb' 11 5) (w.extractLsb' 7 4) (w.extractLsb' 0 4))
  else if w.extractLsb' 4 3 = 2#3 then some (.vmul (w.extractLsb' 21 5) (w.extractLsb' 16 5) (w.extractLsb' 11 5) (w.extractLsb' 7 4) (w.extractLsb' 0 4))
  else if w.extractLsb' 4 3 = 3#3 then some (.vfma (w.extractLsb' 21 5) (w.extractLsb' 16 5) (w.extractLsb' 11 5) (w.extractLsb' 7 4) (w.extractLsb' 0 4))
  else if w.extractLsb' 4 3 = 4#3 then some (.vfms (w.extractLsb' 21 5) (w.extractLsb' 16 5) (w.extractLsb' 11 5) (w.extractLsb' 7 4) (w.extractLsb' 0 4))
  else if w.extractLsb' 4 3 = 5#3 then some (.vdiv (w.extractLsb' 21 5) (w.extractLsb' 16 5) (w.extractLsb' 11 5) (w.extractLsb' 7 4) (w.extractLsb' 0 4))
  else if w.extractLsb' 11 5 = 0#5 ∧ w.extractLsb' 4 3 = 6#3 then some (.vsqrt (w.extractLsb' 21 5) (w.extractLsb' 16 5) (w.extractLsb' 7 4) (w.extractLsb' 0 4))
  else if w.extractLsb' 4 3 = 7#3 then some (.vmin (w.extractLsb' 21 5) (w.extractLsb' 16 5) (w.extractLsb' 11 5) (w.extractLsb' 7 4) (w.extractLsb' 0 4))
  else none

/-- Major 0x22, format V (R146). -/
def decode22 (w : IWord) : Option Instr :=
  if w.extractLsb' 4 3 = 0#3 then some (.vmax (w.extractLsb' 21 5) (w.extractLsb' 16 5) (w.extractLsb' 11 5) (w.extractLsb' 7 4) (w.extractLsb' 0 4))
  else if w.extractLsb' 11 5 = 0#5 ∧ w.extractLsb' 4 3 = 1#3 then some (.vabs (w.extractLsb' 21 5) (w.extractLsb' 16 5) (w.extractLsb' 7 4) (w.extractLsb' 0 4))
  else if w.extractLsb' 11 5 = 0#5 ∧ w.extractLsb' 4 3 = 2#3 then some (.vneg (w.extractLsb' 21 5) (w.extractLsb' 16 5) (w.extractLsb' 7 4) (w.extractLsb' 0 4))
  else if w.extractLsb' 4 3 = 3#3 then some (.vcmp (w.extractLsb' 24 2) (w.extractLsb' 21 3) (w.extractLsb' 16 5) (w.extractLsb' 11 5) (w.extractLsb' 7 4) (w.extractLsb' 0 4))
  else if w.extractLsb' 4 3 = 4#3 then some (.vand (w.extractLsb' 21 5) (w.extractLsb' 16 5) (w.extractLsb' 11 5) (w.extractLsb' 7 4) (w.extractLsb' 0 4))
  else if w.extractLsb' 4 3 = 5#3 then some (.vor (w.extractLsb' 21 5) (w.extractLsb' 16 5) (w.extractLsb' 11 5) (w.extractLsb' 7 4) (w.extractLsb' 0 4))
  else if w.extractLsb' 4 3 = 6#3 then some (.vxor (w.extractLsb' 21 5) (w.extractLsb' 16 5) (w.extractLsb' 11 5) (w.extractLsb' 7 4) (w.extractLsb' 0 4))
  else if w.extractLsb' 4 3 = 7#3 then some (.vshl (w.extractLsb' 21 5) (w.extractLsb' 16 5) (w.extractLsb' 11 5) (w.extractLsb' 7 4) (w.extractLsb' 0 4))
  else none

/-- Major 0x23, format V (R146). -/
def decode23 (w : IWord) : Option Instr :=
  if w.extractLsb' 4 3 = 0#3 then some (.vshr (w.extractLsb' 21 5) (w.extractLsb' 16 5) (w.extractLsb' 11 5) (w.extractLsb' 7 4) (w.extractLsb' 0 4))
  else if w.extractLsb' 4 3 = 1#3 then some (.vsra (w.extractLsb' 21 5) (w.extractLsb' 16 5) (w.extractLsb' 11 5) (w.extractLsb' 7 4) (w.extractLsb' 0 4))
  else if w.extractLsb' 11 5 = 0#5 ∧ w.extractLsb' 4 3 = 2#3 then some (.vmov (w.extractLsb' 21 5) (w.extractLsb' 16 5) (w.extractLsb' 7 4) (w.extractLsb' 0 4))
  else if w.extractLsb' 11 5 = 0#5 ∧ w.extractLsb' 4 3 = 3#3 then some (.vbcast (w.extractLsb' 21 5) (w.extractLsb' 16 5) (w.extractLsb' 7 4) (w.extractLsb' 0 4))
  else if w.extractLsb' 4 3 = 4#3 then some (.vsel (w.extractLsb' 21 5) (w.extractLsb' 16 5) (w.extractLsb' 11 5) (w.extractLsb' 7 4) (w.extractLsb' 0 4))
  else if w.extractLsb' 4 3 = 5#3 then some (.vperm (w.extractLsb' 21 5) (w.extractLsb' 16 5) (w.extractLsb' 11 5) (w.extractLsb' 7 4) (w.extractLsb' 0 4))
  else if w.extractLsb' 4 3 = 6#3 then some (.vswz (w.extractLsb' 21 5) (w.extractLsb' 16 5) (w.extractLsb' 11 5) (w.extractLsb' 7 4) (w.extractLsb' 0 4))
  else if w.extractLsb' 7 4 = 0#4 ∧ w.extractLsb' 4 3 = 7#3 then some (.vext (w.extractLsb' 21 5) (w.extractLsb' 16 5) (w.extractLsb' 11 5) (w.extractLsb' 0 4))
  else if w.extractLsb' 19 2 = 0#2 ∧ w.extractLsb' 11 5 = 0#5 ∧ w.extractLsb' 7 4 = 1#4 ∧ w.extractLsb' 4 3 = 7#3 then some (.vextMask (w.extractLsb' 21 5) (w.extractLsb' 16 3) (w.extractLsb' 0 4))
  else none

/-- Major 0x24, format V (R146). -/
def decode24 (w : IWord) : Option Instr :=
  if w.extractLsb' 7 4 = 0#4 ∧ w.extractLsb' 4 3 = 0#3 then some (.vins (w.extractLsb' 21 5) (w.extractLsb' 16 5) (w.extractLsb' 11 5) (w.extractLsb' 0 4))
  else if w.extractLsb' 24 2 = 0#2 ∧ w.extractLsb' 11 5 = 0#5 ∧ w.extractLsb' 7 4 = 1#4 ∧ w.extractLsb' 4 3 = 0#3 then some (.vinsMask (w.extractLsb' 21 3) (w.extractLsb' 16 5) (w.extractLsb' 0 4))
  else if w.extractLsb' 4 3 = 1#3 then some (.vld (w.extractLsb' 21 5) (w.extractLsb' 16 5) (w.extractLsb' 11 5) (w.extractLsb' 7 4) (w.extractLsb' 0 4))
  else if w.extractLsb' 4 3 = 2#3 ∧ w.extractLsb' 0 4 = 0#4 then some (.vst (w.extractLsb' 21 5) (w.extractLsb' 16 5) (w.extractLsb' 11 5) (w.extractLsb' 7 4))
  else if w.extractLsb' 4 3 = 3#3 then some (.vldtm (w.extractLsb' 21 5) (w.extractLsb' 16 5) (w.extractLsb' 11 5) (w.extractLsb' 7 4) (w.extractLsb' 0 4))
  else if w.extractLsb' 4 3 = 4#3 ∧ w.extractLsb' 0 4 = 0#4 then some (.vsttm (w.extractLsb' 21 5) (w.extractLsb' 16 5) (w.extractLsb' 11 5) (w.extractLsb' 7 4))
  else if w.extractLsb' 4 3 = 5#3 then some (.vgath (w.extractLsb' 21 5) (w.extractLsb' 16 5) (w.extractLsb' 11 5) (w.extractLsb' 7 4) (w.extractLsb' 0 4))
  else if w.extractLsb' 4 3 = 6#3 ∧ w.extractLsb' 0 4 = 0#4 then some (.vscat (w.extractLsb' 21 5) (w.extractLsb' 16 5) (w.extractLsb' 11 5) (w.extractLsb' 7 4))
  else if w.extractLsb' 11 5 = 0#5 ∧ w.extractLsb' 4 3 = 7#3 then some (.vcvt (w.extractLsb' 21 5) (w.extractLsb' 16 5) (w.extractLsb' 7 4) (w.extractLsb' 0 4))
  else none

/-- Major 0x25, format V (R146). -/
def decode25 (w : IWord) : Option Instr :=
  if w.extractLsb' 11 5 = 0#5 ∧ w.extractLsb' 4 3 = 0#3 then some (.vpack (w.extractLsb' 21 5) (w.extractLsb' 16 5) (w.extractLsb' 7 4) (w.extractLsb' 0 4))
  else if w.extractLsb' 11 5 = 0#5 ∧ w.extractLsb' 4 3 = 1#3 then some (.vunpk (w.extractLsb' 21 5) (w.extractLsb' 16 5) (w.extractLsb' 7 4) (w.extractLsb' 0 4))
  else if w.extractLsb' 4 3 = 2#3 then some (.vqnt (w.extractLsb' 21 5) (w.extractLsb' 16 5) (w.extractLsb' 11 5) (w.extractLsb' 7 4) (w.extractLsb' 0 4))
  else if w.extractLsb' 4 3 = 3#3 then some (.vred (w.extractLsb' 21 5) (w.extractLsb' 16 5) (w.extractLsb' 11 5) (w.extractLsb' 7 4) (w.extractLsb' 0 4))
  else if w.extractLsb' 4 3 = 4#3 then some (.vdot (w.extractLsb' 21 5) (w.extractLsb' 16 5) (w.extractLsb' 11 5) (w.extractLsb' 7 4) (w.extractLsb' 0 4))
  else if w.extractLsb' 16 5 = 0#5 ∧ w.extractLsb' 11 5 = 0#5 ∧ w.extractLsb' 4 3 = 5#3 then some (.vrng (w.extractLsb' 21 5) (w.extractLsb' 7 4) (w.extractLsb' 0 4))
  else if w.extractLsb' 24 2 = 0#2 ∧ w.extractLsb' 4 3 = 6#3 then some (.vcls (w.extractLsb' 21 3) (w.extractLsb' 16 5) (w.extractLsb' 11 5) (w.extractLsb' 7 4) (w.extractLsb' 0 4))
  else if w.extractLsb' 4 3 = 7#3 then some (.vtbl (w.extractLsb' 21 5) (w.extractLsb' 16 5) (w.extractLsb' 11 5) (w.extractLsb' 7 4) (w.extractLsb' 0 4))
  else none

/-- Major 0x26, format V (R146). -/
def decode26 (w : IWord) : Option Instr :=
  if w.extractLsb' 4 3 = 0#3 then some (.vbfly (w.extractLsb' 21 5) (w.extractLsb' 16 5) (w.extractLsb' 11 5) (w.extractLsb' 7 4) (w.extractLsb' 0 4))
  else if w.extractLsb' 4 3 = 1#3 then some (.vcnt (w.extractLsb' 21 5) (w.extractLsb' 16 5) (w.extractLsb' 11 5) (w.extractLsb' 7 4) (w.extractLsb' 0 4))
  else if w.extractLsb' 4 3 = 2#3 then some (.vscan (w.extractLsb' 21 5) (w.extractLsb' 16 5) (w.extractLsb' 11 5) (w.extractLsb' 7 4) (w.extractLsb' 0 4))
  else none

/-- Major 0x27, format P (R146). -/
def decode27 (w : IWord) : Option Instr :=
  if w.extractLsb' 11 1 = 0#1 ∧ w.extractLsb' 0 6 = 0#6 then some (.fmt (w.extractLsb' 21 5) (w.extractLsb' 16 5) (w.extractLsb' 13 3) (w.extractLsb' 12 1) (w.extractLsb' 8 3) (w.extractLsb' 6 2))
  else none

/-- Major 0x28, format C (R146). -/
def decode28 (w : IWord) : Option Instr :=
  if w.extractLsb' 22 4 = 0#4 ∧ w.extractLsb' 16 6 = 0#6 ∧ w.extractLsb' 0 4 = 0#4 then some (.cpGo (w.extractLsb' 11 5) (w.extractLsb' 6 5) (w.extractLsb' 4 2))
  else if w.extractLsb' 22 4 = 0#4 ∧ w.extractLsb' 16 6 = 1#6 ∧ w.extractLsb' 4 2 = 0#2 ∧ w.extractLsb' 0 4 = 0#4 then some (.cpLand (w.extractLsb' 11 5) (w.extractLsb' 6 5))
  else if w.extractLsb' 22 4 = 0#4 ∧ w.extractLsb' 16 6 = 2#6 ∧ w.extractLsb' 4 2 = 0#2 ∧ w.extractLsb' 0 4 = 0#4 then some (.cpTm (w.extractLsb' 11 5) (w.extractLsb' 6 5))
  else if w.extractLsb' 22 4 = 1#4 ∧ w.extractLsb' 16 6 = 0#6 ∧ w.extractLsb' 0 4 = 0#4 then some (.gaGo (w.extractLsb' 11 5) (w.extractLsb' 6 5) (w.extractLsb' 4 2))
  else if w.extractLsb' 22 4 = 1#4 ∧ w.extractLsb' 16 6 = 1#6 ∧ w.extractLsb' 0 4 = 0#4 then some (.scGo (w.extractLsb' 11 5) (w.extractLsb' 6 5) (w.extractLsb' 4 2))
  else if w.extractLsb' 22 4 = 2#4 ∧ w.extractLsb' 16 6 = 0#6 ∧ w.extractLsb' 0 4 = 0#4 then some (.coRed (w.extractLsb' 11 5) (w.extractLsb' 6 5) (w.extractLsb' 4 2))
  else if w.extractLsb' 22 4 = 2#4 ∧ w.extractLsb' 16 6 = 1#6 ∧ w.extractLsb' 0 4 = 0#4 then some (.coBcast (w.extractLsb' 11 5) (w.extractLsb' 6 5) (w.extractLsb' 4 2))
  else if w.extractLsb' 22 4 = 2#4 ∧ w.extractLsb' 16 6 = 2#6 ∧ w.extractLsb' 0 4 = 0#4 then some (.coAr (w.extractLsb' 11 5) (w.extractLsb' 6 5) (w.extractLsb' 4 2))
  else if w.extractLsb' 22 4 = 3#4 ∧ w.extractLsb' 16 6 = 0#6 ∧ w.extractLsb' 4 2 = 0#2 ∧ w.extractLsb' 0 4 = 0#4 then some (.mm (w.extractLsb' 11 5) (w.extractLsb' 6 5))
  else if w.extractLsb' 22 4 = 3#4 ∧ w.extractLsb' 16 6 = 1#6 ∧ w.extractLsb' 4 2 = 0#2 ∧ w.extractLsb' 0 4 = 0#4 then some (.mms (w.extractLsb' 11 5) (w.extractLsb' 6 5))
  else if w.extractLsb' 22 4 = 3#4 ∧ w.extractLsb' 16 6 = 2#6 ∧ w.extractLsb' 4 2 = 0#2 ∧ w.extractLsb' 0 4 = 0#4 then some (.mmp (w.extractLsb' 11 5) (w.extractLsb' 6 5))
  else if w.extractLsb' 22 4 = 3#4 ∧ w.extractLsb' 16 6 = 3#6 ∧ w.extractLsb' 6 5 = 0#5 ∧ w.extractLsb' 4 2 = 0#2 ∧ w.extractLsb' 0 4 = 0#4 then some (.mzero (w.extractLsb' 11 5))
  else if w.extractLsb' 22 4 = 3#4 ∧ w.extractLsb' 16 6 = 4#6 ∧ w.extractLsb' 4 2 = 0#2 then some (.macr (w.extractLsb' 11 5) (w.extractLsb' 6 5) (w.extractLsb' 0 4))
  else if w.extractLsb' 22 4 = 3#4 ∧ w.extractLsb' 16 6 = 5#6 ∧ w.extractLsb' 4 2 = 0#2 ∧ w.extractLsb' 0 4 = 0#4 then some (.macw (w.extractLsb' 11 5) (w.extractLsb' 6 5))
  else if w.extractLsb' 22 4 = 3#4 ∧ w.extractLsb' 16 6 = 6#6 ∧ w.extractLsb' 4 2 = 0#2 ∧ w.extractLsb' 0 4 = 0#4 then some (.macst (w.extractLsb' 11 5) (w.extractLsb' 6 5))
  else if w.extractLsb' 22 4 = 3#4 ∧ w.extractLsb' 16 6 = 7#6 ∧ w.extractLsb' 6 5 = 0#5 ∧ w.extractLsb' 4 2 = 0#2 ∧ w.extractLsb' 0 4 = 0#4 then some (.mcmdCheck (w.extractLsb' 11 5))
  else if w.extractLsb' 22 4 = 3#4 ∧ w.extractLsb' 16 6 = 8#6 ∧ w.extractLsb' 4 2 = 0#2 ∧ w.extractLsb' 0 4 = 0#4 then some (.mringPop (w.extractLsb' 11 5) (w.extractLsb' 6 5))
  else if w.extractLsb' 22 4 = 3#4 ∧ w.extractLsb' 16 6 = 9#6 ∧ w.extractLsb' 11 5 = 0#5 ∧ w.extractLsb' 6 5 = 0#5 ∧ w.extractLsb' 4 2 = 0#2 ∧ w.extractLsb' 0 4 = 0#4 then some (.mwait)
  else if w.extractLsb' 22 4 = 4#4 ∧ w.extractLsb' 16 6 = 0#6 ∧ w.extractLsb' 4 2 = 0#2 ∧ w.extractLsb' 0 4 = 0#4 then some (.lnTask (w.extractLsb' 11 5) (w.extractLsb' 6 5))
  else if w.extractLsb' 22 4 = 4#4 ∧ w.extractLsb' 16 6 = 1#6 ∧ w.extractLsb' 4 2 = 0#2 ∧ w.extractLsb' 0 4 = 0#4 then some (.lnGraph (w.extractLsb' 11 5) (w.extractLsb' 6 5))
  else if w.extractLsb' 22 4 = 4#4 ∧ w.extractLsb' 16 6 = 2#6 ∧ w.extractLsb' 4 2 = 0#2 ∧ w.extractLsb' 0 4 = 0#4 then some (.lnPhase (w.extractLsb' 11 5) (w.extractLsb' 6 5))
  else if w.extractLsb' 22 4 = 4#4 ∧ w.extractLsb' 16 6 = 3#6 ∧ w.extractLsb' 4 2 = 0#2 ∧ w.extractLsb' 0 4 = 0#4 then some (.lnCancel (w.extractLsb' 11 5) (w.extractLsb' 6 5))
  else if w.extractLsb' 22 4 = 4#4 ∧ w.extractLsb' 16 6 = 4#6 ∧ w.extractLsb' 4 2 = 0#2 ∧ w.extractLsb' 0 4 = 0#4 then some (.lnWait (w.extractLsb' 11 5) (w.extractLsb' 6 5))
  else if w.extractLsb' 22 4 = 5#4 ∧ w.extractLsb' 16 6 = 0#6 ∧ w.extractLsb' 6 5 = 0#5 ∧ w.extractLsb' 4 2 = 0#2 ∧ w.extractLsb' 0 4 = 0#4 then some (.rpRec (w.extractLsb' 11 5))
  else if w.extractLsb' 22 4 = 5#4 ∧ w.extractLsb' 16 6 = 1#6 ∧ w.extractLsb' 4 2 = 0#2 ∧ w.extractLsb' 0 4 = 0#4 then some (.rpRun (w.extractLsb' 11 5) (w.extractLsb' 6 5))
  else if w.extractLsb' 22 4 = 6#4 ∧ w.extractLsb' 16 6 = 0#6 ∧ w.extractLsb' 4 2 = 0#2 ∧ w.extractLsb' 0 4 = 0#4 then some (.wxld (w.extractLsb' 11 5) (w.extractLsb' 6 5))
  else if w.extractLsb' 22 4 = 6#4 ∧ w.extractLsb' 16 6 = 1#6 ∧ w.extractLsb' 6 5 = 0#5 ∧ w.extractLsb' 4 2 = 0#2 ∧ w.extractLsb' 0 4 = 0#4 then some (.wxrel (w.extractLsb' 11 5))
  else if w.extractLsb' 22 4 = 6#4 ∧ w.extractLsb' 16 6 = 2#6 ∧ w.extractLsb' 4 2 = 0#2 ∧ w.extractLsb' 0 4 = 0#4 then some (.wxstm (w.extractLsb' 11 5) (w.extractLsb' 6 5))
  else if w.extractLsb' 22 4 = 6#4 ∧ w.extractLsb' 16 6 = 3#6 ∧ w.extractLsb' 6 5 = 0#5 ∧ w.extractLsb' 4 2 = 0#2 ∧ w.extractLsb' 0 4 = 0#4 then some (.wxdet (w.extractLsb' 11 5))
  else if w.extractLsb' 22 4 = 6#4 ∧ w.extractLsb' 16 6 = 4#6 ∧ w.extractLsb' 4 2 = 0#2 then some (.wxqry (w.extractLsb' 11 5) (w.extractLsb' 6 5) (w.extractLsb' 0 4))
  else if w.extractLsb' 22 4 = 15#4 ∧ w.extractLsb' 16 6 = 0#6 ∧ w.extractLsb' 4 2 = 0#2 then some (.enStat (w.extractLsb' 11 5) (w.extractLsb' 6 5) (w.extractLsb' 0 4))
  else none

/-- Major 0x29, format V (R146). -/
def decode29 (w : IWord) : Option Instr :=
  some (.wax (w.extractLsb' 21 5) (w.extractLsb' 16 5) (w.extractLsb' 11 5) (w.extractLsb' 7 4) (w.extractLsb' 4 3) (w.extractLsb' 0 4))

/-- The row of a word, before the checks of WellFormed (R146). -/
def decodeRow (w : IWord) : Option Instr :=
  match (w.extractLsb' 26 6).toNat with
  | 0x01 => decode01 w
  | 0x02 => decode02 w
  | 0x03 => decode03 w
  | 0x04 => decode04 w
  | 0x05 => decode05 w
  | 0x06 => decode06 w
  | 0x07 => decode07 w
  | 0x08 => decode08 w
  | 0x09 => decode09 w
  | 0x0A => decode0A w
  | 0x0B => decode0B w
  | 0x0C => decode0C w
  | 0x0D => decode0D w
  | 0x0E => decode0E w
  | 0x0F => decode0F w
  | 0x10 => decode10 w
  | 0x11 => decode11 w
  | 0x12 => decode12 w
  | 0x13 => decode13 w
  | 0x14 => decode14 w
  | 0x15 => decode15 w
  | 0x16 => decode16 w
  | 0x17 => decode17 w
  | 0x18 => decode18 w
  | 0x19 => decode19 w
  | 0x1A => decode1A w
  | 0x1B => decode1B w
  | 0x1C => decode1C w
  | 0x1D => decode1D w
  | 0x1E => decode1E w
  | 0x1F => decode1F w
  | 0x20 => decode20 w
  | 0x21 => decode21 w
  | 0x22 => decode22 w
  | 0x23 => decode23 w
  | 0x24 => decode24 w
  | 0x25 => decode25 w
  | 0x26 => decode26 w
  | 0x27 => decode27 w
  | 0x28 => decode28 w
  | 0x29 => decode29 w
  | _ => none

/-- Decode one instruction word (R147): the zero word, a reserved encoding, or an instruction. -/
def decode (w : IWord) : Decoded :=
  if w = 0 then .zeroWord
  else match decodeRow w with
    | some i => if wellFormed i then .ok i else .reserved
    | none => .reserved

/-- The little-endian word of four bytes, the first at the lowest address (R144). -/
def wordOfBytes : List Byte → IWord
  | b0 :: b1 :: b2 :: b3 :: _ => b3 ++ b2 ++ b1 ++ b0
  | _ => 0

/-- The four bytes of a word, the first at the lowest address (R144). -/
def bytesOfWord (w : IWord) : List Byte :=
  [w.extractLsb' 0 8, w.extractLsb' 8 8, w.extractLsb' 16 8, w.extractLsb' 24 8]

/-- The instruction the decoder reads from the table's numbering of bits: every word is 32 bits and
little-endian, so bit 0 of the word is bit 0 of the table's number. -/
def decodeTableWord (nbits w : Nat) : Option Instr :=
  if 32 < nbits then none
  else match decode (wordOfBytes (bytesOfWord (BitVec.ofNat 32 w))) with
    | .ok i => some i
    | _ => none

/-- Steps of one word: a row that the table lists under another row's word reads back as that row
(UPRET and its vacating form, ERET and its restoring form, the kinds of TLBINV, MCMD and MRING are
told apart by a register's value when they execute: R180, R309, R327, R251, R252). -/
def firstRow : Instr → Instr
  | .upretVacate a => .upret a
  | .eretRestore a => .eret a
  | .tlbinvVf a b => .tlbinvPage a b
  | .tlbinvGpa a b => .tlbinvPage a b
  | .tlbinvAll a b => .tlbinvPage a b
  | .mcmdZall a => .mcmdCheck a
  | .mcmdPcancel a => .mcmdCheck a
  | .mringPush a b => .mringPop a b
  | .mringReset a b => .mringPop a b
  | i => i

/-- The word of an instruction, from R144's formats and R146's map; none for a step that has no word. -/
def encode : Instr → Option IWord
  | .add d a b => some (1#6 ++ d ++ a ++ b ++ 0#7 ++ 0#4)
  | .sub d a b => some (1#6 ++ d ++ a ++ b ++ 1#7 ++ 0#4)
  | .and d a b => some (1#6 ++ d ++ a ++ b ++ 2#7 ++ 0#4)
  | .or d a b => some (1#6 ++ d ++ a ++ b ++ 3#7 ++ 0#4)
  | .xor d a b => some (1#6 ++ d ++ a ++ b ++ 4#7 ++ 0#4)
  | .sll d a b => some (1#6 ++ d ++ a ++ b ++ 5#7 ++ 0#4)
  | .srl d a b => some (1#6 ++ d ++ a ++ b ++ 6#7 ++ 0#4)
  | .sra d a b => some (1#6 ++ d ++ a ++ b ++ 7#7 ++ 0#4)
  | .slt d a b => some (1#6 ++ d ++ a ++ b ++ 8#7 ++ 0#4)
  | .slo d a b => some (1#6 ++ d ++ a ++ b ++ 9#7 ++ 0#4)
  | .mul d a b la => some (1#6 ++ d ++ a ++ b ++ 10#7 ++ la)
  | .mulh d a b la => some (1#6 ++ d ++ a ++ b ++ 11#7 ++ la)
  | .mulhz d a b la => some (1#6 ++ d ++ a ++ b ++ 12#7 ++ la)
  | .div d a b la => some (1#6 ++ d ++ a ++ b ++ 13#7 ++ la)
  | .divz d a b la => some (1#6 ++ d ++ a ++ b ++ 14#7 ++ la)
  | .rem d a b la => some (1#6 ++ d ++ a ++ b ++ 15#7 ++ la)
  | .remz d a b la => some (1#6 ++ d ++ a ++ b ++ 16#7 ++ la)
  | .min d a b => some (1#6 ++ d ++ a ++ b ++ 17#7 ++ 0#4)
  | .max d a b => some (1#6 ++ d ++ a ++ b ++ 18#7 ++ 0#4)
  | .minz d a b => some (1#6 ++ d ++ a ++ b ++ 19#7 ++ 0#4)
  | .maxz d a b => some (1#6 ++ d ++ a ++ b ++ 20#7 ++ 0#4)
  | .clz d a => some (1#6 ++ d ++ a ++ 0#5 ++ 21#7 ++ 0#4)
  | .popc d a => some (1#6 ++ d ++ a ++ 0#5 ++ 22#7 ++ 0#4)
  | .bfx d a b => some (1#6 ++ d ++ a ++ b ++ 23#7 ++ 0#4)
  | .bfi d a b => some (1#6 ++ d ++ a ++ b ++ 24#7 ++ 0#4)
  | .sel d a b => some (1#6 ++ d ++ a ++ b ++ 25#7 ++ 0#4)
  | .addi d a imm => some (2#6 ++ d ++ a ++ imm)
  | .andi d a imm => some (3#6 ++ d ++ a ++ imm)
  | .ori d a imm => some (4#6 ++ d ++ a ++ imm)
  | .xori d a imm => some (5#6 ++ d ++ a ++ imm)
  | .slti d a imm => some (6#6 ++ d ++ a ++ imm)
  | .slli d a n => some (7#6 ++ d ++ a ++ (0#10 ++ n))
  | .srli d a n => some (7#6 ++ d ++ a ++ (1#10 ++ n))
  | .srai d a n => some (7#6 ++ d ++ a ++ (2#10 ++ n))
  | .lui d imm => some (8#6 ++ d ++ imm)
  | .auipc d imm => some (9#6 ++ d ++ imm)
  | .beq a b off => some (10#6 ++ a ++ b ++ off)
  | .bne a b off => some (11#6 ++ a ++ b ++ off)
  | .blt a b off => some (12#6 ++ a ++ b ++ off)
  | .bge a b off => some (13#6 ++ a ++ b ++ off)
  | .blo a b off => some (14#6 ++ a ++ b ++ off)
  | .bhs a b off => some (15#6 ++ a ++ b ++ off)
  | .jal d off => some (16#6 ++ d ++ off)
  | .jalr d a imm => some (17#6 ++ d ++ a ++ imm)
  | .loop d a imm => some (18#6 ++ d ++ a ++ imm)
  | .start d a b => some (19#6 ++ d ++ a ++ b ++ 0#7 ++ 0#4)
  | .halt a => some (19#6 ++ 0#5 ++ a ++ 0#5 ++ 1#7 ++ 0#4)
  | .yield d => some (19#6 ++ d ++ 0#5 ++ 0#5 ++ 2#7 ++ 0#4)
  | .upret a => some (19#6 ++ 0#5 ++ a ++ 0#5 ++ 3#7 ++ 0#4)
  | .upretVacate a => some (19#6 ++ 0#5 ++ a ++ 0#5 ++ 3#7 ++ 0#4)
  | .bqe a b off => some (20#6 ++ a ++ b ++ off)
  | .ldB d a off la => some (21#6 ++ d ++ a ++ off ++ 0#3 ++ la)
  | .ldBz d a off la => some (21#6 ++ d ++ a ++ off ++ 1#3 ++ la)
  | .ldH d a off la => some (21#6 ++ d ++ a ++ off ++ 2#3 ++ la)
  | .ldHz d a off la => some (21#6 ++ d ++ a ++ off ++ 3#3 ++ la)
  | .ldW d a off la => some (21#6 ++ d ++ a ++ off ++ 4#3 ++ la)
  | .ldWz d a off la => some (21#6 ++ d ++ a ++ off ++ 5#3 ++ la)
  | .ldD d a off la => some (21#6 ++ d ++ a ++ off ++ 6#3 ++ la)
  | .ldRo d a off la => some (21#6 ++ d ++ a ++ off ++ 7#3 ++ la)
  | .stB b a off => some (22#6 ++ b ++ a ++ off ++ 0#3 ++ 0#4)
  | .stH b a off => some (22#6 ++ b ++ a ++ off ++ 1#3 ++ 0#4)
  | .stW b a off => some (22#6 ++ b ++ a ++ off ++ 2#3 ++ 0#4)
  | .stD b a off => some (22#6 ++ b ++ a ++ off ++ 3#3 ++ 0#4)
  | .stNt b a off => some (22#6 ++ b ++ a ++ off ++ 4#3 ++ 0#4)
  | .pref a => some (23#6 ++ 0#5 ++ a ++ 0#5 ++ 0#7 ++ 0#4)
  | .flush cc a => some (23#6 ++ (0#3 ++ cc) ++ a ++ 0#5 ++ 1#7 ++ 0#4)
  | .inval cc a => some (23#6 ++ (0#3 ++ cc) ++ a ++ 0#5 ++ 2#7 ++ 0#4)
  | .ldv d a off la => some (24#6 ++ d ++ a ++ off ++ 6#3 ++ la)
  | .vrec a b => some (25#6 ++ 0#5 ++ a ++ b ++ 0#7 ++ 0#4)
  | .valid d la => some (25#6 ++ d ++ 0#5 ++ 0#5 ++ 1#7 ++ la)
  | .vclr => some (25#6 ++ 0#5 ++ 0#5 ++ 0#5 ++ 2#7 ++ 0#4)
  | .casv d a b la => some (25#6 ++ d ++ a ++ b ++ 3#7 ++ la)
  | .cas d a b la => some (25#6 ++ d ++ a ++ b ++ 4#7 ++ la)
  | .amoAdd d a b w sc la => some (26#6 ++ d ++ a ++ b ++ (0#1 ++ w ++ sc ++ 0#3) ++ la)
  | .amoAnd d a b w sc la => some (26#6 ++ d ++ a ++ b ++ (0#1 ++ w ++ sc ++ 1#3) ++ la)
  | .amoOr d a b w sc la => some (26#6 ++ d ++ a ++ b ++ (0#1 ++ w ++ sc ++ 2#3) ++ la)
  | .amoXor d a b w sc la => some (26#6 ++ d ++ a ++ b ++ (0#1 ++ w ++ sc ++ 3#3) ++ la)
  | .amoMin d a b w sc la => some (26#6 ++ d ++ a ++ b ++ (0#1 ++ w ++ sc ++ 4#3) ++ la)
  | .amoMax d a b w sc la => some (26#6 ++ d ++ a ++ b ++ (0#1 ++ w ++ sc ++ 5#3) ++ la)
  | .amoSwap d a b w sc la => some (26#6 ++ d ++ a ++ b ++ (0#1 ++ w ++ sc ++ 6#3) ++ la)
  | .amoXadd d a b sc la => some (26#6 ++ d ++ a ++ b ++ (0#2 ++ sc ++ 7#3) ++ la)
  | .fenceRel sc => some (27#6 ++ 0#5 ++ 0#5 ++ 0#5 ++ (0#3 ++ sc ++ 1#2) ++ 0#4)
  | .fenceAcq sc => some (27#6 ++ 0#5 ++ 0#5 ++ 0#5 ++ (0#3 ++ sc ++ 2#2) ++ 0#4)
  | .fenceAr sc => some (27#6 ++ 0#5 ++ 0#5 ++ 0#5 ++ (0#3 ++ sc ++ 3#2) ++ 0#4)
  | .evw d a => some (28#6 ++ d ++ a ++ 0#5 ++ 0#7 ++ 0#4)
  | .evs a => some (28#6 ++ 0#5 ++ a ++ 0#5 ++ 1#7 ++ 0#4)
  | .bar a => some (28#6 ++ 0#5 ++ a ++ 0#5 ++ 2#7 ++ 0#4)
  | .fillw d a b => some (28#6 ++ d ++ a ++ b ++ 3#7 ++ 0#4)
  | .fillt d a => some (28#6 ++ d ++ a ++ 0#5 ++ 4#7 ++ 0#4)
  | .filla d a b => some (28#6 ++ d ++ a ++ b ++ 5#7 ++ 0#4)
  | .tsync d => some (28#6 ++ d ++ 0#5 ++ 0#5 ++ 6#7 ++ 0#4)
  | .mfs d n => some (29#6 ++ d ++ 0#5 ++ (0#4 ++ n))
  | .mts a n => some (30#6 ++ 0#5 ++ a ++ (0#4 ++ n))
  | .trap a => some (31#6 ++ 0#5 ++ a ++ 0#5 ++ 0#7 ++ 0#4)
  | .eret a => some (31#6 ++ 0#5 ++ a ++ 0#5 ++ 1#7 ++ 0#4)
  | .eretRestore a => some (31#6 ++ 0#5 ++ a ++ 0#5 ++ 1#7 ++ 0#4)
  | .tlbw a b => some (31#6 ++ 0#5 ++ a ++ b ++ 2#7 ++ 0#4)
  | .tlbinvPage a b => some (31#6 ++ 0#5 ++ a ++ b ++ 3#7 ++ 0#4)
  | .tlbinvVf a b => some (31#6 ++ 0#5 ++ a ++ b ++ 3#7 ++ 0#4)
  | .tlbinvGpa a b => some (31#6 ++ 0#5 ++ a ++ b ++ 3#7 ++ 0#4)
  | .tlbinvAll a b => some (31#6 ++ 0#5 ++ a ++ b ++ 3#7 ++ 0#4)
  | .chold d a => some (32#6 ++ d ++ a ++ 0#5 ++ 0#7 ++ 0#4)
  | .cfloor d a => some (32#6 ++ d ++ a ++ 0#5 ++ 1#7 ++ 0#4)
  | .cload d a => some (32#6 ++ d ++ a ++ 0#5 ++ 2#7 ++ 0#4)
  | .ccede d a => some (32#6 ++ d ++ a ++ 0#5 ++ 3#7 ++ 0#4)
  | .vadd v a b ext la => some (33#6 ++ v ++ a ++ b ++ ext ++ 0#3 ++ la)
  | .vsub v a b ext la => some (33#6 ++ v ++ a ++ b ++ ext ++ 1#3 ++ la)
  | .vmul v a b ext la => some (33#6 ++ v ++ a ++ b ++ ext ++ 2#3 ++ la)
  | .vfma v a b ext la => some (33#6 ++ v ++ a ++ b ++ ext ++ 3#3 ++ la)
  | .vfms v a b ext la => some (33#6 ++ v ++ a ++ b ++ ext ++ 4#3 ++ la)
  | .vdiv v a b ext la => some (33#6 ++ v ++ a ++ b ++ ext ++ 5#3 ++ la)
  | .vsqrt v a ext la => some (33#6 ++ v ++ a ++ 0#5 ++ ext ++ 6#3 ++ la)
  | .vmin v a b ext la => some (33#6 ++ v ++ a ++ b ++ ext ++ 7#3 ++ la)
  | .vmax v a b ext la => some (34#6 ++ v ++ a ++ b ++ ext ++ 0#3 ++ la)
  | .vabs v a ext la => some (34#6 ++ v ++ a ++ 0#5 ++ ext ++ 1#3 ++ la)
  | .vneg v a ext la => some (34#6 ++ v ++ a ++ 0#5 ++ ext ++ 2#3 ++ la)
  | .vcmp cc m a b ext la => some (34#6 ++ (cc ++ m) ++ a ++ b ++ ext ++ 3#3 ++ la)
  | .vand v a b ext la => some (34#6 ++ v ++ a ++ b ++ ext ++ 4#3 ++ la)
  | .vor v a b ext la => some (34#6 ++ v ++ a ++ b ++ ext ++ 5#3 ++ la)
  | .vxor v a b ext la => some (34#6 ++ v ++ a ++ b ++ ext ++ 6#3 ++ la)
  | .vshl v a b ext la => some (34#6 ++ v ++ a ++ b ++ ext ++ 7#3 ++ la)
  | .vshr v a b ext la => some (35#6 ++ v ++ a ++ b ++ ext ++ 0#3 ++ la)
  | .vsra v a b ext la => some (35#6 ++ v ++ a ++ b ++ ext ++ 1#3 ++ la)
  | .vmov v a ext la => some (35#6 ++ v ++ a ++ 0#5 ++ ext ++ 2#3 ++ la)
  | .vbcast v a ext la => some (35#6 ++ v ++ a ++ 0#5 ++ ext ++ 3#3 ++ la)
  | .vsel v a b ext la => some (35#6 ++ v ++ a ++ b ++ ext ++ 4#3 ++ la)
  | .vperm v a b ext la => some (35#6 ++ v ++ a ++ b ++ ext ++ 5#3 ++ la)
  | .vswz v a p ext la => some (35#6 ++ v ++ a ++ p ++ ext ++ 6#3 ++ la)
  | .vext d a b la => some (35#6 ++ d ++ a ++ b ++ 0#4 ++ 7#3 ++ la)
  | .vextMask d m la => some (35#6 ++ d ++ (0#2 ++ m) ++ 0#5 ++ 1#4 ++ 7#3 ++ la)
  | .vins v a b la => some (36#6 ++ v ++ a ++ b ++ 0#4 ++ 0#3 ++ la)
  | .vinsMask m a la => some (36#6 ++ (0#2 ++ m) ++ a ++ 0#5 ++ 1#4 ++ 0#3 ++ la)
  | .vld v a b ext la => some (36#6 ++ v ++ a ++ b ++ ext ++ 1#3 ++ la)
  | .vst v a b ext => some (36#6 ++ v ++ a ++ b ++ ext ++ 2#3 ++ 0#4)
  | .vldtm v a b ext la => some (36#6 ++ v ++ a ++ b ++ ext ++ 3#3 ++ la)
  | .vsttm v a b ext => some (36#6 ++ v ++ a ++ b ++ ext ++ 4#3 ++ 0#4)
  | .vgath v a b ext la => some (36#6 ++ v ++ a ++ b ++ ext ++ 5#3 ++ la)
  | .vscat v a b ext => some (36#6 ++ v ++ a ++ b ++ ext ++ 6#3 ++ 0#4)
  | .vcvt v a ext la => some (36#6 ++ v ++ a ++ 0#5 ++ ext ++ 7#3 ++ la)
  | .vpack v a ext la => some (37#6 ++ v ++ a ++ 0#5 ++ ext ++ 0#3 ++ la)
  | .vunpk v a ext la => some (37#6 ++ v ++ a ++ 0#5 ++ ext ++ 1#3 ++ la)
  | .vqnt v a b ext la => some (37#6 ++ v ++ a ++ b ++ ext ++ 2#3 ++ la)
  | .vred v a p ext la => some (37#6 ++ v ++ a ++ p ++ ext ++ 3#3 ++ la)
  | .vdot v a b ext la => some (37#6 ++ v ++ a ++ b ++ ext ++ 4#3 ++ la)
  | .vrng v ext la => some (37#6 ++ v ++ 0#5 ++ 0#5 ++ ext ++ 5#3 ++ la)
  | .vcls m a cset ext la => some (37#6 ++ (0#2 ++ m) ++ a ++ cset ++ ext ++ 6#3 ++ la)
  | .vtbl v a b ext la => some (37#6 ++ v ++ a ++ b ++ ext ++ 7#3 ++ la)
  | .vbfly v a b ext la => some (38#6 ++ v ++ a ++ b ++ ext ++ 0#3 ++ la)
  | .vcnt v a p ext la => some (38#6 ++ v ++ a ++ p ++ ext ++ 1#3 ++ la)
  | .vscan v a p ext la => some (38#6 ++ v ++ a ++ p ++ ext ++ 2#3 ++ la)
  | .fmt f g r t m k => some (39#6 ++ f ++ g ++ r ++ t ++ 0#1 ++ m ++ k ++ 0#6)
  | .cpGo a b sc => some (40#6 ++ 0#4 ++ 0#6 ++ a ++ b ++ sc ++ 0#4)
  | .cpLand a b => some (40#6 ++ 0#4 ++ 1#6 ++ a ++ b ++ 0#2 ++ 0#4)
  | .cpTm a b => some (40#6 ++ 0#4 ++ 2#6 ++ a ++ b ++ 0#2 ++ 0#4)
  | .gaGo a b sc => some (40#6 ++ 1#4 ++ 0#6 ++ a ++ b ++ sc ++ 0#4)
  | .scGo a b sc => some (40#6 ++ 1#4 ++ 1#6 ++ a ++ b ++ sc ++ 0#4)
  | .coRed a b sc => some (40#6 ++ 2#4 ++ 0#6 ++ a ++ b ++ sc ++ 0#4)
  | .coBcast a b sc => some (40#6 ++ 2#4 ++ 1#6 ++ a ++ b ++ sc ++ 0#4)
  | .coAr a b sc => some (40#6 ++ 2#4 ++ 2#6 ++ a ++ b ++ sc ++ 0#4)
  | .mm a b => some (40#6 ++ 3#4 ++ 0#6 ++ a ++ b ++ 0#2 ++ 0#4)
  | .mms a b => some (40#6 ++ 3#4 ++ 1#6 ++ a ++ b ++ 0#2 ++ 0#4)
  | .mmp a b => some (40#6 ++ 3#4 ++ 2#6 ++ a ++ b ++ 0#2 ++ 0#4)
  | .mzero a => some (40#6 ++ 3#4 ++ 3#6 ++ a ++ 0#5 ++ 0#2 ++ 0#4)
  | .macr v b la => some (40#6 ++ 3#4 ++ 4#6 ++ v ++ b ++ 0#2 ++ la)
  | .macw v b => some (40#6 ++ 3#4 ++ 5#6 ++ v ++ b ++ 0#2 ++ 0#4)
  | .macst a b => some (40#6 ++ 3#4 ++ 6#6 ++ a ++ b ++ 0#2 ++ 0#4)
  | .mcmdCheck a => some (40#6 ++ 3#4 ++ 7#6 ++ a ++ 0#5 ++ 0#2 ++ 0#4)
  | .mcmdZall a => some (40#6 ++ 3#4 ++ 7#6 ++ a ++ 0#5 ++ 0#2 ++ 0#4)
  | .mcmdPcancel a => some (40#6 ++ 3#4 ++ 7#6 ++ a ++ 0#5 ++ 0#2 ++ 0#4)
  | .mringPop a b => some (40#6 ++ 3#4 ++ 8#6 ++ a ++ b ++ 0#2 ++ 0#4)
  | .mringPush a b => some (40#6 ++ 3#4 ++ 8#6 ++ a ++ b ++ 0#2 ++ 0#4)
  | .mringReset a b => some (40#6 ++ 3#4 ++ 8#6 ++ a ++ b ++ 0#2 ++ 0#4)
  | .mwait => some (40#6 ++ 3#4 ++ 9#6 ++ 0#5 ++ 0#5 ++ 0#2 ++ 0#4)
  | .lnTask a b => some (40#6 ++ 4#4 ++ 0#6 ++ a ++ b ++ 0#2 ++ 0#4)
  | .lnGraph a b => some (40#6 ++ 4#4 ++ 1#6 ++ a ++ b ++ 0#2 ++ 0#4)
  | .lnPhase a b => some (40#6 ++ 4#4 ++ 2#6 ++ a ++ b ++ 0#2 ++ 0#4)
  | .lnCancel a b => some (40#6 ++ 4#4 ++ 3#6 ++ a ++ b ++ 0#2 ++ 0#4)
  | .lnWait a b => some (40#6 ++ 4#4 ++ 4#6 ++ a ++ b ++ 0#2 ++ 0#4)
  | .rpRec a => some (40#6 ++ 5#4 ++ 0#6 ++ a ++ 0#5 ++ 0#2 ++ 0#4)
  | .rpRun a b => some (40#6 ++ 5#4 ++ 1#6 ++ a ++ b ++ 0#2 ++ 0#4)
  | .wxld a b => some (40#6 ++ 6#4 ++ 0#6 ++ a ++ b ++ 0#2 ++ 0#4)
  | .wxrel a => some (40#6 ++ 6#4 ++ 1#6 ++ a ++ 0#5 ++ 0#2 ++ 0#4)
  | .wxstm a b => some (40#6 ++ 6#4 ++ 2#6 ++ a ++ b ++ 0#2 ++ 0#4)
  | .wxdet a => some (40#6 ++ 6#4 ++ 3#6 ++ a ++ 0#5 ++ 0#2 ++ 0#4)
  | .wxqry d b la => some (40#6 ++ 6#4 ++ 4#6 ++ d ++ b ++ 0#2 ++ la)
  | .enStat d b la => some (40#6 ++ 15#4 ++ 0#6 ++ d ++ b ++ 0#2 ++ la)
  | .wax v a b ext n la => some (41#6 ++ v ++ a ++ b ++ ext ++ n ++ la)
  | .ctxFtWrite a => some (30#6 ++ 0#5 ++ a ++ 0#4 ++ 0x010#12)
  | .ringRegisterWrite a n => some (30#6 ++ 0#5 ++ a ++ 0#4 ++ n)
  | .mgrpWrite a => some (30#6 ++ 0#5 ++ a ++ 0#4 ++ 0x241#12)
  | .fflagsAccess true r => some (30#6 ++ 0#5 ++ r ++ 0#4 ++ 0x020#12)
  | .fflagsAccess false r => some (29#6 ++ r ++ 0#5 ++ 0#4 ++ 0x020#12)
  | .trapSuppRead d => some (29#6 ++ d ++ 0#5 ++ 0#4 ++ 0x451#12)
  | .sKillWrite a => some (30#6 ++ 0#5 ++ a ++ 0#4 ++ 0x44F#12)
  | .hvTagWrite a => some (30#6 ++ 0#5 ++ a ++ 0#4 ++ 0x808#12)
  | .shootdownComplete _ => none
  | .vectorExecute _ => none
  | .replayPush _ => none
  | .waxLoadComplete _ => none
  | .streamStart _ => none
  | .streamEnd _ => none
  | .engineAccept _ => none
  | .matrixCommandStart _ => none
  | .matrixCommandRetire _ => none
  | .mmpPairCommit _ => none
  | .mmpPairTimeout _ => none
  | .collectiveComplete _ _ => none
  | .fillWordArrival _ _ _ _ => none
  | .engineWriteHome _ => none
  | .homeAccess _ => none
  | .l1Writeback _ _ => none
  | .writeCombineDrain _ => none
  | .l2Eviction _ => none
  | .taskDispatch _ => none
  | .launchAging _ _ _ => none
  | .helperTaskStart _ => none
  | .taskCommit _ => none
  | .successorDispatchable _ => none
  | .taskFaultRecord _ => none
  | .waggleBoundary => none
  | .cedeRequestExpiry _ => none
  | .lossGraceExpiry _ => none
  | .handoverDrainComplete _ => none
  | .upcallEntry _ => none
  | .lateCauseReport _ => none
  | .singleStepTrap _ => none
  | .sliceExpiry _ => none
  | .budgetExceeded _ => none
  | .contextSave _ => none
  | .tagDrainComplete _ => none
  | .eventArrival _ _ => none
  | .barrierArrival _ _ _ => none
  | .superstepBoundary _ _ => none
  | .linkValueArrival _ _ => none
  | .tlbMissRecord _ => none
  | .pinSwitchComplete _ => none
  | .calendarApply _ => none
  | .routeEntryApply _ => none
  | .pciePostedWrite _ => none
  | .pcieUnsupportedRequest _ _ => none
  | .milayPortDown _ => none
  | .milayAccessTimeout _ => none
  | .uncorrectableTileError _ => none
  | .tenantCreate _ => none
  | .tenantStart _ => none
  | .tenantSave _ => none
  | .tenantResume _ => none
  | .tenantTeardown _ => none
  | .tenantMigrateOut _ => none
  | .tenantMigrateIn _ => none
  | .tenantCheckpoint _ => none
  | .tenantRollBack _ => none
  | .tenantReservedCommand _ _ => none
  | .checkpointStepComplete _ => none
  | .migrationDone _ _ => none
  | .jobGo _ _ => none
  | .jobEnd _ _ => none
  | .semRead _ _ => none
  | .semRelease _ => none
  | .semTimeout => none
  | .getInfo _ _ => none
  | .getRetire _ _ => none
  | .stageBlob _ _ _ _ => none
  | .commitBlob _ _ => none
  | .retire _ _ _ => none
  | .reset _ _ => none
  | .spdm _ _ _ => none
  | .eventQueueRead _ => none
  | .eventPost _ => none
  | .msixPost _ => none
  | .getVersion _ _ => none
  | .getCapabilities _ _ => none
  | .negotiateAlgorithms _ _ => none
  | .getDigests _ _ => none
  | .getCertificate _ _ => none
  | .challenge _ _ => none
  | .getMeasurements _ _ => none
  | .coldReset => none
  | .warmReset => none
  | .flrVf _ => none
  | .flrPf0 => none
  | .flrPeer => none
  | .thermalTrip => none
  | .elasticReturnComplete _ => none
  | .tlbEntryEviction _ _ _ => none
  | .engineCommandComplete _ _ => none
  | .milayPortTrained _ => none
  | .pcieCompletion _ => none
  | .milayAcknowledgement _ => none
  | .peerShootdownRequest _ _ _ _ => none
  | .droopStretch _ _ => none
  | .l1LineEviction _ _ => none

end Sys2Proof
end

