-- ==== Sys2Proof/Machine/Flags.lean ====
section
/-! DEFINITION. Element formats, exact values, rounding with its flags, conversions and the exact
operations of the arithmetic units (R61-R84, R88, R404). -/

namespace Sys2Proof.Machine

/-- The sixteen element formats (R61). -/
inductive Fmt where
  | i8 | z8 | i16 | z16 | i32 | z32 | i64 | z64 | e4m3 | e5m2 | l6 | e8 | f16 | bf16 | f32 | f64
deriving DecidableEq, Repr

/-- The format of a code; codes 0x10-0x1F are reserved (R61, R62). -/
def Fmt.ofCode : Nat → Option Fmt
  | 0 => some .i8 | 1 => some .z8 | 2 => some .i16 | 3 => some .z16 | 4 => some .i32 | 5 => some .z32
  | 6 => some .i64 | 7 => some .z64 | 8 => some .e4m3 | 9 => some .e5m2 | 10 => some .l6
  | 11 => some .e8 | 12 => some .f16 | 13 => some .bf16 | 14 => some .f32 | 15 => some .f64
  | _ => none

/-- The width of an element in a register; L6 takes a byte (R61, R210). -/
def Fmt.width : Fmt → Nat
  | .i8 | .z8 | .e4m3 | .e5m2 | .l6 | .e8 => 8
  | .i16 | .z16 | .f16 | .bf16 => 16
  | .i32 | .z32 | .f32 => 32
  | .i64 | .z64 | .f64 => 64

/-- The eight integer formats (R62). -/
def Fmt.isInt : Fmt → Bool
  | .i8 | .z8 | .i16 | .z16 | .i32 | .z32 | .i64 | .z64 => true
  | _ => false

/-- The signed integer formats (R62). -/
def Fmt.isSigned : Fmt → Bool
  | .i8 | .i16 | .i32 | .i64 => true
  | _ => false

/-- F16, BF16, F32 and F64: class F of R217. -/
def Fmt.isIeee : Fmt → Bool
  | .f16 | .bf16 | .f32 | .f64 => true
  | _ => false

/-- Class A of R217: the integer formats and the four IEEE layouts. -/
def Fmt.classA (f : Fmt) : Bool := f.isInt || f.isIeee

/-- The two 8-bit floating formats. -/
def Fmt.isFp8 : Fmt → Bool
  | .e4m3 | .e5m2 => true
  | _ => false

/-- Fraction bits of a floating layout (R63, R67). -/
def Fmt.fracBits : Fmt → Nat
  | .f64 => 52 | .f32 => 23 | .f16 => 10 | .bf16 => 7 | .e4m3 => 3 | .e5m2 => 2 | _ => 0

/-- Exponent bits of a floating layout (R63, R67). -/
def Fmt.expBits : Fmt → Nat
  | .f64 => 11 | .f32 => 8 | .f16 => 5 | .bf16 => 8 | .e4m3 => 4 | .e5m2 => 5 | _ => 0

/-- The exponent bias (R63, R67). -/
def Fmt.bias : Fmt → Nat
  | .f64 => 1023 | .f32 => 127 | .f16 => 15 | .bf16 => 127 | .e4m3 => 7 | .e5m2 => 15 | _ => 0

/-- The five floating flags in the layout of %st.fflags (R74): nv, dz, of, uf, nx from bit 4 down. -/
abbrev Flags := BitVec 5

def Flags.none : Flags := 0
def Flags.nv : Flags := 0b10000
def Flags.dz : Flags := 0b01000
def Flags.ofl : Flags := 0b00100
def Flags.ufl : Flags := 0b00010
def Flags.nx : Flags := 0b00001

/-- An exact number: a NaN (signalling or quiet), an infinity, or plus or minus (m + t) times 2^e with
0 < t < 1 when sticky and t = 0 otherwise. A zero has m = 0 and keeps its sign. -/
inductive Num where
  | nan (sig : Bool)
  | inf (neg : Bool)
  | fin (neg : Bool) (m : Nat) (e : Int) (sticky : Bool)
deriving DecidableEq, Repr

/-- Whether an exact number is a NaN. -/
def Num.isNan : Num → Bool
  | .nan _ => true
  | _ => false

/-- Whether an exact number is an infinity. -/
def Num.isInf : Num → Bool
  | .inf _ => true
  | _ => false

/-- Whether an exact number is a zero of either sign. -/
def Num.isZero : Num → Bool
  | .fin _ m _ t => m == 0 && !t
  | _ => false

/-- The sign of an exact number; a NaN has none. -/
def Num.isNeg : Num → Bool
  | .nan _ => false
  | .inf n => n
  | .fin n _ _ _ => n

/-- NV for a signalling NaN operand (R64). -/
def Num.sigFlag : Num → Flags
  | .nan true => Flags.nv
  | _ => Flags.none

/-- An integer as an exact number. -/
def Num.ofInt (i : Int) : Num := .fin (decide (i < 0)) i.natAbs 0 false

/-- Change the sign; a NaN stays. -/
def Num.negate : Num → Num
  | .nan s => .nan s
  | .inf n => .inf (!n)
  | .fin n m e t => .fin (!n) m e t

/-- Magnitude. -/
def Num.abs : Num → Num
  | .nan s => .nan s
  | .inf _ => .inf false
  | .fin _ m e t => .fin false m e t

/-- m times 2^(e - e0), for e0 not above e. -/
def align (m : Nat) (e e0 : Int) : Nat := m <<< (e - e0).toNat

/-- Compare magnitudes of two exact finite numbers (sticky bits read as zero). -/
def cmpMag (m1 : Nat) (e1 : Int) (m2 : Nat) (e2 : Int) : Ordering :=
  let e0 := if e1 ≤ e2 then e1 else e2
  compare (align m1 e1 e0) (align m2 e2 e0)

/-- Order of two exact numbers that are not NaNs; zeros of both signs are equal. -/
def Num.cmp : Num → Num → Ordering
  | .inf n, .inf k => if n = k then .eq else if n then .lt else .gt
  | .inf n, _ => if n then .lt else .gt
  | _, .inf n => if n then .gt else .lt
  | .fin n m e _, .fin k m' e' _ =>
    if m = 0 ∧ m' = 0 then .eq
    else if n ∧ !k then (if m = 0 ∧ m' = 0 then .eq else .lt)
    else if k ∧ !n then .gt
    else if n then cmpMag m' e' m e
    else cmpMag m e m' e'
  | _, _ => .eq

/-! Magnitude codes: the nonnegative values of a format in ascending order, continued without bound
above the format's range (R77). -/

/-- The numerator of T[f] over 4096 (R69). -/
def l6T : Nat → Nat
  | 0 => 4096 | 1 => 4871 | 2 => 5793 | _ => 6889

/-- The magnitude of code c, as m times 2^e: R63 and R67 for the floating layouts, R69 for L6, the
integers otherwise. -/
def Fmt.mag (f : Fmt) (c : Nat) : Nat × Int :=
  match f with
  | .l6 =>
    if c = 0 then (0, 0)
    else
      let e : Int := (c : Int) - 16
      (l6T (e % 4).toNat, e / 4 - 12)
  | .f64 | .f32 | .f16 | .bf16 | .e4m3 | .e5m2 =>
    let p := f.fracBits
    let b : Int := f.bias
    if c < 2 ^ p then (c, 1 - b - p)
    else (2 ^ p + c % 2 ^ p, (c / 2 ^ p : Nat) - b - p)
  | _ => (c, 0)

/-- m times 2^k rounded down, for a k of either sign. -/
def shiftDown (m : Nat) (k : Int) : Nat :=
  if 0 ≤ k then m <<< k.toNat else m >>> (-k).toNat

/-- The largest code whose magnitude does not exceed m times 2^e, for m > 0. -/
def Fmt.loCode (f : Fmt) (m : Nat) (e : Int) : Nat :=
  match f with
  | .l6 =>
    let k : Int := (Nat.log2 m : Int) + e
    -- magnitudes 2^k times T: the four codes of this octave and none above
    let x := shiftDown m (e - k + 12 + 64)      -- the value over 2^k, in units of 2^-76
    let j := if 6889 * 2 ^ 64 ≤ x then 3 else if 5793 * 2 ^ 64 ≤ x then 2
      else if 4871 * 2 ^ 64 ≤ x then 1 else 0
    (4 * k + 16 + j).toNat
  | .f64 | .f32 | .f16 | .bf16 | .e4m3 | .e5m2 =>
    let p : Int := f.fracBits
    let b : Int := f.bias
    let k : Int := (Nat.log2 m : Int) + e
    if k < 1 - b then shiftDown m (e - (1 - b - p))
    else shiftDown m (e - (k - p)) - 2 ^ f.fracBits + (k + b).toNat * 2 ^ f.fracBits
  | _ => shiftDown m e

/-- The largest finite magnitude code under a top-code reading (R63, R67, R69); for an integer format
the bound of R62 is applied by the conversion instead. -/
def Fmt.maxCode (f : Fmt) (tc : Bool) : Nat :=
  match f with
  | .l6 => if tc then 30 else 31
  | .e4m3 => if tc then 0x77 else 0x7F
  | .e5m2 => if tc then 0x7B else 0x7F
  | .f16 => 0x7BFF
  | .bf16 => 0x7F7F
  | .f32 => 0x7F7FFFFF
  | .f64 => 0x7FEFFFFFFFFFFFFF
  | _ => 0

/-- The first magnitude code that is not tiny: the smallest normal, or the smallest nonzero value of L6
(R77). -/
def Fmt.tinyCode (f : Fmt) : Nat :=
  match f with
  | .l6 => 1
  | _ => 2 ^ f.fracBits

/-- Whether the format has the infinity of a sign under a reading (R63, R67, R69). -/
def Fmt.hasInf (f : Fmt) (tc neg : Bool) : Bool :=
  match f with
  | .l6 => tc && !neg
  | .e4m3 | .e5m2 => tc
  | .f16 | .bf16 | .f32 | .f64 => true
  | _ => false

/-- Whether the format has a negative zero under a reading. -/
def Fmt.hasNegZero (f : Fmt) (tc : Bool) : Bool :=
  match f with
  | .l6 | .e4m3 | .e5m2 => tc
  | .f16 | .bf16 | .f32 | .f64 => true
  | _ => false

/-- The place of the sign bit. -/
def Fmt.signBit (f : Fmt) : Nat :=
  match f with
  | .l6 => 5
  | _ => f.width - 1

/-- The code of an infinity, where the format has it. -/
def Fmt.infCode (f : Fmt) (neg : Bool) : Nat :=
  match f with
  | .l6 => 31
  | _ => (2 ^ f.expBits - 1) * 2 ^ f.fracBits + (if neg then 2 ^ f.signBit else 0)

/-- The default NaN (R63, R67, R69, R79). -/
def Fmt.nanCode (f : Fmt) (tc : Bool) : Nat :=
  match f with
  | .l6 => if tc then 0b111111 else 0b100000
  | .e4m3 | .e5m2 => if tc then 0x7F else 0x80
  | .f16 => 0x7E00
  | .bf16 => 0x7FC0
  | .f32 => 0x7FC00000
  | .f64 => 0x7FF8000000000000
  | .e8 => 0xFF
  | _ => 0

/-- A signed magnitude code; a negative zero becomes +0 where the format has none (R67, R79). -/
def Fmt.pack (f : Fmt) (tc neg : Bool) (c : Nat) : Nat :=
  if c = 0 ∧ (!neg ∨ !f.hasNegZero tc) then 0
  else c + (if neg then 2 ^ f.signBit else 0)

/-- Value(x, fmt): the exact value of an encoding under a top-code reading (R62-R72, R160). -/
def Fmt.value (f : Fmt) (tc : Bool) (x : Nat) : Num :=
  match f with
  | .i8 | .i16 | .i32 | .i64 =>
    let x := x % 2 ^ f.width
    Num.ofInt (if x < 2 ^ (f.width - 1) then (x : Int) else (x : Int) - 2 ^ f.width)
  | .z8 | .z16 | .z32 | .z64 => Num.ofInt (x % 2 ^ f.width : Nat)
  | .e8 =>
    let x := x % 256
    if x = 255 then .nan false else .fin false 1 ((x : Int) - 127) false
  | .l6 =>
    let c := x % 32
    let neg := x / 32 % 2 = 1
    if c = 0 then (if neg ∧ !tc then .nan false else .fin neg 0 0 false)
    else if c = 31 ∧ tc then (if neg then .nan false else .inf false)
    else .fin neg (f.mag c).1 (f.mag c).2 false
  | .e4m3 | .e5m2 =>
    let x := x % 256
    let c := x % 128
    let neg := 128 ≤ x
    if x = 128 ∧ !tc then .nan false
    else if tc ∧ (2 ^ f.expBits - 1) * 2 ^ f.fracBits ≤ c then
      (if c % 2 ^ f.fracBits = 0 then .inf neg else .nan false)
    else .fin neg (f.mag c).1 (f.mag c).2 false
  | .f16 | .bf16 | .f32 | .f64 =>
    let x := x % 2 ^ f.width
    let c := x % 2 ^ f.signBit
    let neg := 2 ^ f.signBit ≤ x
    if (2 ^ f.expBits - 1) * 2 ^ f.fracBits ≤ c then
      (if c % 2 ^ f.fracBits = 0 then .inf neg
       else .nan (decide (c % 2 ^ f.fracBits < 2 ^ (f.fracBits - 1))))
    else .fin neg (f.mag c).1 (f.mag c).2 false

/-! Rounding (R77, R78). -/

/-- The six rounding modes (R77). -/
inductive Rm where
  | rne | rna | rtz | rup | rdn | rsk
deriving DecidableEq, Repr

/-- The rounding mode of a code; codes 6 and 7 are not modes (R77). -/
def Rm.ofCode : Nat → Rm
  | 1 => .rna | 2 => .rtz | 3 => .rup | 4 => .rdn | 5 => .rsk | _ => .rne

/-- How a rounding is done: the mode and, for RSK, the generator output g of the element's position
(R78). -/
structure RCtx where
  rm : Rm
  g  : Nat
deriving DecidableEq, Repr

/-- The magnitude code that (m + t) times 2^e rounds to with range unbounded above, and whether the
rounding was exact. -/
def Fmt.roundCode (f : Fmt) (r : RCtx) (neg : Bool) (m : Nat) (e : Int) (sticky : Bool) : Nat × Bool :=
  let lo := f.loCode m e
  let l := f.mag lo
  let h := f.mag (lo + 1)
  let e0 := min e (min l.2 h.2) - 1
  let x := align m e e0
  let d := x - align l.1 l.2 e0
  let w := align h.1 h.2 e0 - align l.1 l.2 e0
  if d = 0 ∧ !sticky then (lo, true)
  else
    let tie := 2 * d = w ∧ !sticky
    let above := w < 2 * d ∨ (2 * d = w ∧ sticky)
    let up : Bool :=
      match r.rm with
      | .rne => above || (tie && lo % 2 == 1)
      | .rna => above || tie
      | .rtz => false
      | .rup => !neg
      | .rdn => neg
      | .rsk =>
        if neg then
          -- the smaller magnitude is the greater value
          let up32 := if sticky then ((w - d) * 2 ^ 32 - 1) / w else (w - d) * 2 ^ 32 / w
          !decide (r.g < up32 % 2 ^ 32)
        else decide (r.g < d * 2 ^ 32 / w % 2 ^ 32)
    (if up then lo + 1 else lo, false)

/-- The overflow result of R77. -/
def Fmt.overflow (f : Fmt) (tc sat : Bool) (rm : Rm) (neg : Bool) : Nat :=
  let mx := f.pack tc neg (f.maxCode tc)
  if sat then mx
  else if f.hasInf tc neg then
    match rm with
    | .rne | .rna | .rsk => f.infCode neg
    | .rup => if neg then mx else f.infCode neg
    | .rdn => if neg then f.infCode neg else mx
    | .rtz => mx
  else mx

/-- Round(x, fmt, rm) for a floating format, with the flags it sets (R77). -/
def Fmt.round (f : Fmt) (tc sat : Bool) (r : RCtx) : Num → Nat × Flags
  | .nan s => (f.nanCode tc, if s then Flags.nv else Flags.none)
  | .inf n =>
    if f.hasInf tc n then (f.infCode n, Flags.none)
    else (f.pack tc n (f.maxCode tc), Flags.ofl ||| Flags.nx)
  | .fin neg m e t =>
    if m = 0 ∧ !t then (f.pack tc neg 0, Flags.none)
    else
      let rc := f.roundCode r neg m e t
      if f.maxCode tc < rc.1 then (f.overflow tc sat r.rm neg, Flags.ofl ||| Flags.nx)
      else if rc.2 then (f.pack tc neg rc.1, Flags.none)
      else
        let tiny := f.loCode m e < f.tinyCode
        (f.pack tc neg rc.1, Flags.nx ||| (if tiny then Flags.ufl else Flags.none))

/-- The least and greatest values of an integer format (R62). -/
def Fmt.intMin (f : Fmt) : Int := if f.isSigned then -(2 ^ (f.width - 1)) else 0
def Fmt.intMax (f : Fmt) : Int := if f.isSigned then 2 ^ (f.width - 1) - 1 else 2 ^ f.width - 1

/-- The encoding of an integer modulo 2^width. -/
def wrapTo (w : Nat) (i : Int) : Nat := (i % (2 ^ w : Int)).toNat

/-- Deliver an exact integer into an integer format: wrap, or clamp when sat (R62). -/
def Fmt.ofInt (f : Fmt) (sat : Bool) (i : Int) : Nat :=
  if sat then wrapTo f.width (max f.intMin (min f.intMax i)) else wrapTo f.width i

/-- A floating value converted to an integer format (R79): rounded, clamped with NV when out of range,
NX when inexact. -/
def Fmt.floatToInt (f : Fmt) (r : RCtx) : Num → Nat × Flags
  | .nan _ => (0, Flags.nv)
  | .inf n => (wrapTo f.width (if n then f.intMin else f.intMax), Flags.nv)
  | .fin neg m e t =>
    if m = 0 ∧ !t then (0, Flags.none)
    else
      let rc := Fmt.roundCode .z64 r neg m e t
      let i : Int := if neg then -(rc.1 : Int) else rc.1
      if i < f.intMin then (wrapTo f.width f.intMin, Flags.nv)
      else if f.intMax < i then (wrapTo f.width f.intMax, Flags.nv)
      else (wrapTo f.width i, if rc.2 then Flags.none else Flags.nx)

/-- A value converted to E8 (R72). -/
def toE8 : Num → Nat × Flags
  | .nan _ => (0xFF, Flags.none)
  | .inf _ => (0xFF, Flags.none)
  | .fin _ m e t =>
    if m = 0 then (0, Flags.none)
    else
      let k : Int := (Nat.log2 m : Int) + e
      let n : Int := max 0 (min 254 (k + 127))
      let exact := !t ∧ cmpMag m e 1 (n - 127) = .eq
      (n.toNat, if exact then Flags.none else Flags.nx)

/-- Deliver an exact number into any format: Round for a floating one, R79 otherwise. -/
def Fmt.deliver (f : Fmt) (tc sat : Bool) (r : RCtx) (x : Num) : Nat × Flags :=
  if f.isInt then f.floatToInt r x
  else if f = .e8 then toE8 x
  else f.round tc sat r x

/-- The integer an encoding of an integer format holds. -/
def Fmt.intValue (f : Fmt) (x : Nat) : Int :=
  let x := x % 2 ^ f.width
  if f.isSigned ∧ 2 ^ (f.width - 1) ≤ x then (x : Int) - 2 ^ f.width else x

/-- The conversion of R79 of an encoding from format a to format b; sat is for integers on both sides (R229). -/
def convert (a b : Fmt) (tc sat : Bool) (r : RCtx) (x : Nat) : Nat × Flags :=
  if a.isInt ∧ b.isInt then (b.ofInt sat (a.intValue x), Flags.none)
  else b.deliver tc false r (a.value tc x)

/-! Exact operations. Each answers the exact result and the flags of its special cases (R64, R218). -/

/-- The product of two exact numbers; 0 times an infinity is an invalid NaN. -/
def Num.mul : Num → Num → Num × Flags
  | .nan s, y => (.nan false, (Num.nan s).sigFlag ||| y.sigFlag)
  | x, .nan s => (.nan false, x.sigFlag ||| (Num.nan s).sigFlag)
  | .inf n, .inf k => (.inf (n != k), Flags.none)
  | .inf n, .fin k m _ _ => if m = 0 then (.nan false, Flags.nv) else (.inf (n != k), Flags.none)
  | .fin k m _ _, .inf n => if m = 0 then (.nan false, Flags.nv) else (.inf (n != k), Flags.none)
  | .fin n m e _, .fin k m' e' _ => (.fin (n != k) (m * m') (e + e') false, Flags.none)

/-- The signed numerators of a list of finite numbers over 2^e0, added. -/
def sumInts (e0 : Int) : List Num → Int
  | [] => 0
  | .fin n m e _ :: xs => (if n then -(align m e e0 : Int) else align m e e0) + sumInts e0 xs
  | _ :: xs => sumInts e0 xs

/-- The least exponent of a list of finite numbers. -/
def minExp : List Num → Int
  | [] => 0
  | [.fin _ _ e _] => e
  | .fin _ _ e _ :: xs => min e (minExp xs)
  | _ :: xs => minExp xs

/-- The sign of an exact zero sum (R404), under a rounding mode. -/
def zeroSumNeg (rm : Rm) (xs : List Num) : Bool :=
  !xs.isEmpty && (xs.all (fun x => x.isZero && x.isNeg) || rm == .rdn)

/-- The exact sum of a list (R81, R232, R404): a NaN gives NaN, opposite infinities an invalid NaN. A
signalling addend raises NV (R64). Beside a NaN opposite infinities raise nothing (DESIGN CHOICE; log 24). -/
def exactSum (rm : Rm) (xs : List Num) : Num × Flags :=
  let sig := xs.foldl (fun f x => f ||| x.sigFlag) Flags.none
  if xs.any Num.isNan then (.nan false, sig)
  else
    let pos := xs.any (fun x => x == .inf false)
    let neg := xs.any (fun x => x == .inf true)
    if pos && neg then (.nan false, Flags.nv)
    else if pos then (.inf false, Flags.none)
    else if neg then (.inf true, Flags.none)
    else
      let e0 := minExp xs
      let t := sumInts e0 xs
      if t = 0 then (.fin (zeroSumNeg rm xs) 0 0 false, Flags.none)
      else (.fin (decide (t < 0)) t.natAbs e0 false, Flags.none)

/-- The quotient of two exact numbers, to 200 bits and a sticky bit (R218). -/
def Num.div : Num → Num → Num × Flags
  | .nan s, y => (.nan false, (Num.nan s).sigFlag ||| y.sigFlag)
  | x, .nan s => (.nan false, x.sigFlag ||| (Num.nan s).sigFlag)
  | .inf _, .inf _ => (.nan false, Flags.nv)
  | .inf n, .fin k _ _ _ => (.inf (n != k), Flags.none)
  | .fin n _ _ _, .inf k => (.fin (n != k) 0 0 false, Flags.none)
  | .fin n m e _, .fin k m' e' _ =>
    if m' = 0 then
      (if m = 0 then (.nan false, Flags.nv) else (.inf (n != k), Flags.dz))
    else if m = 0 then (.fin (n != k) 0 0 false, Flags.none)
    else
      let num := m <<< 256
      (.fin (n != k) (num / m') (e - e' - 256) (num % m' != 0), Flags.none)

/-- Integer square root of n from a guess a power of two at or above it; fuel bounds the iterations of
Newton's method. -/
def isqrtFrom : Nat → Nat → Nat → Nat
  | 0, _, g => g
  | fuel + 1, n, g =>
    let g' := (g + n / g) / 2
    if g' < g then isqrtFrom fuel n g' else g

/-- The integer square root. -/
def isqrt (n : Nat) : Nat :=
  if n = 0 then 0 else isqrtFrom 64 n (2 ^ (Nat.log2 n / 2 + 1))

/-- The square root of an exact number, to at least 128 bits and a sticky bit (R218). -/
def Num.sqrt : Num → Num × Flags
  | .nan s => (.nan false, (Num.nan s).sigFlag)
  | .inf n => if n then (.nan false, Flags.nv) else (.inf false, Flags.none)
  | .fin n m e _ =>
    if m = 0 then (.fin n 0 0 false, Flags.none)
    else if n then (.nan false, Flags.nv)
    else
      let k : Int := 256 + (e % 2)
      let x := m <<< k.toNat
      let q := isqrt x
      (.fin false q ((e - k) / 2) (q * q != x), Flags.none)

/-- minimum of R218: -0 below +0; one NaN gives the other operand, two the NaN. -/
def Num.minMax (isMax : Bool) (x y : Num) : Num × Flags :=
  let fl := x.sigFlag ||| y.sigFlag
  if x.isNan && y.isNan then (.nan false, fl)
  else if x.isNan then (y, fl)
  else if y.isNan then (x, fl)
  else
    let xLess : Bool :=
      match Num.cmp x y with
      | .lt => true
      | .gt => false
      | .eq => x.isNeg && !y.isNeg
    (if xLess != isMax then x else y, fl)

/-- The five classes of R220: 0 NaN, 1 infinity, 2 zero, 3 subnormal, 4 every other finite value. -/
def Fmt.classOf (f : Fmt) (tc : Bool) (x : Nat) : Nat :=
  match f.value tc x with
  | .nan _ => 0
  | .inf _ => 1
  | .fin _ m _ _ =>
    if m = 0 then 2
    else if f ≠ .l6 ∧ x % 2 ^ f.signBit < 2 ^ f.fracBits then 3 else 4

/-! The counter-based generator (R88). -/

/-- One round of G on v with 32 bits k of the seed. -/
def genRound (v k : Nat) : Nat :=
  let v := Nat.xor v k
  let v := v * 0x6A3D2F47 % 2 ^ 32
  Nat.xor v (v / 2 ^ 15)

/-- G(seed, tid, row, col) (R88). -/
def gen (seed : Word) (tid row col : Nat) : Nat :=
  let v := Nat.xor (Nat.xor (row % 65536 * 65536) (col % 65536)) (tid * 0x9E3779B1 % 2 ^ 32)
  let lo := seed.toNat % 2 ^ 32
  let hi := seed.toNat / 2 ^ 32
  genRound (genRound (genRound v lo) hi) lo

/-! L6 products (R80) and block scales (R84). -/

/-- An L6 multiplication delivered in L6 (R80): the codes add. An overflow follows R77 under the mode in force: R80 names R77's rule and
then +∞ for a positive product under tc 1 and sat 0, which R77 gives under RNE, RNA, RSK and RUP and not under RTZ and RDN (DEDUCED; log 24). -/
def l6Mul (tc sat : Bool) (r : RCtx) (a b : Nat) : Nat × Flags :=
  let x := Fmt.value .l6 tc a
  let y := Fmt.value .l6 tc b
  let neg := x.isNeg != y.isNeg
  match x, y with
  | .nan _, _ => (Fmt.nanCode .l6 tc, Flags.none)
  | _, .nan _ => (Fmt.nanCode .l6 tc, Flags.none)
  | .inf n, y' =>
    if y'.isZero then (Fmt.nanCode .l6 tc, Flags.nv)
    else Fmt.round .l6 tc sat r (.inf (n != y'.isNeg))
  | x', .inf n =>
    if x'.isZero then (Fmt.nanCode .l6 tc, Flags.nv)
    else Fmt.round .l6 tc sat r (.inf (n != x'.isNeg))
  | .fin _ m _ _, .fin _ m' _ _ =>
    if m = 0 ∨ m' = 0 then (Fmt.pack .l6 tc neg 0, Flags.none)
    else
      let c : Int := (a % 32 : Nat) + (b % 32 : Nat) - 16
      if c ≤ 0 then (Fmt.pack .l6 tc neg 0, Flags.ufl ||| Flags.nx)
      else if (Fmt.maxCode .l6 tc : Int) < c then
        (Fmt.overflow .l6 tc sat r.rm neg, Flags.ofl ||| Flags.nx)
      else (Fmt.pack .l6 tc neg c.toNat, Flags.none)

/-- The numerator of an L6 code's table entry T[f] (R69). -/
def l6Exact (tc : Bool) (a b : Nat) : Num × Flags :=
  match Fmt.value .l6 tc a, Fmt.value .l6 tc b with
  | .fin n m _ _, .fin k m' _ _ =>
    if m = 0 ∨ m' = 0 then (.fin (n != k) 0 0 false, Flags.none)
    else
      let e : Int := (a % 32 : Nat) + (b % 32 : Nat) - 32
      (.fin (n != k) (l6T (e % 4).toNat) (e / 4 - 12) false, Flags.none)
  | x, y => Num.mul x y

/-- The exact product of two elements where products are summed: R81 for L6, exact otherwise. -/
def exactProduct (fa fb : Fmt) (tc : Bool) (a b : Nat) : Num × Flags :=
  if fa = .l6 ∧ fb = .l6 then l6Exact tc a b
  else Num.mul (fa.value tc a) (fb.value tc b)

/-- Multiply by a power of two. -/
def Num.scale (k : Int) : Num → Num
  | .fin n m e t => .fin n m (e + k) t
  | x => x

/-! Exact-sum entries (R85-R87). -/

/-- What an entry delivers: Round(A times 2^-149, F32, RNE), with its flags; a set range bit or the NaN
state is the default NaN with NV (R87). -/
def deliverSum (sum : Int) (nan range : Bool) (inf : Option Bool) : Nat × Flags :=
  if nan || range then (Fmt.nanCode .f32 false, Flags.nv)
  else match inf with
    | some n => (Fmt.infCode .f32 n, Flags.none)
    | none => Fmt.round .f32 false false { rm := .rne, g := 0 } (.fin (decide (sum < 0)) sum.natAbs (-149) false)

end Sys2Proof.Machine
end

