-- ==== Sys2Proof/Config.lean ====
section
/-! DEFINITION. What one implementation fixes and what the spec leaves open. An opaque constant has no
body: nothing can prove a value of it, so a claim holds whatever it is. -/

namespace Sys2Proof.Config

/-- DESIGN CHOICE (log 5). A value the spec leaves undefined; each use takes the next number of the
State's free counter. -/
opaque freeValue : Nat → Word

/-- The hive whose pseudo-channel holds a 64 KiB granule of this device's HBM; R94 says that each
granule lies in one hive and gives no map (log 6). -/
opaque hiveOfGranule : Nat → Nat

/-- The pseudo-channel, of its hive's 32, that holds a 64 KiB granule of HBM (log 6). -/
opaque channelOfGranule : Nat → Nat

/-- The set, of its hive's 4,096, in which L2 holds a line: R2 and R90 give 8 slices of 1 MiB, 16-way, in each hive and no map
(log 6). -/
opaque l2SetOfLine : Nat → Nat

/-- The byte that an address delivers under a key that did not write its line, from the address, the two keys and what was
written: unrelated to it (R367; log 7). -/
opaque garbled : Nat → Nat → Nat → BitVec 8 → BitVec 8

/-- The blob slots of the flash as delivered (R397; log 7). -/
opaque flashBlob : Nat → List Byte

/-- SHAKE256 with 64-byte output (R398, R399); the spec names it and gives no definition (log 7). -/
opaque shake256 : List Byte → List Byte

/-- Whether a Falcon-1024 signature of these bytes verifies against a key (R397, R398): key 0 is the
ROM key, key 1 is trust anchor 0 (log 7). -/
opaque falconValid : Nat → List Byte → Bool

/-- The two boot-image slots of the flash (R397; log 7). -/
opaque bootImage : Nat → List Byte

/-- The TSC firmware image (R398 step 4; log 7, 8). -/
opaque tscFirmware : List Byte

/-- Where a TSC begins to execute its firmware (R398 step 6; the spec gives no address; log 8). -/
opaque tscEntry : Word

/-- The bytes of an SPDM reply to a request, by its place in the list of R400 and 0 for any other message; the exchange is
DMTF's (log 7). -/
opaque spdmReply : Nat → List Byte → List Byte

/-- The payload of GET_INFO from the boot state, the device id and the blob version; R396 names its contents and gives no
layout (log 9). -/
opaque infoPayload : Nat → Nat → Nat → List Byte

/-- The payload of GET_RETIRE from the retired tiles, hives and pseudo-channels; R396 gives no layout (log 9). -/
opaque retirePayload : List Nat → List Nat → List Nat → List Byte

/-- The bytes of the retirement log in flash, from its entries' kinds and ids (R382, R398; log 9). -/
opaque logBytes : List (Nat × Nat) → List Byte

/-- The ticket a migrate-out command writes, from the yard, the destination and the count of free values, which no two commands share; its
contents are not architected (R378; log 7). -/
opaque ticket : Nat → Nat → Nat → List Byte

/-- Whether a ticket is one that a device wrote unaltered for this device and this record (R378; log 7). -/
opaque ticketOk : Nat → List Byte → Bool

/-- The calendar cycle, of this device, at which a ticket was written (R378; log 7). -/
opaque ticketMade : List Byte → Nat

/-- The 32-byte SHAKE256 digest of a 64 KiB page, from its bytes that are not zero (R379; log 7). -/
opaque pageDigest : List (Nat × BitVec 8) → List Byte

/-- The contexts, with their frames, of a yard image that another device wrote: the spec gives no layout of them (R374, R375; log 5). -/
opaque arrivedFrames : Nat → List (Nat × Word)

/-- The tile, of the 16 of its hive, at whose router an L2 slice is reached: R2 puts 8 slices in each hive and says no more (log 6). -/
opaque sliceTile : Nat → Nat

/-- The hash of a line's number that chooses a Milay port (R392; log 7). -/
opaque portHash : Nat → Nat

/-- The listed bytes of the pages and the image that a migration brings from another device, by a count of free values (R378; log 5). -/
opaque arrivedCells : Nat → List (Nat × BitVec 8)

/-- The arguments of a management command and the bytes that it carries, from its code and its payload: the spec gives no layout (log 9). -/
opaque commandArgs : Nat → List Byte → List Nat × List Byte

/-- The payload of a management command, from its code, its arguments and the bytes that it carries: the spec gives no layout (log 9). -/
opaque commandPayload : Nat → List Nat → List Byte → List Byte

end Sys2Proof.Config
end

