-- ==== Sys2Proof/Machine/State.lean ====
section
/-! DEFINITION. The state of a YX8 device as plain data, the reasons a step can stop, and the state
right after reset. -/

namespace Sys2Proof.Machine

/-- Privilege levels that a compute die can run (R301); M reaches nothing by instruction. -/
inductive Priv where
  | u | s | h
deriving DecidableEq, Repr

/-- The assigned causes of R310, by name; a cause's code is Cause.code. -/
inductive Cause where
  | nv | dz | of | uf | nx | topCode | operandFormat | exactCapacity
  | pointerFormat | regionBounds | regionRights | misaligned | regionMismatch | translation
  | accessKind | fillFormat | ringGeometry | ringBusy | stage2 | tlbFormat
  | zeroWord | reserved | blockExtent | loopNesting | contextKind | userTrap | singleStep
  | vectorIndex | accRange | pairAbort | matrixGroup | capability | engineAbsent | collMismatch
  | launchFormat | launchState | waxFormat | waxBusy | waxArity | streamDesc | repetition
  | waxUnbound | joinOrder
  | eventOperand | barrierDomain | mode | vsetFull | frameLost
  | slotFault | combAccess | combContext
  | privilege | frameFormat | scopePolicy
  | memError | tileError | doubleTrap | mixedStep
deriving DecidableEq, Repr

/-- Why the machine stops. -/
inductive Fault where
  /-- Raised by the meaning of an encoded instruction when the context whose turn it is is not live:
  no context exists to execute it (R15). Safe: the hardware issues nothing there either. -/
  | noContext
deriving DecidableEq, Repr

/-- Why an instruction has no meaning. -/
inductive Refusal where
  /-- Raised by exec's arm of an instruction that has no meaning yet. Safe. -/
  | notModelled (mnemonic : String)
deriving DecidableEq, Repr

/-- A value in a link queue or qk, with the carried top-code bit (R66). -/
structure QVal where
  val : Word
  tc  : Bool
deriving DecidableEq, Repr

/-- A register result of an instruction: a scalar register or queue, or the masked bits of a vector or
mask register (R153, R211). -/
inductive RegWrite where
  | g (r : Reg) (x : Word)
  | v (r : Nat) (mask x : VWord)
  | m (r : Nat) (mask x : Word)
deriving DecidableEq, Repr

/-- An open lookahead window (R152): it closes when the position after last issues; seq names the
coprocessor instruction whose results it waits for. replay marks the window of a replayed instance, which holds back no scalar
instruction (R353). -/
structure Window where
  last   : Nat
  seq    : Option Nat
  ready  : Bool
  replay : Bool
  writes : List RegWrite
deriving DecidableEq, Repr

/-- What a context that is not ready waits on; the first ten are the kinds of R325. -/
inductive WaitKind where
  | none | evw | fillw | bar | tsync | pop | push | fullQueue | start | lnWait | interlock
  | pin | translation | remote | engine | drain | owned
deriving DecidableEq, Repr

/-- A late cause raised in the open collection window (R312, R313). seq is the sequence number of its instruction, ord the place of that
instruction in the order of all pushes, as in a QEntry. -/
structure Late where
  seq    : Nat
  ord    : Nat
  cause  : Cause
  member : Nat
  elem   : Nat
  tval   : Word
deriving DecidableEq, Repr

/-- A task-fault record (R314). -/
structure TaskFault where
  cause  : Cause
  launch : Nat
  index  : Nat
  toH    : Bool
deriving DecidableEq, Repr

/-- A task of a launch (R20, R265): its record, and what its helper takes from the context that
created it (R75, R133), held in ctl by special register number. slot is the context id of the slot that START answered or that a dispatched task last started in, park the address
whose page in transit the task waits for (R337). -/
structure Task where
  yard   : Nat
  job    : Nat
  launch : Option Nat
  index  : Nat
  ts     : BitVec 32
  data   : Word
  entry  : Word
  solo   : Bool
  aborts : Nat
  slot   : Nat
  park   : Option Word
  ctl    : SMap Word
deriving DecidableEq, Repr

/-- A wax binding of one opcode (R275, R280): reason 0 never loaded, 1 released, 2 evicted. lent marks one that a helper holds from its core's
control context (R293). -/
structure WaxBind where
  bound  : Bool
  reason : Nat
  slot   : Nat
  ident  : Nat
  lent   : Bool
deriving DecidableEq, Repr

/-- A coprocessor instruction after its issue (R209, R242): what it read and captured, and when. rel holds the
launch, 256 for that of START, and record index of a command that a commit has released (R243), replay marks an instance that RP.RUN replays (R239).
since is the calendar cycle of its push (R350), ord its place in the order of all pushes (R254, R313), binds the wax bindings before it (R406). -/
structure QEntry where
  seq  : Nat
  ord  : Nat
  cid  : Nat
  tag  : Nat
  pc   : Word
  inst : Instr
  pfx  : IWord
  a    : Word
  b    : Word
  qkw  : Word
  sr   : SMap Word
  vf   : SMap VWord
  mf   : SMap Word
  since : Nat
  rel  : Option (Nat × Nat)
  replay : Bool
  binds : SMap WaxBind
deriving DecidableEq, Repr

/-- A line of a task's read set: the version of the copy that first served it (R24). -/
structure ReadEnt where
  line   : Nat
  ver    : Word
  failed : Bool
deriving DecidableEq, Repr

/-- What a page's entry says of the lines in it: whether it is memory-side, and the key they are encrypted under; none: the
lines are taken as they stand, as an address that no entry translates takes them (R329, R331, R367). -/
structure Pg where
  memSide : Bool
  key     : Option Nat
deriving DecidableEq, Repr

/-- A page that no entry describes. -/
def Pg.plain : Pg := { memSide := false, key := none }

/-- What a live helper holds beside its registers: its task, frame, buffered bytes with the pages of their lines, read set and
deferred commands, and after HALT its retain bit (R16, R23, R24, R178). -/
structure Helper where
  task     : Task
  frame    : Nat
  dirty    : SMap (Option Byte)
  pages    : SMap (Option Pg)
  reads    : List ReadEnt
  deferred : List QEntry
  amos     : List Nat
  halting  : Option Bool
deriving DecidableEq, Repr

/-- The repetition state of a control context (R270-R272). -/
structure Rep where
  buf    : List (IWord × IWord)
  target : Nat
  left   : Nat
  idx    : Nat
  rs     : Nat
  cs     : Nat
  pc     : Word
deriving DecidableEq, Repr

/-- The answer of a fault to a miss that an access waits for (R337): its code, the access's kind code and address, and the
sequence number of the coprocessor instruction that makes it; none: the context's own instruction. -/
structure Answer where
  code : Nat
  kind : Nat
  who  : Option Nat
  addr : Word
deriving DecidableEq, Repr

/-- A context: control, helper or resident handler (R13-R18), or the context of a TSC (R329). Special
registers are held by their number. withdrawn holds what a save in progress has withdrawn (R406). got holds the event lines a waiting context has received (R196). lossDue: the upcall of a loss is still
to come; gainTaken: the oldest gain is being handled (R55, R56). barAt is the calendar cycle in which its last arrival at a barrier
was sent (R203, R300). gotAt is the cycle in which got was received, and owed the precise cause that an instruction has raised, with its trap value, while
it waits for open windows to close (R306). issued is the instruction that has issued and has not completed yet, where wait is what it waits on; a context that
waits and has issued none is not ready to issue (R9, R35). saveReq is the reason of the save that is asked for, 0 for none, and saveNext that of the
request that a yard's save came before, which stands again after the resume (R316, R375). -/
structure Ctx where
  live     : Bool
  priv     : Priv
  pc       : Word
  g        : SMap Word
  v        : SMap VWord
  m        : SMap Word
  sr       : SMap Word
  pos      : Nat
  windows  : List Window
  wait     : WaitKind
  waitOp   : Word
  issued   : Option Instr
  got      : BitVec 32
  gotAt    : Nat
  owed     : Option (Cause × Word)
  barTok   : Nat
  barAt    : Nat
  vset     : List (Nat × Word)
  vfail    : Bool
  gains    : List Word
  gainOvf  : Bool
  lossDue  : Bool
  gainTaken : Bool
  rep      : Rep
  wax      : SMap WaxBind
  late     : List Late
  stepPend : Bool
  records  : List TaskFault
  saveReq  : Nat
  saveNext : Nat
  susp     : SMap Word
  answers  : List Answer
  withdrawn : List QEntry
  helper   : Option Helper
deriving DecidableEq, Repr

/-- An entry of a core's coprocessor ring (R311). -/
structure RingEnt where
  seq  : Nat
  pc   : Word
  word : IWord
deriving DecidableEq, Repr

/-- A value in flight toward a core's incoming queue of a direction: due is the first calendar cycle in which it can be popped;
none while its flit has not left (R299, R355). -/
structure Flight where
  dir : Dir
  val : QVal
  due : Option Nat
deriving DecidableEq, Repr

/-- How a helper of a core has ended (R16, R134): the slot number that its START answered, the slot it ended in, and the frame it retained:
0 none, f + 1 a frame f. -/
structure Ended where
  start : Nat
  slot  : Nat
  frame : Nat
deriving DecidableEq, Repr

/-- A core: vector queue, sequence counter and ring, link queues, per-core registers, slots (R8, R137,
R302, R311). held holds what is to be pushed as soon as the queue has room: the commands that a commit has released, and the withdrawn
instructions of a restored context (R117, R406). spill holds where the message buffer of the core's saved control context lies, its tag and its page (R319). ended holds the ends of helpers and the frames that they retained, the newest first.
clk is the time, in tenths of a nanosecond, from which its next tile cycle may begin (R9, R360). -/
structure Core where
  vq       : List QEntry
  held     : List QEntry
  seq      : Nat
  ring     : List RingEnt
  qn       : List QVal
  qe       : List QVal
  qs       : List QVal
  qw       : List QVal
  flight   : List Flight
  sr       : SMap Word
  lastSlot : Nat
  clk      : Nat
  lanes    : Nat
  handler  : Bool
  spill    : Option (Nat × Nat × Pg)
  sliceStart : Nat
  ended    : List Ended
  requeue  : List Task
deriving DecidableEq, Repr

/-- A dirty byte of an L1 line or of the write-combining buffer: its value, the core that stored it and
the tag of the storing context, its page, and the pointer and the instruction of the store (R105, R108, R111, R307, R323). -/
structure DirtyByte where
  byte : Byte
  core : Nat
  tag  : Nat
  pg   : Pg
  ptr  : Word
  pc   : Word
deriving DecidableEq, Repr

/-- A line of an L1 or read-only cache: clean bytes with the version they were filled with, dirty bytes
by offset; refill marks clean bytes an acquire discarded (R110, R111). -/
structure CacheLine where
  present : Bool
  clean   : BitVec 1024
  ver     : Word
  refill  : Bool
  dirty   : SMap (Option DirtyByte)
  pg      : Pg
deriving DecidableEq, Repr

/-- A TLB entry: the four doublewords of R331. -/
structure TlbE where
  e0 : Word
  e1 : Word
  e2 : Word
  e3 : Word
deriving DecidableEq, Repr

/-- A matrix command that has started and not retired: its operand tiles as read, and its pops (R98). -/
structure MRun where
  q     : QEntry
  abyte : List Byte
  bbyte : List Byte
  pops  : List Nat
  paired : Bool
  tc    : Bool
  partner : Nat
deriving DecidableEq, Repr

/-- A half of an MMP pair in a tile's pair buffer: the partner's B tile (R249). -/
structure PairHalf where
  from_ : Nat
  tag   : Nat
  pfx   : IWord
  bytes : List Byte
  since : Nat
deriving DecidableEq, Repr

/-- A copy, gather/scatter, collective or launch command its engine has accepted (R242), with the
shared lines it owns (R122), the bytes it has moved, and the source bytes of a copy within one TM, as they stood when it began (R258). -/
structure ECmd where
  id    : Nat
  eng   : Nat
  q     : QEntry
  owned : List Nat
  moved : Nat
  src   : List Byte
deriving DecidableEq, Repr

/-- A physical slot of the Glalin array (R279, R318). The owner is a control context's tag, or 0x10000 + a
helper's id. -/
structure GlSlot where
  owner : Option Nat
  ident : Nat
  image : List Byte
deriving DecidableEq, Repr

/-- A stream that runs on a tile's Glalin array (R284, R285): its wax image and descriptor, the values and
indices each read port has delivered, the elements each write port has landed, the write ports that land no
more, whether its read ports have stopped, and its first cause with the number of the element at which it came. -/
structure Stream where
  q       : QEntry
  op      : Nat
  tc      : Bool
  image   : List Byte
  desc    : List Byte
  vals    : SMap (List Nat)
  idxs    : SMap (List Nat)
  landed  : SMap Nat
  dead    : List Nat
  halted  : Bool
  cause   : Option (Nat × Cause × Word)
deriving DecidableEq, Repr

/-- A move of a tile in progress (R47): the gaining comb's job, the gaining tile A, the step reached
and the tile cycles that the tile's clock had produced when it began. via 1024 marks the move of a whole rectangle or comb (R372). -/
structure Move where
  toJob : Nat
  via   : Nat
  step  : Nat
  since : Nat
deriving DecidableEq, Repr

/-- A tile, or a hive service node's TSC with its local memory and event lines (R8, R329). Its clock (R30, R360): clkFrom is the time, in
tenths of a nanosecond, of the first cycle in its present timing, clkTotal counts the elastic cycles and clkPinned the pinned ones that began before
it, and loadFrom the cycles of both kinds before the last waggle boundary (R39). -/
structure Tile where
  sr      : SMap Word
  pend    : SMap Nat
  ev      : BitVec 32
  qk      : List QVal
  mq      : List QEntry
  mrun    : List MRun
  half    : Option PairHalf
  eng     : List ECmd
  doneCnt : SMap Nat
  lastLate : SMap Nat
  gl      : SMap GlSlot
  ident   : Nat
  wq      : List QEntry
  streams : List Stream
  snap    : List Host.Cell
  pinned  : Bool
  pinDue  : Option Nat
  leaving : Option Nat
  clkTotal : Nat
  clkPinned : Nat
  clkFrom : Nat
  clkStretched : Nat
  loadFrom : Nat
  load    : Nat
  press   : Nat
  adj     : Int
  adjWas  : Int
  adjAt   : Nat
  busy    : Nat
  lastMove : Nat
  cede    : Option Nat
  move    : Option Move
  frames  : List Nat
  ready   : List Task
  l1      : SMap CacheLine
  ro      : SMap CacheLine
  wcb     : SMap (Option DirtyByte)
  tlb     : List TlbE
  ahead   : List (Nat × Nat × Pg)
  retired : Bool
deriving DecidableEq, Repr

/-- An outstanding hive TLB miss (R333); cid is the accessing context, and who its coprocessor instruction, as in an Answer. inv holds the size code and four
times the kind of the TLBINV of a notice, and task the job, the launch and the index of the task whose placement asks (R346). -/
structure Miss where
  id      : Nat
  addr    : Word
  kind    : Nat
  cid     : Nat
  who     : Option Nat
  vf      : Nat
  tag     : Nat
  priv    : Nat
  inv     : Nat
  stale   : Bool
  written : Bool
  task    : Option (Nat × Nat × Nat)
deriving DecidableEq, Repr

/-- A hive's translation state (R330, R333). -/
structure Hive where
  tlb    : List TlbE
  misses : List Miss
  nextId : Nat
  slot   : Nat
deriving DecidableEq, Repr

/-- What the home keeps of a line: whether it is in L2 and its version there (R103, R104), the tenant it is charged to, its way
of the set and when it was last used (R368, R369), the engine command or solo task that owns it (R122, R26). -/
structure L2Line where
  present : Bool
  ver     : Word
  tenant  : Nat
  way     : Nat
  used    : Nat
  engine  : Option Nat
  solo    : Option Nat
deriving DecidableEq, Repr

/-- The state of an exact-sum entry (R85). -/
inductive SumKind where
  | finite | posInf | negInf | nan
deriving DecidableEq, Repr

/-- An exact-sum entry of a word (R85); live false: no entry. -/
structure SumEnt where
  live  : Bool
  sum   : Int
  kind  : SumKind
  range : Bool
deriving DecidableEq, Repr

/-- A comb and the job that holds it (R37, R53, R371). The Was and At fields hold a setting's value before
its last change and the calendar cycle of that change (R58); gains holds what no live context has been told of, and gainOvf whether one of those was dropped (R56). -/
structure Comb where
  yard  : Nat
  job   : Nat
  tiles : List Nat
  gen   : Word
  floor : Nat
  floorWas : Nat
  floorAt : Nat
  hold  : Bool
  holdWas : Bool
  holdAt : Nat
  bsp   : Bool
  desc  : Word
  homeTile : Nat
  homeCore : Nat
  frames : Nat
  poolBase : Nat
  sstep : BitVec 32
  flags : BitVec 5
  gains : List Word
  gainOvf : Bool
deriving DecidableEq, Repr

/-- A launch (R20, R266, R342-R345). queue holds its undispatched tasks, count the tasks not yet ended. -/
structure Launch where
  yard  : Nat
  job   : Nat
  id    : Nat
  order : Nat
  ordered : Bool
  prio  : Nat
  count : Nat
  queue : List Task
  running : List Nat
  solo  : Option Nat
  flags : BitVec 5
  dispatchable : Bool
  since : Nat
  held  : Bool
deriving DecidableEq, Repr

/-- A graph (R267): its entries are a launch id, a predecessor mask, and whether it has completed. -/
structure Graph where
  yard  : Nat
  job   : Nat
  id    : Nat
  ents  : List (Nat × BitVec 32 × Bool)
  count : Nat
  phase : Option Nat
  flags : BitVec 5
deriving DecidableEq, Repr

/-- A phase (R268); order is its place in the job's chain. -/
structure Phase where
  yard  : Nat
  job   : Nat
  id    : Nat
  order : Nat
  count : Nat
  flags : BitVec 5
deriving DecidableEq, Repr

/-- A round of a barrier domain (R202). since is the latest cycle in which one of its arrivals was sent (R203, R300), job the job of the
first member that arrived. -/
structure Round where
  yard    : Nat
  job     : Nat
  dom     : Nat
  members : Nat
  arrived : List Nat
  tsync   : Bool
  full    : Bool
  since   : Nat
deriving DecidableEq, Repr

/-- A landing window of a tenant (R102, R259): cid, tag and seq name the CP.LAND that armed it. -/
structure LandWin where
  armed : Bool
  tile  : Nat
  view  : Nat
  off   : Nat
  len   : Nat
  fill  : Word
  cid   : Nat
  tag   : Nat
  seq   : Nat
deriving DecidableEq, Repr

/-- An access sent over Milay or PCIe and not yet acknowledged (R111, R130, R385). tv is the address it was made at and pc its instruction (R307), fill the
page of a line that PREF brings into L1 when it arrives (R185), sent the calendar cycle in which it left (R393), failed marks a read that was given up. cmd is
the command of the engine that sent it, and count the place of the fill word that its bytes are counted on when they are acknowledged (R244). -/
structure Remote where
  id      : Nat
  cid     : Nat
  tag     : Nat
  pcie    : Bool
  isWrite : Bool
  pa      : Nat
  size    : Nat
  bytes   : List Byte
  acked   : Bool
  isLate  : Bool
  tv      : Word
  pc      : Word
  fill    : Option Pg
  sent    : Nat
  failed  : Bool
  cmd     : Option QEntry
  count   : Option (Nat × Nat × Nat)
deriving DecidableEq, Repr

/-- An invalidation whose acknowledgements have not all arrived (R338). -/
structure Shoot where
  cid  : Nat
  kind : Nat
  size : Nat
  vf   : Nat
  addr : Nat
  acks : Bool
deriving DecidableEq, Repr

/-- What a yard's image holds beside tile memory, accumulators and Glalin slots (R374): its base address, the contexts
that were saved with their frames, and the tiles', cores' and dispatcher's registers. -/
structure YardImage where
  yard     : Nat
  base     : Nat
  todo     : List (Nat × Word)
  retired  : List Nat
  ctxs     : SMap Ctx
  cores    : SMap Core
  tiles    : SMap Tile
  combs    : List Comb
  launches : List Launch
  graphs   : List Graph
  phases   : List Phase
  rounds   : List Round
deriving DecidableEq, Repr

/-- A step in the checkpoint store (R379): complete once the buddy's copy is written too. pages holds the address and the digest of each 64 KiB page that
is not all zeros, and whether it is recorded by reference. -/
structure StepCopy where
  yard     : Nat
  step     : Nat
  complete : Bool
  image    : YardImage
  spans    : List (Nat × Nat)
  cells    : List Host.Cell
  pages    : List (Nat × List Byte × Bool)
deriving DecidableEq, Repr

/-- What the machine of a tenant record keeps beside the record: the command in progress (0 none), the contexts that a
resume has still to restart, whether a function-level reset is to be reported, and what a migration's first pass has sent (R365, R375, R377, R402). -/
structure Tenant where
  cmd  : Nat
  todo : List (Nat × Word)
  flr  : Bool
  sent : List Host.Cell
deriving DecidableEq, Repr

/-- Where a saved frame lies: in the tile memory of a tile, or at a physical address. -/
inductive FramePlace where
  | tm (tile off : Nat)
  | mem (pa : Nat) (pg : Pg)
deriving DecidableEq, Repr

/-- What is kept of a saved context beside its frame, which has no place for it (R302, R275; log 16): registers by number, whether its oldest
gain is being handled (R56), the program counter of its RP.RUN (R311), its suspended loops (R174), and where its frame lies. -/
structure Kept where
  srs   : SMap Word
  gainTaken : Bool
  repPc : Word
  susp  : SMap Word
  place : Option FramePlace
deriving DecidableEq, Repr

/-- A message the device sends out (R388, R394, R395); pages is what a migration or a checkpoint sends of some spans of memory: their
listed bytes (R377, R379). -/
inductive OutMsg where
  | msix (pf0 : Bool) (vf vector : Nat)
  | unsupported (peer : Bool) (tag : Nat)
  | reply (port : MPort) (bytes : List Byte)
  | milay (dev : Nat) (bytes : List Byte)
  | milayError (dev : Nat)
  | pages (dev : Nat) (spans : List (Nat × Nat)) (cells : List Host.Cell)
deriving DecidableEq, Repr

/-- The management core (R394-R402). cmdA is what stands in port A's command buffer, from its start on; the rest of it is zero (R394). blobs holds the blob slots of the flash that have been written, heard the cycle of the
semaphore holder's last command. -/
structure Mgmt where
  boot     : Nat
  holder   : Nat
  tieLoser : Nat
  cmdA     : List Byte
  busyA    : Bool
  seqA     : Nat
  replyA   : List Byte
  evA      : List (List Byte)
  evB      : List (List Byte)
  lostA    : Bool
  lostB    : Bool
  mregs    : SMap (List Byte)
  blobs    : SMap (List Byte)
  cur      : Nat
  nextCur  : Nat
  log      : List Retired
  heard    : Nat
  powered  : Bool
deriving DecidableEq, Repr

/-- The device. Sparse fields are canonical lists (SMap); what an unlisted key reads as is the
reset value beside each type. cur, agenda and free are the model's own (log 2, 5): the context whose turn
it is, the rows that have been sent and have not come yet, in order, and the count of free values drawn. dead holds the dead tags with their yards
(R322), saved the tags, yards and jobs of the saved contexts, kept what is kept of them by tag, heldLates the late causes that engines hold for
them (R317). tickets holds the migration tickets accepted (R378), keyGens the generation of each key index, and lineKeys
the key each line was written under (R367); l2Use counts the uses of L2 lines (R368), and badLines holds the
lines whose data has an error that cannot be corrected (R310); posts holds the posted PCIe writes that have been applied, by port, requester and number (R390); calSince holds, for each port of the calendar block with stores not yet
applied, one more than the cycle of the last of them (R356). pushes counts the coprocessor instructions pushed on every core. -/
structure State where
  cur     : Nat
  agenda  : List Instr
  free    : Nat
  pushes  : Nat
  cal     : Nat
  mem     : List Host.Cell
  tm      : List Host.Cell
  acc     : SMap (BitVec 32)
  ctxs    : SMap Ctx
  cores   : SMap Core
  tiles   : SMap Tile
  hives   : SMap Hive
  l2      : SMap L2Line
  l2Use   : Nat
  floors  : SMap Word
  sums    : SMap SumEnt
  dead    : List (Nat × Nat)
  saved   : List (Nat × Nat × Nat)
  kept    : SMap (Option Kept)
  heldLates : List (Nat × Late)
  combs   : List Comb
  launches : List Launch
  graphs  : List Graph
  phases  : List Phase
  order   : Nat
  served  : SMap Nat
  rounds  : List Round
  wins    : SMap LandWin
  remotes : List Remote
  nextReq : Nat
  shoots  : List Shoot
  posts   : List (Bool × BitVec 16 × Nat)
  calSince : SMap Nat
  calApplied : SMap Byte
  routes  : SMap Word
  tenants : SMap Tenant
  images  : List YardImage
  steps   : List StepCopy
  tickets : List (List Byte)
  keyGens : SMap Nat
  keyNext : Nat
  lineKeys : SMap Nat
  deadChannels : List Nat
  badLines : List Nat
  mgmt    : Mgmt
  out     : List OutMsg
deriving DecidableEq, Repr

/-! Reset values of the parts. -/

/-- The reset value of a per-context, per-core or per-tile special register (the Reset columns of
R19, R51, R73, R93, R97, R158, R175, R201, R257-R275, R302, R304, R349, R357). -/
def srReset (n : Nat) : Word :=
  if n = 0x440 ∨ n = 0x800 then 0x40
  else if n = 0x806 then 0x7F
  else if 0x400 ≤ n ∧ n < 0x438 ∧ n % 4 = 1 then 0xFFFF
  else 0

/-- No binding: never loaded (R275). -/
def WaxBind.unbound : WaxBind := { bound := false, reason := 0, slot := 0, ident := 0, lent := false }

/-- The empty repetition buffer (R270). -/
def Rep.empty : Rep := { buf := [], target := 0, left := 0, idx := 0, rs := 0, cs := 0, pc := 0 }

/-- A context that does not exist yet; its registers read zero and its special registers their reset
values (R14, R133; log 2). -/
def Ctx.reset : Ctx :=
  { live := false, priv := .u, pc := 0, g := [], v := [], m := [], sr := [], pos := 0, windows := [],
    wait := .none, waitOp := 0, issued := none, got := 0, gotAt := 0, owed := none, barTok := 0, barAt := 0, vset := [], vfail := false, gains := [], gainOvf := false,
    lossDue := false, gainTaken := false, rep := Rep.empty, wax := [], late := [], stepPend := false, records := [],
    saveReq := 0, saveNext := 0, susp := [], answers := [], withdrawn := [], helper := none }

/-- An idle core. -/
def Core.reset : Core :=
  { vq := [], held := [], seq := 0, ring := [], qn := [], qe := [], qs := [], qw := [], flight := [], sr := [],
    lastSlot := 0, clk := 0, lanes := 0, handler := false, spill := none, sliceStart := 0, ended := [], requeue := [] }

/-- No line. -/
def CacheLine.absent : CacheLine :=
  { present := false, clean := 0, ver := 0, refill := false, dirty := [], pg := Pg.plain }

/-- A free Glalin slot. -/
def GlSlot.free : GlSlot := { owner := none, ident := 0, image := [] }

/-- A cleared tile (R398 step 5), on elastic timing, in no comb. -/
def Tile.reset : Tile :=
  { sr := [], pend := [], ev := 0, qk := [], mq := [], mrun := [], half := none, eng := [], doneCnt := [],
    lastLate := [], gl := [], ident := 1, wq := [], streams := [], snap := [], pinned := false,
    pinDue := none, leaving := none, clkTotal := 0, clkPinned := 0, clkFrom := 0, clkStretched := 0, loadFrom := 0, load := 0, press := 0, adj := 0, adjWas := 0, adjAt := 0,
    busy := 0, lastMove := 0, cede := none, move := none, frames := [], ready := [], l1 := [], ro := [],
    wcb := [], tlb := [], ahead := [], retired := false }

/-- A hive with empty TLBs and no miss. -/
def Hive.reset : Hive := { tlb := [], misses := [], nextId := 1, slot := 0 }

/-- A line that is not in L2. -/
def L2Line.absent : L2Line :=
  { present := false, ver := 0, tenant := 0, way := 0, used := 0, engine := none, solo := none }

/-- Whether an access sets a bit of a companion word (R335): it belongs to no context and no engine. -/
def Remote.isCompanion (r : Remote) : Bool := r.isWrite && r.isLate && r.cmd.isNone && r.tag == 0x10000

/-- An access of a context that is about to leave: from its own instruction, at an address of n bytes. -/
def Remote.of (cid tag : Nat) (pcie isWrite : Bool) (pa n : Nat) (tv pc : Word) : Remote :=
  { id := 0, cid := cid, tag := tag, pcie := pcie, isWrite := isWrite, pa := pa, size := n, bytes := [], acked := false, isLate := false,
    tv := tv, pc := pc, fill := none, sent := 0, failed := false, cmd := none, count := none }

/-- No exact-sum entry. -/
def SumEnt.none : SumEnt := { live := false, sum := 0, kind := .finite, range := false }

/-- A record with no command in progress. -/
def Tenant.idle : Tenant := { cmd := 0, todo := [], flr := false, sent := [] }

/-- A disarmed landing window. -/
def LandWin.disarmed : LandWin :=
  { armed := false, tile := 0, view := 0, off := 0, len := 0, fill := 0, cid := 0, tag := 0, seq := 0 }

/-- The management core at power-on, before step 1 of R398; measurement registers read 64 zero bytes. -/
def Mgmt.reset : Mgmt :=
  { boot := 0, holder := 0, tieLoser := 0, cmdA := [], busyA := false, seqA := 0, replyA := [], evA := [], evB := [], lostA := false,
    lostB := false, mregs := [], blobs := [], cur := 0, nextCur := 0, log := [], heard := 0,
    powered := true }

/-- The device right after a power-on reset: nothing booted, no yard, no context, every tile cleared,
memory with nothing listed (R398, R402). -/
def State.reset : State :=
  { cur := 0, agenda := [], free := 0, pushes := 0, cal := 0, mem := [], tm := [], acc := [], ctxs := [], cores := [],
    tiles := [], hives := [], l2 := [], l2Use := 0, floors := [], sums := [], dead := [], saved := [], kept := [], heldLates := [], combs := [],
    launches := [], graphs := [], phases := [], order := 0, served := [], rounds := [],
    wins := [], remotes := [], nextReq := 1, shoots := [], posts := [], calSince := [], calApplied := [], routes := [],
    tenants := [], images := [], steps := [], tickets := [], keyGens := [], keyNext := 1, lineKeys := [], deadChannels := [], badLines := [],
    mgmt := Mgmt.reset, out := [] }

end Sys2Proof.Machine
end

