-- ==== Sys2Proof/Machine/Access.lean ====
section
/-! DEFINITION. Where each piece of state is found and put: contexts, cores, tiles, registers, special
registers, bytes of memory and of tile memory, combs and launches. -/

namespace Sys2Proof.Machine

/-! Places. A context id is (tile * 4 + core) * 16 + slot; a core id is tile * 4 + core. The TSC of hive
h is slot 0 of core 0 of tile 1024 + h (R8, R11, R329). -/

def cidCore (c : Nat) : Nat := c / 16
def cidTile (c : Nat) : Nat := c / 64
def cidSlot (c : Nat) : Nat := c % 16
def coreTile (k : Nat) : Nat := k / 4
def coreCid (k slot : Nat) : Nat := k * 16 + slot

/-- Whether a context id is that of a TSC (R329). -/
def isTsc (c : Nat) : Bool := decide (1024 ≤ cidTile c)

/-- Whether a slot is a helper's (R8). -/
def isHelperSlot (n : Nat) : Bool := decide (1 ≤ n) && decide (n ≤ 10)

/-- The column and row of a tile (R11). -/
def tileX (t : Nat) : Nat := t % 32
def tileY (t : Nat) : Nat := t / 32

/-- The hive of a tile, or the hive of a TSC (R11). -/
def hiveOf (t : Nat) : Nat :=
  if 1024 ≤ t then t - 1024 else tileY t / 4 * 8 + tileX t / 4

/-- The tiles of a hive. -/
def hiveTiles (h : Nat) : List Nat := (List.range 16).map (fun i => (h / 8 * 4 + i / 4) * 32 + h % 8 * 4 + i % 4)

/-- The die of a hive; a hive row of eight spans four dies (R11). -/
def dieOfHive (h : Nat) : Nat := h / 32 * 4 + h % 8 / 2

/-- The die of a tile (R11). -/
def dieOf (t : Nat) : Nat := dieOfHive (hiveOf t)

/-- The neighbour of a tile in a direction, where the mesh has one (R137). -/
def neighbour (t : Nat) (d : Dir) : Option Nat :=
  match d with
  | .n => if tileY t = 0 ∨ 1024 ≤ t then none else some (t - 32)
  | .s => if tileY t = 31 ∨ 1024 ≤ t then none else some (t + 32)
  | .e => if tileX t = 31 ∨ 1024 ≤ t then none else some (t + 1)
  | .w => if tileX t = 0 ∨ 1024 ≤ t then none else some (t - 1)

/-- The opposite direction. -/
def dirOpp : Dir → Dir
  | .n => .s | .s => .n | .e => .w | .w => .e

/-- The number of a direction in the order n, e, s, w. -/
def dirNum : Dir → Nat
  | .n => 0 | .e => 1 | .s => 2 | .w => 3

/-- The direction of a link register, 24-27 (R135). -/
def linkDir (r : Reg) : Dir :=
  if r = 24 then .n else if r = 25 then .e else if r = 26 then .s else .w

/-! The clocks of the tiles (R30, R296, R360; log 20): times are in tenths of a nanosecond, and calendar cycle n lasts from 10 n on. -/

/-- Where the first cycle of a tile begins that begins at a time or later. -/
def Tile.edge (x : Tile) (time : Nat) : Nat :=
  if time ≤ x.clkFrom then x.clkFrom
  else if x.pinned then (time + 9) / 10 * 10
  else x.clkFrom + (time - x.clkFrom + 7) / 8 * 8

/-- The cycles of a tile's present timing that begin before a time. -/
def Tile.begun (x : Tile) (time : Nat) : Nat := (x.edge time - x.clkFrom) / (if x.pinned then 10 else 8)

/-- The elastic cycles of a tile that begin before a time. -/
def Tile.elastic (x : Tile) (time : Nat) : Nat := x.clkTotal + (if x.pinned then 0 else x.begun time)

/-- The pinned cycles of a tile that begin before a time. -/
def Tile.fixed (x : Tile) (time : Nat) : Nat := x.clkPinned + (if x.pinned then x.begun time else 0)

/-- Every cycle that a tile's clock has produced before a time (R360). -/
def Tile.cycles (x : Tile) (time : Nat) : Nat := x.elastic time + x.fixed time

/-- A tile's clock goes on from a time, in one timing or the other. -/
def Tile.retime (x : Tile) (pin : Bool) (time : Nat) : Tile :=
  { x with pinned := pin, clkTotal := x.elastic time, clkPinned := x.fixed time, clkFrom := time }

/-! Storage lenses. -/

def State.ctx (s : State) (c : Nat) : Ctx := SMap.get (fun _ => Ctx.reset) s.ctxs c
def State.setCtx (s : State) (c : Nat) (x : Ctx) : State :=
  { s with ctxs := SMap.set (fun _ => Ctx.reset) s.ctxs c x }
def State.modCtx (s : State) (c : Nat) (f : Ctx → Ctx) : State := s.setCtx c (f (s.ctx c))

def State.core (s : State) (k : Nat) : Core := SMap.get (fun _ => Core.reset) s.cores k
def State.setCore (s : State) (k : Nat) (x : Core) : State :=
  { s with cores := SMap.set (fun _ => Core.reset) s.cores k x }
def State.modCore (s : State) (k : Nat) (f : Core → Core) : State := s.setCore k (f (s.core k))

def State.tile (s : State) (t : Nat) : Tile := SMap.get (fun _ => Tile.reset) s.tiles t
def State.setTile (s : State) (t : Nat) (x : Tile) : State :=
  { s with tiles := SMap.set (fun _ => Tile.reset) s.tiles t x }
def State.modTile (s : State) (t : Nat) (f : Tile → Tile) : State := s.setTile t (f (s.tile t))

def State.hive (s : State) (h : Nat) : Hive := SMap.get (fun _ => Hive.reset) s.hives h
def State.modHive (s : State) (h : Nat) (f : Hive → Hive) : State :=
  { s with hives := SMap.set (fun _ => Hive.reset) s.hives h (f (s.hive h)) }

def State.l2line (s : State) (l : Nat) : L2Line := SMap.get (fun _ => L2Line.absent) s.l2 l
def State.setL2 (s : State) (l : Nat) (x : L2Line) : State :=
  { s with l2 := SMap.set (fun _ => L2Line.absent) s.l2 l x }

def State.sumEnt (s : State) (w : Nat) : SumEnt := SMap.get (fun _ => SumEnt.none) s.sums w
def State.setSum (s : State) (w : Nat) (x : SumEnt) : State :=
  { s with sums := SMap.set (fun _ => SumEnt.none) s.sums w x }

def State.tenant (s : State) (v : Nat) : Tenant := SMap.get (fun _ => Tenant.idle) s.tenants v
def State.modTenant (s : State) (v : Nat) (f : Tenant → Tenant) : State :=
  { s with tenants := SMap.set (fun _ => Tenant.idle) s.tenants v (f (s.tenant v)) }

/-- The cycles that a tile's clock has produced before the present calendar cycle (R360). -/
def State.tileCycles (s : State) (t : Nat) : Nat := (s.tile t).cycles (10 * s.cal)

/-- The context whose turn it is. -/
def State.me (s : State) : Ctx := s.ctx s.cur
def State.modMe (s : State) (f : Ctx → Ctx) : State := s.modCtx s.cur f
def State.myCore (s : State) : Nat := cidCore s.cur
def State.myTile (s : State) : Nat := cidTile s.cur

/-! Special registers by number. -/

def Ctx.sreg (x : Ctx) (n : Nat) : Word := SMap.get srReset x.sr n
def Ctx.setSreg (x : Ctx) (n : Nat) (w : Word) : Ctx := { x with sr := SMap.set srReset x.sr n w }
def Tile.sreg (x : Tile) (n : Nat) : Word := SMap.get srReset x.sr n
def Tile.setSreg (x : Tile) (n : Nat) (w : Word) : Tile := { x with sr := SMap.set srReset x.sr n w }
def Core.sreg (x : Core) (n : Nat) : Word := SMap.get srReset x.sr n
def Core.setSreg (x : Core) (n : Nat) (w : Word) : Core := { x with sr := SMap.set srReset x.sr n w }

/-- The special registers that are tile state: rings, %mgrp, %vshare and the windows (R97, R246, R349,
R357). -/
def isTileSr (n : Nat) : Bool :=
  (decide (0x200 ≤ n) && decide (n < 0x240)) || n == 0x241 || n == 0x308 ||
  (decide (0x310 ≤ n) && decide (n < 0x330))

/-- The special registers that are core state: %s.rhvec and %s.slice (R302). -/
def isCoreSr (n : Nat) : Bool := n == 0x446 || n == 0x449

/-- The stored special register n as context c reaches it. -/
def State.sr (s : State) (c n : Nat) : Word :=
  if isTileSr n then (s.tile (cidTile c)).sreg n
  else if isCoreSr n then (s.core (cidCore c)).sreg n
  else (s.ctx c).sreg n

/-- Write the stored special register n as context c reaches it. -/
def State.setSr (s : State) (c n : Nat) (w : Word) : State :=
  if isTileSr n then s.modTile (cidTile c) (fun t => t.setSreg n w)
  else if isCoreSr n then s.modCore (cidCore c) (fun k => k.setSreg n w)
  else s.modCtx c (fun x => x.setSreg n w)

/-- %st.tc of a context (R65). -/
def Ctx.tc (x : Ctx) : Bool := (x.sreg 0x023).getLsbD 0

/-! General registers (R135, R160). Numbers 24-29 are queues and hold no value of their own. -/

/-- G[k] for a register that is no queue; g0 reads zero. -/
def Ctx.greg (x : Ctx) (r : Reg) : Word := if r = 0 then 0 else SMap.get (fun _ => 0) x.g r.toNat

/-- Write G[k] for a register that is no queue; a write of g0 is discarded. -/
def Ctx.setGreg (x : Ctx) (r : Reg) (w : Word) : Ctx :=
  if r = 0 then x else { x with g := SMap.set (fun _ => 0) x.g r.toNat w }

/-- V[k] (R160). -/
def Ctx.vreg (x : Ctx) (k : Nat) : VWord := SMap.get (fun _ => 0) x.v k
def Ctx.setVreg (x : Ctx) (k : Nat) (w : VWord) : Ctx := { x with v := SMap.set (fun _ => 0) x.v k w }

/-- M[k]; m0 reads all ones and takes no write (R160). -/
def Ctx.mreg (x : Ctx) (k : Nat) : Word :=
  if k = 0 then BitVec.allOnes 64 else SMap.get (fun _ => 0) x.m k
def Ctx.setMreg (x : Ctx) (k : Nat) (w : Word) : Ctx :=
  if k = 0 then x else { x with m := SMap.set (fun _ => 0) x.m k w }

/-- Whether a scalar register number names a queue (R135). -/
def isQueue (r : Reg) : Bool := decide (24 ≤ r.toNat) && decide (r.toNat ≤ 29)

/-! Bytes. -/

/-- The little-endian value of a list of bytes. -/
def leNat : List Byte → Nat
  | [] => 0
  | b :: bs => b.toNat + 256 * leNat bs

/-- The n little-endian bytes of a number. -/
def leBytes : Nat → Nat → List Byte
  | 0, _ => []
  | n + 1, x => BitVec.ofNat 8 x :: leBytes n (x / 256)

/-- What a byte of memory that nothing has written reads as: DESIGN CHOICE 0 (log 1). -/
def emptyByte (_ : Nat) : Byte := 0

/-- The byte at a physical address (R385). -/
def State.byte (s : State) (pa : Nat) : Byte := SMap.get emptyByte s.mem pa
def State.setByte (s : State) (pa : Nat) (b : Byte) : State :=
  { s with mem := SMap.set emptyByte s.mem pa b }

/-- n bytes of memory from a physical address. -/
def State.bytes (s : State) (pa : Nat) : Nat → List Byte
  | 0 => []
  | n + 1 => s.byte pa :: s.bytes (pa + 1) n

/-- Store bytes of memory from a physical address. -/
def State.setBytes (s : State) (pa : Nat) : List Byte → State
  | [] => s
  | b :: bs => (s.setByte pa b).setBytes (pa + 1) bs

def State.memWord (s : State) (pa : Nat) : Word := BitVec.ofNat 64 (leNat (s.bytes pa 8))
def State.setMemWord (s : State) (pa : Nat) (w : Word) : State := s.setBytes pa (leBytes 8 w.toNat)

/-- x with its low six bits in reverse order (R95). -/
def bitrev6 (x : Nat) : Nat :=
  x % 2 * 32 + x / 2 % 2 * 16 + x / 4 % 2 * 8 + x / 8 % 2 * 4 + x / 16 % 2 * 2 + x / 32 % 2

/-- The physical place of a TM offset under a view: only the bank changes (R95). -/
def tmPlace (view off : Nat) : Nat :=
  let bank := off / 8 % 64
  let row := off / 512
  let low := row % 64
  let b :=
    if view = 1 then Nat.xor bank low
    else if view = 2 then (bank + low) % 64
    else if view = 3 then Nat.xor bank (bitrev6 low)
    else bank
  row * 512 + b * 8 + off % 8

/-- The TM byte of a tile at an offset through a view. A TSC's local memory is 256 KiB and ignores the
view (R329). -/
def tmKey (t view off : Nat) : Nat :=
  if 1024 ≤ t then t * 2 ^ 20 + off % 2 ^ 18 else t * 2 ^ 20 + tmPlace view (off % 2 ^ 20)

def State.tmByte (s : State) (t view off : Nat) : Byte := SMap.get emptyByte s.tm (tmKey t view off)
def State.setTmByte (s : State) (t view off : Nat) (b : Byte) : State :=
  { s with tm := SMap.set emptyByte s.tm (tmKey t view off) b }

/-- n TM bytes from an offset. -/
def State.tmBytes (s : State) (t view off : Nat) : Nat → List Byte
  | 0 => []
  | n + 1 => s.tmByte t view off :: s.tmBytes t view (off + 1) n

/-- Store TM bytes from an offset. -/
def State.setTmBytes (s : State) (t view off : Nat) : List Byte → State
  | [] => s
  | b :: bs => (s.setTmByte t view off b).setTmBytes t view (off + 1) bs

/-- An accumulator word (R90, R246). -/
def State.accWord (s : State) (t row col : Nat) : BitVec 32 :=
  SMap.get (fun _ => 0) s.acc ((t * 128 + row) * 256 + col)
def State.setAcc (s : State) (t row col : Nat) (x : BitVec 32) : State :=
  { s with acc := SMap.set (fun _ => 0) s.acc ((t * 128 + row) * 256 + col) x }

/-! Territory. -/

/-- The comb that holds a tile (R37). -/
def State.combOf (s : State) (t : Nat) : Option Comb := s.combs.find? (fun c => c.tiles.contains t)

/-- The comb of a job of a yard. -/
def State.combAt (s : State) (yard job : Nat) : Option Comb :=
  s.combs.find? (fun c => c.yard == yard && c.job == job)

/-- Replace the comb of a job of a yard. -/
def State.modComb (s : State) (yard job : Nat) (f : Comb → Comb) : State :=
  { s with combs := s.combs.map (fun c => if c.yard == yard && c.job == job then f c else c) }

/-- The yard and job of the comb that holds a tile; yard 0, job 0 where none does. -/
def State.yardOf (s : State) (t : Nat) : Nat := match s.combOf t with | some c => c.yard | none => 0
def State.jobOf (s : State) (t : Nat) : Nat := match s.combOf t with | some c => c.job | none => 0

/-- Whether two tiles lie in one comb; a tile lies in its own (R38, R91). -/
def State.sameComb (s : State) (t u : Nat) : Bool :=
  t == u || (match s.combOf t with | some c => c.tiles.contains u | none => false)

/-- Whether a tile may reach another: one comb, and the other does not refuse requests of its losing comb,
as it does from step 3 of a handover on (R38, R47). -/
def State.reaches (s : State) (t u : Nat) : Bool :=
  t == u || (s.sameComb t u && (match (s.tile u).move with | some m => decide (m.step < 3) | none => true))

/-- Whether the job of a tile is in bulk-synchronous mode (R32). -/
def State.bulkSync (s : State) (t : Nat) : Bool :=
  match s.combOf t with | some c => c.bsp | none => false

/-- The first element of a list with the least measure. -/
def leastBy (f : Nat → Nat) : List Nat → Option Nat
  | [] => none
  | t :: ts => match leastBy f ts with
    | some u => some (if f u < f t then u else t)
    | none => some t

/-- The physical address of a tenant record (R363, R386). -/
def recordPa (v : Nat) : Nat := 0xF * 2 ^ 52 + 0x100000 + v * 0x100

/-- The state of a tenant record (R364). -/
def State.recState (s : State) (v : Nat) : Nat := (s.memWord (recordPa v)).toNat / 2 ^ 60

/-- The physical address of an offset of device configuration space (R385, R386). -/
def configPa (off : Nat) : Nat := 0xF * 2 ^ 52 + off

/-- The hive whose pseudo-channel holds an address of this device's HBM (R12, R94; log 6). -/
def hiveOfPa (pa : Nat) : Nat := Config.hiveOfGranule (pa / 65536) % 64

/-- The address space of a physical address (R385). -/
def paSpace (pa : Nat) : Nat := pa / 2 ^ 52

/-- Draw the next free value (log 5). -/
def State.draw (s : State) : Word × State := (Config.freeValue s.free, { s with free := s.free + 1 })

/-- Bytes that come from outside the device: free values, one draw for each byte (log 5). -/
def State.drawBytes (s : State) : Nat → List Byte × State
  | 0 => ([], s)
  | n + 1 =>
    let p := s.draw
    let r := p.2.drawBytes n
    (p.1.setWidth 8 :: r.1, r.2)

/-- Put a row at the end of the agenda. -/
def State.later (s : State) (i : Instr) : State := { s with agenda := s.agenda ++ [i] }

/-- The bytes of a blob slot of the flash. -/
def Mgmt.blob (m : Mgmt) (i : Nat) : List Byte :=
  match m.blobs.find? (fun p => p.1 == i) with
  | some p => p.2
  | none => Config.flashBlob i

/-- A number of n bytes in a list. -/
def numAt (bs : List Byte) (off n : Nat) : Nat := leNat ((bs.drop off).take n)

/-- The device id of the current blob (R397). -/
def Mgmt.deviceId (m : Mgmt) : Nat := numAt (m.blob m.cur) 6 1 % 64

/-! Launches (R20, R342). -/

def Launch.is (l : Launch) (y j i : Nat) : Bool := l.yard == y && l.job == j && l.id == i
def State.launchAt (s : State) (y j i : Nat) : Option Launch := s.launches.find? (fun l => l.is y j i)
def State.modLaunch (s : State) (y j i : Nat) (f : Launch → Launch) : State :=
  { s with launches := s.launches.map (fun l => if l.is y j i then f l else l) }

def Graph.live (g : Graph) : Bool := g.count != 0
def Graph.of (g : Graph) (y j : Nat) : Bool := g.yard == y && g.job == j
def Phase.of (p : Phase) (y j : Nat) : Bool := p.yard == y && p.job == j

/-- The live graph that lists a launch id. -/
def State.graphOf (s : State) (y j i : Nat) : Option Graph :=
  s.graphs.find? (fun g => g.of y j && g.live && g.ents.any (fun e => e.1 == i))

/-- Keep the flags of a committed task with its launch and the levels above it; those of a task that START launched are kept with its
job (R75). -/
def State.keepFlags (s : State) (y j : Nat) (launch : Option Nat) (fl : Flags) : State :=
  let s := s.modComb y j (fun b => { b with flags := b.flags ||| fl })
  match launch with
  | none => s
  | some i =>
    let s := s.modLaunch y j i (fun l => { l with flags := l.flags ||| fl })
    match s.graphOf y j i with
    | none => s
    | some g =>
      let s : State := { s with graphs := s.graphs.map (fun h => if h = g then { h with flags := h.flags ||| fl } else h) }
      { s with phases := s.phases.map (fun p => if p.of y j && g.phase == some p.id then { p with flags := p.flags ||| fl } else p) }

end Sys2Proof.Machine
end

