-- ==== Sys2Proof/Machine/Home.lean ====
section
/-! DEFINITION. What happens at a line's home: its one order of writes, its version, exact-sum entries,
dead tags, and the write-back of L1 lines (R85-R87, R103-R111, R122, R323). -/

namespace Sys2Proof.Machine

/-- The line of an address (R90). -/
def lineOf (pa : Nat) : Nat := pa / 128

/-- Whether a tag is dead (R322, R323). -/
def State.isDead (s : State) (tag : Nat) : Bool := s.dead.any (fun d => d.1 == tag)

/-- The tag of a context (R304). -/
def State.tagOf (s : State) (c : Nat) : Nat := ((s.ctx c).sreg 0x808).toNat % 65536

/-- The floor word of a granule (R104). -/
def State.floorOf (s : State) (pa : Nat) : Word := SMap.get (fun _ => 0) s.floors (pa / 65536)

/-! L2 and its ways (R2, R90, R104, R368, R369). -/

/-- Whether a line may be evicted from L2 (R104). -/
def State.evictable (s : State) (l : Nat) : Bool :=
  let x := s.l2line l
  x.present && x.engine.isNone && x.solo.isNone && !((List.range 32).any (fun i => (s.sumEnt (l * 32 + i)).live))

/-- Evict a line from L2 (R104): the granule's floor rises to the line's version. -/
def State.evictL2 (s : State) (l : Nat) : State :=
  if !(s.evictable l) then s
  else
    let v := (s.l2line l).ver
    let f := s.floorOf (l * 128)
    let s : State := { s with floors := SMap.set (fun _ => 0) s.floors (l * 128 / 65536) (if f < v then v else f) }
    s.setL2 l L2Line.absent

/-- The set of the device's L2 that holds a line of this device's HBM (log 6). -/
def l2SetOf (l : Nat) : Nat := hiveOfPa (l * 128) * 4096 + Config.l2SetOfLine l % 4096

/-- The lines that L2 holds in the set of a line. -/
def State.l2Set (s : State) (l : Nat) : List Nat :=
  (s.l2.filter (fun p => p.2.present && paSpace (p.1 * 128) == 0 && l2SetOf p.1 == l2SetOf l)).map (fun p => p.1)

/-- The way quota of a tenant in a hive: that of its record, while the record is not free (R363, R365). -/
def State.wayQuota (s : State) (v h : Nat) : Nat := if s.recState v = 0 then 0 else (s.byte (recordPa v + 0x80 + h)).toNat

/-- The tenant whose quota covers a way of a hive's sets; none for a shared way (R368). The quotas take the ways in the order of
the tenants (log 6). -/
def State.wayOwner (s : State) (h w : Nat) : Option Nat :=
  (List.range 32).find? (fun v =>
    let lo := ((List.range v).map (fun u => s.wayQuota u h)).sum
    decide (lo ≤ w) && decide (w < lo + s.wayQuota v h))

/-- The place of a way in a tenant's order of preference: its own, shared, another tenant's (R368). -/
def State.wayRank (s : State) (h t w : Nat) : Nat :=
  match s.wayOwner h w with
  | none => 1
  | some v => if v = t then 0 else 2

/-- The way that a line takes for a tenant, and the line it replaces there (R368). In each class of ways a way that holds no line
comes before the least recently used evictable line (log 6). -/
def State.wayFor (s : State) (l t : Nat) : Option (Nat × Option Nat) :=
  let h := hiveOfPa (l * 128)
  let ls := s.l2Set l
  let used := ls.map (fun k => (s.l2line k).way)
  [0, 1, 2].findSome? (fun r =>
    match (List.range 16).find? (fun w => s.wayRank h t w == r && !used.contains w) with
    | some w => some (w, none)
    | none => (leastBy (fun k => (s.l2line k).used)
        (ls.filter (fun k => s.wayRank h t (s.l2line k).way == r && s.evictable k))).map (fun k => ((s.l2line k).way, some k)))

/-- Whether no tenant record's way quotas have been written: every way is shared. -/
def State.noQuotas (s : State) : Bool :=
  s.mem.all (fun (p : Host.Cell) => decide (p.1 < configPa 0x100000) || decide (configPa 0x102000 ≤ p.1) || decide (p.1 % 256 < 0x80) || decide (0xC0 ≤ p.1 % 256))

/-- Whether every set of L2 is sure to have a free shared way. -/
def State.l2Calm (s : State) : Bool := decide (s.l2.length < 16) && s.noQuotas

/-- Whether a line is in L2 or can be filled: its set holds fewer than 16 lines, or one that is evictable (R368). -/
def State.l2Room (s : State) (l : Nat) : Bool :=
  decide (s.l2.length < 16) || paSpace (l * 128) != 0 || (s.l2line l).present || decide ((s.l2Set l).length < 16) ||
  (s.l2Set l).any (fun k => s.evictable k)

/-- Whether L2 has room for several lines together, none of which can leave again (R368). -/
def State.l2RoomAll (s : State) (ls : List Nat) : Bool :=
  decide (s.l2.length + ls.length < 16) ||
  ls.all (fun l => paSpace (l * 128) != 0 ||
    decide (((ls.eraseDups).filter (fun k => !(s.l2line k).present && paSpace (k * 128) == 0 && l2SetOf k == l2SetOf l)).length ≤
      16 - (s.l2Set l).length + ((s.l2Set l).filter (fun k => s.evictable k && !(ls.contains k))).length))

/-- Note a use of a line that L2 holds (R368). -/
def State.useL2 (s : State) (l : Nat) : State :=
  { s.setL2 l { s.l2line l with used := s.l2Use + 1 } with l2Use := s.l2Use + 1 }

/-- Put a line into a way of its set for a tenant, in place of the line that R368 says; a set without room holds it no longer than the access. -/
def State.placeL2 (s : State) (l t : Nat) : State :=
  let put (s : State) (w : Nat) : State := (s.setL2 l { s.l2line l with present := true, tenant := t, way := w }).useL2 l
  if paSpace (l * 128) ≠ 0 then put s 0
  else if s.l2Calm then put s (((s.wayFor l t).map (fun p => p.1)).getD 0)
  else match s.wayFor l t with
    | none => s.setL2 l L2Line.absent
    | some (w, none) => put s w
    | some (w, some k) => put (s.evictL2 k) w

/-- Fill a line into L2 for a tenant when it is not there: it takes version floor + 1 (R104). A line that is there is used. -/
def State.fillL2 (s : State) (pa yard : Nat) : State :=
  let l := lineOf pa
  if (s.l2line l).present then s.useL2 l
  else (s.setL2 l { s.l2line l with ver := s.floorOf pa + 1 }).placeL2 l yard

/-- A write moves a line that another tenant's way holds into the writer's ways, its version kept (R369). -/
def State.moveL2 (s : State) (l yard : Nat) : State :=
  if (s.l2line l).present && (s.l2Calm || paSpace (l * 128) != 0) then s.setL2 l { s.l2line l with tenant := yard }
  else if !(s.l2line l).present ∨ s.wayRank (hiveOfPa (l * 128)) yard (s.l2line l).way ≠ 2 then s
  else
    let u := s.setL2 l { s.l2line l with present := false }
    if (u.wayFor l yard).isNone then s else u.placeL2 l yard

/-- Ver of a line, as it reads when the line is next filled (R104). -/
def State.verOf (s : State) (pa : Nat) : Word :=
  let l := s.l2line (lineOf pa)
  if l.present then l.ver else s.floorOf pa + 1

/-- Advance a line's version by exactly 1, in the ways of the tenant that writes it (R103, R369); that of a line which L2 has no room for is its
granule's floor's (R104). -/
def State.bumpVer (s : State) (pa yard : Nat) : State :=
  let s := (s.fillL2 pa yard).moveL2 (lineOf pa) yard
  if (s.l2line (lineOf pa)).present then s.setL2 (lineOf pa) { s.l2line (lineOf pa) with ver := (s.l2line (lineOf pa)).ver + 1 }
  else { s with floors := SMap.set (fun _ => 0) s.floors (pa / 65536) (s.floorOf pa + 1) }

/-- The code an exact-sum entry delivers, with its flags (R87). -/
def SumEnt.deliver (e : SumEnt) : Nat × Flags :=
  deliverSum e.sum (e.kind == .nan) e.range
    (match e.kind with | .posInf => some false | .negInf => some true | _ => Option.none)

/-- A byte as it reads at home: a word with a live entry reads as the entry's rounding (R87, R289). -/
def State.homeByte (s : State) (pa : Nat) : Byte :=
  let e := s.sumEnt (pa / 4)
  if e.live then BitVec.ofNat 8 (e.deliver.1 / 256 ^ (pa % 4)) else s.byte pa

/-- n bytes as they read at home. -/
def State.homeBytes (s : State) (pa : Nat) : Nat → List Byte
  | 0 => []
  | n + 1 => s.homeByte pa :: s.homeBytes (pa + 1) n

/-- The flags of the entries of the words of which a load of n bytes from pa returns the rounding: the words that it does not find whole among
the bytes it holds itself (R87, R289). -/
def State.sumFlagsBut (s : State) (pa n : Nat) (own : Nat → Bool) : Flags :=
  let ws := (((List.range n).filter (fun i => !(own (pa + i)))).map (fun i => (pa + i) / 4)).eraseDups
  ws.foldl (fun f w => let e := s.sumEnt w; if e.live then f ||| e.deliver.2 else f) Flags.none

/-- The flags of the entries of the words that n bytes from pa lie in (R87). -/
def State.sumFlags (s : State) (pa n : Nat) : Flags := s.sumFlagsBut pa n (fun _ => false)

/-- The key that a line was last written under, 0 where no key has written it (R367). -/
def State.lineKey (s : State) (pa : Nat) : Nat := SMap.get (fun _ => 0) s.lineKeys (lineOf pa)

/-- Whether an access under a page's key meets a line written under another one (R367). -/
def State.keyClash (s : State) (pa : Nat) (pg : Pg) : Bool :=
  match pg.key with
  | none => false
  | some k => s.lineKey pa != 0 && s.lineKey pa != k

/-- The unrelated bytes that a line delivers under a key that did not write it (R367; log 7). -/
def State.garbledBytes (s : State) (pa n : Nat) (pg : Pg) : List Byte :=
  (s.homeBytes pa n).zipIdx.map (fun p => Config.garbled (pa + p.2) (s.lineKey pa) (pg.key.getD 0) p.1)

/-- A read at home bearing a tag: a dead tag reads zeros (R323), and a line under another key unrelated bytes (R367). -/
def State.homeRead (s : State) (tag pa n : Nat) (pg : Pg) : List Byte :=
  if s.isDead tag then List.replicate n 0
  else if s.keyClash pa pg then s.garbledBytes pa n pg
  else s.homeBytes pa n

/-- Store bytes at their addresses, freeing the exact-sum entry of each word written (R87, R105). -/
def State.putBytes (s : State) : List (Nat × Byte) → State
  | [] => s
  | (a, b) :: bs => ((s.setByte a b).setSum (a / 4) SumEnt.none).putBytes bs

/-- Whether an access can be served at a line's home now: no engine owns the line, and no solo task but the accessing one (R26,
R122), and its set of L2 has room for it (R368). -/
def State.lineFree (s : State) (pa : Nat) (me : Option Nat) : Bool :=
  let l := s.l2line (lineOf pa)
  l.engine.isNone && (l.solo.isNone || l.solo == me) && s.l2Room (lineOf pa)

/-! The calendar of a tile's ports (R32, R354-R358). -/

/-- The calendar slot of the current cycle (R296, R354). -/
def State.slot (s : State) : Nat := s.cal % 64

/-- The calendar byte of a tile's port in a slot, as applied (R356). -/
def State.calByte (s : State) (t p sl : Nat) : Nat :=
  (SMap.get (fun _ => (0 : Byte)) s.calApplied (t * 0x200 + p * 0x40 + sl)).toNat % 64

/-- Whether a slot is set in a valid window of a tile's port (R357, R358). -/
def State.inWindow (s : State) (t p sl : Nat) : Bool :=
  (List.range 16).any (fun n =>
    let port := (s.tile t).sreg (0x311 + 2 * n)
    let win := (s.tile t).sreg (0x310 + 2 * n)
    port.getLsbD 63 && (port.extractLsb' 0 3).toNat == p && win.getLsbD sl)

/-- Whether a port of a tile has a valid window (R358). -/
def State.windowed (s : State) (t p : Nat) : Bool :=
  (List.range 16).any (fun n =>
    let port := (s.tile t).sreg (0x311 + 2 * n)
    port.getLsbD 63 && (port.extractLsb' 0 3).toNat == p)

/-- Whether a send or shared access in a slot is permitted on a port of a tile (R32, R297). -/
def State.slotOk (s : State) (t p : Nat) : Bool :=
  s.inWindow t p s.slot && s.calByte t p s.slot == s.yardOf t

/-- Whether a flit of a tile's yard may leave on one of its network ports in the current slot: in a bulk-synchronous job a slot of the yard's
that a valid window of the port covers, where the port has windows, and otherwise a slot of the yard's or an open one (R355, R358; log 20). -/
def State.portOpen (s : State) (t p : Nat) : Bool :=
  if s.bulkSync t then s.calByte t p s.slot == s.yardOf t && (s.inWindow t p s.slot || (p != 7 && !(s.windowed t p)))
  else s.calByte t p s.slot == s.yardOf t || s.calByte t p s.slot == 63

/-- Whether a flit of yard y may leave on port p of a tile in the current slot: the slot is the yard's, or open (R354, R355). -/
def State.mayLeaveIn (s : State) (y t p : Nat) : Bool := s.calByte t p s.slot == y || s.calByte t p s.slot == 63

/-- When a value in flight toward core k from a direction can be popped, if its flit leaves in the current slot: the slot must be one that the
sender's yard may use on that link. Between pinned tiles it is the next calendar cycle, and else the third after the slot (R299; log 20). -/
def State.flitDue (s : State) (k : Nat) (d : Dir) : Option Nat :=
  match neighbour (coreTile k) d with
  | none => none
  | some u =>
    if s.mayLeaveIn (s.yardOf u) u (dirNum (dirOpp d)) then
      some (s.cal + (if (s.tile u).pinned && (s.tile (coreTile k)).pinned then 1 else 3))
    else none

/-- Every flit that waits for a slot and may use the current one leaves (R299, R354). -/
def State.sendFlits (s : State) : State :=
  { s with cores := s.cores.map (fun p => (p.1, { p.2 with flight := p.2.flight.map (fun f =>
      if f.due.isNone then { f with due := s.flitDue p.1 f.dir } else f) })) }

/-- Whether some slot of a calendar can carry a flit of a yard. -/
def State.anySlot (s : State) (port y : Nat) : Bool :=
  (List.range 64).any (fun i =>
    let b := (SMap.get (fun _ => (0 : Byte)) s.calApplied (port * 64 + i)).toNat % 64
    b == y || b == 63)

/-- Whether the L2 slice that holds a line can answer a yard: its response port has a slot for it (R354, R356). The model answers in the
step of the request (log 20). -/
def State.answers (s : State) (y pa : Nat) : Bool :=
  if s.calApplied.all (fun (p : Nat × Byte) => decide (p.1 < 0x80000)) then y == 0
  else s.anySlot (0x2000 + hiveOfPa pa * 8 + Config.l2SetOfLine (lineOf pa) % 4096 / 512) y

/-- The links of the route between two tiles, along the row first and then along the column (R37): each sending tile with the port of its
link. -/
def routeLinks (t u : Nat) : List (Nat × Nat) :=
  (List.range (tileX u - tileX t)).map (fun i => (t + i, 1)) ++ (List.range (tileX t - tileX u)).map (fun i => (t - i, 3)) ++
  (List.range (tileY u - tileY t)).map (fun i => ((tileY t + i) * 32 + tileX u, 2)) ++
  (List.range (tileY t - tileY u)).map (fun i => ((tileY t - i) * 32 + tileX u, 0))

/-- Whether the links between two tiles, there and back, can all carry flits of a yard: one with neither a slot of the yard's nor an open one never
does (R366). The links that are passed through cost the model no time (log 20). -/
def State.routeOpen (s : State) (y t u : Nat) : Bool :=
  if s.calApplied.all (fun (p : Nat × Byte) => decide (0x80000 ≤ p.1) || decide (0x100 ≤ p.1 % 0x200)) then y == 0 || t == u
  else (routeLinks t u ++ routeLinks u t).all (fun l => s.anySlot (l.1 * 8 + l.2) y)

/-- The tile at whose router the L2 slice of an address is reached (log 6). -/
def sliceTileOf (pa : Nat) : Nat :=
  (hiveTiles (hiveOfPa pa)).getD (Config.sliceTile (hiveOfPa pa * 8 + Config.l2SetOfLine (lineOf pa) % 4096 / 512) % 16) 0

/-- Whether the links between a tile and the home of an address of this device can carry the tile's requests and their answers (R366). -/
def State.homeRoute (s : State) (t pa : Nat) : Bool :=
  decide (1024 ≤ t) || paSpace pa != 0 || s.routeOpen (s.yardOf t) t (sliceTileOf pa)

/-- Whether the links between a tile and the home of an address carry its requests, and the slice there can answer them (R354, R366). -/
def State.carries (s : State) (t pa : Nat) : Bool :=
  decide (1024 ≤ t) || (s.homeRoute t pa && (paSpace pa != 0 || s.answers (s.yardOf t) pa))

/-- Whether a tile's L2 request leaves now and, at a slice of this device, will be answered; a TSC sits at its hive's slices and follows no
calendar (R329, R354). -/
def State.requests (s : State) (t pa : Nat) : Bool := decide (1024 ≤ t) || (s.portOpen t 7 && s.carries t pa)

/-- Whether a tile's fetch of an instruction can be served at a line's home now: it takes a slot of the yard's on port 7, or an open one where no
schedule binds the job. It is no access of R32, so that no window binds it (R354, R355; log 20). -/
def State.fetchOpen (s : State) (t pa : Nat) : Bool :=
  let b := s.calByte t 7 s.slot
  s.lineFree pa none && (decide (1024 ≤ t) ||
    ((b == s.yardOf t || (b == 63 && !(s.bulkSync t))) && s.carries t pa))

/-- Whether an access of a tile can be served at a line's home now. -/
def State.homeOpen (s : State) (t pa : Nat) (me : Option Nat) : Bool := s.lineFree pa me && s.requests t pa

/-- Whether a line of this address has a version: HBM of this device or of another one of the domain, and
not on a memory-side page (R12, R103, R385). -/
def versioned (pa : Nat) (pg : Pg) : Bool := (paSpace pa == 0 || paSpace pa == 0xA) && !pg.memSide

/-- A line that is written under a key bears it from then on; what another key had put there is lost (R367). -/
def State.takeKey (s : State) (pa : Nat) (pg : Pg) : State :=
  match pg.key with
  | none => s
  | some k =>
    let base := lineOf pa * 128
    let s := if s.keyClash pa pg then s.putBytes ((s.garbledBytes base 128 pg).zipIdx.map (fun p => (base + p.2, p.1))) else s
    { s with lineKeys := SMap.set (fun _ => 0) s.lineKeys (lineOf pa) k }

/-- One write that reaches home: bytes of one line, one advance of its version (R103, R107). A write of
a dead tag is dropped (R323); tag 0x10000 marks bytes whose tags have been tested already. -/
def State.homeWrite (s : State) (tag yard : Nat) (pg : Pg) (bs : List (Nat × Byte)) : State :=
  match bs with
  | [] => s
  | (a, b) :: bs' =>
    if s.isDead tag then s
    else
      let s := (s.takeKey a pg).putBytes ((a, b) :: bs')
      if versioned a pg then s.bumpVer a yard else s

/-- Free the live entries of a line into its words: the rounded values, and one advance of the version;
with their flags (R87, R185). -/
def State.flushSums (s : State) (pa yard : Nat) : State × Flags :=
  let base := lineOf pa * 32
  let live := (List.range 32).filter (fun i => (s.sumEnt (base + i)).live)
  if live.isEmpty then (s, Flags.none)
  else
    let fl := live.foldl (fun f (i : Nat) => f ||| (s.sumEnt (base + i)).deliver.2) Flags.none
    let t := live.foldl (fun t i =>
      (t.setBytes ((base + i) * 4) (leBytes 4 (t.sumEnt (base + i)).deliver.1)).setSum (base + i) SumEnt.none) s
    (t.bumpVer pa yard, fl)

/-- The number of live entries of this device's words that are homed in a hive (R85). -/
def State.sumCount (s : State) (h : Nat) : Nat :=
  (s.sums.filter (fun p => p.2.live && paSpace (p.1 * 4) == 0 && hiveOfPa (p.1 * 4) == h)).length

/-- The entry of a word, allocated from the word's F32 value when there is none (R85). -/
def State.sumStart (s : State) (w : Nat) : SumEnt :=
  let e := s.sumEnt w
  if e.live then e
  else match Fmt.value .f32 false (leNat (s.bytes (w * 4) 4)) with
    | .nan _ => { live := true, sum := 0, kind := .nan, range := false }
    | .inf n => { live := true, sum := 0, kind := if n then .negInf else .posInf, range := false }
    | .fin n m x _ =>
      let a : Int := align m x (-149)
      { live := true, sum := if n then -a else a, kind := .finite, range := false }

/-- The entry after an addition of an F32 value (R86). -/
def SumEnt.add (e : SumEnt) (x : Nat) : SumEnt :=
  match Fmt.value .f32 false x with
  | .nan _ => { e with kind := .nan }
  | .inf n =>
    let k : SumKind := if n then .negInf else .posInf
    if e.kind = .nan then e
    else if e.kind = .finite ∨ e.kind = k then { e with kind := k }
    else { e with kind := .nan }
  | .fin n m y _ =>
    let a : Int := align m y (-149)
    let t := e.sum + (if n then -a else a)
    if t < -(2 ^ 319) ∨ 2 ^ 319 ≤ t then { e with range := true } else { e with sum := t }

/-! L1 (R90, R110). -/

def Tile.line (t : Tile) (l : Nat) : CacheLine := SMap.get (fun _ => CacheLine.absent) t.l1 l
def Tile.setLine (t : Tile) (l : Nat) (x : CacheLine) : Tile :=
  { t with l1 := SMap.set (fun _ => CacheLine.absent) t.l1 l x }
def Tile.roLine (t : Tile) (l : Nat) : CacheLine := SMap.get (fun _ => CacheLine.absent) t.ro l
def Tile.setRoLine (t : Tile) (l : Nat) (x : CacheLine) : Tile :=
  { t with ro := SMap.set (fun _ => CacheLine.absent) t.ro l x }

/-- Byte i of a line's clean bytes. -/
def CacheLine.cleanByte (x : CacheLine) (i : Nat) : Byte := x.clean.extractLsb' (8 * i) 8

/-- Byte i of a line: the dirty byte when there is one, the clean byte otherwise. -/
def CacheLine.byteAt (x : CacheLine) (i : Nat) : Byte :=
  match SMap.get (fun _ => none) x.dirty i with
  | some d => d.byte
  | none => x.cleanByte i

/-- The 1,024-bit content of 128 bytes. -/
def lineBits (bs : List Byte) : BitVec 1024 := BitVec.ofNat 1024 (leNat bs)

/-- The dirty bytes of a line, with their addresses. -/
def CacheLine.dirtyCells (x : CacheLine) (l : Nat) : List (Nat × DirtyByte) :=
  x.dirty.filterMap (fun p => p.2.map (fun d => (l * 128 + p.1, d)))

/-- The line after its dirty bytes have been written at home: they are clean. It goes on carrying the version it was filled with
(R113). -/
def CacheLine.cleaned (x : CacheLine) : CacheLine :=
  let clean := x.dirty.foldl (fun c p =>
    match p.2 with
    | some d => (c &&& ~~~(BitVec.ofNat 1024 255 <<< (8 * p.1))) ||| ((d.byte.setWidth 1024) <<< (8 * p.1))
    | none => c) x.clean
  { x with dirty := [], clean := clean }

/-- Whether an address lies in a retired pseudo-channel (R382; log 6). -/
def State.channelDead (s : State) (pa : Nat) : Bool :=
  paSpace pa == 0 && s.deadChannels.contains (hiveOfPa pa * 32 + Config.channelOfGranule (pa / 65536) % 32)

/-- An access leaves over Milay or PCIe, under the next number. -/
def State.sendOut (s : State) (r : Remote) : State :=
  { s with nextReq := s.nextReq + 1, remotes := s.remotes ++ [{ r with id := s.nextReq, sent := s.cal }] }

/-- Send a write to the line of another device, for a core that stored some of its bytes (R111, R130). One to a retired pseudo-channel fails
(R382). -/
def State.sendLine (s : State) (l core tag : Nat) (tv pc : Word) : State :=
  s.sendOut { Remote.of (core * 16) tag false true (l * 128) 128 tv pc with failed := s.channelDead (l * 128) }

/-- Dirty bytes of one line of a tile leave for home as one write (R108): the bytes of a dead tag are dropped (R323), and a line of
another device goes out over Milay, where every core that stored some of the bytes waits for its acknowledgement (R111). Where the line's
pseudo-channel has been retired nothing is written, and the cause is due for every such core (R382). -/
def State.sendHome (s : State) (t l : Nat) (cells : List (Nat × DirtyByte)) : State :=
  match cells with
  | [] => s
  | (_, d) :: _ =>
    let live := cells.filter (fun c => !s.isDead c.2.tag)
    let s := if paSpace (l * 128) = 0xA ∨ s.channelDead (l * 128) then
        (live.map (fun (c : Nat × DirtyByte) => (c.2.core, c.2.tag))).eraseDups.foldl (fun s k =>
          let d := ((live.find? (fun c => c.2.core == k.1 && c.2.tag == k.2)).map (fun c => c.2)).getD d
          s.sendLine l k.1 k.2 d.ptr d.pc) s
      else s
    if s.channelDead (l * 128) then s else s.homeWrite 0x10000 (s.yardOf t) d.pg (live.map (fun c => (c.1, c.2.byte)))

/-- Write the dirty bytes of a line of L1 back to home (R108). -/
def State.writeBack (s : State) (t l : Nat) : State :=
  let x := (s.tile t).line l
  if (x.dirtyCells l).isEmpty then s
  else (s.sendHome t l (x.dirtyCells l)).modTile t (fun tl => tl.setLine l x.cleaned)

/-- The bytes in a tile's write-combining buffer, with their addresses. -/
def Tile.combined (x : Tile) : List (Nat × DirtyByte) := x.wcb.filterMap (fun p => p.2.map (fun d => (p.1, d)))

/-- The write-combining buffer's bytes of a tile, written back at home line by line (R183); those of a line that cannot be
written there now stay. -/
def State.drainWcb (s : State) (t : Nat) : State :=
  let ok := (s.tile t).combined.filter (fun c => s.homeOpen t c.1 none)
  let keep := (s.tile t).wcb.filter (fun p => !(s.homeOpen t p.1 none))
  let lines := (ok.map (fun (c : Nat × DirtyByte) => lineOf c.1)).eraseDups
  let s := lines.foldl (fun s l => s.sendHome t l (ok.filter (fun c => lineOf c.1 == l))) s
  s.modTile t (fun tl => { tl with wcb := keep })

/-- Write a line's dirty bytes of a tile back to home, those in the write-combining buffer included. -/
def State.cleanLine (s : State) (t l : Nat) : State := (s.writeBack t l).drainWcb t

/-- Whether an engine, a solo task or the calendar holds up the write-back of bytes that a core has stored, in L1 or in the write-combining buffer
(R111, R183, R354). -/
def State.dirtyBlocked (s : State) (t k : Nat) : Bool :=
  (s.tile t).l1.any (fun p => p.2.dirty.any (fun q =>
    match q.2 with | some d => d.core == k && !(s.homeOpen t (p.1 * 128) none) | none => false)) ||
  (s.tile t).combined.any (fun c => c.2.core == k && !(s.homeOpen t c.1 none))

/-- The write-combining buffer is emptied as far as it goes before a line is read from home. -/
def State.settleWcb (s : State) (t : Nat) : State := if (s.tile t).wcb.isEmpty then s else s.drainWcb t

/-! The room of L1 and of the read-only cache (R90; log 67). -/

/-- The lines of a tile's L1 that can leave it now: clean ones, and dirty ones that can be written back. -/
def State.l1Leavers (s : State) (t : Nat) : List Nat :=
  ((s.tile t).l1.filter (fun p => p.2.dirty.isEmpty || s.homeOpen t (p.1 * 128) none)).map (fun p => p.1)

/-- Whether L1 can take one line more: it holds fewer than its 1,024 lines, or one of them can leave. -/
def State.l1Room (s : State) (t : Nat) : Bool := decide ((s.tile t).l1.length < 1024) || !(s.l1Leavers t).isEmpty

/-- Make room for a line in L1: when it is full, one of its lines leaves, a free choice (log 5). -/
def State.roomL1 (s : State) (t : Nat) : State :=
  if (s.tile t).l1.length < 1024 then s
  else
    let ls := s.l1Leavers t
    let p := s.draw
    let l := ls.getD (p.1.toNat % ls.length) 0
    (p.2.writeBack t l).modTile t (fun x => x.setLine l CacheLine.absent)

/-- Make room for a line in the read-only cache: when it holds its 256 lines, one of them leaves, a free choice (log 5). -/
def State.roomRo (s : State) (t : Nat) : State :=
  if (s.tile t).ro.length < 256 then s
  else
    let ls := (s.tile t).ro.map (fun (q : Nat × CacheLine) => q.1)
    let p := s.draw
    p.2.modTile t (fun x => x.setRoLine (ls.getD (p.1.toNat % ls.length) 0) CacheLine.absent)

/-- Write back every L1 line that holds dirty bytes of core k (R111). -/
def State.releaseCore (s : State) (t k : Nat) : State :=
  let lines := ((s.tile t).l1.filter (fun p => p.2.dirty.any (fun q =>
    match q.2 with | some d => d.core == k | none => false))).map (fun p => p.1)
  (lines.foldl (fun s l => s.writeBack t l) s).drainWcb t

/-- Write back every dirty line of a tile. -/
def State.releaseTile (s : State) (t : Nat) : State :=
  let lines := ((s.tile t).l1.filter (fun p => !p.2.dirty.isEmpty)).map (fun p => p.1)
  (lines.foldl (fun s l => s.writeBack t l) s).drainWcb t

/-- The copies that FENCE.ACQ discards (R111): clean lines homed here and, at tenant scope, elsewhere; the
clean bytes of partly dirty ones; the whole read-only cache. -/
def State.acquireTile (s : State) (t sc : Nat) : State :=
  if sc = 0 then s
  else s.modTile t (fun tl =>
    { tl with ro := [], l1 := tl.l1.filterMap (fun p =>
        if paSpace (p.1 * 128) = 0xA ∧ sc < 2 then some p
        else if p.2.dirty.isEmpty then none
        else some (p.1, { p.2 with refill := true })) })

end Sys2Proof.Machine
end

