-- ==== Sys2Proof/Machine/Tasks.lean ====
section
/-! DEFINITION. The life of a task and of its helper (R15-R28, R133, R345), the resident handler's entry
(R320), and the killing of a context (R322). -/

namespace Sys2Proof.Machine

/-- Whether a slot number names the end of a helper: the slot it ended in, with which its frame is marked (R16), or the one that its START
answered (R134; log 48). -/
def Ended.named (e : Ended) (n : Nat) : Bool := e.slot == n || e.start == n

/-- What a slot number names among a core's ended helpers, the newest of them: 0 none, f + 1 the retained frame f. -/
def Core.endedOf (k : Core) (n : Nat) : Nat := ((k.ended.find? (fun e => e.named n)).map (fun e => e.frame)).getD 0

/-- A helper has ended: an older end without a frame under the same numbers is forgotten, and an older retained frame stays (R16). -/
def Core.noteEnd (k : Core) (e : Ended) : Core :=
  { k with ended := e :: k.ended.filter (fun o => o.frame != 0 || !(o.named e.slot || o.named e.start)) }

/-- The frame that a slot number names is claimed by a START. -/
def Core.claim (k : Core) (n : Nat) : Core :=
  { k with ended := match k.ended.find? (fun e => e.named n) with | some e => k.ended.erase e | none => k.ended }

/-- The TM offset of a helper frame of a tile's pool (R348). -/
def State.frameOff (s : State) (t f : Nat) : Nat :=
  match s.combOf t with
  | some c => (c.poolBase + f) * 4096
  | none => f * 4096

/-- Zero a 4 KiB-aligned block of TM: the same bank words in every view (R16, R95). -/
def State.clearFrame (s : State) (t off : Nat) : State :=
  { s with tm := s.tm.filter (fun p => decide (p.1 < t * 2 ^ 20 + off) || decide (t * 2 ^ 20 + off + 4096 ≤ p.1)) }

/-- Return a frame to the pool; it reads zeros from then on (R16). -/
def State.dropFrame (s : State) (t f : Nat) : State :=
  (s.clearFrame t (s.frameOff t f)).modTile t (fun x => { x with frames := x.frames.filter (· != f) })

/-- The number of helper frames of a tile (R371). -/
def State.poolSize (s : State) (t : Nat) : Nat :=
  match s.combOf t with | some c => c.frames | none => 0

/-- The lowest free frame of a tile's pool (R347). -/
def State.freeFrame (s : State) (t : Nat) : Option Nat :=
  (List.range (s.poolSize t)).find? (fun f => !(s.tile t).frames.contains f)

/-- The lowest free helper slot of a core (R177). -/
def State.freeSlot (s : State) (k : Nat) : Option Nat :=
  (List.range 10).find? (fun i => !(s.ctx (coreCid k (i + 1))).live) |>.map (· + 1)

/-- The lines an engine command owns are its own no longer (R122, R322). -/
def State.disown (s : State) (lines : List Nat) : State :=
  lines.foldl (fun s l => s.setL2 l { s.l2line l with engine := none }) s

/-- The number under which a command's destination lines are owned before an engine has accepted it (R122). -/
def QEntry.ownId (q : QEntry) : Option Nat :=
  match q.inst with
  | .cpGo _ _ _ | .gaGo _ _ _ | .scGo _ _ _ | .coRed _ _ _ | .coBcast _ _ _ | .coAr _ _ _ => if q.qkw = 0 then none else some q.qkw.toNat
  | _ => none

/-- The lines of commands that leave a queue without being accepted are owned no longer. -/
def State.disownAll (s : State) (qs : List QEntry) : State :=
  let ids := qs.filterMap QEntry.ownId
  s.disown ((s.l2.filter (fun p => p.2.engine.any ids.contains)).map (fun p => p.1))

/-- Stop the engine commands of a tag on every tile; what they have done stands (R322). -/
def State.stopCommands (s : State) (tag : Nat) : State :=
  s.tiles.foldl (fun s p =>
    let own := p.2.eng.filter (fun e => e.q.tag == tag)
    if own.isEmpty then s
    else (s.disown (own.flatMap (fun e => e.owned))).modTile p.1
      (fun x => { x with eng := x.eng.filter (fun e => e.q.tag != tag) })) s

/-- The invalidations that a context no longer waits for: one that is made again begins again (R338, R341). -/
def State.dropShoots (s : State) (c : Nat) : State := { s with shoots := s.shoots.filter (fun q => q.cid != c) }

/-- Whether an instruction is a V-format operation (R217). -/
def isVFormat : Instr → Bool
  | .vadd _ _ _ _ _ | .vsub _ _ _ _ _ | .vmul _ _ _ _ _ | .vfma _ _ _ _ _ | .vfms _ _ _ _ _ | .vdiv _ _ _ _ _ | .vsqrt _ _ _ _
  | .vmin _ _ _ _ _ | .vmax _ _ _ _ _ | .vabs _ _ _ _ | .vneg _ _ _ _ | .vcmp _ _ _ _ _ _ | .vand _ _ _ _ _ | .vor _ _ _ _ _
  | .vxor _ _ _ _ _ | .vshl _ _ _ _ _ | .vshr _ _ _ _ _ | .vsra _ _ _ _ _ | .vsel _ _ _ _ _ | .vperm _ _ _ _ _ | .vmov _ _ _ _
  | .vbcast _ _ _ _ | .vswz _ _ _ _ _ | .vext _ _ _ _ | .vextMask _ _ _ | .vins _ _ _ _ | .vinsMask _ _ _ | .vld _ _ _ _ _
  | .vldtm _ _ _ _ _ | .vst _ _ _ _ | .vsttm _ _ _ _ | .vgath _ _ _ _ _ | .vscat _ _ _ _ | .vcvt _ _ _ _ | .vpack _ _ _ _
  | .vunpk _ _ _ _ | .vqnt _ _ _ _ _ | .vred _ _ _ _ _ | .vdot _ _ _ _ _ | .vrng _ _ _ | .vcls _ _ _ _ _ | .vtbl _ _ _ _ _
  | .vbfly _ _ _ _ _ | .vcnt _ _ _ _ _ | .vscan _ _ _ _ _ => true
  | _ => false

/-- Whether a vector queue is occupied: a V-format operation stands at its head (R350). -/
def Core.occupied (k : Core) : Bool :=
  match k.vq with
  | q :: _ => isVFormat q.inst
  | [] => false

/-- A queue that is unoccupied holds no lane groups (R351). -/
def Core.settleLanes (k : Core) : Core := if k.occupied then k else { k with lanes := 0 }

/-- Remove a context's coprocessor instructions from its queue and from the matrix engine and the Glalin array. -/
def State.dropCommands (s : State) (c : Nat) : State :=
  let k := s.core (cidCore c)
  let s := s.disownAll ((k.vq ++ k.held).filter (fun q => q.cid == c))
  let s := s.modCore (cidCore c) (fun k =>
    { k with vq := k.vq.filter (fun q => q.cid != c), held := k.held.filter (fun q => q.cid != c) }.settleLanes)
  s.modTile (cidTile c) (fun t =>
    { t with mq := t.mq.filter (fun q => q.cid != c), mrun := t.mrun.filter (fun r => r.q.cid != c),
             wq := t.wq.filter (fun q => q.cid != c),
             streams := t.streams.filter (fun m => m.q.cid != c) })

/-- The contexts of a tile. -/
def tileCids (t : Nat) : List Nat := (List.range 48).map (fun i => (t * 4 + i / 12) * 16 + i % 12)

/-- Whether a live context of a tile requests fixed timing (R29). -/
def State.wantsPin (s : State) (t : Nat) : Bool :=
  (tileCids t).any (fun c => (s.ctx c).live && (s.ctx c).sreg 0x010 == 1)

/-- Leave fixed timing when no context asks for it any more (R29, R361). -/
def State.unpin (s : State) (t : Nat) : State :=
  if s.wantsPin t then s
  else if (s.tile t).pinned then
    s.modTile t (fun x => { x.retime false (10 * s.cal + 10) with leaving := some (s.cal + 8) })
  else s.modTile t (fun x => { x with pinDue := none })

/-- Release the lines a solo task owns, and its launch's token (R26). -/
def State.releaseSolo (s : State) (c : Nat) : State :=
  let lines := (s.l2.filter (fun p => p.2.solo == some c)).map (fun p => p.1)
  let s := lines.foldl (fun s l => s.setL2 l { s.l2line l with solo := none }) s
  { s with launches := s.launches.map (fun l => if l.solo == some c then { l with solo := none } else l) }

/-- The helper of a context is gone: its slot is free and its commands removed. -/
def State.freeHelper (s : State) (c : Nat) : State :=
  let own := (s.tile (cidTile c)).gl.filter (fun p => p.2.owner == some (0x10000 + c))
  let s := ((s.releaseSolo c).dropCommands c).setCtx c Ctx.reset
  (own.foldl (fun s p => s.modTile (cidTile c)
    (fun t => { t with gl := SMap.set (fun _ => GlSlot.free) t.gl p.1 GlSlot.free })) s).unpin (cidTile c)

/-- A graph's launch i has completed (R345): its counter falls, and its phase's when it reaches zero. -/
def State.graphStep (s : State) (y j i : Nat) : State :=
  match s.graphs.find? (fun g => g.yard == y && g.job == j && g.count != 0 &&
      g.ents.any (fun e => e.1 == i && !e.2.2)) with
  | none => s
  | some g =>
    let g' : Graph :=
      (let ents := g.ents.map (fun e => if e.1 == i then (e.1, e.2.1, true) else e)
       { g with ents := ents, count := (ents.filter (fun e => !e.2.2)).length })
    let s : State :=
      { s with graphs := s.graphs.map (fun h => if h.yard == y && h.job == j && h.id == g.id then g' else h) }
    if g'.count ≠ 0 then s
    else match g.phase with
      | none => s
      | some p =>
        { s with phases := s.phases.map (fun h =>
            if h.yard == y && h.job == j && h.id == p then { h with count := h.count - 1 } else h) }

/-- Retained frames that no START claimed are powered down when a phase completes (R16, R268). -/
def State.dropRetained (s : State) (y j : Nat) : State :=
  match s.combAt y j with
  | none => s
  | some c => c.tiles.foldl (fun s t =>
      (List.range 4).foldl (fun s n =>
        let k := t * 4 + n
        let s := (s.core k).ended.foldl (fun s e => if e.frame = 0 then s else s.dropFrame t (e.frame - 1)) s
        s.modCore k (fun x => { x with ended := x.ended.filter (fun e => e.frame == 0) })) s) s

/-- The counter of a launch has reached zero: the counters above it follow, and a phase that completes
powers down the retained frames (R345, R268). -/
def State.launchDone (s : State) (y j i : Nat) : State :=
  let open_ (s : State) : Nat := (s.phases.filter (fun p => p.yard == y && p.job == j && p.count != 0)).length
  let t := s.graphStep y j i
  if open_ t < open_ s then t.dropRetained y j else t

/-- A task of a launch has ended (R20): the launch's counter falls. -/
def State.taskEnded (s : State) (y j : Nat) (launch : Option Nat) : State :=
  match launch with
  | none => s
  | some i =>
    match s.launchAt y j i with
    | none => s
    | some l =>
      if l.count = 0 then s
      else
        let s := s.modLaunch y j i (fun l => { l with count := l.count - 1 })
        if l.count = 1 then s.launchDone y j i else s

/-- Put a task back at the head of its launch, or at its core for a START helper (R28, R177, R343). -/
def State.requeue (s : State) (k : Nat) (t : Task) : State :=
  match t.launch with
  | none => s.modCore k (fun x => { x with requeue := t :: x.requeue })
  | some i => s.modLaunch t.yard t.job i (fun l =>
      { l with queue := t :: l.queue, running := l.running.filter (· != t.index) })

/-- Abort a helper's task and re-queue it (R13, R24, R25): stores and deferred commands are discarded, TM
writes stand. counted says whether the abort counts toward solo mode; solo asks for it at once. -/
def State.abortTask (s : State) (c : Nat) (counted solo : Bool) : State :=
  match (s.ctx c).helper with
  | none => s
  | some h =>
    let n := if counted then h.task.aborts + 1 else h.task.aborts
    let t : Task := { h.task with aborts := n, solo := solo || h.task.solo || decide (8 ≤ n) }
    let s := (s.freeHelper c).dropFrame (cidTile c) h.frame
    s.requeue (cidCore c) t

/-- A task that has met a page in transit aborts and parks, which counts nothing toward solo mode (R28, R337). -/
def State.parkTask (s : State) (c : Nat) (p : Word) : State :=
  (s.modCtx c (fun x => { x with helper := x.helper.map (fun h => { h with task := { h.task with park := some p } }) })).abortTask c false false

/-- End a helper's task without re-queueing it (R21, R28). -/
def State.endTask (s : State) (c : Nat) : State :=
  match (s.ctx c).helper with
  | none => s
  | some h =>
    let s := (s.freeHelper c).dropFrame (cidTile c) h.frame
    let s := s.modCore (cidCore c) (fun k => k.noteEnd { start := cidSlot h.task.slot, slot := cidSlot c, frame := 0 })
    let s := match h.task.launch with
      | none => s
      | some i => s.modLaunch h.task.yard h.task.job i
          (fun l => { l with running := l.running.filter (· != h.task.index) })
    s.taskEnded h.task.yard h.task.job h.task.launch

/-! Causes (R310). -/

/-- The code of a cause (R76, R106, R149, R208, R287, R298, R310). -/
def Cause.code : Cause → Nat
  | .nv => 0x001 | .dz => 0x002 | .of => 0x003 | .uf => 0x004 | .nx => 0x005
  | .topCode => 0x008 | .operandFormat => 0x009 | .exactCapacity => 0x00A
  | .pointerFormat => 0x040 | .regionBounds => 0x041 | .regionRights => 0x042 | .misaligned => 0x043
  | .regionMismatch => 0x044 | .translation => 0x045 | .accessKind => 0x046 | .fillFormat => 0x047
  | .ringGeometry => 0x048 | .ringBusy => 0x049 | .stage2 => 0x04A | .tlbFormat => 0x04B
  | .zeroWord => 0x080 | .reserved => 0x081 | .blockExtent => 0x082 | .loopNesting => 0x083
  | .contextKind => 0x084 | .userTrap => 0x085 | .singleStep => 0x086
  | .vectorIndex => 0x0C0 | .accRange => 0x0C1 | .pairAbort => 0x0C2 | .matrixGroup => 0x0C3
  | .capability => 0x0C4 | .engineAbsent => 0x0C5 | .collMismatch => 0x0C6 | .launchFormat => 0x0C7
  | .launchState => 0x0C8 | .waxFormat => 0x0C9 | .waxBusy => 0x0CA | .waxArity => 0x0CB
  | .streamDesc => 0x0CC | .repetition => 0x0CD | .waxUnbound => 0x0CE | .joinOrder => 0x0CF
  | .eventOperand => 0x100 | .barrierDomain => 0x101 | .mode => 0x102 | .vsetFull => 0x103
  | .frameLost => 0x104
  | .slotFault => 0x160 | .combAccess => 0x161 | .combContext => 0x162
  | .privilege => 0x180 | .frameFormat => 0x181 | .scopePolicy => 0x18C
  | .memError => 0x1C0 | .tileError => 0x1C1 | .doubleTrap => 0x1C2 | .mixedStep => 0x1C3

/-! A task-fault record (R314). -/

/-- A task-fault record of a frame. -/
def TaskFault.word (r : TaskFault) : Word := BitVec.ofNat 64 (r.cause.code + r.index % 65536 * 2 ^ 16 + r.launch % 256 * 2 ^ 32)

/-- A doubleword of a saved frame. -/
def State.frameGet (s : State) (p : FramePlace) (off : Nat) : Nat :=
  match p with
  | .tm t o => leNat (s.tmBytes t 0 (o + off) 8)
  | .mem pa _ => leNat (s.homeBytes (pa + off) 8)

/-- Write a doubleword of a saved frame. -/
def State.framePut (s : State) (yard : Nat) (p : FramePlace) (off n : Nat) : State :=
  match p with
  | .tm t o => s.setTmBytes t 0 (o + off) (leBytes 8 n)
  | .mem pa pg => s.homeWrite 0x10000 yard pg ((leBytes 8 n).zipIdx.map (fun q => (pa + off + q.2, q.1)))

/-- A record for a saved context goes into its frame: the header counts it, and the ninth counts in the frame's %trap.supp (R314,
R318). -/
def State.frameRecord (s : State) (yard : Nat) (p : FramePlace) (r : TaskFault) : State :=
  let h := s.frameGet p 0
  let n := h / 2 ^ 52 % 16
  if n < 8 then (s.framePut yard p 0 (h + 2 ^ 52)).framePut yard p (0x2C0 + 8 * n) r.word.toNat
  else s.framePut yard p 0x2B8 (Nat.min (s.frameGet p 0x2B8 + 1) 0xFFFFFFFF)

/-- What is kept of a saved context. -/
def State.keptOf (s : State) (tag : Nat) : Option Kept := SMap.get (fun _ => none) s.kept tag

/-- Hand a task-fault record to a control context, or count it as suppressed when eight are held; that of a saved context of the tile's
job goes into its frame (R314). -/
def State.addRecord (s : State) (c : Nat) (r : TaskFault) : State :=
  if (s.ctx c).live then
    s.modCtx c (fun x =>
      if x.records.length < 8 then { x with records := x.records ++ [r] }
      else x.setSreg 0x451 (if x.sreg 0x451 = 0xFFFFFFFF then 0xFFFFFFFF else x.sreg 0x451 + 1))
  else if s.saved.contains (s.tagOf c, s.yardOf (cidTile c), s.jobOf (cidTile c)) then
    match (s.keptOf (s.tagOf c)).bind (fun k => k.place) with
    | some p => s.frameRecord (s.yardOf (cidTile c)) p r
    | none => s
  else s

/-- A cause fatal to a task (R28, R314): the task ends uncommitted, and its record goes to the control
context of the helper's core. -/
def State.taskFault (s : State) (c : Nat) (cause : Cause) (toH : Bool) : State :=
  match (s.ctx c).helper with
  | none => s
  | some h =>
    let r : TaskFault :=
      { cause := cause, launch := h.task.launch.getD 0, index := h.task.index, toH := toH }
    (s.endTask c).addRecord (coreCid (cidCore c) 0) r

/-- The save frame's tag-15 LIN pointer of a context (R302, R320). -/
def framePtr (x : Ctx) : Word := 0xF000000000000000 ||| (x.sreg 0x447 &&& 0xFF000)

/-- Enter the resident handler of a core (R320). -/
def State.enterHandler (s : State) (k reason : Nat) (frame : Word) (tag : Nat) : State :=
  let h := s.ctx (coreCid k 11)
  let h := (((h.setGreg 1 (BitVec.ofNat 64 reason)).setGreg 2 frame).setGreg 3 (BitVec.ofNat 64 tag))
  (s.setCtx (coreCid k 11)
    { h with live := true, priv := .s, pc := (s.core k).sreg 0x446, wait := .none, issued := none }).modCore k
      (fun x => { x with handler := true })

/-- Every live helper of a core (R13). -/
def State.helpersOf (s : State) (k : Nat) : List Nat :=
  (List.range 10).map (fun i => coreCid k (i + 1)) |>.filter (fun c => (s.ctx c).live)

/-- Mark a tag dead at every home (R322). -/
def State.markDead (s : State) (tag yard : Nat) : State :=
  if s.isDead tag then s else { s with dead := s.dead ++ [(tag, yard)] }

/-- Kill a live context (R322): its tag is dead, its helpers end without re-queueing, its engine commands
stop, and its registers are lost with it. -/
def State.killCtx (s : State) (c : Nat) : State :=
  let tag := s.tagOf c
  let s := s.markDead tag (s.yardOf (cidTile c))
  let s := if cidSlot c = 0 then (s.helpersOf (cidCore c)).foldl (fun s h => s.endTask h) s else s
  let s := ((((s.dropShoots c).dropCommands c).stopCommands tag).setCtx c Ctx.reset).unpin (cidTile c)
  if cidSlot c = 11 then s.modCore (cidCore c) (fun k => { k with handler := false }) else s

end Sys2Proof.Machine
end

