-- ==== Sys2Proof/Machine/Footprint.lean ====
section
/-! DEFINITION. Vector blocks, their elements and the prefix's fields, and the bytes that a coprocessor
instruction which has not completed still reads or writes: a later access of its context waits for them
(R109, R124, R159, R210, R225-R227). -/

namespace Sys2Proof.Machine

/-! Blocks and elements (R159, R210). -/

/-- rows, cols and members of a block extent. -/
def extRows (ext : BitVec 4) : Nat := (ext.extractLsb' 2 2).toNat + 1
def extCols (ext : BitVec 4) : Nat := 2 ^ (ext.extractLsb' 0 2).toNat
def extCount (ext : BitVec 4) : Nat := extRows ext * extCols ext

/-- The two checks of R159 on a block based at q. -/
def blockOk (q : Reg) (ext : BitVec 4) : Bool :=
  decide (q.toNat % 8 % extCols ext = 0) && decide (q.toNat / 8 + extRows ext ≤ 4)

/-- Member b of the block based at q. -/
def blockReg (q : Reg) (ext : BitVec 4) (b : Nat) : Nat :=
  (q.toNat / 8 + b / extCols ext) * 8 + q.toNat % 8 + b % extCols ext

/-- The members of a block, in order. -/
def blockRegs (q : Reg) (ext : BitVec 4) : List Nat := (List.range (extCount ext)).map (blockReg q ext)

/-- Elements per register of a format. -/
def Fmt.elems (f : Fmt) : Nat := 512 / f.width

/-- Element e of a register, at width w. -/
def elemGet (w : Nat) (x : VWord) (e : Nat) : Nat := (x.extractLsb' (w * e) w).toNat

/-- The bits of element e at width w. -/
def elemMask (w e : Nat) : VWord := BitVec.ofNat 512 (2 ^ w - 1) <<< (w * e)

/-- A value at element e. -/
def elemPut (w e x : Nat) : VWord := BitVec.ofNat 512 (x % 2 ^ w) <<< (w * e)

/-- Trunc an element's bits to its format: an L6 byte keeps its low six bits (R210). -/
def Fmt.clean (f : Fmt) (x : Nat) : Nat := if f = .l6 then x % 64 else x

/-- Whether a mask enables flattened element k (R211). -/
def enabled (m : Word) (k : Nat) : Bool := m.getLsbD (k % 64)

/-- The register writes of a block for a list of (flattened element, value) pairs at width w. -/
def blockWrites (q : Reg) (ext : BitVec 4) (w : Nat) (rs : List (Nat × Nat)) : List RegWrite :=
  let e := 512 / w
  (List.range (extCount ext)).filterMap (fun b =>
    let mine := rs.filter (fun r => r.1 / e == b)
    if mine.isEmpty then none
    else
      let m := mine.foldl (fun (m : VWord) r => m ||| elemMask w (r.1 % e)) 0
      let x := mine.foldl (fun (x : VWord) r => x ||| elemPut w (r.1 % e) r.2) 0
      some (.v (blockReg q ext b) m x))

/-! The prefix (R157, R158, R212). -/

/-- The fields of a prefix. -/
structure Pfx where
  fa  : Fmt
  fb  : Fmt
  rm  : Nat
  sat : Bool
  m   : Nat
  bs  : Nat
deriving DecidableEq, Repr

/-- A format by its code; FMT refuses the codes that name none (R216). -/
def fmtAt (n : Nat) : Fmt := (Fmt.ofCode n).getD .i8

/-- The fields of an FMT word (R216). -/
def Pfx.ofWord (w : IWord) : Pfx :=
  { fa := fmtAt (w.extractLsb' 21 5).toNat, fb := fmtAt (w.extractLsb' 16 5).toNat,
    rm := (w.extractLsb' 13 3).toNat, sat := w.getLsbD 12, m := (w.extractLsb' 8 3).toNat,
    bs := (w.extractLsb' 6 2).toNat }

/-- The fields in effect, with an operation's default formats where there is no prefix. -/
def pfxOf (dflt : Fmt × Fmt) (w : IWord) : Pfx :=
  if w = 0 then { fa := dflt.1, fb := dflt.2, rm := 7, sat := false, m := 0, bs := 0 } else Pfx.ofWord w

/-- The vector and mask registers as captured at issue. -/
def QEntry.vreg (q : QEntry) (k : Nat) : VWord := SMap.get (fun _ => 0) q.vf k
def QEntry.mreg (q : QEntry) (k : Nat) : Word := if k = 0 then BitVec.allOnes 64 else SMap.get (fun _ => 0) q.mf k
/-- A special register as captured at issue. -/
def QEntry.sreg (q : QEntry) (n : Nat) : Word := SMap.get srReset q.sr n

/-! Operand rings (R97-R99) and the ports of a stream (R284). -/

/-- The registers of ring k of a tile. -/
structure Ring where
  base  : Nat
  view  : Nat
  size  : Nat
  tileBytes : Nat
  head  : Nat
  tail  : Nat
deriving DecidableEq, Repr

def State.ring (s : State) (t k : Nat) : Ring :=
  let r (i : Nat) : Word := (s.tile t).sreg (0x200 + 8 * k + i)
  { base := ((r 0).extractLsb' 0 20).toNat, view := ((r 0).extractLsb' 21 2).toNat, size := ((r 1).extractLsb' 0 21).toNat,
    tileBytes := ((r 2).extractLsb' 0 17).toNat, head := ((r 3).extractLsb' 0 32).toNat, tail := ((r 4).extractLsb' 0 32).toNat }

/-- n, M, held and the offset of a slot (R98). -/
def Ring.slots (r : Ring) : Nat := r.size / r.tileBytes
def Ring.modulus (r : Ring) : Nat := r.slots * (2 ^ 32 / r.slots)
def Ring.held (r : Ring) : Nat := (r.tail + r.modulus - r.head) % r.modulus
def Ring.slotOff (r : Ring) (q : Nat) : Nat := r.base + q % r.slots * r.tileBytes

/-- A port entry of a descriptor (R284). -/
structure Port where
  kind : Nat
  fmt  : Nat
  x    : Nat
  fill : Nat
  cnt  : Nat
  ptr  : Word
  iptr : Word
  foff : Nat
  pad  : Nat
deriving DecidableEq, Repr

def Port.of (d : List Byte) (p : Nat) : Port :=
  let e := d.drop (32 * p)
  { kind := numAt e 0 1, fmt := numAt e 1 1, x := numAt e 2 1, fill := numAt e 3 1, cnt := numAt e 4 4,
    ptr := BitVec.ofNat 64 (numAt e 8 8), iptr := BitVec.ofNat 64 (numAt e 16 8), foff := numAt e 24 4, pad := numAt e 28 4 }

def Port.reads (x : Port) : Bool := x.kind == 1 || x.kind == 4 || x.kind == 5 || x.kind == 7
def Port.writes (x : Port) : Bool := x.kind == 2 || x.kind == 3 || x.kind == 6
def Port.isL6 (x : Port) : Bool := x.fmt == 10
/-- Bytes of an element; an L6 group of four takes three. -/
def Port.bytes (x : Port) : Nat := (fmtAt x.fmt).width / 8
/-- The byte position before element i in the port's packed bytes. -/
def Port.pos (x : Port) (i : Nat) : Nat := if x.isL6 then i / 4 * 3 else i * x.bytes
/-- The bytes that n elements take. -/
def Port.size (x : Port) (n : Nat) : Nat := if x.isL6 then (n + 3) / 4 * 3 else n * x.bytes

/-- The ports of a descriptor, with their numbers. -/
def portsOf (d : List Byte) : List (Nat × Port) := (List.range 4).map (fun p => (p, Port.of d p))

/-! Footprints. -/

/-- A run of bytes that an instruction reads or writes: in a tile's TM through a view, or at shared virtual
addresses, whose places agree below 64 KiB in every mapping. -/
structure Span where
  write : Bool
  tm    : Option (Nat × Nat)
  lo    : Int
  n     : Nat
deriving DecidableEq, Repr

/-- Whether two runs of bytes meet. -/
def runsMeet (a : Int) (n : Nat) (b : Int) (m : Nat) : Bool := decide (a < b + m) && decide (b < a + n)

/-- Whether two spans may name the same byte. Views differ only in the banks of a 512-byte row (R95). -/
def Span.meets (x y : Span) : Bool :=
  match x.tm, y.tm with
  | some (t, v), some (t', v') =>
    t == t' && (if v = v' then runsMeet x.lo x.n y.lo y.n
      else runsMeet (x.lo / 512) (((x.lo + x.n - 1) / 512 - x.lo / 512 + 1).toNat) (y.lo / 512)
        (((y.lo + y.n - 1) / 512 - y.lo / 512 + 1).toNat))
  | none, none =>
    let a := x.lo % 65536
    let b := y.lo % 65536
    runsMeet a x.n b y.n || runsMeet a x.n (b + 65536) y.n || runsMeet (a + 65536) x.n b y.n
  | _, _ => false

/-- Whether two accesses conflict: they may meet, and one writes. -/
def Span.conflicts (x y : Span) : Bool := (x.write || y.write) && x.meets y

/-- The span of n bytes at a distance from a pointer, for a context of tile t. -/
def spanAt (t : Nat) (write : Bool) (p : Word) (d : Int) (n : Nat) : Span :=
  let tag := (p.extractLsb' 60 4).toNat
  let off : Int := (p.extractLsb' 0 20).toNat
  if tag = 15 then { write := write, tm := some (t, (p.extractLsb' 21 2).toNat), lo := off + d, n := n }
  else if tag = 14 then
    { write := write, tm := some ((p.extractLsb' 20 10).toNat, (p.extractLsb' 30 2).toNat), lo := off + d, n := n }
  else { write := write, tm := none, lo := ((p.extractLsb' 0 56).toNat : Int) + d, n := n }

/-- The signed value of the low n bits of a word. -/
def signedBits (w : Word) (lo n : Nat) : Int := (w.extractLsb' lo n).toInt

/-- The enabled elements of a memory form: their flattened numbers, members and elements. -/
def memElems (ext : BitVec 4) (f : Fmt) (mask : Word) : List (Nat × Nat × Nat) :=
  ((List.range (extCount ext * f.elems)).filter (enabled mask)).map (fun k => (k, k / f.elems, k % f.elems))

/-- The element index of a gather or scatter: element k of the vb block as a value of fb (R227). -/
def QEntry.index (q : QEntry) (p : Pfx) (b : Reg) (ext : BitVec 4) (k : Nat) : Int :=
  let w := p.fb.width
  let x := elemGet w (q.vreg (blockReg b ext (k / p.fb.elems))) (k % p.fb.elems)
  if p.fb.isSigned ∧ 2 ^ (w - 1) ≤ x then (x : Int) - 2 ^ w else x

/-- The distance of element e of member b from A (R225-R227): from a pointer, or from its TM offset. -/
def QEntry.distance (q : QEntry) (p : Pfx) (k b e : Nat) : Int :=
  match q.inst with
  | .vldtm _ _ _ _ _ | .vsttm _ _ _ _ => b * signedBits q.b 0 32 + e * signedBits q.b 32 32
  | .vgath _ _ r ext _ | .vscat _ _ r ext => q.index p r ext k * (p.fa.width / 8 : Nat)
  | _ => b * signedBits q.b 0 64 + e * (p.fa.width / 8 : Nat)

/-- The block of a vector memory form, its extent, and whether it stores. -/
def vecMem : Instr → Option (Reg × BitVec 4 × Bool)
  | .vld v _ _ ext _ | .vldtm v _ _ ext _ | .vgath v _ _ ext _ => some (v, ext, false)
  | .vst v _ _ ext | .vsttm v _ _ ext | .vscat v _ _ ext => some (v, ext, true)
  | _ => none

/-- n slots of an operand ring from a counter's value on (R98). -/
def Ring.spans (r : Ring) (t : Nat) (write : Bool) (c n : Nat) : List Span :=
  (List.range n).map (fun i => { write := write, tm := some (t, r.view), lo := r.slotOff (c + i), n := r.tileBytes })

/-- The tiles that a reader of n tiles of ring k can read now, and the slots that a writer of n tiles can fill now: what lies beyond
them waits for the ring's counters (R98). -/
def State.popSpans (s : State) (t k n : Nat) : List Span :=
  let r := s.ring t k
  r.spans t false r.head (Nat.min n (Nat.min r.held r.slots))
def State.pushSpans (s : State) (t k n : Nat) : List Span :=
  let r := s.ring t k
  r.spans t true r.tail (Nat.min n (r.slots - r.held))

/-- The tiles that n bytes take in ring k. -/
def State.tilesOf (s : State) (t k n : Nat) : Nat :=
  let tb := (s.ring t k).tileBytes
  (n + tb - 1) / tb

/-- The rows from r of a copy's side, as one run from its lowest byte to its highest. -/
def rowsSpan (t : Nat) (write : Bool) (p : Word) (stride : Int) (len r rows : Nat) : Span :=
  let a := stride * r
  let b := stride * (rows - 1 : Nat)
  spanAt t write p (min a b) ((max a b - min a b).toNat + len)

/-- The TM bytes that an element-moving command still reads or writes, from element i on. -/
def State.gatherSpans (s : State) (t : Nat) (q : QEntry) (scatter : Bool) (i : Nat) : List Span :=
  let n := (q.sreg 0x260).toNat
  let es := (q.sreg 0x261).toNat
  let ip := q.sreg 0x262
  let iv := ((ip.extractLsb' 21 2).toNat)
  let io := ((ip.extractLsb' 0 20).toNat)
  let idx (j : Nat) : Int :=
    (BitVec.ofNat 32 (leNat (s.tmBytes t iv (io + 4 * j) 4))).toInt
  let els := (List.range (n - i)).map (fun j => i + j)
  let tbl := { spanAt t false ip (4 * i : Nat) (4 * (n - i)) with write := false }
  let row (w : Bool) (p : Word) : List Span := [spanAt t w p (i * es : Nat) ((n - i) * es)]
  let each (w : Bool) (p : Word) : List Span := els.map (fun j => spanAt t w p (idx j * es) es)
  tbl :: (if scatter then row false q.a ++ each true q.b
    else each false q.a ++ (if q.b = 0 then (let k := (q.sreg 0x264).toNat % 8; s.pushSpans t k (s.tilesOf t k ((n - i) * es)))
      else row true q.b))

/-! The spans of a stream (R284). -/

/-- The bytes that a port still reads or writes after some elements. -/
def State.portSpans (s : State) (t done : Nat) (x : Port) : List Span :=
  let part (w : Bool) : List Span := [spanAt t w x.ptr (x.pos done) (x.size x.cnt - x.pos done)]
  match x.kind with
  | 1 => part false
  | 2 => part true
  | 3 => s.pushSpans t x.x (s.tilesOf t x.x (x.size x.cnt - x.pos done))
  | 4 => s.popSpans t x.x (s.tilesOf t x.x (x.size x.cnt - x.pos done))
  | 7 => part false ++ [spanAt t false x.iptr (4 * done : Nat) (4 * (x.cnt - done))]
  | _ => []

/-- Whether an entry starts a stream, and the descriptor of one that has not started: its pointer names its own tile. -/
def QEntry.isStream (q : QEntry) : Bool := match q.inst with | .wxstm _ _ => true | _ => false
def State.descOf (s : State) (q : QEntry) : List Byte :=
  s.tmBytes (cidTile q.cid) ((q.a.extractLsb' 21 2).toNat) ((q.a.extractLsb' 0 20).toNat) 128

/-- The elements a read port has delivered and a write port has landed. -/
def Stream.valsOf (m : Stream) (p : Nat) : List Nat := SMap.get (fun _ => []) m.vals p
def Stream.landedOf (m : Stream) (p : Nat) : Nat := SMap.get (fun _ => 0) m.landed p

/-- The bytes that a running stream still reads or writes: a stopped one reads no more, and a dead port writes no more. -/
def State.streamSpans (s : State) (m : Stream) : List Span :=
  let t := cidTile m.q.cid
  (portsOf m.desc).flatMap (fun p =>
    if p.2.reads then (if m.halted then [] else s.portSpans t (m.valsOf p.1).length p.2)
    else if m.dead.contains p.1 then [] else s.portSpans t (m.landedOf p.1) p.2)

/-- The bytes that an instruction which has not completed still reads or writes; moved is how far its engine
has come. -/
def State.spans (s : State) (q : QEntry) (moved : Nat) : List Span :=
  let t := cidTile q.cid
  match vecMem q.inst with
  | some (_, ext, wr) =>
    let p := pfxOf (.z32, .z32) q.pfx
    (memElems ext p.fa (q.mreg p.m)).map (fun e => spanAt t wr q.a (q.distance p e.1 e.2.1 e.2.2) (p.fa.width / 8))
  | none =>
    match q.inst with
    | .cpGo _ _ _ =>
      let len := (q.sreg 0x250).toNat
      let rows := Nat.max 1 (q.sreg 0x253).toNat
      let r := if len = 0 then 0 else moved / len
      if rows ≤ r then []
      else
        let src := rowsSpan t false q.a (q.sreg 0x254).toInt len r rows
        src :: (if q.b = 0 then (let k := (q.sreg 0x252).toNat % 8; s.pushSpans t k (s.tilesOf t k (len * rows - moved)))
          else [rowsSpan t true q.b (q.sreg 0x255).toInt len r rows])
    | .cpTm _ _ =>
      let len := (q.sreg 0x250).toNat - moved
      [spanAt t false q.a moved len, spanAt t true q.b moved len]
    | .gaGo _ _ _ => s.gatherSpans t q false moved
    | .scGo _ _ _ => s.gatherSpans t q true moved
    | .coRed _ _ _ | .coBcast _ _ _ | .coAr _ _ _ =>
      let n := (q.sreg 0x271).toNat * 8
      [spanAt t false q.a 0 n, spanAt t true q.b 0 n]
    | .macst _ _ => [spanAt t true q.a 0 8192]
    | .mm _ _ | .mms _ _ | .mmp _ _ =>
      let all (k : Nat) : List Span := s.popSpans t k (s.ring t k).slots
      all (q.a.toNat % 8) ++ all (q.a.toNat / 16 % 8)
    | .wxld _ _ => [spanAt t false q.a 0 6144]
    | .wxstm _ _ => (portsOf (s.descOf q)).flatMap (fun p => s.portSpans t 0 p.2)
    | _ => []

/-- Whether an access of context c to n bytes at p must wait for an earlier coprocessor instruction of the
context (R109, R124). Shared memory that an engine moves is ordered at its home (R122). -/
def State.hazard (s : State) (c : Nat) (write : Bool) (p : Word) (n : Nat) : Bool :=
  let x := spanAt (cidTile c) write p 0 n
  let hit (shared : Bool) (q : QEntry) (moved : Nat) : Bool :=
    q.cid == c && (s.spans q moved).any (fun y => (shared || y.tm.isSome) && x.conflicts y)
  let t := s.tile (cidTile c)
  (s.core (cidCore c)).vq.any (fun q => hit ((vecMem q.inst).isSome) q 0) || t.mq.any (fun q => hit false q 0) ||
  t.eng.any (fun e => hit false e.q e.moved) || t.wq.any (fun q => hit false q 0) ||
  t.streams.any (fun m => m.q.cid == c && (s.streamSpans m).any (fun y => y.tm.isSome && x.conflicts y))

/-- Whether a command at an engine would overtake an earlier command of its context, at another engine, that conflicts with it in tile memory: they take
effect in program order (R124). -/
def State.overtakes (s : State) (q : QEntry) (moved : Nat) : Bool :=
  let t := s.tile (cidTile q.cid)
  let earlier (e : QEntry) : Bool := e.cid == q.cid && e.tag == q.tag && decide (e.ord < q.ord)
  let meets (ys : List Span) : Bool := ys.any (fun y => y.tm.isSome && (s.spans q moved).any (fun x => x.tm.isSome && x.conflicts y))
  t.mq.any (fun e => earlier e && meets (s.spans e 0)) || t.mrun.any (fun r => earlier r.q && meets (s.spans r.q 0)) ||
  t.eng.any (fun e => earlier e.q && meets (s.spans e.q e.moved)) || t.wq.any (fun e => earlier e && meets (s.spans e 0)) ||
  t.streams.any (fun m => earlier m.q && meets (s.streamSpans m))

end Sys2Proof.Machine
end

