-- ==== Sys2Proof/Machine/Frame.lean ====
section
/-! DEFINITION. The save frame of a control context (R318), and the registers that are read from its parts (R189, R270, R275). -/

namespace Sys2Proof.Machine

/-! Registers read from parts of a context. -/

/-- %vset (R189). -/
def Ctx.vsetWord (x : Ctx) : Word := BitVec.ofNat 64 (x.vset.length + (if x.vfail then 32 else 0))

/-- %rep.state (R270). -/
def Rep.state (r : Rep) : Word := BitVec.ofNat 64 (r.left * 65536 + (if r.target ≠ 0 then 256 else 0) + r.buf.length)

/-- %wax.bind (R275). -/
def Ctx.waxBind (x : Ctx) : Nat :=
  (List.range 8).foldl (fun v n =>
    let b := SMap.get (fun _ => WaxBind.unbound) x.wax n
    v + (if b.bound then 0x80 + b.slot % 4 else b.reason * 16) * 256 ^ n) 0

/-- The stream ports that an image uses (R276: header bytes 12 and 13). -/
def imagePorts (im : List Byte) : Nat := leNat ((im.drop 12).take 2) % 16

/-- %wax.strm (R275). -/
def State.waxStrm (s : State) (c : Nat) : Nat :=
  let ms := (s.tile (cidTile c)).streams
  let mine := (List.range 8).foldl (fun v n => if ms.any (fun m => m.q.cid == c && m.op == n) then v + 2 ^ n else v) 0
  let ports := ms.foldl (fun v m => Nat.lor v (imagePorts m.image)) 0
  mine + ports * 256

/-- A privilege's code in T.status.prev (R303). -/
def Priv.code : Priv → Nat
  | .u => 0 | .s => 1 | .h => 2

/-! The frame (R318). -/

/-- The special registers of a frame, in its order; none stands for the replay index. -/
def frameSrs : List (Option Nat) :=
  [some 0x010, some 0x020, some 0x021, some 0x022, some 0x023, some 0x024, some 0x028, some 0x029, some 0x02A, some 0x02B,
   some 0x030, some 0x031, some 0x112, some 0x113, some 0x114, some 0x340, some 0x341, some 0x342, some 0x343, some 0x344,
   some 0x345, some 0x346, some 0x347] ++
  [some 0x250, some 0x251, some 0x252, some 0x253, some 0x254, some 0x255, some 0x260, some 0x261, some 0x262, some 0x263,
   some 0x264, some 0x270, some 0x271, some 0x272, some 0x273, some 0x280, none, some 0x440, some 0x442, some 0x443, some 0x444,
   some 0x445, some 0x44D, some 0x44A, some 0x44C, some 0x448, some 0x456, some 0x451]

/-- The general registers of a frame, in its order. -/
def frameGs : List Reg := (List.range 23).map (fun i => BitVec.ofNat 5 (i + 1)) ++ [30, 31]

/-- The loop registers of a frame: the running loop, or the one that a trap to S or H or an upcall has suspended (log 13). -/
def Ctx.frameLoop (x : Ctx) (n : Nat) : Word :=
  let at_ (k : Nat) : Word := SMap.get (fun _ => 0) x.susp k
  let i := n - 0x030
  if (x.sreg 0x031).getLsbD 63 then x.sreg n
  else if (at_ 1).getLsbD 63 then at_ i
  else if (at_ 3).getLsbD 63 then at_ (2 + i)
  else if (at_ 5).getLsbD 63 then at_ (4 + i)
  else x.sreg n

/-- The replay index of a frame, with the staggers of its RP.RUN. -/
def Rep.word (r : Rep) : Word := BitVec.ofNat 64 (r.idx % 2 ^ 32 + r.rs % 65536 * 2 ^ 32 + r.cs % 65536 * 2 ^ 48)

/-- The value of a frame's special register. -/
def State.frameSr (s : State) (c : Nat) (n : Option Nat) : Word :=
  match n with
  | none => (s.ctx c).rep.word
  | some n => if n = 0x030 ∨ n = 0x031 then (s.ctx c).frameLoop n else if n = 0x280 then (s.ctx c).rep.state else (s.ctx c).sreg n

/-- A list cut or filled with zeros to a length. -/
def fitWords (n : Nat) (ws : List Word) : List Word := (ws ++ List.replicate n 0).take n

/-- The header doubleword of a frame. -/
def State.frameHeader (s : State) (c reason : Nat) (held : Option Late) : Word :=
  let x := s.ctx c
  BitVec.ofNat 64 (0x5346 + 2 ^ 16 + reason % 256 * 2 ^ 24 + s.tagOf c * 2 ^ 32 + x.priv.code * 2 ^ 48 +
    (if held.isSome then 2 ^ 50 else 0) + (if x.stepPend then 2 ^ 51 else 0) + x.records.length % 16 * 2 ^ 52)

/-- The held late report of a frame. -/
def Late.word (l : Late) : Word :=
  BitVec.ofNat 64 (l.cause.code + l.seq % 65536 * 2 ^ 16 + l.elem % 256 * 2 ^ 32 + l.member % 256 * 2 ^ 40)

/-- The 512 doublewords of a frame. -/
def State.frameWords (s : State) (c reason : Nat) (held : Option Late) : List Word :=
  let x := s.ctx c
  let b (i : Nat) : WaxBind := SMap.get (fun _ => WaxBind.unbound) x.wax i
  [s.frameHeader c reason held, x.pc, (held.map Late.word).getD 0, (held.map (fun l => l.tval)).getD 0] ++
  frameGs.map (fun r => x.greg r) ++ (List.range 7).map (fun i => x.mreg (i + 1)) ++ [framePtr x] ++
  frameSrs.map (fun n => s.frameSr c n) ++
  fitWords 8 (x.records.map TaskFault.word) ++ [x.vsetWord] ++
  fitWords 32 (x.vset.flatMap (fun e => [BitVec.ofNat 64 (e.1 * 128), e.2])) ++
  [BitVec.ofNat 64 (x.gains.length % 32 + (if x.gainOvf then 2 ^ 63 else 0))] ++ fitWords 16 x.gains ++
  fitWords 16 (x.rep.buf.map (fun e => BitVec.ofNat 64 (e.1.toNat + e.2.toNat * 2 ^ 32))) ++
  (List.range 42).map (fun i => x.sreg (0x400 + 4 * (i / 3) + i % 3)) ++
  [x.sreg 0x2A0, BitVec.ofNat 64 x.waxBind, BitVec.ofNat 64 (s.waxStrm c)] ++ (List.range 8).map (fun i => x.sreg (0x2A8 + i)) ++
  (List.range 8).map (fun i => if (b i).bound then BitVec.ofNat 64 (b i).ident else 0) ++ List.replicate 33 0 ++
  (List.range 32).flatMap (fun v => (List.range 8).map (fun i => (x.vreg v).extractLsb' (64 * i) 64))

/-- The bytes of a frame. -/
def State.frameBytes (s : State) (c reason : Nat) (held : Option Late) : List Byte :=
  (s.frameWords c reason held).flatMap (fun w => leBytes 8 w.toNat)

end Sys2Proof.Machine
end

