-- ==== Sys2Proof/Machine/Ops.lean ====
section
/-! DEFINITION. The operations every instruction is written over: taking an exception and returning from
one, waiting, lookahead windows, registers and queues, the program counter, the checks of an access,
translation, and reading and writing memory. -/

namespace Sys2Proof.Machine

/-! Causes (R310). -/

/-- The class of a cause: 64 codes each (R310). -/
def Cause.class (c : Cause) : Nat := c.code / 64

/-! Trap entry and return (R305-R309). -/

/-- How a cause is delivered: late, from a task-fault record, for which element; a precise cause is one
that is neither late, nor a record, nor a step (R305, R307). -/
structure How where
  precise : Bool
  late    : Bool
  task    : Bool
  member  : Nat
  elem    : Nat
deriving DecidableEq, Repr

/-- A precise cause of an instruction. -/
def How.now : How := { precise := true, late := false, task := false, member := 0, elem := 0 }

/-- The cause register's value (R303). -/
def causeWord (h : How) (code : Nat) : Word :=
  BitVec.ofNat 64 ((if h.late then 2 ^ 63 else 0) + (if h.task then 2 ^ 62 else 0)
    + h.member % 256 * 2 ^ 40 + h.elem % 256 * 2 ^ 32 + code)

/-- The number of T.status, T.vec, T.epc, T.cause, T.tval for a level: S or H (R302, R304). -/
def trapBase (toH : Bool) : Nat := if toH then 0x800 else 0x440

/-- The number of T.pfx (R302, R304). -/
def pfxReg (toH : Bool) : Nat := if toH then 0x80B else 0x456

/-- Whether T.status.intrap is 1 (R303). -/
def Ctx.inTrap (x : Ctx) (toH : Bool) : Bool := (x.sreg (trapBase toH)).getLsbD 7

/-- Whether a cause goes to H (R305 rules 1-3, R310 for a stage-2 fault). -/
def Ctx.goesToH (x : Ctx) (c : Cause) : Bool :=
  c.class == 7 || x.priv == .h || c == .stage2 || !(x.sreg 0x806).getLsbD c.class

/-- What a TLBW has answered to the context's own access is dropped: an access that is made again looks up again (R337). -/
def Ctx.dropAnswers (x : Ctx) : Ctx := { x with answers := x.answers.filter (fun a => a.who.isSome) }

/-- A handler does not see the loop as active: it is set aside in pair k, 0 for S, 2 for H and 4 for an upcall (R174, R306; log 13). -/
def Ctx.suspendLoop (x : Ctx) (k : Nat) : Ctx :=
  { x.setSreg 0x031 0 with
      susp := SMap.set (fun _ => 0) (SMap.set (fun _ => 0) x.susp k (x.sreg 0x030)) (k + 1) (x.sreg 0x031) }

/-- The loop of pair k comes back. -/
def Ctx.resumeLoop (x : Ctx) (k : Nat) : Ctx :=
  { (x.setSreg 0x030 (SMap.get (fun _ => 0) x.susp k)).setSreg 0x031 (SMap.get (fun _ => 0) x.susp (k + 1)) with
      susp := SMap.set (fun _ => 0) (SMap.set (fun _ => 0) x.susp k 0) (k + 1) 0 }

/-- Entry to level T (R306): the loop is suspended, epc, cause, tval and the prefix are saved, status
takes the previous privilege with intrap 1 and ie 0, and execution goes on at T.vec. A recording
repetition buffer is emptied (R271). Windows have been closed by the caller. -/
def Ctx.enter (x : Ctx) (toH : Bool) (h : How) (code : Nat) (epc tval : Word) : Ctx :=
  let b := trapBase toH
  let pfx := if (x.sreg 0x024).getLsbD 63 then x.sreg 0x024 else 0
  let rep := if x.rep.target ≠ 0 then Rep.empty else x.rep
  let y : Ctx :=
    { x.dropAnswers.suspendLoop (if toH then 2 else 0) with
      rep := rep, wait := .none, issued := none, pc := x.sreg (b + 1), priv := if toH then .h else .s }
  (((((y.setSreg (b + 2) epc).setSreg (b + 3) (causeWord h code)).setSreg (b + 4) tval).setSreg
    (pfxReg toH) pfx).setSreg 0x024 0).setSreg b (BitVec.ofNat 64 (0x80 + 0x10 * x.priv.code))

/-- A fatal cause (R305): the context is killed and H's %hv.cause of the core's resident handler tells
the cause. The frame of a control context, as it stands, is left with reason 7, and its core then enters its resident handler (R316, R322;
log 14). -/
def State.fatal (s : State) (c : Nat) (cause : Cause) : State :=
  let ptr := framePtr (s.ctx c)
  let tag := s.tagOf c
  let s := if cidSlot c = 0 ∧ !isTsc c then s.setTmBytes (cidTile c) 0 (ptr.extractLsb' 0 20).toNat (s.frameBytes c 7 none) else s
  let s := s.killCtx c
  let s := s.modCtx (coreCid (cidCore c) 11)
    (fun x => x.setSreg 0x803 (causeWord { How.now with precise := false } cause.code))
  if cidSlot c = 0 ∧ !isTsc c then s.enterHandler (cidCore c) 7 ptr tag else s

/-- Taking an exception (R305-R307): one operation for every cause of a context that is not a helper. A
precise cause to a level already in a trap becomes a double trap at the next level up. -/
def State.takeTrap (s : State) (c : Nat) (h : How) (cause : Cause) (epc tval : Word) : State :=
  let x := s.ctx c
  let toH := x.goesToH cause
  if h.precise && x.inTrap toH then
    if toH || x.inTrap true || x.sreg 0x801 == 0 then s.fatal c .doubleTrap
    else s.setCtx c (x.enter true h Cause.doubleTrap.code epc 0)
  else if x.sreg (trapBase toH + 1) = 0 then s.fatal c cause
  else s.setCtx c (x.enter toH h cause.code epc tval)

/-- A cause raised by context c: R314 for a helper, R305 for every other context. -/
def State.deliver (s : State) (c : Nat) (h : How) (cause : Cause) (epc tval : Word) : State :=
  if isHelperSlot (cidSlot c) then s.taskFault c cause (cause == .stage2)
  else s.takeTrap c h cause epc tval

/-! The outcome of an instruction. -/

/-- What ends an instruction other than its completion: a precise cause with its trap value, a wait, a
step that has left the context elsewhere already, or a stop. -/
inductive Exit where
  | trap (c : Cause) (tval : Word)
  | wait (k : WaitKind) (op : Word)
  | left
  | stop (f : Fault)
deriving DecidableEq, Repr

/-- An instruction's meaning, in the state of the device. -/
abbrev M (α : Type) := EStateM Exit State α

def trap {α : Type} (c : Cause) (tval : Word) : M α := fun s => .error (.trap c tv) s
  where tv := tval
def waitFor {α : Type} (k : WaitKind) (op : Word) : M α := fun s => .error (.wait k op) s
def leaveNow {α : Type} : M α := fun s => .error .left s

/-- Raise a cause when a condition holds. -/
def trapIf (b : Bool) (c : Cause) (tval : Word) : M Unit := if b then trap c tval else pure ()

/-- Wait until a condition of the state holds (R35, R160). -/
def waitUntil (p : State → Bool) (k : WaitKind) (op : Word) : M Unit :=
  fun s => if p s then .ok () s else .error (.wait k op) s

/-- What the context waits on is noted; the cycles in which it is not ready are charged to it as they pass (R35). -/
def State.beginWait (s : State) (k : WaitKind) (op : Word) : State :=
  s.modMe (fun x => { x with wait := k, waitOp := op })

/-- The waits of an instruction that has issued; the others keep a context from issuing its next one (R9, R35). -/
def WaitKind.issued : WaitKind → Bool
  | .none | .interlock | .pop | .push | .fullQueue => false
  | _ => true

/-- A context whose loss is still to be told and that has no upcall handler any more is force-saved instead (R48). -/
def Ctx.loseNow (x : Ctx) : Ctx :=
  if x.lossDue && x.sreg 0x112 == 0 then { x with lossDue := false, saveReq := if x.saveReq = 5 then 5 else 4 } else x

/-! Link queues (R136, R137, R299). -/

def Core.queue (k : Core) : Dir → List QVal
  | .n => k.qn | .e => k.qe | .s => k.qs | .w => k.qw
def Core.setQueue (k : Core) (d : Dir) (q : List QVal) : Core :=
  match d with
  | .n => { k with qn := q } | .e => { k with qe := q } | .s => { k with qs := q } | .w => { k with qw := q }

/-- The values in flight toward a core's incoming queue of a direction. -/
def Core.inFlight (k : Core) (d : Dir) : List Flight := k.flight.filter (fun f => f.dir == d)

/-- The core that a push in a direction reaches: the same number on the neighbouring tile (R137). -/
def pushCore (k : Nat) (d : Dir) : Option Nat :=
  (neighbour (coreTile k) d).map (fun t => t * 4 + k % 4)

/-- Whether the outgoing queue of a direction is full (R137). -/
def State.linkFull (s : State) (k : Nat) (d : Dir) : Bool :=
  match pushCore k d with
  | none => false
  | some j => decide (32 ≤ ((s.core j).queue (dirOpp d)).length + ((s.core j).inFlight (dirOpp d)).length)

/-- Whether a push in a direction leaves the comb, the mesh, or goes to a tile that refuses the comb's
requests (R47 step 3, R137). -/
def State.linkClosed (s : State) (k : Nat) (d : Dir) : Bool :=
  match neighbour (coreTile k) d with
  | none => true
  | some t => !(s.reaches (coreTile k) t)

/-- Push a value toward a neighbour with a carried top-code bit: it is in flight, and its flit leaves at once where the slot allows (R66,
R299). -/
def State.pushLink (s : State) (k : Nat) (d : Dir) (v : QVal) : State :=
  match pushCore k d with
  | none => s
  | some j =>
    s.modCore j (fun x => { x with flight := x.flight ++ [{ dir := dirOpp d, val := v, due := s.flitDue j (dirOpp d) }] })

/-- The trap value of a slot fault (R298). -/
def State.slotTval (s : State) (port : Nat) : Word := BitVec.ofNat 64 (port * 256 + s.slot)

/-! Lookahead windows (R152-R156). -/

/-- Write one register result; a push takes the context's top-code bit as it stands now (R66, R153). -/
def State.applyWrite (s : State) (c : Nat) (w : RegWrite) : State :=
  match w with
  | .g r x =>
    if r = 28 then s.modTile (cidTile c) (fun t => { t with qk := t.qk ++ [{ val := x, tc := (s.ctx c).tc }] })
    else if isQueue r then s.pushLink (cidCore c) (linkDir r) { val := x, tc := (s.ctx c).tc }
    else s.modCtx c (fun y => y.setGreg r x)
  | .v r mask x => s.modCtx c (fun y => y.setVreg r ((y.vreg r &&& ~~~mask) ||| (x &&& mask)))
  | .m r mask x => s.modCtx c (fun y => y.setMreg r ((y.mreg r &&& ~~~mask) ||| (x &&& mask)))

/-- Whether a register result is a push. -/
def RegWrite.pushes (w : RegWrite) : Bool := match w with | .g r _ => isQueue r | _ => false

/-- The cause of a push at a window's close that its link refuses: the neighbour refuses the comb's requests (R47), or the slot does
not permit the send (R297). -/
def State.refuses (s : State) (c : Nat) (w : RegWrite) : Option (Cause × Word) :=
  match w with
  | .v _ _ _ | .m _ _ _ => none
  | .g r _ =>
    if !(isQueue r) || r == 28 then none
    else if s.linkClosed (cidCore c) (linkDir r) then some (.combAccess, 0)
    else if s.bulkSync (cidTile c) && !(s.slotOk (cidTile c) (dirNum (linkDir r))) then
      some (.slotFault, s.slotTval (dirNum (linkDir r)))
    else none

/-- Whether a window's pushes have room (R155); one that is refused needs none. -/
def State.windowRoom (s : State) (c : Nat) (w : Window) : Bool :=
  w.writes.all (fun x => match x with
    | .g r _ => if r = 28 then decide ((s.tile (cidTile c)).qk.length < 8)
        else !(isQueue r) || !(s.linkFull (cidCore c) (linkDir r)) || (s.refuses c x).isSome
    | _ => true)

/-- Whether a window can close now. -/
def State.windowReady (s : State) (c : Nat) (w : Window) : Bool := w.ready && s.windowRoom c w

/-- The windows of a context that satisfy a test, in the order in which they have been opened. Those that close at one issue write in that order
(R153). -/
def Ctx.closing (x : Ctx) (p : Window → Bool) : List Window := x.windows.filter p

/-- Close one window: its results are written, but for a push that its link refuses (R153, R297). -/
def State.closeWindow (s : State) (c : Nat) (w : Window) : State :=
  ((w.writes.filter (fun x => (s.refuses c x).isNone)).foldl (fun s x => s.applyWrite c x) s).modCtx c
    (fun x => { x with windows := x.windows.erase w })

/-- Close windows in order as far as they can close; whether all have closed. Two that push one queue need a place each (R155). -/
def State.closeList (s : State) (c : Nat) : List Window → State × Bool
  | [] => (s, true)
  | w :: ws => if s.windowReady c w then (s.closeWindow c w).closeList c ws else (s, false)

/-- Close the windows of a context that satisfy a test. -/
def State.closeWindows (s : State) (c : Nat) (p : Window → Bool) : State :=
  ((s.ctx c).closing p).foldl (fun s w => s.closeWindow c w) s

/-- Whether every open window of a context can close (R154). -/
def State.windowsReady (s : State) (c : Nat) : Bool := (s.closeList c ((s.ctx c).closing (fun _ => true))).2

/-- The cause of the first push that is refused as windows close. -/
def State.refusal (s : State) (c : Nat) (p : Window → Bool) : Option (Cause × Word) :=
  (((s.ctx c).closing p).flatMap (fun w => w.writes)).findSome? (fun x => s.refuses c x)

/-- Close the windows that satisfy a test, all at one issue: the instruction waits until all of them can close, and raises the cause of a push
that is refused then (R152, R155, R297). -/
def closeThese (p : Window → Bool) : M Unit := fun s =>
  match s.closeList s.cur (s.me.closing p) with
  | (_, false) => .error (.wait .interlock 0) s
  | (t, true) =>
    match s.refusal s.cur p with
    | some (e, tv) => .error (.trap e tv) t
    | none => .ok () t

/-- A closing event of R154 inside an instruction. -/
def closeAll : M Unit := closeThese (fun _ => true)

/-- A precise cause is delivered with the address of its instruction, pc: every open window closes first (R154, R156). Where a push is
refused at that close, its cause comes before the instruction executes, and so in place of the instruction's own (R297). -/
def State.raise (s : State) (pc : Word) (cause : Cause) (tval : Word) : State :=
  let e := (s.refusal s.cur (fun _ => true)).getD (cause, tval)
  (s.closeWindows s.cur (fun _ => true)).deliver s.cur How.now e.1 pc e.2

/-! Running an instruction. -/

/-- Queues popped by an instruction that then waits hold their values still: it issues only once, when
its wait is over (R35, R36, R136). s is the state before the pops. -/
def State.unpop (t s : State) : State :=
  ((t.modCore s.myCore (fun k => { k with qn := (s.core s.myCore).qn, qe := (s.core s.myCore).qe, qs := (s.core s.myCore).qs,
                                          qw := (s.core s.myCore).qw })).modTile s.myTile
    (fun x => { x with qk := (s.tile s.myTile).qk, ev := (s.tile s.myTile).ev })).modMe (fun x => { x with got := s.me.got })

/-- Run m; where it ends in a wait its pops are undone. -/
def keepQueues {α : Type} (m : M α) : M α := fun s =>
  match m s with
  | .error (.wait k op) t => .error (.wait k op) (t.unpop s)
  | r => r

/-- A context owes a precise cause, with its trap value, while its windows cannot close yet. -/
def State.owe (s : State) (c : Cause) (tv : Word) : State := (s.modMe (fun x => { x with owed := some (c, tv) })).beginWait .interlock 0

/-- Run an instruction's meaning for the context whose turn it is. A precise cause waits until every
open window can close, then is delivered with this instruction's address (R156, R306, R307). -/
def runRaw (m : M Unit) (s : State) : Host.Outcome State Fault Refusal :=
  if s.me.live then
    match m s with
    | .ok _ t => .next t
    | .error .left t => .next t
    | .error (.stop f) _ => .fault f
    | .error (.wait k op) t => .next (t.beginWait k op)
    | .error (.trap c tv) t =>
      if t.windowsReady t.cur then .next (t.raise s.me.pc c tv) else .next (s.owe c tv)
  else .fault .noContext

/-- Run an instruction that leaves open windows to their own places. -/
def run (m : M Unit) (s : State) : Host.Outcome State Fault Refusal := runRaw (keepQueues m) s

/-- Run an instruction that closes every open window before it acts (R154). -/
def runClose (m : M Unit) (s : State) : Host.Outcome State Fault Refusal :=
  runRaw (do closeAll; keepQueues m) s

/-- The prefix rule (R157): an instruction that takes no prefix raises the reserved-encoding cause when
one is pending, and the prefix is discarded. -/
def noPrefix : M Unit := fun s =>
  if (s.me.sreg 0x024).getLsbD 63 then
    .error (.trap .reserved 0) (s.modMe (fun x => x.setSreg 0x024 0))
  else .ok () s

/-! The program counter and LOOP (R152, R174, R315). -/

/-- Whether the loop of a context is active (R174). -/
def Ctx.looping (x : Ctx) : Bool := (x.sreg 0x031).getLsbD 63

/-- The address after the body of the loop. -/
def Ctx.loopEnd (x : Ctx) : Word := x.sreg 0x030 + 4 * ((x.sreg 0x031).extractLsb' 0 16).setWidth 64

/-- One more instruction of the context has completed: its wait is over, its position counts, and a
single step is due at U (R152, R315). -/
def Ctx.completed (x : Ctx) (slot : Nat) : Ctx :=
  { x with wait := .none, issued := none, pos := x.pos + 1,
           stepPend := x.stepPend || (x.priv == .u && (x.sreg 0x44D).getLsbD 0 && slot == 0) }

/-- Go on at the next instruction; at the end of a loop's body, count and return to its start (R174). -/
def Ctx.advance (x : Ctx) (slot : Nat) : Ctx :=
  let x := x.completed slot
  if x.looping && x.pc + 4 == x.loopEnd then
    let r : Reg := (x.sreg 0x031).extractLsb' 16 5
    if x.greg r ≤ 1 then { (x.setGreg r 0).setSreg 0x031 (x.sreg 0x031 &&& ~~~((1 : Word) <<< 63)) with pc := x.pc + 4 }
    else { x.setGreg r (x.greg r - 1) with pc := x.sreg 0x030 }
  else { x with pc := x.pc + 4 }

/-- Go to t: a target outside the body of an active loop ends the loop (R174). -/
def Ctx.goTo (x : Ctx) (t : Word) : Ctx :=
  if x.looping && !(x.sreg 0x030 ≤ t && t < x.loopEnd) then
    { x.setSreg 0x031 (x.sreg 0x031 &&& ~~~((1 : Word) <<< 63)) with pc := t }
  else { x with pc := t }

/-- Return from a trap of level T (R309): privilege, prefix, loop and the resume address come back, and
intrap and ie take 0 and 1. A resume address outside the body of the loop that comes back ends that loop (R174). -/
def Ctx.leave (x : Ctx) (toH : Bool) : Ctx :=
  let b := trapBase toH
  let st := x.sreg b
  let prev : Priv := if st.extractLsb' 4 2 = 0 then .u else if st.extractLsb' 4 2 = 1 then .s else .h
  let y := (((x.setSreg b ((st &&& ~~~(0x80 : Word)) ||| 0x40)).setSreg 0x024 (x.sreg (pfxReg toH))).setSreg (pfxReg toH) 0).resumeLoop
    (if toH then 2 else 0)
  { y.goTo (x.sreg (b + 2)) with priv := prev }

/-- The instruction completes and the next one follows. -/
def next : M Unit := fun s => .ok () (s.modMe (fun x => x.advance (cidSlot s.cur)))

/-- The instruction completes and control goes to t (R171, R173). -/
def jump (t : Word) : M Unit := fun s => .ok () (s.modMe (fun x => (x.completed (cidSlot s.cur)).goTo t))

/-! Operands from queues (R136). -/

/-- The event lines a context can receive: those it received while it waited, and, where it received none, the tile's pending ones
(R196, R198). -/
def State.pendingLines (s : State) : BitVec 32 := if s.me.got = 0 then (s.tile s.myTile).ev else s.me.got

/-- Take event lines: they are received, or pending, no longer (R196-R198). -/
def State.takeLines (s : State) (ls : BitVec 32) : State :=
  (s.modTile s.myTile (fun t => { t with ev := if s.me.got = 0 then t.ev &&& ~~~ls else t.ev })).modMe (fun x => { x with got := x.got &&& ~~~ls })

/-- The lowest set bit of a word of event lines. -/
def lowestLine (w : BitVec 32) : Nat := ((List.range 32).find? (fun i => w.getLsbD i)).getD 0

/-- The values that popping a queue register n times would take, oldest first. -/
def State.peek (s : State) (r : Reg) : List QVal :=
  if r = 28 then (s.tile s.myTile).qk
  else if r = 29 then
    (let lines (w : BitVec 32) : List QVal :=
        if w = 0 then [] else (List.range 32).filterMap (fun i => if w.getLsbD i then some { val := BitVec.ofNat 64 i, tc := s.me.tc } else none)
     lines s.me.got ++ lines (s.tile s.myTile).ev)
  else (s.core s.myCore).queue (linkDir r)

/-- How often a register occurs among the popped ones. -/
def countOf (r : Reg) (rs : List Reg) : Nat := (rs.filter (· == r)).length

/-- The checks of an instruction that names queues (R136, R137, R246, R297), before it pops anything:
pushes stay in the comb, every popped queue holds its values, every queue pushed now
has room, its slot permits the send, and each popped value carries the context's top-code bit (R66). pushes lists the destinations,
now says whether they are written at issue; an instruction that can wait tests its destination when it completes. -/
def gate (pops pushes : List Reg) (now : Bool) : M Unit := fun s =>
  let links := pushes.filter (fun r => isQueue r && r != 28)
  if links.any (fun r => s.linkClosed s.myCore (linkDir r)) then .error (.trap .combAccess 0) s
  else if pushes.contains 28 &&
      ((s.tile s.myTile).sreg 0x241).extractLsb' 0 2 ≠ BitVec.ofNat 2 s.myCore then
    .error (.trap .matrixGroup 0) s
  else
    let q := pops.filter isQueue
    match q.find? (fun r => decide ((s.peek r).length < countOf r q)) with
    | some r => .error (.wait .pop (r.setWidth 64)) s
    | none =>
      match pushes.find? (fun r => now &&
          (if r = 28 then decide (8 ≤ (s.tile s.myTile).qk.length)
           else isQueue r && s.linkFull s.myCore (linkDir r))) with
      | some r => .error (.wait .push (r.setWidth 64)) s
      | none =>
        match links.find? (fun r => now && s.bulkSync s.myTile && !(s.slotOk s.myTile (dirNum (linkDir r)))) with
        | some r => .error (.trap .slotFault (s.slotTval (dirNum (linkDir r)))) s
        | none =>
          if q.any (fun r => ((s.peek r).take (countOf r q)).any (fun v => v.tc != s.me.tc)) then
            .error (.trap .topCode 0) s
          else .ok () s

/-- The checks of the push with which an instruction that may have waited completes, in the cycle of the push (R136, R297). -/
def gatePush (d : Reg) : M Unit := gate [] [d] true

/-- Take the first value of a queue (R136, R198). -/
def State.pop (s : State) (r : Reg) : Word × State :=
  let v := match s.peek r with | q :: _ => q.val | [] => 0
  if r = 28 then (v, s.modTile s.myTile (fun t => { t with qk := t.qk.drop 1 }))
  else if r = 29 then
    (v, s.takeLines ((1 : BitVec 32) <<< lowestLine s.pendingLines))
  else (v, s.modCore s.myCore (fun k => k.setQueue (linkDir r) ((k.queue (linkDir r)).drop 1)))

/-- G[r] as a source: a queue pops (R160). -/
def readG (r : Reg) : M Word := fun s =>
  if isQueue r then let p := s.pop r; .ok p.1 p.2 else .ok (s.me.greg r) s

/-- G[r] := x at issue: a queue takes a push, g0 nothing (R160). -/
def writeG (r : Reg) (x : Word) : M Unit := fun s => .ok () (s.applyWrite s.cur (.g r x))

/-- The window of a scalar long-latency instruction's register results, which are ready: with la 0 it closes when the next
instruction issues (R152, R153). -/
def Ctx.laWindow (x : Ctx) (la : BitVec 4) (ws : List RegWrite) : Window :=
  { last := x.pos + la.toNat, seq := none, ready := true, replay := false, writes := ws }

/-- Deliver the register results of a scalar long-latency instruction at its window's close (R152, R155). -/
def writeLa (la : BitVec 4) (ws : List RegWrite) : M Unit := fun s =>
  .ok () (s.modMe (fun x => { x with windows := x.windows ++ [x.laWindow la ws] }))

/-! Flags (R75, R76). -/

/-- The enabled cause of the lowest code among raised flags, in the order NV, DZ, OF, UF, NX (R76). -/
def enabledCause (fl trapMask : Flags) : Option Cause :=
  let e := fl &&& trapMask
  if e.getLsbD 4 then some .nv else if e.getLsbD 3 then some .dz else if e.getLsbD 2 then some .of
  else if e.getLsbD 1 then some .uf else if e.getLsbD 0 then some .nx else none

/-- The cause of the first element, by its number, whose own flags raise an enabled one; pairs of one element count together
(R76, R215). -/
def firstCause (fls : List (Nat × Flags)) (trapMask : Flags) : Option (Nat × Cause) :=
  let fls := fls.filter (fun p => p.2 != Flags.none)
  let hit (k : Nat) : Option Cause :=
    enabledCause ((fls.filter (fun p => p.1 == k)).foldl (fun f p => f ||| p.2) Flags.none) trapMask
  (leastBy id ((fls.map (fun (p : Nat × Flags) => p.1)).filter (fun k => (hit k).isSome))).bind (fun k => (hit k).map (fun c => (k, c)))

/-- OR flags into %st.fflags of a context (R75). -/
def Ctx.orFlags (x : Ctx) (fl : Flags) : Ctx := x.setSreg 0x020 (x.sreg 0x020 ||| fl.setWidth 64)

/-- Raise(flags) in the scalar pipeline: the flags are set, and an enabled one raises its cause (R76). -/
def raiseFlags (fl : Flags) : M Unit := fun s =>
  let s' := if fl = 0 then s else s.modMe (fun x => x.orFlags fl)
  match enabledCause fl ((s.me.sreg 0x021).setWidth 5) with
  | some c => .error (.trap c 0) s'
  | none => .ok () s'

/-! The checks of an access (R91-R94) and its translation (R328-R337). -/

/-- The kinds of access (R92). -/
inductive AKind where
  | read | write | atomic | fetch
deriving DecidableEq, Repr

/-- The code of a kind in a miss record (R333). -/
def AKind.code : AKind → Nat
  | .read => 0 | .write => 1 | .atomic => 2 | .fetch => 3

/-- The region tag of a pointer (R91). -/
def ptrTag (p : Word) : Nat := (p.extractLsb' 60 4).toNat
/-- The address of a pointer (R91). -/
def ptrAddr (p : Word) : Nat := (p.extractLsb' 0 56).toNat
/-- Whether a pointer names tile memory. -/
def isTm (p : Word) : Bool := decide (14 ≤ ptrTag p)
/-- The tile, view and offset of a TM pointer, for a context of tile t (R91, R160). -/
def ptrTile (t : Nat) (p : Word) : Nat := if ptrTag p = 14 then (p.extractLsb' 20 10).toNat else t
def ptrView (p : Word) : Nat :=
  if ptrTag p = 14 then (p.extractLsb' 30 2).toNat else (p.extractLsb' 21 2).toNat
def ptrOff (p : Word) : Nat := (p.extractLsb' 0 20).toNat

/-- Whether rights in the order a, x, w, r from bit 3 down grant a kind: an atomic needs r and a (R92). -/
def grants (a x w r : Bool) : AKind → Bool
  | .read => r | .write => w | .atomic => r && a | .fetch => x

/-- The translated leaf of a shared access at a virtual address (R94, R331). -/
structure Leaf where
  va       : Nat
  pa       : Nat
  region   : Nat
  pg       : Pg
  exactSum : Bool
deriving DecidableEq, Repr

/-- Whether a leaf lies in PCIe memory, which has no home (R385). -/
def Leaf.pcie (l : Leaf) : Bool := paSpace l.pa == 8 || paSpace l.pa == 9

/-- The pointer that a leaf's access was made at. -/
def Leaf.ptr (l : Leaf) : Word := BitVec.ofNat 64 (l.region * 2 ^ 60 + l.va)

/-- The bytes of a page (R331). -/
def pageBytes (e : TlbE) : Nat :=
  let z := e.e0.extractLsb' 8 2
  if z = 0 then 2 ^ 16 else if z = 1 then 2 ^ 21 else 2 ^ 30

/-- The virtual, physical and guest page addresses of an entry, its VF and its companion word (R331). -/
def TlbE.vpage (e : TlbE) : Nat := (e.e0.extractLsb' 16 40).toNat * 65536
def TlbE.ppage (e : TlbE) : Nat := (e.e1.extractLsb' 16 40).toNat * 65536
def TlbE.gpage (e : TlbE) : Nat := (e.e2.extractLsb' 16 40).toNat * 65536
def TlbE.vf (e : TlbE) : Nat := (e.e0.extractLsb' 56 5).toNat
def TlbE.companion (e : TlbE) : Nat := (e.e3.extractLsb' 3 53).toNat * 8

/-- Whether an entry maps an address of a VF. -/
def TlbE.covers (e : TlbE) (vf va : Nat) : Bool :=
  e.e0.getLsbD 63 && e.vf == vf && decide (e.vpage ≤ va) && decide (va < e.vpage + pageBytes e)

/-- Whether an entry grants a kind (R331). -/
def TlbE.grants (e : TlbE) (k : AKind) : Bool :=
  Machine.grants (e.e0.getLsbD 3) (e.e0.getLsbD 2) (e.e0.getLsbD 1) (e.e0.getLsbD 0) k

/-- The key of an index as it stands: its generation and the index (R367). -/
def State.keyId (s : State) (i : Nat) : Nat := SMap.get (fun _ => 0) s.keyGens i * 256 + i + 1

/-- The key of an entry (R331, R367). -/
def State.pageOf (s : State) (e : TlbE) : Pg :=
  { memSide := e.e1.getLsbD 0, key := some (s.keyId (e.e1.extractLsb' 56 8).toNat) }

/-- The leaf of an entry for an address it covers, its key left out. -/
def TlbE.leaf (e : TlbE) (va : Nat) : Leaf :=
  { va := va, pa := e.ppage + (va - e.vpage), region := (e.e0.extractLsb' 4 4).toNat,
    pg := { memSide := e.e1.getLsbD 0, key := none }, exactSum := e.e1.getLsbD 1 }

/-- The entry that a tile finds for an address, and whether the hive TLB supplied it (R330, R333). -/
def State.findTlb (s : State) (t vf va : Nat) : Option (TlbE × Bool) :=
  match (s.tile t).tlb.find? (fun e => e.covers vf va) with
  | some e => some (e, false)
  | none =>
    match (s.hive (hiveOf t)).tlb.find? (fun e => e.covers vf va) with
    | some e => some (e, true)
    | none => none

/-- Add an entry to a tile's TLB of 64 entries, the oldest leaving when it is full (R330). -/
def State.fillTile (s : State) (t : Nat) (e : TlbE) : State :=
  s.modTile t (fun x => { x with tlb := (x.tlb ++ [e]).drop (x.tlb.length + 1 - 64) })

/-- Set the bit of this die in an entry's companion word for a use: 0 accessed, 8 written. The word of a page of another device holds
one bit for the whole of this one, which goes there over Milay at each installation (R335). -/
def State.setCompanion (s : State) (t : Nat) (e : TlbE) (use : Nat) : State :=
  if paSpace e.companion = 0xA then
    (if use = 0 then s.sendOut { Remote.of (t * 64) 0x10000 false true e.companion 8 0 0 with
       isLate := true, bytes := leBytes 8 (2 ^ (16 + s.mgmt.deviceId % 48)) } else s)
  else s.setMemWord e.companion (s.memWord e.companion ||| (1 <<< (use + dieOf t)))

/-- Whether an entry's companion word is still to be set at its home: the entry is not used yet (R335). -/
def State.companionDue (s : State) (e : TlbE) : Bool :=
  s.remotes.any (fun r => r.isCompanion && !r.acked && r.pa == e.companion)

/-- The use of an entry by a tile: a hive hit fills the tile TLB, and the first write of a die sets the
companion word's written bit (R333, R335). -/
def State.useTlb (s : State) (t : Nat) (e : TlbE) (fromHive write : Bool) : State :=
  let s := if fromHive then s.fillTile t e else s
  if write then s.setCompanion t e 8 else s

/-- The VF of a context: the yard of its tile (R304, R328, R363). -/
def State.vfOf (s : State) (c : Nat) : Nat := s.yardOf (cidTile c)

/-- Whether an access of context c waits for the answer to a miss of its own (R333). -/
def State.missOpen (s : State) (c kind : Nat) (who : Option Nat) (addr : Word) : Bool :=
  (s.hive (hiveOf (cidTile c))).misses.any (fun m => m.cid == c && m.addr == addr && m.kind == kind && m.who == who)

/-- Register a hive miss for an access of context c (R333). -/
def State.addMiss (s : State) (c kind : Nat) (who : Option Nat) (addr : Word) : State :=
  s.modHive (hiveOf (cidTile c)) (fun x => { x with misses := x.misses ++
    [({ id := 0, addr := addr, kind := kind, cid := c, who := who, vf := s.vfOf c, tag := s.tagOf c,
        priv := (s.ctx c).priv.code, inv := 0, stale := false, written := false, task := none } : Miss)] })

/-- How a translation ends: a leaf, a fault, or a wait for a TLBW. -/
inductive Trans where
  | leaf (l : Leaf) (s : State)
  | fault (c : Cause) (s : State)
  | parked (s : State)
  | miss (s : State)

/-- The bytes of this device's HBM: 768 GB, which the model counts in units of 2^30 (R2; log 67). -/
def hbmBytes : Nat := 768 * 2 ^ 30

/-- Whether an access to a physical address meets an uncorrectable memory error (R310): its channel is retired, its line's data is
bad, or HBM has no such address (log 67). -/
def State.memBad (s : State) (pa : Nat) : Bool :=
  s.channelDead pa || s.badLines.contains (lineOf pa) || (paSpace pa == 0 && decide (hbmBytes ≤ pa))

/-- Translate an address of region tag g for context c, whose coprocessor instruction who makes the access; none: its own
instruction (R328-R337). A TSC's addresses are physical (R329). An entry without the right for the access or of another region, and a fault answer,
raise their causes; an access whose miss is outstanding waits for its answer. -/
def State.translate (s : State) (c g va kind : Nat) (who : Option Nat) (k : AKind) : Trans :=
  if isTsc c then
    if s.memBad va then .fault .memError s
    else .leaf { va := va, pa := va, region := g, pg := Pg.plain, exactSum := false } s
  else
    let t := cidTile c
    let addr : Word := BitVec.ofNat 64 (g * 2 ^ 60 + va)
    let drop (a : Answer) : State := s.modCtx c (fun x => { x with answers := x.answers.erase a })
    match (s.ctx c).answers.find? (fun a => a.addr == addr && a.kind == kind && a.who == who) with
    | some a => if a.code = 1 then .fault .translation (drop a) else if a.code = 2 then .fault .stage2 (drop a) else .parked s
    | none =>
      if s.missOpen c kind who addr then .miss s
      else match s.findTlb t (s.vfOf c) va with
        | some (e, fromHive) =>
          if !(e.grants k) then .fault .translation s
          else if (e.leaf va).region ≠ g then .fault .regionMismatch s
          else if s.memBad (e.leaf va).pa then .fault .memError s
          else if s.companionDue e then .miss s
          else .leaf { e.leaf va with pg := s.pageOf e } (s.useTlb t e fromHive (k == .write || k == .atomic))
        | none => .miss (s.addMiss c kind who addr)

/-- The result of R92's checks before translation: none when they pass. A TSC fetches its firmware from its local memory (R398;
log 8). -/
def checkPtr (s : State) (c : Nat) (p : Word) (size : Nat) (k : AKind) : Option Cause :=
  if p.extractLsb' 56 4 ≠ 0 then some .pointerFormat
  else if ptrTag p = 15 ∧ (p.extractLsb' 23 33 ≠ 0 ∨ p.getLsbD 20) then some .pointerFormat
  else if ptrTag p = 14 ∧ p.extractLsb' 32 24 ≠ 0 then some .pointerFormat
  else if k = .fetch ∧ isTm p ∧ !isTsc c then some .accessKind
  else if ptrAddr p % size ≠ 0 then some .misaligned
  else if isTm p then
    (if ptrTag p = 14 ∧ !(s.reaches (cidTile c) (p.extractLsb' 20 10).toNat) then some .combAccess else none)
  else
    let base := (s.ctx c).sreg (0x400 + 4 * ptrTag p)
    let limit := (s.ctx c).sreg (0x401 + 4 * ptrTag p)
    let attr := (s.ctx c).sreg (0x402 + 4 * ptrTag p)
    if !attr.getLsbD 0 ∨ ptrAddr p < base.toNat ∨ limit.toNat < ptrAddr p + size - 1 then some .regionBounds
    else if !(grants (attr.getLsbD 4) (attr.getLsbD 3) (attr.getLsbD 2) (attr.getLsbD 1) k) then
      some .regionRights
    else none

/-- Check(p, size, kind) for context c, with the exchange-slot rule of a bulk-synchronous job (R32) and
the region comparison after translation; the leaf of a shared access, or none for TM. -/
inductive Checked where
  | tm (s : State)
  | shared (l : Leaf) (s : State)
  | bad (c : Cause) (tval : Word) (s : State)
  | parked (s : State)
  | miss (s : State)

/-- Whether the current slot refuses a shared access of a context (R32). -/
def State.slotRefused (s : State) (c : Nat) : Bool := s.bulkSync (cidTile c) && !isTsc c && !(s.slotOk (cidTile c) 7)

/-- The slot check of a shared access that is not one of R92's (R32). -/
def sharedSlot : M Unit := fun s =>
  if s.me.issued.isNone && s.slotRefused s.cur then .error (.trap .slotFault (s.slotTval 0xF)) s else .ok () s

/-- The checks of one access (R92). mk is the kind code of its miss record (R333), who the coprocessor instruction that makes it. The
spec does not say where the slot check of R32 stands among them: here it follows R92's checks of the pointer and of its region, and
comes before the translation (log 68). An access that has issued and waits, and one of a vector instruction, had its slot checked at the
issue (R32). -/
def State.check (s : State) (c : Nat) (p : Word) (size : Nat) (k : AKind) (mk : Nat) (who : Option Nat) : Checked :=
  match checkPtr s c p size k with
  | some e => .bad e p s
  | none =>
    if isTm p then .tm s
    else if k ≠ .fetch ∧ who.isNone ∧ (s.ctx c).issued.isNone ∧ s.slotRefused c then .bad .slotFault (s.slotTval 0xF) s
    else
      match s.translate c (ptrTag p) (ptrAddr p) mk who k with
      | .fault e s' => .bad e p s'
      | .parked s' => .parked s'
      | .miss s' => .miss s'
      | .leaf l s' => if l.region ≠ ptrTag p then .bad .regionMismatch p s' else .shared l s'

/-- Check(p, size, kind) in the scalar pipeline (R92): none for TM, the leaf for shared memory. A task on
a page in transit aborts and parks (R337). An access that passes waits for the context's own earlier
coprocessor accesses to the same bytes (R109, R124), and one of another tile's memory for links that carry it (R366). who is the vector instruction whose element it is. -/
def checkBy (who : Option Nat) (p : Word) (size : Nat) (k : AKind) : M (Option Leaf) := fun s =>
  let wait := k != .fetch && (s.hazard s.cur (k == .write || k == .atomic) p size ||
    (isTm p && !(s.routeOpen (s.yardOf s.myTile) s.myTile (ptrTile s.myTile p))))
  match s.check s.cur p size k k.code who with
  | .tm s' => if wait then .error (.wait .engine p) s else .ok none s'
  | .shared l s' => if wait then .error (.wait .engine p) s else .ok (some l) s'
  | .bad c tv s' => .error (.trap c tv) s'
  | .miss s' => .error (.wait .translation p) s'
  | .parked s' =>
    if isHelperSlot (cidSlot s.cur) then
      .error .left (s'.parkTask s.cur p)
    else .error (.wait .translation p) s'

/-- The check of an instruction's own access. -/
def checkM (p : Word) (size : Nat) (k : AKind) : M (Option Leaf) := checkBy none p size k

/-! Memory in the scalar pipeline (R110, R113, R181, R183). -/

/-- Whether the context whose turn it is runs a task. -/
def State.inTask (s : State) : Bool := isHelperSlot (cidSlot s.cur)

/-- A command that a task holds back until its commit (R23, R117), with its operands and the special
registers it reads as they stand now. -/
def defer (i : Instr) (a b : Word) : M Unit := fun s =>
  let q : QEntry := { seq := 0, cid := s.cur, tag := s.tagOf s.cur, pc := s.me.pc, inst := i, pfx := 0, a := a, b := b, qkw := 0,
                      ord := 0, sr := s.me.sr, vf := [], mf := [], since := s.cal, rel := none, replay := false, binds := [] }
  .ok () (s.modCtx s.cur (fun x => { x with helper := x.helper.map (fun h => { h with deferred := h.deferred ++ [q] }) }))

/-- A step that has no effect because its task must re-run in solo mode (R116). -/
def soloAbort {α : Type} : M α := fun s => .error .left (s.abortTask s.cur true true)

/-- Bring a line into a tile's L1 from home, keeping its dirty bytes (R110, R111). -/
def State.fillL1 (s : State) (c t pa : Nat) (pg : Pg) : State :=
  let l := lineOf pa
  let x := (s.tile t).line l
  if x.present && !x.refill then s
  else
    let s := s.settleWcb t
    let s := if x.present then s else s.roomL1 t
    let s := if versioned pa pg then s.fillL2 pa (s.yardOf t) else s
    let bs := s.homeRead (s.tagOf c) (l * 128) 128 pg
    let v := if versioned pa pg then s.verOf pa else 0
    s.modTile t (fun tl => tl.setLine l
      { present := true, clean := lineBits bs, ver := v, refill := false, dirty := x.dirty, pg := pg })

/-- Whether a line can be brought into a tile's L1 now: it can be read at home, and L1 holds it or has room. -/
def State.fillable (s : State) (t pa : Nat) : Bool :=
  s.homeOpen t pa none && (((s.tile t).line (lineOf pa)).present || s.l1Room t)

/-- Whether a line must be read from home to serve a range of its bytes. -/
def State.mustFill (s : State) (t pa n : Nat) : Bool :=
  let x := (s.tile t).line (lineOf pa)
  !x.present || (x.refill && (List.range n).any (fun i =>
    (SMap.get (fun _ => none) x.dirty (pa % 128 + i)).isNone))

/-- n bytes of a line in L1. -/
def State.l1Bytes (s : State) (t pa n : Nat) : List Byte :=
  let x := (s.tile t).line (lineOf pa)
  (List.range n).map (fun i => x.byteAt (pa % 128 + i))

/-- A read that leaves the device over PCIe or Milay for the access of a leaf: a matching acknowledged request of the
context is consumed, one that was given up raises its cause (R393), a pending one is waited for, and otherwise the request is sent (R111, R385). -/
def remoteRead (l : Leaf) (pa n : Nat) : M Unit := fun s =>
  match s.remotes.find? (fun r => r.cid == s.cur && r.tag == s.tagOf s.cur && !r.isWrite && !r.isLate && r.fill.isNone && r.pa == pa && r.size == n) with
  | some r =>
    let t : State := { s with remotes := s.remotes.filter (fun q => q.id != r.id) }
    if r.failed then .error (.trap .memError l.ptr) t else if r.acked then .ok () t else .error (.wait .remote l.ptr) s
  | none => .error (.wait .remote l.ptr) (s.sendOut (Remote.of s.cur (s.tagOf s.cur) l.pcie false pa n l.ptr s.me.pc))

/-- The whole line of a leaf is read from another device, where it lies there; its home is on this device otherwise (R12, R130). -/
def remoteLine (l : Leaf) : M Unit := if paSpace l.pa = 0xA then remoteRead l (lineOf l.pa * 128) 128 else pure ()

/-- A read of PCIe memory, whose bytes then stand in mem. A context's own earlier posted writes to those bytes come before it
(R109). -/
def pcieRead (l : Leaf) (n : Nat) : M Unit := fun s =>
  if s.remotes.any (fun r => r.pcie && r.isWrite && r.cid == s.cur && !r.acked && runsMeet r.pa r.size l.pa n) then
    .error (.wait .remote l.ptr) s
  else remoteRead l l.pa n s

/-- A posted write to PCIe memory: it leaves, and only a system-scope release waits for it (R385). -/
def State.postWrite (s : State) (c : Nat) (l : Leaf) (bs : List Byte) : State :=
  s.sendOut { Remote.of c (s.tagOf c) true true l.pa bs.length l.ptr (s.ctx c).pc with bytes := bs }

/-- Enter a line in a task's read set (R24): a different version marks the entry failed. -/
def Helper.enterRead (h : Helper) (l : Nat) (v : Word) : Helper :=
  if h.reads.any (fun e => e.line == l) then
    { h with reads := h.reads.map (fun e => if e.line == l && e.ver != v then { e with failed := true } else e) }
  else { h with reads := h.reads ++ [{ line := l, ver := v, failed := false }] }

/-- The byte a task has buffered at an address (R23, R113). -/
def Helper.buffered (h : Helper) (pa : Nat) : Option Byte := SMap.get (fun _ => none) h.dirty pa

/-- Whether a task has buffered the byte at an address. -/
def Helper.holds (h : Helper) (pa : Nat) : Bool := (h.buffered pa).isSome

/-- Whether L1 holds the byte at an address dirty (R110). -/
def CacheLine.holds (x : CacheLine) (pa : Nat) : Bool := (SMap.get (fun _ => none) x.dirty (pa % 128)).isSome

/-- The lines a task has written. -/
def Helper.dirtyLines (h : Helper) : List Nat := (h.dirty.map (fun p => lineOf p.1)).eraseDups

/-- Change the helper of the context whose turn it is. -/
def State.modHelper (s : State) (c : Nat) (f : Helper → Helper) : State :=
  s.modCtx c (fun x => { x with helper := x.helper.map f })

/-- A solo task takes ownership at home of a line of a page, or waits while another holds it (R26). -/
def State.soloTake (s : State) (c pa : Nat) (pg : Pg) : Option State :=
  if s.homeOpen (cidTile c) pa (some c) then
    let s := s.cleanLine (cidTile c) (lineOf pa)
    let s := if versioned pa pg then s.fillL2 pa (s.yardOf (cidTile c)) else s
    some (s.setL2 (lineOf pa) { s.l2line (lineOf pa) with solo := some c })
  else none

/-- The tenant that a context's accesses are charged to in L2: that of its tile's yard, and none, 32, for a TSC (R368). -/
def State.payer (s : State) (c : Nat) : Nat := if isTsc c then 32 else s.yardOf (cidTile c)

/-- What the context whose turn it is reads at home: configuration space shows itself to H alone (R386). -/
def State.homeSeen (s : State) (l : Leaf) (n : Nat) : List Byte :=
  if paSpace l.pa = 0xF ∧ s.me.priv ≠ .h then List.replicate n 0 else s.homeRead (s.tagOf s.cur) l.pa n l.pg

/-- Bytes of a line read at its home by a TSC (R329): over Milay where another device is the home. -/
def homeLoad (l : Leaf) (n : Nat) : M (List Byte) := fun s =>
  if !(s.lineFree l.pa none) then .error (.wait .owned (BitVec.ofNat 64 l.pa)) s
  else
    (do
      if paSpace l.pa = 0xA then remoteRead l l.pa n
      let s ← get
      raiseFlags (s.sumFlags l.pa n)
      modify (fun (s : State) => if versioned l.pa l.pg then s.fillL2 l.pa (s.payer s.cur) else s)
      let s ← get
      return s.homeSeen l n) s

/-- Bytes of a shared line for a control context: through L1, at home for a TSC, or from PCIe memory (R110, R329, R385). -/
def loadControl (l : Leaf) (n : Nat) : M (List Byte) := fun s =>
  if l.pcie then (do pcieRead l n; fun s => .ok (s.bytes l.pa n) s) s
  else if isTsc s.cur then homeLoad l n s
  else if s.mustFill s.myTile l.pa n then
    if s.fillable s.myTile l.pa then
      (do
        remoteLine l
        modify (fun (s : State) => s.settleWcb s.myTile)
        let fl := (← get).sumFlagsBut l.pa n ((s.tile s.myTile).line (lineOf l.pa)).holds
        modify (fun (s : State) => s.fillL1 s.cur s.myTile l.pa l.pg)
        raiseFlags fl
        fun s => .ok (s.l1Bytes s.myTile l.pa n) s) s
    else .error (.wait .owned (BitVec.ofNat 64 l.pa)) s
  else .ok (s.l1Bytes s.myTile l.pa n) s

/-- Bytes of a shared line for a task (R113, R24-R26): its own buffered bytes first, then a clean L1 copy,
then home. The line enters the read set unless every byte is the task's own or the page is memory-side. -/
def loadTask (l : Leaf) (n : Nat) : M (List Byte) := fun s =>
  match s.me.helper with
  | none => .error .left s
  | some h =>
    if paSpace l.pa ≠ 0 then .error (.trap .accessKind 0) s
    else
      let own := (List.range n).map (fun i => h.buffered (l.pa + i))
      if own.all Option.isSome then .ok (own.map (fun b => b.getD 0)) s
      else if h.task.solo then
        match s.soloTake s.cur l.pa l.pg with
        | none => .error (.wait .owned (BitVec.ofNat 64 l.pa)) s
        | some s =>
          let bs := s.homeRead (s.tagOf s.cur) l.pa n l.pg
          (do raiseFlags (s.sumFlagsBut l.pa n h.holds); return (own.zip bs).map (fun (p : Option Byte × Byte) => p.1.getD p.2)) s
      else
        let x := (s.tile s.myTile).line (lineOf l.pa)
        let clean := x.present && !x.refill && x.dirty.isEmpty
        if !clean && !(s.fillable s.myTile l.pa) then .error (.wait .owned (BitVec.ofNat 64 l.pa)) s
        else
          let s := if clean then s else (s.cleanLine s.myTile (lineOf l.pa)).modTile s.myTile
            (fun t => t.setLine (lineOf l.pa) CacheLine.absent)
          let fl := if clean then Flags.none else s.sumFlagsBut l.pa n h.holds
          let s := s.fillL1 s.cur s.myTile l.pa l.pg
          let bs := s.l1Bytes s.myTile l.pa n
          let v := ((s.tile s.myTile).line (lineOf l.pa)).ver
          let h' := if l.pg.memSide then h else h.enterRead (lineOf l.pa) v
          if 256 < h'.reads.length then .error .left (s.abortTask s.cur true true)
          else
            let s := s.modHelper s.cur (fun _ => h')
            (do raiseFlags fl; return (own.zip bs).map (fun (p : Option Byte × Byte) => p.1.getD p.2)) s

/-- n bytes of shared memory for the context whose turn it is. -/
def loadShared (l : Leaf) (n : Nat) : M (List Byte) := fun s =>
  if s.inTask then loadTask l n s else loadControl l n s

/-- Put the dirty bytes of a leaf into an L1 line that is present (R108, R110). -/
def State.dirtyBytes (s : State) (c t : Nat) (l : Leaf) (bs : List Byte) : State :=
  let tag := s.tagOf c
  s.modTile t (fun tl =>
    let x := tl.line (lineOf l.pa)
    let d := (bs.zipIdx).foldl (fun d p => SMap.set (fun _ => none) d (l.pa % 128 + p.2)
      (some { byte := p.1, core := cidCore c, tag := tag, pg := l.pg, ptr := l.ptr, pc := (s.ctx c).pc })) x.dirty
    tl.setLine (lineOf l.pa) { x with dirty := d })

/-- Whether an offset of a tenant record is written as plain storage: a listed field that software may write, but for the control word
(R363). -/
def recordStored (off : Nat) : Bool := (decide (8 ≤ off) && decide (off < 0x58)) || decide (0x80 ≤ off)

/-- Whether an address of configuration space is written as plain storage: the calendar block, a tenant
record past its control word, the admission table, the route table, link status, drop counters, and the
event post (R386). -/
def configStored (off : Nat) : Bool :=
  decide (off < 0x88000) || (decide (0x100000 ≤ off) && decide (off < 0x102000) && recordStored (off % 0x100)) ||
  (decide (0x110000 ≤ off) && decide (off < 0x110400)) || (decide (0x120000 ≤ off) && decide (off < 0x120048)) ||
  (decide (0x130000 ≤ off) && decide (off < 0x130180)) || (decide (0x131000 ≤ off) && decide (off < 0x131100)) ||
  (decide (0x132000 ≤ off) && decide (off < 0x132100))

/-- The command of a tenant record's control word (R364). -/
def tenantCommand (v cmd : Nat) : Option Instr :=
  match cmd with
  | 0 => none | 1 => some (.tenantCreate v) | 2 => some (.tenantStart v) | 3 => some (.tenantSave v)
  | 4 => some (.tenantResume v) | 5 => some (.tenantTeardown v) | 6 => some (.tenantMigrateOut v)
  | 7 => some (.tenantMigrateIn v) | 8 => some (.tenantCheckpoint v) | 9 => some (.tenantRollBack v)
  | n => some (.tenantReservedCommand v n)

/-- The tenant whose command a row starts or carries on. -/
def tenantOf : Instr → Option Nat
  | .tenantCreate v | .tenantStart v | .tenantSave v | .tenantResume v | .tenantTeardown v | .tenantMigrateOut v | .tenantMigrateIn v
  | .tenantCheckpoint v | .tenantRollBack v | .tenantReservedCommand v _ => some v
  | _ => none

/-- Whether a command of a record is in progress, or given and about to start (R365). -/
def State.tenantBusy (s : State) (v : Nat) : Bool := (s.tenant v).cmd != 0 || s.agenda.any (fun i => tenantOf i == some v)

/-- A TSC's store to device configuration space (R386): the control word of a record stores only its
command, which the record's machine then carries out (R364), and which is only noted as busy while another is
in progress (R365); the last doubleword of the event post and the
MSI-X post start their steps; a calendar byte waits to be applied (R356), and so does a route entry (R392). -/
def State.configWrite (s : State) (pa : Nat) (bs : List Byte) : State :=
  let off := pa % 2 ^ 24
  let x := leNat bs
  if 0x100000 ≤ off ∧ off < 0x102000 ∧ off % 0x100 < 8 then
    if off % 0x100 = 0 ∧ x % 16 ≠ 0 ∧ s.tenantBusy ((off - 0x100000) / 0x100) then s.setByte (pa / 8 * 8 + 6) 1
    else if off % 0x100 = 0 then
      match tenantCommand ((off - 0x100000) / 0x100) (x % 16) with
      | some i => s.later i
      | none => s
    else s
  else if off = 0x120040 then s.later (.msixPost (BitVec.ofNat 64 x))
  else if !(configStored off) then s
  else
    let s := s.setBytes pa bs
    if 0x120038 ≤ off ∧ off < 0x120040 then s.later (.eventPost (s.bytes (configPa 0x120000) 64))
    else if off < 0x88000 then { s with calSince := SMap.set (fun _ => 0) s.calSince (off / 64) (s.cal + 1) }
    else s

/-- A store to configuration space of the context whose turn it is: no code but H's reaches it (R386). -/
def State.configStore (s : State) (pa : Nat) (bs : List Byte) : State := if s.me.priv = .h then s.configWrite pa bs else s

/-- A TSC's store at a line's home (R329): over Milay where another device is the home. -/
def State.homeStore (s : State) (l : Leaf) (bs : List Byte) : State :=
  let tag := s.tagOf s.cur
  let s := if paSpace l.pa = 0xA then s.sendLine (lineOf l.pa) s.myCore tag l.ptr s.me.pc else s
  s.homeWrite tag (s.payer s.cur) l.pg (bs.zipIdx.map (fun p => (l.pa + p.2, p.1)))

/-- A shared store of a control context (R183): PCIe memory takes a posted write, a TSC writes at home or
in configuration space, and otherwise the bytes become dirty bytes of an L1 line filled from home. -/
def storeControl (l : Leaf) (bs : List Byte) : M Unit := fun s =>
  if l.pcie then .ok () (s.postWrite s.cur l bs)
  else if isTsc s.cur then
    if paSpace l.pa = 0xF then .ok () (s.configStore l.pa bs)
    else if s.lineFree l.pa none then .ok () (s.homeStore l bs)
    else .error (.wait .owned (BitVec.ofNat 64 l.pa)) s
  else if ((s.tile s.myTile).line (lineOf l.pa)).present then
    .ok () (s.dirtyBytes s.cur s.myTile l bs)
  else if s.fillable s.myTile l.pa then
    (do
      remoteLine l
      fun s => .ok () ((s.fillL1 s.cur s.myTile l.pa l.pg).dirtyBytes s.cur s.myTile l bs)) s
  else .error (.wait .owned (BitVec.ofNat 64 l.pa)) s

/-- A shared store of a task: its bytes are buffered, at most 64 lines unless it runs solo (R23, R25,
R26). -/
def storeTask (l : Leaf) (bs : List Byte) : M Unit := fun s =>
  match s.me.helper with
  | none => .error .left s
  | some h =>
    if paSpace l.pa ≠ 0 then .error (.trap .accessKind 0) s
    else
      let d := bs.zipIdx.foldl (fun d (p : Byte × Nat) => SMap.set (fun _ => none) d (l.pa + p.2) (some p.1)) h.dirty
      let h' : Helper := { h with dirty := d, pages := SMap.set (fun _ => none) h.pages (lineOf l.pa) (some l.pg) }
      if h.task.solo then
        match s.soloTake s.cur l.pa l.pg with
        | none => .error (.wait .owned (BitVec.ofNat 64 l.pa)) s
        | some s => .ok () (s.modHelper s.cur (fun _ => h'))
      else if 64 < h'.dirtyLines.length then .error .left (s.abortTask s.cur true true)
      else .ok () (s.modHelper s.cur (fun _ => h'))

/-- Store bytes to shared memory for the context whose turn it is. -/
def storeShared (l : Leaf) (bs : List Byte) : M Unit := fun s =>
  if s.inTask then storeTask l bs s else storeControl l bs s

/-- Mem[p, n] as a source: the check of R92, then the little-endian value (R160, R181). -/
def loadMem (who : Option Nat) (p : Word) (n : Nat) : M Nat := do
  match (← checkBy who p n .read) with
  | none => fun s => .ok (leNat (s.tmBytes (ptrTile s.myTile p) (ptrView p) (ptrOff p) n)) s
  | some l => return leNat (← loadShared l n)

/-- Mem[p, n] := x (R160, R183). TM bytes are written at once, through the pointer's view. -/
def storeMem (who : Option Nat) (p : Word) (n : Nat) (x : Nat) : M Unit := do
  match (← checkBy who p n .write) with
  | none => fun s => .ok () (s.setTmBytes (ptrTile s.myTile p) (ptrView p) (ptrOff p) (leBytes n x))
  | some l => storeShared l (leBytes n x)

/-! Scopes (R111, R244). -/

/-- The scope-policy check of FENCE, AMO, FLUSH and INVAL (R111, R304). -/
def scopeCheck (sc : Nat) : M Unit := fun s =>
  if sc = 3 ∧ !(s.me.sreg 0x807).getLsbD 0 then .error (.trap .scopePolicy 0) s else .ok () s

/-- Whether a context still has coprocessor work that a release and a drain wait for: queued instructions, and commands that have not
completed, on any tile (R111, R203, R312). -/
def State.copBusy (s : State) (c : Nat) : Bool :=
  (s.core (cidCore c)).vq.any (fun q => q.cid == c) || (s.core (cidCore c)).held.any (fun q => q.cid == c) ||
  (s.tile (cidTile c)).mq.any (fun q => q.cid == c) || (s.tile (cidTile c)).mrun.any (fun r => r.q.cid == c) ||
  (s.tile (cidTile c)).wq.any (fun q => q.cid == c) || (s.tile (cidTile c)).streams.any (fun m => m.q.cid == c) ||
  s.tiles.any (fun p => p.2.eng.any (fun e => e.q.tag == s.tagOf c && cidSlot e.q.cid == cidSlot c))

/-- Whether a release of a context at a scope waits for requests over Milay or PCIe, of the context on any core or of its core (R111). -/
def State.remoteBusy (s : State) (c sc : Nat) : Bool :=
  s.remotes.any (fun r => r.isWrite && !r.acked && (cidCore r.cid == cidCore c || r.tag == s.tagOf c) &&
    ((decide (2 ≤ sc) && !r.pcie) || (decide (3 ≤ sc) && r.pcie)))

/-- FENCE.REL at a scope: every earlier access is performed as R111's table requires. -/
def release (sc : Nat) : M Unit := fun s =>
  if s.copBusy s.cur then .error (.wait .drain 0) s
  else if sc = 0 then .ok () s
  else if s.dirtyBlocked s.myTile s.myCore then .error (.wait .owned 0) s
  else
    let s := s.releaseCore s.myTile s.myCore
    if s.remoteBusy s.cur sc then .error (.wait .drain 0) s else .ok () s

/-- FENCE.ACQ at a scope: stale copies are discarded (R111). -/
def acquire (sc : Nat) : M Unit := fun s => .ok () (s.acquireTile s.myTile sc)

end Sys2Proof.Machine
end

