-- ==== Sys2Proof/Machine/Scalar.lean ====
section
/-! DEFINITION. The scalar integer operations (R167-R170). -/

namespace Sys2Proof.Machine

/-- A register-form operation: no prefix, A then B read at issue, the result written to G[d] (R165,
R167). -/
def opRR (d a b : Reg) (f : Word → Word → Word) : M Unit := do
  noPrefix
  gate [a, b] [d] true
  let x ← readG a
  let y ← readG b
  writeG d (f x y)
  next

/-- A long-latency register-form operation (R151, R167). -/
def opLong (d a b : Reg) (la : BitVec 4) (f : Word → Word → Word) : M Unit := do
  noPrefix
  gate [a, b] [d] false
  let x ← readG a
  let y ← readG b
  writeLa la [.g d (f x y)]
  next

/-- A form with one register source (R167, R169). -/
def opR (d a : Reg) (f : Word → Word) : M Unit := do
  noPrefix
  gate [a] [d] true
  let x ← readG a
  writeG d (f x)
  next

/-- A form that also reads the old G[d] (R168). -/
def opDRR (d a b : Reg) (f : Word → Word → Word → Word) : M Unit := do
  noPrefix
  gate [a, b] [] true
  let x ← readG a
  let y ← readG b
  let z ← readG d
  writeG d (f z x y)
  next

/-- A form without a register source (R169). -/
def opPc (d : Reg) (f : Word → Word) : M Unit := do
  noPrefix
  gate [] [d] true
  let s ← get
  writeG d (f s.me.pc)
  next

/-- 1 when a condition holds, else 0. -/
def bit (b : Bool) : Word := if b then 1 else 0

/-- The shift count B[5:0] (R167). -/
def sh6 (b : Word) : Nat := (b.extractLsb' 0 6).toNat

/-- The high 64 bits of the signed product (R167). -/
def mulHigh (a b : Word) : Word := BitVec.ofInt 64 (a.toInt * b.toInt / 2 ^ 64)
/-- The high 64 bits of the unsigned product (R167). -/
def mulHighZ (a b : Word) : Word := BitVec.ofNat 64 (a.toNat * b.toNat / 2 ^ 64)
/-- The quotient truncated toward zero, all ones for a zero divisor (R166, R167). -/
def divS (a b : Word) : Word := if b = 0 then BitVec.allOnes 64 else BitVec.ofInt 64 (a.toInt.tdiv b.toInt)
def divU (a b : Word) : Word := if b = 0 then BitVec.allOnes 64 else a / b
/-- The remainder of the truncated quotient, A for a zero divisor (R167). -/
def remS (a b : Word) : Word :=
  if b = 0 then a else BitVec.ofInt 64 (a.toInt - b.toInt * a.toInt.tdiv b.toInt)
def remU (a b : Word) : Word := if b = 0 then a else a % b

/-- The number of leading zero bits of the low n bits (R167, R221). -/
def clzN : Nat → Nat → Nat
  | 0, _ => 0
  | n + 1, x => if x.testBit n then 0 else clzN n x + 1
/-- The number of 1 bits among the low n bits (R167, R221). -/
def popN : Nat → Nat → Nat
  | 0, _ => 0
  | n + 1, x => (if x.testBit n then 1 else 0) + popN n x

/-- BFX (R168). -/
def bitExtract (a b : Word) : Word :=
  let pos := sh6 b
  let wid := (b.extractLsb' 8 6).toNat + 1
  let f := a.toNat / 2 ^ pos % 2 ^ wid
  if b.getLsbD 16 ∧ 2 ^ (wid - 1) ≤ f then BitVec.ofInt 64 ((f : Int) - 2 ^ wid) else BitVec.ofNat 64 f

/-- BFI (R168). -/
def bitInsert (old a b : Word) : Word :=
  let pos := sh6 b
  let wid := (b.extractLsb' 8 6).toNat + 1
  let mask : Word := BitVec.ofNat 64 ((2 ^ wid - 1) * 2 ^ pos)
  (old &&& ~~~mask) ||| ((a <<< pos) &&& mask)

def execAdd (d a b : Reg) (s : State) : Host.Outcome State Fault Refusal := run (opRR d a b (· + ·)) s
def execSub (d a b : Reg) (s : State) : Host.Outcome State Fault Refusal := run (opRR d a b (· - ·)) s
def execAnd (d a b : Reg) (s : State) : Host.Outcome State Fault Refusal := run (opRR d a b (· &&& ·)) s
def execOr (d a b : Reg) (s : State) : Host.Outcome State Fault Refusal := run (opRR d a b (· ||| ·)) s
def execXor (d a b : Reg) (s : State) : Host.Outcome State Fault Refusal := run (opRR d a b (· ^^^ ·)) s
def execSll (d a b : Reg) (s : State) : Host.Outcome State Fault Refusal :=
  run (opRR d a b (fun x y => x <<< sh6 y)) s
def execSrl (d a b : Reg) (s : State) : Host.Outcome State Fault Refusal :=
  run (opRR d a b (fun x y => x >>> sh6 y)) s
def execSra (d a b : Reg) (s : State) : Host.Outcome State Fault Refusal :=
  run (opRR d a b (fun x y => x.sshiftRight (sh6 y))) s
def execSlt (d a b : Reg) (s : State) : Host.Outcome State Fault Refusal :=
  run (opRR d a b (fun x y => bit (x.slt y))) s
def execSlo (d a b : Reg) (s : State) : Host.Outcome State Fault Refusal :=
  run (opRR d a b (fun x y => bit (x.ult y))) s
def execMul (d a b : Reg) (la : BitVec 4) (s : State) : Host.Outcome State Fault Refusal :=
  run (opLong d a b la (· * ·)) s
def execMulh (d a b : Reg) (la : BitVec 4) (s : State) : Host.Outcome State Fault Refusal :=
  run (opLong d a b la mulHigh) s
def execMulhz (d a b : Reg) (la : BitVec 4) (s : State) : Host.Outcome State Fault Refusal :=
  run (opLong d a b la mulHighZ) s
def execDiv (d a b : Reg) (la : BitVec 4) (s : State) : Host.Outcome State Fault Refusal :=
  run (opLong d a b la divS) s
def execDivz (d a b : Reg) (la : BitVec 4) (s : State) : Host.Outcome State Fault Refusal :=
  run (opLong d a b la divU) s
def execRem (d a b : Reg) (la : BitVec 4) (s : State) : Host.Outcome State Fault Refusal :=
  run (opLong d a b la remS) s
def execRemz (d a b : Reg) (la : BitVec 4) (s : State) : Host.Outcome State Fault Refusal :=
  run (opLong d a b la remU) s
def execMin (d a b : Reg) (s : State) : Host.Outcome State Fault Refusal :=
  run (opRR d a b (fun x y => if x.slt y then x else y)) s
def execMax (d a b : Reg) (s : State) : Host.Outcome State Fault Refusal :=
  run (opRR d a b (fun x y => if x.slt y then y else x)) s
def execMinz (d a b : Reg) (s : State) : Host.Outcome State Fault Refusal :=
  run (opRR d a b (fun x y => if x.ult y then x else y)) s
def execMaxz (d a b : Reg) (s : State) : Host.Outcome State Fault Refusal :=
  run (opRR d a b (fun x y => if x.ult y then y else x)) s
def execClz (d a : Reg) (s : State) : Host.Outcome State Fault Refusal :=
  run (opR d a (fun x => BitVec.ofNat 64 (clzN 64 x.toNat))) s
def execPopc (d a : Reg) (s : State) : Host.Outcome State Fault Refusal :=
  run (opR d a (fun x => BitVec.ofNat 64 (popN 64 x.toNat))) s
def execBfx (d a b : Reg) (s : State) : Host.Outcome State Fault Refusal := run (opRR d a b bitExtract) s
def execBfi (d a b : Reg) (s : State) : Host.Outcome State Fault Refusal := run (opDRR d a b bitInsert) s
def execSel (d a b : Reg) (s : State) : Host.Outcome State Fault Refusal :=
  run (opDRR d a b (fun z x y => if z ≠ 0 then x else y)) s

def execAddi (d a : Reg) (imm : BitVec 16) (s : State) : Host.Outcome State Fault Refusal :=
  run (opR d a (fun x => x + imm.signExtend 64)) s
def execAndi (d a : Reg) (imm : BitVec 16) (s : State) : Host.Outcome State Fault Refusal :=
  run (opR d a (fun x => x &&& imm.setWidth 64)) s
def execOri (d a : Reg) (imm : BitVec 16) (s : State) : Host.Outcome State Fault Refusal :=
  run (opR d a (fun x => x ||| imm.setWidth 64)) s
def execXori (d a : Reg) (imm : BitVec 16) (s : State) : Host.Outcome State Fault Refusal :=
  run (opR d a (fun x => x ^^^ imm.setWidth 64)) s
def execSlti (d a : Reg) (imm : BitVec 16) (s : State) : Host.Outcome State Fault Refusal :=
  run (opR d a (fun x => bit (x.slt (imm.signExtend 64)))) s
def execSlli (d a : Reg) (n : BitVec 6) (s : State) : Host.Outcome State Fault Refusal :=
  run (opR d a (fun x => x <<< n.toNat)) s
def execSrli (d a : Reg) (n : BitVec 6) (s : State) : Host.Outcome State Fault Refusal :=
  run (opR d a (fun x => x >>> n.toNat)) s
def execSrai (d a : Reg) (n : BitVec 6) (s : State) : Host.Outcome State Fault Refusal :=
  run (opR d a (fun x => x.sshiftRight n.toNat)) s
def execLui (d : Reg) (imm : BitVec 21) (s : State) : Host.Outcome State Fault Refusal :=
  run (opPc d (fun _ => imm.signExtend 64 <<< 16)) s
def execAuipc (d : Reg) (imm : BitVec 21) (s : State) : Host.Outcome State Fault Refusal :=
  run (opPc d (fun pc => pc + imm.signExtend 64 <<< 16)) s

end Sys2Proof.Machine
end

