-- ==== Sys2Proof/Machine/Memory.lean ====
section
/-! DEFINITION. Loads, stores and the line operations (R181-R185). -/

namespace Sys2Proof.Machine

/-- The address of a load or store (R181). -/
def memAddr (x : Word) (off : BitVec 9) (size : Nat) : Word := x + off.signExtend 64 * BitVec.ofNat 64 size

/-- A load of a size, its value extended by f (R181). -/
def load (d a : Reg) (off : BitVec 9) (la : BitVec 4) (size : Nat) (f : Nat → Word) : M Unit := do
  noPrefix
  gate [a] [d] false
  let x ← readG a
  let v ← loadMem none (memAddr x off size) size
  writeLa la [.g d (f v)]
  next

/-- Sext(x, n) of a loaded value. -/
def signed (n : Nat) (v : Nat) : Word := (BitVec.ofNat n v).signExtend 64
/-- Zext of a loaded value. -/
def unsigned (v : Nat) : Word := BitVec.ofNat 64 v

def execLdB (d a : Reg) (off : BitVec 9) (la : BitVec 4) (s : State) : Host.Outcome State Fault Refusal :=
  run (load d a off la 1 (signed 8)) s
def execLdBz (d a : Reg) (off : BitVec 9) (la : BitVec 4) (s : State) : Host.Outcome State Fault Refusal :=
  run (load d a off la 1 unsigned) s
def execLdH (d a : Reg) (off : BitVec 9) (la : BitVec 4) (s : State) : Host.Outcome State Fault Refusal :=
  run (load d a off la 2 (signed 16)) s
def execLdHz (d a : Reg) (off : BitVec 9) (la : BitVec 4) (s : State) : Host.Outcome State Fault Refusal :=
  run (load d a off la 2 unsigned) s
def execLdW (d a : Reg) (off : BitVec 9) (la : BitVec 4) (s : State) : Host.Outcome State Fault Refusal :=
  run (load d a off la 4 (signed 32)) s
def execLdWz (d a : Reg) (off : BitVec 9) (la : BitVec 4) (s : State) : Host.Outcome State Fault Refusal :=
  run (load d a off la 4 unsigned) s
def execLdD (d a : Reg) (off : BitVec 9) (la : BitVec 4) (s : State) : Host.Outcome State Fault Refusal :=
  run (load d a off la 8 unsigned) s

/-- Bring a line into a tile's read-only cache from home when it is not there (R126, R182). -/
def State.fillRo (s : State) (c t pa : Nat) (pg : Pg) : State :=
  if ((s.tile t).roLine (lineOf pa)).present then s
  else
    let s := (s.roomRo t).fillL2 pa (s.yardOf t)
    let bs := s.homeRead (s.tagOf c) (lineOf pa * 128) 128 pg
    s.modTile t (fun tl => tl.setRoLine (lineOf pa)
      { present := true, clean := lineBits bs, ver := s.verOf pa, refill := false, dirty := [], pg := pg })

/-- n bytes of a line of the read-only cache. -/
def State.roBytes (s : State) (t pa n : Nat) : List Byte :=
  let x := (s.tile t).roLine (lineOf pa)
  (List.range n).map (fun i => x.byteAt (pa % 128 + i))

/-- LD.RO's read (R182): a TSC reads at home, PCIe memory is read over its port, and everything else goes
through the read-only cache. A task reads no other device's line and no PCIe memory (R113, R385). -/
def loadRo (l : Leaf) : M Nat := fun s =>
  if s.inTask ∧ paSpace l.pa ≠ 0 then .error (.trap .accessKind 0) s
  else if l.pcie then (do pcieRead l 8; fun s => .ok (leNat (s.bytes l.pa 8)) s) s
  else if isTsc s.cur then (do return leNat (← homeLoad l 8)) s
  else if ((s.tile s.myTile).roLine (lineOf l.pa)).present then .ok (leNat (s.roBytes s.myTile l.pa 8)) s
  else if !(s.homeOpen s.myTile l.pa none) then .error (.wait .owned (BitVec.ofNat 64 l.pa)) s
  else
    (do
      remoteLine l
      fun s => let s := s.fillRo s.cur s.myTile l.pa l.pg
               .ok (leNat (s.roBytes s.myTile l.pa 8)) s) s

/-- LD.RO (R182): tags 14 and 15, memory-side and exact-sum pages raise the access-kind cause. -/
def execLdRo (d a : Reg) (off : BitVec 9) (la : BitVec 4) (s : State) : Host.Outcome State Fault Refusal :=
  run (do
    noPrefix
    gate [a] [d] false
    let x ← readG a
    let p := memAddr x off 8
    match (← checkM p 8 .read) with
    | none => trap .accessKind p
    | some l =>
      trapIf (l.pg.memSide || l.exactSum) .accessKind p
      let v ← loadRo l
      writeLa la [.g d (unsigned v)]
      next) s

/-- A store of the low bytes of G[b] (R183). -/
def store (b a : Reg) (off : BitVec 9) (size : Nat) : M Unit := do
  noPrefix
  gate [a, b] [] true
  let x ← readG a
  let y ← readG b
  storeMem none (memAddr x off size) size y.toNat
  next

def execStB (b a : Reg) (off : BitVec 9) (s : State) : Host.Outcome State Fault Refusal :=
  run (store b a off 1) s
def execStH (b a : Reg) (off : BitVec 9) (s : State) : Host.Outcome State Fault Refusal :=
  run (store b a off 2) s
def execStW (b a : Reg) (off : BitVec 9) (s : State) : Host.Outcome State Fault Refusal :=
  run (store b a off 4) s
def execStD (b a : Reg) (off : BitVec 9) (s : State) : Host.Outcome State Fault Refusal :=
  run (store b a off 8) s

/-- Put the bytes of a leaf in a tile's write-combining buffer; a whole line there is written back (R183). -/
def State.combine (s : State) (c t : Nat) (l : Leaf) (bs : List Byte) : State :=
  let tag := s.tagOf c
  let s := s.modTile t (fun tl => { tl with wcb := (bs.zipIdx).foldl (fun w p => SMap.set (fun _ => none) w (l.pa + p.2)
    (some { byte := p.1, core := cidCore c, tag := tag, pg := l.pg, ptr := l.ptr, pc := (s.ctx c).pc })) tl.wcb })
  if ((s.tile t).wcb.filter (fun p => lineOf p.1 == lineOf l.pa)).length = 128 then s.drainWcb t else s

/-- A control context's non-temporal shared store (R183): an absent line takes no fill, and a present one
is written back at once. -/
def storeNt (l : Leaf) (bs : List Byte) : M Unit := fun s =>
  if s.inTask ∨ isTsc s.cur ∨ l.pcie then storeShared l bs s
  else if ((s.tile s.myTile).line (lineOf l.pa)).present then
    let s := s.dirtyBytes s.cur s.myTile l bs
    .ok () (if s.homeOpen s.myTile l.pa none then s.writeBack s.myTile (lineOf l.pa) else s)
  else .ok () (s.combine s.cur s.myTile l bs)

/-- ST.NT (R183). -/
def execStNt (b a : Reg) (off : BitVec 9) (s : State) : Host.Outcome State Fault Refusal :=
  run (do
    noPrefix
    gate [a, b] [] true
    let x ← readG a
    let y ← readG b
    let p := memAddr x off 8
    match (← checkM p 8 .write) with
    | none => modify (fun s => s.setTmBytes (ptrTile s.myTile p) (ptrView p) (ptrOff p) (leBytes 8 y.toNat))
    | some l => storeNt l (leBytes 8 y.toNat)
    next) s

/-- Ask another device for a line that L1 does not hold; the line is filled when it arrives (R130, R185). -/
def State.fetchAhead (s : State) (l : Leaf) : State :=
  if ((s.tile s.myTile).line (lineOf l.pa)).present then s
  else s.sendOut { Remote.of s.cur (s.tagOf s.cur) false false (lineOf l.pa * 128) 128 l.ptr s.me.pc with fill := some l.pg }

/-- The line fill of PREF: a failed check or a missing translation does nothing, nor does PCIe memory, which L1 does not
hold, nor, in a task, another device's line, whose access-kind check fails (R113, R185). A line that cannot be filled now is filled later, and
PREF does not wait for it (log 74). -/
def State.prefetch (s : State) (p : Word) : State :=
  match s.check s.cur p 1 .read 0 none with
  | .shared l t =>
    if isTsc t.cur || l.pcie then t
    else if paSpace l.pa = 0xA then (if t.inTask then s else t.fetchAhead l)
    else if t.fillable t.myTile l.pa then t.fillL1 t.cur t.myTile l.pa l.pg
    else t.modTile t.myTile (fun x => { x with ahead := x.ahead ++ [(t.cur, l.pa, l.pg)] })
  | _ => s

/-- PREF (R185). -/
def execPref (a : Reg) (s : State) : Host.Outcome State Fault Refusal :=
  run (do
    noPrefix
    gate [a] [] true
    let p ← readG a
    modify (fun s => s.prefetch p)
    next) s

/-- The write-back of a line at a scope (R185): at tile scope it is only started, and goes when the line's owner lets it, for which an INVAL, which then drops the line, waits; at yard scope or wider its exact-sum entries are freed
too; at tenant and system scope a remote home or the PCIe port has acknowledged. Dirty bytes and entries are two writes home, each of which advances the
version (DESIGN CHOICE; log 75). -/
def flushLine (l : Leaf) (sc : Nat) (drop : Bool) : M Unit := fun s =>
  if sc = 0 && !drop && !(s.homeOpen s.myTile l.pa none) then .ok () s
  else if !(s.homeOpen s.myTile l.pa none) then .error (.wait .owned (BitVec.ofNat 64 l.pa)) s
  else
    let s := if isTsc s.cur then s else s.cleanLine s.myTile (lineOf l.pa)
    if s.remotes.any (fun r => r.isWrite && !r.acked && lineOf r.pa == lineOf l.pa &&
        ((decide (2 ≤ sc) && !r.pcie) || (decide (3 ≤ sc) && r.pcie))) then
      .error (.wait .drain (BitVec.ofNat 64 l.pa)) s
    else
      let (s, fl) := if sc = 0 then (s, Flags.none) else s.flushSums l.pa (s.yardOf s.myTile)
      raiseFlags fl s

/-- Drop a line from L1 and from the read-only cache (R185). -/
def State.dropLine (s : State) (t l : Nat) : State :=
  s.modTile t (fun x => (x.setLine l CacheLine.absent).setRoLine l CacheLine.absent)

/-- FLUSH and INVAL (R185). In a task both are deferred commands. -/
def lineOp (i : Instr) (cc : BitVec 2) (a : Reg) (drop : Bool) : M Unit := do
  noPrefix
  gate [a] [] true
  let p ← readG a
  match (← checkM p 1 .write) with
  | none => scopeCheck cc.toNat
  | some l =>
    scopeCheck cc.toNat
    let s ← get
    if s.inTask then
      trapIf (paSpace l.pa != 0) .accessKind p
      defer i p 0
    else
      flushLine l cc.toNat drop
      if drop then modify (fun s => s.dropLine s.myTile (lineOf l.pa))
  next

/-- FLUSH (R185). -/
def execFlush (cc : BitVec 2) (a : Reg) (s : State) : Host.Outcome State Fault Refusal :=
  run (lineOp (.flush cc a) cc a false) s
/-- INVAL (R185). -/
def execInval (cc : BitVec 2) (a : Reg) (s : State) : Host.Outcome State Fault Refusal :=
  run (lineOp (.inval cc a) cc a true) s

end Sys2Proof.Machine
end

