-- ==== Sys2Proof/Machine/Atomic.lean ====
section
/-! DEFINITION. Versioned access, atomics and fences (R111, R114, R116, R120, R186-R194). -/

namespace Sys2Proof.Machine

/-! Access at a line's home. -/

/-- Reach a line at home (R120, R186): no engine or solo task owns it, a line of another device costs a
trip over Milay, and the issuing tile's dirty bytes of it are written back. -/
def atHome (l : Leaf) (size : Nat) : M Unit := fun s =>
  if !(s.homeOpen s.myTile l.pa none) then .error (.wait .owned (BitVec.ofNat 64 l.pa)) s
  else
    (do
      if paSpace l.pa = 0xA then remoteRead l l.pa size
      fun s => .ok () (if isTsc s.cur then s else s.cleanLine s.myTile (lineOf l.pa))) s

/-- The n bytes of a task's own copy of a line it owns (R26, R116). -/
def State.ownBytes (s : State) (h : Helper) (pa n : Nat) (pg : Pg) : List Byte :=
  let bs := s.homeRead (s.tagOf s.cur) pa n pg
  (bs.zipIdx).map (fun p => (h.buffered (pa + p.2)).getD p.1)

/-- Take ownership of a line for a solo task, or wait (R26). -/
def ownLine (l : Leaf) : M Unit := fun s =>
  match s.soloTake s.cur l.pa l.pg with
  | none => .error (.wait .owned (BitVec.ofNat 64 l.pa)) s
  | some s => .ok () s

/-- LDV's read in a task: the line enters the read set at its version at home (R24, R186). -/
def ldvTask (l : Leaf) (h : Helper) : M (Word × Word) := do
  if h.task.solo then ownLine l
  let s ← get
  if !(s.homeOpen s.myTile l.pa (some s.cur)) then waitFor .owned (BitVec.ofNat 64 l.pa)
  else
    let s := (s.cleanLine s.myTile (lineOf l.pa)).fillL2 l.pa (s.yardOf s.myTile)
    let v := s.verOf l.pa
    let h' := h.enterRead (lineOf l.pa) v
    if !h.task.solo && decide (256 < h'.reads.length) then soloAbort
    else
      set (s.modHelper s.cur (fun _ => h'))
      raiseFlags (s.sumFlagsBut l.pa 8 h.holds)
      return (BitVec.ofNat 64 (leNat (s.ownBytes h l.pa 8 l.pg)), v)

/-- LDV (R186): the doubleword and its line's version, read at home as one step. -/
def execLdv (d a : Reg) (off : BitVec 9) (la : BitVec 4) (s : State) : Host.Outcome State Fault Refusal :=
  run (do
    noPrefix
    gate [a] [] true
    let x ← readG a
    let p := memAddr x off 8
    match (← checkM p 8 .read) with
    | none => trap .accessKind p
    | some l =>
      trapIf (l.pg.memSide || l.pcie) .accessKind p
      let s ← get
      let (x, v) ← match s.me.helper with
        | some h => do
          trapIf (paSpace l.pa != 0) .accessKind p
          ldvTask l h
        | none => do
          atHome l 8
          modify (fun s => s.fillL2 l.pa (s.payer s.cur))
          let s ← get
          raiseFlags (s.sumFlags l.pa 8)
          pure (BitVec.ofNat 64 (leNat (s.homeRead (s.tagOf s.cur) l.pa 8 l.pg)), s.verOf l.pa)
      writeLa la [.g d x, .g (d + 1) v]
      next) s

/-! The validation set (R188). -/

/-- Enter a line and a version in the set; none when 16 entries are held. -/
def Ctx.recordLine (x : Ctx) (l : Nat) (v : Word) : Option Ctx :=
  match x.vset.find? (fun e => e.1 == l) with
  | some e => some (if e.2 = v then x else { x with vfail := true })
  | none => if 16 ≤ x.vset.length then none else some { x with vset := x.vset ++ [(l, v)] }

/-- VREC (R188). -/
def execVrec (a b : Reg) (s : State) : Host.Outcome State Fault Refusal :=
  run (do
    noPrefix
    gate [a, b] [] true
    let p ← readG a
    let v ← readG b
    match (← checkM p 1 .read) with
    | none => trap .accessKind p
    | some l =>
      trapIf (l.pg.memSide || paSpace l.pa != 0) .accessKind p
      let s ← get
      match s.me.recordLine (lineOf l.pa) v with
      | none => trap .vsetFull 0
      | some x => set (s.modMe (fun _ => x))
      next) s

/-- Whether the set of a context validates now: not failed, and every version is the recorded one (R114,
R188, R291). -/
def State.validates (s : State) (x : Ctx) : Bool :=
  !x.vfail && x.vset.all (fun e => s.verOf (e.1 * 128) == e.2)

/-- VALID (R188): it holds the set's lines at home, so it waits while one of them is owned. -/
def execValid (d : Reg) (la : BitVec 4) (s : State) : Host.Outcome State Fault Refusal :=
  run (do
    noPrefix
    gate [] [d] false
    sharedSlot
    let s ← get
    let me := if s.inTask then some s.cur else none
    match s.me.vset.find? (fun e => !(s.homeOpen s.myTile (e.1 * 128) me)) with
    | some e => waitFor .owned (BitVec.ofNat 64 (e.1 * 128))
    | none =>
      let ok := s.validates s.me
      set (s.modMe (fun x => { x with vset := [], vfail := false }))
      writeLa la [.g d (bit ok)]
      next) s

/-- VCLR (R188). -/
def execVclr (s : State) : Host.Outcome State Fault Refusal :=
  run (do
    noPrefix
    modify (fun s => s.modMe (fun x => { x with vset := [], vfail := false }))
    next) s

/-! Conditional writes (R190). -/

/-- The tile's L1 copy of a line that the context has written at home is discarded: its later loads see the write (R109). -/
def State.dropCopy (s : State) (pa : Nat) : State :=
  if isTsc s.cur then s else s.modTile s.myTile (fun x => x.setLine (lineOf pa) CacheLine.absent)

/-- Write a number's bytes at home as one write of a context; in configuration space they are stored as a store's are (R363, R364). -/
def State.writeHome (s : State) (l : Leaf) (n x : Nat) : State :=
  if paSpace l.pa = 0xF then s.configStore l.pa (leBytes n x)
  else (s.homeWrite (s.tagOf s.cur) (s.payer s.cur) l.pg
    ((leBytes n x).zipIdx.map (fun p => (l.pa + p.2, p.1)))).dropCopy l.pa

/-- Write a number's bytes into the copy that a solo task owns (R116). -/
def State.writeOwn (s : State) (l : Leaf) (n x : Nat) : State :=
  let put (m : SMap (Option Byte)) (p : Byte × Nat) : SMap (Option Byte) :=
    SMap.set (fun _ => none) m (l.pa + p.2) (some p.1)
  s.modHelper s.cur (fun h => { h with dirty := (leBytes n x).zipIdx.foldl put h.dirty,
                                         pages := SMap.set (fun _ => none) h.pages (lineOf l.pa) (some l.pg) })

/-- An atomic of a task (R116): deferred when its destination is g0, applied to the task's own copy in solo
mode, and otherwise the abort that asks for solo mode. It answers none when it was deferred. -/
def taskAtomic (i : Instr) (d : Reg) (l : Leaf) (n : Nat) (p b : Word) (f : State → Nat → Word × Option Nat) :
    M (Option Word) := fun s =>
  match s.me.helper with
  | none => .error .left s
  | some h =>
    if d = 0 then (do defer i p b; return none) s
    else if !h.task.solo then soloAbort s
    else
      (do
        ownLine l
        fun s =>
          let r := f s (leNat (s.ownBytes h l.pa n l.pg))
          .ok (some r.1) (match r.2 with | some x => s.writeOwn l n x | none => s)) s

/-- An atomic of a control context at home (R120): f answers the register's value and the bytes written. -/
def homeAtomic (l : Leaf) (n sc : Nat) (f : State → Nat → Word × Option Nat) : M Word := do
  if sc ≠ 0 then release sc
  atHome l n
  modify (fun s => if versioned l.pa l.pg then s.fillL2 l.pa (s.payer s.cur) else s)
  let s ← get
  let r := f s (leNat (s.homeSeen l n))
  set (match r.2 with | some x => s.writeHome l n x | none => s)
  if sc ≠ 0 then acquire sc
  return r.1

/-- The shape of CAS and CASV (R190). -/
def condWrite (i : Instr) (d a b : Reg) (la : BitVec 4) (memSideToo : Bool)
    (f : Word → Word → Leaf → State → Nat → Word × Option Nat) : M Unit := do
  noPrefix
  gate [a, b] [] true
  let p ← readG a
  let b ← readG b
  match (← checkM p 8 .atomic) with
  | none => trap .accessKind p
  | some l =>
    trapIf (l.exactSum || (l.pg.memSide && !memSideToo) || l.pcie) .accessKind p
    let s ← get
    let old := s.me.greg d
    if s.inTask then
      trapIf (paSpace l.pa != 0) .accessKind p
      match (← taskAtomic i d l 8 p b (f b old l)) with
      | some x => writeLa la [.g d x]
      | none => pure ()
    else
      let x ← homeAtomic l 8 1 (f b old l)
      writeLa la [.g d x]
    next

/-- CASV's decision: the line's version at home against the expected one. -/
def casvStep (b old : Word) (l : Leaf) (s : State) (_ : Nat) : Word × Option Nat :=
  if s.verOf l.pa = b then (1, some old.toNat) else (0, none)

/-- CAS's decision: the doubleword against the expected one. -/
def casStep (b old : Word) (_ : Leaf) (_ : State) (x : Nat) : Word × Option Nat :=
  (BitVec.ofNat 64 x, if BitVec.ofNat 64 x = b then some old.toNat else none)

/-- CASV (R190). -/
def execCasv (d a b : Reg) (la : BitVec 4) (s : State) : Host.Outcome State Fault Refusal :=
  run (condWrite (.casv d a b la) d a b la false casvStep) s
/-- CAS (R190). -/
def execCas (d a b : Reg) (la : BitVec 4) (s : State) : Host.Outcome State Fault Refusal :=
  run (condWrite (.cas d a b la) d a b la true casStep) s

/-! Atomics (R191). -/

/-- The value an AMO stores, from the old value and B, at a width of 8n bits (R191). -/
def amoAddF (n old b : Nat) : Nat := (old + b) % 2 ^ (8 * n)
def amoAndF (n old b : Nat) : Nat := Nat.land old (b % 2 ^ (8 * n))
def amoOrF (n old b : Nat) : Nat := Nat.lor old (b % 2 ^ (8 * n))
def amoXorF (n old b : Nat) : Nat := Nat.xor old (b % 2 ^ (8 * n))
def amoMinF (n old b : Nat) : Nat :=
  if (BitVec.ofNat (8 * n) b).slt (BitVec.ofNat (8 * n) old) then b % 2 ^ (8 * n) else old
def amoMaxF (n old b : Nat) : Nat :=
  if (BitVec.ofNat (8 * n) old).slt (BitVec.ofNat (8 * n) b) then b % 2 ^ (8 * n) else old
def amoSwapF (n _old b : Nat) : Nat := b % 2 ^ (8 * n)

/-- One AMO as a step on the old value: it writes whatever the new value is (R191). -/
def amoStep (n : Nat) (op : Nat → Nat → Nat → Nat) (b : Word) (_ : State) (old : Nat) : Word × Option Nat :=
  ((BitVec.ofNat (8 * n) old).signExtend 64, some (op n old b.toNat))

/-- The entry of a yard's job table whose first doubleword an address lies in (R371). -/
def State.jobAt (s : State) (yard pa : Nat) : Option Nat :=
  let jobs := (s.memWord (recordPa yard + 0x50)).toNat
  if (s.memWord (recordPa yard)).toNat / 2 ^ 60 ≠ 0 ∧ jobs ≤ pa ∧ pa < jobs + 4096 ∧ (pa - jobs) % 64 < 8 then
    some ((pa - jobs) / 64) else none

/-- The entries of job tables whose first doubleword an address lies in, with their yards. -/
def State.jobsAt (s : State) (pa : Nat) : List (Nat × Nat) :=
  (List.range 32).filterMap (fun y => (s.jobAt y pa).map (fun j => (y, j)))

/-- An AMO that has set go or end in an entry of a job table is a request to that yard's dispatcher (R372); old is the state
before it. -/
def State.jobRequest (s old : State) (yard j : Nat) : State :=
  let e := (s.memWord (recordPa yard + 0x50)).toNat + 64 * j
  let w := s.memWord e &&& ~~~(old.memWord e)
  let s := if w.getLsbD 63 then s.later (.jobGo yard j) else s
  if w.getLsbD 62 then s.later (.jobEnd yard j) else s

/-- The requests that the AMOs of some addresses are. -/
def State.jobRequests (s old : State) (pas : List Nat) : State :=
  ((pas.flatMap (fun pa => s.jobsAt pa)).eraseDups).foldl (fun t p => t.jobRequest old p.1 p.2) s

/-- The shape of every AMO but XADD (R191). -/
def amo (i : Instr) (op : Nat → Nat → Nat → Nat) (d a b : Reg) (w : BitVec 1) (sc : BitVec 2) (la : BitVec 4) :
    M Unit := do
  noPrefix
  gate [a, b] [d] false
  let p ← readG a
  let y ← readG b
  let n := if w = 0 then 4 else 8
  match (← checkM p n .atomic) with
  | none => trap .accessKind p
  | some l =>
    trapIf (l.exactSum || l.pcie) .accessKind p
    scopeCheck sc.toNat
    let s ← get
    if s.inTask then
      trapIf (paSpace l.pa != 0) .accessKind p
      match (← taskAtomic i d l n p y (amoStep n op y)) with
      | some x =>
        modify (fun s => s.modHelper s.cur (fun h => { h with amos := h.amos ++ [l.pa] }))
        writeLa la [.g d x]
      | none => pure ()
    else
      let s0 ← get
      let x ← homeAtomic l n sc.toNat (amoStep n op y)
      modify (fun s => s.jobRequests s0 [l.pa])
      writeLa la [.g d x]
    next

def execAmoAdd (d a b : Reg) (w : BitVec 1) (sc : BitVec 2) (la : BitVec 4) (s : State) :
    Host.Outcome State Fault Refusal := run (amo (.amoAdd d a b w sc la) amoAddF d a b w sc la) s
def execAmoAnd (d a b : Reg) (w : BitVec 1) (sc : BitVec 2) (la : BitVec 4) (s : State) :
    Host.Outcome State Fault Refusal := run (amo (.amoAnd d a b w sc la) amoAndF d a b w sc la) s
def execAmoOr (d a b : Reg) (w : BitVec 1) (sc : BitVec 2) (la : BitVec 4) (s : State) :
    Host.Outcome State Fault Refusal := run (amo (.amoOr d a b w sc la) amoOrF d a b w sc la) s
def execAmoXor (d a b : Reg) (w : BitVec 1) (sc : BitVec 2) (la : BitVec 4) (s : State) :
    Host.Outcome State Fault Refusal := run (amo (.amoXor d a b w sc la) amoXorF d a b w sc la) s
def execAmoMin (d a b : Reg) (w : BitVec 1) (sc : BitVec 2) (la : BitVec 4) (s : State) :
    Host.Outcome State Fault Refusal := run (amo (.amoMin d a b w sc la) amoMinF d a b w sc la) s
def execAmoMax (d a b : Reg) (w : BitVec 1) (sc : BitVec 2) (la : BitVec 4) (s : State) :
    Host.Outcome State Fault Refusal := run (amo (.amoMax d a b w sc la) amoMaxF d a b w sc la) s
def execAmoSwap (d a b : Reg) (w : BitVec 1) (sc : BitVec 2) (la : BitVec 4) (s : State) :
    Host.Outcome State Fault Refusal := run (amo (.amoSwap d a b w sc la) amoSwapF d a b w sc la) s

/-- The value and flags that an XADD delivers: the entry before the addition (R192), or the word as its page's key reads it (R367). -/
def State.sumBefore (s : State) (pa : Nat) (pg : Pg) : Nat × Flags :=
  let s := s.takeKey pa pg
  if (s.sumEnt (pa / 4)).live then (s.sumEnt (pa / 4)).deliver else (leNat (s.bytes (pa / 4 * 4) 4), Flags.none)

/-- XADD at the home of a word (R85, R86, R103, R192, R323): none when the hive's 16,384 entries are all
live. -/
def State.xadd (s : State) (tag yard pa : Nat) (pg : Pg) (x : Nat) : Option State :=
  if s.isDead tag then some s
  else if !(s.sumEnt (pa / 4)).live && decide (16384 ≤ s.sumCount (hiveOfPa pa)) then none
  else
    let s := s.takeKey pa pg
    some ((s.setSum (pa / 4) ((s.sumStart (pa / 4)).add x)).bumpVer pa yard)

/-- AMO.XADD (R192). With d = 0 nothing is delivered and no flag is raised. -/
def execAmoXadd (d a b : Reg) (sc : BitVec 2) (la : BitVec 4) (s : State) :
    Host.Outcome State Fault Refusal :=
  run (do
    noPrefix
    gate [a, b] [d] false
    let p ← readG a
    let y ← readG b
    match (← checkM p 4 .atomic) with
    | none => trap .accessKind p
    | some l =>
      trapIf (!l.exactSum || l.pcie) .accessKind p
      scopeCheck sc.toNat
      let s ← get
      match s.me.helper with
      | some h =>
        trapIf (paSpace l.pa != 0) .accessKind p
        if d = 0 then defer (.amoXadd d a b sc la) p y
        else if !h.task.solo then soloAbort
        else
          ownLine l
          let s ← get
          let r := s.sumBefore l.pa l.pg
          defer (.amoXadd 0 a b sc la) p y
          raiseFlags r.2
          writeLa la [.g d (BitVec.ofNat 64 r.1)]
      | none =>
        if sc ≠ 0 then release sc.toNat
        atHome l 4
        let s ← get
        let r := s.sumBefore l.pa l.pg
        match s.xadd (s.tagOf s.cur) (s.payer s.cur) l.pa l.pg (y.setWidth 32).toNat with
        | none => trap .exactCapacity 0
        | some t => set (t.dropCopy l.pa)
        if sc ≠ 0 then acquire sc.toNat
        if d ≠ 0 then raiseFlags r.2
        writeLa la [.g d (BitVec.ofNat 64 r.1)]
      next) s

/-! Fences (R111, R194). -/

/-- The scope that a fence acts at: tile scope in a task (R194). -/
def State.fenceScope (s : State) (sc : BitVec 2) : Nat := if s.inTask then 0 else sc.toNat

def execFenceRel (sc : BitVec 2) (s : State) : Host.Outcome State Fault Refusal :=
  runClose (do noPrefix; scopeCheck sc.toNat; let s ← get; release (s.fenceScope sc); next) s
def execFenceAcq (sc : BitVec 2) (s : State) : Host.Outcome State Fault Refusal :=
  runClose (do noPrefix; scopeCheck sc.toNat; let s ← get; acquire (s.fenceScope sc); next) s
def execFenceAr (sc : BitVec 2) (s : State) : Host.Outcome State Fault Refusal :=
  runClose (do
    noPrefix
    scopeCheck sc.toNat
    let s ← get
    release (s.fenceScope sc)
    acquire (s.fenceScope sc)
    next) s

end Sys2Proof.Machine
end

