-- ==== Sys2Proof/Machine/Event.lean ====
section
/-! DEFINITION. Events, fill words, barriers, supersteps and link arrivals (R98-R101, R127-R129,
R195-R205, R299, R319). -/

namespace Sys2Proof.Machine

/-! Event lines (R196). -/

/-- Whether a context waits on a line in a cycle: an EVW whose mask holds it, or a pop of ev, that has received no line in an earlier cycle; a pop
receives only the lowest line of one cycle (R196, R198). -/
def Ctx.waitsLine (x : Ctx) (now line : Nat) : Bool :=
  x.live && ((x.wait == .evw && x.waitOp.getLsbD line && (x.got == 0 || x.gotAt == now)) ||
    (x.wait == .pop && x.waitOp == 29 && (x.got == 0 || (x.gotAt == now && decide (line < lowestLine x.got)))))

/-- A waiting context receives a line. A pop that has received a higher one in the same cycle gives it back, unless another context has received it
too (R198). -/
def State.receive (s : State) (c : Nat) (bit : BitVec 32) : State :=
  let x := s.ctx c
  if x.wait == .pop && x.got != 0 then
    let kept : Bool := (tileCids (cidTile c)).any (fun d => d != c && (s.ctx d).got &&& x.got != 0)
    let s := if kept then s else s.modTile (cidTile c) (fun t => { t with ev := t.ev ||| x.got })
    s.modCtx c (fun y => { y with got := bit })
  else s.modCtx c (fun y => { y with got := y.got ||| bit, gotAt := s.cal })

/-- A signal reaches a line: every waiting context receives it, or its bit stays pending (R196). -/
def State.signal (s : State) (t line : Nat) : State :=
  let bit : BitVec 32 := 1#32 <<< line
  let ws := (tileCids t).filter (fun c => (s.ctx c).waitsLine s.cal line)
  if ws.isEmpty then s.modTile t (fun x => { x with ev := x.ev ||| bit })
  else ws.foldl (fun s c => s.receive c bit) s

/-- EVENT_ARRIVAL (R196). -/
def execEventArrival (tile line : Nat) (s : State) : Host.Outcome State Fault Refusal :=
  .next (s.signal tile (line % 32))

/-- A context leaves its wait without completing: lines it received are pending again (R36, R55), and an access or invalidation that it
waited for is made again from its beginning (R337, R338). -/
def State.unwait (s : State) (c : Nat) : State :=
  let got := (s.ctx c).got
  let s := s.modTile (cidTile c) (fun t => { t with ev := t.ev ||| got })
  (s.dropShoots c).modCtx c (fun x => { x.dropAnswers with got := 0, wait := .none, waitOp := 0, issued := none })

/-- EVW (R197): a zero or wide mask is an event-operand cause. -/
def execEvw (d a : Reg) (s : State) : Host.Outcome State Fault Refusal :=
  runClose (do
    noPrefix
    gate [a] [d] false
    let m ← readG a
    trapIf (m == 0 || m.extractLsb' 32 32 != 0) .eventOperand 0
    let s ← get
    let ls := s.pendingLines &&& m.setWidth 32
    if ls = 0 then waitFor .evw m
    else
      gatePush d
      modify (fun s => s.takeLines ls)
      writeG d (ls.setWidth 64)
      next) s

/-- The target tile of an EVS operand (R199). -/
def State.evsTile (_ : State) (c : Nat) (a : Word) : Nat :=
  if a.getLsbD 15 then (a.extractLsb' 16 10).toNat else cidTile c

/-- Send a signal: it arrives as a step of its own (R127, R199). -/
def State.sendSignal (s : State) (c : Nat) (a : Word) : State :=
  s.later (.eventArrival (s.evsTile c a) (a.extractLsb' 0 5).toNat)

/-- EVS (R199). In a task it is a deferred command. With bit 15 equal to 0 bits [25:16] are ignored (DESIGN CHOICE; log 68). -/
def execEvs (a : Reg) (s : State) : Host.Outcome State Fault Refusal :=
  run (do
    noPrefix
    gate [a] [] true
    let x ← readG a
    trapIf (x &&& ~~~(0x03FF801F : Word) != 0) .eventOperand 0
    let s ← get
    trapIf (!(s.reaches s.myTile (s.evsTile s.cur x))) .combAccess 0
    if s.inTask then defer (.evs a) x 0 else set (s.sendSignal s.cur x)
    next) s

/-! Fill words (R100, R101). -/

/-- A fill word's target, count, generation and flags word. -/
structure FillWord where
  target : Nat
  count  : Nat
  gen    : Nat
  flags  : Nat
deriving DecidableEq, Repr

/-- A fill word from its 16 bytes. -/
def fillOf (bs : List Byte) : FillWord :=
  { target := leNat (bs.take 4), count := leNat ((bs.drop 4).take 4), gen := leNat ((bs.drop 8).take 4),
    flags := leNat ((bs.drop 12).take 4) }

/-- The 16 bytes of a fill word. -/
def FillWord.bytes (w : FillWord) : List Byte :=
  leBytes 4 w.target ++ leBytes 4 w.count ++ leBytes 4 w.gen ++ leBytes 4 w.flags

def FillWord.rearm (w : FillWord) : Bool := w.flags.testBit 0
def FillWord.enabled (w : FillWord) : Bool := w.flags.testBit 1
def FillWord.line (w : FillWord) : Nat := w.flags / 4 % 64
def FillWord.over (w : FillWord) : Bool := w.flags.testBit 8
/-- The word with its overflow bit set. -/
def FillWord.setOver (w : FillWord) : FillWord := { w with flags := Nat.lor w.flags 256 }
/-- Bits [31:9] nonzero or an event line above 31 (R100). -/
def FillWord.malformed (w : FillWord) : Bool := w.flags / 512 % 2 ^ 23 != 0 || decide (32 ≤ w.line)

/-- An arrival of m bytes at a well-formed word, and whether it signals (R101). -/
def FillWord.arrive (w : FillWord) (m : Nat) : FillWord × Bool :=
  let count := w.count + m
  let r : FillWord × Bool :=
    if w.target ≠ 0 ∧ w.target ≤ count then
      if w.rearm then
        ({ w with gen := (w.gen + count / w.target) % 2 ^ 32, count := count % w.target }, true)
      else
        let fresh := decide (w.count < w.target)
        let w' : FillWord := { w with count := count, gen := if fresh then (w.gen + 1) % 2 ^ 32 else w.gen }
        (if w.target < count then w'.setOver else w', fresh)
    else ({ w with count := count }, false)
  if 0xFFFFFFFF < r.1.count then ({ r.1 with count := r.1.count % 2 ^ 32 }.setOver, r.2) else r

/-- The fill word at a TM place. -/
def State.fillAt (s : State) (t view off : Nat) : FillWord := fillOf (s.tmBytes t view off 16)
def State.setFill (s : State) (t view off : Nat) (w : FillWord) : State := s.setTmBytes t view off w.bytes

/-- An arrival of m counted bytes (R101); the answer tells whether the word was malformed. -/
def State.fillArrive (s : State) (t view off m : Nat) : State × Bool :=
  let w := s.fillAt t view off
  if w.malformed then (s.setFill t view off w.setOver, true)
  else
    let r := w.arrive m
    let s := s.setFill t view off r.1
    (if r.2 && w.enabled then s.signal t w.line else s, false)

/-- FILL_WORD_ARRIVAL (R101). -/
def execFillWordArrival (tile view off m : Nat) (s : State) : Host.Outcome State Fault Refusal :=
  .next (s.fillArrive tile view off m).1

/-- The pointer checks of FILLW, FILLT and FILLA (R204), and the wait for the context's own earlier coprocessor accesses to the word (R124). -/
def fillPtr (p : Word) (wr : Bool) : M Unit := fun s =>
  if p.extractLsb' 56 4 ≠ 0 then .error (.trap .pointerFormat p) s
  else if ¬ (ptrTag p = 15 ∨ (ptrTag p = 14 ∧ ptrTile s.myTile p = s.myTile)) then .error (.trap .accessKind p) s
  else match checkPtr s s.cur p 16 .read with
    | some c => .error (.trap c p) s
    | none => if s.hazard s.cur wr p 16 then .error (.wait .engine p) s else .ok () s

/-- The fill word a checked pointer names. -/
def State.fillWord (s : State) (p : Word) : FillWord := s.fillAt s.myTile (ptrView p) (ptrOff p)

/-- The fill word as the snapshot of the current superstep holds it (R33, R129). That of a job's first superstep is taken when its first context starts on
the tile, and before any it reads zeros (DESIGN CHOICE; log 66). -/
def State.snapWord (s : State) (p : Word) : FillWord :=
  fillOf ((List.range 16).map (fun i =>
    SMap.get emptyByte (s.tile s.myTile).snap (tmKey s.myTile (ptrView p) (ptrOff p + i))))

/-- FILLW (R204). -/
def execFillw (d a b : Reg) (s : State) : Host.Outcome State Fault Refusal :=
  runClose (do
    noPrefix
    gate [a, b] [d] false
    let s ← get
    trapIf (s.bulkSync s.myTile) .mode 0
    let p ← readG a
    let g ← readG b
    fillPtr p false
    let s ← get
    let w := s.fillWord p
    if w.gen = g.toNat % 2 ^ 32 then waitFor .fillw (BitVec.ofNat 64 (ptrOff p + (g.toNat % 2 ^ 32) * 2 ^ 32))
    else
      gatePush d
      writeG d (BitVec.ofNat 64 w.gen)
      next) s

/-- FILLT (R204): in bulk-synchronous mode the snapshot's word. -/
def execFillt (d a : Reg) (s : State) : Host.Outcome State Fault Refusal :=
  run (do
    noPrefix
    gate [a] [d] false
    let p ← readG a
    fillPtr p false
    gatePush d
    let s ← get
    let w := if s.bulkSync s.myTile then s.snapWord p else s.fillWord p
    writeG d (BitVec.ofNat 64 (w.count * 2 ^ 32 + w.gen))
    next) s

/-- FILLA (R204). -/
def execFilla (d a b : Reg) (s : State) : Host.Outcome State Fault Refusal :=
  run (do
    noPrefix
    gate [a, b] [d] false
    let p ← readG a
    let t ← readG b
    fillPtr p true
    gatePush d
    let s ← get
    let w := s.fillWord p
    set (s.setFill s.myTile (ptrView p) (ptrOff p)
      { w with target := t.toNat % 2 ^ 32, count := 0, flags := w.flags - (if w.over then 256 else 0) })
    writeG d (BitVec.ofNat 64 ((if w.over then 2 ^ 63 else 0) + w.count))
    next) s

/-! Barriers (R202) and supersteps (R203). -/

/-- The round of a domain that a context has arrived in, by its tag. -/
def State.roundOf (s : State) (yard dom tag : Nat) : Option Round :=
  s.rounds.find? (fun r => r.yard == yard && r.dom == dom && r.arrived.contains tag)

/-- A member leaves a complete round; the last one ends it. -/
def State.leaveRound (s : State) (yard dom tag : Nat) : State :=
  { s with rounds := s.rounds.filterMap (fun r =>
      if r.yard == yard && r.dom == dom && r.full && r.arrived.contains tag then
        (let a := r.arrived.filter (· != tag)
         if a.isEmpty then none else some { r with arrived := a })
      else some r) }

/-- The round of a domain that is still collecting arrivals: a complete one takes none, though members have left it (R202). -/
def State.openRound (s : State) (yard dom : Nat) : Option Round :=
  s.rounds.find? (fun r => r.yard == yard && r.dom == dom && !r.full && decide (r.arrived.length < r.members))

/-- The arrivals so far of the round that a context takes part in or is about to (R325). -/
def State.arrivals (s : State) (yard dom tag : Nat) : Nat :=
  match s.roundOf yard dom tag with
  | some r => r.arrived.length
  | none => match s.openRound yard dom with | some r => r.arrived.length | none => 0

/-- What a context that waits at the barrier of %bar.k waits on: domain, arrivals so far and members, as R325 lays them out. -/
def State.barOp (s : State) (c k : Nat) : Word :=
  let b := (s.ctx c).sreg (0x340 + k)
  let dom := (b.extractLsb' 32 16).toNat
  BitVec.ofNat 64 (dom + s.arrivals (s.yardOf (cidTile c)) dom (s.tagOf c) % 65536 * 2 ^ 16 + (b.extractLsb' 0 16).toNat * 2 ^ 32)

/-- One arrival counted for its domain's round (R202): one with other members is not counted. -/
def State.arrive (s : State) (c dom members : Nat) : State :=
  let x := s.ctx c
  if !x.live || x.barTok == 0 then s
  else
    let yard := s.yardOf (cidTile c)
    let tag := s.tagOf c
    let sync := x.barTok == 2
    let close (r : Round) : Round := if r.arrived.length < r.members || r.tsync then r else { r with full := true }
    match s.openRound yard dom with
    | some r =>
      if r.members ≠ members then s.modCtx c (fun x => { x with barTok := 3 })
      else
        let r' := close { r with arrived := r.arrived ++ [tag], tsync := r.tsync || sync, since := Nat.max r.since x.barAt }
        { s.modCtx c (fun x => { x with barTok := 0 }) with
          rounds := s.rounds.map (fun q => if q = r then r' else q) }
    | none =>
      let r : Round := { yard := yard, job := s.jobOf (cidTile c), dom := dom, members := members, arrived := [tag], tsync := sync, full := false, since := x.barAt }
      { s.modCtx c (fun x => { x with barTok := 0 }) with rounds := s.rounds ++ [close r] }

/-- BARRIER_ARRIVAL (R202). -/
def execBarrierArrival (cid dom members : Nat) (s : State) : Host.Outcome State Fault Refusal :=
  .next (s.arrive cid dom members)

/-- Go through the barrier of %bar.k: release, send the arrival once, wait for the round, acquire. kind is
1 for BAR and 2 for TSYNC, and ready the last check before its end. -/
def barrier (k kind : Nat) (wk : WaitKind) (ready : M Unit) : M Unit := do
  let s ← get
  let c := s.me.sreg (0x340 + k)
  let dom := (c.extractLsb' 32 16).toNat
  let members := (c.extractLsb' 0 16).toNat
  trapIf (!(c.getLsbD 63) || members == 0) .barrierDomain 0
  let yard := s.yardOf s.myTile
  if s.me.barTok = 3 then
    set (s.modMe (fun x => { x with barTok := 0 }))
    trap .barrierDomain 0
  else if s.me.barTok ≠ 0 then waitFor wk (s.barOp s.cur k)
  else
    match s.roundOf yard dom (s.tagOf s.cur) with
    | some r =>
      if r.full then
        ready
        set (s.leaveRound yard dom (s.tagOf s.cur))
        acquire 1
      else waitFor wk (s.barOp s.cur k)
    | none =>
      release 1
      modify (fun (s : State) => (s.modMe (fun x => { x with barTok := kind, barAt := s.cal })).later (.barrierArrival s.cur dom members))
      waitFor wk (s.barOp s.cur k)

/-- BAR (R202): the control context's, on a configured domain. -/
def execBar (a : Reg) (s : State) : Host.Outcome State Fault Refusal :=
  runClose (do
    noPrefix
    let s ← get
    trapIf s.inTask .contextKind 0
    gate [a] [] true
    let x ← readG a
    trapIf (decide (7 < x.toNat)) .barrierDomain 0
    barrier x.toNat 1 .bar (pure ())
    next) s

/-- Whether every push of a core has arrived (R203, R299). -/
def State.sendsDone (s : State) (k : Nat) : Bool :=
  [Dir.n, .e, .s, .w].all (fun d => match pushCore k d with
    | some j => ((s.core j).inFlight (dirOpp d)).all (fun f => match f.due with | some n => decide (n ≤ s.cal) | none => false)
    | none => true)

/-- The job's superstep count (R201). -/
def State.sstep (s : State) (t : Nat) : Word :=
  match s.combOf t with | some c => c.sstep.setWidth 64 | none => 0

/-- The domain of %bar.0, in which a TSYNC arrives (R203). -/
def barDomain (x : Ctx) : Nat := ((x.sreg 0x340).extractLsb' 32 16).toNat

/-- TSYNC (R203): it arrives when its core has no helper and every send is acknowledged, and nothing of that holds it back afterwards. -/
def execTsync (d : Reg) (s : State) : Host.Outcome State Fault Refusal :=
  runClose (do
    noPrefix
    let s ← get
    trapIf s.inTask .contextKind 0
    trapIf (!(s.bulkSync s.myTile)) .mode 0
    gate [] [d] false
    waitUntil (fun s => s.me.barTok != 0 || (s.roundOf (s.yardOf s.myTile) (barDomain s.me) (s.tagOf s.cur)).isSome ||
      ((s.helpersOf s.myCore).isEmpty && s.sendsDone s.myCore)) .tsync (s.barOp s.cur 0)
    barrier 0 2 .tsync (gatePush d)
    let s ← get
    writeG d (s.sstep s.myTile)
    next) s

/-- Take the fill-word snapshot of a tile: its TM as it stands (R129). -/
def State.snapshot (s : State) (t : Nat) : State :=
  s.modTile t (fun x => { x with snap := s.tm.filter (fun p => p.1 / 2 ^ 20 == t) })

/-- SUPERSTEP_BOUNDARY (R203, R300): 64 calendar cycles after the last member of a superstep's round has sent its arrival, every member
becomes ready, the snapshot of every tile of the comb is taken and the superstep count advances. -/
def State.superstep (s : State) (yard dom : Nat) : State :=
  match s.rounds.find? (fun r => r.yard == yard && r.dom == dom && r.tsync && !r.full &&
      decide (r.members ≤ r.arrived.length) && decide (r.since + 64 ≤ s.cal)) with
  | none => s
  | some r =>
    let s : State := { s with rounds := s.rounds.map (fun q => if q = r then { q with full := true } else q) }
    let jobs := s.combs.filter (fun c => c.yard == yard && c.job == r.job && c.bsp)
    let s := jobs.foldl (fun s (c : Comb) => c.tiles.foldl (fun s t => s.snapshot t) s) s
    { s with combs := s.combs.map (fun c =>
        if jobs.any (fun j => j.yard == c.yard && j.job == c.job) then { c with sstep := c.sstep + 1 } else c) }

def execSuperstepBoundary (yard dom : Nat) (s : State) : Host.Outcome State Fault Refusal :=
  .next (s.superstep yard dom)

/-! Link arrivals (R299, R319). -/

/-- Append a value to region r of a message buffer at a physical address of a page (R105, R319); none when its n entries
are all valid, or while the line is owned at home (R26, R122). -/
def State.spillTo (s : State) (pa r n tag : Nat) (pg : Pg) (v : QVal) : Option State :=
  match (List.range n).find? (fun i => !(s.byte (pa + r * 512 + i * 16 + 8)).getLsbD 0) with
  | none => none
  | some i =>
    let a := pa + r * 512 + i * 16
    let bs := leBytes 8 v.val.toNat ++ [BitVec.ofNat 8 (if v.tc then 3 else 1)]
    if s.lineFree a none then some (s.homeWrite tag 0 pg (bs.zipIdx.map (fun p => (a + p.2, p.1)))) else none

/-- A value enters the core's queue, which holds 32, or the message buffer of its saved control context; a full one stops the link (R137,
R319). -/
def State.landValue (s : State) (k : Nat) (d : Dir) (f : Flight) : State :=
  let drop (s : State) : State := s.modCore k (fun x => { x with flight := x.flight.erase f })
  match (s.core k).spill with
  | some (pa, tag, pg) =>
    (match s.spillTo pa (dirNum d) 32 tag pg f.val with
     | some t => drop t
     | none => s)
  | none => if 32 ≤ ((s.core k).queue d).length then s else (drop s).modCore k (fun x => x.setQueue d (x.queue d ++ [f.val]))

/-- LINK_VALUE_ARRIVAL (R299): the oldest value in flight from a direction arrives when it is due. -/
def State.linkArrive (s : State) (k : Nat) (d : Dir) : State :=
  match (s.core k).flight.find? (fun f => f.dir == d) with
  | none => s
  | some f =>
    match f.due with
    | none => s
    | some n => if s.cal < n then s else s.landValue k d f

/-- What is due on a core's links enters its queues (R299). -/
def State.landDue (s : State) (k : Nat) : State :=
  (s.core k).flight.foldl (fun s f => match f.due with | some n => if n ≤ s.cal then s.linkArrive k f.dir else s | none => s) s

def execLinkValueArrival (core : Nat) (dir : Dir) (s : State) : Host.Outcome State Fault Refusal :=
  .next (s.linkArrive core dir)

end Sys2Proof.Machine
end

