-- ==== Sys2Proof/Machine/System.lean ====
section
/-! DEFINITION. The special registers and the instructions that read and write them (R4, R19, R29, R30,
R51, R52, R73, R93, R97, R99, R150, R206, R246, R302-R304, R311, R348, R349, R357, R360, R361). -/

namespace Sys2Proof.Machine

/-! The register map. -/

/-- How software reaches a register (R4). -/
inductive Acc where
  | ro | wo | rw
deriving DecidableEq, Repr

/-- A register of the map: its access, and the bits a write may set. -/
structure SrInfo where
  acc  : Acc
  keep : Nat
deriving DecidableEq, Repr

def srRo : SrInfo := { acc := .ro, keep := 0 }
def srRw (keep : Nat) : SrInfo := { acc := .rw, keep := keep }
/-- Every bit may be set. -/
def allBits : Nat := 2 ^ 64 - 1

/-- The context and status registers, 0x000-0x0FF (R19, R73, R158, R175, R189, R200). -/
def srInfo0 (n : Nat) : Option SrInfo :=
  if n ≤ 4 ∨ (8 ≤ n ∧ n ≤ 0xA) ∨ n = 0x11 ∨ n = 0x24 ∨ n = 0x30 ∨ n = 0x31 ∨ n = 0x38 ∨ n = 0x50 then some srRo
  else if n = 0x10 ∨ n = 0x23 then some (srRw 1)
  else if n = 0x20 ∨ n = 0x21 then some (srRw allBits)
  else if n = 0x22 then some (srRw 7)
  else if n = 0x28 then some (srRw allBits)
  else if n = 0x29 then some (srRw 0xFFFFFFFF)
  else if n = 0x2A ∨ n = 0x2B then some (srRw 0xFFFF)
  else none

/-- The comb and upcall registers, 0x100-0x1FF (R51). -/
def srInfo1 (n : Nat) : Option SrInfo :=
  if (0x100 ≤ n ∧ n ≤ 0x107) ∨ n = 0x110 ∨ n = 0x111 ∨ n = 0x114 then some srRo
  else if n = 0x112 then some (srRw (allBits - 3))
  else if n = 0x113 then some (srRw allBits)
  else none

/-- The engine, ring, matrix and wax registers, 0x200-0x2FF (R97, R246, R257, R261, R263, R270, R275). A bit above those that a ring's or
%coll.len's map lists traps as one that must be zero (DESIGN CHOICE; log 12). -/
def srInfo2 (n : Nat) : Option SrInfo :=
  if n < 0x240 then
    (if n % 8 = 0 then some (srRw 0x6FFFFF) else if n % 8 = 1 then some (srRw 0x1FFFFF)
     else if n % 8 = 2 then some (srRw 0x1FFFF) else if n % 8 < 5 then some (srRw 0xFFFFFFFF) else none)
  else if n = 0x240 ∨ n = 0x280 ∨ (0x2A1 ≤ n ∧ n ≤ 0x2A3) ∨ (0x2A8 ≤ n ∧ n ≤ 0x2AF) then some srRo
  else if n = 0x241 then some (srRw (2 ^ 63 + 0x3FF * 2 ^ 32 + 3))
  else if n = 0x250 then some (srRw 0xFFFFFFFF)
  else if n = 0x252 ∨ n = 0x264 then some (srRw 0xF)
  else if n = 0x253 then some (srRw 0xFFFF)
  else if n = 0x260 then some (srRw 0xFFFFF)
  else if n = 0x270 then some (srRw (7 + 0xFFF * 2 ^ 16 + 0xFFF * 2 ^ 32))
  else if n = 0x271 then some (srRw 0xFFFFFF)
  else if n = 0x272 then some (srRw 0x13F)
  else if n = 0x251 ∨ n = 0x254 ∨ n = 0x255 ∨ n = 0x261 ∨ n = 0x262 ∨ n = 0x263 ∨ n = 0x273 then some (srRw allBits)
  else if n = 0x2A0 then some (srRw (allBits - 3))
  else none

/-- The timing, calendar and barrier registers, 0x300-0x3FF (R19, R201, R348, R349, R357, R360). -/
def srInfo3 (n : Nat) : Option SrInfo :=
  if n ≤ 0x302 ∨ n = 0x309 ∨ n = 0x30A ∨ (0x330 ≤ n ∧ n ≤ 0x33F) ∨ n = 0x348 then some srRo
  else if n = 0x308 then some (srRw 0xFFFF)
  else if 0x310 ≤ n ∧ n < 0x330 then some (srRw (if n % 2 = 0 then allBits else 2 ^ 63 + 7))
  else if 0x340 ≤ n ∧ n < 0x348 then some (srRw (2 ^ 63 + 0xFFFF * 2 ^ 32 + 0xFFFF))
  else none

/-- The supervisor registers, 0x400-0x7FF (R93, R302). A zero field whose access is RO ignores a write
(R4), so its bits may be set. The map of %cpring.sel lists bits [15:0] only: a write keeps its bits [63:16] and they are read back. Bits [63:1] of
%dbg.hold trap as bits that must be zero, bits [63:16] of %s.kill are ignored, and so is a write of %trap.supp (DESIGN CHOICE; log 12). -/
def srInfoS (n : Nat) : Option SrInfo :=
  if n < 0x438 then
    (if n % 4 = 0 then some (srRw (2 ^ 56 - 2 ^ 16)) else if n % 4 = 1 then some (srRw (2 ^ 56 - 1))
     else if n % 4 = 2 then some (srRw allBits) else none)
  else if n < 0x440 then none
  else if n = 0x441 then some (srRw (allBits - 3))
  else if n = 0x443 then some (srRw (0xC000FFFF00000000 + 0x1FF))
  else if n = 0x447 then some (srRw 0xFF000)
  else if n = 0x44D ∨ n = 0x44E then some (srRw 1)
  else if n = 0x44F then some { acc := .wo, keep := allBits }
  else if n = 0x450 ∨ n = 0x451 ∨ (0x453 ≤ n ∧ n ≤ 0x455) then some srRo
  else if n = 0x456 then some (srRw (2 ^ 63 + 0xFFFFFFFF))
  else if n ≤ 0x452 then some (srRw allBits)
  else none

/-- The hypervisor registers, 0x800-0xBFF (R304). Bits [63:16] of %hv.tag trap as bits that must be zero (DESIGN CHOICE; log 12). -/
def srInfoH (n : Nat) : Option SrInfo :=
  if n = 0x803 then some (srRw (0xC000FFFF00000000 + 0x1FF))
  else if n = 0x808 then some (srRw 0xFFFF)
  else if n = 0x809 ∨ n = 0x80A then some srRo
  else if n = 0x80B then some (srRw (2 ^ 63 + 0xFFFFFFFF))
  else if n ≤ 0x807 then some (srRw allBits)
  else none

/-- The register a number names, if one is assigned (R150). -/
def srInfo (n : Nat) : Option SrInfo :=
  if n < 0x100 then srInfo0 n else if n < 0x200 then srInfo1 n else if n < 0x300 then srInfo2 n
  else if n < 0x400 then srInfo3 n else if n < 0x800 then srInfoS n else if n < 0xC00 then srInfoH n
  else none

/-- Whether a privilege reaches a number's range (R150, R301). -/
def srPriv (n : Nat) (p : Priv) : Bool :=
  if n < 0x400 then true else if n < 0x800 then p != .u else p == .h

/-- The checks of an MFS or MTS on a number, in R150's order. -/
def srCheck (n : Nat) : M SrInfo := fun s =>
  match srInfo n with
  | none => .error (.trap .reserved (BitVec.ofNat 64 n)) s
  | some i => if srPriv n s.me.priv then .ok i s else .error (.trap .privilege (BitVec.ofNat 64 n)) s

/-! Values that are not stored as such. -/

/-- The elastic cycles of its tile before the present cycle of a core (R30, R360). -/
def State.elasticCount (s : State) (k : Nat) : Nat := (s.tile (coreTile k)).elastic ((s.core k).clk - 1)

/-- %comb.bbox of a comb (R52). -/
def Comb.bbox (c : Comb) : Nat :=
  let xs := c.tiles.map tileX
  let ys := c.tiles.map tileY
  let lo (l : List Nat) := l.foldl Nat.min 31
  let hi (l : List Nat) := l.foldl Nat.max 0
  hi ys * 2 ^ 24 + hi xs * 2 ^ 16 + lo ys * 2 ^ 8 + lo xs

/-- The entry of the coprocessor ring that %cpring.sel selects (R311). -/
def State.ringEnt (s : State) (c : Nat) : Option RingEnt :=
  (s.core (cidCore c)).ring.find? (fun e => e.seq == ((s.ctx c).sreg 0x452).toNat % 65536)

/-- The calendar slots of a tile's port whose byte satisfies a test (R357). -/
def State.slotMask (s : State) (t p : Nat) (f : Nat → Bool) : Nat :=
  (List.range 64).foldl (fun v i => if f (s.calByte t p i) then v + 2 ^ i else v) 0

/-- %hpool (R348). -/
def State.hpool (s : State) (t : Nat) : Nat :=
  match s.combOf t with
  | some c => (c.frames - (s.tile t).frames.length) * 2 ^ 40 + c.frames * 2 ^ 32 + c.poolBase % 256 * 2 ^ 12
  | none => 0

/-- The comb-wide registers 0x100-0x106; a tile in no comb reads zero. -/
def State.combReg (s : State) (t n : Nat) : Word :=
  match s.combOf t with
  | none => 0
  | some c =>
    if n = 0x100 then BitVec.ofNat 64 (c.yard % 32 * 65536 + c.job % 65536)
    else if n = 0x101 then BitVec.ofNat 64 c.tiles.length
    else if n = 0x102 then c.gen
    else if n = 0x103 then BitVec.ofNat 64 c.bbox
    else if n = 0x104 then c.desc
    else if n = 0x105 then BitVec.ofNat 64 c.floor
    else (if c.hold then 1 else 0)

/-- %comb.load, %upc.gain and %upc.loss (R52). -/
def State.combLoad (s : State) (t : Nat) : Word :=
  let x := s.tile t
  (BitVec.ofInt 16 x.adj).setWidth 64 <<< 32 ||| BitVec.ofNat 64 (x.press % 65536 * 65536 + x.load % 65536)
def Ctx.upcGain (x : Ctx) : Word :=
  x.gains.headD 0 ||| (if x.gainOvf then (1 : Word) <<< 62 else 0)
def State.upcLoss (s : State) (c : Nat) : Word :=
  match (s.tile (cidTile c)).move with
  | some m => BitVec.ofNat 64 (2 ^ 63 + (if m.step ≤ 2 then 65536 - (s.tileCycles (cidTile c) - m.since) else 0) % 2 ^ 17 * 65536 + cidTile c % 1024)
  | none => 0

/-- The value that register n reads as for context c (R19, R30, R51, R52, R97, R158, R175, R189, R200,
R201, R246, R270, R275, R302, R304, R311, R348, R349, R357, R360). What %ctx.slot reads in the resident handler is not stated: it
reads 11 here (DESIGN CHOICE; log 60). -/
def State.readSr (s : State) (c n : Nat) : Word :=
  let x := s.ctx c
  let t := cidTile c
  let nat (v : Nat) : Word := BitVec.ofNat 64 v
  if n = 0x000 then nat (t % 1024)
  else if n = 0x001 then nat (cidCore c % 4)
  else if n = 0x002 then nat (cidSlot c)
  else if n = 0x003 then nat (hiveOf t)
  else if n = 0x004 then nat (dieOf t)
  else if n = 0x008 then nat (s.jobOf t % 65536)
  else if n = 0x009 then (match x.helper with | some h => h.task.ts.setWidth 64 | none => 0)
  else if n = 0x00A then (match x.helper with | some h => h.task.data | none => 0)
  else if n = 0x011 then
    nat ((if (s.tile t).pinned then 4 else 0) +
      (match x.helper with | some h => if h.task.solo then 2 else 0 | none => 0) + (if s.bulkSync t then 1 else 0))
  else if n = 0x038 then x.vsetWord
  else if n = 0x050 then (s.tile t).ev.setWidth 64
  else if 0x100 ≤ n ∧ n ≤ 0x106 then s.combReg t n
  else if n = 0x107 then s.combLoad t
  else if n = 0x110 then x.upcGain
  else if n = 0x111 then s.upcLoss c
  else if n = 0x240 then 0xFF
  else if n = 0x280 then x.rep.state
  else if n = 0x2A1 then nat x.waxBind
  else if n = 0x2A3 then nat (s.waxStrm c)
  else if n = 0x300 then nat (if (s.tile t).pinned then s.cal else s.elasticCount (cidCore c))
  else if n = 0x301 then nat s.cal
  else if n = 0x302 then nat (Nat.min (s.tile t).clkStretched 0xFFFFFFFF * 2 ^ 32 + Nat.min (s.elasticCount (cidCore c)) 0xFFFFFFFF)
  else if n = 0x309 then nat ((List.range 4).foldl (fun v k => v + (s.core (t * 4 + k)).lanes % 16 * 16 ^ k) 0)
  else if n = 0x30A then nat (s.hpool t)
  else if 0x330 ≤ n ∧ n < 0x338 then nat (s.slotMask t (n - 0x330) (fun b => b == s.yardOf t))
  else if 0x338 ≤ n ∧ n < 0x340 then nat (s.slotMask t (n - 0x338) (fun b => b == 63))
  else if n = 0x348 then s.sstep t
  else if n = 0x44F then 0
  else if n = 0x453 then (match s.ringEnt c with | some e => e.pc | none => 0)
  else if n = 0x454 then
    (match s.ringEnt c with | some e => nat (2 ^ 63 + e.seq % 65536 * 2 ^ 32 + e.word.toNat) | none => 0)
  else if n = 0x455 then nat ((s.core (cidCore c)).seq % 65536)
  else if n = 0x809 then nat (s.vfOf c)
  else if n = 0x80A then nat (s.dead.filter (fun d => d.2 == s.yardOf t)).length
  else s.sr c n

/-- What a write of x to the stored register n leaves in it: fields that read zero stay zero, and a
limit's low bits read all ones (R74, R93, R303, R304). -/
def storedValue (n : Nat) (x : Word) : Word :=
  if n = 0x20 ∨ n = 0x21 then x &&& 0x1F
  else if 0x400 ≤ n ∧ n < 0x438 ∧ n % 4 = 1 then x ||| 0xFFFF
  else if 0x400 ≤ n ∧ n < 0x438 ∧ n % 4 = 2 then x &&& 0x1F
  else if n = 0x440 ∨ n = 0x800 then x &&& 0xF0
  else if n = 0x806 then x &&& 0x7F
  else if n = 0x807 then x &&& 7
  else x

/-- A write of a register that has no behaviour of its own (R206); ending %dbg.hold lets the held tasks of
the job run (R315), a new slice length starts a slice, and without a handler a loss still to be told forces a save (R48). -/
def State.writeSr (s : State) (c n : Nat) (x : Word) : State :=
  let s := s.setSr c n (storedValue n x)
  if n = 0x44E ∧ x = 0 then
    { s with launches := s.launches.map (fun l =>
        if l.yard == s.yardOf (cidTile c) && l.job == s.jobOf (cidTile c) then { l with held := false, since := if l.held then s.cal else l.since } else l) }
  else if n = 0x112 then s.modCtx c Ctx.loseNow
  else if n = 0x449 then s.modCore (cidCore c) (fun k => { k with sliceStart := s.tileCycles (cidTile c) })
  else s

/-- The must-be-zero check of a write (R206). -/
def keepCheck (n : Nat) (i : SrInfo) (x : Word) : M Unit :=
  trapIf (Nat.land x.toNat i.keep != x.toNat) .reserved (BitVec.ofNat 64 n)

/-! Registers with behaviour of their own. -/

/-- Whether every coprocessor instruction that context c has pushed has completed (R214, R253, R312). -/
def State.drained (s : State) (c : Nat) : Bool := !(s.copBusy c)

/-- Wait for the drain, and report what it raised before going on (R214, R312). -/
def drain : M Unit := fun s =>
  if s.drained s.cur then
    (if s.me.late.isEmpty then .ok () s else .error (.wait .drain 0) s)
  else .error (.wait .drain 0) s

/-- Read register n for the current context; a TSC has no tile id, so it reads a free value (log 5). -/
def getSr (n : Nat) : M Word := fun s =>
  if n = 0 ∧ isTsc s.cur then
    let p := s.draw
    .ok (p.1 &&& 0x3FF) p.2
  else .ok (s.readSr s.cur n) s

/-- %trap.supp reads and clears (R302). -/
def takeSupp : M Word := fun s =>
  .ok (s.me.sreg 0x451) (s.modMe (fun x => x.setSreg 0x451 0))

/-- MFS (R206). -/
def execMfs (d : Reg) (n : BitVec 12) (s : State) : Host.Outcome State Fault Refusal :=
  run (do
    noPrefix
    let _ ← srCheck n.toNat
    gate [] [d] (n != 0x020)
    if n = 0x020 then
      drain
      gatePush d
    let x ← if n = 0x451 then takeSupp else getSr n.toNat
    writeG d x
    next) s

/-- TRAP_SUPP_READ (R302): the count is returned and cleared. -/
def execTrapSuppRead (d : Reg) (s : State) : Host.Outcome State Fault Refusal :=
  run (do
    noPrefix
    let _ ← srCheck 0x451
    gate [] [d] true
    let x ← takeSupp
    writeG d x
    next) s

/-- FFLAGS_ACCESS (R214): the MFS or MTS of %st.fflags waits for the drain. -/
def execFflagsAccess (wr : Bool) (r : Reg) (s : State) : Host.Outcome State Fault Refusal :=
  run (do
    noPrefix
    gate (if wr then [r] else []) (if wr then [] else [r]) false
    drain
    if wr then
      let x ← readG r
      modify (fun s => s.setSr s.cur 0x020 (storedValue 0x020 x))
    else
      gatePush r
      let x ← getSr 0x020
      writeG r x
    next) s

/-- The first calendar cycle that completes a switch set at cycle c: a multiple of 64 at least 16 later
(R361). -/
def pinCycle (c : Nat) : Nat := (c + 16 + 63) / 64 * 64

/-- Begin the switch of a tile to fixed timing, counted from the end of a departure (R361). -/
def State.beginPin (s : State) (t : Nat) : State :=
  let x := s.tile t
  if x.pinned || x.pinDue.isSome then s
  else s.modTile t (fun x => { x with pinDue := some (pinCycle (match x.leaving with | some e => Nat.max e s.cal | none => s.cal)) })

/-- Whether a loss of the tile's comb is in its steps 1 and 2 on the tile (R49). -/
def State.losing (s : State) (t : Nat) : Bool := (s.tile t).move.isSome

/-- The write of %ctx.ft (R29, R49): setting it waits until the tile is pinned, or for ever on a tile that
is being lost. -/
def writeFt (x : Word) : M Unit := fun s =>
  if x = 0 then .ok () ((s.modMe (fun y => y.setSreg 0x010 0)).unpin s.myTile)
  else if s.losing s.myTile then .error (.wait .pin 0) s
  else
    let s := s.modMe (fun y => y.setSreg 0x010 1)
    if (s.tile s.myTile).pinned then .ok () s
    else .error (.wait .pin 0) (s.beginPin s.myTile)

/-- CTX_FT_WRITE (R29). -/
def execCtxFtWrite (a : Reg) (s : State) : Host.Outcome State Fault Refusal :=
  run (do
    noPrefix
    gate [a] [] true
    let x ← readG a
    keepCheck 0x010 (srRw 1) x
    writeFt x
    next) s

/-- PIN_SWITCH_COMPLETE (R361). -/
def State.pinDone (s : State) (t : Nat) : State :=
  match (s.tile t).pinDue with
  | none => s
  | some c =>
    if s.cal < c then s
    else s.modTile t (fun x => { x.retime true (10 * s.cal) with pinDue := none, leaving := none })

def execPinSwitchComplete (tile : Nat) (s : State) : Host.Outcome State Fault Refusal := .next (s.pinDone tile)

/-- ELASTIC_RETURN_COMPLETE (R361). -/
def execElasticReturnComplete (tile : Nat) (s : State) : Host.Outcome State Fault Refusal :=
  .next (match (s.tile tile).leaving with
    | some e => if e ≤ s.cal then s.modTile tile (fun x => { x with leaving := none }) else s
    | none => s)

/-- The first cycle of a tile that none of its cores has begun (R360). -/
def State.freshEdge (s : State) (t : Nat) : Nat :=
  (s.tile t).edge ((List.range 4).foldl (fun m n => Nat.max m (s.core (t * 4 + n)).clk) (10 * s.cal))

/-- DROOP_STRETCH (R360): an elastic tile's cycle lasts 1/8 to 4/8 longer, so that the cycles after it begin later, and is counted; a pinned
tile's never is. -/
def execDroopStretch (tile depth : Nat) (s : State) : Host.Outcome State Fault Refusal :=
  .next (if (s.tile tile).pinned ∨ depth = 0 then s
    else
      let e := s.freshEdge tile
      s.modTile tile (fun x => { x.retime false e with clkFrom := e + Nat.min depth 4, clkStretched := x.clkStretched + 1 }))

/-- The rings that a coprocessor instruction names (R97-R99): a matrix command's operands, an MRING's ring
and the ring form of the copy and gather engines. -/
def QEntry.rings (q : QEntry) : List Nat :=
  let a := q.a.toNat
  match q.inst with
  | .mm _ _ | .mms _ _ | .mmp _ _ => [a % 8, a / 16 % 8]
  | .mringPop _ _ | .mringPush _ _ | .mringReset _ _ => [a % 8]
  | .cpGo _ _ _ => if q.b = 0 then [(SMap.get srReset q.sr 0x252).toNat % 8] else []
  | .gaGo _ _ _ => if q.b = 0 then [(SMap.get srReset q.sr 0x264).toNat % 8] else []
  | _ => []

/-- The rings that a descriptor's ports name (R284). -/
def descRings (d : List Byte) : List Nat := ((portsOf d).filter (fun p => p.2.kind == 3 || p.2.kind == 4)).map (fun p => p.2.x)

/-- Every coprocessor instruction of a tile that has not completed. -/
def State.inFlight (s : State) (t : Nat) : List QEntry :=
  let x := s.tile t
  (List.range 4).flatMap (fun k => (s.core (t * 4 + k)).vq ++ (s.core (t * 4 + k)).held) ++ x.mq ++ x.mrun.map (fun r => r.q) ++
    x.eng.map (fun e => e.q) ++ x.wq ++ x.streams.map (fun m => m.q)

/-- Whether an instruction in flight names ring k: a stream by its descriptor. -/
def State.usesRing (s : State) (t k : Nat) (q : QEntry) : Bool :=
  match (s.tile t).streams.find? (fun m => m.q == q) with
  | some m => (descRings m.desc).contains k
  | none => if q.isStream then (descRings (s.descOf q)).contains k else q.rings.contains k

/-- RING_REGISTER_WRITE (R99). -/
def writeRing (n : Nat) (x : Word) : M Unit := fun s =>
  if !(s.drained s.cur) then .error (.wait .drain 0) s
  else if n % 8 < 3 ∧ (s.inFlight s.myTile).any (fun q =>
      (q.cid != s.cur || q.tag != s.tagOf s.cur) && s.usesRing s.myTile ((n - 0x200) / 8) q) then
    .error (.trap .ringBusy 0) s
  else .ok () (s.setSr s.cur n x)

def execRingRegisterWrite (a : Reg) (n : BitVec 12) (s : State) : Host.Outcome State Fault Refusal :=
  run (do
    noPrefix
    let i ← srCheck n.toNat
    gate [a] [] true
    let x ← readG a
    keepCheck n.toNat i x
    writeRing n.toNat x
    next) s

/-- Whether an instruction is a command of the matrix engine (R241). -/
def isMatrix (i : Instr) : Bool :=
  match i with
  | .mm _ _ | .mms _ _ | .mmp _ _ | .mzero _ | .macr _ _ _ | .macw _ _ | .macst _ _ | .mcmdCheck _ | .mcmdZall _
  | .mcmdPcancel _ | .mringPop _ _ | .mringPush _ _ | .mringReset _ _ => true
  | _ => false

/-- MGRP_WRITE (R246): it waits for every matrix command of the tile. -/
def writeMgrp (x : Word) : M Unit := fun s =>
  if (s.inFlight s.myTile).any (fun q => isMatrix q.inst) then .error (.wait .drain 0) s
  else .ok () (s.setSr s.cur 0x241 x)

def execMgrpWrite (a : Reg) (s : State) : Host.Outcome State Fault Refusal :=
  run (do
    noPrefix
    gate [a] [] true
    let x ← readG a
    keepCheck 0x241 (srRw (2 ^ 63 + 0x3FF * 2 ^ 32 + 3)) x
    writeMgrp x
    next) s

/-- The kill of a saved context by its tag (R322): the tag is dead, and its engine commands stop. A live or
unknown tag has no effect. -/
def State.killSaved (s : State) (yard tag : Nat) : State :=
  let mine (x : Nat × Nat × Nat) : Bool := x.1 == tag && x.2.1 == yard
  if s.saved.any mine then
    let s := (s.markDead tag yard).stopCommands tag
    { s with saved := s.saved.filter (fun x => !(mine x)), kept := SMap.set (fun _ => none) s.kept tag none }
  else s

/-- S_KILL_WRITE (R322). Bits [63:16] are ignored (DESIGN CHOICE; log 12). -/
def execSKillWrite (a : Reg) (s : State) : Host.Outcome State Fault Refusal :=
  run (do
    noPrefix
    let _ ← srCheck 0x44F
    gate [a] [] true
    let x ← readG a
    modify (fun s => s.killSaved (s.yardOf s.myTile) (x.toNat % 65536))
    next) s

/-- HV_TAG_WRITE (R304): it waits while the named tag is draining. -/
def writeTag (x : Word) : M Unit := fun s =>
  if s.isDead x.toNat then .error (.wait .drain x) s else .ok () (s.setSr s.cur 0x808 x)

def execHvTagWrite (a : Reg) (s : State) : Host.Outcome State Fault Refusal :=
  run (do
    noPrefix
    let i ← srCheck 0x808
    gate [a] [] true
    let x ← readG a
    keepCheck 0x808 i x
    writeTag x
    next) s

/-- MTS (R206): an RO register ignores the write (R4), and so does %trap.supp (DESIGN CHOICE; log 12). A rounding mode of 6 or 7 is a reserved encoding
(R73). -/
def execMts (a : Reg) (n : BitVec 12) (s : State) : Host.Outcome State Fault Refusal :=
  run (do
    noPrefix
    let i ← srCheck n.toNat
    gate [a] [] true
    let x ← readG a
    if i.acc = .rw then
      keepCheck n.toNat i x
      trapIf (n == 0x022 && decide (6 ≤ x.toNat)) .reserved (n.setWidth 64)
      if n = 0x010 then writeFt x
      else if n = 0x020 then do drain; modify (fun s => s.setSr s.cur 0x020 (storedValue 0x020 x))
      else if 0x200 ≤ n.toNat ∧ n.toNat < 0x240 then writeRing n.toNat x
      else if n = 0x241 then writeMgrp x
      else if n = 0x808 then writeTag x
      else modify (fun s => s.writeSr s.cur n.toNat x)
    else if n = 0x44F then modify (fun s => s.killSaved (s.yardOf s.myTile) (x.toNat % 65536))
    next) s

end Sys2Proof.Machine
end

