-- ==== Sys2Proof/Machine/Operands.lean ====
section
/-! DEFINITION. The operands of coprocessor instructions: the use of the format prefix, the push onto a vector
queue, and what follows an entry after its issue (R10, R157-R159, R209-R217, R242, R311, R312). -/

namespace Sys2Proof.Machine

/-! The use of a prefix (R157, R158, R212). -/

/-- Which fields an operation uses. -/
structure PfxUse where
  fmt : Bool
  rm  : Bool
  sat : Bool
  m   : Bool
  bs  : Bool
deriving DecidableEq, Repr

/-- Whether every field that is not used holds its neutral value (R157). -/
def PfxUse.neutral (u : PfxUse) (w : IWord) : Bool :=
  (u.fmt || w.extractLsb' 16 10 == 0) && (u.rm || w.extractLsb' 13 3 == 7) && (u.sat || !(w.getLsbD 12)) &&
  (u.m || w.extractLsb' 8 3 == 0) && (u.bs || w.extractLsb' 6 2 == 0)

/-- The prefix in effect: its word, or 0 for the defaults. One that breaks the neutral-value rule is
discarded with a reserved-encoding cause. -/
def takePfx (u : PfxUse) : M IWord := fun s =>
  let p := s.me.sreg 0x024
  if !(p.getLsbD 63) then .ok 0 s
  else if u.neutral (p.setWidth 32) then .ok (p.setWidth 32) s
  else .error (.trap .reserved 0) (s.modMe (fun x => x.setSreg 0x024 0))

/-! The push (R10, R209, R242, R311, R312). -/

/-- Keep the 64 newest entries of a core's ring. -/
def Core.addRing (k : Core) (e : RingEnt) : Core := { k with ring := (k.ring ++ [e]).drop (k.ring.length + 1 - 64) }

/-- One more coprocessor instruction has been pushed. -/
def State.countPush (s : State) : State := { s with pushes := s.pushes + 1 }

/-- Put an instruction at the end of a core's vector queue with the next sequence number (R311). -/
def State.enqueue (s : State) (k : Nat) (q : QEntry) : State :=
  let n := (s.core k).seq
  let w := (encode q.inst).getD 0
  (s.modCore k (fun x =>
    { x.addRing { seq := n, pc := q.pc, word := w } with
        vq := x.vq ++ [{ q with seq := n, ord := s.pushes, since := s.cal }], seq := (n + 1) % 65536 })).countPush

/-- Open the window of a coprocessor instruction's register results (R152). -/
def State.openWindow (s : State) (c last seq : Nat) (replay : Bool) : State :=
  s.modCtx c (fun x =>
    { x with windows := x.windows ++ [{ last := last, seq := some seq, ready := false, replay := replay, writes := [] }] })

/-- What a context captures for a coprocessor instruction at its issue (R209). -/
def State.capture (s : State) (c : Nat) (i : Instr) (pfx : IWord) (a b qkw : Word) : QEntry :=
  let x := s.ctx c
  { seq := 0, ord := s.pushes, cid := c, tag := s.tagOf c, pc := x.pc, inst := i, pfx := pfx, a := a, b := b, qkw := qkw, sr := x.sr,
    vf := x.v, mf := x.m, since := s.cal, rel := none, replay := false, binds := x.wax }

/-- Record an instruction into a repetition buffer that is recording (R271). -/
def Rep.record (r : Rep) (w pfx : IWord) : Rep :=
  if r.target = 0 then r
  else
    let buf := r.buf ++ [(w, pfx)]
    { r with buf := buf, target := if r.target ≤ buf.length then 0 else r.target }

/-- Whether the context's next coprocessor instruction stalls: a late cause is held, replays remain, or the results of some are still
to come, which it is to see (R239, R272, R312). -/
def State.copHeld (s : State) : Bool := !s.me.late.isEmpty || s.me.rep.left != 0 || s.me.windows.any (fun w => w.replay)

/-- Whether the context pushes nothing now: its queue is full, what is to be pushed before waits for room, or its next coprocessor
instruction stalls (R10, R117, R406). -/
def State.pushBlocked (s : State) : Bool :=
  decide (16 ≤ (s.core s.myCore).vq.length) || !(s.core s.myCore).held.isEmpty || s.copHeld

/-- Push an instruction: a stall on a full queue, and otherwise its entry, its window when it has register
results, its place in a recording, and the end of its prefix. -/
def pushCop (i : Instr) (pfx : IWord) (a b qkw : Word) (win : Option (BitVec 4)) (rec : Bool) : M Unit := fun s =>
  if s.pushBlocked then .error (.wait .fullQueue 0) s
  else
    let n := (s.core s.myCore).seq
    let s1 := s.enqueue s.myCore (s.capture s.cur i pfx a b qkw)
    let s2 := match win with
      | some la => s1.openWindow s.cur (s.me.pos + la.toNat) n false
      | none => s1
    .ok () (s2.modMe (fun x =>
      { x.setSreg 0x024 0 with rep := if rec then x.rep.record ((encode i).getD 0) pfx else x.rep }))

/-- A vector or engine command that has no scalar destination pops its sources at issue, A then B (R136). -/
def readOpt (r : Option Reg) : M Word := match r with | some r => readG r | none => return 0

/-! What an operation names (R217). -/

/-- An operation's operands: block fields, scalar sources, scalar destinations, whether it has register
results, its prefix fields and default formats. -/
structure VInfo where
  ext    : BitVec 4
  blocks : List Reg
  sa     : Option Reg
  sb     : Option Reg
  push   : List Reg
  win    : Option (BitVec 4)
  use    : PfxUse
  dflt   : Fmt × Fmt
deriving DecidableEq, Repr

def useRsm : PfxUse := { fmt := true, rm := true, sat := true, m := true, bs := false }
def useM : PfxUse := { fmt := true, rm := false, sat := false, m := true, bs := false }
def useSm : PfxUse := { fmt := true, rm := false, sat := true, m := true, bs := false }
def useFmt : PfxUse := { fmt := true, rm := false, sat := false, m := false, bs := false }
def useRmb : PfxUse := { fmt := true, rm := true, sat := false, m := true, bs := true }

/-- An operation on blocks alone. -/
def vBlk (ext : BitVec 4) (bs : List Reg) (la : BitVec 4) (u : PfxUse) (f : Fmt × Fmt) : VInfo :=
  { ext := ext, blocks := bs, sa := none, sb := none, push := [], win := some la, use := u, dflt := f }

def f32f32 : Fmt × Fmt := (.f32, .f32)
def z32z32 : Fmt × Fmt := (.z32, .z32)

/-- The operands of each V-format operation. -/
def vInfo : Instr → Option VInfo
  | .vadd v a b ext la | .vsub v a b ext la | .vmul v a b ext la | .vfma v a b ext la | .vfms v a b ext la
  | .vdiv v a b ext la => some (vBlk ext [v, a, b] la useRsm f32f32)
  | .vsqrt v a ext la => some (vBlk ext [v, a] la useRsm f32f32)
  | .vmin v a b ext la | .vmax v a b ext la => some (vBlk ext [v, a, b] la useM f32f32)
  | .vabs v a ext la | .vneg v a ext la => some (vBlk ext [v, a] la useSm f32f32)
  | .vcmp _ _ a b ext la => some (vBlk ext [a, b] la useM f32f32)
  | .vand v a b ext la | .vor v a b ext la | .vxor v a b ext la | .vshl v a b ext la | .vshr v a b ext la
  | .vsra v a b ext la | .vsel v a b ext la | .vperm v a b ext la => some (vBlk ext [v, a, b] la useM z32z32)
  | .vmov v a ext la => some (vBlk ext [v, a] la useM z32z32)
  | .vbcast v a ext la => some { vBlk ext [v] la useM z32z32 with sa := some a }
  | .vswz v a _ ext la => some (vBlk ext [v, a] la useM z32z32)
  | .vext d _ b la => some { vBlk 0 [] la useFmt z32z32 with sb := some b, push := [d] }
  | .vextMask d _ la => some { vBlk 0 [] la useFmt z32z32 with push := [d] }
  | .vins _ a b la => some { vBlk 0 [] la useFmt z32z32 with sa := some a, sb := some b }
  | .vinsMask _ a la => some { vBlk 0 [] la useFmt z32z32 with sa := some a }
  | .vld v a b ext la | .vldtm v a b ext la =>
    some { vBlk ext [v] la useM z32z32 with sa := some a, sb := some b }
  | .vst v a b ext | .vsttm v a b ext =>
    some { vBlk ext [v] 0 useM z32z32 with sa := some a, sb := some b, win := none }
  | .vgath v a b ext la => some { vBlk ext [v, b] la useM z32z32 with sa := some a }
  | .vscat v a b ext => some { vBlk ext [v, b] 0 useM z32z32 with sa := some a, win := none }
  | .vcvt v a ext la => some (vBlk ext [v, a] la useRsm f32f32)
  | .vpack v a ext la | .vunpk v a ext la => some (vBlk ext [v, a] la useFmt (.l6, .l6))
  | .vqnt v a b ext la => some { vBlk ext [v, a] la useRmb (.f32, .e4m3) with push := [b] }
  | .vred _ a _ ext la => some (vBlk ext [a] la useRsm f32f32)
  | .vdot _ a b ext la => some (vBlk ext [a, b] la useRsm f32f32)
  | .vrng v ext la => some (vBlk ext [v] la useM z32z32)
  | .vcls _ a _ ext la => some (vBlk ext [a] la useM f32f32)
  | .vtbl v _ b ext la => some (vBlk ext [v, b] la useM (.z8, .z8))
  | .vbfly v a b ext la => some (vBlk ext [v, a, b] la useRsm f32f32)
  | .vcnt v a _ ext la => some (vBlk ext [v, a] la useM z32z32)
  | .vscan v a _ ext la => some (vBlk ext [v, a] la useRsm f32f32)
  | _ => none

/-- Whether a coprocessor instruction has register results. -/
def hasResult (i : Instr) : Bool :=
  match i with
  | .macr _ _ _ | .wxqry _ _ _ | .wax _ _ _ _ _ _ => true
  | i => (vInfo i).any (fun d => d.win.isSome)

/-- Push what is to be pushed, in order, while the queue has room; the window of an instruction with register results holds its context's
first instruction (R117, R406). -/
def State.feed (s : State) (k : Nat) : Nat → State
  | 0 => s
  | n + 1 =>
    match (s.core k).held with
    | [] => s
    | q :: rest =>
      if 16 ≤ (s.core k).vq.length then s
      else
        let seq := (s.core k).seq
        let s := (s.modCore k (fun x => { x with held := rest })).enqueue k q
        (if q.rel.isNone && hasResult q.inst then s.openWindow q.cid 0 seq q.replay else s).feed k n

/-- Have an entry pushed when its turn comes. -/
def State.hold (s : State) (k : Nat) (q : QEntry) : State := (s.modCore k (fun x => { x with held := x.held ++ [q] })).feed k 17

/-- The further checks at issue of some operations: the mask limit of R219 and R220, VQNT's groups (R231),
VDOT's elements (R233), VTBL's table (R236) and VBFLY's blocks (R237). -/
def vExtra (i : Instr) (p : Pfx) : Option Cause :=
  match i with
  | .vcmp _ _ _ _ ext _ | .vcls _ _ _ ext _ => if 64 < extCount ext * p.fa.elems then some .blockExtent else none
  | .vqnt _ _ _ ext _ =>
    let n := extCount ext * p.fa.elems
    let g := 32 * 2 ^ p.bs
    if p.bs = 3 then some .reserved else if n % g ≠ 0 ∨ n < g ∨ 8 * g < n then some .blockExtent else none
  | .vdot _ _ _ ext _ => if p.fb.elems < extCount ext then some .blockExtent else none
  | .vtbl _ a _ _ _ => if a.toNat % 4 ≠ 0 then some .blockExtent else none
  | .vbfly v a _ ext _ => if (blockRegs v ext).any (fun r => (blockRegs a ext).contains r) then some .blockExtent else none
  | _ => none

/-- Whether a memory form reaches shared memory. -/
def sharedForm (i : Instr) (a : Word) : Bool :=
  match i with
  | .vld _ _ _ _ _ | .vst _ _ _ _ | .vgath _ _ _ _ _ | .vscat _ _ _ _ => !isTm a
  | _ => false

/-- The slot check of a memory form, in the cycle in which it is pushed (R32). -/
def formSlot (i : Instr) (a : Word) : M Unit := fun s => if sharedForm i a && !s.pushBlocked then sharedSlot s else .ok () s

/-- The issue of a V-format operation (R209): the checks, the scalar reads, and the push. -/
def vIssue (i : Instr) : M Unit :=
  match vInfo i with
  | none => noPrefix
  | some d => do
    let w ← takePfx d.use
    let p := pfxOf d.dflt w
    trapIf (!(d.blocks.all (fun q => blockOk q d.ext))) .blockExtent 0
    match vExtra i p with
    | some c => trap c 0
    | none => pure ()
    gate (d.sa.toList ++ d.sb.toList) d.push false
    let a ← readOpt d.sa
    let b ← readOpt d.sb
    formSlot i a
    pushCop i w a b 0 d.win true
    next

/-! After the issue. -/

/-- The live context that an entry belongs to: where it was issued, or where its context was restored. -/
def State.owner (s : State) (q : QEntry) : Option Nat :=
  let at? (c : Nat) : Bool := (s.ctx c).live && s.tagOf c == q.tag
  if at? q.cid then some q.cid
  else if isHelperSlot (cidSlot q.cid) then none
  else (s.ctxs.map (fun p => p.1)).find? (fun c => at? c && cidSlot c == 0)

/-- The engine code of a command (R241). -/
def engineOf : Instr → Option Nat
  | .cpGo _ _ _ | .cpLand _ _ | .cpTm _ _ => some 0
  | .gaGo _ _ _ | .scGo _ _ _ => some 1
  | .coRed _ _ _ | .coBcast _ _ _ | .coAr _ _ _ => some 2
  | .mm _ _ | .mms _ _ | .mmp _ _ | .mzero _ | .macr _ _ _ | .macw _ _ | .macst _ _ | .mcmdCheck _ | .mcmdZall _
  | .mcmdPcancel _ | .mringPop _ _ | .mringPush _ _ | .mringReset _ _ | .mwait => some 3
  | .lnTask _ _ | .lnGraph _ _ | .lnPhase _ _ | .lnCancel _ _ | .lnWait _ _ => some 4
  | .rpRec _ | .rpRun _ _ => some 5
  | .wxld _ _ | .wxrel _ | .wxstm _ _ | .wxdet _ | .wxqry _ _ _ | .wax _ _ _ _ _ _ => some 6
  | .enStat _ _ _ => some 15
  | _ => none

/-- The key under which a tile counts what a context has done on an engine: the context's tag, or a helper's own
place, and the engine (R273). -/
def engKey (cid tag eng : Nat) : Nat := (if isHelperSlot (cidSlot cid) then 0x10000 + cid else tag) * 16 + eng

/-- A command of a context has completed: its engine's count for that context rises (R273). -/
def State.countOn (s : State) (cid tag : Nat) (i : Instr) : State :=
  match engineOf i with
  | none => s
  | some e => s.modTile (cidTile cid) (fun x =>
      let k := engKey cid tag e
      { x with doneCnt := SMap.set (fun _ => 0) x.doneCnt k ((SMap.get (fun _ => 0) x.doneCnt k + 1) % 2 ^ 32) })
def State.countDone (s : State) (q : QEntry) : State := s.countOn q.cid q.tag q.inst

/-- The last late cause of a context on an engine (R273). -/
def State.noteLate (s : State) (q : QEntry) (cause : Cause) : State :=
  match engineOf q.inst with
  | none => s
  | some e => s.modTile (cidTile q.cid) (fun x =>
      { x with lastLate := SMap.set (fun _ => 0) x.lastLate (engKey q.cid q.tag e) cause.code })

/-- A late cause (R215, R312, R317): a helper's ends its task, a control context's stays until its drain, and
one of a saved context is held by the engine. A command released by a commit reports through a task-fault
record (R243). -/
def State.raiseLate (s : State) (q : QEntry) (cause : Cause) (member elem : Nat) (tval : Word) : State :=
  let l : Late := { seq := q.seq, ord := q.ord, cause := cause, member := member, elem := elem, tval := tval }
  let s := s.noteLate q cause
  match s.owner q with
  | some c =>
    (match q.rel with
     | some (i, n) => s.addRecord c { cause := cause, launch := i, index := n, toH := cause == .stage2 }
     | none =>
       if isHelperSlot (cidSlot c) then s.taskFault c cause (cause == .stage2)
       else s.modCtx c (fun x => { x with late := x.late ++ [l] }))
  | none =>
    match q.rel with
    | some (i, n) =>
      let c := coreCid (cidCore q.cid) 0
      if s.tagOf c = q.tag then s.addRecord c { cause := cause, launch := i, index := n, toH := cause == .stage2 } else s
    | none => if s.saved.any (fun t => t.1 == q.tag) then { s with heldLates := s.heldLates ++ [(q.tag, l)] } else s

/-- The sources that an entry has captured, with a register result of an earlier instance of its replay (R239). -/
def QEntry.patch (q : QEntry) (w : RegWrite) : QEntry :=
  match w with
  | .g _ _ => q
  | .v r mask x =>
    { q with vf := SMap.set (fun _ => 0) q.vf r ((SMap.get (fun _ => 0) q.vf r &&& ~~~mask) ||| (x &&& mask)) }
  | .m r mask x =>
    if r = 0 then q else { q with mf := SMap.set (fun _ => 0) q.mf r ((SMap.get (fun _ => 0) q.mf r &&& ~~~mask) ||| (x &&& mask)) }

/-- The register results of a replayed instance are written at once, as its la is 0, and the instances behind it read them
(R239; log 73). -/
def State.applyReplay (s : State) (c : Nat) (ws : List RegWrite) : State :=
  let fix (q : QEntry) : QEntry := if q.replay && q.cid == c then ws.foldl QEntry.patch q else q
  (ws.foldl (fun s w => s.applyWrite c w) s).modCore (cidCore c) (fun k => { k with vq := k.vq.map fix, held := k.held.map fix })

/-- The results of an entry are ready: its window takes them, to be written at its close (R153); of a replayed instance it takes
the pushes alone. -/
def State.deliverWrites (s : State) (q : QEntry) (ws : List RegWrite) : State :=
  match s.owner q with
  | none => s
  | some c =>
    let late (w : RegWrite) : Bool := !q.replay || w.pushes
    let s := s.modCtx c (fun x => { x with windows := x.windows.map (fun w =>
      if w.seq = some q.seq ∧ !w.ready then { w with ready := true, writes := ws.filter late } else w) })
    if q.replay then s.applyReplay c (ws.filter (fun w => !(late w))) else s

/-- OR flags into the status of an entry's context (R75, R214); those of a command that a commit has released are kept with the
task's launch. -/
def State.orFlagsOf (s : State) (q : QEntry) (fl : Flags) : State :=
  if fl = 0 then s
  else match q.rel with
    | some (i, _) => s.keepFlags (s.yardOf (cidTile q.cid)) (s.jobOf (cidTile q.cid)) (if i = 256 then none else some i) fl
    | none => match s.owner q with
      | none => s
      | some c => s.modCtx c (fun x => x.orFlags fl)

end Sys2Proof.Machine
end

