-- ==== Sys2Proof/Machine/Vector.lean ====
section
/-! DEFINITION. The vector operations: what each computes from what it captured at its issue (R212-R237),
and their issue. -/

namespace Sys2Proof.Machine

/-! An operation at its execution. -/

/-- What an operation runs with: its entry and extent, its prefix fields, the top-code reading fixed at its
start (R65), its rounding mode and its mask. -/
structure VOp where
  q    : QEntry
  ext  : BitVec 4
  p    : Pfx
  tc   : Bool
  rm   : Rm
  mask : Word
deriving DecidableEq, Repr

/-- RM(rm): 7 stands for the %st.rm captured at issue (R160, R209). -/
def QEntry.mode (q : QEntry) (rm : Nat) : Rm := Rm.ofCode (if rm = 7 then (q.sreg 0x022).toNat else rm)

/-- The operation of an entry, under a top-code reading. -/
def QEntry.vop (q : QEntry) (d : VInfo) (tc : Bool) : VOp :=
  let p := pfxOf d.dflt q.pfx
  { q := q, ext := d.ext, p := p, tc := tc, rm := q.mode p.rm, mask := q.mreg p.m }

/-- Members of the block. -/
def VOp.n (o : VOp) : Nat := extCount o.ext

/-- Elem(v, f, k) (R210). -/
def VOp.elem (o : VOp) (v : Reg) (f : Fmt) (k : Nat) : Nat :=
  f.clean (elemGet f.width (o.q.vreg (blockReg v o.ext (k / f.elems))) (k % f.elems))

/-- Value(Elem(v, f, k)). -/
def VOp.val (o : VOp) (v : Reg) (f : Fmt) (k : Nat) : Num := f.value o.tc (o.elem v f k)

/-- Whether element k is enabled (R211). -/
def VOp.on (o : VOp) (k : Nat) : Bool := enabled o.mask k

/-- The generator output at a position offset from the captured %rng.row and %rng.col (R78, R88). -/
def QEntry.gen (q : QEntry) (i j : Nat) : Nat :=
  Machine.gen (q.sreg 0x28) (q.sreg 0x29).toNat ((q.sreg 0x2A).toNat + i) ((q.sreg 0x2B).toNat + j)

/-- The position of flattened element k, with e elements in a register (R210). -/
def extPos (ext : BitVec 4) (e k : Nat) : Nat × Nat :=
  (k / e / extCols ext, k / e % extCols ext * e + k % e)

/-- The rounding of element k of the destination format f. -/
def VOp.rctx (o : VOp) (f : Fmt) (k : Nat) : RCtx :=
  { rm := o.rm, g := if o.rm = .rsk then (let x := extPos o.ext f.elems k; o.q.gen x.1 x.2) else 0 }

/-- What an operation leaves: register writes, and the flags of its elements, each with its member and
element, in traversal order (R215). -/
structure VRes where
  writes : List RegWrite
  flags  : List (Nat × Nat × Flags)
deriving DecidableEq, Repr

/-- A late cause other than a floating one, with its member and element. -/
inductive VEnd where
  | done (r : VRes)
  | cause (c : Cause) (member elem : Nat)
deriving DecidableEq, Repr

/-- The result of an operation that computes its enabled elements k below n, each with its flags. -/
def VOp.each (o : VOp) (v : Reg) (f : Fmt) (n : Nat) (g : Nat → Nat × Flags) : VEnd :=
  let rs := ((List.range n).filter o.on).map (fun k => (k, g k))
  .done { writes := blockWrites v o.ext f.width (rs.map (fun r => (r.1, f.clean r.2.1))),
          flags := rs.map (fun r => (r.1 / f.elems, r.1 % f.elems, r.2.2)) }

/-- The same without flags. -/
def VOp.eachPure (o : VOp) (v : Reg) (f : Fmt) (n : Nat) (g : Nat → Nat) : VEnd :=
  o.each v f n (fun k => (g k, Flags.none))

/-- The number of elements of a block. -/
def VOp.count (o : VOp) (f : Fmt) : Nat := o.n * f.elems

/-! Arithmetic (R213, R218). -/

/-- The integer of an exact integer number. -/
def Num.toInt : Num → Int
  | .fin n m _ _ => if n then -(m : Int) else m
  | _ => 0

/-- Deliver a value of a source format into a destination format (R62, R79, R213). -/
def VOp.out (o : VOp) (fin fout : Fmt) (k : Nat) (x : Num) : Nat × Flags :=
  if fin.isInt ∧ fout.isInt then (fout.ofInt o.p.sat x.toInt, Flags.none)
  else fout.deliver o.tc o.p.sat (o.rctx fout k) x

/-- The rounding mode that fixes the sign of a zero sum: integers have none (R404). -/
def VOp.zeroRm (o : VOp) (f : Fmt) : Rm := if f.isInt then .rne else o.rm

/-- An exact number with the flags of its operation. -/
def addFlags (fl : Flags) (r : Nat × Flags) : Nat × Flags := (r.1, fl ||| r.2)

/-- The element-wise arithmetic of R218 with one exact result. -/
def VOp.arith (o : VOp) (v : Reg) (g : Nat → Num × Flags) : VEnd :=
  o.each v o.p.fa (o.count o.p.fa) (fun k =>
    let t := g k
    addFlags t.2 (o.out o.p.fa o.p.fa k t.1))

/-- The product of two elements: an integer product, or the exact product. -/
def VOp.mulAt (o : VOp) (a b : Reg) (k : Nat) : Num × Flags := Num.mul (o.val a o.p.fa k) (o.val b o.p.fa k)

/-- The sum of addends, with a product's flags. -/
def VOp.sumAt (o : VOp) (fl : Flags) (xs : List Num) : Num × Flags :=
  let t := exactSum (o.zeroRm o.p.fa) xs
  (t.1, fl ||| t.2)

/-- VMIN and VMAX: IEEE order with zeros ordered; integers by value. -/
def VOp.minMax (o : VOp) (mx : Bool) (a b : Reg) (k : Nat) : Num × Flags :=
  Num.minMax mx (o.val a o.p.fa k) (o.val b o.p.fa k)

/-! Comparisons and classes (R219, R220). -/

/-- The condition of a VCMP code, and its flags. -/
def compareCc (cc : Nat) (x y : Num) : Bool × Flags :=
  if x.isNan || y.isNan then
    (cc == 1, if 2 ≤ cc then Flags.nv else x.sigFlag ||| y.sigFlag)
  else
    let c := Num.cmp x y
    (match cc with
     | 0 => c == .eq
     | 1 => c != .eq
     | 2 => c == .lt
     | _ => c != .gt, Flags.none)

/-- A mask result: bit k of each enabled element. -/
def VOp.maskOut (o : VOp) (m : Nat) (g : Nat → Bool × Flags) : VEnd :=
  let rs := ((List.range (o.count o.p.fa)).filter o.on).map (fun k => (k, g k))
  let mask := rs.foldl (fun (w : Word) r => w ||| (1 : Word) <<< r.1) 0
  let val := rs.foldl (fun (w : Word) r => if r.2.1 then w ||| (1 : Word) <<< r.1 else w) 0
  .done { writes := [.m m mask val], flags := rs.map (fun r => (r.1 / o.p.fa.elems, r.1 % o.p.fa.elems, r.2.2)) }

/-! Bits (R221). -/

/-- Arithmetic right shift of a w-bit pattern. -/
def sraBits (w x n : Nat) : Nat :=
  let i : Int := if x < 2 ^ (w - 1) then (x : Int) else (x : Int) - 2 ^ w
  wrapTo w (i / 2 ^ (min n w))

/-- The number of trailing zero bits of the low n bits. -/
def ctzN (n x : Nat) : Nat := ((List.range n).find? (fun i => x.testBit i)).getD n

/-- The count of a VCNT code. -/
def countBits (op w x : Nat) : Nat := if op = 0 then popN w x else if op = 1 then clzN w x else ctzN w x

/-! Rearrangement (R223). -/

/-- x with its low n bits reversed. -/
def revBits : Nat → Nat → Nat
  | 0, _ => 0
  | n + 1, x => x % 2 * 2 ^ n + revBits n (x / 2)

/-- The source element of a VSWZ pattern for result element e of E. -/
def swizzle (pat es e : Nat) : Nat :=
  let h := es / 2
  match pat with
  | 0 => es - 1 - e
  | 1 => Nat.xor e 1
  | 2 => Nat.xor e 2
  | 3 => Nat.xor e h
  | 4 => if e < h then 2 * e else 2 * (e - h) + 1
  | 5 => if e % 2 = 0 then e / 2 else h + e / 2
  | 6 => revBits (Nat.log2 es) e
  | _ => (e + es - 1) % es

/-! Packing and quantisation (R230, R231). -/

/-- The bytes of a block as captured. -/
def VOp.byteAt (o : VOp) (v : Reg) (i : Nat) : Nat := elemGet 8 (o.q.vreg (blockReg v o.ext (i / 64))) (i % 64)

/-- Unmasked bytes written to the first n bytes of a block. -/
def VOp.bytesOut (o : VOp) (v : Reg) (n : Nat) (g : Nat → Nat) : VEnd :=
  .done { writes := blockWrites v o.ext 8 ((List.range n).map (fun i => (i, g i))), flags := [] }

/-- Byte i of the packing of L6 codes (R71): four six-bit codes in three bytes. -/
def packByte (code : Nat → Nat) (i : Nat) : Nat :=
  let g := i / 3 * 4
  let x := code g % 64 + code (g + 1) % 64 * 64 + code (g + 2) % 64 * 4096 + code (g + 3) % 64 * 262144
  x / 256 ^ (i % 3) % 256

/-- L6 code i of packed bytes (R71). -/
def unpackCode (byte : Nat → Nat) (i : Nat) : Nat :=
  let g := i / 4 * 3
  (byte g + byte (g + 1) * 256 + byte (g + 2) * 65536) / 64 ^ (i % 4) % 64

/-- floor(log2) of a format's largest finite value (R231). -/
def quantMax (f : Fmt) (tc : Bool) : Int :=
  match f with
  | .e4m3 => if tc then 7 else 8
  | .e5m2 => if tc then 15 else 16
  | .l6 => 3
  | _ => 6

/-- floor(log2) of a nonzero finite magnitude. -/
def Num.exponent : Num → Int
  | .fin _ m e _ => (Nat.log2 m : Int) + e
  | _ => 0

/-- The greatest magnitude of a list of finite numbers. -/
def maxMag (xs : List Num) : Num :=
  xs.foldl (fun a x => if Num.cmp a x.abs == .lt then x.abs else a) (.fin false 0 0 false)

/-- One scaled element of VQNT, clamped without OF. -/
def VOp.quant (o : VOp) (k : Nat) (x : Num) (s : Nat) : Nat × Flags :=
  let y := x.scale (127 - (s : Int))
  if o.p.fb = .i8 then
    match y with
    | .fin n m e t =>
      let r := Fmt.roundCode .z64 (o.rctx o.p.fb k) n m e t
      if m = 0 then (0, Flags.none)
      else
        let i : Int := if n then -(min r.1 127 : Nat) else (min r.1 127 : Nat)
        (wrapTo 8 i, if r.2 ∧ r.1 ≤ 127 then Flags.none else Flags.nx)
    | _ => (0, Flags.none)
  else
    let r := o.p.fb.round o.tc true (o.rctx o.p.fb k) y
    (r.1, r.2 &&& ~~~Flags.ofl)

/-- VQNT (R231): the elements and the scales of each group. -/
def VOp.quantise (o : VOp) (v a : Reg) (b : Reg) : VEnd :=
  let g := 32 * 2 ^ o.p.bs
  let n := o.count o.p.fa
  let one (j : Nat) : List (Nat × Nat × Flags) × Nat :=
    let ks := ((List.range g).map (fun i => j * g + i)).filter o.on
    let xs := ks.map (fun k => (k, o.val a o.p.fa k))
    match xs.find? (fun x => x.2.isNan || x.2.isInf) with
    | some bad =>
      (xs.map (fun x => (x.1, if o.p.fb = .i8 then 0 else o.p.fb.nanCode o.tc, if x.1 = bad.1 then Flags.nv else Flags.none)), 0xFF)
    | none =>
      let m := maxMag (xs.map (fun x => x.2))
      let s : Nat := if m.isZero then 127 else
        (max 0 (min 254 (m.exponent - quantMax o.p.fb o.tc + 127))).toNat
      (xs.map (fun x => let r := o.quant x.1 x.2 s; (x.1, r.1, r.2)), s)
  let gs := (List.range (n / g)).map one
  let rs := gs.flatMap (fun x => x.1)
  let scales := (gs.map (fun x => x.2)).foldr (fun s acc => acc * 256 + s) 0
  .done { writes := blockWrites v o.ext 8 (rs.map (fun r => (r.1, r.2.1))) ++ [.g b (BitVec.ofNat 64 scales)],
          flags := rs.map (fun r => (r.1 / o.p.fa.elems, r.1 % o.p.fa.elems, r.2.2)) }

/-! Reductions and scans (R232-R234). -/

/-- The enabled values of a block in its format. -/
def VOp.vals (o : VOp) (a : Reg) (n : Nat) : List Num := ((List.range n).filter o.on).map (o.val a o.p.fa)

/-- The value VRED selects for max, min and amax: NaNs are skipped unless there is nothing else. -/
def selectNum (op : Nat) (xs : List Num) : Num :=
  let ys := (xs.filter (fun x => !x.isNan)).map (fun x => if op = 3 then x.abs else x)
  match ys with
  | [] => .nan false
  | y :: ys => ys.foldl (fun a x => (Num.minMax (op != 2) a x).1) y

/-- VRED (R232). -/
def VOp.reduce (o : VOp) (v a : Reg) (op : Nat) : VEnd :=
  let xs := o.vals a (o.count o.p.fa)
  let w := o.p.fb.width
  let put (fl : Flags) (t : Num) : VEnd :=
    let r := o.out o.p.fa o.p.fb 0 t
    .done { writes := [.v v.toNat (elemMask w 0) (elemPut w 0 (o.p.fb.clean r.1))], flags := [(0, 0, fl ||| r.2)] }
  if op = 0 then
    let t := exactSum (o.zeroRm o.p.fa) xs
    put t.2 t.1
  else if xs.isEmpty then .done { writes := [], flags := [] }
  else put (xs.foldl (fun f x => f ||| x.sigFlag) Flags.none) (selectNum op xs)

/-- VDOT (R233): one rounded sum for each member, its old value among the addends. -/
def VOp.dot (o : VOp) (v a b : Reg) : VEnd :=
  let fa := o.p.fa
  let fb := o.p.fb
  let one (i : Nat) : List (Nat × Nat × Flags) × Nat :=
    let ks := ((List.range fa.elems).map (fun e => i * fa.elems + e)).filter o.on
    let ps := ks.map (fun k => (k, exactProduct fa fa o.tc (o.elem a fa k) (o.elem b fa k)))
    let old := fb.value o.tc (elemGet fb.width (o.q.vreg v.toNat) i)
    let t := exactSum (o.zeroRm fb) (old :: ps.map (fun p => p.2.1))
    let r := o.out fa fb i t.1
    (ps.map (fun p => (p.1 / fa.elems, p.1 % fa.elems, p.2.2)) ++ [(i, 0, t.2 ||| r.2)], r.1)
  let rs := (List.range o.n).map one
  let m := (List.range o.n).foldl (fun (m : VWord) i => m ||| elemMask fb.width i) 0
  let x := (rs.zipIdx).foldl (fun (x : VWord) r => x ||| elemPut fb.width r.2 r.1.2) 0
  .done { writes := [.v v.toNat m x], flags := rs.flatMap (fun r => r.1) }

/-- The prefixes of a list of enabled elements: each element with the values before it. -/
def prefixes {α β : Type} : List β → List (α × β) → List (α × List β × β)
  | _, [] => []
  | acc, (k, x) :: xs => (k, acc, x) :: prefixes (acc ++ [x]) xs

/-- VSCAN (R234). -/
def VOp.scan (o : VOp) (v a : Reg) (exc : Bool) : VEnd :=
  let n := o.n * min o.p.fa.elems o.p.fb.elems
  let ks := ((List.range n).filter o.on).map (fun k => (k, o.val a o.p.fa k))
  let rs := (prefixes [] ks).map (fun (p : Nat × List Num × Num) =>
    let t := exactSum (o.zeroRm o.p.fa) (if exc then p.2.1 else p.2.1 ++ [p.2.2])
    let r := o.out o.p.fa o.p.fb p.1 t.1
    (p.1, r.1, t.2 ||| r.2))
  .done { writes := blockWrites v o.ext o.p.fb.width (rs.map (fun r => (r.1, r.2.1))),
          flags := rs.map (fun r => (r.1 / o.p.fb.elems, r.1 % o.p.fb.elems, r.2.2)) }

/-! Butterflies (R237). -/

/-- VBFLY: both components of both blocks, each rounded once. -/
def VOp.butterfly (o : VOp) (v a b : Reg) : VEnd :=
  let f := o.p.fa
  let cs := (List.range (o.count f / 2)).filter (fun c => o.on (2 * c))
  let at? (r : Reg) (k : Nat) : Num := o.val r f k
  let sum (fl : Flags) (k : Nat) (xs : List Num) : Nat × Flags :=
    let t := exactSum o.rm xs
    addFlags (fl ||| t.2) (f.deliver o.tc o.p.sat (o.rctx f k) t.1)
  let one (c : Nat) : List (Nat × (Nat × Flags) × (Nat × Flags)) :=
    let r := 2 * c
    let i := 2 * c + 1
    let rr := Num.mul (at? b r) (at? a r)
    let ii := Num.mul (at? b i) (at? a i)
    let ri := Num.mul (at? b r) (at? a i)
    let ir := Num.mul (at? b i) (at? a r)
    [(r, sum (rr.2 ||| ii.2) r [at? v r, rr.1, ii.1.negate], sum (rr.2 ||| ii.2) r [at? v r, rr.1.negate, ii.1]),
     (i, sum (ri.2 ||| ir.2) i [at? v i, ri.1, ir.1], sum (ri.2 ||| ir.2) i [at? v i, ri.1.negate, ir.1.negate])]
  let rs := cs.flatMap one
  .done { writes := blockWrites v o.ext f.width (rs.map (fun x => (x.1, x.2.1.1)))
            ++ blockWrites a o.ext f.width (rs.map (fun x => (x.1, x.2.2.1))),
          flags := rs.map (fun x => (x.1 / f.elems, x.1 % f.elems, x.2.1.2 ||| x.2.2.2)) }

/-! Elements and masks by number (R224). -/

/-- VEXT's element, sign-extended for I formats. -/
def VOp.extract (o : VOp) (d a : Reg) : VEnd :=
  let f := o.p.fa
  if f.elems ≤ o.q.b.toNat then .cause .vectorIndex 0 0
  else
    let x := f.clean (elemGet f.width (o.q.vreg a.toNat) o.q.b.toNat)
    .done { writes := [.g d (if f.isSigned then BitVec.ofInt 64 (f.intValue x) else BitVec.ofNat 64 x)], flags := [] }

/-- VINS's element. -/
def VOp.insert (o : VOp) (v : Reg) : VEnd :=
  let f := o.p.fa
  let k := o.q.b.toNat
  if f.elems ≤ k then .cause .vectorIndex 0 0
  else .done { writes := [.v v.toNat (elemMask f.width k) (elemPut f.width k (f.clean (o.q.a.toNat % 2 ^ f.width)))], flags := [] }

/-- Entry t of VTBL's table (R236). -/
def VOp.table (o : VOp) (a : Reg) (t : Nat) : Nat := elemGet 8 (o.q.vreg (a.toNat + t / 64)) (t % 64)

/-! The formats each operation takes (R217). -/

/-- A, E4M3, E5M2 and L6. -/
def Fmt.classAx (f : Fmt) : Bool := f.classA || f.isFp8 || f == .l6

/-- Whether an operation takes a pair of formats; one it does not take is an operand-format cause (R212). -/
def vFormats (i : Instr) (fa fb : Fmt) : Bool :=
  match i with
  | .vadd .. | .vsub .. | .vmul .. | .vmin .. | .vmax .. | .vabs .. | .vneg .. | .vcmp .. => fa.classA && fb == fa
  | .vfma .. | .vfms .. | .vdiv .. | .vsqrt .. | .vbfly .. => fa.isIeee && fb == fa
  | .vshl .. | .vshr .. | .vsra .. | .vcnt .. => fa.isInt && fb == fa
  | .vgath .. | .vscat .. => fb.isInt && fb.width == fa.width
  | .vcvt .. => true
  | .vpack .. | .vunpk .. => fa == .l6 && fb == .l6
  | .vqnt .. => (fa == .f16 || fa == .bf16 || fa == .f32) && (fb.isFp8 || fb == .l6 || fb == .i8)
  | .vred .. | .vscan .. => fa.classAx && fb.classA
  | .vdot .. =>
    if fa == .i8 || fa == .z8 || fa == .i16 || fa == .z16 then fb == .i32 || fb == .i64
    else (fa.isFp8 || fa == .l6 || fa.isIeee) && (fb == .f32 || fb == .f64)
  | .vrng .. => fa == .z32 && fb == .z32
  | .vcls .. => (fa.isIeee || fa.isFp8 || fa == .l6) && fb == fa
  | .vtbl .. => (fa == .i8 || fa == .z8 || fa.isFp8 || fa == .l6 || fa == .e8) && fb == .z8
  | _ => fb == fa

/-- What an operation on registers computes (R218-R224, R229-R237). -/
def VOp.compute (o : VOp) : VEnd :=
  let f := o.p.fa
  let n := o.count f
  match o.q.inst with
  | .vadd v a b _ _ => o.arith v (fun k => o.sumAt Flags.none [o.val a f k, o.val b f k])
  | .vsub v a b _ _ => o.arith v (fun k => o.sumAt Flags.none [o.val a f k, (o.val b f k).negate])
  | .vmul v a b _ _ => o.arith v (fun k => o.mulAt a b k)
  | .vfma v a b _ _ => o.arith v (fun k => let p := o.mulAt a b k; o.sumAt p.2 [p.1, o.val v f k])
  | .vfms v a b _ _ => o.arith v (fun k => let p := o.mulAt a b k; o.sumAt p.2 [p.1, (o.val v f k).negate])
  | .vdiv v a b _ _ => o.arith v (fun k => Num.div (o.val a f k) (o.val b f k))
  | .vsqrt v a _ _ => o.arith v (fun k => Num.sqrt (o.val a f k))
  | .vmin v a b _ _ => o.arith v (o.minMax false a b)
  | .vmax v a b _ _ => o.arith v (o.minMax true a b)
  | .vabs v a _ _ => o.arith v (fun k => ((o.val a f k).abs, Flags.none))
  | .vneg v a _ _ => o.arith v (fun k => ((o.val a f k).negate, Flags.none))
  | .vcmp cc m a b _ _ => o.maskOut m.toNat (fun k => compareCc cc.toNat (o.val a f k) (o.val b f k))
  | .vcls m a cset _ _ => o.maskOut m.toNat (fun k => (cset.getLsbD (f.classOf o.tc (o.elem a f k)), Flags.none))
  | .vand v a b _ _ => o.eachPure v f n (fun k => Nat.land (o.elem a f k) (o.elem b f k))
  | .vor v a b _ _ => o.eachPure v f n (fun k => Nat.lor (o.elem a f k) (o.elem b f k))
  | .vxor v a b _ _ => o.eachPure v f n (fun k => Nat.xor (o.elem a f k) (o.elem b f k))
  | .vshl v a b _ _ => o.eachPure v f n (fun k =>
      if f.width ≤ o.elem b f k then 0 else o.elem a f k <<< o.elem b f k % 2 ^ f.width)
  | .vshr v a b _ _ => o.eachPure v f n (fun k =>
      if f.width ≤ o.elem b f k then 0 else o.elem a f k >>> o.elem b f k)
  | .vsra v a b _ _ => o.eachPure v f n (fun k => sraBits f.width (o.elem a f k) (o.elem b f k))
  | .vcnt v a p _ _ => o.eachPure v f n (fun k => countBits p.toNat f.width (o.elem a f k))
  | .vmov v a _ _ => o.eachPure v f n (o.elem a f)
  | .vbcast v _ _ _ => o.eachPure v f n (fun _ => o.q.a.toNat % 2 ^ f.width)
  | .vsel v a b _ _ =>
    { o with mask := BitVec.allOnes 64 : VOp }.eachPure v f n (fun k => if o.on k then o.elem a f k else o.elem b f k)
  | .vperm v a b _ _ => o.eachPure v f n (fun k =>
      let x := elemGet f.width (o.q.vreg (blockReg b o.ext (k / f.elems))) (k % f.elems)
      if x < n then o.elem a f x else 0)
  | .vswz v a p _ _ => o.eachPure v f n (fun k =>
      o.elem a f (k / f.elems * f.elems + swizzle p.toNat f.elems (k % f.elems)))
  | .vext d a _ _ => o.extract d a
  | .vextMask d m _ => .done { writes := [.g d (o.q.mreg m.toNat)], flags := [] }
  | .vins v _ _ _ => o.insert v
  | .vinsMask m _ _ => .done { writes := [.m m.toNat (BitVec.allOnes 64) o.q.a], flags := [] }
  | .vcvt v a _ _ =>
    o.each v o.p.fb (o.n * min f.elems o.p.fb.elems) (fun k =>
      convert f o.p.fb o.tc o.p.sat (o.rctx o.p.fb k) (o.elem a f k))
  | .vpack v a _ _ => o.bytesOut v (48 * o.n) (packByte (o.byteAt a))
  | .vunpk v a _ _ => o.bytesOut v (64 * o.n) (unpackCode (o.byteAt a))
  | .vqnt v a b _ _ => o.quantise v a b
  | .vred v a p _ _ => o.reduce v a p.toNat
  | .vdot v a b _ _ => o.dot v a b
  | .vscan v a p _ _ => o.scan v a (p == 1)
  | .vrng v _ _ => o.eachPure v f n (fun k => let x := extPos o.ext f.elems k; o.q.gen x.1 x.2)
  | .vtbl v a b _ _ => o.eachPure v f n (fun k => o.table a (o.elem b .z8 k))
  | .vbfly v a b _ _ => o.butterfly v a b
  | _ => .done { writes := [], flags := [] }

/-! The issue of each operation (R209). -/

def execVadd (v : Reg) (a : Reg) (b : Reg) (ext : BitVec 4) (la : BitVec 4) (s : State) : Host.Outcome State Fault Refusal :=
  run (vIssue (.vadd v a b ext la)) s
def execVsub (v : Reg) (a : Reg) (b : Reg) (ext : BitVec 4) (la : BitVec 4) (s : State) : Host.Outcome State Fault Refusal :=
  run (vIssue (.vsub v a b ext la)) s
def execVmul (v : Reg) (a : Reg) (b : Reg) (ext : BitVec 4) (la : BitVec 4) (s : State) : Host.Outcome State Fault Refusal :=
  run (vIssue (.vmul v a b ext la)) s
def execVfma (v : Reg) (a : Reg) (b : Reg) (ext : BitVec 4) (la : BitVec 4) (s : State) : Host.Outcome State Fault Refusal :=
  run (vIssue (.vfma v a b ext la)) s
def execVfms (v : Reg) (a : Reg) (b : Reg) (ext : BitVec 4) (la : BitVec 4) (s : State) : Host.Outcome State Fault Refusal :=
  run (vIssue (.vfms v a b ext la)) s
def execVdiv (v : Reg) (a : Reg) (b : Reg) (ext : BitVec 4) (la : BitVec 4) (s : State) : Host.Outcome State Fault Refusal :=
  run (vIssue (.vdiv v a b ext la)) s
def execVsqrt (v : Reg) (a : Reg) (ext : BitVec 4) (la : BitVec 4) (s : State) : Host.Outcome State Fault Refusal :=
  run (vIssue (.vsqrt v a ext la)) s
def execVmin (v : Reg) (a : Reg) (b : Reg) (ext : BitVec 4) (la : BitVec 4) (s : State) : Host.Outcome State Fault Refusal :=
  run (vIssue (.vmin v a b ext la)) s
def execVmax (v : Reg) (a : Reg) (b : Reg) (ext : BitVec 4) (la : BitVec 4) (s : State) : Host.Outcome State Fault Refusal :=
  run (vIssue (.vmax v a b ext la)) s
def execVabs (v : Reg) (a : Reg) (ext : BitVec 4) (la : BitVec 4) (s : State) : Host.Outcome State Fault Refusal :=
  run (vIssue (.vabs v a ext la)) s
def execVneg (v : Reg) (a : Reg) (ext : BitVec 4) (la : BitVec 4) (s : State) : Host.Outcome State Fault Refusal :=
  run (vIssue (.vneg v a ext la)) s
def execVcmp (cc : BitVec 2) (m : BitVec 3) (a : Reg) (b : Reg) (ext : BitVec 4) (la : BitVec 4) (s : State) : Host.Outcome State Fault Refusal :=
  run (vIssue (.vcmp cc m a b ext la)) s
def execVand (v : Reg) (a : Reg) (b : Reg) (ext : BitVec 4) (la : BitVec 4) (s : State) : Host.Outcome State Fault Refusal :=
  run (vIssue (.vand v a b ext la)) s
def execVor (v : Reg) (a : Reg) (b : Reg) (ext : BitVec 4) (la : BitVec 4) (s : State) : Host.Outcome State Fault Refusal :=
  run (vIssue (.vor v a b ext la)) s
def execVxor (v : Reg) (a : Reg) (b : Reg) (ext : BitVec 4) (la : BitVec 4) (s : State) : Host.Outcome State Fault Refusal :=
  run (vIssue (.vxor v a b ext la)) s
def execVshl (v : Reg) (a : Reg) (b : Reg) (ext : BitVec 4) (la : BitVec 4) (s : State) : Host.Outcome State Fault Refusal :=
  run (vIssue (.vshl v a b ext la)) s
def execVshr (v : Reg) (a : Reg) (b : Reg) (ext : BitVec 4) (la : BitVec 4) (s : State) : Host.Outcome State Fault Refusal :=
  run (vIssue (.vshr v a b ext la)) s
def execVsra (v : Reg) (a : Reg) (b : Reg) (ext : BitVec 4) (la : BitVec 4) (s : State) : Host.Outcome State Fault Refusal :=
  run (vIssue (.vsra v a b ext la)) s
def execVmov (v : Reg) (a : Reg) (ext : BitVec 4) (la : BitVec 4) (s : State) : Host.Outcome State Fault Refusal :=
  run (vIssue (.vmov v a ext la)) s
def execVbcast (v : Reg) (a : Reg) (ext : BitVec 4) (la : BitVec 4) (s : State) : Host.Outcome State Fault Refusal :=
  run (vIssue (.vbcast v a ext la)) s
def execVsel (v : Reg) (a : Reg) (b : Reg) (ext : BitVec 4) (la : BitVec 4) (s : State) : Host.Outcome State Fault Refusal :=
  run (vIssue (.vsel v a b ext la)) s
def execVperm (v : Reg) (a : Reg) (b : Reg) (ext : BitVec 4) (la : BitVec 4) (s : State) : Host.Outcome State Fault Refusal :=
  run (vIssue (.vperm v a b ext la)) s
def execVswz (v : Reg) (a : Reg) (p : BitVec 5) (ext : BitVec 4) (la : BitVec 4) (s : State) : Host.Outcome State Fault Refusal :=
  run (vIssue (.vswz v a p ext la)) s
def execVext (d : Reg) (a : Reg) (b : Reg) (la : BitVec 4) (s : State) : Host.Outcome State Fault Refusal :=
  run (vIssue (.vext d a b la)) s
def execVextMask (d : Reg) (m : BitVec 3) (la : BitVec 4) (s : State) : Host.Outcome State Fault Refusal :=
  run (vIssue (.vextMask d m la)) s
def execVins (v : Reg) (a : Reg) (b : Reg) (la : BitVec 4) (s : State) : Host.Outcome State Fault Refusal :=
  run (vIssue (.vins v a b la)) s
def execVinsMask (m : BitVec 3) (a : Reg) (la : BitVec 4) (s : State) : Host.Outcome State Fault Refusal :=
  run (vIssue (.vinsMask m a la)) s
def execVld (v : Reg) (a : Reg) (b : Reg) (ext : BitVec 4) (la : BitVec 4) (s : State) : Host.Outcome State Fault Refusal :=
  run (vIssue (.vld v a b ext la)) s
def execVst (v : Reg) (a : Reg) (b : Reg) (ext : BitVec 4) (s : State) : Host.Outcome State Fault Refusal :=
  run (vIssue (.vst v a b ext)) s
def execVldtm (v : Reg) (a : Reg) (b : Reg) (ext : BitVec 4) (la : BitVec 4) (s : State) : Host.Outcome State Fault Refusal :=
  run (vIssue (.vldtm v a b ext la)) s
def execVsttm (v : Reg) (a : Reg) (b : Reg) (ext : BitVec 4) (s : State) : Host.Outcome State Fault Refusal :=
  run (vIssue (.vsttm v a b ext)) s
def execVgath (v : Reg) (a : Reg) (b : Reg) (ext : BitVec 4) (la : BitVec 4) (s : State) : Host.Outcome State Fault Refusal :=
  run (vIssue (.vgath v a b ext la)) s
def execVscat (v : Reg) (a : Reg) (b : Reg) (ext : BitVec 4) (s : State) : Host.Outcome State Fault Refusal :=
  run (vIssue (.vscat v a b ext)) s
def execVcvt (v : Reg) (a : Reg) (ext : BitVec 4) (la : BitVec 4) (s : State) : Host.Outcome State Fault Refusal :=
  run (vIssue (.vcvt v a ext la)) s
def execVpack (v : Reg) (a : Reg) (ext : BitVec 4) (la : BitVec 4) (s : State) : Host.Outcome State Fault Refusal :=
  run (vIssue (.vpack v a ext la)) s
def execVunpk (v : Reg) (a : Reg) (ext : BitVec 4) (la : BitVec 4) (s : State) : Host.Outcome State Fault Refusal :=
  run (vIssue (.vunpk v a ext la)) s
def execVqnt (v : Reg) (a : Reg) (b : Reg) (ext : BitVec 4) (la : BitVec 4) (s : State) : Host.Outcome State Fault Refusal :=
  run (vIssue (.vqnt v a b ext la)) s
def execVred (v : Reg) (a : Reg) (p : BitVec 5) (ext : BitVec 4) (la : BitVec 4) (s : State) : Host.Outcome State Fault Refusal :=
  run (vIssue (.vred v a p ext la)) s
def execVdot (v : Reg) (a : Reg) (b : Reg) (ext : BitVec 4) (la : BitVec 4) (s : State) : Host.Outcome State Fault Refusal :=
  run (vIssue (.vdot v a b ext la)) s
def execVrng (v : Reg) (ext : BitVec 4) (la : BitVec 4) (s : State) : Host.Outcome State Fault Refusal :=
  run (vIssue (.vrng v ext la)) s
def execVcls (m : BitVec 3) (a : Reg) (cset : BitVec 5) (ext : BitVec 4) (la : BitVec 4) (s : State) : Host.Outcome State Fault Refusal :=
  run (vIssue (.vcls m a cset ext la)) s
def execVtbl (v : Reg) (a : Reg) (b : Reg) (ext : BitVec 4) (la : BitVec 4) (s : State) : Host.Outcome State Fault Refusal :=
  run (vIssue (.vtbl v a b ext la)) s
def execVbfly (v : Reg) (a : Reg) (b : Reg) (ext : BitVec 4) (la : BitVec 4) (s : State) : Host.Outcome State Fault Refusal :=
  run (vIssue (.vbfly v a b ext la)) s
def execVcnt (v : Reg) (a : Reg) (p : BitVec 5) (ext : BitVec 4) (la : BitVec 4) (s : State) : Host.Outcome State Fault Refusal :=
  run (vIssue (.vcnt v a p ext la)) s
def execVscan (v : Reg) (a : Reg) (p : BitVec 5) (ext : BitVec 4) (la : BitVec 4) (s : State) : Host.Outcome State Fault Refusal :=
  run (vIssue (.vscan v a p ext la)) s

/-- FMT (R216): it sets the pending prefix, and with its instruction counts as one (R152). -/
def execFmt (f g : BitVec 5) (r : BitVec 3) (t : BitVec 1) (m : BitVec 3) (k : BitVec 2) (s : State) :
    Host.Outcome State Fault Refusal :=
  run (do
    noPrefix
    let w : IWord := (encode (.fmt f g r t m k)).getD 0
    modify (fun s => s.modMe (fun x =>
      let y := (x.setSreg 0x024 ((1 : Word) <<< 63 ||| w.setWidth 64)).advance (cidSlot s.cur)
      { y with pos := x.pos, stepPend := x.stepPend }))) s

end Sys2Proof.Machine
end

