-- ==== Sys2Proof/Machine/Matrix.lean ====
section
/-! DEFINITION. The issue of engine commands, the operand rings, and the matrix engine (R97-R99, R241-R256,
R82-R84). -/

namespace Sys2Proof.Machine

/-! The issue of a command (R242). -/

/-- A command whose issue checks fail has read nothing: they come before its reads (R242). -/
def keepOnTrap {α : Type} (m : M α) : M α := fun s =>
  match m s with
  | .error (.trap c tv) t => .error (.trap c tv) (t.unpop s)
  | r => r

/-- The issue checks of a command on its operands: a cause with its trap value, or none. -/
abbrev Check := State → Word → Word → Option (Cause × Word)

/-- No issue check. -/
def noCheck : Check := fun _ _ _ => none

/-- Read the operands of a command and make its issue checks. -/
def readChecked (sa sb : Option Reg) (chk : Check) : M (Word × Word) :=
  keepOnTrap (do
    let a ← readOpt sa
    let b ← readOpt sb
    let s ← get
    match chk s a b with
    | some (c, tv) => trap c tv
    | none => return (a, b))

/-- Issue a command: its checks, its reads, and the push; in a task a command marked deferred is held back
(R243). -/
def cIssue (i : Instr) (sa sb : Option Reg) (chk : Check) (deferred : Bool) : M Unit := do
  noPrefix
  gate (sa.toList ++ sb.toList) [] true
  let (a, b) ← readChecked sa sb chk
  let s ← get
  if deferred && s.inTask then defer i a b else pushCop i 0 a b 0 none false
  next

/-- A command that takes a sequence number and leaves the queue at once: its unit has accepted it. -/
def takeSeq (i : Instr) : M Unit := fun s =>
  if s.pushBlocked then .error (.wait .fullQueue 0) s
  else .ok () ((s.modCore s.myCore (fun k =>
    { k.addRing { seq := k.seq, pc := s.me.pc, word := (encode i).getD 0 } with seq := (k.seq + 1) % 65536 })).countPush)

/-- A command of the issuing context that is complete as it issues counts on its engine (R273). -/
def countMine (i : Instr) : M Unit := fun s => .ok () (s.countOn s.cur (s.tagOf s.cur) i)

/-- A command that is not pushed stalls all the same while its context's coprocessor instructions do (R272, R312). -/
def copGate : M Unit := waitUntil (fun s => !s.copHeld) .fullQueue 0

/-! Operand rings (R97-R99). -/

/-- Whether the geometry is valid (R99). -/
def Ring.valid (r : Ring) : Bool :=
  decide (r.base % 128 = 0) && decide (r.tileBytes % 128 = 0) && decide (128 ≤ r.tileBytes) && decide (r.tileBytes ≤ 65536) &&
  decide (0 < r.size) && decide (r.size % r.tileBytes = 0) && decide (r.base + r.size ≤ 0x100000) &&
  decide (r.head < r.modulus) && decide (r.tail < r.modulus) && decide (r.held ≤ r.slots)

/-- Advance a counter of ring k by n (R98). -/
def State.ringHead (s : State) (t k n : Nat) : State :=
  s.modTile t (fun x => x.setSreg (0x203 + 8 * k) (BitVec.ofNat 64 (((s.ring t k).head + n) % (s.ring t k).modulus)))
def State.ringTail (s : State) (t k n : Nat) : State :=
  s.modTile t (fun x => x.setSreg (0x204 + 8 * k) (BitVec.ofNat 64 (((s.ring t k).tail + n) % (s.ring t k).modulus)))

/-- The pending-pop count of ring k (R98). -/
def State.pendingPops (s : State) (t k : Nat) : Nat :=
  ((s.tile t).mrun.map (fun r => (r.pops.filter (· == k)).length)).sum

/-! Operand tiles (R247, R71). -/

/-- Cut a list into k pieces of n. -/
def pieces {α : Type} (n : Nat) : Nat → List α → List (List α)
  | 0, _ => []
  | k + 1, xs => xs.take n :: pieces n k (xs.drop n)

/-- The little-endian 16-bit codes of bytes. -/
def codes16 : List Byte → List Nat
  | a :: b :: bs => (a.toNat + 256 * b.toNat) :: codes16 bs
  | _ => []

/-- The L6 codes of packed bytes (R71). -/
def codesL6 : List Byte → List Nat
  | a :: b :: c :: bs =>
    let x := a.toNat + 256 * b.toNat + 65536 * c.toNat
    x % 64 :: x / 64 % 64 :: x / 4096 % 64 :: x / 262144 % 64 :: codesL6 bs
  | _ => []

/-- The codes of one row of a tile. -/
def rowCodes (f : Fmt) (bs : List Byte) : List Nat :=
  if f = .l6 then codesL6 bs else if f.width = 16 then codes16 bs else bs.map (fun b => b.toNat)

/-- Row bytes and tile bytes of a format. -/
def rowBytes (f : Fmt) : Nat := if f = .l6 then 96 else 128
def tileBytes (f : Fmt) : Nat := 32 * rowBytes f

/-- The rows of a tile. -/
def tileRows (f : Fmt) (bs : List Byte) : List (List Nat) := (pieces (rowBytes f) 32 bs).map (rowCodes f)

/-- The permitted operand pairs (R247). -/
def pairOk (fa fb : Fmt) : Bool :=
  (fa.isFp8 && fb.isFp8) || (fa == .l6 && fb == .l6) || ((fa == .i8 || fa == .z8) && (fb == .i8 || fb == .z8)) ||
  (fa == .f16 && fb == .f16) || (fa == .bf16 && fb == .bf16)

/-! The block update (R82-R84). -/

/-- The scale of block j: none stands for the NaN scale. -/
def scaleOf (w : Word) (j : Nat) : Option Int :=
  let x := w.toNat / 65536 ^ j % 65536
  if x ≤ 508 then some ((x : Int) - 254) else none

/-- Round to F32 with RNE. -/
def roundF32 (x : Num) : Nat × Flags := Fmt.round .f32 false false { rm := .rne, g := 0 } x

/-- One output element of 8-bit floating or L6 inputs: one rounding of the accumulator and every product,
each scaled by its block's scale. -/
def mmElem8 (fa fb : Fmt) (tc : Bool) (scale : Nat → Int) (acc : Nat) (xs ys : List Nat) : Nat × Flags :=
  let ps := ((xs.zip ys).zipIdx).map (fun (p : (Nat × Nat) × Nat) =>
    let r := exactProduct fa fb tc p.1.1 p.1.2
    (r.1.scale (scale (p.2 / 32)), r.2))
  let t := exactSum .rne (Fmt.value .f32 tc acc :: ps.map (fun p => p.1))
  let r := roundF32 t.1
  (r.1, ps.foldl (fun f p => f ||| p.2) (t.2 ||| r.2))

/-- One output element of 16-bit inputs: four rounded group sums added in order (R83). -/
def mmElem16 (f : Fmt) (scale : Nat → Int) (acc : Nat) (xs ys : List Nat) : Nat × Flags :=
  ((pieces 16 4 (xs.zip ys)).zipIdx).foldl (fun (a : Nat × Flags) (g : List (Nat × Nat) × Nat) =>
    let ps := g.1.map (fun p => exactProduct f f false p.1 p.2)
    let t := exactSum .rne (ps.map (fun p => p.1))
    let r := roundF32 (t.1.scale (scale (g.2 / 2)))
    let u := exactSum .rne [Fmt.value .f32 false a.1, Fmt.value .f32 false r.1]
    let w := roundF32 u.1
    (w.1, ps.foldl (fun f p => f ||| p.2) (a.2 ||| t.2 ||| r.2 ||| u.2 ||| w.2))) (acc, Flags.none)

/-- One output element of integer inputs (R82). -/
def mmElemInt (fa fb : Fmt) (sat : Bool) (acc : Nat) (xs ys : List Nat) : Nat :=
  let s := (xs.zip ys).foldl (fun (t : Int) p => t + fa.intValue p.1 * fb.intValue p.2) 0
  Fmt.ofInt .i32 sat (Fmt.intValue .i32 acc + s)

/-- One output element; scale is none for MM and MMP, and the popped word for MMS. A NaN scale makes every
element NaN; the spec does not say whether its operands then still raise flags, and here they raise none (R84; log 70). -/
def mmElem (p : Pfx) (tc : Bool) (scale : Option Word) (acc : Nat) (xs ys : List Nat) : Nat × Flags :=
  let js := if p.fa.width = 16 then 2 else 4
  match scale with
  | none =>
    if p.fa.isInt then (mmElemInt p.fa p.fb p.sat acc xs ys, Flags.none)
    else if p.fa.width = 16 then mmElem16 p.fa (fun _ => 0) acc xs ys
    else mmElem8 p.fa p.fb tc (fun _ => 0) acc xs ys
  | some w =>
    if (List.range js).any (fun j => (scaleOf w j).isNone) then (Fmt.nanCode .f32 false, Flags.none)
    else if p.fa.width = 16 then mmElem16 p.fa (fun j => (scaleOf w j).getD 0) acc xs ys
    else mmElem8 p.fa p.fb tc (fun j => (scaleOf w j).getD 0) acc xs ys

/-- Update the 32 x 32 block at (row0, col0) of a tile, with the flags of its elements, numbered along the rows. -/
def State.mmBlock (s : State) (t row0 col0 : Nat) (p : Pfx) (tc : Bool) (scale : Option Word)
    (arows brows : List (List Nat)) : State × List (Nat × Flags) :=
  let one (r : State × List (Nat × Flags)) (x : (List Nat × Nat) × (List Nat × Nat)) : State × List (Nat × Flags) :=
    let row := row0 + x.1.2
    let col := col0 + x.2.2
    let e := mmElem p tc scale (r.1.accWord t row col).toNat x.1.1 x.2.1
    (r.1.setAcc t row col (BitVec.ofNat 32 e.1), (x.1.2 * 32 + x.2.2, e.2) :: r.2)
  let cells := (arows.zipIdx).flatMap (fun (a : List Nat × Nat) => (brows.zipIdx).map (fun (b : List Nat × Nat) => (a, b)))
  cells.foldl one (s, [])

/-! Issue of the matrix commands (R246-R252). -/

/-- The prefix fields of MM, MMS and MMP, and their default formats (R247). -/
def useMm : PfxUse := { fmt := true, rm := false, sat := true, m := false, bs := false }
def mmFormats : Fmt × Fmt := (.e4m3, .e4m3)

/-- The origin check of a coordinate word: bits beyond row0, col0 and those allowed are zero, and both are
multiples of 32 (R248). -/
def originOk (b : Word) (tag : Bool) : Bool :=
  decide (b.toNat % 128 % 32 = 0) && decide (b.toNat / 256 % 256 % 32 = 0) && !(b.getLsbD 7) &&
  decide (b.toNat / 65536 < (if tag then 256 else 1))

/-- The operand and coordinate checks of MM, MMS and MMP (R248). -/
def mmCheck (tag : Bool) : Check := fun _ a b =>
  if 256 ≤ a.toNat ∨ !originOk b tag then some (.accRange, 0) else none

/-- The issue of MM, MMS and MMP; MMS also pops a word from qk (R248). -/
def mmIssue (i : Instr) (a b : Reg) (scaled tag : Bool) : M Unit := do
  let w ← takePfx useMm
  gate ([a, b] ++ (if scaled then [28] else [])) [] true
  let (x, y) ← readChecked (some a) (some b) (mmCheck tag)
  let q ← if scaled then readG 28 else pure 0
  pushCop i w x y q none false
  next

def execMm (a b : Reg) (s : State) : Host.Outcome State Fault Refusal := run (mmIssue (.mm a b) a b false false) s
def execMms (a b : Reg) (s : State) : Host.Outcome State Fault Refusal := run (mmIssue (.mms a b) a b true false) s
def execMmp (a b : Reg) (s : State) : Host.Outcome State Fault Refusal := run (mmIssue (.mmp a b) a b false true) s

def execMzero (a : Reg) (s : State) : Host.Outcome State Fault Refusal :=
  run (cIssue (.mzero a) (some a) none (fun _ x _ => if originOk x false then none else some (.accRange, 0)) false) s

/-- The geometry word of MACR, MACW and MACST (R250). -/
structure Geo where
  row0  : Nat
  col0  : Nat
  k     : Nat
  walk  : Bool
  src   : Bool
  fmt   : Nat
  rm    : Nat
  sat   : Bool
  clear : Bool
deriving DecidableEq, Repr

def geoOf (b : Word) : Geo :=
  { row0 := b.toNat % 128, col0 := b.toNat / 256 % 256, k := b.toNat / 65536 % 32 + 1, walk := b.getLsbD 21,
    src := b.getLsbD 23, fmt := b.toNat / 2 ^ 24 % 16, rm := b.toNat / 2 ^ 28 % 8, sat := b.getLsbD 31,
    clear := b.getLsbD 32 }

/-- The zero bits and the region of a geometry word: allowed names the bits that may be set. -/
def geoOk (b : Word) (allowed : Nat) (rows cols : Nat) : Bool :=
  Nat.land b.toNat allowed == b.toNat && decide (b.toNat / 256 % 16 = 0) &&
  decide (b.toNat % 128 + rows ≤ 128) && decide (b.toNat / 256 % 256 + cols ≤ 256)

/-- The issue checks of MACR and MACW, for registers from v. -/
def macCheck (v : Reg) (b : Word) (clear : Bool) : Option (Cause × Word) :=
  let g := geoOf b
  let rows := if g.walk then 1 else g.k
  let cols := if g.walk then 16 * g.k else 16
  if 32 < v.toNat + g.k then some (.blockExtent, 0)
  else if geoOk b (0x3FFF7F + (if clear then 2 ^ 32 else 0)) rows cols then none else some (.accRange, 0)

def execMacr (v : Reg) (b : Reg) (la : BitVec 4) (s : State) : Host.Outcome State Fault Refusal :=
  run (do
    noPrefix
    gate [b] [] true
    let (_, y) ← readChecked none (some b) (fun _ _ y => macCheck v y true)
    pushCop (.macr v b la) 0 0 y 0 (some la) false
    next) s

def execMacw (v : Reg) (b : Reg) (s : State) : Host.Outcome State Fault Refusal :=
  run (cIssue (.macw v b) none (some b) (fun _ _ y => macCheck v y false) false) s

/-- The issue check of MACST's geometry word. -/
def macstCheck : Check := fun _ _ b =>
  let g := geoOf b
  if geoOk b 0x1FF9FFF7F g.k 32 ∧ g.rm ≠ 6 ∧ g.fmt ≠ 0xB ∧ g.fmt ≠ 0xF then none else some (.accRange, 0)

def execMacst (a b : Reg) (s : State) : Host.Outcome State Fault Refusal :=
  run (cIssue (.macst a b) (some a) (some b) macstCheck false) s

/-- The issue check of MCMD (R251): the required capabilities, the zero bits and the subcommand. -/
def mcmdCheck : Check := fun _ a _ =>
  if a.toNat / 2 ^ 56 ≠ 0 ∨ a.toNat / 16 % 2 ^ 44 ≠ 0 ∨ 3 ≤ a.toNat % 16 then some (.capability, 0) else none

/-- MCMD: the word names CHECK, ZALL and PCANCEL by the value of gA. -/
def execMcmdCheck (a : Reg) (s : State) : Host.Outcome State Fault Refusal :=
  run (cIssue (.mcmdCheck a) (some a) none mcmdCheck false) s
/-- MCMD ZALL (R251), as a row of its own: gA holds subcommand 1. -/
def execMcmdZall (a : Reg) (s : State) : Host.Outcome State Fault Refusal :=
  run (cIssue (.mcmdZall a) (some a) none mcmdCheck false) s
/-- MCMD PCANCEL (R251): gA holds subcommand 2. -/
def execMcmdPcancel (a : Reg) (s : State) : Host.Outcome State Fault Refusal :=
  run (cIssue (.mcmdPcancel a) (some a) none mcmdCheck false) s

/-- The issue checks of MRING (R252). -/
def mringCheck : Check := fun _ a b =>
  if Nat.land a.toNat 0x37 ≠ a.toNat ∨ a.toNat / 16 = 3 then some (.reserved, 0)
  else if a.toNat / 16 = 2 then (if b = 0 then none else some (.ringGeometry, 0))
  else if b = 0 ∨ 65536 < b.toNat then some (.ringGeometry, 0) else none

/-- MRING: the word names POP, PUSH and RESET by the value of gA. -/
def execMringPop (a b : Reg) (s : State) : Host.Outcome State Fault Refusal :=
  run (cIssue (.mringPop a b) (some a) (some b) mringCheck false) s
/-- MRING PUSH (R252): gA holds operation 1. -/
def execMringPush (a b : Reg) (s : State) : Host.Outcome State Fault Refusal :=
  run (cIssue (.mringPush a b) (some a) (some b) mringCheck false) s
/-- MRING RESET (R252): gA holds operation 2. -/
def execMringReset (a b : Reg) (s : State) : Host.Outcome State Fault Refusal :=
  run (cIssue (.mringReset a b) (some a) (some b) mringCheck false) s

/-- MWAIT (R253, R312): it waits for the drain, and so for every earlier matrix command; what was raised is reported before it goes
on. -/
def execMwait (s : State) : Host.Outcome State Fault Refusal :=
  run (do
    noPrefix
    drain
    takeSeq .mwait
    countMine .mwait
    next) s

/-! The start of a command (R98, R248-R252). -/

/-- The rings and pop flags of an operand word (R248). -/
def mmRings (a : Word) : Nat × Nat := (a.toNat % 8, a.toNat / 16 % 8)
def mmPops (a : Word) : List Nat :=
  (if a.getLsbD 3 then [a.toNat % 8] else []) ++ (if a.getLsbD 7 then [a.toNat / 16 % 8] else [])

/-- The scale word of a command: MMS has one. -/
def QEntry.scale (q : QEntry) : Option Word := match q.inst with | .mms _ _ => some q.qkw | _ => none

/-- The formats and sat of MM, MMS and MMP. -/
def QEntry.mmPfx (q : QEntry) : Pfx := pfxOf mmFormats q.pfx

/-- Whether an entry was issued before another one of the same context. -/
def QEntry.before (a b : QEntry) : Bool := a.cid == b.cid && a.tag == b.tag && decide (a.ord < b.ord)

/-- What an attempt to start a command gives: it cannot start yet, with what the attempt leaves; it raises a late cause; or it starts or
is done. -/
inductive Started where
  | wait (s : State)
  | bad (c : Cause) (tval : Word)
  | ok (s : State)

/-- The partner that %mgrp names for a tile (R246). -/
def State.partnerOf (s : State) (t : Nat) : Nat := (((s.tile t).sreg 0x241).extractLsb' 32 10).toNat

/-- Start MM, MMS or MMP: the formats and the ring geometry before any wait, then the slots; the operand tiles
are read at the start. An MMP sends its B tile to its partner's pair buffer (R249). -/
def State.startMm (s : State) (t : Nat) (q : QEntry) (tc : Bool) : Started :=
  let p := q.mmPfx
  let (ka, kb) := mmRings q.a
  let ra := s.ring t ka
  let rb := s.ring t kb
  let mmp := match q.inst with | .mmp _ _ => true | _ => false
  if !pairOk p.fa p.fb ∨ (q.scale.isSome ∧ p.fa.isInt) then .bad .operandFormat 0
  else if !ra.valid ∨ !rb.valid ∨ ra.tileBytes < tileBytes p.fa ∨ rb.tileBytes < tileBytes p.fb then .bad .ringGeometry 0
  else
    let pa := s.pendingPops t ka
    let pb := s.pendingPops t kb + (if ka = kb then 1 else 0)
    if ra.held ≤ pa ∨ rb.held ≤ pb then .wait s
    else
      let ab := s.tmBytes t ra.view (ra.slotOff (ra.head + pa)) (tileBytes p.fa)
      let bb := s.tmBytes t rb.view (rb.slotOff (rb.head + pb)) (tileBytes p.fb)
      let r : MRun := { q := q, abyte := ab, bbyte := bb, pops := mmPops q.a, paired := !mmp, tc := tc, partner := s.partnerOf t }
      let s' := s.modTile t (fun x => { x with mrun := x.mrun ++ [r] })
      if !mmp then .ok s'
      else
        let g := (s.tile t).sreg 0x241
        let u := s.partnerOf t
        if !(g.getLsbD 63) ∨ !s.sameComb t u ∨ u = t then .bad .pairAbort 0
        else if (s.tile u).half.isSome then .wait s
        else
          let h : PairHalf := { from_ := t, tag := q.b.toNat / 65536 % 256, pfx := q.pfx, bytes := bb, since := s.cal }
          .ok (s'.modTile u (fun x => { x with half := some h }))

/-- The accumulator words of MACR and MACW: for register i its row and first column. -/
def Geo.span (g : Geo) (i : Nat) : Nat × Nat := if g.walk then (g.row0, g.col0 + 16 * i) else (g.row0 + i, g.col0)

/-- Zero the words of rows and columns of the accumulator store. -/
def State.zeroAcc (s : State) (t row0 rows col0 cols : Nat) : State :=
  { s with acc := s.acc.filter (fun p =>
      !(p.1 / 32768 == t && decide (row0 ≤ p.1 / 256 % 128) && decide (p.1 / 256 % 128 < row0 + rows) &&
        decide (col0 ≤ p.1 % 256) && decide (p.1 % 256 < col0 + cols))) }

/-- The 512 bits of sixteen accumulator words. -/
def State.accRow (s : State) (t row col : Nat) : VWord :=
  (List.range 16).foldl (fun (v : VWord) j => v ||| elemPut 32 j (s.accWord t row (col + j)).toNat) 0

/-- MACR. -/
def State.macr (s : State) (t : Nat) (q : QEntry) (v : Reg) : State :=
  let g := geoOf q.b
  let ws := (List.range g.k).map (fun i =>
    RegWrite.v (v.toNat + i) (BitVec.allOnes 512) (s.accRow t (g.span i).1 (g.span i).2))
  let s := s.deliverWrites q ws
  if g.clear then (List.range g.k).foldl (fun s i => s.zeroAcc t (g.span i).1 1 (g.span i).2 16) s else s

/-- MACW. -/
def State.macw (s : State) (t : Nat) (q : QEntry) (v : Reg) : State :=
  let g := geoOf q.b
  (List.range g.k).foldl (fun s i => (List.range 16).foldl (fun s j =>
    s.setAcc t (g.span i).1 ((g.span i).2 + j) (BitVec.ofNat 32 (elemGet 32 (q.vreg (v.toNat + i)) j))) s) s

/-- Element (i, j) of MACST's region, converted (R79, R250). -/
def macstElem (q : QEntry) (g : Geo) (tc : Bool) (w : BitVec 32) (i j : Nat) : Nat × Flags :=
  let f := fmtAt g.fmt
  let rm := q.mode g.rm
  let r : RCtx := { rm := rm, g := if rm = .rsk then q.gen i j else 0 }
  if g.src then convert .i32 f tc (g.sat && f.isInt) r w.toNat else f.deliver tc false r (Fmt.value .f32 tc w.toNat)

/-- The bytes of codes of a format, L6 packed. -/
def codeBytes (f : Fmt) (cs : List Nat) : List Byte :=
  if f = .l6 then (List.range (cs.length / 4 * 3)).map (fun i => BitVec.ofNat 8 (packByte (fun k => cs.getD k 0) i))
  else cs.flatMap (fun c => leBytes (f.width / 8) c)

/-- The flags of an engine command's elements go to its context, and the first element that raises an enabled cause reports it late
(R76, R215): one whose flags raise one, or the element at which another cause ended the command. An engine command's report names member 0 and
element 0 (log 70). -/
def State.raiseOr (s : State) (q : QEntry) (fls : List (Nat × Flags)) (ended : Option (Nat × Cause × Word)) : State :=
  let s := s.orFlagsOf q (fls.foldl (fun (f : Flags) p => f ||| p.2) Flags.none)
  let traps := if q.rel.isSome then some (q.sreg 0x021) else (s.owner q).map (fun c => (s.ctx c).sreg 0x021)
  let upTo := match ended with | some e => fls.filter (fun p => decide (p.1 ≤ e.1)) | none => fls
  match traps.bind (fun x => firstCause upTo (x.setWidth 5)), ended with
  | some (_, e), _ => s.raiseLate q e 0 0 0
  | none, some (_, e, tv) => s.raiseLate q e 0 0 tv
  | none, none => s
def State.raiseFirst (s : State) (q : QEntry) (fls : List (Nat × Flags)) : State := s.raiseOr q fls none

/-- MACST: its checks come late, and then it writes the region. -/
def State.macst (s : State) (t : Nat) (q : QEntry) (tc : Bool) : Started :=
  let g := geoOf q.b
  let p := q.a
  let f := fmtAt g.fmt
  if !isTm p then .bad .accessKind p
  else match checkPtr s q.cid p 8 .write with
    | some c => .bad c p
    | none =>
      let n := g.k * (if f = .l6 then 24 else 32 * (f.width / 8))
      if 0x100000 < ptrOff p + n then .bad .regionBounds p
      else
        let es := (List.range g.k).flatMap (fun i => (List.range 32).map (fun j =>
          macstElem q g tc (s.accWord t (g.row0 + i) (g.col0 + j)) i j))
        let fls := es.zipIdx.map (fun (e : (Nat × Flags) × Nat) => (e.2, e.1.2))
        let s := s.setTmBytes (ptrTile t p) (ptrView p) (ptrOff p) (codeBytes f (es.map (fun e => e.1)))
        let s := if g.clear then s.zeroAcc t g.row0 g.k g.col0 32 else s
        .ok (s.raiseFirst q fls)

/-- MRING: the change is made when its wait is over (R252). RESET makes a ring whose counters are out of range usable again, and raises
no cause for its geometry: R99 names every command that uses such a ring, and R252 gives RESET no such check (log 70). -/
def State.mring (s : State) (t : Nat) (q : QEntry) : Started :=
  let k := q.a.toNat % 8
  let n := q.b.toNat
  let r := s.ring t k
  let op := q.a.toNat / 16
  if op = 2 then
    if (s.tile t).mrun.any (fun m => m.q.rings.contains k) then .wait s
    else .ok (s.modTile t (fun x => (x.setSreg (0x203 + 8 * k) 0).setSreg (0x204 + 8 * k) 0))
  else if !r.valid then .bad .ringGeometry 0
  else if op = 0 then
    if r.held < s.pendingPops t k + n then .wait s else .ok (s.ringHead t k n)
  else if r.slots < n then .bad .ringGeometry 0
  else if r.slots < r.held + n then .wait s else .ok (s.ringTail t k n)

/-- Abort an MMP that has started: it leaves the engine and reports the pair abort; the half it sent is
dropped (R249). -/
def State.abortMmp (s : State) (t : Nat) (r : MRun) : State :=
  let s := s.modTile t (fun x => { x with mrun := x.mrun.erase r })
  let s := s.modTile r.partner (fun x => if x.half.any (fun h => h.from_ == t) then { x with half := none } else x)
  (s.countDone r.q).raiseLate r.q .pairAbort 0 0 0

/-- Whether a started command is an MMP that has not committed. -/
def MRun.open (r : MRun) : Bool := !r.paired

/-- The open MMP of a tile. -/
def State.openMmp (s : State) (t : Nat) : Option MRun := (s.tile t).mrun.find? (fun r => r.open)

/-- The half that waits in a tile's pair buffer is dropped, and its side, which has started, aborts (R249). -/
def State.abortHalf (s : State) (t : Nat) (h : PairHalf) : State :=
  match s.openMmp h.from_ with
  | some r => s.abortMmp h.from_ r
  | none => s.modTile t (fun x => { x with half := none })

/-- Abort the MMP whose half waits in a tile's pair buffer, where it comes from that partner: its side has started (R249). -/
def State.abortPartner (s : State) (t partner : Nat) : State :=
  match (s.tile t).half with
  | none => s
  | some h => if h.from_ = partner then s.abortHalf t h else s

/-- Abort a pair by one side that has started: its partner aborts too when it has started (R249). -/
def State.abortPair (s : State) (t : Nat) (r : MRun) : State := (s.abortPartner t r.partner).abortMmp t r

/-- Abort every pair of a tile's context that has not committed (R249, R251). -/
def State.cancelPairs (s : State) (t cid : Nat) : State :=
  ((s.tile t).mrun.filter (fun r => r.open && r.q.cid == cid)).foldl (fun s r => s.abortPair t r) s

/-- MCMD's effect by its subcommand. -/
def State.mcmd (s : State) (t : Nat) (q : QEntry) : Started :=
  if q.a.toNat % 16 = 1 then (if (s.tile t).mrun.isEmpty then .ok (s.zeroAcc t 0 128 0 256) else .wait s)
  else if q.a.toNat % 16 = 2 then .ok (s.cancelPairs t q.cid)
  else .ok s

/-- MATRIX_COMMAND_RETIRE (R98, R248): the oldest started command writes its block, its flags go to its context
and its pops advance the ring heads. -/
def State.matrixRetire (s : State) (t : Nat) : State :=
  match (s.tile t).mrun with
  | [] => s
  | r :: rest =>
    if r.open then s
    else
      let p := r.q.mmPfx
      let b := r.q.b.toNat
      let (s, fl) := s.mmBlock t (b % 128) (b / 256 % 256) p r.tc r.q.scale (tileRows p.fa r.abyte) (tileRows p.fb r.bbyte)
      let s := s.modTile t (fun x => { x with mrun := rest })
      let s := r.pops.foldl (fun s k => s.ringHead t k 1) s
      (s.countDone r.q).raiseFirst r.q fl

def execMatrixCommandRetire (tile : Nat) (s : State) : Host.Outcome State Fault Refusal := .next (s.matrixRetire tile)

/-! Pairs (R249). -/

/-- MMP_PAIR_COMMIT: when each side holds the other's B tile and the halves agree, both sides go on to write
their block with the partner's B tile; halves that differ abort both. -/
def State.pairCommit (s : State) (t : Nat) : State :=
  match (s.tile t).half with
  | none => s
  | some h =>
    let u := h.from_
    match s.openMmp t, s.openMmp u, (s.tile u).half with
    | some r, some r', some h' =>
      if h'.from_ ≠ t then s
      else
        let same := r.q.b.toNat / 65536 % 256 == h.tag && r.q.mmPfx.fa == r'.q.mmPfx.fa && r.q.mmPfx.fb == r'.q.mmPfx.fb &&
          r.q.mmPfx.sat == r'.q.mmPfx.sat
        if !same then (s.abortMmp t r).abortMmp u r'
        else
          let pair (x : Tile) (m : MRun) (bs : List Byte) : Tile :=
            { x with half := none, mrun := x.mrun.map (fun y => if y = m then { y with paired := true, bbyte := bs } else y) }
          (s.modTile t (fun x => pair x r h.bytes)).modTile u (fun x => pair x r' h'.bytes)
    | _, _, _ => s

def execMmpPairCommit (tile : Nat) (s : State) : Host.Outcome State Fault Refusal := .next (s.pairCommit tile)

/-- Whether a tile has started an MMP with a partner that has not committed (R249). -/
def State.pairStarted (s : State) (t u : Nat) : Bool := (s.tile t).mrun.any (fun r => r.open && r.partner == u)

/-- MMP_PAIR_TIMEOUT: a half that has waited 1,024 calendar cycles without its partner's start aborts its
sender's MMP. An MMP that the tile has started with another partner is no start of that pair. -/
def State.pairTimeout (s : State) (t : Nat) : State :=
  match (s.tile t).half with
  | none => s
  | some h =>
    if s.cal < h.since + 1024 ∨ s.pairStarted t h.from_ then s else s.abortHalf t h

def execMmpPairTimeout (tile : Nat) (s : State) : Host.Outcome State Fault Refusal := .next (s.pairTimeout tile)

end Sys2Proof.Machine
end

