-- ==== Sys2Proof/Machine/Mover.lean ====
section
/-! DEFINITION. How an engine reaches memory: the check of a byte's place, reading and writing it, and the
count of landed bytes on a fill word (R92, R100, R101, R122, R244, R245). -/

namespace Sys2Proof.Machine

/-- Where bytes lie: in the TM of a tile, through a view, or in shared memory. -/
inductive Place where
  | tm (t view off : Nat)
  | mem (l : Leaf)
deriving DecidableEq, Repr

/-- What the check of an engine's access gives: a place, a late cause with its trap value, or a wait. -/
inductive Found where
  | ok (p : Place) (s : State)
  | bad (c : Cause) (tval : Word) (s : State)
  | wait (s : State)

/-- The shared lines that a scope lets a command reach under a %hv.scope (R244, R304): a space whose bit of it is 0 lies outside the
reach (log 71). A command that has no scope of its own reaches everything, for which 4 stands. -/
def inReach (policy : Word) (sc pa : Nat) : Bool :=
  match paSpace pa with
  | 0 => true
  | 0xA => decide (2 ≤ sc)
  | 8 => decide (4 ≤ sc) || (sc == 3 && policy.getLsbD 1)
  | 9 => decide (4 ≤ sc) || (sc == 3 && policy.getLsbD 2)
  | _ => false

/-- What an attempt that must wait leaves: the requests it has sent, with the companion words they set (R335), and the misses it has
registered. It is made again. -/
def State.asked (s t : State) : State :=
  let new := t.remotes.filter (fun r => decide (s.nextReq ≤ r.id))
  let s := (new.filter (fun r => r.isWrite && r.tag == 0x10000)).foldl (fun (s : State) r => s.setMemWord r.pa (t.memWord r.pa)) s
  { s with nextReq := t.nextReq, hives := t.hives, remotes := s.remotes ++ new }

/-- Run f with the special registers that an entry captured at its issue in place of its context's; what a
TLBW answers stays with the context. -/
def State.withSr (s : State) (q : QEntry) : State := s.modCtx q.cid (fun x => { x with sr := q.sr })
def State.unSr (s : State) (q : QEntry) (x : Ctx) : State :=
  s.setCtx q.cid { x with answers := (s.ctx q.cid).answers }

/-- The place of the n bytes at distance d from a pointer, checked with an access size and kind as R92 states
for the captured bounds. A TM offset outside the tile memory is a region-bounds cause, and a line outside the
reach of the scope an access-kind cause (R244). An access waits for links that carry it and a slice that answers it (R354, R366). -/
def State.place (s : State) (q : QEntry) (sc : Nat) (p : Word) (d : Int) (n size : Nat) (k : AKind) : Found :=
  let x := s.ctx q.cid
  let s1 := s.withSr q
  if isTm p then
    match checkPtr s1 q.cid p 1 k with
    | some .pointerFormat => .bad .pointerFormat p s
    | bad =>
      let off : Int := ptrOff p + d
      if off % size ≠ 0 then .bad .misaligned p s
      else if off < 0 ∨ 0x100000 < off + n then .bad .regionBounds p s
      else if bad.isSome then .bad .combAccess p s
      else if !(s.routeOpen (s.yardOf (cidTile q.cid)) (cidTile q.cid) (ptrTile (cidTile q.cid) p)) then .wait s
      else .ok (.tm (ptrTile (cidTile q.cid) p) (ptrView p) off.toNat) s
  else
    let a := p + BitVec.ofInt 64 d
    match checkPtr s1 q.cid a size k with
    | some c => .bad c a s
    | none =>
      match s1.translate q.cid (ptrTag a) (ptrAddr a) (if k = .read then 5 else 6) (some q.seq) k with
      | .fault c t => .bad c a (t.unSr q x)
      | .parked t | .miss t => .wait (t.unSr q x)
      | .leaf l t =>
        if l.region ≠ ptrTag a then .bad .regionMismatch a (t.unSr q x)
        else if !(inReach (q.sreg 0x807) sc l.pa) then .bad .accessKind a (t.unSr q x)
        else if !(s.carries (cidTile q.cid) l.pa) then .wait (t.unSr q x)
        else .ok (.mem l) (t.unSr q x)

/-- Whether an engine can read or write a place now: no other owner holds its line (R26, R122). -/
def State.placeFree (s : State) (pl : Place) (owner : Option Nat) : Bool :=
  match pl with
  | .tm _ _ _ => true
  | .mem l => s.lineFree l.pa none || (owner.isSome && (s.l2line (lineOf l.pa)).engine == owner)

/-- Whether the Glalin array of a tile can reach a place now: through the tile's L2 port, as its scalar accesses (R354; log 20). -/
def State.placeOpen (s : State) (t : Nat) (pl : Place) : Bool :=
  match pl with
  | .tm _ _ _ => true
  | .mem l => s.homeOpen t l.pa none

/-- Whether another device or the host holds a leaf's bytes. -/
def Leaf.away (l : Leaf) : Bool := l.pcie || paSpace l.pa == 0xA

/-- What an engine's request for bytes gives: they are at hand, they are awaited, or the access was given up (R393). -/
inductive Here where
  | yes (s : State)
  | no (s : State)
  | lost (tval : Word) (s : State)

/-- An engine's access of a leaf, on behalf of an entry. -/
def QEntry.remote (q : QEntry) (l : Leaf) (isWrite : Bool) (n : Nat) : Remote :=
  { Remote.of q.cid q.tag l.pcie isWrite l.pa n l.ptr q.pc with isLate := true, cmd := some q }

/-- An engine's read of n bytes that another device or the host holds (R130, R385): a request is sent, and answered before the
engine goes on. -/
def State.engineRead (s : State) (q : QEntry) (l : Leaf) (n : Nat) : Here :=
  if !l.away then .yes s
  else match s.remotes.find? (fun r => r.isLate && !r.isWrite && r.tag == q.tag && r.cid == q.cid && r.pa == l.pa && r.size == n) with
    | some r =>
      let t : State := { s with remotes := s.remotes.filter (fun x => x.id != r.id) }
      if r.failed then .lost r.tv t else if r.acked then .yes t else .no s
    | none => .no (s.sendOut (q.remote l false n))

/-- Whether an engine can read n bytes of a place now. -/
def State.placeHere (s : State) (q : QEntry) (pl : Place) (n : Nat) : Here :=
  match pl with
  | .tm _ _ _ => .yes s
  | .mem l => s.engineRead q l n

/-- A line that an engine reads at home is filled into L2 (R104, R122). -/
def State.fillPlace (s : State) (q : QEntry) (pl : Place) : State :=
  match pl with
  | .tm _ _ _ => s
  | .mem l => if versioned l.pa l.pg then s.fillL2 l.pa (s.payer q.cid) else s

/-- n bytes of a place, read by an engine at home (R122). -/
def State.readPlace (s : State) (q : QEntry) (pl : Place) (n : Nat) : List Byte :=
  match pl with
  | .tm t v o => s.tmBytes t v o n
  | .mem l => s.homeRead q.tag l.pa n l.pg


/-- The line of a place is owned no longer. -/
def State.freePlace (s : State) (pl : Place) : State :=
  match pl with
  | .tm _ _ _ => s
  | .mem l => s.setL2 (lineOf l.pa) { s.l2line (lineOf l.pa) with engine := none }

/-! Fill-word operands (R245). -/

/-- A fill-word operand: none for 0, otherwise the place of the fill word; a broken one is bad. The
pointer names the issuing tile, or the tile that holds the counted TM. -/
inductive FillOp where
  | none
  | at (t view off : Nat)
  | bad
deriving DecidableEq, Repr

def State.fillOp (s : State) (q : QEntry) (x : Word) (counted : Option Nat) : FillOp :=
  if x = 0 then .none
  else
    let t := ptrTile (cidTile q.cid) x
    if !isTm x ∨ (checkPtr s q.cid x 16 .read).isSome ∨ (t ≠ cidTile q.cid ∧ counted ≠ some t) then .bad
    else .at t (ptrView x) (ptrOff x)

/-- The place of the fill word of an operand. -/
def FillOp.place : FillOp → Option (Nat × Nat × Nat)
  | .at t v o => some (t, v, o)
  | _ => Option.none

/-- Count n landed bytes on a fill word; a malformed one raises the fill-word-format cause (R101, R245). -/
def State.countFill (s : State) (q : QEntry) (f : FillOp) (n : Nat) : State :=
  match f with
  | .at t v o =>
    if n = 0 then s
    else
      let r := s.fillArrive t v o n
      if r.2 then r.1.raiseLate q .fillFormat 0 0 0 else r.1
  | _ => s

/-- Whether the bytes of a place are counted where another device or the host acknowledges them (R244). -/
def Place.away (pl : Place) : Bool := match pl with | .tm _ _ _ => false | .mem l => l.away

/-- Write bytes at a place: TM at once, shared memory at home, and over Milay or PCIe, where a release waits for it, with the fill word that counts
the bytes when they are acknowledged (R111, R122, R130, R244). -/
def State.writePlace (s : State) (q : QEntry) (f : FillOp) (pl : Place) (bs : List Byte) : State :=
  match pl with
  | .tm t v o => s.setTmBytes t v o bs
  | .mem l =>
    let s := if l.away then s.sendOut { q.remote l true bs.length with bytes := bs, count := f.place } else s
    if l.pcie then s
    else s.homeWrite q.tag (s.payer q.cid) l.pg (bs.zipIdx.map (fun p => (l.pa + p.2, p.1)))

/-- Write bytes at a place and count those that have landed (R101, R123, R245). -/
def State.landAt (s : State) (q : QEntry) (f : FillOp) (pl : Place) (bs : List Byte) : State :=
  let s := s.writePlace q f pl bs
  if pl.away then s else s.countFill q f bs.length

end Sys2Proof.Machine
end

