-- ==== Sys2Proof/Machine/Wax.lean ====
section
/-! DEFINITION. The Glalin array: wax images and their check, slots and bindings, the cells, WAX at its issue,
and the wax commands (R274-R282, R286, R293, R295). -/

namespace Sys2Proof.Machine

/-! Images (R276-R278). -/

/-- A cell record (R277). -/
structure WCell where
  cell  : Nat
  op    : Nat
  fmt   : Nat
  rm    : Nat
  param : Nat
deriving DecidableEq, Repr

/-- A route record (R278). -/
structure WRoute where
  src : Nat
  sp  : Nat
  dst : Nat
  dp  : Nat
deriving DecidableEq, Repr

/-- The fields of an image. -/
structure WImage where
  streamOnly : Bool
  len    : Nat
  lat    : Nat
  arity  : Nat
  fin    : Nat
  fout   : Nat
  ports  : Nat
  cells  : List WCell
  routes : List WRoute
  bytes  : List Byte
deriving DecidableEq, Repr

/-- CRC-32 of IEEE 802.3, reflected (R276). -/
def crcBit (c : Nat) : Nat := if c % 2 = 1 then Nat.xor (c / 2) 0xEDB88320 else c / 2
def crcByte (c : Nat) (b : Byte) : Nat :=
  crcBit (crcBit (crcBit (crcBit (crcBit (crcBit (crcBit (crcBit (Nat.xor c b.toNat))))))))
def crc32 (bs : List Byte) : Nat := Nat.xor (bs.foldl crcByte 0xFFFFFFFF) 0xFFFFFFFF

/-- The element formats an image may name (R276). -/
def waxFmtOk (n : Nat) : Bool := [0, 1, 2, 3, 4, 5, 8, 9, 10, 12, 13, 14].contains n

def WCell.of (w : Nat) : WCell :=
  { cell := w % 64, op := w / 256 % 64, fmt := w / 65536 % 256, rm := w / 2 ^ 24 % 8, param := w / 2 ^ 32 }
def WRoute.of (w : Nat) : WRoute := { src := w % 64, sp := w / 64 % 4, dst := w / 256 % 64, dp := w / 16384 % 4 }

def WImage.of (bs : List Byte) : WImage :=
  let c := numAt bs 10 1
  { streamOnly := numAt bs 3 1 == 1, len := numAt bs 4 2, lat := numAt bs 6 1, arity := numAt bs 7 1,
    fin := numAt bs 8 1, fout := numAt bs 9 1, ports := numAt bs 12 2,
    cells := (List.range c).map (fun i => WCell.of (numAt bs (32 + 8 * i) 8)),
    routes := (List.range (numAt bs 11 1)).map (fun i => WRoute.of (numAt bs (32 + 8 * c + 4 * i) 4)),
    bytes := bs }

def WImage.inputs (m : WImage) : Nat := m.arity % 4
def WImage.result (m : WImage) : Bool := m.arity.testBit 2

/-- The mask of the stream-port cells, 44 to 47, that an image's records name. -/
def portCells (bs : List Byte) : Nat :=
  (List.range 4).foldl (fun v p =>
    if (List.range (numAt bs 10 1)).any (fun i => numAt bs (32 + 8 * i) 1 % 64 == 44 + p) then v + 2 ^ p else v) 0

/-- The header's own fields, the ports it names among them, the padding and the CRC (R276, R278). -/
def headerOk (bs : List Byte) : Bool :=
  let c := numAt bs 10 1
  let stop := 32 + 8 * c + 4 * numAt bs 11 1
  let pad := (8 - stop % 8) % 8
  numAt bs 0 2 == 0x5857 && numAt bs 2 1 == 1 && decide (numAt bs 3 1 ≤ 1) && numAt bs 4 2 == bs.length &&
  decide (1 ≤ numAt bs 6 1) && decide (numAt bs 6 1 ≤ 64) && decide (numAt bs 7 1 < 8) && numAt bs 7 1 % 4 != 3 &&
  waxFmtOk (numAt bs 8 1) && waxFmtOk (numAt bs 9 1) && (fmtAt (numAt bs 8 1)).width == (fmtAt (numAt bs 9 1)).width &&
  decide (1 ≤ c) && decide (c ≤ 48) && decide (1 ≤ numAt bs 11 1) && decide (numAt bs 12 2 < 16) && numAt bs 14 2 == 0 &&
  numAt bs 28 4 == 0 && numAt bs 12 2 == portCells bs && decide (stop + pad ≤ bs.length) && numAt bs stop pad == 0 &&
  crc32 (bs.take 24 ++ [0, 0, 0, 0] ++ bs.drop 28) == numAt bs 24 4

/-- The kind of a cell by its number (R274): 0 ALU, 1 table, 2 delay, 3 join, 4 stream port. -/
def cellKind (c : Nat) : Nat := if c < 24 then 0 else if c < 32 then 1 else if c < 40 then 2 else if c < 44 then 3 else 4

/-- Input and output ports of a kind (R274). -/
def kindIns (k : Nat) : Nat := if k = 0 then 3 else if k = 3 then 4 else 1
def kindOuts (k : Nat) : Nat := if k = 3 then 3 else if k = 4 then 2 else 1

/-- Cycles of a cell (R277). -/
def WCell.cycles (x : WCell) : Nat :=
  match cellKind x.cell with
  | 0 => if x.op = 3 ∨ x.op = 14 ∨ x.op = 15 then 2 else if x.op = 4 then 3 else 1
  | 2 => if x.op = 1 then x.param else 1
  | 3 => 2
  | _ => 1

/-- A cell record's own fields (R277, R278): w is its doubleword. A table lies inside its image (DEDUCED; log 29). -/
def cellOk (streamOnly : Bool) (len w : Nat) : Bool :=
  let x := WCell.of w
  let k := cellKind x.cell
  decide (x.cell ≤ 47) && w / 64 % 4 == 0 && w / 16384 % 4 == 0 && w / 2 ^ 27 % 32 == 0 && waxFmtOk x.fmt &&
  (decide (k < 3) || streamOnly) &&
  (match k with
   | 0 => decide (x.op ≤ 16) && (x.op != 14 || waxFmtOk (x.param % 256))
   | 1 => x.op == 0 && decide (x.param + 512 ≤ len)
   | 2 => x.op == 0 || (x.op == 1 && decide (1 ≤ x.param) && decide (x.param ≤ 32))
   | _ => x.op == 0)

/-- Whether a route's ends exist in the image (R274, R278). -/
def WImage.routeOk (m : WImage) (r : WRoute) : Bool :=
  let has (c : Nat) : Bool := m.cells.any (fun x => x.cell == c)
  (if r.src = 48 ∨ r.src = 49 then !m.streamOnly && r.sp == 0 && decide (r.src - 48 < m.inputs)
   else has r.src && decide (r.sp < kindOuts (cellKind r.src))) &&
  (if r.dst = 50 then !m.streamOnly && r.dp == 0 && m.result
   else has r.dst && decide (r.dp < kindIns (cellKind r.dst)))

/-- The source of an input port. -/
def WImage.source (m : WImage) (dst dp : Nat) : Option (Nat × Nat) :=
  (m.routes.find? (fun r => r.dst == dst && r.dp == dp)).map (fun r => (r.src, r.sp))

/-- The cells that feed a cell. -/
def WImage.feeds (m : WImage) (c : Nat) : List Nat :=
  (m.routes.filter (fun r => r.dst == c && decide (r.src < 48))).map (fun r => r.src)

/-- The cells in an order in which each follows the cells that feed it; shorter than the cell list when the
graph has a cycle. -/
def WImage.orderFrom (m : WImage) : Nat → List WCell → List WCell
  | 0, acc => acc
  | n + 1, acc =>
    match m.cells.find? (fun x => !acc.contains x && (m.feeds x.cell).all (fun c => acc.any (fun y => y.cell == c))) with
    | some x => m.orderFrom n (acc ++ [x])
    | none => acc
def WImage.order (m : WImage) : List WCell := m.orderFrom m.cells.length []

/-- The cycles at which each cell's output is reached from cells 48 and 49 and the read ports; a cell that none
of them reaches lies on no path (R278). -/
def WImage.depths (m : WImage) : List (Nat × Nat) :=
  m.order.foldl (fun ds x =>
    let fed := (m.routes.filter (fun r => r.dst == x.cell)).filterMap (fun r =>
      if 48 ≤ r.src then some 0 else (ds.find? (fun d => d.1 == r.src)).map (fun d => d.2))
    let fed := if cellKind x.cell = 4 ∧ (m.source x.cell 0).isNone then 0 :: fed else fed
    match fed with
    | [] => ds
    | _ => ds ++ [(x.cell, fed.foldl Nat.max 0 + x.cycles)]) []

/-- The depth of an image: the longest path to cell 50 and the write ports (R278). -/
def WImage.depth (m : WImage) : Nat :=
  let ends := (m.depths.filter (fun d => cellKind d.1 == 4 && (m.source d.1 0).isSome)).map (fun d => d.2)
  let out := match m.source 50 0 with
    | some (c, _) => (m.depths.filter (fun d => d.1 == c)).map (fun d => d.2)
    | none => []
  (ends ++ out).foldl Nat.max 0

/-- Whether no value occurs twice. -/
def noRepeats (xs : List Nat) : Bool := xs.eraseDups.length == xs.length

/-- Whether an image is valid (R276-R278). -/
def imageOk (bs : List Byte) : Bool :=
  headerOk bs &&
  (let m := WImage.of bs
   let c := m.cells.length
   (List.range c).all (fun i => cellOk m.streamOnly m.len (numAt bs (32 + 8 * i) 8)) &&
   noRepeats (m.cells.map (fun x => x.cell)) &&
   (List.range m.routes.length).all (fun i => numAt bs (32 + 8 * c + 4 * i) 4 / 65536 == 0) &&
   m.routes.all m.routeOk && noRepeats (m.routes.map (fun r => r.dst * 4 + r.dp)) &&
   m.order.length == c && decide (m.depth ≤ m.lat))

/-! Cells (R274, R277, R283, R295). -/

/-- What a port carries: the words that a cell fed only by const cells has at each element, which emits nothing of its own (R285), or
a word for each element that has reached the port, and whether no more will. -/
inductive Sig where
  | const (ws : List Nat)
  | seq (ws : List Nat) (ended : Bool)
deriving DecidableEq, Repr

/-- The words of a signal. -/
def Sig.words : Sig → List Nat
  | .const ws => ws
  | .seq ws _ => ws

/-- The word of element i; an input that no route feeds reads 0. -/
def Sig.at (x : Sig) (i : Nat) : Nat := x.words.getD i 0

/-- The number of elements that every sequence among some ports has; none when none is a sequence. -/
def sigLen : List Sig → Option Nat
  | [] => none
  | .const _ :: xs => sigLen xs
  | .seq ws _ :: xs => match sigLen xs with
    | some n => some (Nat.min n ws.length)
    | none => some ws.length

/-- Whether one of the shortest sequences among some ports has ended: no element follows. -/
def sigEnded (xs : List Sig) (n : Nat) : Bool :=
  xs.any (fun x => match x with | .seq ws e => e && ws.length == n | .const _ => false)

/-- The signal of a cell whose words come from some ports: one that only const cells feed is const. -/
def Sig.of (xs : List Sig) (ws : List Nat) : Sig :=
  match sigLen xs with
  | none => .const ws
  | some n => .seq ws (sigEnded xs n)

/-- What a graph's evaluation needs: the rounding mode captured at issue, the top-code reading, the
generator output at each element, and the number of elements. -/
structure WCtx where
  rm  : Nat
  tc  : Bool
  gen : Nat → Nat
  len : Nat
  stream : Bool

/-- The element number that a cell's rounding takes: a cell that only const cells feed has emitted no element in a stream (R78, R285). -/
def WCtx.at (o : WCtx) (emits : Bool) (i : Nat) : Nat := if o.stream && !emits then 0 else i

/-- A cell's rounding for element i. -/
def WCtx.rctx (o : WCtx) (x : WCell) (i : Nat) : RCtx :=
  let rm := Rm.ofCode (if x.rm = 7 then o.rm else x.rm)
  { rm := rm, g := if rm = .rsk then o.gen i else 0 }

/-- Deliver an exact result in a cell's format; integer results wrap (R277). -/
def waxOut (f : Fmt) (tc : Bool) (r : RCtx) (x : Num × Flags) : Nat × Flags :=
  if f.isInt then (f.ofInt false x.1.toInt, Flags.none)
  else addFlags x.2 (f.deliver tc false r x.1)

/-- The word an ALU cell gives for element i, other than acc (R277). The fma of an L6 cell multiplies the two architected values exactly:
R81 keeps the code product for the matrix engine, VDOT and VRED, and does not name this cell (DEDUCED; log 29). -/
def aluWord (o : WCtx) (x : WCell) (i : Nat) (a b c : Nat) : Nat × Flags :=
  let f := fmtAt x.fmt
  let m := 2 ^ f.width
  let r := o.rctx x i
  let val (w : Nat) : Num := f.value o.tc (w % m)
  let z := if f.isInt then Rm.rne else r.rm
  match x.op with
  | 0 => (a, Flags.none)
  | 1 => waxOut f o.tc r (exactSum z [val a, val b])
  | 2 => waxOut f o.tc r (exactSum z [val a, (val b).negate])
  | 3 => if f = .l6 then l6Mul o.tc false r (a % 64) (b % 64) else waxOut f o.tc r (Num.mul (val a) (val b))
  | 4 =>
    let p := Num.mul (val a) (val b)
    let t := exactSum z [p.1, val c]
    waxOut f o.tc r (t.1, p.2 ||| t.2)
  | 5 => waxOut f o.tc r (Num.minMax false (val a) (val b))
  | 6 => waxOut f o.tc r (Num.minMax true (val a) (val b))
  | 7 => (Nat.land (a % m) (b % m), Flags.none)
  | 8 => (Nat.lor (a % m) (b % m), Flags.none)
  | 9 => (Nat.xor (a % m) (b % m), Flags.none)
  | 10 => (a % m * 2 ^ (x.param % 64) % m, Flags.none)
  | 11 => (a % m / 2 ^ (x.param % 64), Flags.none)
  | 12 =>
    let t := compareCc 2 (val a) (val b)
    ((if t.1 then (waxOut f o.tc r (Num.ofInt 1, Flags.none)).1 else 0), t.2)
  | 13 => (if (val c).isZero then b else a, Flags.none)
  | 14 => convert (fmtAt (x.param % 256)) f o.tc false r (a % 2 ^ (fmtAt (x.param % 256)).width)
  | _ => (x.param % 2 ^ 32, Flags.none)

/-- The running sums of an acc cell, each rounded once (R295). -/
def accWords (o : WCtx) (x : WCell) : Nat → Option Num → List Nat → List (Nat × Flags)
  | _, _, [] => []
  | i, t, a :: as =>
    let f := fmtAt x.fmt
    let r := o.rctx x i
    let v := f.value o.tc (a % 2 ^ f.width)
    let s := exactSum (if f.isInt then .rne else r.rm) (match t with | some u => [u, v] | none => [v])
    waxOut f o.tc r s :: accWords o x (i + 1) (some s.1) as

/-- The entry of a table cell (R277). -/
def tableWord (m : WImage) (x : WCell) (a : Nat) : Nat :=
  numAt m.bytes (x.param + 2 * (a % 256)) 2 % 2 ^ (fmtAt x.fmt).width

/-- A word as a signed index. -/
def asI32 (w : Nat) : Int := Fmt.intValue .i32 w

/-- An input of a join: its (index, value) pairs that are left, the index before them, and whether it has ended. -/
structure JoinSide where
  prev  : Option Int
  pairs : List (Nat × Nat)
  ended : Bool

/-- Whether the indices that are left rise (R283). -/
def JoinSide.rises (x : JoinSide) : Bool :=
  (x.pairs.foldl (fun (r : Option Int × Bool) p => (some (asI32 p.1), r.2 && !(r.1.any (fun q => asI32 p.1 ≤ q)))) (x.prev, true)).2

/-- The pairs that a join emits from two inputs, as far as they have come, whether an index broke the order, and whether the join has
ended (R283): when one input has ended, the rest of the other is discarded, its order checked still. n bounds the comparisons. -/
def joinRun : Nat → JoinSide → JoinSide → List (Nat × Nat × Nat) × Bool × Bool
  | 0, _, _ => ([], false, false)
  | n + 1, x, y =>
    match x.pairs, y.pairs with
    | [], _ => ([], x.ended && !y.rises, x.ended)
    | _ :: _, [] => ([], y.ended && !x.rises, y.ended)
    | (ia, va) :: as, (ib, vb) :: bs =>
      let a := asI32 ia
      let b := asI32 ib
      let x' := { x with prev := some a, pairs := as }
      let y' := { y with prev := some b, pairs := bs }
      if x.prev.any (fun p => a ≤ p) || y.prev.any (fun p => b ≤ p) then ([], true, false)
      else if a = b then
        let r := joinRun n x' y'
        ((va, vb, ia) :: r.1, r.2)
      else if a < b then joinRun n x' y
      else joinRun n x y'

/-- A join's input from its index and value signals; an index that a const cell feeds emits nothing. -/
def joinSide (ix v : Sig) : JoinSide :=
  match ix with
  | .const _ => { prev := none, pairs := [], ended := true }
  | .seq is _ =>
    let n := (sigLen [ix, v]).getD 0
    { prev := none, pairs := (List.range n).map (fun i => (is.getD i 0, v.at i)), ended := sigEnded [ix, v] n }

/-- What an evaluation leaves: the signal of each cell's output port, the flags of each element, and whether a
join's order broke. -/
structure WOut where
  sigs  : List ((Nat × Nat) × Sig)
  flags : List (Nat × Flags)
  bad   : Bool
deriving DecidableEq, Repr

/-- The signal at an input port: its source's, or 0. -/
def WOut.input (w : WOut) (m : WImage) (dst dp : Nat) : Sig :=
  match m.source dst dp with
  | none => .const []
  | some k => ((w.sigs.find? (fun e => e.1 == k)).map (fun e => e.2)).getD (.const [])

/-- Evaluate one cell after the cells that feed it. -/
def evalCell (o : WCtx) (m : WImage) (w : WOut) (x : WCell) : WOut :=
  let c := x.cell
  match cellKind c with
  | 0 =>
    let a := w.input m c 0
    let b := w.input m c 1
    let d := w.input m c 2
    let l := sigLen [a, b, d]
    let n := l.getD o.len
    let o := { o with gen := fun i => o.gen (o.at l.isSome i) }
    let rs := if x.op = 15 then accWords o x 0 none ((List.range n).map (fun i => a.at i))
      else (List.range n).map (fun i => aluWord o x i (a.at i) (b.at i) (d.at i))
    { w with sigs := w.sigs ++ [((c, 0), Sig.of [a, b, d] (rs.map (fun r => r.1)))],
             flags := w.flags ++ (rs.zipIdx.map (fun (r : (Nat × Flags) × Nat) => (r.2, r.1.2))) }
  | 1 =>
    let a := w.input m c 0
    let as := (List.range ((sigLen [a]).getD o.len)).map (fun i => a.at i)
    { w with sigs := w.sigs ++ [((c, 0), Sig.of [a] (as.map (tableWord m x)))] }
  | 2 =>
    let a := w.input m c 0
    let as := (List.range ((sigLen [a]).getD o.len)).map (fun i => a.at i)
    let ws := if x.op = 1 then as else (List.replicate (x.param % 256) 0 ++ as).take as.length
    { w with sigs := w.sigs ++ [((c, 0), Sig.of [a] ws)] }
  | 3 =>
    let sa := joinSide (w.input m c 0) (w.input m c 1)
    let sb := joinSide (w.input m c 2) (w.input m c 3)
    let r := joinRun (sa.pairs.length + sb.pairs.length + 1) sa sb
    let out (ws : List Nat) : Sig := .seq ws r.2.2
    { sigs := w.sigs ++ [((c, 0), out (r.1.map (fun t => t.1))), ((c, 1), out (r.1.map (fun t => t.2.1))),
                         ((c, 2), out (r.1.map (fun t => t.2.2)))],
      flags := w.flags, bad := w.bad || r.2.1 }
  | _ => w

/-- Evaluate a graph from the signals of its sources. -/
def WImage.eval (m : WImage) (o : WCtx) (src : List ((Nat × Nat) × Sig)) : WOut :=
  m.order.foldl (evalCell o m) { sigs := src, flags := [], bad := false }

/-! WAX on a block (R281). -/

/-- What a WAX leaves, by its image: the writes of its result and the flags of its enabled elements. -/
def waxCompute (m : WImage) (q : QEntry) (v a b : Reg) (ext : BitVec 4) (mask : Word) (tc : Bool) : VRes :=
  let fi := fmtAt m.fin
  let fo := fmtAt m.fout
  let n := extCount ext * fi.elems
  let word (r : Reg) (k : Nat) : Nat :=
    if enabled mask k then fi.clean (elemGet fi.width (q.vreg (blockReg r ext (k / fi.elems))) (k % fi.elems)) else 0
  let src : List ((Nat × Nat) × Sig) :=
    (if 1 ≤ m.inputs then [((48, 0), .seq ((List.range n).map (word a)) true)] else []) ++
    (if 2 ≤ m.inputs then [((49, 0), .seq ((List.range n).map (word b)) true)] else [])
  let o : WCtx := { rm := (q.sreg 0x022).toNat, tc := tc, len := n, stream := false,
                    gen := fun k => let p := extPos ext fi.elems k; q.gen p.1 p.2 }
  let w := m.eval o src
  let out := w.input m 50 0
  let on := (List.range n).filter (fun k => enabled mask k)
  { writes := if m.result then blockWrites v ext fo.width (on.map (fun k => (k, fo.clean (out.at k % 2 ^ fo.width)))) else [],
    flags := (on.map (fun k =>
      (k / fi.elems, k % fi.elems, (w.flags.filter (fun p => p.1 == k)).foldl (fun f p => f ||| p.2) Flags.none))) }

/-! Slots and bindings (R279, R280). -/

/-- The owner key of a context's slots: its tag, or a helper's own. -/
def State.waxOwner (s : State) (c : Nat) : Nat := if isHelperSlot (cidSlot c) then 0x10000 + c else s.tagOf c

/-- Whether the context of an owner key is live on a tile. -/
def State.ownerLive (s : State) (t key : Nat) : Bool :=
  if 0x10000 ≤ key then (s.ctx (key - 0x10000)).live
  else (List.range 4).any (fun k => let c := coreCid (t * 4 + k) 0; (s.ctx c).live && s.tagOf c == key)

def Tile.slot (t : Tile) (n : Nat) : GlSlot := SMap.get (fun _ => GlSlot.free) t.gl n
def Tile.setSlot (t : Tile) (n : Nat) (x : GlSlot) : Tile := { t with gl := SMap.set (fun _ => GlSlot.free) t.gl n x }

def Ctx.bind (x : Ctx) (n : Nat) : WaxBind := SMap.get (fun _ => WaxBind.unbound) x.wax n
def Ctx.setBind (x : Ctx) (n : Nat) (b : WaxBind) : Ctx := { x with wax := SMap.set (fun _ => WaxBind.unbound) x.wax n b }
/-- Unbind an opcode with a reason: 1 released, 2 evicted. -/
def Ctx.unbind (x : Ctx) (n reason : Nat) : Ctx := x.setBind n { WaxBind.unbound with reason := reason }

/-- Release an opcode that is bound (R280). -/
def Ctx.release (x : Ctx) (n : Nat) : Ctx := if (x.bind n).bound then x.unbind n 1 else x

/-- Bind an opcode to a load as WXLD's operand B names it and its slot: another opcode of the context on that slot is evicted (R279). -/
def Ctx.bindLoad (x : Ctx) (b key : Nat) : Ctx :=
  let n := b % 8
  let slot := b / 16 % 4
  let x := (List.range 8).foldl (fun (x : Ctx) m => if m != n && (x.bind m).bound && (x.bind m).slot == slot then x.unbind m 2 else x) x
  x.setBind n { bound := true, reason := 0, slot := slot, ident := key, lent := false }

/-- The key of a load that has not completed: its WXLD's number above 2^63. A load that failed. -/
def loadKey (n : Nat) : Nat := 2 ^ 63 + n
def failKey : Nat := 2 ^ 63 + 2 ^ 62

/-- The key of the next load: no two pushes have one number. -/
def State.nextLoad (s : State) : Nat := loadKey (s.pushes % 2 ^ 62)

/-- The image with a load identity on a tile. -/
def State.imageOf (s : State) (t ident : Nat) : Option WImage :=
  if ident = 0 then none
  else ((s.tile t).gl.find? (fun p => p.2.ident == ident)).map (fun p => WImage.of p.2.image)

/-- The load that an opcode of a context is bound to: its identity, or its key while it is under way. -/
def State.bindKey (s : State) (c n : Nat) : Nat := ((s.ctx c).bind n).ident

/-! WAX at its issue (R281, R282). -/

/-- The prefix fields of WAX: m alone. -/
def useWax : PfxUse := { fmt := false, rm := false, sat := false, m := true, bs := false }

/-- The stream-only and arity checks of an image (R281, R293). -/
def waxArityOk (m : WImage) (v a b : Reg) : Bool :=
  !m.streamOnly && (decide (2 ≤ m.inputs) || b == 0) && (decide (1 ≤ m.inputs) || a == 0) && (m.result || v == 0)

/-- The wax-unbound upcall (R282): the loader is entered with the address of the WAX's prefix, or of the WAX. -/
def Ctx.waxUpcall (x : Ctx) (n : Nat) : Ctx :=
  let epc := if (x.sreg 0x024).getLsbD 63 then x.pc - 4 else x.pc
  let f : Word := BitVec.ofNat 64 (2 ^ 63 + (x.bind n).reason * 256 + n)
  { (((((x.suspendLoop 4).setSreg 0x024 0).setSreg 0x113 epc).setSreg 0x2A2 f).setSreg 0x114 4) with pc := x.sreg 0x2A0, wait := .none, issued := none }

/-- A WAX that finds its opcode unbound: the upcall where a loader can take it, the wax-unbound cause
otherwise. Entry closes every window first (R55). -/
def waxUnbound (n : Nat) : M Unit := do
  let s ← get
  trapIf (s.inTask || s.me.sreg 0x2A0 == 0 || (s.me.sreg 0x114).getLsbD 2) .waxUnbound 0
  closeAll
  fun s => .error .left (s.modMe (fun x => x.waxUpcall n))

/-- Whether an opcode's binding was taken over from the control context and its load has completed with an image that fails a check: it is made at
issue, where R293 lets only the context of the WXLD pass on the binding alone. -/
def State.lentFails (s : State) (n : Nat) (ok : WImage → Bool) : Bool :=
  let b := s.me.bind n
  b.bound && b.lent && (match s.imageOf s.myTile b.ident with | some m => !(ok m) | none => false)

/-- WAX (R281): the checks of its issue in order, and the push. A bound opcode passes on its binding alone; its arity is checked when
the load has completed (R293), but for a helper's on a binding taken over. -/
def execWax (v a b : Reg) (ext : BitVec 4) (n : BitVec 3) (la : BitVec 4) (s : State) : Host.Outcome State Fault Refusal :=
  run (do
    let w ← takePfx useWax
    trapIf (!([v, a, b].all (fun r => blockOk r ext))) .blockExtent 0
    let s ← get
    if !(s.me.bind n.toNat).bound then waxUnbound n.toNat
    trapIf (s.lentFails n.toNat (fun m => waxArityOk m v a b)) .waxArity 0
    pushCop (.wax v a b ext n la) w 0 0 (BitVec.ofNat 64 (s.bindKey s.cur n.toNat)) (some la) true
    next) s

/-! The wax commands at their issue (R279, R280, R284-R286). -/

/-- WXLD (R279): at issue the opcode is bound, and another opcode of the context on the same slot is evicted. -/
def execWxld (a b : Reg) (s : State) : Host.Outcome State Fault Refusal :=
  run (do
    noPrefix
    gate [a, b] [] true
    let (x, y) ← readChecked (some a) (some b) (fun _ _ y => if Nat.land y.toNat 0x37 ≠ y.toNat then some (.reserved, 0) else none)
    let s ← get
    pushCop (.wxld a b) 0 x y (BitVec.ofNat 64 s.nextLoad) none false
    modify (fun t => t.modMe (fun c => (c.bindLoad y.toNat s.nextLoad).setSreg (0x2A8 + y.toNat % 8) x))
    next) s

/-- The check of an opcode operand whose bits above [2:0] are zero. -/
def opcodeCheck : Word → Option (Cause × Word) := fun a => if 8 ≤ a.toNat then some (.reserved, 0) else none

/-- WXREL (R280): at issue the opcode is unbound, as WXLD binds at issue (R279): commands behind it see that (log 29). -/
def execWxrel (a : Reg) (s : State) : Host.Outcome State Fault Refusal :=
  run (do
    noPrefix
    gate [a] [] true
    let (x, _) ← readChecked (some a) none (fun _ x _ => opcodeCheck x)
    let s ← get
    pushCop (.wxrel a) 0 x 0 (BitVec.ofNat 64 (s.bindKey s.cur (x.toNat % 8))) none false
    modify (fun s => s.modMe (fun c => c.release (x.toNat % 8)))
    next) s

/-- WXDET (R285). -/
def execWxdet (a : Reg) (s : State) : Host.Outcome State Fault Refusal :=
  run (cIssue (.wxdet a) (some a) none (fun _ x _ => opcodeCheck x) false) s

/-- The issue checks of WXSTM (R284, R285); whether its image is stream_only is checked when the load has completed (R293), but for a helper's
on a binding taken over. -/
def wxstmCheck : Check := fun s a b =>
  if 8 ≤ b.toNat ∨ !(s.me.bind (b.toNat % 8)).bound ∨ s.lentFails (b.toNat % 8) (fun m => m.streamOnly) then some (.waxArity, 0)
  else if ptrTag a ≠ 15 then some (.accessKind, a)
  else if a.toNat % 8 ≠ 0 then some (.misaligned, a)
  else none

/-- WXSTM (R284, R285). -/
def execWxstm (a b : Reg) (s : State) : Host.Outcome State Fault Refusal :=
  run (do
    noPrefix
    gate [a, b] [] true
    let (x, y) ← readChecked (some a) (some b) wxstmCheck
    let s ← get
    pushCop (.wxstm a b) 0 x y (BitVec.ofNat 64 (s.bindKey s.cur (y.toNat % 8))) none false
    next) s

/-- What WXQRY reads of a binding as it issues: [8] bound, [5:4] the reason, [1:0] the slot. -/
def WaxBind.word (b : WaxBind) : Word := BitVec.ofNat 64 ((if b.bound then 256 else 0) + b.reason * 16 + b.slot)

/-- WXQRY (R286): its destination's window takes the answer, which is of the binding that stands at its issue. -/
def execWxqry (d b : Reg) (la : BitVec 4) (s : State) : Host.Outcome State Fault Refusal :=
  run (do
    noPrefix
    gate [b] [d] false
    let (_, y) ← readChecked none (some b) (fun _ _ y => opcodeCheck y)
    let s ← get
    let n := y.toNat % 8
    pushCop (.wxqry d b la) 0 (s.me.bind n).word y (BitVec.ofNat 64 (s.bindKey s.cur n)) (some la) false
    next) s

/-! The engine's side (R279, R280, R286). -/

/-- A binding to a load with a key that has ended: it has an identity, or with 0 the load failed, and the opcode is released (R279). -/
def WaxBind.settle (key id : Nat) (b : WaxBind) : WaxBind :=
  if b.ident ≠ key then b else if id = 0 then { WaxBind.unbound with reason := 1 } else { b with ident := id }

/-- The bindings to a load that has ended, and the entries that wait on it, learn its identity, or with 0 that it failed: the bindings of the context
that issued it, those that helpers of its core have taken from it (R280), and those that entries have captured. -/
def State.settleLoad (s : State) (c key id : Nat) : State :=
  let binds (m : SMap WaxBind) : SMap WaxBind := m.map (fun (p : Nat × WaxBind) => (p.1, p.2.settle key id))
  let fix (q : QEntry) : QEntry :=
    match q.inst with
    | .wxld _ _ => { q with binds := binds q.binds }
    | _ => { q with binds := binds q.binds, qkw := if q.qkw.toNat = key then BitVec.ofNat 64 (if id = 0 then failKey else id) else q.qkw }
  let s := (List.range 16).foldl (fun s i => s.modCtx (coreCid (cidCore c) i) (fun x => { x with wax := binds x.wax })) s
  let s := s.modCore (cidCore c) (fun x => { x with vq := x.vq.map fix, held := x.held.map fix })
  s.modTile (cidTile c) (fun x => { x with wq := x.wq.map fix, mq := x.mq.map fix })

/-- Whether a valid image names the rounding mode code 6, which is reserved wherever it is encoded (R77). -/
def imageMode6 (bs : List Byte) : Bool := (WImage.of bs).cells.any (fun x => x.rm == 6)

/-- What reading an image gives: its bytes, with none where no valid image lies there; the cause of an access that failed; or a
wait. -/
inductive ImageRead where
  | got (bs : List Byte) (s : State)
  | bad (c : Cause) (tval : Word) (s : State)
  | wait (s : State)

/-- Read the n bytes of an image from the i-th on, by the engine. -/
def State.imageBytes (s : State) (q : QEntry) (p : Word) : Nat → Nat → List Byte → ImageRead
  | 0, _, bs => .got bs s
  | n + 1, i, bs =>
    match s.place q 4 p i 1 1 .read with
    | .wait s => .wait s
    | .bad c tv s => .bad c tv s
    | .ok pl s =>
      if !(s.placeOpen (cidTile q.cid) pl) then .wait s
      else match s.placeHere q pl 1 with
        | .no s => .wait s
        | .lost tv s => .bad .memError tv s
        | .yes s => (s.fillPlace q pl).imageBytes q p n (i + 1) (bs ++ s.readPlace q pl 1)

/-- The image at a pointer (R276, R279). -/
def State.readImage (s : State) (q : QEntry) (p : Word) : ImageRead :=
  if p.toNat % 8 ≠ 0 then .got [] s
  else match s.imageBytes q p 32 0 [] with
    | .got bs s =>
      let n := numAt bs 4 2
      if n < 32 ∨ 6144 < n ∨ n % 8 ≠ 0 then .got [] s
      else (match s.imageBytes q p (n - 32) 32 bs with
        | .got bs s => if !(imageOk bs) then .got [] s else if imageMode6 bs then .bad .reserved 0 s else .got bs s
        | r => r)
    | r => r

/-- The end of a WXLD (R279): a busy slot, an access that fails, an invalid image, or a load with the tile's next identity; none with
what a wait leaves. -/
def State.waxLoad (s : State) (t : Nat) (q : QEntry) : Except State State :=
  match s.owner q with
  | none => .ok s
  | some c =>
    let slot := q.b.toNat / 16 % 4
    let key := s.waxOwner c
    let fail (s : State) (e : Cause) (tv : Word) : State := (s.settleLoad c q.qkw.toNat 0).raiseLate q e 0 0 tv
    if s.overtakes q 0 then .error s
    else if ((s.tile t).slot slot).owner.any (fun o => o != key && s.ownerLive t o) then .ok (fail s .waxBusy 0)
    else match s.readImage q q.a with
      | .wait u => .error (s.asked u)
      | .bad e tv s => .ok (fail s e tv)
      | .got [] s => .ok (fail s .waxFormat 0)
      | .got bs s =>
        let id := (s.tile t).ident
        let s := s.modTile t (fun x => { x.setSlot slot { owner := some key, ident := id, image := bs } with ident := id + 1 })
        .ok (s.settleLoad c q.qkw.toNat id)

/-- Stop the stream on an opcode of a context: its read ports stop (R285). -/
def State.detach (s : State) (t c n : Nat) : State :=
  s.modTile t (fun x => { x with streams := x.streams.map (fun m => if m.q.cid == c && m.op == n then { m with halted := true } else m) })

/-- WXREL at the array: the streams on the opcode are detached, and the slot of the load that it released is free when it is the context's own; an opcode
that was unbound is left alone (R280). -/
def State.waxRelease (s : State) (t : Nat) (q : QEntry) : State :=
  match s.owner q with
  | none => s
  | some c =>
    if q.qkw = 0 then s
    else (s.detach t c (q.a.toNat % 8)).modTile t (fun x =>
      { x with gl := x.gl.filter (fun g => !(g.2.ident == q.qkw.toNat && g.2.owner == some (s.waxOwner c))) })

/-- WXQRY's answer from the binding it captured: a load that failed has released it, and one whose slot has been taken since is
evicted (R279, R280). -/
def State.waxQuery (s : State) (t : Nat) (q : QEntry) : Nat :=
  let b := q.a.toNat
  if b < 256 then b / 16 * 256
  else if q.qkw.toNat = failKey then 256
  else match s.imageOf t q.qkw.toNat with
    | some m => 2 ^ 63 + m.len * 2 ^ 32 + b % 16 * 65536 + m.arity * 256 + m.lat
    | none => 512

end Sys2Proof.Machine
end

