-- ==== Sys2Proof/Machine/Streams.lean ====
section
/-! DEFINITION. Glalin streams: the descriptor, the ports, the start, the running and the end of a stream, and
the queue of the Glalin array's commands (R279, R283-R285, R293-R295). -/

namespace Sys2Proof.Machine

/-- Whether a port entry is sound (R284). -/
def Port.ok (x : Port) : Bool :=
  x.kind == 0 ||
  (decide (x.kind ≤ 7) && waxFmtOk x.fmt && decide (x.fill ≤ 1) && x.pad == 0 && x.cnt != 0 &&
   (if x.kind = 7 then x.x == 4 else if x.kind = 3 ∨ x.kind = 4 then decide (x.x < 8) else x.x == 0) &&
   (if x.kind = 5 ∨ x.kind = 6 then
      (x.fmt == 4 || x.fmt == 14) && Nat.land x.ptr.toNat 0xFF7F == x.ptr.toNat && x.ptr.toNat / 256 % 32 == 0 &&
      decide (x.ptr.toNat % 128 + (x.cnt + 31) / 32 ≤ 128)
    else true))

/-- The mask of the ports a descriptor names. -/
def portMask (d : List Byte) : Nat := (portsOf d).foldl (fun v p => if p.2.kind = 0 then v else v + 2 ^ p.1) 0

/-- The accumulator rows that a descriptor's ports reach: the first of each and their count (R254, R284). -/
def descRows (d : List Byte) : List (Nat × Nat) :=
  ((portsOf d).filter (fun p => p.2.kind == 5 || p.2.kind == 6)).map (fun p => (p.2.ptr.toNat % 128, (p.2.cnt + 31) / 32))

/-- Whether two lists of rows share one. -/
def rowsMeet (a b : List (Nat × Nat)) : Bool := a.any (fun x => b.any (fun y => runsMeet x.1 x.2 y.1 y.2))

/-- The fill word of a port: at a TM offset of the stream's tile, through LIN (R284). -/
def Port.fillOp (x : Port) (t : Nat) : FillOp :=
  if x.fill % 2 = 0 then .none else if x.foff % 16 ≠ 0 ∨ 0xFFFF0 < x.foff then .bad else .at t 0 x.foff

/-- The accumulator rows that a matrix command touches: the first and their count. -/
def QEntry.accRows (q : QEntry) : List (Nat × Nat) :=
  let g := geoOf q.b
  match q.inst with
  | .mm _ _ | .mms _ _ | .mmp _ _ => [(q.b.toNat % 128, 32)]
  | .mzero _ => [(q.a.toNat % 128, 32)]
  | .macr _ _ _ | .macw _ _ => [(g.row0, if g.walk then 1 else g.k)]
  | .macst _ _ => [(g.row0, g.k)]
  | .mcmdCheck _ | .mcmdZall _ | .mcmdPcancel _ => if q.a.toNat % 16 = 1 then [(0, 128)] else []
  | _ => []

/-- The attempt to start a stream (R254, R284, R285, R293). -/
def State.startStream (s : State) (t : Nat) (q : QEntry) : Started :=
  let key := q.qkw.toNat
  if key = failKey then .bad .waxFormat 0
  else if 2 ^ 63 ≤ key then .wait s
  else match (s.tile t).gl.find? (fun p => p.2.ident == key && key != 0) with
    | none => .bad .waxFormat 0
    | some g =>
      let m := WImage.of g.2.image
      if !m.streamOnly then .bad .waxArity 0
      else if s.overtakes q 0 then .wait s
      else match s.place q 4 q.a 0 128 8 .read with
        | .wait u => .wait (s.asked u)
        | .bad c tv _ => .bad c tv
        | .ok pl s =>
          let d := s.readPlace q pl 128
          let ps := (portsOf d).map (fun p => p.2)
          let ring := (ps.filter (fun x => x.kind == 3 || x.kind == 4)).map (fun x => x.x)
          if portMask d ≠ m.ports ∨ !(ps.all Port.ok) then .bad .streamDesc 0
          else if ps.any (fun x => x.kind != 0 && x.fillOp t == .bad) then .bad .fillFormat 0
          else if ring.any (fun k => !(s.ring t k).valid) then .bad .ringGeometry 0
          else if (s.tile t).streams.any (fun r => Nat.land (imagePorts r.image) m.ports != 0) then .wait s
          else if (!(descRows d).isEmpty && ((s.tile t).mq.any (fun e => e.before q) || (s.tile t).mrun.any (fun r => r.q.before q))) ||
              (s.tile t).mrun.any (fun r => rowsMeet (descRows d) r.q.accRows) then .wait s
          else
            let tc := match s.owner q with | some c => (s.ctx c).tc | none => false
            .ok (s.modTile t (fun x => { x with streams := x.streams ++
              [({ q := q, op := q.b.toNat % 8, tc := tc, image := g.2.image, desc := d, vals := [], idxs := [], landed := [],
                  dead := [], halted := false, cause := none } : Stream)] }))

/-! The running of a stream. -/

def Stream.idxsOf (m : Stream) (p : Nat) : List Nat := SMap.get (fun _ => []) m.idxs p

/-- Stop a stream with a cause at an element; the first one stays. -/
def Stream.stop (m : Stream) (i : Nat) (c : Cause) (tval : Word) : Stream :=
  { m with halted := true, cause := match m.cause with | some x => some x | none => some (i, c, tval) }

/-- The graph's evaluation over what the read ports have delivered. -/
def Stream.eval (m : Stream) : WImage × WOut :=
  let im := WImage.of m.image
  let src := ((portsOf m.desc).filter (fun p => p.2.reads)).flatMap (fun p =>
    let ended := m.halted || decide (p.2.cnt ≤ (m.valsOf p.1).length)
    [((44 + p.1, 0), Sig.seq (m.valsOf p.1) ended)] ++ (if p.2.kind = 7 then [((44 + p.1, 1), Sig.seq (m.idxsOf p.1) ended)] else []))
  let n := (src.map (fun x => x.2.words.length)).foldl Nat.max 0
  (im, im.eval { rm := (m.q.sreg 0x022).toNat, tc := m.tc, gen := fun i => m.q.gen 0 i, len := n, stream := true } src)

/-- The elements that have reached a write port; one that no read port feeds receives none (R285). -/
def Stream.arrived (im : WImage) (w : WOut) (p : Nat) : List Nat :=
  match w.input im (44 + p) 0 with
  | .seq xs _ => xs
  | .const _ => []

/-- What one move of a port gives. -/
inductive SMove where
  | idle
  | wait (s : State)
  | go (s : State) (m : Stream)

/-- The places of n single bytes at a distance from a pointer (an L6 group). -/
def State.places (s : State) (q : QEntry) (p : Word) (d : Nat) (k : AKind) : Nat → Except (Option (Cause × Word) × State) (List Place × State)
  | 0 => .ok ([], s)
  | n + 1 =>
    match s.place q 4 p d 1 1 k with
    | .wait s => .error (none, s)
    | .bad c tv s => .error (some (c, tv), s)
    | .ok pl s =>
      match s.places q p (d + 1) k n with
      | .error e => .error e
      | .ok (ps, s) => .ok (pl :: ps, s)

/-- The places of element i of a port at a pointer: one of its width, or the three bytes of its L6 group, each
with its byte count. -/
def State.elemPlaces (s : State) (q : QEntry) (x : Port) (p : Word) (f : Fmt) (i : Nat) (k : AKind) :
    Except (Option (Cause × Word) × State) (List (Place × Nat) × State) :=
  if f = .l6 then
    match s.places q p (x.pos i) k 3 with
    | .error e => .error e
    | .ok (ps, s) => .ok (ps.map (fun pl => (pl, 1)), s)
  else
    let n := f.width / 8
    match s.place q 4 p (i * n : Nat) n n k with
    | .wait s => .error (none, s)
    | .bad c tv s => .error (some (c, tv), s)
    | .ok pl s => .ok ([(pl, n)], s)

/-- Write the tile's own dirty bytes of a shared place back before the engine reaches it (R122). -/
def State.cleanPlace (s : State) (t : Nat) (pl : Place) (drop : Bool) : State :=
  match pl with
  | .tm _ _ _ => s
  | .mem l =>
    let s := s.cleanLine t (lineOf l.pa)
    if drop then s.modTile t (fun x => x.setLine (lineOf l.pa) CacheLine.absent) else s

/-- The word of an element from its bytes. -/
def elemWord (f : Fmt) (i : Nat) (bs : List Byte) : Nat :=
  if f = .l6 then leNat bs / 64 ^ (i % 4) % 64 else leNat bs

/-- Whether the bytes of some places are at hand. -/
def State.placesHere (s : State) (q : QEntry) : List (Place × Nat) → Here
  | [] => .yes s
  | (pl, n) :: ps => match s.placeHere q pl n with | .yes s => s.placesHere q ps | r => r

/-- Read element i at a pointer. -/
def State.readElem (s : State) (t : Nat) (q : QEntry) (x : Port) (p : Word) (f : Fmt) (i : Nat) :
    Except (Option (Cause × Word) × State) (Nat × State) :=
  match s.elemPlaces q x p f i .read with
  | .error e => .error e
  | .ok (ps, s) =>
    let s := ps.foldl (fun s pl => s.cleanPlace t pl.1 false) s
    if ps.all (fun pl => s.placeOpen t pl.1) then
      match s.placesHere q ps with
      | .yes u => .ok (elemWord f i (ps.flatMap (fun pl => s.readPlace q pl.1 pl.2)), ps.foldl (fun s pl => s.fillPlace q pl.1) u)
      | .no u => .error (none, s.asked u)
      | .lost tv u => .error (some (.memError, tv), u)
    else .error (none, s)

/-- The tiles of a ring that its pop port has consumed after i elements. -/
def Port.consumed (x : Port) (tb i : Nat) : Nat :=
  if i = x.cnt then (x.size i + tb - 1) / tb else x.pos i / tb

/-- A read port delivers its next element (R284, R294). -/
def State.readPort (s : State) (t : Nat) (m : Stream) (p : Nat) (x : Port) : SMove :=
  let i := (m.valsOf p).length
  let f := fmtAt x.fmt
  let put (m : Stream) (v : Nat) : Stream := { m with vals := SMap.set (fun _ => []) m.vals p (m.valsOf p ++ [v]) }
  if x.cnt ≤ i then .idle
  else if x.kind = 5 then
    .go s (put m (s.accWord t (x.ptr.toNat % 128 + i / 32) (x.ptr.toNat / 256 % 256 + i % 32)).toNat)
  else if x.kind = 4 then
    let r := s.ring t x.x
    if !r.valid then .go s (m.stop i .ringGeometry 0)
    else
      let tb := r.tileBytes
      let popped := x.consumed tb i
      let n := if x.isL6 then 3 else x.bytes
      let b := x.pos i
      if r.held ≤ (b + n - 1) / tb - popped then .wait s
      else
        let bs := (List.range n).map (fun j => s.tmByte t r.view (r.slotOff (r.head + ((b + j) / tb - popped)) + (b + j) % tb))
        .go (s.ringHead t x.x (x.consumed tb (i + 1) - popped)) (put m (elemWord f i bs))
  else
    match s.readElem t m.q x x.ptr f i with
    | .error (none, s) => .wait s
    | .error (some (c, tv), s) => .go s (m.stop i c tv)
    | .ok (v, s) =>
      if x.kind = 7 then
        match s.readElem t m.q x x.iptr .i32 i with
        | .error (none, s) => .wait s
        | .error (some (c, tv), s) => .go s (m.stop i c tv)
        | .ok (k, s) => .go s { put m v with idxs := SMap.set (fun _ => []) m.idxs p (m.idxsOf p ++ [k]) }
      else .go s (put m v)

/-- Write bytes at places, each taking its count. -/
def State.writePlaces (s : State) (q : QEntry) (f : FillOp) : List (Place × Nat) → List Byte → State
  | [], _ => s
  | (pl, n) :: ps, bs => (s.writePlace q f pl (bs.take n)).writePlaces q f ps (bs.drop n)

/-- The bytes of places that count as soon as they are written. -/
def landedHere (ps : List (Place × Nat)) : Nat := (ps.filter (fun p => !p.1.away)).foldl (fun n p => n + p.2) 0

/-- The bytes that n elements starting at i make: L6 groups are padded with +0 codes. -/
def portBytes (f : Fmt) (ws : List Nat) : List Byte :=
  if f = .l6 then codeBytes .l6 ((ws ++ List.replicate ((4 - ws.length % 4) % 4) 0).map (fun w => w % 64))
  else ws.flatMap (fun w => leBytes (f.width / 8) w)

/-- Put bytes of a ring-push port at the tail, from byte position b of its tiles; each completed tile counts. -/
def State.pushBytes (s : State) (t : Nat) (q : QEntry) (x : Port) (b : Nat) (bs : List Byte) : Option State :=
  let r := s.ring t x.x
  let tb := r.tileBytes
  let last := (b + bs.length - 1) / tb - b / tb
  if r.slots ≤ r.held + last then none
  else
    let s := bs.zipIdx.foldl (fun s (p : Byte × Nat) =>
      s.setTmByte t r.view (r.slotOff (r.tail + ((b + p.2) / tb - b / tb)) + (b + p.2) % tb) p.1) s
    let tiles := (b + bs.length) / tb - b / tb
    some ((List.range tiles).foldl (fun s _ => (s.ringTail t x.x 1).countFill q (x.fillOp t) tb) s)

/-- A write port lands its next element, an L6 port its next group (R284, R285, R294). done says that no more
elements will arrive: a ring tile that is partly written is then completed, once, which p + 4 among the dead ports notes. -/
def State.landPort (s : State) (t : Nat) (m : Stream) (p : Nat) (x : Port) (out : List Nat) (done : Bool) : SMove :=
  let i := m.landedOf p
  let left := out.drop i
  let n := if x.isL6 then Nat.min 4 left.length else Nat.min 1 left.length
  let f := fmtAt x.fmt
  let die (m : Stream) (c : Cause) (tv : Word) : Stream := { m.stop i c tv with dead := m.dead ++ [p] }
  let took (m : Stream) (n : Nat) : Stream := { m with landed := SMap.set (fun _ => 0) m.landed p (i + n) }
  if n = 0 ∨ m.dead.contains p then
    if done ∧ x.kind = 3 ∧ !(m.dead.contains (p + 4)) ∧ (s.ring t x.x).valid ∧ x.size i % (s.ring t x.x).tileBytes ≠ 0 then
      let tb := (s.ring t x.x).tileBytes
      match s.pushBytes t m.q x (x.size i) (List.replicate (tb - x.size i % tb) 0) with
      | some s => .go s { m with dead := m.dead ++ [p, p + 4] }
      | none => .wait s
    else .idle
  else if x.cnt ≤ i then .go s (die m .streamDesc 0)
  else if x.isL6 ∧ n < 4 ∧ !done then .idle
  else
    let n := Nat.min n (x.cnt - i)
    let bs := portBytes f (left.take n)
    if x.kind = 6 then
      let s := s.setAcc t (x.ptr.toNat % 128 + i / 32) (x.ptr.toNat / 256 % 256 + i % 32) (BitVec.ofNat 32 (left.headD 0))
      .go (s.countFill m.q (x.fillOp t) 4) (took m 1)
    else if x.kind = 3 then
      if !(s.ring t x.x).valid then .go s (die m .ringGeometry 0)
      else match s.pushBytes t m.q x (x.pos i) bs with
        | some s => .go s (took m n)
        | none => .wait s
    else
      match s.elemPlaces m.q x x.ptr f i .write with
      | .error (none, s) => .wait s
      | .error (some (c, tv), s) => .go s (die m c tv)
      | .ok (ps, s) =>
        let s := ps.foldl (fun s pl => s.cleanPlace t pl.1 true) s
        if ps.all (fun pl => s.placeOpen t pl.1) then
          .go ((s.writePlaces m.q (x.fillOp t) ps bs).countFill m.q (x.fillOp t) (landedHere ps)) (took m n)
        else .wait s

/-- Put a stream back in place of its former self. -/
def State.setStream (s : State) (t : Nat) (old new : Stream) : State :=
  s.modTile t (fun x => { x with streams := x.streams.map (fun m => if m.q = old.q then new else m) })

/-- The first move among some ports; a wait of one port lets the others move. -/
def firstMove (f : Nat × Port → SMove) : List (Nat × Port) → SMove
  | [] => .idle
  | p :: ps =>
    match f p with
    | .go s m => .go s m
    | .wait s => (match firstMove f ps with | .idle => .wait s | r => r)
    | .idle => firstMove f ps

/-- The end of a stream: its flags, and its cause (R285), unless an element before it has raised an enabled one (R76; log 70). -/
def State.endStream (s : State) (t : Nat) (m : Stream) (w : WOut) : State :=
  let s := s.modTile t (fun x => { x with streams := x.streams.filter (fun r => r.q != m.q) })
  (s.countDone m.q).raiseOr m.q w.flags m.cause

/-- One move of a running stream: an element lands, or an element is read; with last, the end of a stream that
has nothing more to do. -/
def State.streamMove (s : State) (t : Nat) (m : Stream) (last : Bool) : State :=
  let (im, w) := m.eval
  let m := if w.bad ∧ m.cause.isNone then m.stop (w.sigs.foldl (fun n p => Nat.max n p.2.words.length) 0) .joinOrder 0 else m
  let ps := portsOf m.desc
  let rd := ps.filter (fun p => p.2.reads)
  let done := m.halted || rd.all (fun p => decide (p.2.cnt ≤ (m.valsOf p.1).length))
  let land := firstMove (fun p => s.landPort t m p.1 p.2 (Stream.arrived im w p.1) done) (ps.filter (fun p => p.2.writes))
  match land with
  | .go s' m' => if last then s else s'.setStream t m m'
  | .wait s' => if last then s else s'.setStream t m m
  | .idle =>
    if done then (if last then s.endStream t m w else s.setStream t m m)
    else if last then s
    else match firstMove (fun p => s.readPort t m p.1 p.2) rd with
      | .go s' m' => s'.setStream t m m'
      | .wait s' => s'.setStream t m m
      | .idle => s

/-! The array's command queue. -/

/-- The first command of a tile's array of each context. -/
def waxHeads (qs : List QEntry) : List QEntry :=
  qs.zipIdx.filterMap (fun (p : QEntry × Nat) => if (qs.take p.2).any (fun e => e.cid == p.1.cid && e.tag == p.1.tag) then none else some p.1)

/-- Take a command that has completed out of the array's queue: the one with its number. -/
def State.dropWax (s : State) (t : Nat) (q : QEntry) : State :=
  (s.modTile t (fun x => { x with wq := x.wq.eraseP (fun e => e.ord == q.ord) })).countDone q

/-- Whether a command of the array need not wait: WXREL, WXDET, and a WXQRY whose binding's load is not under way (R286). -/
def QEntry.waxNow (q : QEntry) : Bool :=
  match q.inst with
  | .wxrel _ | .wxdet _ => true
  | .wxqry _ _ _ => decide (q.qkw.toNat < 2 ^ 63) || q.qkw.toNat == failKey
  | _ => false

/-- Run a command that does not wait on memory: WXREL, WXDET and WXQRY. -/
def State.runWax (s : State) (t : Nat) (q : QEntry) : State :=
  match q.inst with
  | .wxrel _ => (s.waxRelease t q).dropWax t q
  | .wxdet _ => (s.detach t q.cid (q.a.toNat % 8)).dropWax t q
  | .wxqry d _ _ => (s.deliverWrites q [.g d (BitVec.ofNat 64 (s.waxQuery t q))]).dropWax t q
  | _ => s

/-- Run the commands at the heads that do not wait, as long as there are any. -/
def State.waxDrain (s : State) (t : Nat) : Nat → State
  | 0 => s
  | n + 1 =>
    match (waxHeads (s.tile t).wq).find? (fun q => q.waxNow) with
    | some q => (s.runWax t q).waxDrain t n
    | none => s
def State.waxRun (s : State) (t : Nat) : State := s.waxDrain t (s.tile t).wq.length

/-- WAX_LOAD_COMPLETE (R279). -/
def State.waxLoaded (s : State) (t : Nat) : State :=
  match (waxHeads (s.tile t).wq).find? (fun q => match q.inst with | .wxld _ _ => true | _ => false) with
  | none => s
  | some q =>
    match s.waxLoad t q with
    | .ok s' => (s'.dropWax t q).waxRun t
    | .error s' => s'

def execWaxLoadComplete (tile : Nat) (s : State) : Host.Outcome State Fault Refusal := .next (s.waxLoaded tile)

/-- STREAM_START (R285): a stream whose ports are free begins to run, and a running one moves on. -/
def State.streamStart (s : State) (t : Nat) : State :=
  let start (s : State) (q : QEntry) : State :=
    match s.startStream t q with
    | .wait s => s
    | .bad c tv => ((s.dropWax t q).raiseLate q c 0 0 tv).waxRun t
    | .ok s' => (s'.modTile t (fun x => { x with wq := x.wq.erase q })).waxRun t
  let s := (waxHeads (s.tile t).wq).foldl (fun s q => match q.inst with | .wxstm _ _ => start s q | _ => s) s
  (s.tile t).streams.foldl (fun s m => s.streamMove t m false) s

def execStreamStart (tile : Nat) (s : State) : Host.Outcome State Fault Refusal := .next (s.streamStart tile)

/-- STREAM_END (R285): every read port has ended and the graph has drained. -/
def State.streamEnd (s : State) (t : Nat) : State :=
  (s.tile t).streams.foldl (fun s m => s.streamMove t m true) s

def execStreamEnd (tile : Nat) (s : State) : Host.Outcome State Fault Refusal := .next (s.streamEnd tile)

/-! The start of a matrix command beside the streams (R248, R254). -/

/-- The entries of a tile's vector queues. -/
def State.tileQueues (s : State) (t : Nat) : List QEntry := (List.range 4).flatMap (fun k => (s.core (t * 4 + k)).vq)

/-- Whether a matrix command waits for a stream that reaches its rows: one that runs, or one that was issued before it and has not started (R254).
A stream that itself waits for a matrix command which the engine takes after this one does not hold it: the engine executes the commands in the order
in which it accepts them (DEDUCED; log 70). -/
def State.accHeld (s : State) (t : Nat) (q : QEntry) : Bool :=
  let x := s.tile t
  let meets (rows : List (Nat × Nat)) : Bool := rowsMeet rows q.accRows
  let behind (e : QEntry) : Bool := (x.mq ++ s.tileQueues t).any (fun m => m.ord != q.ord && isMatrix m.inst && m.before e)
  x.streams.any (fun m => meets (descRows m.desc)) ||
  (x.wq ++ s.tileQueues t).any (fun e => e.isStream && decide (e.ord < q.ord) && meets (descRows (s.descOf e)) && !(behind e))

/-- The attempt to start a matrix command at the front of the engine's order. Commands that reach the
accumulator store or TM directly wait for every started command: one at a time reaches a word (R254). None overtakes an earlier command of its context
in TM (R124). -/
def State.startMatrix (s : State) (t : Nat) (q : QEntry) : Started :=
  let tc := match s.owner q with | some c => (s.ctx c).tc | none => false
  let idle := (s.tile t).mrun.isEmpty
  if s.accHeld t q || s.overtakes q 0 then .wait s
  else match q.inst with
    | .mm _ _ | .mms _ _ | .mmp _ _ => s.startMm t q tc
    | .mzero _ => if idle then .ok (s.zeroAcc t (q.a.toNat % 128) 32 (q.a.toNat / 256 % 256) 32) else .wait s
    | .macr v _ _ => if idle then .ok (s.macr t q v) else .wait s
    | .macw v _ => if idle then .ok (s.macw t q v) else .wait s
    | .macst _ _ => if idle then s.macst t q tc else .wait s
    | .mcmdCheck _ | .mcmdZall _ | .mcmdPcancel _ => s.mcmd t q
    | _ => s.mring t q

/-- MATRIX_COMMAND_START (R248): the command at the front of a tile's engine starts when it can; one that
raises a late cause at its start does nothing, and an MMP then aborts its pair (R249). A command with register results that fails
leaves them. -/
def State.matrixStart (s : State) (t : Nat) : State :=
  match (s.tile t).mq with
  | [] => s
  | q :: rest =>
    let drop (s : State) : State := s.modTile t (fun x => { x with mq := rest })
    let pair (s : State) : State := match q.inst, (s.tile t).half with
      | .mmp _ _, some h => s.abortPartner t (if ((s.tile t).sreg 0x241).getLsbD 63 then s.partnerOf t else h.from_)
      | _, _ => s
    match s.startMatrix t q with
    | .wait s => s
    | .ok s' => if q.rings.length = 2 then drop s' else (drop s').countDone q
    | .bad c tv => (pair ((drop s).countDone q)).raiseLate q c 0 0 tv

def execMatrixCommandStart (tile : Nat) (s : State) : Host.Outcome State Fault Refusal := .next (s.matrixStart tile)

end Sys2Proof.Machine
end

