-- ==== Sys2Proof/Machine/Execute.lean ====
section
/-! DEFINITION. The execution of vector operations at the head of a vector queue, the lane groups, and the
repetition buffer (R209-R215, R225-R228, R239, R270-R272, R281, R349-R353). -/

namespace Sys2Proof.Machine

/-! Lane groups (R349-R351). -/

/-- The weight of a core (R349). -/
def Tile.weight (t : Tile) (n : Nat) : Nat := (t.sreg 0x308).toNat / 16 ^ n % 16 + 1

/-- When the head of a core's queue was pushed. -/
def Core.headSince (k : Core) : Nat := match k.vq with | q :: _ => q.since | [] => 0

/-- Whether core number n of a tile comes before m for the next lane group: the larger weight for what it has,
then the older head, then the lower number (R350). -/
def State.laneBefore (s : State) (t : Nat) (a : List Nat) (n m : Nat) : Bool :=
  let l := (s.tile t).weight n * a.getD m 0
  let r := (s.tile t).weight m * a.getD n 0
  if l ≠ r then decide (r < l)
  else
    let x := (s.core (t * 4 + n)).headSince
    let y := (s.core (t * 4 + m)).headSince
    if x ≠ y then decide (x < y) else decide (n < m)

/-- Give out n more lane groups. -/
def State.giveLanes (s : State) (t : Nat) (occ : List Nat) : Nat → List Nat → List Nat
  | 0, a => a
  | n + 1, a =>
    match occ.foldl (fun (b : Option Nat) i => match b with
        | none => some i
        | some j => if s.laneBefore t a i j then some i else some j) none with
    | none => a
    | some i => s.giveLanes t occ n (a.zipIdx.map (fun p => if p.2 = i then p.1 + 1 else p.1))

/-- The target of each core of a tile. -/
def State.laneTargets (s : State) (t : Nat) : List Nat :=
  let occ := (List.range 4).filter (fun n => (s.core (t * 4 + n)).occupied)
  s.giveLanes t occ (4 - occ.length) ((List.range 4).map (fun n => if occ.contains n then 1 else 0))

/-- Queues that are unoccupied release every group they hold (R351). -/
def State.freeLanes (s : State) (t : Nat) : State :=
  (List.range 4).foldl (fun s n =>
    if (s.core (t * 4 + n)).lanes = 0 then s else s.modCore (t * 4 + n) Core.settleLanes) s

/-- The lane groups of a tile that no queue holds. -/
def State.lanesLeft (s : State) (t : Nat) : Nat := 4 - (List.range 4).foldl (fun v n => v + (s.core (t * 4 + n)).lanes) 0

/-- Put a core number into a list by the age of its queue's head, and then by number. -/
def State.putByHead (s : State) (t n : Nat) : List Nat → List Nat
  | [] => [n]
  | m :: ms => if (s.core (t * 4 + n)).headSince < (s.core (t * 4 + m)).headSince then n :: m :: ms else m :: s.putByHead t n ms

/-- The cores of a tile whose occupied queues hold no group, in the order of the age rule. -/
def State.laneWaiters (s : State) (t : Nat) : List Nat :=
  ((List.range 4).filter (fun n => (s.core (t * 4 + n)).occupied && (s.core (t * 4 + n)).lanes == 0)).foldl (fun l n => s.putByHead t n l) []

/-- Free groups go to the queues that wait for them, each up to its target before the next is served (R351). -/
def State.dealLanes (s : State) (t : Nat) : State :=
  let s := s.freeLanes t
  (s.laneWaiters t).foldl (fun s n =>
    let got := Nat.min ((s.laneTargets t).getD n 0) (s.lanesLeft t)
    if got = 0 then s else s.modCore (t * 4 + n) (fun x => { x with lanes := got })) s

/-- The head instruction of a core takes free groups when its queue holds none; none when no group is left for it. -/
def State.takeLanes (s : State) (k : Nat) : Option State :=
  let s := if (s.core k).lanes ≠ 0 then s.freeLanes (coreTile k) else s.dealLanes (coreTile k)
  if (s.core k).lanes = 0 then none else some s

/-- After an instruction has dealt its members its queue releases every group above its target. -/
def State.giveBack (s : State) (k : Nat) : State :=
  let t := coreTile k
  let s := s.modCore k (fun x => { x with lanes := Nat.min x.lanes ((s.laneTargets t).getD (k % 4) 0) })
  s.freeLanes t

/-! The end of an operation (R214, R215). -/

/-- Deliver an operation's results: its writes, its flags, and the first element that raises an enabled
floating cause, with the trap value of its member and element. -/
def State.finishOp (s : State) (c : Nat) (q : QEntry) (r : VRes) (tval : Nat → Nat → Word) : State :=
  let trapMask : Flags := ((s.ctx c).sreg 0x021).setWidth 5
  let s := s.deliverWrites q r.writes
  let s := s.orFlagsOf q (r.flags.foldl (fun f x => f ||| x.2.2) Flags.none)
  match firstCause (r.flags.map (fun x => (x.1 * 64 + x.2.1, x.2.2))) trapMask with
  | some (n, e) => s.raiseLate q e (n / 64) (n % 64) (tval (n / 64) (n % 64))
  | none => s

/-- An operation that writes nothing and raises a late cause. -/
def State.failOp (s : State) (q : QEntry) (c : Cause) (m e : Nat) (tval : Word) : State :=
  (s.deliverWrites q []).raiseLate q c m e tval

/-! Memory forms (R225-R227). -/

/-- The TM offset of an element (R226), checked: its bounds and alignment come before the comb of the tile, as in R92. -/
def tmElem (a : Word) (d : Int) (n : Nat) (wr : Bool) : M Nat := fun s =>
  let tv := a + BitVec.ofInt 64 d
  let off : Int := ptrOff a + d
  if !isTm a then .error (.trap .accessKind tv) s
  else match checkPtr s s.cur a 1 .read with
    | some .pointerFormat => .error (.trap .pointerFormat tv) s
    | bad =>
      if off < 0 ∨ 0x100000 < off + n then .error (.trap .regionBounds tv) s
      else if off.toNat % n ≠ 0 then .error (.trap .misaligned tv) s
      else if bad.isSome then .error (.trap .combAccess tv) s
      else if !(s.routeOpen (s.yardOf s.myTile) s.myTile (ptrTile s.myTile a)) then .error (.wait .engine tv) s
      else if s.hazard s.cur wr ((a &&& ~~~(0xFFFFF : Word)) ||| BitVec.ofNat 64 off.toNat) n then .error (.wait .engine tv) s
      else .ok off.toNat s

/-- Whether a memory form reaches TM: VLDTM and VSTTM, and VGATH and VSCAT with tag 14 or 15. -/
def QEntry.tmForm (q : QEntry) : Bool :=
  match q.inst with
  | .vldtm _ _ _ _ _ | .vsttm _ _ _ _ => true
  | .vgath _ _ _ _ _ | .vscat _ _ _ _ => isTm q.a
  | _ => false

/-- Whether a load reads a line that L1 does not serve, so that it delivers a word of it from home (R87, R110, R113). -/
def State.fromHome (s : State) (l : Leaf) (n : Nat) : Bool :=
  if s.inTask then (let x := (s.tile s.myTile).line (lineOf l.pa); !(x.present && !x.refill && x.dirty.isEmpty))
  else s.mustFill s.myTile l.pa n

/-- Mem[p, n] for an element of a vector load that began in the state s0. The words of a line that an earlier element of the same load
has filled raise their flags too (R87). -/
def loadElement (s0 : State) (who : Option Nat) (p : Word) (n : Nat) : M Nat := do
  match (← checkBy who p n .read) with
  | none => fun s => .ok (leNat (s.tmBytes (ptrTile s.myTile p) (ptrView p) (ptrOff p) n)) s
  | some l =>
    let own := match (← get).me.helper with | some h => h.holds | none => ((s0.tile s0.myTile).line (lineOf l.pa)).holds
    let bs ← loadShared l n
    if s0.fromHome l n then raiseFlags ((← get).sumFlagsBut l.pa n own)
    return leNat bs

/-- Load an element of n bytes. -/
def QEntry.loadElem (q : QEntry) (s0 : State) (d : Int) (n : Nat) : M Nat := do
  if q.tmForm then
    let o ← tmElem q.a d n false
    let s ← get
    return leNat (s.tmBytes (ptrTile s.myTile q.a) (ptrView q.a) o n)
  else
    let p := q.a + BitVec.ofInt 64 d
    trapIf (isTm p) .accessKind p
    loadElement s0 (some q.seq) p n

/-- Store an element of n bytes. -/
def QEntry.storeElem (q : QEntry) (d : Int) (n x : Nat) : M Unit := do
  if q.tmForm then
    let o ← tmElem q.a d n true
    modify (fun s => s.setTmBytes (ptrTile s.myTile q.a) (ptrView q.a) o (leBytes n x))
  else
    let p := q.a + BitVec.ofInt 64 d
    trapIf (isTm p) .accessKind p
    storeMem (some q.seq) p n x

/-- How the elements of a memory form went: loaded values with their flags, and the first failing element where there is one. -/
structure MemEnd where
  rs  : List (Nat × Nat × Flags)
  bad : Option (Cause × Word × Nat × Nat)

/-- The flags that an element's load has raised; they are collected and cleared. -/
def takeFlags : M Flags := fun s =>
  .ok ((s.me.sreg 0x020).setWidth 5) (s.modMe (fun x => x.setSreg 0x020 0))

/-- Perform the elements of a memory form in order (R210, R215). -/
def memElements (f : Nat × Nat × Nat → M Nat) : List (Nat × Nat × Nat) → List (Nat × Nat × Flags) → M MemEnd
  | [], acc => return { rs := acc, bad := none }
  | x :: xs, acc => fun s =>
    match f x s with
    | .error (.trap c tv) t => .ok { rs := acc, bad := some (c, tv, x.2.1, x.2.2) } t
    | .error e t => .error e t
    | .ok v t =>
      match takeFlags t with
      | .error e t => .error e t
      | .ok fl t => memElements f xs (acc ++ [(x.1, v, fl)]) t

/-- The elements of an entry's memory form. -/
def QEntry.memRun (q : QEntry) (o : VOp) (v : Reg) (st : Bool) : M MemEnd := fun s0 =>
  let n := o.p.fa.width / 8
  memElements (fun x => do
    let d := q.distance o.p x.1 x.2.1 x.2.2
    if st then
      q.storeElem d n (o.elem v o.p.fa x.1)
      return 0
    else q.loadElem s0 d n) (memElems o.ext o.p.fa o.mask) [] s0

/-- The address of element e of member b of a memory form (R215). -/
def QEntry.elemAddr (q : QEntry) (p : Pfx) (b e : Nat) : Word := q.a + BitVec.ofInt 64 (q.distance p (b * p.fa.elems + e) b e)

/-- Run a memory form for its context c. Where an element must wait, nothing of the form stands but the
requests it has sent and the misses it has registered, and it is tried again. Where an element fails, an earlier one that raises an enabled
floating cause is the one reported, and what the form leaves behind is that of the failing element (R215; log 70). -/
def State.runMem (s : State) (k c : Nat) (q : QEntry) (o : VOp) (v : Reg) (st : Bool) : State :=
  let rest := (s.core k).vq.drop 1
  let x := s.ctx c
  let s1 := (({ s with cur := c }).modCore k (fun y => { y with vq := [] })).modCtx c
    (fun y => (y.setSreg 0x020 0).setSreg 0x021 0)
  let back (t : State) : State :=
    (({ t with cur := s.cur }).modCore k (fun y => { y with vq := rest })).modCtx c
      (fun y => (y.setSreg 0x020 (x.sreg 0x020)).setSreg 0x021 (x.sreg 0x021))
  match q.memRun o v st s1 with
  | .ok r t =>
    let f := o.p.fa
    let fl := r.rs.map (fun r => (r.1 / f.elems, r.1 % f.elems, r.2.2))
    (match r.bad with
     | none => (back t).finishOp c q
        { writes := if st then [] else blockWrites v o.ext f.width (r.rs.map (fun r => (r.1, f.clean r.2.1))), flags := fl } (q.elemAddr o.p)
     | some (e, tv, m, el) =>
       let s := (back t).orFlagsOf q (fl.foldl (fun f x => f ||| x.2.2) Flags.none)
       match firstCause (fl.map (fun x => (x.1 * 64 + x.2.1, x.2.2))) ((x.sreg 0x021).setWidth 5) with
       | some (n, e) => s.failOp q e (n / 64) (n % 64) (q.elemAddr o.p (n / 64) (n % 64))
       | none => s.failOp q e m el tv)
  | .error (.wait _ _) t =>
    s.asked t
  | .error .left t =>
    ({ t with cur := s.cur }).modCore k (fun y => { y with vq := rest.filter (fun e => e.cid != c) })
  | .error _ _ => s

/-! VECTOR_EXECUTE (R209, R281). -/

/-- Run a V-format operation that holds lane groups. -/
def State.runVec (s : State) (k c : Nat) (q : QEntry) (d : VInfo) : State :=
  let o := q.vop d (s.ctx c).tc
  let drop (s : State) : State := s.modCore k (fun x => { x with vq := x.vq.drop 1 })
  if !(vFormats q.inst o.p.fa o.p.fb) then
    (drop s).failOp q .operandFormat 0 0 (if (vecMem q.inst).isSome then q.elemAddr o.p 0 0 else 0)
  else match vecMem q.inst with
    | some (v, _, st) => s.runMem k c q o v st
    | none =>
      match o.compute with
      | .done r => (drop s).finishOp c q r (fun _ _ => 0)
      | .cause e m el => (drop s).failOp q e m el 0

/-- Run a WAX: it waits for the load of its image and for a stream on its opcode (R281, R293). A load that failed,
or whose slot has been taken since, raises the wax-image-format cause. -/
def State.runWaxOp (s : State) (k c : Nat) (q : QEntry) (v a b : Reg) (ext : BitVec 4) (n : Nat) : State :=
  let t := coreTile k
  let drop (s : State) : State := (s.modCore k (fun x => { x with vq := x.vq.drop 1 })).countDone q
  let key := q.qkw.toNat
  if key ≠ failKey ∧ 2 ^ 63 ≤ key then s
  else if (s.tile t).streams.any (fun m => m.q.cid == c && m.op == n) then s
  else match s.imageOf t key with
    | none => (drop s).failOp q .waxFormat 0 0 0
    | some m =>
      if !(waxArityOk m v a b) then (drop s).failOp q .waxArity 0 0 0
      else
        let p := pfxOf z32z32 q.pfx
        (drop s).finishOp c q (waxCompute m q v a b ext (q.mreg p.m) (s.ctx c).tc) (fun _ _ => 0)

/-- The head of a core's vector queue executes (R209): an entry whose context is gone leaves the queue. -/
def State.vectorStep (s : State) (k : Nat) : State :=
  match (s.core k).vq with
  | [] => s.freeLanes (coreTile k)
  | q :: _ =>
    match s.owner q with
    | none => (s.modCore k (fun x => { x with vq := x.vq.drop 1 })).freeLanes (coreTile k)
    | some c =>
      match q.inst with
      | .wax v a b ext n _ => s.runWaxOp k c q v a b ext n.toNat
      | i => match vInfo i with
        | none => s
        | some d => match s.takeLanes k with
          | none => s
          | some s' =>
            let t := s'.runVec k c q d
            if (t.core k).vq.head? = some q then t else t.giveBack k

def execVectorExecute (core : Nat) (s : State) : Host.Outcome State Fault Refusal := .next ((s.vectorStep core).feed core 16)

/-! The repetition buffer (R239, R270-R272, R353). -/

/-- RP.REC (R271). -/
def execRpRec (a : Reg) (s : State) : Host.Outcome State Fault Refusal :=
  run (do
    noPrefix
    let s ← get
    trapIf s.inTask .contextKind 0
    gate [a] [] true
    let (x, _) ← readChecked (some a) none (fun _ x _ => if x = 0 ∨ 16 < x.toNat then some (.repetition, 0) else none)
    takeSeq (.rpRec a)
    countMine (.rpRec a)
    modify (fun s => s.modMe (fun y => { y with rep := { Rep.empty with target := x.toNat } }))
    next) s

/-- The issue checks of RP.RUN (R272). -/
def rpCheck : Check := fun s a b =>
  if a = 0 ∨ 65535 < a.toNat ∨ 32 ≤ b.toNat ∨ s.me.rep.buf.isEmpty ∨ s.me.rep.target ≠ 0 then some (.repetition, 0) else none

/-- RP.RUN (R272): the sequencer takes the push port. -/
def execRpRun (a b : Reg) (s : State) : Host.Outcome State Fault Refusal :=
  run (do
    noPrefix
    let s ← get
    trapIf s.inTask .contextKind 0
    gate [a, b] [] true
    let (x, y) ← readChecked (some a) (some b) rpCheck
    takeSeq (.rpRun a b)
    modify (fun s => s.modMe (fun c =>
      { c with rep := { c.rep with left := x.toNat, idx := 0, rs := y.toNat % 4, cs := y.toNat / 4 % 8, pc := c.pc } }))
    next) s

/-- A register field staggered by d; none when it leaves the register numbers (R272). -/
def stagger (r : Reg) (d : Nat) : Option Reg := if r.toNat + d < 32 then some (BitVec.ofNat 5 (r.toNat + d)) else none

/-- A replayed instance: its V, V1 and table fields staggered by d, its la 0. none stands for a broken extent. -/
def replayed (i : Instr) (d : Nat) : Option Instr :=
  let v3 (v a b : Reg) (f : Reg → Reg → Reg → Instr) : Option Instr := do
    let v ← stagger v d; let a ← stagger a d; let b ← stagger b d; return f v a b
  let v2 (v a : Reg) (f : Reg → Reg → Instr) : Option Instr := do let v ← stagger v d; let a ← stagger a d; return f v a
  let v1 (v : Reg) (f : Reg → Instr) : Option Instr := do let v ← stagger v d; return f v
  match i with
  | .vadd v a b e _ => v3 v a b (fun v a b => .vadd v a b e 0)
  | .vsub v a b e _ => v3 v a b (fun v a b => .vsub v a b e 0)
  | .vmul v a b e _ => v3 v a b (fun v a b => .vmul v a b e 0)
  | .vfma v a b e _ => v3 v a b (fun v a b => .vfma v a b e 0)
  | .vfms v a b e _ => v3 v a b (fun v a b => .vfms v a b e 0)
  | .vdiv v a b e _ => v3 v a b (fun v a b => .vdiv v a b e 0)
  | .vmin v a b e _ => v3 v a b (fun v a b => .vmin v a b e 0)
  | .vmax v a b e _ => v3 v a b (fun v a b => .vmax v a b e 0)
  | .vand v a b e _ => v3 v a b (fun v a b => .vand v a b e 0)
  | .vor v a b e _ => v3 v a b (fun v a b => .vor v a b e 0)
  | .vxor v a b e _ => v3 v a b (fun v a b => .vxor v a b e 0)
  | .vshl v a b e _ => v3 v a b (fun v a b => .vshl v a b e 0)
  | .vshr v a b e _ => v3 v a b (fun v a b => .vshr v a b e 0)
  | .vsra v a b e _ => v3 v a b (fun v a b => .vsra v a b e 0)
  | .vsel v a b e _ => v3 v a b (fun v a b => .vsel v a b e 0)
  | .vperm v a b e _ => v3 v a b (fun v a b => .vperm v a b e 0)
  | .vdot v a b e _ => v3 v a b (fun v a b => .vdot v a b e 0)
  | .vtbl v a b e _ => v3 v a b (fun v a b => .vtbl v a b e 0)
  | .vbfly v a b e _ => v3 v a b (fun v a b => .vbfly v a b e 0)
  | .vsqrt v a e _ => v2 v a (fun v a => .vsqrt v a e 0)
  | .vabs v a e _ => v2 v a (fun v a => .vabs v a e 0)
  | .vneg v a e _ => v2 v a (fun v a => .vneg v a e 0)
  | .vmov v a e _ => v2 v a (fun v a => .vmov v a e 0)
  | .vcvt v a e _ => v2 v a (fun v a => .vcvt v a e 0)
  | .vpack v a e _ => v2 v a (fun v a => .vpack v a e 0)
  | .vunpk v a e _ => v2 v a (fun v a => .vunpk v a e 0)
  | .vcmp c m a b e _ => v2 a b (fun a b => .vcmp c m a b e 0)
  | .vbcast v a e _ => v1 v (fun v => .vbcast v a e 0)
  | .vswz v a p e _ => v2 v a (fun v a => .vswz v a p e 0)
  | .vext g a b _ => v1 a (fun a => .vext g a b 0)
  | .vextMask g m _ => some (.vextMask g m 0)
  | .vins v a b _ => v1 v (fun v => .vins v a b 0)
  | .vinsMask m a _ => some (.vinsMask m a 0)
  | .vld v a b e _ => v1 v (fun v => .vld v a b e 0)
  | .vst v a b e => v1 v (fun v => .vst v a b e)
  | .vldtm v a b e _ => v1 v (fun v => .vldtm v a b e 0)
  | .vsttm v a b e => v1 v (fun v => .vsttm v a b e)
  | .vgath v a b e _ => v2 v b (fun v b => .vgath v a b e 0)
  | .vscat v a b e => v2 v b (fun v b => .vscat v a b e)
  | .vqnt v a b e _ => v2 v a (fun v a => .vqnt v a b e 0)
  | .vred v a p e _ => v2 v a (fun v a => .vred v a p e 0)
  | .vrng v e _ => v1 v (fun v => .vrng v e 0)
  | .vcls m a x e _ => v1 a (fun a => .vcls m a x e 0)
  | .vcnt v a p e _ => v2 v a (fun v a => .vcnt v a p e 0)
  | .vscan v a p e _ => v2 v a (fun v a => .vscan v a p e 0)
  | .wax v a b e n _ => v3 v a b (fun v a b => .wax v a b e n 0)
  | i => some i

/-- Whether an instance breaks the extent rules of R159 or of its operation. -/
def extentOk (i : Instr) (w : IWord) : Bool :=
  match i with
  | .wax v a b e _ _ => [v, a, b].all (fun r => blockOk r e)
  | i => match vInfo i with
    | none => true
    | some d => d.blocks.all (fun q => blockOk q d.ext) && (vExtra i (pfxOf d.dflt w)).isNone

/-- What an instance reads as it is pushed: its scalar fields, and the load that its opcode is bound to. A WAX that finds its opcode
unbound raises the wax-unbound cause (log 74). -/
def replayReads (i : Instr) : M (Word × Word × Word) := do
  match i with
  | .wax _ _ _ _ n _ =>
    let s ← get
    trapIf (!(s.me.bind n.toNat).bound) .waxUnbound 0
    return (0, 0, BitVec.ofNat 64 (s.bindKey s.cur n.toNat))
  | i =>
    match vInfo i with
    | none => trap .reserved 0
    | some d =>
      gate (d.sa.toList ++ d.sb.toList) d.push false
      let a ← readOpt d.sa
      let b ← readOpt d.sb
      if sharedForm i a then sharedSlot
      return (a, b, 0)

/-- The next instance in a running replay. -/
def Ctx.replayNext (x : Ctx) : Rep :=
  let i := x.rep.idx + 1
  if x.rep.left = 0 then x.rep
  else if i % x.rep.buf.length = 0 then { x.rep with left := x.rep.left - 1, idx := i } else { x.rep with idx := i }

/-- The instances of an RP.RUN have been pushed as far as they will be: the command has completed (R272, R273). -/
def State.replayOver (s : State) (c : Nat) : State :=
  if (s.ctx c).rep.left = 0 then s.countOn c (s.tagOf c) (.rpRun 0 0) else s

/-- A replay stops at an instance that is not executed: it raises its cause late, with a sequence number of its own (R239; log 74). -/
def State.replayStop (s : State) (k : Nat) (i : Instr) (w pfx : IWord) (cause : Cause) (tval : Word) : State :=
  let c := coreCid k 0
  let seq := (s.core k).seq
  let pc := (s.ctx c).rep.pc
  let q := { s.capture c i pfx 0 0 0 with seq := seq, pc := pc, replay := true }
  let s := (s.modCore k (fun y => { y.addRing { seq := seq, pc := pc, word := w } with seq := (seq + 1) % 65536 })).countPush
  ((s.modCtx c (fun y => { y with rep := { y.rep with left := 0 } })).raiseLate q cause 0 0 tval).replayOver c

/-- One instance of a replay is pushed (R239, R353); an empty popped queue holds it. -/
def State.pushInstance (s : State) (k : Nat) (i : Instr) (w pfx : IWord) : State :=
  let c := coreCid k 0
  match replayReads i { s with cur := c } with
  | .error (.trap cause tv) _ => s.replayStop k i w pfx cause tv
  | .error _ _ => s
  | .ok (a, b, key) t =>
    let seq := (s.core k).seq
    let t : State := { t with cur := s.cur }
    let t := t.enqueue k { t.capture c i pfx a b key with pc := (s.ctx c).rep.pc, replay := true }
    let t := if hasResult i then t.openWindow c ((s.ctx c).pos - 1) seq true else t
    (t.modCtx c (fun y => { y with rep := y.replayNext })).replayOver c

/-- REPLAY_PUSH (R353): in a tile cycle the sequencer of a core's control context pushes the next instruction of the current
replay where the queue has room. -/
def State.replayPush (s : State) (k : Nat) : State :=
  let c := coreCid k 0
  let x := s.ctx c
  if !x.live ∨ x.rep.left = 0 ∨ 16 ≤ (s.core k).vq.length ∨ !(s.core k).held.isEmpty ∨ !x.late.isEmpty then s
  else
    let n := x.rep.buf.length
    let e := x.rep.buf.getD (x.rep.idx % n) (0, 0)
    let j := x.rep.idx / n + 1
    match decode e.1 with
    | .zeroWord | .reserved => s.replayStop k (.rpRun 0 0) e.1 e.2 .reserved 0
    | .ok i0 =>
      match replayed i0 (8 * j * x.rep.rs + j * x.rep.cs) with
      | none => s.replayStop k i0 e.1 e.2 .blockExtent 0
      | some i =>
        if !(extentOk i e.2) then s.replayStop k i0 e.1 e.2 .blockExtent 0 else s.pushInstance k i e.1 e.2

def execReplayPush (core : Nat) (s : State) : Host.Outcome State Fault Refusal := .next (s.replayPush core)

end Sys2Proof.Machine
end

