-- ==== Sys2Proof/Machine/Engines.lean ====
section
/-! DEFINITION. The copy and gather/scatter engines, the landing windows, the collective engine, the acceptance
and the end of engine commands, and EN.STAT (R98, R102, R122, R242-R245, R257-R264, R273). -/

namespace Sys2Proof.Machine

/-! The pieces of a transfer (R258, R260, R262). -/

/-- A piece of a transfer: n bytes, which end the progress count at stop; the distances of its source and
destination from their pointers, the size of their checks, or the ring and byte position of a ring form. -/
structure Piece where
  n    : Nat
  stop : Nat
  src  : Word
  sd   : Int
  dst  : Word
  dd   : Int
  size : Nat
  ring : Option (Nat × Nat)
deriving DecidableEq, Repr

/-- The bytes from a pointer's distance to the next multiple of 128. -/
def toLine (p : Word) (d : Int) : Nat := 128 - ((p + BitVec.ofInt 64 d).toNat % 128)

/-- The ring of a ring-form command. -/
def QEntry.ringForm (q : QEntry) : Option Nat :=
  match q.inst with
  | .cpGo _ _ _ => if q.b = 0 then some ((q.sreg 0x252).toNat % 8) else none
  | .gaGo _ _ _ => if q.b = 0 then some ((q.sreg 0x264).toNat % 8) else none
  | _ => none

/-- The bytes that a copy or gather command moves in all. -/
def QEntry.total (q : QEntry) : Nat :=
  match q.inst with
  | .cpGo _ _ _ => (q.sreg 0x250).toNat * Nat.max 1 (q.sreg 0x253).toNat
  | .cpTm _ _ => (q.sreg 0x250).toNat
  | .gaGo _ _ _ | .scGo _ _ _ => (q.sreg 0x260).toNat * (q.sreg 0x261).toNat
  | _ => 0

/-- Element i's index in a gather or scatter (R262). -/
def State.gathIndex (s : State) (q : QEntry) (i : Nat) : Int :=
  let p := q.sreg 0x262
  (BitVec.ofNat 32 (leNat (s.tmBytes (cidTile q.cid) (ptrView p) (ptrOff p + 4 * i) 4))).toInt

/-- The piece of a command at a progress count; none when everything has moved. -/
def State.piece (s : State) (q : QEntry) (i : Nat) : Option Piece :=
  let len := (q.sreg 0x250).toNat
  let es := (q.sreg 0x261).toNat
  let n := (q.sreg 0x260).toNat
  match q.inst with
  | .cpGo _ _ _ =>
    if q.total ≤ i then none
    else
      let r := i / len
      let c := i % len
      let sd := r * (q.sreg 0x254).toInt + c
      let dd := r * (q.sreg 0x255).toInt + c
      let room := if q.ringForm.isSome then 128 - i % 128 else toLine q.b dd
      let m := Nat.min (len - c) room
      some { n := m, stop := i + m, src := q.a, sd := sd, dst := q.b, dd := dd, size := 1, ring := q.ringForm.map (fun k => (k, i)) }
  | .cpTm _ _ =>
    if len ≤ i then none
    else
      let m := Nat.min (len - i) (toLine q.b i)
      some { n := m, stop := i + m, src := q.a, sd := i, dst := q.b, dd := i, size := 1, ring := none }
  | .gaGo _ _ _ =>
    if n ≤ i then none
    else some { n := es, stop := i + 1, src := q.a, sd := s.gathIndex q i * es, dst := q.b, dd := i * es, size := es,
                ring := q.ringForm.map (fun k => (k, i * es)) }
  | .scGo _ _ _ =>
    if n ≤ i then none
    else some { n := es, stop := i + 1, src := q.a, sd := i * es, dst := q.b, dd := s.gathIndex q i * es, size := es, ring := none }
  | _ => none

/-- The scope of a command (R244); 4 where it has none: a launch block lies anywhere in shared memory (R265). -/
def QEntry.scope (q : QEntry) : Nat :=
  match q.inst with
  | .cpGo _ _ sc | .gaGo _ _ sc | .scGo _ _ sc | .coRed _ _ sc | .coBcast _ _ sc | .coAr _ _ sc => sc.toNat
  | .lnTask _ _ | .lnGraph _ _ => 4
  | _ => 0

/-- The fill-word operand of a command. -/
def QEntry.fill (q : QEntry) : Word :=
  match q.inst with
  | .gaGo _ _ _ | .scGo _ _ _ => q.sreg 0x263
  | .coRed _ _ _ | .coBcast _ _ _ | .coAr _ _ _ => q.sreg 0x273
  | _ => q.sreg 0x251

/-- The fill word of a command, whose counted bytes may lie in another tile's TM. -/
def State.cmdFill (s : State) (q : QEntry) : FillOp :=
  s.fillOp q q.fill (if q.ringForm.isNone ∧ isTm q.b then some (ptrTile (cidTile q.cid) q.b) else none)

/-! Ownership (R122). -/

/-- The destination lines of a command from a progress count on, up to its first failing check. The fuel bounds the
pieces. -/
def State.destLines (s : State) (q : QEntry) : Nat → Nat → List Nat → Option (List Nat) × State
  | 0, _, acc => (some acc, s)
  | fuel + 1, i, acc =>
    match s.piece q i with
    | none => (some acc, s)
    | some p =>
      if p.ring.isSome then (some acc, s)
      else match s.place q q.scope p.dst p.dd p.n p.size .write with
        | .bad _ _ s => (some acc, s)
        | .wait s => (none, s)
        | .ok (.tm _ _ _) s => s.destLines q fuel p.stop acc
        | .ok (.mem l) s => s.destLines q fuel p.stop (if acc.contains (lineOf l.pa) then acc else acc ++ [lineOf l.pa])

/-- The destination lines of a collective member. -/
def State.collLines (s : State) (q : QEntry) (n w : Nat) : Nat → List Nat → Option (List Nat) × State
  | 0, acc => (some acc, s)
  | fuel + 1, acc =>
    if n ≤ fuel then (none, s)
    else match s.place q q.scope q.b ((n - 1 - fuel) * w : Nat) w w .write with
      | .bad _ _ s => (some acc, s)
      | .wait s => (none, s)
      | .ok (.tm _ _ _) s => s.collLines q n w fuel acc
      | .ok (.mem l) s => s.collLines q n w fuel (if acc.contains (lineOf l.pa) then acc else acc ++ [lineOf l.pa])

/-- The element format of a collective (R263); none where the code names none of its eight. -/
def collFmt (op : Word) : Option Fmt :=
  match op.toNat % 16 with
  | 4 => some .i32 | 5 => some .z32 | 6 => some .i64 | 7 => some .z64 | 12 => some .f16 | 13 => some .bf16
  | 14 => some .f32 | 15 => some .f64 | _ => none

/-- The lines that a command will write. -/
def State.cmdLines (s : State) (q : QEntry) : Option (List Nat) × State :=
  match q.inst with
  | .cpGo _ _ _ | .gaGo _ _ _ | .scGo _ _ _ => s.destLines q (q.total + 1) 0 []
  | .coRed _ _ _ | .coBcast _ _ _ | .coAr _ _ _ =>
    let n := (q.sreg 0x271).toNat
    s.collLines q n (((collFmt (q.sreg 0x272)).map Fmt.width).getD 8 / 8) n []
  | _ => (some [], s)

/-- The effects of issuing an engine command whose destination includes shared lines (R122): its core's dirty
bytes go home, the tile's copies of the destination lines are discarded, and each home records the engine as the
owner. none: a translation or another owner is waited for, of a destination line or of a line that the core's dirty bytes are to go
to, or a vector access to shared memory that stands before it in the core's queue (log 32). -/
def State.ownLines (s : State) (q : QEntry) (id : Nat) : Option State × State :=
  let r := s.cmdLines q
  match r.1 with
  | none => (none, r.2)
  | some [] => (some r.2, r.2)
  | some ls =>
    let t := cidTile q.cid
    if ls.any (fun l => !(r.2.homeOpen t (l * 128) none)) || r.2.dirtyBlocked t (cidCore q.cid) ||
        (s.core (cidCore q.cid)).vq.any (fun e => decide (e.ord < q.ord) && sharedForm e.inst e.a) then (none, r.2)
    else
      let s := r.2.releaseCore t (cidCore q.cid)
      let s := ls.foldl (fun s l =>
        let s := (s.cleanLine t l).modTile t (fun x => x.setLine l CacheLine.absent)
        s.setL2 l { s.l2line l with engine := some id }) s
      (some s, s)

/-! Issue (R242-R244, R258-R262). -/

/-- The scope check of an engine command (R244, R304): its scope 3 is forbidden when it may reach neither host nor peer memory (log 71). -/
def scopeBad (s : State) (sc : BitVec 2) : Bool := sc == 3 && !(s.me.sreg 0x807).getLsbD 1 && !(s.me.sreg 0x807).getLsbD 2

/-- Issue a command that moves data: in a task it is deferred; otherwise its destination lines are owned before it is
pushed, under a number of its own. -/
def moveIssue (i : Instr) (a b : Reg) (chk : Check) : M Unit := do
  noPrefix
  gate [a, b] [] true
  let (x, y) ← readChecked (some a) (some b) chk
  let s ← get
  if s.inTask then defer i x y
  else
    if s.pushBlocked then waitFor .fullQueue 0
    let q := { s.capture s.cur i 0 x y 0 with seq := (s.core s.myCore).seq }
    match s.ownLines q s.nextReq with
    | (none, t) => set t; waitFor .owned 0
    | (some t, _) => set { t with nextReq := s.nextReq + 1 }
    pushCop i 0 x y (BitVec.ofNat 64 s.nextReq) none false
  next

/-- CP.GO's issue checks (R258). -/
def cpCheck (sc : BitVec 2) : Check := fun s _ b =>
  if scopeBad s sc then some (.scopePolicy, 0)
  else if (b = 0 ∧ !(s.me.sreg 0x252).getLsbD 3) ∨ s.me.sreg 0x250 = 0 then some (.accessKind, 0)
  else none

def execCpGo (a b : Reg) (sc : BitVec 2) (s : State) : Host.Outcome State Fault Refusal :=
  run (moveIssue (.cpGo a b sc) a b (cpCheck sc)) s

/-- CP.LAND's issue check (R259). -/
def landCheck : Check := fun _ _ b =>
  if 2 ^ 27 ≤ b.toNat ∨ 0x100000 < b.toNat % 2 ^ 21 then some (.accessKind, 0) else none

def execCpLand (a b : Reg) (s : State) : Host.Outcome State Fault Refusal :=
  run (cIssue (.cpLand a b) (some a) (some b) landCheck true) s

/-- CP.TM (R260). -/
def execCpTm (a b : Reg) (s : State) : Host.Outcome State Fault Refusal :=
  run (cIssue (.cpTm a b) (some a) (some b) noCheck true) s

/-- The issue checks of GA.GO and SC.GO (R244, R258, R262). -/
def gathCheck (sc : BitVec 2) (gather : Bool) : Check := fun s _ b =>
  if scopeBad s sc then some (.scopePolicy, 0)
  else if !([1, 2, 4, 8, 16, 64, 128].contains (s.me.sreg 0x261).toNat) ∨ s.me.sreg 0x260 = 0 ∨
      (gather ∧ b = 0 ∧ !(s.me.sreg 0x264).getLsbD 3) then some (.accessKind, 0)
  else none

def execGaGo (a b : Reg) (sc : BitVec 2) (s : State) : Host.Outcome State Fault Refusal :=
  run (moveIssue (.gaGo a b sc) a b (gathCheck sc true)) s
def execScGo (a b : Reg) (sc : BitVec 2) (s : State) : Host.Outcome State Fault Refusal :=
  run (moveIssue (.scGo a b sc) a b (gathCheck sc false)) s

/-- Whether a yard holds the collective engine of a hive (R363, R370). -/
def State.holdsColl (s : State) (yard h : Nat) : Bool := (s.memWord (recordPa yard + 0x28)).getLsbD h

/-- The barrier domain register that a collective selects, as a context holds it. -/
def collBar (sr : Nat → Word) : Word := sr (0x340 + (sr 0x270).toNat % 8)

/-- The issue checks of a collective (R244, R263, R264): R264 names no cause of its own for a bad domain, rank or root, and of the causes
that R287 leaves these commands the collective-mismatch cause is R264's (log 72). -/
def collCheck (sc : BitVec 2) : Check := fun s _ _ =>
  let d := s.me.sreg 0x270
  let bar := collBar s.me.sreg
  let m := bar.toNat % 65536
  if scopeBad s sc then some (.scopePolicy, 0)
  else if !(s.holdsColl (s.yardOf s.myTile) (hiveOf s.myTile)) then some (.engineAbsent, 0)
  else if !(bar.getLsbD 63) ∨ m = 0 ∨ m ≤ d.toNat / 65536 % 4096 ∨ m ≤ d.toNat / 2 ^ 32 % 4096 then some (.collMismatch, 0)
  else none

def execCoRed (a b : Reg) (sc : BitVec 2) (s : State) : Host.Outcome State Fault Refusal :=
  run (moveIssue (.coRed a b sc) a b (collCheck sc)) s
def execCoBcast (a b : Reg) (sc : BitVec 2) (s : State) : Host.Outcome State Fault Refusal :=
  run (moveIssue (.coBcast a b sc) a b (collCheck sc)) s
def execCoAr (a b : Reg) (sc : BitVec 2) (s : State) : Host.Outcome State Fault Refusal :=
  run (moveIssue (.coAr a b sc) a b (collCheck sc)) s

/-! Acceptance (R242). -/

/-- Put an engine command into its engine; one that owns no lines yet, released by a commit, takes them. -/
def State.acceptCmd (s : State) (q : QEntry) (e : Nat) : Option State × State :=
  let add (s : State) (id : Nat) : State :=
    let own := (s.l2.filter (fun p => p.2.engine == some id)).map (fun p => p.1)
    s.modTile (cidTile q.cid) (fun x => { x with eng := x.eng ++ [({ id := id, eng := e, q := q, owned := own, moved := 0, src := [] } : ECmd)] })
  if q.qkw ≠ 0 then let t := add s q.qkw.toNat; (some t, t)
  else
    let id := s.nextReq
    match s.ownLines q id with
    | (none, t) => (none, t)
    | (some t, _) => let t := add { t with nextReq := id + 1 } id; (some t, t)

/-- ENGINE_ACCEPT (R242): the command at the head of a core's queue passes to its engine when the engine's input has
room: sixteen matrix commands of a tile that have not started (R406). -/
def State.accept (s : State) (k : Nat) : State :=
  match (s.core k).vq with
  | [] => s
  | q :: _ =>
    let t := coreTile k
    let drop (s : State) : State := s.modCore k (fun x => { x with vq := x.vq.drop 1 })
    match q.inst, engineOf q.inst with
    | .wax _ _ _ _ _ _, _ => s
    | _, some 3 => if (s.tile t).mq.length < 16 then (drop s).modTile t (fun x => { x with mq := x.mq ++ [q] }) else s
    | _, some 6 => ((drop s).modTile t (fun x => { x with wq := x.wq ++ [q] })).waxRun t
    | _, some e => match s.acceptCmd q e with
      | (some t, _) => drop t
      | (none, t) => t
    | _, none => s

def execEngineAccept (core : Nat) (s : State) : Host.Outcome State Fault Refusal := .next ((s.accept core).feed core 16)

/-! The transfer. -/

/-- Read n bytes from a pointer's distance in runs that stay in a 128-byte line: the bytes before the first failing
check with its cause, or none while one must wait. -/
def State.readRun (s : State) (q : QEntry) (id : Nat) (p : Word) (d : Int) (n size : Nat) :
    Nat → List Byte → Option (List Byte × Option (Cause × Word)) × State
  | 0, acc => (some (acc, none), s)
  | fuel + 1, acc =>
    if n ≤ acc.length then (some (acc, none), s)
    else
      let d' := d + acc.length
      let m := if size = 1 then Nat.min (n - acc.length) (toLine p d') else n
      match s.place q q.scope p d' m size .read with
      | .wait s => (none, s)
      | .bad c tv s => (some (acc, some (c, tv)), s)
      | .ok pl s =>
        if s.placeFree pl (some id) then
          (match s.placeHere q pl m with
           | .yes s => (s.fillPlace q pl).readRun q id p d n size fuel (acc ++ s.readPlace q pl m)
           | .no s => (none, s)
           | .lost tv s => (some (acc, some (.memError, tv)), s))
        else (none, s)

/-- What one piece gives: nothing is left, it must wait, it writes a shared line, it moved, or a check failed. -/
inductive EStep where
  | done (s : State)
  | wait (s : State)
  | shared (s : State)
  | go (s : State) (i : Nat)
  | bad (c : Cause) (tval : Word) (s : State)

/-- The destination of a piece: its place, and whether a ring has no room for it. -/
def State.pieceDst (s : State) (q : QEntry) (p : Piece) : Found :=
  match p.ring with
  | none => s.place q q.scope p.dst p.dd p.n p.size .write
  | some (k, pos) =>
    let t := cidTile q.cid
    let r := s.ring t k
    if r.slots ≤ r.held then .wait s
    else .ok (.tm t r.view (r.slotOff r.tail + pos % r.tileBytes)) s

/-- After the bytes of a ring form have landed: a tile whose last byte has landed advances the tail (R98). -/
def State.ringLanded (s : State) (q : QEntry) (p : Piece) : State :=
  match p.ring with
  | none => s
  | some (k, pos) =>
    let t := cidTile q.cid
    if (pos + p.n) % (s.ring t k).tileBytes = 0 then s.ringTail t k 1 else s

/-- Whether the pieces of a command from a progress count on write the line of a place again. -/
def State.writesAgain (s : State) (q : QEntry) (i : Nat) (pl : Place) : Bool :=
  match pl with
  | .tm _ _ _ => false
  | .mem l => match (s.destLines q (q.total + 1) i []).1 with
    | some ls => ls.contains (lineOf l.pa)
    | none => true

/-! Overlaps (R258). -/

/-- Whether a copy stays within the TM of one tile. -/
def QEntry.oneTm (q : QEntry) : Bool :=
  let t := cidTile q.cid
  match q.inst with
  | .cpGo _ _ _ | .cpTm _ _ => isTm q.a &&
    (match q.ringForm with | some _ => ptrTile t q.a == t | none => isTm q.b && ptrTile t q.a == ptrTile t q.b)
  | _ => false

/-- The source bytes of a command, up to its first failing check. The fuel bounds the pieces. -/
def State.sourceBytes (s : State) (q : QEntry) : Nat → Nat → List Byte → List Byte
  | 0, _, acc => acc
  | fuel + 1, i, acc =>
    match s.piece q i with
    | none => acc
    | some p => match s.readRun q 0 p.src p.sd p.n p.size 3 [] with
      | (some (bs, none), s) => s.sourceBytes q fuel p.stop (acc ++ bs)
      | (some (bs, some _), _) => acc ++ bs
      | (none, _) => acc

/-- A run of n shared bytes by its physical address. -/
abbrev Run := Nat × Nat

/-- The physical runs of n bytes at a distance from a pointer, cut at lines. -/
def State.runsOf (s : State) (q : QEntry) (p : Word) (d : Int) (n : Nat) (k : AKind) : Nat → Nat → List Run → List Run
  | 0, _, acc => acc
  | fuel + 1, i, acc =>
    if n ≤ i then acc
    else
      let m := Nat.min (n - i) (toLine p (d + i))
      match s.place q q.scope p (d + i) m 1 k with
      | .ok (.mem l) s => s.runsOf q p d n k fuel (i + m) (acc ++ [(l.pa, m)])
      | _ => acc

/-- The source and destination runs of a copy between shared places. -/
def State.copyRuns (s : State) (q : QEntry) : Nat → Nat → List Run × List Run → List Run × List Run
  | 0, _, acc => acc
  | fuel + 1, i, acc =>
    match s.piece q i with
    | none => acc
    | some p => s.copyRuns q fuel p.stop (s.runsOf q p.src p.sd p.n .read 3 0 acc.1, s.runsOf q p.dst p.dd p.n .write 3 0 acc.2)

/-- Whether a byte lies in some runs. -/
def inRuns (rs : List Run) (pa : Nat) : Bool := rs.any (fun r => decide (r.1 ≤ pa) && decide (pa < r.1 + r.2))

/-- The addresses of runs, byte by byte. -/
def runBytes (rs : List Run) : List Nat := rs.flatMap (fun r => (List.range r.2).map (fun i => r.1 + i))

/-- Replace by free values the bytes that a list marks. -/
def State.freeBytes (s : State) : List Byte → List Bool → List Byte × State
  | b :: bs, m :: ms =>
    if m then (let p := s.draw; let r := p.2.freeBytes bs ms; (p.1.setWidth 8 :: r.1, r.2))
    else (let r := s.freeBytes bs ms; (b :: r.1, r.2))
  | bs, _ => (bs, s)

/-- The bytes of a piece as they land: where the source and the destination of a copy overlap in shared memory, a byte that lies in the
source or comes from the destination is a free value (R258; log 5). -/
def State.landBytes (s : State) (q : QEntry) (p : Piece) (bs : List Byte) : List Byte × State :=
  match q.inst with
  | .cpGo _ _ _ =>
    if isTm q.a || isTm q.b || p.ring.isSome then (bs, s)
    else
      let r := s.copyRuns q (q.total + 1) 0 ([], [])
      let src := runBytes (s.runsOf q p.src p.sd p.n .read 3 0 [])
      let dst := runBytes (s.runsOf q p.dst p.dd p.n .write 3 0 [])
      s.freeBytes bs ((src.zip dst).map (fun x => inRuns r.2 x.1 || inRuns r.1 x.2))
  | _ => (bs, s)

/-- Whether the flits of a piece may leave on its engine's port now; a piece that stays in its tile sends none (R354, R355, R358;
log 20). -/
def State.canMove (s : State) (q : QEntry) (p : Piece) : Bool :=
  let t := cidTile q.cid
  let here (x : Word) : Bool := isTm x && ptrTile t x == t
  (here p.src && (p.ring.isSome || here p.dst)) || s.portOpen t (4 + (engineOf q.inst).getD 0)

/-- The first failing check of the index of element i of a gather or scatter: it is read through a tag-15 pointer (R92, R261, R262; log 70). -/
def State.gathBad (s : State) (q : QEntry) (i : Nat) : Option (Cause × Word) :=
  let p := q.sreg 0x262
  let check : Option (Cause × Word) :=
    if (q.sreg 0x260).toNat ≤ i then none
    else if ptrTag p ≠ 15 then some (.accessKind, p)
    else match s.place q 4 p (4 * i : Nat) 4 4 .read with
      | .bad c tv _ => some (c, tv)
      | _ => none
  match q.inst with
  | .gaGo _ _ _ | .scGo _ _ _ => check
  | _ => none

/-- Move one piece. held is what a copy within one TM read before it wrote anything. -/
def State.movePiece (s0 : State) (q : QEntry) (id i : Nat) (f : FillOp) (homeToo : Bool) (held : List Byte) : EStep :=
  match s0.gathBad q i, s0.piece q i with
  | some (c, tv), _ => .bad c tv s0
  | none, none => .done s0
  | none, some p =>
    match s0.pieceDst q p with
    | .wait s => .wait (s0.asked s)
    | .bad c tv s => .bad c tv s
    | .ok pl s =>
      let mem : Bool := match pl with | .mem _ => true | .tm _ _ _ => false
      if mem ∧ !homeToo then .shared s0
      else if !(s.placeFree pl (some id)) || !(s.canMove q p) then .wait (s0.asked s)
      else match s.readRun q id p.src p.sd p.n p.size 3 [] with
        | (none, s) => .wait (s0.asked s)
        | (some (bs, e), s) =>
          let r := if q.oneTm then ((held.drop i).take bs.length, s) else s.landBytes q p bs
          let s := if bs.isEmpty then r.2 else r.2.landAt q f pl r.1
          let s := if s.writesAgain q p.stop pl then s else s.freePlace pl
          match e with
          | some (c, tv) => .bad c tv s
          | none => .go (s.ringLanded q p) p.stop

/-- The checks of a command before it moves anything (R245, R258, R260, R262). -/
def State.cmdStart (s : State) (q : QEntry) : Option Cause :=
  let tmOnly : Bool := match q.inst with | .cpTm _ _ => true | _ => false
  if s.cmdFill q = .bad then some .fillFormat
  else if tmOnly ∧ !(isTm q.a && isTm q.b) then some .accessKind
  else match q.ringForm with
    | none => none
    | some k =>
      let r := s.ring (cidTile q.cid) k
      if !r.valid ∨ q.total % r.tileBytes ≠ 0 then some .ringGeometry else none

/-- A command has ended: it leaves its engine, and what it still owns is free. -/
def State.endCmd (s : State) (t : Nat) (e : ECmd) : State :=
  let own := (s.l2.filter (fun p => p.2.engine == some e.id)).map (fun p => p.1)
  ((s.disown own).modTile t (fun x => { x with eng := x.eng.filter (fun y => y.id != e.id) })).countDone e.q

/-- Note how far a command has come, and the source bytes it holds. -/
def State.setMoved (s : State) (t : Nat) (e : ECmd) (held : List Byte) (i : Nat) : State :=
  s.modTile t (fun x => { x with eng := x.eng.map (fun y => if y.id = e.id then { y with moved := i, src := held } else y) })

/-- Move the pieces of a command as far as they go without a write at home; the fuel bounds them. -/
def State.movePieces (s : State) (q : QEntry) (id : Nat) (f : FillOp) (held : List Byte) : Nat → Nat → EStep × Nat
  | 0, i => (.wait s, i)
  | fuel + 1, i =>
    match s.movePiece q id i f false held with
    | .go s j => s.movePieces q id f held fuel j
    | r => (r, i)

/-- The transfer of a copy or gather command, on to its end or its first write at home. A copy within the TM of one tile reads every
source byte before it writes (R258). It begins once no earlier command of its context conflicts with it in TM (R124). -/
def State.finishMove (s : State) (t : Nat) (e : ECmd) : State :=
  if e.moved = 0 ∧ s.overtakes e.q 0 then s
  else match (if e.moved = 0 then s.cmdStart e.q else none) with
  | some c => (s.endCmd t e).raiseLate e.q c 0 0 0
  | none =>
    let held := if e.moved = 0 ∧ e.q.oneTm then s.sourceBytes e.q (e.q.total + 1) 0 [] else e.src
    let r := s.movePieces e.q e.id (s.cmdFill e.q) held (e.q.total + 1) e.moved
    match r.1 with
    | .done s => s.endCmd t e
    | .wait s => s.setMoved t e held r.2
    | .shared s => s.setMoved t e held r.2
    | .go s i => s.setMoved t e held i
    | .bad c tv s => (s.endCmd t e).raiseLate e.q c 0 0 tv

/-- The first command of each context among those of an engine: a context's commands start in issue order, in which its engine has
accepted them (R242). -/
def engHeads (es : List ECmd) : List ECmd :=
  es.zipIdx.filterMap (fun (p : ECmd × Nat) =>
    if (es.take p.2).any (fun y => y.q.cid == p.1.q.cid && y.q.tag == p.1.q.tag) then none else some p.1)

/-- ENGINE_WRITE_HOME (R122): the next write at home of a tile's engine commands; the oldest that can go does. -/
def State.engineHome (s : State) (t : Nat) : State :=
  let heads (n : Nat) : List ECmd := engHeads ((s.tile t).eng.filter (fun e => e.eng == n))
  (heads 0 ++ heads 1).foldl (fun (r : State × Bool) e =>
    if r.2 ∨ (e.moved = 0 ∧ ((r.1.cmdStart e.q).isSome ∨ r.1.overtakes e.q 0)) then r
    else match r.1.movePiece e.q e.id e.moved (r.1.cmdFill e.q) true e.src with
      | .go s i => (s.setMoved t e e.src i, true)
      | .bad c tv s => ((s.endCmd t e).raiseLate e.q c 0 0 tv, true)
      | .wait s => (s, false)
      | _ => r) (s, false) |>.1

def execEngineWriteHome (tile : Nat) (s : State) : Host.Outcome State Fault Refusal := .next (s.engineHome tile)

/-! Landing windows (R102, R259). -/

/-- The number of a landing window: a tenant's windows are 0-63. -/
def winKey (yard n : Nat) : Nat := yard * 64 + n

/-- CP.LAND's effect. Length 0 disarms the window, and neither pointer nor fill word is checked then (DESIGN CHOICE; log 32). -/
def State.land (s : State) (t : Nat) (e : ECmd) : State :=
  let q := e.q
  let b := q.b.toNat
  let key := winKey (s.yardOf t) (b / 2 ^ 21 % 64)
  let set (s : State) (w : LandWin) : State := { s with wins := SMap.set (fun _ => LandWin.disarmed) s.wins key w }
  let fail (s : State) (c : Cause) (tv : Word) : State := (s.endCmd t e).raiseLate q c 0 0 tv
  let len := b % 2 ^ 21
  if len = 0 then (set s LandWin.disarmed).endCmd t e
  else if !isTm q.a then fail s .accessKind q.a
  else match checkPtr s q.cid q.a 1 .write with
    | some c => fail s c q.a
    | none =>
      let u := ptrTile t q.a
      if 0x100000 < ptrOff q.a + len then fail (set s LandWin.disarmed) .regionBounds q.a
      else match s.fillOp q (q.sreg 0x251) (some u) with
        | .at v _ _ =>
          if v = u then
            (set s { armed := true, tile := u, view := ptrView q.a, off := ptrOff q.a, len := len, fill := q.sreg 0x251, cid := q.cid, tag := q.tag, seq := q.seq }).endCmd t e
          else fail s .fillFormat 0
        | _ => fail s .fillFormat 0

/-! Collectives (R263, R264). -/

/-- A member's command with its tile. -/
abbrev Member := Nat × ECmd

/-- The fields that matched commands share: the command, the length, the operation and the root. -/
def collKey (q : QEntry) : Nat × Word × Word × Nat :=
  let c := match q.inst with | .coRed _ _ _ => 0 | .coBcast _ _ _ => 1 | _ => 2
  (c, q.sreg 0x271, q.sreg 0x272, (q.sreg 0x270).toNat / 2 ^ 32 % 4096)

def collRank (q : QEntry) : Nat := (q.sreg 0x270).toNat / 65536 % 4096

/-- The collective commands on a domain of a yard that can be matched: each is the first of its context at the engine, on whichever domain,
since the commands of a context start in issue order (R242). -/
def State.collMembers (s : State) (yard dom : Nat) : List Member :=
  let all : List Member := s.tiles.flatMap (fun p =>
    if s.yardOf p.1 = yard then (p.2.eng.filter (fun e => e.eng == 2)).map (fun e => (p.1, e)) else [])
  all.zipIdx.filterMap (fun (p : Member × Nat) =>
    let first := (all.take p.2).all (fun m => m.2.q.tag != p.1.2.q.tag)
    if first && (collBar p.1.2.q.sreg).toNat / 2 ^ 32 % 65536 == dom then some p.1 else none)

/-- Read the elements of a member's source: the codes, the first failing check, or a wait. -/
def State.collRead (s : State) (m : Member) (n w : Nat) : Nat → List Nat → Option (List Nat × Option (Cause × Word)) × State
  | 0, acc => (some (acc, none), s)
  | fuel + 1, acc =>
    if n ≤ acc.length then (some (acc, none), s)
    else match s.place m.2.q m.2.q.scope m.2.q.a (acc.length * w : Nat) w w .read with
      | .wait s => (none, s)
      | .bad c tv s => (some (acc, some (c, tv)), s)
      | .ok pl s =>
        if s.placeFree pl (some m.2.id) then
          (match s.placeHere m.2.q pl w with
           | .yes s => (s.fillPlace m.2.q pl).collRead m n w fuel (acc ++ [leNat (s.readPlace m.2.q pl w)])
           | .no s => (none, s)
           | .lost tv s => (some (acc, some (.memError, tv)), s))
        else (none, s)

/-- Whether every place of a member's destination can be written now, and the first failing element. -/
def State.collWrite (s : State) (m : Member) (f : FillOp) (w : Nat) : Nat → List Nat → Option (Option (Nat × Cause × Word)) × State
  | _, [] => (some none, s)
  | i, x :: xs =>
    match s.place m.2.q m.2.q.scope m.2.q.b (i * w : Nat) w w .write with
    | .wait s => (none, s)
    | .bad c tv s => (some (some (i, c, tv)), s)
    | .ok pl s =>
      if s.placeFree pl (some m.2.id) then
        (s.landAt m.2.q f pl (leBytes w x)).collWrite m f w (i + 1) xs
      else (none, s)

/-- The reduction of one element (R264). -/
def collElem (f : Fmt) (op : Nat) (sat : Bool) (xs : List Nat) : Nat × Flags :=
  let vs := xs.map (f.value false)
  if op = 0 then
    (if f.isInt then (f.ofInt sat (xs.foldl (fun t x => t + f.intValue x) 0), Flags.none)
     else
       let t := exactSum .rne vs
       addFlags t.2 (f.round false false { rm := .rne, g := 0 } t.1))
  else
    let r := selectNum op vs
    let sig := vs.foldl (fun fl x => fl ||| x.sigFlag) Flags.none
    if f.isInt then (f.ofInt false r.toInt, Flags.none)
    else addFlags sig (f.round false false { rm := .rne, g := 0 } r)

/-- End every member's command with a late cause. -/
def State.collFail (s : State) (ms : List Member) (c : Nat → Cause) : State :=
  ms.zipIdx.foldl (fun s (p : Member × Nat) => (s.endCmd p.1.1 p.1.2).raiseLate p.1.2.q (c p.2) 0 0 0) s

/-- Read the sources of some members in turn. -/
def State.collReads (s : State) (n w : Nat) : List Member → List (List Nat × Option (Cause × Word)) →
    Option (List (List Nat × Option (Cause × Word))) × State
  | [], acc => (some acc, s)
  | m :: ms, acc =>
    match s.collRead m n w (n + 1) [] with
    | (none, s) => (none, s)
    | (some r, s) => s.collReads n w ms (acc ++ [r])

/-- Deliver a result to the receiving members; false while one must wait. -/
def State.collDeliver (s : State) (w : Nat) (xs : List Nat) (fl : List (Nat × Flags)) : List Member → Bool × State
  | [] => (true, s)
  | m :: ms =>
    let q := m.2.q
    match s.collWrite m (s.cmdFill q) w 0 xs with
    | (none, s) => (false, s)
    | (some e, s) =>
      ((s.endCmd m.1 m.2).raiseOr q fl e).collDeliver w xs fl ms

/-- Whether a context has matrix commands on its tile that were issued before an entry and have not retired. -/
def State.matrixBefore (s : State) (t : Nat) (q : QEntry) : Bool :=
  (s.tile t).mq.any (fun e => e.before q) || (s.tile t).mrun.any (fun r => r.q.before q)

/-- The members whose collective engine's port has a slot for them now send their part: it leaves on port 6 (R354, R358; log 20). -/
def State.collSend (s : State) (ms : List Member) : State :=
  (ms.filter (fun m => m.2.moved == 0 && s.portOpen m.1 6)).foldl (fun s m => s.setMoved m.1 m.2 m.2.src 1) s

/-- Whether some member has not sent its part. -/
def State.collUnsent (s : State) (ms : List Member) : Bool :=
  ms.any (fun m => (s.tile m.1).eng.any (fun e => e.id == m.2.id && e.moved == 0))

/-- COLLECTIVE_COMPLETE (R264): when every member of a domain has its matching command at the engine and has sent its part, the members
release, the sources are read, and the result is written. -/
def State.collective (s : State) (yard dom : Nat) : State :=
  let ms := s.collMembers yard dom
  match ms with
  | [] => s
  | m0 :: _ =>
    let n := (m0.2.q.sreg 0x271).toNat
    let key := collKey m0.2.q
    let count := (collBar m0.2.q.sreg).toNat % 65536
    if ms.length < count then s
    else
      let root := ms.find? (fun m => collRank m.2.q == key.2.2.2)
      let same := ms.all (fun m => collKey m.2.q == key && (collBar m.2.q.sreg).toNat % 65536 == count)
      match root, collFmt (m0.2.q.sreg 0x272) with
      | some rt, some f =>
        let op := (m0.2.q.sreg 0x272).toNat / 16 % 4
        if !same then s.collFail ms (fun _ => .collMismatch)
        else if op = 3 ∧ key.1 ≠ 1 then s.collFail ms (fun _ => .operandFormat)
        else if ms.any (fun m => s.cmdFill m.2.q == .bad) then
          s.collFail ms (fun i => if (ms.drop i).head?.any (fun m => s.cmdFill m.2.q == .bad) then .fillFormat else .collMismatch)
        else
          let far := ms.filter (fun m => m.2.q.scope != 0)
          let s := s.collSend ms
          if s.collUnsent ms || far.any (fun m => s.dirtyBlocked m.1 (cidCore m.2.q.cid)) || ms.any (fun m => s.matrixBefore m.1 m.2.q || s.overtakes m.2.q 0) then s
          else
          let s := far.foldl (fun s (m : Member) => s.releaseCore m.1 (cidCore m.2.q.cid)) s
          if far.any (fun m => s.remoteBusy m.2.q.cid m.2.q.scope) then s
          else
          let srcs := if key.1 = 1 then [rt] else ms
          let w := f.width / 8
          match s.collReads n w srcs [] with
          | (none, t) => s.asked t
          | (some rs, s) =>
            match rs.findIdx? (fun r => r.2.isSome) with
            | some i =>
              let bad := (srcs.drop i).head?.map (fun m => m.2.id)
              s.collFail ms (fun j => if (ms.drop j).head?.map (fun m => m.2.id) = bad then
                (((rs.drop i).head?.bind (fun r => r.2)).map (fun x => x.1)).getD .accessKind else .collMismatch)
            | none =>
              let es := (List.range n).map (fun j =>
                if key.1 = 1 then (((rs.headD ([], none)).1).getD j 0, Flags.none)
                else collElem f op ((m0.2.q.sreg 0x272).getLsbD 8) (rs.map (fun r => r.1.getD j 0)))
              let fl := es.zipIdx.map (fun (e : (Nat × Flags) × Nat) => (e.2, e.1.2))
              let rcv := if key.1 = 0 then [rt] else ms
              let others := if key.1 = 0 then ms.filter (fun m => m.2.id != rt.2.id) else []
              match s.collDeliver w (es.map (fun e => e.1)) fl rcv with
              | (false, t) => s.asked t
              | (true, s) => others.foldl (fun s (m : Member) => s.endCmd m.1 m.2) s
      | none, _ => s.collFail ms (fun _ => .collMismatch)
      | _, none => s.collFail ms (fun _ => if same then .operandFormat else .collMismatch)

def execCollectiveComplete (yard dom : Nat) (s : State) : Host.Outcome State Fault Refusal := .next (s.collective yard dom)

/-! EN.STAT (R273). -/

/-- Whether an engine is busy: the tile's, and for the collective engine its hive's (R263). -/
def State.engineBusy (s : State) (t eng : Nat) : Bool :=
  let x := s.tile t
  if eng = 3 then !x.mq.isEmpty || !x.mrun.isEmpty
  else if eng = 6 then !x.wq.isEmpty || !x.streams.isEmpty
  else if eng = 5 then (List.range 4).any (fun n => (s.ctx (coreCid (t * 4 + n) 0)).rep.left != 0)
  else if eng = 2 then (hiveTiles (hiveOf t)).any (fun u => (s.tile u).eng.any (fun e => e.eng == 2))
  else x.eng.any (fun e => e.eng == eng)

/-- Every coprocessor entry that a tile holds at an engine, not completed. -/
def Tile.entries (x : Tile) : List QEntry :=
  x.mq ++ x.mrun.map (fun r => r.q) ++ x.eng.map (fun e => e.q) ++ x.wq ++ x.streams.map (fun m => m.q)

/-- The commands of a context to an engine that have been pushed and not completed, those that it left at another tile's engines before a save
included (R273, R317). -/
def State.enginePending (s : State) (c eng : Nat) : Nat :=
  let all := s.cores.flatMap (fun (p : Nat × Core) => p.2.vq ++ p.2.held) ++ s.tiles.flatMap (fun (p : Nat × Tile) => p.2.entries)
  (if eng = 5 && (s.ctx c).rep.left != 0 then 1 else 0) +
    (all.filter (fun q => engineOf q.inst == some eng && s.owner q == some c)).length

/-- EN.STAT's answer for an operand. -/
def State.enStat (s : State) (c : Nat) (b : Word) : Word :=
  let eng := b.toNat % 16
  let item := b.toNat / 16
  let t := cidTile c
  let key := engKey c (s.tagOf c) eng
  if (7 ≤ eng ∧ eng ≤ 14) ∨ 2 ≤ item ∨ (eng = 2 ∧ !(s.holdsColl (s.yardOf t) (hiveOf t))) then BitVec.allOnes 64
  else if item = 1 then BitVec.ofNat 64 (SMap.get (fun _ => 0) (s.tile t).doneCnt key)
  else BitVec.ofNat 64 ((if s.engineBusy t eng then 2 ^ 63 else 0) +
    SMap.get (fun _ => 0) (s.tile t).lastLate key % 512 * 65536 + s.enginePending c eng % 65536)

/-- EN.STAT: it takes no sequence number and is not pushed; its answer is written after its fixed latency. -/
def execEnStat (d b : Reg) (la : BitVec 4) (s : State) : Host.Outcome State Fault Refusal :=
  run (do
    noPrefix
    gate [b] [d] false
    copGate
    let (_, y) ← readChecked none (some b) (fun _ _ y => if 256 ≤ y.toNat then some (.reserved, 0) else none)
    let s ← get
    writeLa la [.g d (s.enStat s.cur y)]
    countMine (.enStat d b la)
    next) s

end Sys2Proof.Machine
end

