-- ==== Sys2Proof/Machine/Launch.lean ====
section
/-! DEFINITION. The launch engine: LN.TASK, LN.GRAPH, LN.PHASE, LN.CANCEL and LN.WAIT, and the end of a command of
the copy, gather/scatter and launch engines (R20, R21, R265-R269, R273, R315, R345). -/

namespace Sys2Proof.Machine

/-! Issue (R266-R269). -/

/-- Whether a pointer names shared memory and is aligned. -/
def sharedAt (p : Word) (n : Nat) : Bool := !isTm p && p.toNat % n == 0

def lnTaskCheck : Check := fun _ a b =>
  if b.toNat / 256 ≠ 0 ∨ !(sharedAt a 64) then some (.launchFormat, 0) else none
def lnGraphCheck : Check := fun _ a b =>
  if b.toNat / 64 ≠ 0 ∨ !(sharedAt a 8) then some (.launchFormat, 0) else none
def lnPhaseCheck : Check := fun _ _ b => if b.toNat / 65536 ≠ 0 then some (.launchFormat, 0) else none

/-- The level and id of LN.CANCEL and LN.WAIT (R269). -/
def levelOk (a b : Word) : Bool :=
  (a == 0 && decide (b.toNat < 256)) || (a == 1 && decide (b.toNat < 64)) || (a == 2 && decide (b.toNat < 65536)) ||
  (a == 3 && b == 0)
def levelCheck : Check := fun _ a b => if levelOk a b then none else some (.launchFormat, 0)

/-- Whether the instruction that the context issues is stepped (R315). -/
def Ctx.stepped (x : Ctx) : Bool := x.priv == .u && (x.sreg 0x44D).getLsbD 0 && x.helper.isNone

/-- LN.TASK. The prefix field of its entry is 1 when the instruction is stepped under %dbg.hold (R315). -/
def execLnTask (a b : Reg) (s : State) : Host.Outcome State Fault Refusal :=
  run (do
    noPrefix
    gate [a, b] [] true
    let (x, y) ← readChecked (some a) (some b) lnTaskCheck
    let s ← get
    if s.inTask then defer (.lnTask a b) x y
    else pushCop (.lnTask a b) (if s.me.stepped && (s.me.sreg 0x44E).getLsbD 0 then 1 else 0) x y 0 none false
    next) s

def execLnGraph (a b : Reg) (s : State) : Host.Outcome State Fault Refusal :=
  run (cIssue (.lnGraph a b) (some a) (some b) lnGraphCheck true) s
def execLnPhase (a b : Reg) (s : State) : Host.Outcome State Fault Refusal :=
  run (cIssue (.lnPhase a b) (some a) (some b) lnPhaseCheck true) s
def execLnCancel (a b : Reg) (s : State) : Host.Outcome State Fault Refusal :=
  run (cIssue (.lnCancel a b) (some a) (some b) levelCheck true) s

/-! Dependences (R20, R267, R268). -/

/-- Whether every phase issued ahead of a graph's phase has completed. -/
def State.phaseOpen (s : State) (g : Graph) : Bool :=
  match g.phase with
  | none => true
  | some p =>
    match s.phases.find? (fun h => h.of g.yard g.job && h.id == p) with
    | none => true
    | some h => !(s.phases.any (fun o => o.of g.yard g.job && decide (o.order < h.order) && o.count != 0))

/-- Whether nothing holds a launch back: its predecessors and the phases ahead of it have completed. -/
def State.eligible (s : State) (y j i : Nat) : Bool :=
  match s.graphOf y j i with
  | none => true
  | some g =>
    s.phaseOpen g && g.ents.all (fun e => e.1 != i ||
      (g.ents.zipIdx).all (fun (p : (Nat × BitVec 32 × Bool) × Nat) => !(e.2.1.getLsbD p.2) || p.1.2.2))

/-- Set whether launches can be dispatched, for those that a test picks (R345). -/
def State.updateDispatch (s : State) (f : Launch → Bool) : State :=
  { s with launches := s.launches.map (fun l =>
      if f l then
        (let d := s.eligible l.yard l.job l.id
         { l with dispatchable := d, since := if d && !l.dispatchable then s.cal else l.since })
      else l) }

/-- SUCCESSOR_DISPATCHABLE (R345): the launches of a yard whose predecessors have completed. -/
def State.successors (s : State) (yard : Nat) : State :=
  s.updateDispatch (fun l => l.yard == yard && l.count != 0 && !l.dispatchable)

def execSuccessorDispatchable (yard : Nat) (s : State) : Host.Outcome State Fault Refusal := .next (s.successors yard)

/-! Creation (R265-R268). -/

/-- What a helper takes from the context that creates it: %st.rm, %st.ftrap, %st.tc, the generator and the bounds
table (R75, R133). -/
def taskCtl (sr : SMap Word) : SMap Word :=
  sr.filter (fun p => (decide (0x021 ≤ p.1) && decide (p.1 ≤ 0x023)) || (decide (0x028 ≤ p.1) && decide (p.1 ≤ 0x02B)) ||
    (decide (0x400 ≤ p.1) && decide (p.1 < 0x438)))

/-- A launch block (R265). -/
structure Block where
  entry   : Word
  count   : Nat
  ordered : Bool
  prio    : Nat
  recs    : List (Word × BitVec 32)
deriving DecidableEq, Repr

def leWord (bs : List Byte) : Word := BitVec.ofNat 64 (leNat bs)

/-- The record count of a block's 32-byte header; none where the header breaks R265. -/
def headerCount (bs : List Byte) : Option Nat :=
  let n := leNat ((bs.drop 8).take 4)
  if n = 0 ∨ 65536 < n ∨ leNat ((bs.drop 12).take 4) / 8 ≠ 0 ∨ leNat (bs.drop 16) ≠ 0 then none else some n

/-- The records of a block; none where one's last four bytes are not zero. -/
def blockRecs : Nat → List Byte → Option (List (Word × BitVec 32))
  | 0, _ => some []
  | n + 1, bs =>
    if leNat ((bs.drop 12).take 4) ≠ 0 then none
    else (blockRecs n (bs.drop 16)).map (fun r =>
      (leWord (bs.take 8), BitVec.ofNat 32 (leNat ((bs.drop 8).take 4))) :: r)

/-- Read n bytes of a launch command's block at home. -/
def State.readLn (s : State) (e : ECmd) (d n : Nat) : Option (List Byte × Option (Cause × Word)) × State :=
  match s.readRun e.q e.id e.q.a d n 1 (n + 1) [] with
  | (none, t) => (none, s.asked t)
  | r => r

/-- End a command with a late cause. -/
def State.failCmd (s : State) (t : Nat) (e : ECmd) (c : Cause) (tv : Word) : State := (s.endCmd t e).raiseLate e.q c 0 0 tv

/-- Put a task behind those whose timestamps are not above its own. -/
def putByTs (t : Task) : List Task → List Task
  | [] => [t]
  | x :: xs => if t.ts < x.ts then t :: x :: xs else x :: putByTs t xs

/-- Create a launch from its block (R266); R343 orders its tasks: an earlier one of the same id has completed. -/
def State.createLaunch (s : State) (y j : Nat) (q : QEntry) (b : Block) : State :=
  let i := q.b.toNat % 256
  let ctl := taskCtl q.sr
  let tasks := b.recs.zipIdx.map (fun p =>
    ({ yard := y, job := j, launch := some i, index := p.2, ts := p.1.2, data := p.1.1, entry := b.entry, solo := false,
       aborts := 0, slot := 0, park := none, ctl := ctl } : Task))
  let l : Launch :=
    { yard := y, job := j, id := i, order := s.order, ordered := b.ordered, prio := b.prio, count := b.count,
      queue := if b.ordered then tasks.foldl (fun l t => putByTs t l) [] else tasks,
      running := [], solo := none, flags := 0, dispatchable := s.eligible y j i, since := s.cal, held := q.pfx == 1 }
  { s with order := s.order + 1, launches := s.launches.filter (fun l => !(l.is y j i)) ++ [l] }

/-- LN.TASK at its engine (R266). -/
def State.lnTask (s : State) (t : Nat) (e : ECmd) : State :=
  let y := s.yardOf t
  let j := s.jobOf t
  match s.readLn e 0 32 with
  | (none, s) => s
  | (some (_, some (c, tv)), s) => s.failCmd t e c tv
  | (some (h, none), s) =>
    let entry := leWord (h.take 8)
    match headerCount h with
    | none => s.failCmd t e .launchFormat 0
    | some n =>
      if (checkPtr (s.withSr e.q) e.q.cid entry 4 .fetch).isSome then s.failCmd t e .launchFormat 0
      else match s.readLn e 32 (16 * n) with
        | (none, s) => s
        | (some (_, some (c, tv)), s) => s.failCmd t e c tv
        | (some (bs, none), s) =>
          match blockRecs n bs with
          | none => s.failCmd t e .launchFormat 0
          | some recs =>
            if s.launches.any (fun l => l.is y j (e.q.b.toNat % 256) && l.count != 0) then s.failCmd t e .launchState 0
            else
              let f := leNat ((h.drop 12).take 4)
              (s.createLaunch y j e.q { entry := entry, count := n, ordered := f.testBit 0, prio := f / 2 % 4, recs := recs }).endCmd t e

/-- The entries of a graph's descriptor; none where one has a bit that must be zero, or names itself or a later entry. -/
def graphEnts : Nat → Nat → List Byte → Option (List (Nat × BitVec 32 × Bool))
  | 0, _, _ => some []
  | n + 1, i, bs =>
    let x := leNat (bs.take 4)
    let m := leNat ((bs.drop 4).take 4)
    if 256 ≤ x ∨ 2 ^ i ≤ m then none
    else (graphEnts n (i + 1) (bs.drop 8)).map (fun r => (x, BitVec.ofNat 32 m, false) :: r)

/-- LN.GRAPH at its engine (R267). -/
def State.lnGraph (s : State) (t : Nat) (e : ECmd) : State :=
  let y := s.yardOf t
  let j := s.jobOf t
  let i := e.q.b.toNat % 64
  match s.readLn e 0 8 with
  | (none, s) => s
  | (some (_, some (c, tv)), s) => s.failCmd t e c tv
  | (some (h, none), s) =>
    let n := leNat (h.take 4)
    if n = 0 ∨ 32 < n ∨ leNat (h.drop 4) ≠ 0 then s.failCmd t e .launchFormat 0
    else match s.readLn e 8 (8 * n) with
      | (none, s) => s
      | (some (_, some (c, tv)), s) => s.failCmd t e c tv
      | (some (bs, none), s) =>
        match graphEnts n 0 bs with
        | none => s.failCmd t e .launchFormat 0
        | some es =>
          if s.graphs.any (fun g => g.of y j && g.id == i && g.live) ∨ es.any (fun x => (s.graphOf y j x.1).isSome) then
            s.failCmd t e .launchState 0
          else
            let g : Graph := { yard := y, job := j, id := i, ents := es, count := n, phase := none, flags := 0 }
            let s : State := { s with graphs := s.graphs.filter (fun g => !(g.of y j && g.id == i)) ++ [g] }
            (s.updateDispatch (fun l => l.yard == y && l.job == j && l.count != 0 && es.any (fun x => x.1 == l.id))).endCmd t e

/-- LN.PHASE at its engine (R268). -/
def State.lnPhase (s : State) (t : Nat) (e : ECmd) : State :=
  let y := s.yardOf t
  let j := s.jobOf t
  let i := e.q.b.toNat % 65536
  let gs := (List.range 64).filter (fun n => e.q.a.getLsbD n)
  let free (n : Nat) : Bool := s.graphs.any (fun g => g.of y j && g.id == n && g.live && g.phase.isNone)
  if !(gs.all free) ∨ s.phases.any (fun p => p.of y j && p.id == i && p.count != 0) then s.failCmd t e .launchState 0
  else
    let p : Phase := { yard := y, job := j, id := i, order := s.order, count := gs.length, flags := 0 }
    let s : State :=
      { s with order := s.order + 1, phases := s.phases.filter (fun p => !(p.of y j && p.id == i)) ++ [p],
               graphs := s.graphs.map (fun g => if g.of y j && g.live && gs.contains g.id then { g with phase := some i } else g) }
    let mine (l : Launch) : Bool := match s.graphOf y j l.id with | some g => g.phase == some i | none => false
    (s.updateDispatch (fun l => l.yard == y && l.job == j && l.count != 0 && mine l)).endCmd t e

/-! LN.CANCEL (R21, R269). -/

/-- A task that has run in a slot and whose re-run is cancelled has ended there without a frame (R134). -/
def State.noteDropped (s : State) (a : Task) : State :=
  if cidSlot a.slot = 0 then s
  else s.modCore (cidCore a.slot) (fun x => x.noteEnd { start := cidSlot a.slot, slot := cidSlot a.slot, frame := 0 })

/-- Drop every task of a launch, or of the start launches, of a job that has not committed. -/
def State.dropTasks (s : State) (y j : Nat) (launch : Option Nat) : State :=
  let mine (t : Task) : Bool := t.yard == y && t.job == j && t.launch == launch
  let tiles := match s.combAt y j with | some c => c.tiles | none => []
  tiles.foldl (fun s t =>
    let gone := (s.tile t).ready.filter mine
    let s := gone.foldl (fun s a => s.noteDropped a) (s.modTile t (fun x => { x with ready := x.ready.filter (fun a => !(mine a)) }))
    let s := (List.range 4).foldl (fun s k =>
      let gone := (s.core (t * 4 + k)).requeue.filter mine
      gone.foldl (fun s a => s.noteDropped a) (s.modCore (t * 4 + k) (fun x => { x with requeue := x.requeue.filter (fun a => !(mine a)) }))) s
    (tileCids t).foldl (fun s c =>
      match (s.ctx c).helper with
      | some h => if mine h.task then s.endTask c else s
      | none => s) s) s

/-- Cancel a launch. -/
def State.cancelLaunch (s : State) (y j i : Nat) : State :=
  if s.launches.any (fun l => l.is y j i && l.count != 0) then
    let gone := (s.launches.filter (fun l => l.is y j i)).flatMap (fun l => l.queue)
    let s := gone.foldl (fun s a => s.noteDropped a) (s.modLaunch y j i (fun l => { l with count := 0, queue := [], running := [] }))
    (s.dropTasks y j (some i)).launchDone y j i
  else s

/-- Cancel a graph: its launches, and then the graph itself. -/
def State.cancelGraph (s : State) (y j i : Nat) : State :=
  match s.graphs.find? (fun g => g.of y j && g.id == i && g.live) with
  | none => s
  | some g =>
    let s := g.ents.foldl (fun s e => if e.2.2 then s else s.cancelLaunch y j e.1) s
    if s.graphs.any (fun h => h.of y j && h.id == i && h.live) then
      let s : State := { s with
        graphs := s.graphs.map (fun h => if h.of y j && h.id == i then
          { h with count := 0, ents := h.ents.map (fun e => (e.1, e.2.1, true)) } else h),
        phases := s.phases.map (fun p => if p.of y j && g.phase == some p.id && p.count != 0 then { p with count := p.count - 1 } else p) }
      if s.phases.any (fun p => p.of y j && g.phase == some p.id && p.count == 0) then s.dropRetained y j else s
    else s

/-- Cancel a phase: its graphs; its counter then reads zero. -/
def State.cancelPhase (s : State) (y j i : Nat) : State :=
  (s.graphs.filter (fun g => g.of y j && g.live && g.phase == some i)).foldl (fun s g => s.cancelGraph y j g.id) s

/-- Cancel every launch, graph and phase of a job. -/
def State.cancelJob (s : State) (y j : Nat) : State :=
  let s := (s.launches.filter (fun l => l.yard == y && l.job == j)).foldl (fun s l => s.cancelLaunch y j l.id) s
  let s := (s.graphs.filter (fun g => g.of y j)).foldl (fun s g => s.cancelGraph y j g.id) s
  s.dropTasks y j none

/-- LN.CANCEL at its engine. -/
def State.lnCancel (s : State) (t : Nat) (e : ECmd) : State :=
  let y := s.yardOf t
  let j := s.jobOf t
  let i := e.q.b.toNat
  (if e.q.a = 0 then s.cancelLaunch y j i else if e.q.a = 1 then s.cancelGraph y j i
   else if e.q.a = 2 then s.cancelPhase y j i else s.cancelJob y j).endCmd t e

/-! LN.WAIT (R269). -/

/-- Whether a level of a job has a counter above zero (R20). -/
def State.levelBusy (s : State) (y j : Nat) (a b : Word) : Bool :=
  let start : Bool := match s.combAt y j with
    | none => false
    | some c => c.tiles.any (fun t => (List.range 4).any (fun k => (s.core (t * 4 + k)).requeue.any (fun x => x.job == j)) ||
        (tileCids t).any (fun c => match (s.ctx c).helper with | some h => h.task.launch.isNone | none => false))
  if a = 0 then s.launches.any (fun l => l.is y j b.toNat && l.count != 0)
  else if a = 1 then s.graphs.any (fun g => g.of y j && g.id == b.toNat && g.live)
  else if a = 2 then s.phases.any (fun p => p.of y j && p.id == b.toNat && p.count != 0)
  else s.launches.any (fun l => l.yard == y && l.job == j && l.count != 0) || s.graphs.any (fun g => g.of y j && g.live) ||
    s.phases.any (fun p => p.of y j && p.count != 0) || start

/-- The flags kept with a level (R75). -/
def State.levelFlags (s : State) (y j : Nat) (a b : Word) : Flags :=
  if a = 0 then (match s.launchAt y j b.toNat with | some l => l.flags | none => 0)
  else if a = 1 then (match s.graphs.find? (fun g => g.of y j && g.id == b.toNat) with | some g => g.flags | none => 0)
  else if a = 2 then (match s.phases.find? (fun p => p.of y j && p.id == b.toNat) with | some p => p.flags | none => 0)
  else (match s.combAt y j with | some c => c.flags | none => 0)

/-- Whether a context has an earlier launch command that its engine has not carried out: the commands of one context to one engine
start in order (R242), and LN.WAIT is one of them. A command that a commit has released is not the context's. -/
def State.lnPending (s : State) (c : Nat) : Bool :=
  let mine (q : QEntry) : Bool := q.cid == c && engineOf q.inst == some 4 && q.rel.isNone
  (s.core (cidCore c)).vq.any mine || (s.tile (cidTile c)).eng.any (fun e => mine e.q)

/-- LN.WAIT: it is not queued, and no task executes it. -/
def execLnWait (a b : Reg) (s : State) : Host.Outcome State Fault Refusal :=
  run (do
    noPrefix
    let s ← get
    trapIf s.inTask .contextKind 0
    gate [a, b] [] true
    copGate
    let (x, y) ← readChecked (some a) (some b) levelCheck
    let s ← get
    let yd := s.yardOf s.myTile
    let j := s.jobOf s.myTile
    if s.lnPending s.cur || s.levelBusy yd j x y then waitFor .lnWait (BitVec.ofNat 64 (x.toNat * 2 ^ 32 + y.toNat))
    modify (fun s => s.modMe (fun z => z.orFlags (s.levelFlags yd j x y)))
    countMine (.lnWait a b)
    next) s

/-! The end of a command (R242, R273). -/

/-- Carry one command as far as it goes. -/
def State.advanceCmd (s : State) (t : Nat) (e : ECmd) : State :=
  match e.q.inst with
  | .cpLand _ _ => s.land t e
  | .lnTask _ _ => s.lnTask t e
  | .lnGraph _ _ => s.lnGraph t e
  | .lnPhase _ _ => s.lnPhase t e
  | .lnCancel _ _ => s.lnCancel t e
  | .coRed _ _ _ | .coBcast _ _ _ | .coAr _ _ _ =>
    s.collective (s.yardOf t) ((collBar e.q.sreg).toNat / 2 ^ 32 % 65536)
  | _ => s.finishMove t e

/-- ENGINE_COMMAND_COMPLETE (R242, R273): the oldest command of an engine that can go on, goes on, to its end, its cause
or the next thing it must wait for. The commands of one context start in order. -/
def State.engineComplete (s : State) (t eng : Nat) : State :=
  let es := (s.tile t).eng.filter (fun e => e.eng == eng)
  let tried := (engHeads es).map (fun e => s.advanceCmd t e)
  (tried.find? (fun u => u != s)).getD s

def execEngineCommandComplete (tile eng : Nat) (s : State) : Host.Outcome State Fault Refusal := .next (s.engineComplete tile eng)

end Sys2Proof.Machine
end

