-- ==== Sys2Proof/Machine/Saving.lean ====
section
/-! DEFINITION. Saving and restoring a control context: the frame, the message buffer, withdrawn commands, the save
area of a job, and the synchronisation snapshot (R14, R313, R316-R321, R324, R325, R405, R406). -/

namespace Sys2Proof.Machine

/-! Late causes (R313). -/

/-- Every cause, by which a code finds its cause again. -/
def allCauses : List Cause :=
  [.nv, .dz, .of, .uf, .nx, .topCode, .operandFormat, .exactCapacity, .pointerFormat, .regionBounds, .regionRights, .misaligned,
   .regionMismatch, .translation, .accessKind, .fillFormat, .ringGeometry, .ringBusy, .stage2, .tlbFormat, .zeroWord, .reserved,
   .blockExtent, .loopNesting, .contextKind, .userTrap, .singleStep, .vectorIndex, .accRange, .pairAbort, .matrixGroup] ++
  [.capability, .engineAbsent, .collMismatch, .launchFormat, .launchState, .waxFormat, .waxBusy, .waxArity, .streamDesc,
   .repetition, .waxUnbound, .joinOrder, .eventOperand, .barrierDomain, .mode, .vsetFull, .frameLost, .slotFault, .combAccess,
   .combContext, .privilege, .frameFormat, .scopePolicy, .memError, .tileError, .doubleTrap, .mixedStep]

/-- The cause of a code; an unassigned code never occurs in a frame that a save wrote. -/
def causeOf (n : Nat) : Cause := (allCauses.find? (fun c => c.code == n)).getD .tileError

/-- Whether a late cause comes before another: the older instruction, then the lower member, then the lower element. -/
def Late.before (a b : Late) : Bool :=
  if a.ord ≠ b.ord then decide (a.ord < b.ord)
  else decide (a.member < b.member) || (a.member == b.member && decide (a.elem < b.elem))

/-- The cause of a window that is reported. -/
def firstLate : List Late → Option Late
  | [] => none
  | l :: ls => match firstLate ls with
    | some m => some (if m.before l then m else l)
    | none => some l

/-- Add to %trap.supp, saturating at 32 bits (R302). -/
def Ctx.addSupp (x : Ctx) (n : Nat) : Ctx :=
  x.setSreg 0x451 (BitVec.ofNat 64 (Nat.min ((x.sreg 0x451).toNat + n) 0xFFFFFFFF))

/-! What reaches memory for a save. -/

/-- What a save uses of shared memory: a physical address with its page, an unreachable one, or a translation to wait for. -/
inductive AgentPa where
  | ok (pa : Nat) (pg : Pg)
  | bad
  | wait
deriving DecidableEq, Repr

/-- The number that marks the accesses which a save or a border agent makes for a context: no coprocessor instruction has it. -/
def agentWho : Option Nat := some 65536

/-- The place of a pointer with the bounds and the virtual function of a context (R405); while another agent owns a line of it, it is
waited for (R26, R122). -/
def State.agentPa (s : State) (c : Nat) (p : Word) (size : Nat) (k : AKind) : AgentPa × State :=
  if p = 0 ∨ isTm p ∨ (checkPtr s c p size k).isSome then (.bad, s)
  else match s.translate c (ptrTag p) (ptrAddr p) k.code agentWho k with
    | .fault _ s => (.bad, s)
    | .parked s | .miss s => (.wait, s)
    | .leaf l s =>
      if l.region ≠ ptrTag p ∨ paSpace l.pa ≠ 0 then (.bad, s)
      else if (List.range ((l.pa % 128 + size + 127) / 128)).all (fun i => s.lineFree (l.pa + 128 * i) none) then (.ok l.pa l.pg, s)
      else (.wait, s)

/-- Write bytes of a page at home, line by line, for no context's tag (R105). -/
def State.writeAgent (s : State) (yard : Nat) (pg : Pg) : Nat → Nat → List Byte → State
  | 0, _, _ => s
  | fuel + 1, pa, bs =>
    if bs.isEmpty then s
    else
      let n := 128 - pa % 128
      (s.homeWrite 0x10000 yard pg ((bs.take n).zipIdx.map (fun p => (pa + p.2, p.1)))).writeAgent yard pg fuel (pa + n) (bs.drop n)

/-- Write a block of bytes of a page at home. -/
def State.writeBlock (s : State) (yard pa : Nat) (pg : Pg) (bs : List Byte) : State := s.writeAgent yard pg (bs.length + 1) pa bs

/-! Withdrawn commands (R406). -/

/-- Put an entry into a list in issue order. -/
def putByAge (q : QEntry) : List QEntry → List QEntry
  | [] => [q]
  | x :: xs => if q.before x then q :: x :: xs else x :: putByAge q xs

/-- Whether a later instruction waits on a withdrawn one: it touches the same bytes (R124), it is a command to the same engine (R242), or
it is the start of a stream that reaches the accumulator store behind a matrix command (R254). -/
def State.waitsOn (s : State) (q : QEntry) (w : List QEntry) : Bool :=
  (q.isStream && !(descRows (s.descOf q)).isEmpty && w.any (fun e => isMatrix e.inst)) ||
  w.any (fun e => (engineOf q.inst).isSome && engineOf e.inst == engineOf q.inst) ||
  (s.spans q 0).any (fun x => w.any (fun e => (s.spans e 0).any (fun y => x.conflicts y)))

/-- What is withdrawn of a context's instructions that have not started, in issue order. -/
def State.withdrawals (s : State) (c : Nat) : List QEntry :=
  let t := s.tile (cidTile c)
  let mine (qs : List QEntry) : List QEntry := qs.filter (fun q => q.cid == c)
  let all := (mine (s.core (cidCore c)).vq).foldl (fun l q => putByAge q l) ((mine t.wq).foldl (fun l q => putByAge q l) (mine t.mq)) ++
    mine (s.core (cidCore c)).held
  all.foldl (fun w q => if isMatrix q.inst || s.waitsOn q w then w ++ [q] else w) []

/-- Withdraw them: they leave their queues, and their windows close with them. The wax bindings stand again as they did before the first that
changes them, which will change them as it is pushed again. -/
def State.withdraw (s : State) (c : Nat) : State :=
  let w := s.withdrawals c
  if w.isEmpty then s
  else
    let keep (q : QEntry) : Bool := !(w.contains q)
    let s := (s.disownAll w).modCore (cidCore c) (fun k =>
      { k with vq := k.vq.filter keep, held := k.held.filter keep }.settleLanes)
    let s := s.modTile (cidTile c) (fun t => { t with mq := t.mq.filter keep, wq := t.wq.filter keep })
    let binds := (w.find? (fun q => match q.inst with | .wxld _ _ | .wxrel _ => true | _ => false)).map (fun q => q.binds)
    s.modCtx c (fun x => { x with withdrawn := x.withdrawn ++ w, wax := binds.getD x.wax,
                                  windows := x.windows.filter (fun v => !(w.any (fun q => v.seq == some q.seq))) })

/-- The 64-byte entry of a withdrawn instruction. -/
def QEntry.wdBytes (q : QEntry) : List Byte :=
  let r (n : Nat) : Nat := (q.sreg n).toNat
  let a : Word := match q.inst with | .wxqry _ _ _ | .wax _ _ _ _ _ _ => 0 | _ => q.a
  leBytes 4 ((encode q.inst).getD 0).toNat ++ leBytes 4 q.pfx.toNat ++ leBytes 8 a.toNat ++ leBytes 8 q.b.toNat ++
  leBytes 8 (q.scale.getD 0).toNat ++ leBytes 8 (r 0x028) ++
  leBytes 8 (r 0x029 % 2 ^ 32 + r 0x02A % 65536 * 2 ^ 32 + r 0x02B % 65536 * 2 ^ 48) ++ leBytes 8 (r 0x022 % 8) ++ leBytes 8 0

/-- Push a withdrawn instruction again for the restored context (R406): WXLD and WXREL change the bindings as at an issue. -/
def State.pushAgain (s : State) (c : Nat) (bs : List Byte) : State :=
  let f (i n : Nat) : Nat := leNat ((bs.drop i).take n)
  match decode (BitVec.ofNat 32 (f 0 4)) with
  | .ok i =>
    let x := s.ctx c
    let x' := ((((x.setSreg 0x028 (BitVec.ofNat 64 (f 32 8))).setSreg 0x029 (BitVec.ofNat 64 (f 40 4))).setSreg 0x02A
      (BitVec.ofNat 64 (f 44 2))).setSreg 0x02B (BitVec.ofNat 64 (f 46 2))).setSreg 0x022 (BitVec.ofNat 64 (f 48 8 % 8))
    let w (a : Nat) : Word := BitVec.ofNat 64 (f a 8)
    let key (n : Nat) : Word := BitVec.ofNat 64 (s.bindKey c n)
    let qkw : Word := match i with
      | .mms _ _ => w 24
      | .wax _ _ _ _ n _ => key n.toNat
      | .wxstm _ _ | .wxqry _ _ _ => key (f 16 8 % 8)
      | .wxrel _ => key (f 8 8 % 8)
      | .wxld _ _ => BitVec.ofNat 64 s.nextLoad
      | _ => 0
    let a : Word := match i with | .wxqry _ _ _ => (x.bind (f 16 8 % 8)).word | _ => w 8
    let q := { s.capture c i (BitVec.ofNat 32 (f 4 4)) a (w 16) qkw with sr := x'.sr }
    match i with
    | .wxld _ _ => ((s.modCtx c (fun x => x.bindLoad (f 16 8) s.nextLoad)).countPush).hold (cidCore c) q
    | .wxrel _ => (s.modCtx c (fun x => x.release (f 8 8 % 8))).hold (cidCore c) q
    | _ => s.hold (cidCore c) q
  | _ => s

/-! The message buffer (R319). -/

/-- Empty one queue into its region of the buffer; values that find no room stay. -/
def State.spillAll (s : State) (pa r n tag : Nat) (pg : Pg) : List QVal → State × List QVal
  | [] => (s, [])
  | v :: vs =>
    match s.spillTo pa r n tag pg v with
    | some t => t.spillAll pa r n tag pg vs
    | none => (s, v :: vs)

/-- Empty a core's queues into the buffer at its save; qk goes with the core that keeps the tile's matrix group. -/
def State.spillCore (s : State) (k pa tag : Nat) (pg : Pg) : State :=
  let s := [Dir.n, .e, .s, .w].foldl (fun s d =>
    let r := s.spillAll pa (dirNum d) 32 tag pg ((s.core k).queue d)
    r.1.modCore k (fun x => x.setQueue d r.2)) s
  let t := coreTile k
  if ((s.tile t).sreg 0x241).extractLsb' 0 2 = BitVec.ofNat 2 k then
    let r := s.spillAll pa 4 8 tag pg (s.tile t).qk
    r.1.modTile t (fun x => { x with qk := r.2 })
  else s

/-- The valid values of a region of the buffer, in order. -/
def State.buffered (s : State) (pa r n : Nat) : List QVal :=
  (List.range n).filterMap (fun i =>
    let a := pa + r * 512 + i * 16
    let f := s.homeByte (a + 8)
    if f.getLsbD 0 then some { val := BitVec.ofNat 64 (leNat (s.homeBytes a 8)), tc := f.getLsbD 1 } else none)

/-- At a restore the buffered values enter the queues ahead of every later one, and their entries are free. -/
def State.unspill (s : State) (k pa yard : Nat) (pg : Pg) : State :=
  let s := [Dir.n, .e, .s, .w].foldl (fun s d =>
    let vs := s.buffered pa (dirNum d) 32
    let s := s.modCore k (fun x => x.setQueue d (vs ++ x.queue d))
    (List.range vs.length).foldl (fun s i => s.writeBlock yard (pa + dirNum d * 512 + i * 16 + 8) pg [0]) s) s
  let vs := s.buffered pa 4 8
  let s := s.modTile (coreTile k) (fun x => { x with qk := vs ++ x.qk })
  (List.range vs.length).foldl (fun s i => s.writeBlock yard (pa + 4 * 512 + i * 16 + 8) pg [0]) s

/-! The save list of a comb (R53, R405). -/

/-- The home context of a comb (R53). -/
def Comb.homeCid (b : Comb) : Nat := coreCid (b.homeTile * 4 + b.homeCore) 0

/-- The physical address of the job table entry of a comb (R371). -/
def State.jobEntry (s : State) (y j : Nat) : Nat := (s.memWord (recordPa y + 0x50)).toNat + j * 64

/-- The physical address of a comb's descriptor, which its border agents translate in the yard's virtual function (R53). -/
def State.descPa (s : State) (b : Comb) : AgentPa × State :=
  let p := b.desc
  if p = 0 ∨ isTm p ∨ p.extractLsb' 56 4 ≠ 0 then (.bad, s)
  else match s.translate b.homeCid (ptrTag p) (ptrAddr p) 0 agentWho .read with
    | .fault _ s => (.bad, s)
    | .parked s | .miss s => (.wait, s)
    | .leaf l s => (if l.region ≠ ptrTag p ∨ paSpace l.pa ≠ 0 then .bad else .ok l.pa l.pg, s)

/-- Where a forced or vacated save goes: the frame's pointer and address, and the descriptor with its next entry, each with its page. -/
inductive AreaSlot where
  | ok (ptr : Word) (pa : Nat) (pg : Pg) (desc : Nat) (dpg : Pg) (i : Nat)
  | full (desc : Option (Nat × Pg))
  | wait
deriving DecidableEq, Repr

/-- The next slot of a job's save area; while another agent owns a line of its list, it is waited for (R26, R122). -/
def State.areaSlot (s : State) (b : Comb) : AreaSlot × State :=
  match s.descPa b with
  | (.wait, s) => (.wait, s)
  | (.bad, s) => (.full none, s)
  | (.ok d dpg, s) =>
    let n := leNat (s.homeBytes (d + 192) 4) % 2 ^ 31
    let p := s.memWord (s.jobEntry b.yard b.job + 40)
    if !(s.lineFree (d + 192) none) || !(s.lineFree (d + 208 + 16 * n) none) then (.wait, s)
    else if 51 ≤ n ∨ p = 0 then (.full (some (d, dpg)), s)
    else
      let q := p + BitVec.ofNat 64 (4096 * n)
      match s.agentPa b.homeCid q 4096 .write with
      | (.wait, s) => (.wait, s)
      | (.bad, s) => (.full (some (d, dpg)), s)
      | (.ok pa pg, s) => (.ok q pa pg d dpg n, s)

/-- Enter a save in the list. -/
def State.listSave (s : State) (c reason : Nat) (p : Word) (d : Nat) (dpg : Pg) (i : Nat) : State :=
  let y := s.yardOf (cidTile c)
  let e := leBytes 2 (cidTile c) ++ leBytes 1 (cidCore c % 4) ++ leBytes 1 (if reason = 4 then 1 else 2) ++ leBytes 4 0 ++
    leBytes 8 p.toNat
  let n := leNat (s.homeBytes (d + 192) 4)
  (s.writeBlock y (d + 208 + 16 * i) dpg e).writeBlock y (d + 192) dpg (leBytes 4 (n / 2 ^ 31 * 2 ^ 31 + i + 1))

/-- Note in the list that an entry could not be listed. -/
def State.listFull (s : State) (y : Nat) (d : Option (Nat × Pg)) : State :=
  match d with
  | none => s
  | some (d, dpg) => s.writeBlock y (d + 192) dpg (leBytes 4 (leNat (s.homeBytes (d + 192) 4) % 2 ^ 31 + 2 ^ 31))

/-! The save (R317). -/

/-- Whether every coprocessor instruction of a context has completed or been accepted. -/
def State.saveDrained (s : State) (c : Nat) : Bool :=
  let t := s.tile (cidTile c)
  !((s.core (cidCore c)).vq.any (fun q => q.cid == c)) && !((s.core (cidCore c)).held.any (fun q => q.cid == c)) && !(t.mq.any (fun q => q.cid == c)) &&
  !(t.mrun.any (fun r => r.q.cid == c)) && !(t.wq.any (fun q => q.cid == c)) && !(t.streams.any (fun m => m.q.cid == c))

/-- Whether the requested save of a context is a pre-emption of a bulk-synchronous tenant (R34, R316). -/
def State.mustBeQuiet (s : State) (c : Nat) : Bool :=
  let r := (s.ctx c).saveReq
  s.bulkSync (cidTile c) && (r == 1 || r == 2 || r == 6)

/-- Whether a save of a bulk-synchronous context can be taken: it is at a TSYNC boundary, which every member has reached (R34, R203). -/
def State.atTsync (s : State) (c : Nat) : Bool :=
  (s.ctx c).wait == .tsync && s.rounds.any (fun r => r.yard == s.yardOf (cidTile c) && r.tsync &&
    r.arrived.contains (s.tagOf c) && r.full)

/-- Whether no message of a yard is in flight: no value on its links, no signal or fill-word increment on its way to its tiles, and no
access of its contexts unacknowledged (R34). -/
def State.yardQuiet (s : State) (y : Nat) : Bool :=
  s.cores.all (fun (p : Nat × Core) => p.2.flight.isEmpty || s.yardOf (coreTile p.1) != y) &&
  s.agenda.all (fun i => match i with
    | .eventArrival t _ => s.yardOf t != y
    | .fillWordArrival t _ _ _ => s.yardOf t != y
    | _ => true) &&
  s.remotes.all (fun r => r.acked || s.yardOf (cidTile r.cid) != y)

/-- Whether a requested save can be taken at this boundary (R34, R308). -/
def State.saveAllowed (s : State) (c : Nat) : Bool :=
  let x := s.ctx c
  let r := x.saveReq
  let ie := x.priv == .u || (x.sreg (trapBase (x.priv == .h))).getLsbD 6
  x.live && r != 0 && cidSlot c == 0 && (ie || !(r == 1 || r == 2)) &&
  (!(s.mustBeQuiet c) || s.atTsync c)

/-- What remains of a context in its slot after its save: its special registers (log 16). -/
def Ctx.afterSave (x : Ctx) : Ctx := { Ctx.reset with sr := SMap.set srReset x.sr 0x44B 0 }

/-- The registers of a context that its frame has no place for: %s.vec, %dbg.hold, %trap.seq, %cpring.sel and %wax.fault (R275, R302;
log 16). -/
def unframedSrs : List Nat := [0x441, 0x44E, 0x450, 0x452, 0x2A2]

/-- What is kept of a context beside its frame at a place. -/
def Ctx.kept (x : Ctx) (p : FramePlace) : Kept :=
  { srs := unframedSrs.foldl (fun m n => SMap.set (fun _ => 0) m n (x.sreg n)) [], gainTaken := x.gainTaken, repPc := x.rep.pc, susp := x.susp, place := some p }

/-- Hand a core to its resident handler after a save: the context is gone from the slot. A yard's save enters no handler and
notes which contexts it has saved (R373). -/
def State.finishSave (s : State) (c reason : Nat) (p : Word) (f : FramePlace) : State :=
  let tag := s.tagOf c
  let s : State := { s with kept := SMap.set (fun _ => none) s.kept tag (some ((s.ctx c).kept f)) }
  let s := (s.modCtx c (fun x => { x.afterSave with
    lossDue := reason == 6 && x.lossDue, saveReq := if reason = 6 then x.saveNext else 0 })).unpin (cidTile c)
  let s := if reason = 6 then s.modTenant (s.yardOf (cidTile c)) (fun x => { x with todo := x.todo ++ [(c, p)] }) else s
  let s : State := { s with saved := s.saved.filter (fun x => x.1 != tag) ++ [(tag, s.yardOf (cidTile c), s.jobOf (cidTile c))] }
  if reason = 6 then s else s.enterHandler (cidCore c) reason p tag

/-- The first stage of a save: helpers abort, unstarted matrix commands are withdrawn, uncommitted pairs abort and streams
detach. -/
def State.beginSave (s : State) (c : Nat) : State :=
  let t := cidTile c
  let s := (s.helpersOf (cidCore c)).foldl (fun s h => s.abortTask h true false) s
  let s := ((s.unwait c).withdraw c).cancelPairs t c
  ((s.tile t).streams.filter (fun m => m.q.cid == c)).foldl (fun s m => s.detach t c m.op) s

/-- The report that a save holds back, and the causes it suppresses (R313, R317). -/
def State.holdLate (s : State) (c : Nat) : Option Late × State :=
  match firstLate (s.ctx c).late with
  | none => (none, s)
  | some l => (some l, s.modCtx c (fun x => { x.addSupp (x.late.length - 1) with late := [] }))

/-- The message buffer of a context being saved. -/
def State.bufferPa (s : State) (c : Nat) : AgentPa × AgentPa × State :=
  let p := (s.ctx c).sreg 0x448
  if p = 0 then (.bad, .bad, s)
  else
    let a := s.agentPa c p 4096 .write
    let b := a.2.agentPa c (p + 4096) 4096 .write
    (a.1, b.1, b.2)

/-- Fill the message buffer: the queues' values, and the withdrawn instructions. -/
def State.fillBuffer (s : State) (c : Nat) (a b : AgentPa) : State :=
  let y := s.yardOf (cidTile c)
  let tag := s.tagOf c
  let s := match a with
    | .ok pa pg => (s.spillCore (cidCore c) pa tag pg).modCore (cidCore c) (fun k => { k with spill := some (pa, tag, pg) })
    | _ => s
  match b with
  | .ok pa pg =>
    let w := (s.ctx c).withdrawn
    s.writeBlock y pa pg (leBytes 8 w.length ++ w.flatMap QEntry.wdBytes)
  | _ => s

/-- One attempt at a requested save: it waits for windows, for coprocessor work, for lines that others own and for
translations, and otherwise writes the frame. The reason stays requested until it is done. -/
def State.trySave (s : State) (c : Nat) : State :=
  let reason := (s.ctx c).saveReq
  if (s.ctx c).barTok = 1 ∨ (s.ctx c).barTok = 2 ∨ (s.mustBeQuiet c && !(s.yardQuiet (s.yardOf (cidTile c)))) then s
  else
  let s := s.beginSave c
  let t := cidTile c
  let k := cidCore c
  if !(s.saveDrained c) || !(s.windowsReady c) || s.dirtyBlocked t k then s
  else match s.bufferPa c with
    | (a, b, s) =>
      if a = .wait ∨ b = .wait then s
      else
        let s := s.closeWindows c (fun _ => true)
        let s := s.modCtx c (fun x => if x.rep.target ≠ 0 then { x with rep := Rep.empty } else x)
        let s := (s.releaseCore t k).acquireTile t 1
        if reason = 4 ∨ reason = 5 then
          match s.combOf t with
          | none => s
          | some cb =>
            match s.areaSlot cb with
            | (.wait, s) => s
            | (.full d, s) =>
              let p := framePtr (s.ctx c)
              let tag := s.tagOf c
              ((s.listFull cb.yard d).killCtx c).enterHandler k 7 p tag
            | (.ok p pa pg d dpg i, s) =>
              let (held, s) := s.holdLate c
              let s := s.fillBuffer c a b
              let s := s.writeBlock cb.yard pa pg (s.frameBytes c reason held)
              (s.listSave c reason p d dpg i).finishSave c reason p (.mem pa pg)
        else
          let (held, s) := s.holdLate c
          let s := s.fillBuffer c a b
          let p := framePtr (s.ctx c)
          let s := s.setTmBytes t 0 (ptrOff p) (s.frameBytes c reason held)
          s.finishSave c reason p (.tm t (ptrOff p))

/-- Ask for a save; one that is already asked for stands, but a YIELD goes before the end of a slice, a budget and a yard's save, which may
have to wait where it does not (R316). -/
def State.askSave (s : State) (c reason : Nat) : State :=
  if (s.ctx c).live then
    s.modCtx c (fun x => if x.saveReq = 0 ∨ (reason = 3 ∧ (x.saveReq ≤ 2 ∨ x.saveReq = 6)) then { x with saveReq := reason } else x)
  else s

/-! The restore (R320, R321). -/

/-- Doubleword i of a frame. -/
def frameWord (bs : List Byte) (i : Nat) : Word := leWord ((bs.drop (8 * i)).take 8)

/-- Whether a frame's magic, version and zero fields are right. -/
def frameOk (bs : List Byte) : Bool :=
  let h := (frameWord bs 0).toNat
  h % 65536 == 0x5346 && h / 2 ^ 16 % 256 == 1 && h / 2 ^ 56 == 0 && h / 2 ^ 48 % 4 != 3 && decide (h / 2 ^ 52 % 16 ≤ 8) &&
  leNat ((bs.drop 0x6F8).take 0x108) == 0

/-- The bits of a register that a restore may set (R158, R302-R304). -/
def restoredSr (n : Nat) (w : Word) : Word :=
  if n = 0x024 then w &&& BitVec.ofNat 64 (2 ^ 63 + 0xFFFFFFFF) else
  match srInfo n with
  | some i => if i.acc = .rw then storedValue n (w &&& BitVec.ofNat 64 i.keep) else w
  | none => w

/-- The loops of a restored context, from the frame's loop registers and from the suspended loops kept of it: a loop of the frame whose body does not
hold the resume address is a suspended one. Its pair is the first that was kept, or the level's whose saved address its body holds (log 13). -/
def Ctx.restoreLoop (x : Ctx) (susp : SMap Word) : Ctx :=
  let x := { x with susp := susp }
  let inside (a : Word) : Bool := x.sreg 0x030 ≤ a && a < x.loopEnd
  let told := [0, 2, 4].find? (fun k => (SMap.get (fun _ => (0 : Word)) susp (k + 1)).getLsbD 63)
  if (x.sreg 0x031).getLsbD 63 then
    (if inside x.pc then x
     else x.suspendLoop (told.getD
       (if x.inTrap false && inside (x.sreg 0x442) then 0 else if x.inTrap true && inside (x.sreg 0x802) then 2
        else if x.sreg 0x114 ≠ 0 && inside (x.sreg 0x113) then 4 else if x.inTrap false then 0 else if x.inTrap true then 2 else 4)))
  else match told with
    | some k => { x with susp := SMap.set (fun _ => 0) susp (k + 1) 0 }
    | none => x

/-- The repetition state of a frame. -/
def frameRep (bs : List Byte) (pc : Word) : Rep :=
  let st := (frameWord bs 75).toNat
  let ix := (frameWord bs 76).toNat
  let n := Nat.min (st % 32) 16
  { buf := (List.range n).map (fun i =>
      let w := (frameWord bs (146 + i)).toNat
      (BitVec.ofNat 32 w, BitVec.ofNat 32 (w / 2 ^ 32))),
    target := 0, left := st / 65536 % 65536, idx := ix % 2 ^ 32, rs := ix / 2 ^ 32 % 65536, cs := ix / 2 ^ 48, pc := pc }

/-- The wax binding of opcode n of a frame: it is kept when its slot still holds the recorded load and is the context's
own (R280, R318). -/
def State.frameBind (s : State) (t tag : Nat) (bs : List Byte) (n : Nat) : WaxBind :=
  let b := (frameWord bs 205).toNat / 256 ^ n % 256
  let id := (frameWord bs (215 + n)).toNat
  if b / 128 = 1 then
    let sl := (s.tile t).slot (b % 4)
    if id ≠ 0 ∧ sl.ident = id ∧ sl.owner = some tag then { bound := true, reason := 0, slot := b % 4, ident := id, lent := false }
    else { WaxBind.unbound with reason := 2 }
  else { WaxBind.unbound with reason := b / 16 % 4 }

/-- The task-fault records of a frame. -/
def frameRecords (bs : List Byte) : List TaskFault :=
  (List.range ((frameWord bs 0).toNat / 2 ^ 52 % 16)).map (fun i =>
    let w := (frameWord bs (88 + i)).toNat
    let c := causeOf (w % 512)
    { cause := c, launch := w / 2 ^ 32 % 256, index := w / 65536 % 65536, toH := c == .stage2 })

/-- The held late report of a frame. -/
def frameLate (bs : List Byte) : List Late :=
  if (frameWord bs 0).getLsbD 50 then
    (let w := (frameWord bs 2).toNat
     [{ seq := w / 65536 % 65536, ord := 0, cause := causeOf (w % 512), member := w / 2 ^ 40 % 256, elem := w / 2 ^ 32 % 256,
        tval := frameWord bs 3 }])
  else []

/-- The privilege of a frame. -/
def framePriv (bs : List Byte) : Priv :=
  match (frameWord bs 0).toNat / 2 ^ 48 % 4 with | 0 => .u | 1 => .s | _ => .h

/-- The special registers that a restore sets, with their values. -/
def frameSrList (bs : List Byte) (tag : Nat) (scope : Word) : List (Nat × Word) :=
  frameSrs.zipIdx.filterMap (fun p => match p.1 with
    | some n => if n = 0x280 then none else some (n, restoredSr n (frameWord bs (37 + p.2)))
    | none => none) ++
  (List.range 42).map (fun i => let n := 0x400 + 4 * (i / 3) + i % 3; (n, restoredSr n (frameWord bs (162 + i)))) ++
  [(0x2A0, restoredSr 0x2A0 (frameWord bs 204)), (0x447, frameWord bs 36 &&& 0xFF000), (0x44B, 0), (0x807, scope),
   (0x808, BitVec.ofNat 64 tag)] ++
  (List.range 8).map (fun i => (0x2A8 + i, frameWord bs (207 + i)))

/-- What was kept of a context takes its place again (R302; log 16). -/
def Ctx.takeKept (x : Ctx) (k : Kept) : Ctx :=
  let x := unframedSrs.foldl (fun (x : Ctx) n => x.setSreg n (SMap.get (fun _ => 0) k.srs n)) x
  { x with gainTaken := k.gainTaken, rep := { x.rep with pc := k.repPc } }

/-- The context of a frame: of what is left in its slot only H's registers are not the frame's (R14, R304), and what a yard's save has
left to do. -/
def State.frameCtx (s : State) (t : Nat) (old : Ctx) (bs : List Byte) : Ctx :=
  let tag := (frameWord bs 0).toNat / 2 ^ 32 % 65536
  let pc := frameWord bs 1
  let vs := (frameWord bs 96).toNat
  let gn := (frameWord bs 129).toNat
  let scope := s.memWord (recordPa (s.yardOf t) + 0x20) &&& 7
  let x : Ctx :=
    { Ctx.reset with
        live := true, priv := framePriv bs, pc := pc, sr := old.sr.filter (fun p => decide (0x800 ≤ p.1)), pos := 1,
        lossDue := old.lossDue, saveReq := old.saveReq,
        vset := (List.range (Nat.min (vs % 32) 16)).map (fun i => ((frameWord bs (97 + 2 * i)).toNat / 128, frameWord bs (98 + 2 * i))),
        vfail := vs.testBit 5, gains := (List.range (Nat.min (gn % 32) 16)).map (fun i => frameWord bs (130 + i)),
        gainOvf := gn.testBit 63, rep := frameRep bs pc, late := frameLate bs,
        stepPend := (frameWord bs 0).getLsbD 51, records := frameRecords bs }
  let x := frameGs.zipIdx.foldl (fun x p => x.setGreg p.1 (frameWord bs (4 + p.2))) x
  let x := (List.range 7).foldl (fun x i => x.setMreg (i + 1) (frameWord bs (29 + i))) x
  let x := (List.range 32).foldl (fun x v => x.setVreg v (BitVec.ofNat 512 (leNat ((bs.drop (2048 + 64 * v)).take 64)))) x
  let x := (List.range 8).foldl (fun x n => x.setBind n (s.frameBind t tag bs n)) x
  let kept := if (frameWord bs 0).toNat / 2 ^ 24 % 256 = 0 then none else s.keptOf tag
  let x := ((frameSrList bs tag scope).foldl (fun x p => x.setSreg p.1 p.2) x).restoreLoop ((kept.map (fun k => k.susp)).getD [])
  let x := { x.loseNow with gainTaken := x.sreg 0x114 == 5 }
  match kept with
  | some k => x.takeKept k
  | none => x

/-- The late causes that engines held for a restored context come to it (R317). -/
def State.takeHeld (s : State) (c tag : Nat) : State :=
  let mine := (s.heldLates.filter (fun p => p.1 == tag)).map (fun (p : Nat × Late) => p.2)
  { s.modCtx c (fun x => { x with late := x.late ++ mine }) with heldLates := s.heldLates.filter (fun p => p.1 != tag) }

/-- Push the withdrawn instructions of a message buffer again. -/
def State.pushWithdrawn (s : State) (c pa : Nat) : State :=
  let n := Nat.min (leNat (s.homeBytes pa 8)) 32
  (List.range n).foldl (fun s i => s.pushAgain c (s.homeBytes (pa + 8 + 64 * i) 64)) s

/-- Add a gain to a context's pending ones: a 17th drops the oldest (R56). -/
def Ctx.addGain (x : Ctx) (w : Word) : Ctx :=
  if x.gains.length < 16 then { x with gains := x.gains ++ [w] }
  else { x with gains := x.gains.drop 1 ++ [w], gainOvf := true, gainTaken := false }

/-- A context restored as its comb's home context takes the gains that no context has been told of (R56). -/
def State.takeGains (s : State) (c : Nat) : State :=
  match s.combOf (cidTile c) with
  | none => s
  | some b =>
    if b.homeCid ≠ c ∨ b.gains.isEmpty then s
    else
      (s.modCtx c (fun x => let y := b.gains.foldl Ctx.addGain x; { y with gainOvf := y.gainOvf || b.gainOvf })).modComb b.yard b.job
        (fun b => { b with gains := [], gainOvf := false })

/-- Load a checked frame into the control slot of a core (R320, R321); none: a translation of the message buffer is
waited for. What the tile's L1 and read-only cache hold, whatever the home, can be older than the context's own stores, and is discarded (R109, R126).
The first context that starts on a tile of a bulk-synchronous job starts its first superstep: FILLT reads the tile's memory of then (R33; log 66). -/
def State.restore (s : State) (k : Nat) (bs : List Byte) : Option State × State :=
  let c := coreCid k 0
  let t := coreTile k
  let tag := (frameWord bs 0).toNat / 2 ^ 32 % 65536
  let fresh := (frameWord bs 0).toNat / 2 ^ 24 % 256 = 0
  let s1 := (s.setCtx c (s.frameCtx t (s.ctx c) bs)).modCore k (fun x => { x with spill := none })
  match s1.bufferPa c with
  | (a, b, s2) =>
    if !fresh && (a == .wait || b == .wait) then (none, { s with hives := s2.hives, tiles := s2.tiles })
    else
      let y := s.yardOf t
      let s3 : State := { s2 with saved := s2.saved.filter (fun x => x.1 != tag) }
      let s4 := match a with
        | .ok pa pg => if fresh then s3 else s3.unspill k pa y pg
        | _ => s3
      let s5 := match b with
        | .ok pa _ => if fresh then s4 else s4.pushWithdrawn c pa
        | _ => s4
      let s6 := ((s5.takeHeld c tag).takeGains c).acquireTile t 2
      let s6 := if fresh && s.bulkSync t && s.sstep t == 0 && !((tileCids t).any (fun d => cidSlot d != 11 && (s.ctx d).live)) then s6.snapshot t else s6
      (some (if (s6.ctx c).sreg 0x010 = 1 then s6.beginPin t else s6), s)

/-! The synchronisation snapshot (R325). -/

/-- The code of a wait in the snapshot. -/
def WaitKind.code : WaitKind → Nat
  | .evw => 1 | .fillw => 2 | .bar => 3 | .tsync => 4 | .pop => 5 | .push => 6 | .fullQueue => 7 | .start => 8
  | .lnWait => 9 | .interlock => 10 | _ => 0

/-- What a context waits on, as the snapshot says it; the arrivals of a barrier are those of now. -/
def State.waitedOn (s : State) (c : Nat) : Word :=
  let x := s.ctx c
  if x.wait = .bar ∨ x.wait = .tsync then
    BitVec.ofNat 64 (x.waitOp.toNat % 65536 + s.arrivals (s.yardOf (cidTile c)) (x.waitOp.toNat % 65536) (s.tagOf c) % 65536 * 2 ^ 16 +
      x.waitOp.toNat / 2 ^ 32 * 2 ^ 32)
  else x.waitOp

/-- The 64 bytes of the snapshot. -/
def State.syncSnapshot (s : State) (c : Nat) : List Byte :=
  let x := s.ctx c
  let t := cidTile c
  leBytes 8 (s.tagOf c + t % 1024 * 65536 + cidCore c % 4 * 2 ^ 26) ++ leBytes 8 x.pc.toNat ++ leBytes 8 x.wait.code ++
  leBytes 8 (s.waitedOn c).toNat ++ leBytes 8 (x.sreg 0x44B).toNat ++ leBytes 8 (s.readSr c 0x300).toNat ++
  leBytes 8 (s.combReg t 0x102).toNat ++ leBytes 8 0

end Sys2Proof.Machine
end

