-- ==== Sys2Proof/Machine/Work.lean ====
section
/-! DEFINITION. From launch to helper: placement, dispatch, the start of a helper, and the commit of its task (R13-R28,
R75, R113-R117, R133, R134, R177, R178, R342-R347). -/

namespace Sys2Proof.Machine

/-! Starting a helper (R16, R75, R133, R177). -/

/-- Whether a frame and a slot are free: the slot on the core, a fresh frame on its tile. -/
def State.startPlace (s : State) (k : Nat) : Option (Nat × Nat) :=
  match s.freeSlot k, s.freeFrame (coreTile k) with
  | some n, some f => some (n, f)
  | _, _ => none

/-- The bindings of a control context as a helper of its core takes them over (R280, R293). -/
def Ctx.lend (x : Ctx) : SMap WaxBind := x.wax.map (fun (p : Nat × WaxBind) => (p.1, { p.2 with lent := true }))

/-- Make a helper live in a slot with a frame (R133): sp points past the frame, every other register reads zero, and its
control registers are those of the context that created it. It bears the tag of its core's control context, and holds that
context's wax bindings (R280). -/
def State.startHelper (s : State) (k slot frame : Nat) (fresh : Bool) (t : Task) : State :=
  let u := coreTile k
  let c := coreCid k slot
  let off := s.frameOff u frame
  let s := if fresh then s.clearFrame u off else s
  let s := s.modTile u (fun x => if x.frames.contains frame then x else { x with frames := x.frames ++ [frame] })
  let h : Helper := { task := t, frame := frame, dirty := [], pages := [], reads := [], deferred := [], amos := [], halting := none }
  let x : Ctx := { Ctx.reset with live := true, pc := t.entry, sr := t.ctl, wax := (s.ctx (coreCid k 0)).lend, helper := some h }
  let x := (x.setGreg 31 (BitVec.ofNat 64 (0xF * 2 ^ 60 + off + 4096))).setSreg 0x808 (BitVec.ofNat 64 (s.tagOf (coreCid k 0)))
  let s := s.setCtx c x
  match t.launch with
  | some i => if t.solo then s.modLaunch t.yard t.job i (fun l => { l with solo := some c }) else s
  | none => s

/-- A task may run: it is not parked, and a solo task finds the one token of its core's start launch free (R26, R177). -/
def State.startTurn (s : State) (k : Nat) (a : Task) : Bool :=
  a.park.isNone && (!a.solo || !((s.helpersOf k).any (fun c =>
    match (s.ctx c).helper with | some h => h.task.launch.isNone && h.task.solo | none => false)))

/-! Placement (R22, R346). -/

/-- The Manhattan distance of a tile to a hive's nearest tile. -/
def hiveDist (t h : Nat) : Nat :=
  let x0 := h % 8 * 4
  let y0 := h / 8 * 4
  (x0 - tileX t) + (tileX t - (x0 + 3)) + (y0 - tileY t) + (tileY t - (y0 + 3))

/-- Put a number into a rising list. -/
def putRising (t : Nat) : List Nat → List Nat
  | [] => [t]
  | x :: xs => if t < x then t :: x :: xs else x :: putRising t xs
def sortNat (l : List Nat) : List Nat := l.foldl (fun m t => putRising t m) []

/-- The tiles of a comb that take tasks: those that it is not losing, in id order (R47). -/
def State.takingTiles (s : State) (b : Comb) : List Nat := sortNat (b.tiles.filter (fun t => (s.tile t).move.isNone))

/-- The tiles of a rectangle. -/
def rectTiles (r : Word) : List Nat :=
  (List.range 1024).filter (fun t => decide (r.toNat % 32 ≤ tileX t) && decide (tileX t ≤ r.toNat / 2 ^ 16 % 32) &&
    decide (r.toNat / 256 % 32 ≤ tileY t) && decide (tileY t ≤ r.toNat / 2 ^ 24 % 32))

/-- The tile whose hive serves a yard's dispatcher: that of its north-west corner, or its first tile in id order when that is retired (R342, R382). -/
def State.northWest (s : State) (yard : Nat) : Nat :=
  let r := s.memWord (recordPa yard + 8)
  let nw := r.toNat / 256 % 32 * 32 + r.toNat % 32
  if !(s.tile nw).retired then nw
  else ((rectTiles r).find? (fun t => !(s.tile t).retired)).getD nw

/-- Where the placement of a task leads: a tile, or a translation that it waits for. -/
inductive Placing where
  | tile (t : Nat)
  | miss
  | none
deriving DecidableEq, Repr

/-- The tile that a task is placed on. -/
def State.placing (s : State) (b : Comb) (t : Task) : Placing :=
  let ts := s.takingTiles b
  let fewest : Placing := match leastBy (fun u => ((s.tile u).ready.filter (fun a => a.job == t.job)).length) ts with
    | some u => .tile u
    | none => .none
  if t.data = 0 ∨ ptrTag t.data = 15 then fewest
  else if ptrTag t.data = 14 then
    (if ts.contains (ptrTile 0 t.data) then .tile (ptrTile 0 t.data) else fewest)
  else match s.findTlb (s.northWest b.yard) b.yard (ptrAddr t.data) with
    | none => .miss
    | some (e, _) =>
      if s.companionDue e then .none else
      match leastBy (fun u => hiveDist u (hiveOfPa (e.leaf (ptrAddr t.data)).pa)) ts with
      | some u => .tile u
      | none => .none

/-! Dispatch (R343, R344). -/

/-- The tasks of a launch that have not ended: queued, placed and running. -/
def State.liveTasks (s : State) (l : Launch) : List Task :=
  let mine (t : Task) : Bool := t.yard == l.yard && t.job == l.job && t.launch == some l.id
  l.queue ++ s.tiles.flatMap (fun p => p.2.ready.filter mine) ++
  s.ctxs.filterMap (fun p => match p.2.helper with | some h => if mine h.task then some h.task else none | none => none)

/-- Whether a task may leave its queue: it is not parked, and a solo task has the token, and in an ordered launch the lowest
timestamp (R26, R337). -/
def State.mayLeave (s : State) (l : Launch) (t : Task) : Bool :=
  t.park.isNone && (!t.solo || (l.solo.isNone &&
    !((s.liveTasks l).any (fun u => u.solo && !(l.queue.contains u))) &&
    (!l.ordered || (s.liveTasks l).all (fun u => decide (t.ts ≤ u.ts)))))

/-- Whether a launch can be dispatched. -/
def Launch.open (l : Launch) : Bool := l.dispatchable && !l.held && l.count != 0

/-- The pointer that a placement is requested for. -/
def Task.placeAddr (t : Task) : Word := t.data &&& ~~~((0xF : Word) <<< 56)

/-- The job, the launch and the index of a task. -/
def Task.key (t : Task) : Nat × Nat × Nat := (t.job, t.launch.getD 0, t.index)

/-- Whether the translation for the placement of a task of a yard has been asked for and not been answered; a stale answer too ends its miss
(R339). -/
def State.placeAsked (s : State) (yard : Nat) (t : Task) : Bool :=
  (s.hive (hiveOf (s.northWest yard))).misses.any (fun m => m.kind == 4 && m.vf == yard && m.addr == t.placeAddr && m.task == some t.key)

/-- The task that a launch gives up next, and where its placement leads. A task whose translation has missed stands at the head of its
launch until an answer arrives (R343, R346). -/
def State.nextTask (s : State) (l : Launch) : Option (Task × Placing) :=
  if !l.open then none
  else match s.combAt l.yard l.job, l.queue.find? (fun t => s.mayLeave l t) with
    | some b, some t =>
      (match s.placing b t with
       | .none => none
       | .miss => if s.placeAsked l.yard t then none else some (t, .miss)
       | .tile u => some (t, .tile u))
    | _, _ => none

/-- The job that is served next in a priority: the next above the last one, and otherwise the lowest (R343). -/
def nextJob (last : Nat) (js : List Nat) : Option Nat :=
  match (sortNat js).find? (fun j => decide (last ≤ j)) with
  | some j => some j
  | none => (sortNat js).head?

/-- The launches of a yard by creation. -/
def putByOrder (l : Launch) : List Launch → List Launch
  | [] => [l]
  | x :: xs => if l.order < x.order then l :: x :: xs else x :: putByOrder l xs

/-- The choice within one priority: the launch, its task and the tile. -/
def State.choose (s : State) (yard prio : Nat) : Option (Launch × Task × Placing) :=
  let ls := (s.launches.filter (fun l => l.yard == yard && l.prio == prio && l.open)).foldl (fun m l => putByOrder l m) []
  let can := ls.filterMap (fun l => (s.nextTask l).map (fun p => (l, p.1, p.2)))
  match nextJob (SMap.get (fun _ => 0) s.served (yard * 4 + prio)) (can.map (fun c => c.1.job)) with
  | none => none
  | some j => can.find? (fun c => c.1.job == j)

/-- Ask for the translation that the placement of a task waits for, with kind 4 (R346). -/
def State.askPlacement (s : State) (yard : Nat) (t : Task) : State :=
  let nw := s.northWest yard
  s.modHive (hiveOf nw) (fun x => { x with misses := x.misses ++
    [({ id := 0, addr := t.placeAddr, kind := 4, cid := nw * 64, who := none, vf := yard, tag := 0, priv := 0, inv := 0, stale := false,
        written := false, task := some t.key } : Miss)] })

/-- Whether a yard's dispatcher runs (R365). -/
def State.yardRuns (s : State) (yard : Nat) : Bool := s.recState yard == 2

/-- TASK_DISPATCH (R343): at most one task leaves the yard's queues and is placed on a tile; one whose translation misses returns to the
head of its launch (R346). -/
def State.dispatch (s : State) (yard : Nat) : State :=
  if !(s.yardRuns yard) then s
  else
    match ([0, 1, 2, 3].findSome? (fun p => (s.choose yard p).map (fun c => (p, c)))) with
    | none => s
    | some (_, _, _, .none) => s
    | some (_, l, t, .miss) => (s.askPlacement yard t).modLaunch l.yard l.job l.id (fun l => { l with queue := t :: l.queue.erase t })
    | some (p, l, t, .tile u) =>
      let s := s.modLaunch l.yard l.job l.id (fun l =>
        { l with queue := l.queue.erase t, running := l.running ++ [t.index], since := s.cal })
      let s := s.modTile u (fun x => { x with ready := x.ready ++ [t] })
      { s with served := SMap.set (fun _ => 0) s.served (yard * 4 + p) (l.job + 1) }

def execTaskDispatch (yard : Nat) (s : State) : Host.Outcome State Fault Refusal := .next (s.dispatch yard)

/-- Whether tasks of a launch are placed and wait for a slot or a frame (R17). -/
def State.heldTasks (s : State) (l : Launch) : Bool :=
  s.tiles.any (fun p => p.2.ready.any (fun t => t.yard == l.yard && t.job == l.job && t.launch == some l.id))

/-- Whether a launch has been dispatchable for 65,536 calendar cycles and can rise a level (R344). -/
def State.aged (s : State) (l : Launch) : Bool :=
  l.open && !l.queue.isEmpty && !(s.heldTasks l) && decide (l.since + 65536 ≤ s.cal) && l.prio != 0

/-- The tasks placed on a tile go back to be placed again (R22), and the count of R344 starts again for their launches, which were held. -/
def State.handBack (s : State) (t : Nat) : State :=
  let back (s : State) (a : Task) : State :=
    let s := s.requeue (t * 4) a
    match a.launch with
    | some i => s.modLaunch a.yard a.job i (fun l => { l with since := s.cal })
    | none => s
  ((s.tile t).ready.reverse.foldl back s).modTile t (fun x => { x with ready := [] })

/-- LAUNCH_AGING (R344): a dispatchable launch that no task has left for 65,536 calendar cycles rises one level; the time in which its
placed tasks are held does not count. -/
def State.age (s : State) (y j i : Nat) : State :=
  s.modLaunch y j i (fun l => if s.aged l then { l with prio := l.prio - 1, since := l.since + 65536 } else l)

def execLaunchAging (yard job id : Nat) (s : State) : Host.Outcome State Fault Refusal := .next (s.age yard job id)

/-! The start of placed tasks (R347). -/

/-- Whether the helper that START numbered n on a core is live, or its task is queued to run again (R134). -/
def State.slotBusy (s : State) (k n : Nat) : Bool :=
  let mine (t : Task) : Bool := t.slot == coreCid k n
  (s.helpersOf k).any (fun c => cidSlot c == n || (match (s.ctx c).helper with | some h => mine h.task | none => false)) ||
  (s.core k).requeue.any mine || s.launches.any (fun l => l.queue.any mine) || s.tiles.any (fun p => p.2.ready.any mine)

/-- Whether a control context of the tile waits in a START that can be served now. -/
def State.startWaits (s : State) (t : Nat) : Bool :=
  (List.range 4).any (fun n =>
    let k := t * 4 + n
    let x := s.ctx (coreCid k 0)
    x.live && x.wait == .start && (s.freeSlot k).isSome &&
      (if x.waitOp = 0 then (s.freeFrame t).isSome else !(s.slotBusy k x.waitOp.toNat)))

/-- The core of a tile with the most free helper slots, the lowest of them. -/
def State.freestCore (s : State) (t : Nat) : Nat :=
  (leastBy (fun k => (s.helpersOf k).length) ((List.range 4).map (fun n => t * 4 + n))).getD (t * 4)

/-- HELPER_TASK_START (R347): the re-runs of START helpers come first, on their cores, and then the tile's ready tasks. -/
def State.startReady (s : State) (t : Nat) : State :=
  if s.startWaits t ∨ (s.tile t).move.isSome ∨ !(s.yardRuns (s.yardOf t)) then s
  else
    match ((List.range 4).map (fun n => t * 4 + n)).find? (fun k =>
        (s.core k).requeue.any (fun a => s.startTurn k a) && (s.startPlace k).isSome) with
    | some k =>
      (match (s.core k).requeue.find? (fun a => s.startTurn k a), s.startPlace k with
       | some a, some (n, f) => (s.modCore k (fun x => { x with requeue := x.requeue.erase a })).startHelper k n f true a
       | _, _ => s)
    | none =>
      match (s.tile t).ready, s.startPlace (s.freestCore t) with
      | a :: rest, some (n, f) =>
        let s := s.modTile t (fun x => { x with ready := rest })
        let s := match a.launch with
          | some i => s.modLaunch a.yard a.job i (fun l => { l with since := s.cal })
          | none => s
        s.startHelper (s.freestCore t) n f true { a with slot := coreCid (s.freestCore t) n }
      | _, _ => s

def execHelperTaskStart (tile : Nat) (s : State) : Host.Outcome State Fault Refusal := .next (s.startReady tile)

/-! START (R134, R177). -/

/-- START's wait and start; it answers the slot. ready is the last check before the start. -/
def startTask (entry b : Word) (ready : M Unit) : M Nat := fun s =>
  let begin (n f : Nat) (zero : Bool) (u : State → State) (t : Task) : EStateM.Result Exit State Nat :=
    match ready s with
    | .ok _ s => .ok n ((u s).startHelper s.myCore n f zero t)
    | .error e s => .error e s
  let k := s.myCore
  let wait : EStateM.Result Exit State Nat := .error (.wait .start b) s
  let task (n : Nat) : Task :=
    { yard := s.yardOf s.myTile, job := s.jobOf s.myTile, launch := none, index := 0, ts := 0, data := 0, entry := entry,
      solo := false, aborts := 0, slot := coreCid k n, park := none, ctl := taskCtl s.me.sr }
  if b = 0 then
    match s.startPlace k with
    | some (n, f) => begin n f true (fun s => s) (task n)
    | none => wait
  else if 10 < b.toNat then .error (.trap .frameLost 0) s
  else if s.slotBusy k b.toNat then wait
  else
    match (s.core k).endedOf b.toNat with
    | 0 => .error (.trap .frameLost 0) s
    | f + 1 =>
      match s.freeSlot k with
      | none => wait
      | some n => begin n f false (fun s => s.modCore k (fun x => x.claim b.toNat)) (task n)

/-- START. -/
def execStart (d a b : Reg) (s : State) : Host.Outcome State Fault Refusal :=
  runClose (do
    noPrefix
    let s ← get
    trapIf (cidSlot s.cur != 0 || isTsc s.cur) .contextKind 0
    gate [a, b] [d] false
    let e ← readG a
    let y ← readG b
    trapIf (e.extractLsb' 0 2 != 0) .misaligned e
    let n ← startTask e y (gatePush d)
    writeG d (BitVec.ofNat 64 n)
    next) s

/-! HALT and the commit of a task (R24-R28, R113-R117, R178). -/

/-- HALT: the helper's task is to commit once its coprocessor instructions have retired. -/
def execHalt (a : Reg) (s : State) : Host.Outcome State Fault Refusal :=
  runClose (do
    noPrefix
    let s ← get
    trapIf (!s.inTask) .contextKind 0
    gate [a] [] true
    let x ← readG a
    modify (fun s => (s.modHelper s.cur (fun h => { h with halting := some (x.getLsbD 0) })).modMe
      (fun y => { y with wait := .none, waitOp := 0, issued := none }))) s

/-- Whether every line of a task's read set holds the version it was read at (R24). -/
def State.readsHold (s : State) (h : Helper) : Bool :=
  h.reads.all (fun e => !e.failed && s.verOf (e.line * 128) == e.ver)

/-- Publish a task's bytes: one write per line, and the tile's own copies take the new versions (R24, R114); a copy that was older than
the line reads its other bytes again from home (R115). -/
def State.publish (s : State) (c : Nat) (h : Helper) : State :=
  let t := cidTile c
  h.dirtyLines.foldl (fun s l =>
    let bs : List (Nat × Byte) := h.dirty.filterMap (fun p => if lineOf p.1 = l then p.2.map (fun b => (p.1, b)) else none)
    let now := ((s.tile t).line l).ver == s.verOf (l * 128)
    let s := s.homeWrite (s.tagOf c) (s.yardOf t) ((SMap.get (fun _ => none) h.pages l).getD Pg.plain) bs
    s.modTile t (fun x =>
      let y := x.line l
      if y.present then
        (let clean := bs.foldl (fun (w : BitVec 1024) (p : Nat × Byte) =>
            (w &&& ~~~((BitVec.ofNat 1024 255) <<< (8 * (p.1 % 128)))) ||| ((p.2.setWidth 1024) <<< (8 * (p.1 % 128)))) y.clean
         x.setLine l { y with clean := clean, ver := s.verOf (l * 128), refill := y.refill || !now })
      else x)) s

/-- The tasks of the same ordered launch with a later timestamp that have read a line which a commit writes, abort (R27). -/
def State.orderAborts (s : State) (h : Helper) : State :=
  match h.task.launch with
  | none => s
  | some i =>
    match s.launchAt h.task.yard h.task.job i with
    | none => s
    | some l =>
      if !l.ordered then s
      else
        let ls := h.dirtyLines
        let hit (x : Ctx) : Bool := match x.helper with
          | none => false
          | some g => g.task.yard == h.task.yard && g.task.job == h.task.job && g.task.launch == some i &&
              decide (h.task.ts < g.task.ts) && g.reads.any (fun e => ls.contains e.line)
        ((s.ctxs.filter (fun p => hit p.2)).map (fun (p : Nat × Ctx) => p.1)).foldl (fun s c => s.abortTask c true false) s

/-- The value an AMO leaves, for a deferred one. -/
def amoFun : Instr → Option (Nat → Nat → Nat → Nat)
  | .amoAdd _ _ _ _ _ _ => some amoAddF | .amoAnd _ _ _ _ _ _ => some amoAndF | .amoOr _ _ _ _ _ _ => some amoOrF
  | .amoXor _ _ _ _ _ _ => some amoXorF | .amoMin _ _ _ _ _ _ => some amoMinF | .amoMax _ _ _ _ _ _ => some amoMaxF
  | .amoSwap _ _ _ _ _ _ => some amoSwapF | _ => none

/-- The width in bytes of an AMO. -/
def amoWidth : Instr → Nat
  | .amoAdd _ _ _ w _ _ | .amoAnd _ _ _ w _ _ | .amoOr _ _ _ w _ _ | .amoXor _ _ _ w _ _ | .amoMin _ _ _ w _ _
  | .amoMax _ _ _ w _ _ | .amoSwap _ _ _ w _ _ => if w = 0 then 4 else 8
  | .amoXadd _ _ _ _ _ => 4
  | _ => 8

/-- The size and kind of the access of a deferred command that acts on one line; none for the others. -/
def deferAccess (i : Instr) : Option (Nat × AKind) :=
  match i with
  | .flush _ _ | .inval _ _ => some (1, .write)
  | .casv _ _ _ _ | .cas _ _ _ _ | .amoXadd _ _ _ _ _ => some (amoWidth i, .atomic)
  | i => (amoFun i).map (fun _ => (amoWidth i, AKind.atomic))

/-- The number that marks the accesses of a task's deferred commands: no coprocessor instruction has it. -/
def deferWho : Option Nat := some 65537

/-- The translation of a deferred access of a kind. -/
def State.deferLeaf (s : State) (c : Nat) (q : QEntry) (k : AKind) : Trans :=
  s.translate c (ptrTag q.a) (ptrAddr q.a) k.code deferWho k

/-- How the deferred accesses of a task stand: all can be done now, one must wait, one has failed, or one has met a page in
transit (R337). -/
inductive DeferEnd where
  | ready (s : State)
  | wait (s : State)
  | fault (c : Cause) (s : State)
  | parked (p : Word) (s : State)

/-- Whether the deferred accesses of a task can all be done now, with what their translations leave; ls holds the lines that the commit has met. -/
def State.deferReady (s : State) (c : Nat) (ls : List Nat) : List QEntry → DeferEnd
  | [] => if s.l2RoomAll ls then .ready s else .wait s
  | q :: qs =>
    match deferAccess q.inst with
    | none => s.deferReady c ls qs
    | some (_, k) => match s.deferLeaf c q k with
      | .leaf l s => if s.homeOpen (cidTile c) l.pa (some c) then s.deferReady c (ls ++ [lineOf l.pa]) qs else .wait s
      | .fault e s => .fault e s
      | .parked s => .parked q.a s
      | .miss s => .wait s

/-- Do a deferred access at home, and report what goes wrong with it to a context; the flags of the sums that a flush rounds are
kept with the task's launch (R87, R117, R243). -/
def State.doAccess (s : State) (c boss : Nat) (h : Helper) (q : QEntry) (l : Leaf) : State :=
  let tag := q.tag
  let yard := s.yardOf (cidTile c)
  let n := amoWidth q.inst
  let write (s : State) (x : Nat) : State :=
    s.homeWrite tag yard l.pg ((leBytes n x).zipIdx.map (fun p => (l.pa + p.2, p.1)))
  let s := s.cleanLine (cidTile c) (lineOf l.pa)
  let s := if versioned l.pa l.pg then s.fillL2 l.pa yard else s
  let old := leNat (s.homeRead tag l.pa n l.pg)
  let sums (s : State) : State := let r := s.flushSums l.pa yard; r.1.keepFlags h.task.yard h.task.job h.task.launch r.2
  match q.inst with
  | .flush sc _ => if sc = 0 then s else sums s
  | .inval sc _ => (if sc = 0 then s else sums s).dropLine (cidTile c) (lineOf l.pa)
  | .casv _ _ _ _ => match (casvStep q.b 0 l s old).2 with | some x => write s x | none => s
  | .cas _ _ _ _ => match (casStep q.b 0 l s old).2 with | some x => write s x | none => s
  | .amoXadd _ _ _ _ _ => match s.xadd tag yard l.pa l.pg (q.b.setWidth 32).toNat with
    | some t => t
    | none => s.addRecord boss { cause := .exactCapacity, launch := h.task.launch.getD 0, index := h.task.index, toH := false }
  | i => match amoFun i with
    | some f => (write s (f n old q.b.toNat)).jobRequests s [l.pa]
    | none => s

/-- Release one deferred command (R117): a line access is done, a signal is sent, and an engine command joins the queue of
the helper's core. A signal to a tile that refuses its comb's requests by then is not sent, and is reported (R47, R243). -/
def State.releaseOne (s : State) (c : Nat) (h : Helper) (q : QEntry) : State :=
  let k := cidCore c
  let boss := coreCid k 0
  match q.inst with
  | .evs _ =>
    if s.reaches (cidTile c) (s.evsTile c q.a) then s.sendSignal c q.a
    else s.addRecord boss { cause := .combAccess, launch := h.task.launch.getD 0, index := h.task.index, toH := false }
  | i =>
    match deferAccess i with
    | some (_, k) => (match s.deferLeaf c q k with
        | .leaf l s => s.doAccess c boss h q l
        | .fault _ s | .parked s | .miss s => s)
    | none => s.hold k { q with cid := boss, rel := some (h.task.launch.getD 256, h.task.index), since := s.cal }

/-- Whether a task's turn to commit has come: in an ordered launch no uncommitted task has a lower timestamp (R27). -/
def State.turnToCommit (s : State) (t : Task) : Bool :=
  match t.launch with
  | none => true
  | some i => match s.launchAt t.yard t.job i with
    | none => true
    | some l => !l.ordered || (s.liveTasks l).all (fun u => decide (t.ts ≤ u.ts))

/-- The end of a committed task: its frame is kept or powered down, its slot is free, its launch counts (R16, R178). -/
def State.endCommitted (s : State) (c : Nat) (h : Helper) (keep : Bool) : State :=
  let t := cidTile c
  let k := cidCore c
  let s := s.freeHelper c
  let e : Ended := { start := cidSlot h.task.slot, slot := cidSlot c, frame := if keep then h.frame + 1 else 0 }
  let s := (if keep then s else s.dropFrame t h.frame).modCore k (fun x => x.noteEnd e)
  let s := match h.task.launch with
    | none => s
    | some i => s.modLaunch h.task.yard h.task.job i (fun l => { l with running := l.running.filter (· != h.task.index) })
  s.taskEnded h.task.yard h.task.job h.task.launch

/-- TASK_COMMIT (R24): a halting task whose coprocessor work has drained validates and publishes, or aborts. -/
def State.commit (s : State) (c : Nat) : State :=
  match (s.ctx c).helper with
  | none => s
  | some h =>
    match h.halting with
    | none => s
    | some retain =>
      let free := (h.dirtyLines ++ h.reads.map (fun e => e.line)).all (fun l => s.homeOpen (cidTile c) (l * 128) (some c))
      if !(s.drained c) || !(s.turnToCommit h.task) || !free then s
      else match s.deferReady c h.dirtyLines h.deferred with
        | .wait s => s
        | .fault e s => s.taskFault c e (e == .stage2)
        | .parked p s => s.parkTask c p
        | .ready s =>
          if !h.task.solo && !(s.readsHold h) then
            let bad := (h.reads.filter (fun e => e.failed || s.verOf (e.line * 128) != e.ver)).map (fun e => e.line)
            let s := bad.foldl (fun s l => (s.cleanLine (cidTile c) l).modTile (cidTile c) (fun x => x.setLine l CacheLine.absent)) s
            s.abortTask c true false
          else
            let s := (s.publish c h).jobRequests s h.amos
            let s := s.keepFlags h.task.yard h.task.job h.task.launch (((s.ctx c).sreg 0x020).setWidth 5)
            let s := h.deferred.foldl (fun s q => s.releaseOne c h q) s
            (s.endCommitted c h (retain && !(s.losing (cidTile c)))).orderAborts h

def execTaskCommit (cid : Nat) (s : State) : Host.Outcome State Fault Refusal := .next (s.commit cid)

/-! YIELD (R179). -/

/-- YIELD: whether another control context is ready for the core is the supervisor's to say, and a free value here (log 5). -/
def execYield (d : Reg) (s : State) : Host.Outcome State Fault Refusal :=
  runClose (do
    noPrefix
    gate [] [d] true
    let s ← get
    if cidSlot s.cur ≠ 0 ∨ isTsc s.cur then
      writeG d 0
      next
    else
      let p := s.draw
      set p.2
      writeG d (if p.1.getLsbD 0 then 1 else 0)
      next
      modify (fun s => if p.1.getLsbD 0 then s.askSave s.cur 3 else s)) s

/-! UPRET (R57, R143, R180). -/

/-- The loop that an upcall has set aside comes back where the context resumes (R174, R180). -/
def Ctx.resumeUpcall (x : Ctx) : Ctx :=
  if (x.sreg 0x114).getLsbD 2 || (SMap.get (fun _ => 0) x.susp 5).getLsbD 63 then x.resumeLoop 4 else x

/-- The end of an upcall: its cause and the overflow bit are clear, and a gain that was handled is no longer pending. -/
def Ctx.endUpcall (x : Ctx) : Ctx :=
  { x.setSreg 0x114 0 with gainOvf := false, gainTaken := false, gains := if x.gainTaken then x.gains.drop 1 else x.gains }

/-- A context vacates its tile: that save goes before one of another kind that is asked for (R48). -/
def State.askVacate (s : State) (c : Nat) : State := s.modCtx c (fun x => { x with saveReq := 5 })

/-- UPRET with its operand: vacating when bit 0 is set and a loss is pending, else resuming at %upc.epc. -/
def upret (a : Reg) : M Unit := do
  noPrefix
  let s ← get
  trapIf (cidSlot s.cur != 0) .contextKind 0
  gate [a] [] true
  let x ← readG a
  let s ← get
  if x.getLsbD 0 && s.losing s.myTile then
    modify (fun s => (s.modMe (fun y => { (y.completed 0).endUpcall with pc := y.pc + 4 })).askVacate s.cur)
  else
    modify (fun s => s.modMe (fun y => (y.completed 0).resumeUpcall.endUpcall.goTo (y.sreg 0x113)))

def execUpret (a : Reg) (s : State) : Host.Outcome State Fault Refusal := runClose (upret a) s

/-- UPRET_VACATE (R48, R143): the UPRET whose operand has bit 0 set while a loss is pending. -/
def execUpretVacate (a : Reg) (s : State) : Host.Outcome State Fault Refusal := runClose (upret a) s

end Sys2Proof.Machine
end

