-- ==== Sys2Proof/Machine/Boundary.lean ====
section
/-! DEFINITION. What happens at an instruction boundary of a context: late-cause reports, single steps, task-fault records,
saves and upcalls, and what asks for a save (R35, R55, R56, R307, R308, R312-R317, R320, R324, R325). -/

namespace Sys2Proof.Machine

/-! The events of a boundary (R308). -/

/-- Whether a late cause is due: the queue has drained (R312). -/
def State.lateDue (s : State) (c : Nat) : Bool :=
  let x := s.ctx c
  x.live && x.helper.isNone && !x.late.isEmpty && s.drained c

def State.stepDue (s : State) (c : Nat) : Bool := (s.ctx c).live && (s.ctx c).stepPend
def State.recordDue (s : State) (c : Nat) : Bool := (s.ctx c).live && !(s.ctx c).records.isEmpty

/-- The waits that an upcall ends (R55). -/
def WaitKind.leaves : WaitKind → Bool
  | .none | .evw | .pop | .push | .start => true
  | _ => false

/-- Whether an upcall can be entered: one is pending, a handler is set and not active, no prefix is pending, and upcalls are
delivered at the running level (R55, R303). -/
def State.upcallDue (s : State) (c : Nat) : Bool :=
  let x := s.ctx c
  let ie := x.priv == .u || (x.sreg (trapBase (x.priv == .h))).getLsbD 6
  x.live && x.helper.isNone && (x.lossDue || !x.gains.isEmpty) && x.sreg 0x112 != 0 && !((x.sreg 0x114).getLsbD 2) &&
  !((x.sreg 0x024).getLsbD 63) && ie && x.wait.leaves

/-- A trap at a boundary, for an event that no instruction raises: the windows close, a wait is left, and the context goes to
its handler with the address of the instruction that would issue next (R306, R307). -/
def State.boundaryTrap (s : State) (c : Nat) (h : How) (cause : Cause) (tval : Word) : State :=
  let s := (s.closeWindows c (fun _ => true)).unwait c
  s.takeTrap c h cause (s.ctx c).pc tval

/-- LATE_CAUSE_REPORT (R312, R313). -/
def State.reportLate (s : State) (c : Nat) : State :=
  if !(s.lateDue c) || !(s.windowsReady c) then s
  else match firstLate (s.ctx c).late with
    | none => s
    | some l =>
      let s := s.modCtx c (fun x =>
        { (x.addSupp (x.late.length - 1)).setSreg 0x450 (BitVec.ofNat 64 (l.seq % 65536)) with late := [] })
      s.boundaryTrap c { precise := false, late := true, task := false, member := l.member, elem := l.elem } l.cause l.tval

def execLateCauseReport (cid : Nat) (s : State) : Host.Outcome State Fault Refusal := .next (s.reportLate cid)

/-- Whether a command of a context still waits in its queue for its engine to accept it: its step goes on until then (R315). -/
def State.accepting (s : State) (c : Nat) : Bool :=
  let waits (q : QEntry) : Bool := q.cid == c && (engineOf q.inst).isSome && (match q.inst with | .wax _ _ _ _ _ _ => false | _ => true)
  (s.core (cidCore c)).vq.any waits || (s.core (cidCore c)).held.any waits

/-- SINGLE_STEP_TRAP (R315). -/
def State.stepTrap (s : State) (c : Nat) : State :=
  if !(s.stepDue c) || s.accepting c || !(s.windowsReady c) then s
  else (s.modCtx c (fun x => { x with stepPend := false })).boundaryTrap c { How.now with precise := false } .singleStep 0

def execSingleStepTrap (cid : Nat) (s : State) : Host.Outcome State Fault Refusal := .next (s.stepTrap cid)

/-- TASK_FAULT_RECORD (R314): the oldest record is delivered. -/
def State.deliverRecord (s : State) (c : Nat) : State :=
  match (s.ctx c).records with
  | [] => s
  | r :: rest =>
    if !(s.recordDue c) || !(s.windowsReady c) then s
    else
      (s.modCtx c (fun x => { x with records := rest })).boundaryTrap c
        { precise := false, late := false, task := true, member := 0, elem := 0 } r.cause
        (BitVec.ofNat 64 (r.launch % 256 * 2 ^ 56 + r.index % 65536))

def execTaskFaultRecord (cid : Nat) (s : State) : Host.Outcome State Fault Refusal := .next (s.deliverRecord cid)

/-- CONTEXT_SAVE (R317). -/
def execContextSave (cid : Nat) (s : State) : Host.Outcome State Fault Refusal :=
  .next (if s.saveAllowed cid then s.trySave cid else s)

/-- UPCALL_ENTRY (R55): a loss is told before a gain. -/
def State.enterUpcall (s : State) (c : Nat) : State :=
  if !(s.upcallDue c) || !(s.windowsReady c) then s
  else
    let s := (s.closeWindows c (fun _ => true)).unwait c
    s.modCtx c (fun x =>
      let x := (x.suspendLoop 4).setSreg 0x113 x.pc
      if x.lossDue then { x.setSreg 0x114 6 with lossDue := false, pc := x.sreg 0x112 }
      else { x.setSreg 0x114 5 with gainTaken := true, pc := x.sreg 0x112 })

def execUpcallEntry (cid : Nat) (s : State) : Host.Outcome State Fault Refusal := .next (s.enterUpcall cid)

/-! What asks for a save. -/

/-- Whether the slice of a core has expired (R302, R316). -/
def State.sliceOver (s : State) (k : Nat) : Bool :=
  let n := ((s.core k).sreg 0x449).toNat
  n != 0 && decide (n ≤ s.tileCycles (coreTile k) - (s.core k).sliceStart)

/-- SLICE_EXPIRY (R316, R320): the control context is asked to save; on a core whose control slot is empty the resident
handler is entered with g1 = 0, and with free values in g2 and g3. -/
def State.expireSlice (s : State) (k : Nat) : State :=
  if !(s.sliceOver k) || (s.core k).handler then s
  else
    let s := s.modCore k (fun x => { x with sliceStart := s.tileCycles (coreTile k) })
    if (s.ctx (coreCid k 0)).live then s.askSave (coreCid k 0) 1
    else
      let p := s.draw
      let q := p.2.draw
      (q.2.enterHandler k 0 p.1 0).modCtx (coreCid k 11) (fun x => x.setGreg 3 q.1)

def execSliceExpiry (core : Nat) (s : State) : Host.Outcome State Fault Refusal := .next (s.expireSlice core)

/-- Whether a context's waiting has passed its budget (R324). -/
def State.overBudget (s : State) (c : Nat) : Bool :=
  let x := s.ctx c
  x.live && x.helper.isNone && cidSlot c == 0 && x.saveReq == 0 && x.sreg 0x44A != 0 && decide ((x.sreg 0x44A).toNat < (x.sreg 0x44B).toNat)

/-- BUDGET_EXCEEDED (R324, R325): the snapshot is written at home, and the save asked for. A snapshot pointer that reaches no
page is skipped. -/
def State.exceedBudget (s : State) (c : Nat) : State :=
  if !(s.overBudget c) then s
  else match s.agentPa c ((s.ctx c).sreg 0x44C) 64 .write with
    | (.wait, s) => s
    | (.bad, s) => s.askSave c 2
    | (.ok pa pg, s) => (s.writeBlock (s.yardOf (cidTile c)) pa pg (s.syncSnapshot c)).askSave c 2

def execBudgetExceeded (cid : Nat) (s : State) : Host.Outcome State Fault Refusal := .next (s.exceedBudget cid)

/-- UNCORRECTABLE_TILE_ERROR (R310): the cause is raised late at every context of the tile. -/
def State.tileError (s : State) (t : Nat) : State :=
  ((tileCids t).filter (fun c => (s.ctx c).live)).foldl (fun s c =>
    if isHelperSlot (cidSlot c) then s.taskFault c .tileError false
    else s.modCtx c (fun x => { x with late := x.late ++
      [({ seq := ((s.core (cidCore c)).seq + 65535) % 65536, ord := s.pushes, cause := .tileError, member := 0, elem := 0, tval := 0 } : Late)] })) s

def execUncorrectableTileError (tile : Nat) (s : State) : Host.Outcome State Fault Refusal := .next (s.tileError tile)

end Sys2Proof.Machine
end

