-- ==== Sys2Proof/Machine/Branch.lean ====
section
/-! DEFINITION. Branches, jumps and loops (R171-R175). -/

namespace Sys2Proof.Machine

/-- Sext(off, n) times 4, added to the pc (R145). -/
def target16 (pc : Word) (off : BitVec 16) : Word := pc + off.signExtend 64 * 4
def target21 (pc : Word) (off : BitVec 21) : Word := pc + off.signExtend 64 * 4

/-- A conditional branch (R171): both operands are read, and control goes to the target when they
compare. -/
def branch (a b : Reg) (off : BitVec 16) (p : Word → Word → Bool) : M Unit := do
  noPrefix
  gate [a, b] [] true
  let x ← readG a
  let y ← readG b
  let s ← get
  if p x y then jump (target16 s.me.pc off) else next

def execBeq (a b : Reg) (off : BitVec 16) (s : State) : Host.Outcome State Fault Refusal :=
  run (branch a b off (fun x y => x == y)) s
def execBne (a b : Reg) (off : BitVec 16) (s : State) : Host.Outcome State Fault Refusal :=
  run (branch a b off (fun x y => x != y)) s
def execBlt (a b : Reg) (off : BitVec 16) (s : State) : Host.Outcome State Fault Refusal :=
  run (branch a b off (fun x y => x.slt y)) s
def execBge (a b : Reg) (off : BitVec 16) (s : State) : Host.Outcome State Fault Refusal :=
  run (branch a b off (fun x y => !(x.slt y))) s
def execBlo (a b : Reg) (off : BitVec 16) (s : State) : Host.Outcome State Fault Refusal :=
  run (branch a b off (fun x y => x.ult y)) s
def execBhs (a b : Reg) (off : BitVec 16) (s : State) : Host.Outcome State Fault Refusal :=
  run (branch a b off (fun x y => !(x.ult y))) s

/-- BQE (R172): the test of a link queue, nothing popped; an outgoing qk is full at eight values. -/
def State.queueTest (s : State) (a b : Reg) : Bool :=
  if b = 0 then (s.peek a).isEmpty
  else if a = 28 then decide (8 ≤ (s.tile s.myTile).qk.length)
  else s.linkFull s.myCore (linkDir a)

def execBqe (a b : Reg) (off : BitVec 16) (s : State) : Host.Outcome State Fault Refusal :=
  run (do
    noPrefix
    let s ← get
    if s.queueTest a b then jump (target16 s.me.pc off) else next) s

/-- JAL (R173). -/
def execJal (d : Reg) (off : BitVec 21) (s : State) : Host.Outcome State Fault Refusal :=
  run (do
    noPrefix
    gate [] [d] true
    let s ← get
    writeG d (s.me.pc + 4)
    jump (target21 s.me.pc off)) s

/-- JALR (R173): A is read before G[d] is written; a target off a multiple of 4 is misaligned and
nothing is written. -/
def execJalr (d a : Reg) (imm : BitVec 16) (s : State) : Host.Outcome State Fault Refusal :=
  run (do
    noPrefix
    gate [a] [d] true
    let x ← readG a
    let t := x + imm.signExtend 64
    trapIf (t.extractLsb' 0 2 != 0) .misaligned t
    let s ← get
    writeG d (s.me.pc + 4)
    jump t) s

/-- Start a loop over the n instructions after this one, counted in G[d] (R174). -/
def State.startLoop (s : State) (d : Reg) (count : Word) (n : BitVec 16) : State :=
  s.modMe (fun x =>
    ((x.setGreg d count).setSreg 0x030 (x.pc + 4)).setSreg 0x031
      ((1 : Word) <<< 63 ||| (d.setWidth 64 <<< 16) ||| n.setWidth 64))

/-- LOOP (R174): d = 0, d of 24 and above and a body of no instruction are reserved encodings. -/
def execLoop (d a : Reg) (imm : BitVec 16) (s : State) : Host.Outcome State Fault Refusal :=
  run (do
    noPrefix
    trapIf (d == 0 || decide (24 ≤ d.toNat) || decide (imm.toInt < 1)) .reserved 0
    let s ← get
    trapIf ((s.me.sreg 0x031).getLsbD 63) .loopNesting 0
    gate [a] [] true
    let x ← readG a
    if x = 0 then jump (s.me.pc + 4 * (imm.setWidth 64 + 1))
    else
      -- LOOP itself is not the last instruction of a body: it goes on at the body's first
      modify (fun s => (s.modMe (fun y => y.completed (cidSlot s.cur))).startLoop d x imm)
      modify (fun s => s.modMe (fun y => { y with pc := y.pc + 4 }))) s

end Sys2Proof.Machine
end

