-- ==== Sys2Proof/Machine/Privileged.lean ====
section
/-! DEFINITION. TRAP, ERET, and the translation hardware: TLBW, TLBINV, miss records and shoot-down (R207, R309, R320,
R326-R341, R367). -/

namespace Sys2Proof.Machine

/-! TRAP and ERET. -/

/-- TRAP (R207): the user-trap cause, with the address of the next instruction. -/
def execTrap (a : Reg) (s : State) : Host.Outcome State Fault Refusal :=
  runClose (do
    noPrefix
    gate [a] [] true
    let x ← readG a
    let s ← get
    let step := s.me.stepPend
    let s := s.modMe (fun y => { y.advance (cidSlot s.cur) with stepPend := step })
    set (s.deliver s.cur How.now .userTrap s.me.pc x)
    leaveNow) s

/-- The end of the resident handler: its core issues from the control slot again, and a slice begins (R320). -/
def State.endHandler (s : State) (k : Nat) : State :=
  (s.modCtx (coreCid k 11) (fun x => { x with live := false, wait := .none, issued := none })).modCore k
    (fun x => { x with handler := false, sliceStart := s.tileCycles (coreTile k) })

/-- The checks of a restore (R320): the frame, its yard, and the tile. -/
def State.restoreCause (s : State) (t : Nat) (bs : List Byte) : Option Cause :=
  let tag := (frameWord bs 0).toNat / 2 ^ 32 % 65536
  let y := s.yardOf t
  let elsewhere := s.saved.any (fun x => x.1 == tag && x.2.1 != y) || s.dead.any (fun d => d.1 == tag && d.2 != y) ||
    s.ctxs.any (fun p => p.2.live && cidSlot p.1 == 0 && s.tagOf p.1 == tag && s.yardOf (cidTile p.1) != y)
  let otherJob := s.saved.any (fun x => x.1 == tag && x.2.1 == y && x.2.2 != s.jobOf t)
  if !(frameOk bs) then some .frameFormat
  else if elsewhere then some .frameFormat
  else if (s.combOf t).isNone || otherJob || s.losing t then some .combAccess
  else none

/-- The restore of the frame at a pointer by the resident handler (R320). -/
def restoreAt (p : Word) : M Unit := fun s =>
  let k := s.myCore
  let t := s.myTile
  if ptrTag p ≠ 15 then .error (.trap .accessKind p) s
  else match checkPtr s s.cur p 4096 .read with
    | some c => .error (.trap c p) s
    | none =>
      let bs := s.tmBytes t (ptrView p) (ptrOff p) 4096
      match s.restoreCause t bs with
      | some c => .error (.trap c 0) s
      | none =>
        match s.restore k bs with
        | (none, s) => .error (.wait .translation p) s
        | (some s, _) => .ok () (s.endHandler k)

/-- ERET (R309, R320). -/
def eret (a : Reg) : M Unit := do
  noPrefix
  let s ← get
  trapIf (s.me.priv == .u) .privilege 0
  gate [a] [] true
  let x ← readG a
  let s ← get
  let toH := s.me.priv == .h
  let handler := cidSlot s.cur == 11
  if x ≠ 0 then
    trapIf (!handler) .privilege 0
    restoreAt x
  else if handler && !(s.me.inTrap toH) then
    modify (fun s => s.endHandler s.myCore)
  else
    trapIf ((s.me.sreg (trapBase toH)).extractLsb' 4 2 == 3) .reserved 0
    modify (fun s => s.modMe (fun y => (y.completed (cidSlot s.cur)).leave toH))

def execEret (a : Reg) (s : State) : Host.Outcome State Fault Refusal := runClose (eret a) s

/-- ERET_RESTORE (R320): the ERET of the resident handler whose operand points at a frame. -/
def execEretRestore (a : Reg) (s : State) : Host.Outcome State Fault Refusal := runClose (eret a) s

/-! TLB entries (R331, R332, R367). -/

/-- An entry from its 32 bytes. -/
def tlbOf (bs : List Byte) : TlbE :=
  { e0 := leWord (bs.take 8), e1 := leWord ((bs.drop 8).take 8), e2 := leWord ((bs.drop 16).take 8), e3 := leWord ((bs.drop 24).take 8) }

def TlbE.size (e : TlbE) : Nat := (e.e0.extractLsb' 8 2).toNat
def TlbE.valid (e : TlbE) : Bool := e.e0.getLsbD 63
def TlbE.answer (e : TlbE) : Nat := (e.e0.extractLsb' 61 2).toNat

/-- Whether an entry's key is one that its VF may use (R367). -/
def State.keyOk (s : State) (e : TlbE) : Bool :=
  let r := (s.memWord (recordPa e.vf + 0x18)).toNat
  let key := (e.e1.extractLsb' 56 8).toNat
  let shared := (List.range 4).any (fun i => r.testBit (40 + i) && r / 256 ^ (i + 1) % 256 == key)
  if e.e1.getLsbD 2 then shared else key == r % 256 || shared

/-- Whether a page lies in a space that an entry may map, with attributes that the space allows (R385). -/
def TlbE.spaceOk (e : TlbE) : Bool :=
  let x := paSpace e.ppage
  x == 0 || x == 0xA || ((x == 8 || x == 9) && !(e.e1.getLsbD 0) && !(e.e1.getLsbD 1))

/-- Whether TLBW takes an entry as malformed. -/
def State.malformed (s : State) (e : TlbE) : Bool :=
  let align := if e.size = 0 then 2 ^ 16 else if e.size = 1 then 2 ^ 21 else 2 ^ 30
  let region := (e.e0.extractLsb' 4 4).toNat
  let noYard := (s.memWord (recordPa e.vf)).toNat / 2 ^ 60 == 0
  e.size == 3 || decide (e.vpage % align ≠ 0) || decide (e.ppage % align ≠ 0) || decide (e.gpage % align ≠ 0) ||
  decide (14 ≤ region) || e.e0.extractLsb' 10 6 != 0 || e.e1.extractLsb' 3 13 != 0 || e.e2.extractLsb' 56 8 != 0 ||
  e.e2.extractLsb' 0 16 != 0 || e.e3.extractLsb' 56 8 != 0 || e.e3.extractLsb' 0 3 != 0 ||
  (e.e1.getLsbD 0 && e.e1.getLsbD 1) || (e.valid && e.answer != 0) || (!e.valid && e.answer == 0) ||
  (!e.valid && (e.e0.extractLsb' 0 8 != 0 || e.e1 != 0 || e.e2 != 0 || e.e3 != 0)) || noYard ||
  (e.valid && !(s.keyOk e)) || (e.valid && !e.spaceOk)

/-! TLBW (R326, R334, R335, R337). -/

/-- The page of an entry in a tile's or hive's TLB gives way to a new entry of the same page. -/
def TlbE.samePage (e f : TlbE) : Bool := e.vf == f.vf && e.vpage == f.vpage && e.size == f.size

/-- Remove entries of a hive that satisfy a test, and the tile copies of what the hive no longer holds (R330). -/
def State.dropTlb (s : State) (h : Nat) (p : TlbE → Bool) : State :=
  let s := s.modHive h (fun x => { x with tlb := x.tlb.filter (fun e => !p e) })
  (hiveTiles h).foldl (fun s t => if (s.tile t).tlb.any p then s.modTile t (fun x => { x with tlb := x.tlb.filter (fun e => !p e) }) else s) s

/-- Install an entry into a hive TLB of 4,096 entries, the oldest leaving when it is full; the die's accessed bit is set
first (R335). -/
def State.install (s : State) (h : Nat) (e : TlbE) : State :=
  let s := s.setCompanion (1024 + h) e 0
  let s := s.dropTlb h (fun f => f.samePage e)
  let s := match (s.hive h).tlb with
    | f :: _ => if 4096 ≤ (s.hive h).tlb.length then s.dropTlb h (fun g => g == f) else s
    | [] => s
  s.modHive h (fun x => { x with tlb := x.tlb ++ [e] })

/-- Release the accesses and tasks parked on a page that an unsolicited entry covers (R334). -/
def State.unpark (s : State) (e : TlbE) : State :=
  let hit (yard : Nat) (p : Word) : Bool := yard == e.vf && e.covers e.vf (ptrAddr p)
  let free (t : Task) : Task := match t.park with | some p => if hit t.yard p then { t with park := none } else t | none => t
  let s : State := { s with launches := s.launches.map (fun l => { l with queue := l.queue.map free }) }
  let s := s.cores.foldl (fun s p => if p.2.requeue.any (fun t => t.park.isSome) then
    s.modCore p.1 (fun x => { x with requeue := x.requeue.map free }) else s) s
  s.ctxs.foldl (fun s p => if p.2.answers.any (fun a => a.code == 3) then
    s.modCtx p.1 (fun x => { x with answers := x.answers.filter (fun a => !(a.code == 3 && hit (s.vfOf p.1) a.addr)) }) else s) s

/-- The task whose placement made a miss, with its launch, while it is still there (R337). -/
def State.placementTask (s : State) (m : Miss) : Option (Launch × Task) :=
  s.launches.findSome? (fun l => if l.yard = m.vf ∧ l.open then
    (l.queue.find? (fun t => t.placeAddr == m.addr && m.task == some t.key && t.park.isNone)).map (fun t => (l, t)) else none)

/-- A fault answer to a placement (R337): the task is parked, or dropped and reported to the job's home context. -/
def State.answerPlacement (s : State) (m : Miss) (code : Nat) : State :=
  match s.placementTask m with
  | none => s
  | some (l, t) =>
    if code = 3 then s.modLaunch l.yard l.job l.id (fun x => { x with queue := x.queue.map (fun u => if u = t then { u with park := some u.data } else u) })
    else
      let s := s.modLaunch l.yard l.job l.id (fun x => { x with queue := x.queue.erase t })
      let s := s.taskEnded l.yard l.job (some l.id)
      let r : TaskFault := { cause := if code = 1 then .translation else .stage2, launch := l.id, index := t.index, toH := code == 2 }
      match s.combAt l.yard l.job with
      | none => s
      | some b => s.addRecord b.homeCid r

/-- Whether the access of a miss is still to be made: the context waits in its own instruction for that address, or what the miss is
for is under way apart from it. -/
def State.stillWaits (s : State) (m : Miss) : Bool :=
  let x := s.ctx m.cid
  x.live && s.tagOf m.cid == m.tag && (m.who.isSome || (x.wait == .translation && x.waitOp == m.addr))

/-- What an answer does to the access that waits: nothing but ending its miss, when it carries an entry or was stale, and
otherwise the fault that the access meets when it is retried. -/
def State.answerMiss (s : State) (h : Nat) (m : Miss) (e : TlbE) : State :=
  let s := s.modHive h (fun x => { x with misses := x.misses.erase m })
  if m.stale || e.valid then s
  else if m.kind = 4 then s.answerPlacement m e.answer
  else if s.stillWaits m then s.modCtx m.cid (fun x =>
    { x with answers := x.answers ++ [{ code := e.answer, kind := m.kind, who := m.who, addr := m.addr }] })
  else s

/-- TLBW's effect: tile is the tile whose TLB is written too. -/
def State.tlbWrite (s : State) (h : Nat) (tile : Option Nat) (m : Option Miss) (e : TlbE) : State :=
  let stale : Bool := match m with | some m => m.stale | none => false
  let s := if e.valid && !stale then
      (let s := s.install h e
       match tile with
       | some t => (s.modTile t (fun x => { x with tlb := x.tlb.filter (fun f => !(f.samePage e)) })).fillTile t e
       | none => s)
    else s
  match m with
  | some m => s.answerMiss h m e
  | none => if e.valid then s.unpark e else s

/-- TLBW. -/
def execTlbw (a b : Reg) (s : State) : Host.Outcome State Fault Refusal :=
  run (do
    noPrefix
    let s ← get
    trapIf (s.me.priv != .h) .privilege 0
    gate [a, b] [] true
    let p ← readG a
    let y ← readG b
    trapIf (ptrTag p != 15) .accessKind p
    let s ← get
    match checkPtr s s.cur p 32 .read with
    | some c => trap c p
    | none => pure ()
    let h := hiveOf s.myTile
    let e := tlbOf (s.tmBytes s.myTile (ptrView p) (ptrOff p) 32)
    let t := y.toNat % 1024
    let id := y.toNat / 65536
    trapIf (s.malformed e || y.toNat / 1024 % 32 != 0 || decide (2 ^ 32 ≤ y.toNat) || hiveOf t != h) .tlbFormat p
    let m := (s.hive h).misses.find? (fun m => m.written && m.id == id)
    trapIf (id != 0 && m.isNone) .tlbFormat p
    modify (fun s => s.tlbWrite h (if y.getLsbD 15 then some t else none) (if id = 0 then none else m) e)
    next) s

/-! Miss records (R333). -/

/-- The 32 bytes of a miss record. -/
def Miss.bytes (m : Miss) (id : Nat) : List Byte :=
  leBytes 8 m.addr.toNat ++
  leBytes 8 (id % 65536 + cidTile m.cid % 1024 * 65536 + cidCore m.cid % 4 * 2 ^ 26 + m.kind % 16 * 2 ^ 28 + m.vf % 32 * 2 ^ 32 + m.inv % 16 * 2 ^ 40) ++
  leBytes 8 (m.tag % 65536 + m.priv % 4 * 65536) ++ leBytes 8 1

/-- TLB_MISS_RECORD: the oldest miss or notice that is not written yet goes into the next slot of the ring when it is free. -/
def State.missRecord (s : State) (h : Nat) : State :=
  let x := s.hive h
  match x.misses.find? (fun m => !m.written) with
  | none => s
  | some m =>
    let t := 1024 + h
    let off := x.slot % 256 * 32
    if (s.tmByte t 0 (off + 24)).getLsbD 0 then s
    else
      let id := if m.kind = 7 then 0 else x.nextId
      let s := s.setTmBytes t 0 off (m.bytes id)
      let s := s.modHive h (fun x =>
        { x with slot := (x.slot + 1) % 256,
                 nextId := if m.kind = 7 then x.nextId else if x.nextId = 65535 then 1 else x.nextId + 1,
                 misses := if m.kind = 7 then x.misses.erase m else x.misses.map (fun n => if n = m then { n with id := id, written := true } else n) })
      (s.fillArrive t 0 0x2000 32).1

def execTlbMissRecord (hive : Nat) (s : State) : Host.Outcome State Fault Refusal := .next (s.missRecord hive)

/-! Shoot-down (R338). -/

/-- The bytes of a page by its size code. -/
def sizeBytes (z : Nat) : Nat := if z = 0 then 2 ^ 16 else if z = 1 then 2 ^ 21 else 2 ^ 30

/-- Whether an invalidation names an entry. -/
def invMatches (kind size vf addr : Nat) (e : TlbE) : Bool :=
  match kind with
  | 0 => e.vf == vf && decide (e.vpage < addr + sizeBytes size) && decide (addr < e.vpage + pageBytes e)
  | 1 => e.vf == vf
  | 2 => decide (e.gpage < addr + sizeBytes size) && decide (addr < e.gpage + pageBytes e)
  | _ => true

/-- Whether an invalidation makes an outstanding miss stale. -/
def invStale (kind size vf addr : Nat) (m : Miss) : Bool :=
  match kind with
  | 0 => m.vf == vf && decide (addr ≤ ptrAddr m.addr) && decide (ptrAddr m.addr < addr + sizeBytes size)
  | 1 => m.vf == vf
  | _ => true

/-- Step 1: every hive marks the misses in scope stale, and has a notice for its TSC. -/
def State.invCancel (s : State) (cid kind size vf : Nat) (a : Word) : State :=
  let addr := ptrAddr a
  (List.range 64).foldl (fun s h => s.modHive h (fun x =>
    { x with misses := x.misses.map (fun m => if m.kind != 7 && invStale kind size vf addr m then { m with stale := true } else m) ++
      [({ id := 0, addr := a, kind := 7, cid := cid, who := none, vf := vf, tag := s.tagOf cid, priv := (s.ctx cid).priv.code,
          inv := size + 4 * kind, stale := false, written := false, task := none } : Miss)] })) s

/-- Steps 2 and 3: the hives that the companion word of the issuing hive's entry names, or all of them. A word of another device names this whole device,
whose entry it is (R335). -/
def State.invApply (s : State) (tile kind size vf addr : Nat) : State :=
  let hit := invMatches kind size vf addr
  let word : Option Word := if kind = 0 ∨ kind = 2 then 
    (((s.hive (hiveOf tile)).tlb.find? hit).filter (fun e => paSpace e.companion != 0xA)).map (fun e => s.memWord e.companion) else none
  (List.range 64).foldl (fun s h =>
    if (match word with | some w => w.getLsbD (dieOfHive h) | none => true) then s.dropTlb h hit else s) s

/-- Whether a shoot-down is the one that a TLBINV asks for. -/
def Shoot.is (x : Shoot) (cid kind size vf addr : Nat) : Bool :=
  x.cid == cid && x.kind == kind && x.size == size && x.vf == vf && x.addr == addr

/-- TLBINV (R327): it cancels, and blocks until every acknowledgement has arrived. -/
def tlbinv (a b : Reg) : M Unit := do
  noPrefix
  let s ← get
  trapIf (s.me.priv == .u) .privilege 0
  gate [a, b] [] true
  let x ← readG a
  let y ← readG b
  let size := y.toNat % 4
  let kind := y.toNat / 4 % 4
  trapIf (decide (16 ≤ y.toNat) || size == 3) .reserved 0
  let s ← get
  trapIf (decide (2 ≤ kind) && s.me.priv != .h) .privilege 0
  trapIf (x.toNat % sizeBytes size != 0) .misaligned x
  trapIf (kind == 1 && x != 0) .reserved 0
  let vf := s.vfOf s.cur
  let addr := ptrAddr x
  match s.shoots.find? (fun q => q.is s.cur kind size vf addr) with
  | none =>
    set (let t := (s.dropShoots s.cur).invCancel s.cur kind size vf x
         ({ t with shoots := t.shoots ++ [({ cid := s.cur, kind := kind, size := size, vf := vf, addr := addr, acks := true } : Shoot)] } : State))
    waitFor .remote x
  | some q =>
    if q.acks then waitFor .remote x
    else
      set ({ s with shoots := s.shoots.erase q } : State)
      next

/-- TLBINV_PAGE: kind 0; the operand may name the other kinds, which run as their own rows do. -/
def execTlbinvPage (a b : Reg) (s : State) : Host.Outcome State Fault Refusal := runClose (tlbinv a b) s
/-- TLBINV_VF: kind 1. -/
def execTlbinvVf (a b : Reg) (s : State) : Host.Outcome State Fault Refusal := runClose (tlbinv a b) s
/-- TLBINV_GPA: kind 2. -/
def execTlbinvGpa (a b : Reg) (s : State) : Host.Outcome State Fault Refusal := runClose (tlbinv a b) s
/-- TLBINV_ALL: kind 3. -/
def execTlbinvAll (a b : Reg) (s : State) : Host.Outcome State Fault Refusal := runClose (tlbinv a b) s

/-- Whether the hives have written an invalidation's notices, and no tile still combines a byte that it stored through a matching entry
(R338 steps 1 and 4). -/
def State.shootReady (s : State) (q : Shoot) : Bool :=
  let hit := invMatches q.kind q.size q.vf q.addr
  s.hives.all (fun (p : Nat × Hive) => p.2.misses.all (fun m => m.kind != 7 || m.cid != q.cid)) &&
  s.tiles.all (fun (p : Nat × Tile) => p.2.combined.all (fun c =>
    !((p.2.tlb ++ (s.hive (hiveOf p.1)).tlb).any (fun e => hit e && e.covers (s.yardOf p.1) (ptrAddr c.2.ptr)))))

/-- SHOOTDOWN_COMPLETE (R338 steps 2-4): the entries go, and the issuer's acknowledgements have all arrived; those of peer
devices are this step itself. -/
def State.shootDone (s : State) (c : Nat) : State :=
  match s.shoots.find? (fun q => q.cid == c && q.acks) with
  | none => s
  | some q =>
    if !(s.shootReady q) then s else
    let s := s.invApply (cidTile c) q.kind q.size q.vf q.addr
    { s with shoots := s.shoots.map (fun x => if x = q then { x with acks := false } else x) }

def execShootdownComplete (cid : Nat) (s : State) : Host.Outcome State Fault Refusal := .next (s.shootDone cid)

/-- PEER_SHOOTDOWN_REQUEST (R338): every hive cancels, and removes the entries that match. -/
def execPeerShootdownRequest (kind size vf addr : Nat) (s : State) : Host.Outcome State Fault Refusal :=
  .next (let t := s.invCancel 0 kind size vf (BitVec.ofNat 64 addr)
         (List.range 64).foldl (fun t h => t.dropTlb h (invMatches kind size vf addr)) t)

/-- TLB_ENTRY_EVICTION (R330): a TLB drops its k-th entry; what a hive drops, its tiles drop too. -/
def execTlbEntryEviction (hiveLevel : Bool) (place k : Nat) (s : State) : Host.Outcome State Fault Refusal :=
  .next (if hiveLevel then
      (match (s.hive place).tlb.drop k with
       | e :: _ => s.dropTlb place (fun f => f == e)
       | [] => s)
    else s.modTile place (fun x => { x with tlb := x.tlb.eraseIdx k }))

end Sys2Proof.Machine
end

