-- ==== Sys2Proof/Machine/Territory.lean ====
section
/-! DEFINITION. Combs and their moving borders: load and pressure, the local rule, the handover of a tile, the gain upcall,
the comb's four instructions, and the passing of whole rectangles to and from jobs (R37-R60, R371, R372, R383, R405). -/

namespace Sys2Proof.Machine

/-! Settings and when they take part (R58). -/

/-- The first waggle boundary after a cycle (R40). -/
def nextBoundary (cal : Nat) : Nat := (cal / 4096 + 1) * 4096

/-- Whether a setting made at a cycle takes part at a boundary. -/
def inForce (madeAt boundary : Nat) : Bool := decide (madeAt + 3 ≤ boundary)

/-- The hold, the floor and the load adjustment that take part at a boundary. -/
def Comb.holdFor (b : Comb) (boundary : Nat) : Bool := if inForce b.holdAt boundary then b.hold else b.holdWas
def Comb.floorFor (b : Comb) (boundary : Nat) : Nat := if inForce b.floorAt boundary then b.floor else b.floorWas
def Tile.adjFor (x : Tile) (boundary : Nat) : Int := if inForce x.adjAt boundary then x.adj else x.adjWas

/-- Set a comb's hold; in bulk-synchronous mode it stays set. -/
def Comb.setHold (b : Comb) (cal : Nat) (h : Bool) : Comb :=
  { b with hold := h || b.bsp, holdWas := b.holdFor (nextBoundary cal), holdAt := cal }

/-- Set a comb's floor. -/
def Comb.setFloor (b : Comb) (cal n : Nat) : Comb :=
  { b with floor := n, floorWas := b.floorFor (nextBoundary cal), floorAt := cal }

/-- Set a tile's load adjustment. -/
def Tile.setAdj (x : Tile) (cal : Nat) (a : Int) : Tile :=
  { x with adj := a, adjWas := x.adjFor (nextBoundary cal), adjAt := cal }

/-! Neighbourhoods. -/

/-- The 4-neighbours of a tile in the mesh. -/
def neighbours (t : Nat) : List Nat := [Dir.n, .w, .e, .s].filterMap (neighbour t)

/-- The distance of two numbers. -/
def distance (a b : Nat) : Nat := (a - b) + (b - a)

/-- The Chebyshev distance of two tiles (R43). -/
def chebyshev (t u : Nat) : Nat := Nat.max (distance (tileX t) (tileX u)) (distance (tileY t) (tileY u))

/-- Whether a tile lies in a yard's rectangle (R363). -/
def State.inRect (s : State) (yard t : Nat) : Bool :=
  let r := (s.memWord (recordPa yard + 8)).toNat
  decide (r % 32 ≤ tileX t) && decide (tileX t ≤ r / 2 ^ 16 % 32) && decide (r / 256 % 32 ≤ tileY t) && decide (tileY t ≤ r / 2 ^ 24 % 32)

/-- Whether a tile counts as one of a comb's for its connectedness: its own tiles, and the retired tiles of the yard that
touch it (R383). -/
def State.countsIn (s : State) (b : Comb) (t : Nat) : Bool :=
  b.tiles.contains t || ((s.tile t).retired && s.inRect b.yard t && (neighbours t).any (fun u => b.tiles.contains u))

/-- Grow a connected set within a list of tiles. -/
def grow (ts : List Nat) : Nat → List Nat → List Nat
  | 0, seen => seen
  | fuel + 1, seen =>
    let new := ts.filter (fun t => !(seen.contains t) && (neighbours t).any (fun u => seen.contains u))
    if new.isEmpty then seen else grow ts fuel (seen ++ new)

/-- Whether a list of tiles is 4-connected (R38). -/
def connected (ts : List Nat) : Bool :=
  match ts with
  | [] => true
  | t :: _ => decide ((grow ts ts.length [t]).length = ts.length)

/-- The other tiles of the 3 × 3 neighbourhood of a tile. -/
def around (t : Nat) : List Nat := (List.range 1024).filter (fun u => chebyshev t u == 1)

/-- Whether a tile is a simple point of its comb (R41 condition 4). -/
def State.simplePoint (s : State) (b : Comb) (t : Nat) : Bool :=
  let near := (around t).filter (fun u => s.countsIn b u)
  connected near && near.any (fun u => (neighbours t).contains u)

/-! Load and pressure (R39, R40). -/

/-- The load of a tile over the period that has ended, in 1/16 load units: the busy fraction is counted in the tile's own cycles (R360). -/
def State.loadOf (s : State) (t : Nat) : Nat :=
  let x := s.tile t
  let n := Nat.max 1 (4 * (s.tileCycles t - x.loadFrom))
  ((((16 * x.ready.length : Nat) : Int) + x.adjFor s.cal) * n + ((256 * x.busy : Nat) : Int)).toNat / n

/-- The pressure estimate that a tile takes at a boundary, from its own load and its comb's neighbours' last estimates. -/
def State.pressOf (s : State) (t : Nat) : Nat :=
  let ns := (neighbours t).filter (fun u => s.sameComb t u)
  ((s.tile t).load + ns.foldl (fun v u => v + (s.tile u).press) 0) / (1 + ns.length)

/-! The local rule (R41-R43, R60). -/

/-- What a border agent has decided: its tile passes to a comb through one of that comb's tiles. -/
structure Decision where
  tile : Nat
  job  : Nat
  via  : Nat
deriving DecidableEq, Repr

/-- A comb that a tile may pass to: its tile with the greatest estimate beside it. -/
structure Suitor where
  job   : Nat
  press : Nat
  via   : Nat
  count : Nat
deriving DecidableEq, Repr

/-- The tile with the greatest estimate of a list, the first of them. The spec does not say which of several tiles with the same greatest
estimate it is: the model takes the lowest tile id, as the list is in rising order (DESIGN CHOICE; log 75). -/
def State.hottest (s : State) : List Nat → Option Nat
  | [] => none
  | t :: ts => match s.hottest ts with
    | some u => some (if (s.tile t).press < (s.tile u).press then u else t)
    | none => some t

/-- The unheld combs beside a tile. -/
def State.suitors (s : State) (b : Comb) (t : Nat) : List Suitor :=
  (s.combs.filter (fun x => x.yard == b.yard && x.job != b.job && !(x.holdFor s.cal))).filterMap (fun x =>
    (s.hottest (sortNat ((neighbours t).filter (fun u => x.tiles.contains u)))).map (fun u =>
      { job := x.job, press := (s.tile u).press, via := u, count := x.tiles.length }))

/-- Whether one suitor comes before another: the larger left-hand side of condition 6, then the lower comb id. -/
def Suitor.before (a b : Suitor) : Bool :=
  let l := a.press * a.count * (b.count + 1)
  let r := b.press * b.count * (a.count + 1)
  decide (r < l) || (l == r && decide (a.job < b.job))

/-- The suitor that is chosen. -/
def bestSuitor : List Suitor → Option Suitor
  | [] => none
  | x :: xs => match bestSuitor xs with
    | some y => some (if x.before y then x else y)
    | none => some x

/-- Condition 6, with θ = 2 load units and no rounding. -/
def Suitor.wins (x : Suitor) (press count : Nat) : Bool :=
  decide (press * count * (x.count + 1) + 32 * (x.count + 1) * (count - 1) ≤ x.press * x.count * (count - 1))

/-- Whether a core's tile holds a frame that a halted helper has retained (R134). -/
def State.retains (s : State) (t : Nat) : Bool :=
  (List.range 4).any (fun n => (s.core (t * 4 + n)).ended.any (fun e => e.frame != 0))

/-- Whether a move in progress has reserved a tile's neighbourhood (R41 condition 7, R43). -/
def State.reserved (s : State) (t : Nat) : Bool := s.tiles.any (fun p => p.2.move.isSome && decide (chebyshev p.1 t ≤ 2))

/-- Whether a request to cede a tile is tested at a boundary (R60). -/
def Tile.ceding (x : Tile) (cal : Nat) : Bool :=
  match x.cede with | some a => inForce a cal && decide (cal ≤ a + 16 * 4096) | none => false

/-- BORDER_MOVE_DECISION (R41): the decision of a tile's border agent. -/
def State.borderDecision (s : State) (t : Nat) : Option Decision :=
  match s.combOf t with
  | none => none
  | some y =>
    let x := s.tile t
    let n := y.tiles.length
    if y.holdFor s.cal || decide (n ≤ y.floorFor s.cal) || s.wantsPin t || s.retains t || !(s.simplePoint y t) ||
        (x.lastMove != 0 && decide (s.cal ≤ x.lastMove + 16 * 4096)) || s.reserved t then none
    else match bestSuitor (s.suitors y t) with
      | none => none
      | some c => if c.wins x.press n || x.ceding s.cal then some { tile := t, job := c.job, via := c.via } else none

/-! The steps of a handover (R47). -/

/-- The control contexts of a tile. -/
def controlCids (t : Nat) : List Nat := (List.range 4).map (fun n => coreCid (t * 4 + n) 0)

/-- Ask for the forced save of a context, over any request but its own vacating (R47, R48). -/
def State.forceSave (s : State) (c : Nat) : State :=
  s.modCtx c (fun x => if x.live && x.saveReq != 5 then { x with saveReq := 4 } else x)

/-- LOSS_UPCALL_NOTICE (R47 step 1, R48): tell a control context that its tile is being lost. -/
def State.tellLoss (s : State) (c : Nat) : State :=
  if !(s.ctx c).live then s
  else if (s.ctx c).sreg 0x112 = 0 then s.forceSave c
  else s.modCtx c (fun x => { x with lossDue := true })

/-- Steps 1 and 2 begin: the tasks queued on the tile go back to be placed again, and its control contexts are told. -/
def State.beginMove (s : State) (d : Decision) : State :=
  let t := d.tile
  let s := s.handBack t
  let s := s.modTile t (fun x =>
    { x with cede := none, move := some { toJob := d.job, via := d.via, step := 2, since := s.tileCycles t } })
  (controlCids t).foldl (fun s c => s.tellLoss c) s

/-- WAGGLE_BOUNDARY (R39-R43): every border agent takes its load and then its estimate, and those of the running yards decide (R373); of
the deciders within distance 2 of each other only those with no lower id near them go on. -/
def State.waggle (s : State) : State :=
  let ts := sortNat (s.combs.flatMap (fun b => b.tiles))
  let s1 := ts.foldl (fun (r : State) t => r.modTile t (fun x =>
    { x with load := s.loadOf t, busy := 0, loadFrom := s.tileCycles t })) s
  let s2 := ts.foldl (fun (r : State) t => r.modTile t (fun x => { x with press := s1.pressOf t })) s1
  let ds := (ts.filter (fun t => s.yardRuns (s.yardOf t))).filterMap (fun t => s2.borderDecision t)
  let go := ds.filter (fun d => !(ds.any (fun e => decide (e.tile < d.tile) && decide (chebyshev e.tile d.tile ≤ 2))))
  go.foldl (fun s d => s.beginMove d) s2

def execWaggleBoundary (s : State) : Host.Outcome State Fault Refusal := .next s.waggle

/-- CEDE_REQUEST_EXPIRY (R60): a request that has been pending for 16 periods ends. -/
def State.expireCede (s : State) (t : Nat) : State :=
  match (s.tile t).cede with
  | some a => if a + 16 * 4096 ≤ s.cal then s.modTile t (fun x => { x with cede := none }) else s
  | none => s

def execCedeRequestExpiry (tile : Nat) (s : State) : Host.Outcome State Fault Refusal := .next (s.expireCede tile)

/-- LOSS_GRACE_EXPIRY (R47 step 2): after 65,536 tile cycles the control contexts left are force-saved and the helpers abort. -/
def State.expireGrace (s : State) (t : Nat) : State :=
  match (s.tile t).move with
  | none => s
  | some m =>
    if 2 < m.step ∨ s.tileCycles t < m.since + 65536 then s
    else
      let s := (controlCids t).foldl (fun s c => s.forceSave c) s
      ((List.range 4).flatMap (fun n => s.helpersOf (t * 4 + n))).foldl (fun s c => s.abortTask c true false) s

def execLossGraceExpiry (tile : Nat) (s : State) : Host.Outcome State Fault Refusal := .next (s.expireGrace tile)

/-- The tiles that pass together with a tile (R372). -/
def State.moveGroup (s : State) (t : Nat) (m : Move) : List Nat :=
  if m.via < 1024 then [t]
  else match s.combOf t with
    | none => [t]
    | some b => b.tiles.filter (fun u => match (s.tile u).move with
        | some n => decide (1024 ≤ n.via) && n.toJob == m.toJob | none => false)

/-- Whether a live control or helper context stands on a tile. -/
def State.hasContexts (s : State) (t : Nat) : Bool := (tileCids t).any (fun c => cidSlot c != 11 && (s.ctx c).live)

/-- Whether a command waits for room in the operand ring that it fills (R98, R258). -/
def State.ringStuck (s : State) (e : ECmd) : Bool :=
  match e.q.ringForm with
  | none => false
  | some k => let r := s.ring (cidTile e.q.cid) k; r.valid && r.held == r.slots

/-- Whether a row that is on its way reaches a tile of the comb of a tile: a signal or a counted arrival (R127, R101). -/
def State.onItsWay (s : State) (t : Nat) : Bool :=
  s.agenda.any (fun i => match i with
    | .eventArrival u _ => s.sameComb t u
    | .fillWordArrival u _ _ _ => s.sameComb t u
    | _ => false)

/-- Whether every request from a tile has drained (R47 step 3). A ring-form copy that waits for room in the tile's own ring can never drain,
since no context is left to make room: the model counts it as drained, and step 4 drops it (DESIGN CHOICE; log 75). -/
def State.tileDrained (s : State) (t : Nat) : Bool :=
  let x := s.tile t
  let ks := (List.range 4).map (fun n => t * 4 + n)
  ks.all (fun k => (s.core k).vq.isEmpty && (s.core k).held.isEmpty && !(s.dirtyBlocked t k)) && x.mq.isEmpty && x.mrun.isEmpty && x.wq.isEmpty && x.streams.isEmpty &&
  ks.all (fun k => s.sendsDone k) && !(s.onItsWay t) && x.eng.all (fun e => s.ringStuck e) && x.wcb.isEmpty &&
  !(s.remotes.any (fun r => cidTile r.cid == t && !r.acked))

/-- Whether moves of a yard may reach step 3: it is running (R373). -/
def State.movesOn (s : State) (yard : Nat) : Bool := s.recState yard == 2

/-- Step 3 begins: the tile refuses new requests, and its landing windows are disarmed (R47, R102). -/
def State.refuseRequests (s : State) (t : Nat) : State :=
  let wins := s.wins.filter (fun p => p.2.tile != t)
  { s.modTile t (fun x => { x with move := x.move.map (fun m => { m with step := 3 }) }) with wins := wins }

/-- Every context's state that a tile holds is gone: tile memory, event lines, Glalin slots, accumulators, operand rings, qk,
link queues, the matrix group, lanes shares, windows and load adjustment, and what lies in its engines (R47 step 4, R376). -/
def State.clearTile (s : State) (t : Nat) : State :=
  let kept := s.kept.map (fun (p : Nat × Option Kept) => (p.1, p.2.map (fun k =>
    { k with place := match k.place with | some (.tm u o) => if u = t then none else some (.tm u o) | q => q })))
  let s : State := { s with tm := s.tm.filter (fun p => p.1 / 2 ^ 20 != t), acc := s.acc.filter (fun p => p.1 / 2 ^ 15 != t), kept := kept }
  let s := ((s.tile t).eng).foldl (fun s e => s.disown ((s.l2.filter (fun p => p.2.engine == some e.id)).map (fun p => p.1))) s
  let s := s.modTile t (fun x =>
    { x with sr := [], pend := [], ev := 0, qk := [], mq := [], mrun := [], half := none, eng := [], doneCnt := [], lastLate := [],
             gl := [], wq := [], streams := [], snap := [], adj := 0, adjWas := 0, adjAt := 0, frames := [], ready := [], wcb := [] })
  (List.range 4).foldl (fun s n => s.modCore (t * 4 + n) (fun k =>
    { k with vq := [], held := [], lanes := 0, ring := [], qn := [], qe := [], qs := [], qw := [], flight := [], ended := [], requeue := [], spill := none })) s

/-- The L1 of a tile is invalidated, and its read-only cache. -/
def State.dropL1 (s : State) (t : Nat) : State := s.modTile t (fun x => { x with l1 := [], ro := [] })

/-- The first 192 bytes of a comb's descriptor (R53). -/
def Comb.descBytes (b : Comb) : List Byte :=
  let tiles (i : Nat) : Nat := b.tiles.foldl (fun v t => if t / 8 = i then v + 2 ^ (t % 8) else v) 0
  leBytes 8 (b.yard % 32 * 65536 + b.job % 65536) ++ leBytes 8 b.gen.toNat ++ leBytes 4 b.tiles.length ++ leBytes 4 b.bbox ++
  leBytes 4 b.floor ++ leBytes 4 (if b.hold then 1 else 0) ++ leBytes 4 (b.homeTile % 1024 + b.homeCore % 4 * 1024) ++
  List.replicate 28 0 ++ (List.range 128).flatMap (fun i => leBytes 1 (tiles i))

/-- Rewrite a comb's descriptor where it can be reached. -/
def State.writeDesc (s : State) (b : Comb) (p : AgentPa) : State :=
  match p with
  | .ok pa pg => s.writeBlock b.yard pa pg b.descBytes
  | _ => s

/-- The context that a comb's gain goes to (R56): on the gaining tile its live control context of the lowest core, else the
home context; none: neither is live. -/
def State.gainTarget (s : State) (b : Comb) (via : Nat) : Option Nat :=
  match (if via < 1024 then (controlCids via).find? (fun c => (s.ctx c).live) else none) with
  | some c => some c
  | none => if (s.ctx b.homeCid).live then some b.homeCid else none

/-- Tell a comb that it has gained a tile (R47 step 7, R56). -/
def State.tellGain (s : State) (b : Comb) (via t : Nat) : State :=
  let w : Word := BitVec.ofNat 64 (2 ^ 63 + b.gen.toNat % 2 ^ 32 * 65536 + t % 1024)
  match s.gainTarget b via with
  | some c => s.modCtx c (fun x => x.addGain w)
  | none => s.modComb b.yard b.job (fun b =>
      { b with gains := (b.gains ++ [w]).drop (b.gains.length + 1 - 16), gainOvf := b.gainOvf || decide (16 ≤ b.gains.length) })

/-- Write the status of a job-table entry (R371). -/
def State.jobStatus (s : State) (y j n : Nat) : State := s.writeBlock y (s.jobEntry y j + 4) Pg.plain (leBytes 2 n)

/-- Whether the lines of a descriptor can be written at home: neither is owned (R26, R54). -/
def State.descFree (s : State) (p : AgentPa) : Bool :=
  match p with
  | .ok pa _ => s.lineFree pa none && s.lineFree (pa + 128) none
  | _ => true

/-- Steps 4 to 7 for the tiles of one move: the tiles are written back and cleared, both combs and both descriptors change
as one step, and the gaining comb is told. Where the comb that was to gain has ended and its tiles pass to the losing comb, that comb loses the tiles and
gains them again (R49). -/
def State.passTiles (s : State) (y x : Comb) (g : List Nat) (m : Move) : State :=
  match s.descPa y with
  | (.wait, s) => s
  | (py, s) => match s.descPa x with
    | (.wait, s) => s
    | (px, s) =>
      if !(s.descFree py) || !(s.descFree px) then s else
      let s := g.foldl (fun s t => ((s.releaseTile t).dropL1 t).clearTile t) s
      let y' : Comb := { y with tiles := y.tiles.filter (fun t => !(g.contains t)), gen := y.gen + 1 }
      let x := if x.job = y.job then y' else x
      let x' : Comb := { x with tiles := sortNat (x.tiles ++ g), gen := x.gen + 1 }
      let s := (s.modComb y.yard y.job (fun _ => y')).modComb x.yard x.job (fun _ => x')
      let s := (s.writeDesc y' py).writeDesc x' px
      let s := g.foldl (fun s t => s.modTile t (fun z => { z with move := none, lastMove := s.cal, press := z.load })) s
      let s := if 1024 ≤ m.via then s.jobStatus y.yard (if x.gen = 0 then m.toJob else y.job) 0 else s
      let s := g.foldl (fun s t => s.tellGain x' m.via t) s
      if y'.tiles.isEmpty ∧ x.job ≠ y.job then { s with combs := s.combs.filter (fun b => !(b.yard == y.yard && b.job == y.job)) } else s

/-- What becomes of drained tiles: they pass when the gaining comb stays 4-connected with them (R38). Toward the comb that an ended comb's tiles pass to
they wait for those tiles, and where none of those is to come they stay in their own comb (log 76). -/
def State.passOrWait (s : State) (y x : Comb) (g : List Nat) (m : Move) : State :=
  let ring := (List.range 1024).filter (fun t => (s.tile t).retired && s.countsIn x t)
  if x.tiles.isEmpty || x.job == y.job || connected (sortNat (x.tiles ++ g ++ ring)).eraseDups then s.passTiles y x g m
  else if s.tiles.any (fun p => !(g.contains p.1) && p.2.move.any (fun n => n.toJob == m.toJob) && s.yardOf p.1 == y.yard) then s
  else g.foldl (fun s t => s.modTile t (fun z => { z with move := none })) s

/-- HANDOVER_DRAIN_COMPLETE (R47 steps 2 to 7): step 2 ends when no context of the losing comb is left on the move's tiles, and
step 3 when their requests have drained. No move of a yard that is being saved goes on to step 3 (R373). -/
def State.handover (s : State) (t : Nat) : State :=
  match (s.tile t).move, s.combOf t with
  | some m, some y =>
    (match s.combAt y.yard m.toJob with
     | none => s.modTile t (fun x => { x with move := none })
     | some x =>
       let g := s.moveGroup t m
       if m.step ≤ 2 then
         if g.any (fun u => s.hasContexts u) || !(s.movesOn y.yard) then s else g.foldl (fun s u => s.refuseRequests u) s
       else if g.all (fun u => s.tileDrained u) then s.passOrWait y x g m
       else s)
  | _, _ => s

def execHandoverDrainComplete (tile : Nat) (s : State) : Host.Outcome State Fault Refusal := .next (s.handover tile)

/-! The comb's instructions (R58-R60). -/

/-- The shape of the four instructions: G[d] takes what f answers. -/
def territory (d a : Reg) (f : Word → State → Word × State) : M Unit := do
  noPrefix
  let s ← get
  trapIf s.inTask .combContext 0
  gate [a] [d] true
  let x ← readG a
  let s ← get
  set (f x s).2
  writeG d (f x s).1
  next

/-- CHOLD: the old hold; the new one is bit 0 of A. -/
def State.chold (s : State) (x : Word) : Word × State :=
  match s.combOf s.myTile with
  | none => (0, s)
  | some b => (if b.hold then 1 else 0, s.modComb b.yard b.job (fun b => b.setHold s.cal (x.getLsbD 0)))

def execChold (d a : Reg) (s : State) : Host.Outcome State Fault Refusal := run (territory d a (fun x s => s.chold x)) s

/-- CFLOOR: the old floor; the new one is A, kept within 1 and 1,024. -/
def State.cfloor (s : State) (x : Word) : Word × State :=
  match s.combOf s.myTile with
  | none => (0, s)
  | some b => (BitVec.ofNat 64 b.floor, s.modComb b.yard b.job (fun b => b.setFloor s.cal (Nat.min (Nat.max x.toNat 1) 1024)))

def execCfloor (d a : Reg) (s : State) : Host.Outcome State Fault Refusal := run (territory d a (fun x s => s.cfloor x)) s

/-- CLOAD: the old adjustment of the tile; the new one is the low 16 bits of A, signed, kept within ±1,024. -/
def State.cload (s : State) (x : Word) : Word × State :=
  let a := max (-1024) (min 1024 (x.extractLsb' 0 16).toInt)
  (BitVec.ofInt 64 (s.tile s.myTile).adj, s.modTile s.myTile (fun t => t.setAdj s.cal a))

def execCload (d a : Reg) (s : State) : Host.Outcome State Fault Refusal := run (territory d a (fun x s => s.cload x)) s

/-- CCEDE: the result code, and the request when it is accepted. The spec does not say what becomes of a request accepted while the tile's
own move is in progress: the model leaves it pending on the tile, which the comb that has gained the tile then finds pending (DESIGN
CHOICE; log 75). -/
def State.ccede (s : State) (x : Word) : Word × State :=
  match s.combOf s.myTile with
  | none => (1, s)
  | some b =>
    let t := x.toNat
    if 1024 ≤ t ∨ !(b.tiles.contains t) then (1, s)
    else if b.hold then (2, s)
    else if b.tiles.length ≤ b.floor then (3, s)
    else if !((neighbours t).any (fun u => match s.combOf u with | some c => c.yard == b.yard && c.job != b.job | none => false)) then (4, s)
    else if (match (s.tile t).cede with | some a => decide (s.cal < a + 16 * 4096) | none => false) then (5, s)
    else (0, s.modTile t (fun y => { y with cede := some s.cal }))

def execCcede (d a : Reg) (s : State) : Host.Outcome State Fault Refusal := run (territory d a (fun x s => s.ccede x)) s

/-! Jobs (R371, R372). -/

/-- The comb of a job-table entry, with no tile yet. -/
def State.newComb (s : State) (y j : Nat) : Comb :=
  let e := s.jobEntry y j
  let w (i : Nat) : Nat := leNat (s.homeBytes (e + 8 * i) 8)
  let bsp := (w 0).testBit 61
  let hold := (w 0).testBit 60 || bsp
  let floor := Nat.min (Nat.max (w 2 % 2048) 1) 1024
  { yard := y, job := j, tiles := [], gen := 0, floor := floor, floorWas := floor, floorAt := 0, hold := hold, holdWas := hold,
    holdAt := 0, bsp := bsp, desc := BitVec.ofNat 64 (w 3), homeTile := w 2 / 2 ^ 16 % 1024, homeCore := w 2 / 2 ^ 26 % 4,
    frames := Nat.min (w 4 % 64) 40, poolBase := w 4 / 256 % 256, sstep := 0, flags := 0, gains := [], gainOvf := false }

/-- JOB_GO (R372): the rectangle of an entry passes to the entry's new comb. -/
def State.jobGo (s : State) (y j : Nat) : State :=
  if (s.combAt y j).isSome then s.jobStatus y j 3
  else
    let ts := rectTiles (BitVec.ofNat 64 (leNat (s.homeBytes (s.jobEntry y j + 8) 8)))
    match ts.head?.bind (fun t => s.combOf t) with
    | none => s.jobStatus y j 1
    | some b =>
      if b.yard ≠ y ∨ !(ts.all (fun t => b.tiles.contains t)) then s.jobStatus y j 1
      else
        let rest := b.tiles.filter (fun t => !(ts.contains t))
        let ring := (List.range 1024).filter (fun t => (s.tile t).retired && s.countsIn { b with tiles := rest } t)
        if rest.length < b.floor ∨ !(connected (rest ++ ring)) then s.jobStatus y j 2
        else if ts.any (fun t => s.reserved t) then s.jobStatus y j 3
        else
          ts.foldl (fun (s : State) t => s.beginMove { tile := t, job := j, via := 1024 }) { s with combs := s.combs ++ [s.newComb y j] }

/-- A request of the job table is carried out while the yard's dispatcher runs, and waits otherwise (R365, R373). -/
def State.request (s : State) (y : Nat) (i : Instr) (f : State → State) : State :=
  if s.yardRuns y then f s else if s.recState y = 0 then s else s.later i

def execJobGo (v j : Nat) (s : State) : Host.Outcome State Fault Refusal := .next (s.request v (.jobGo v j) (fun s => s.jobGo v j))

/-- The combs beside a list of tiles of a yard, but one. -/
def State.combsBeside (s : State) (y j : Nat) (ts : List Nat) : List Comb :=
  s.combs.filter (fun b => b.yard == y && b.job != j && ts.any (fun t => (neighbours t).any (fun u => b.tiles.contains u)))

/-- The saved contexts of a job are killed (R322). -/
def State.killJobSaved (s : State) (y j : Nat) : State :=
  ((s.saved.filter (fun p => p.2.1 == y && p.2.2 == j)).map (fun (p : Nat × Nat × Nat) => p.1)).foldl (fun s tag => s.killSaved y tag) s

/-- The moves toward a comb that ends go on toward the comb that its tiles pass to (R49; log 76). -/
def State.redirect (s : State) (y j x : Nat) : State :=
  s.tiles.foldl (fun (s : State) (p : Nat × Tile) =>
    if p.2.move.any (fun m => m.toJob == j) && s.yardOf p.1 == y then
      s.modTile p.1 (fun z => { z with move := z.move.map (fun m => { m with toJob := x }) })
    else s) s

/-- JOB_END (R372): a job's launches are cancelled, its contexts killed, and its tiles pass to the adjacent comb of the lowest
id. -/
def State.jobEnd (s : State) (y j : Nat) : State :=
  match s.combAt y j with
  | none => s
  | some b =>
    match leastBy id ((s.combsBeside y j b.tiles).map (fun c => c.job)) with
    | none => s.jobStatus y j 3
    | some x =>
      let s := s.cancelJob y j
      let s := (b.tiles.flatMap tileCids).foldl (fun s c => if cidSlot c ≤ 10 ∧ (s.ctx c).live then s.killCtx c else s) s
      let s := (s.killJobSaved y j).redirect y j x
      (b.tiles.filter (fun t => (s.tile t).move.isNone)).foldl (fun s t => s.beginMove { tile := t, job := x, via := 1024 }) s

def execJobEnd (v j : Nat) (s : State) : Host.Outcome State Fault Refusal := .next (s.jobEnd v j)

end Sys2Proof.Machine
end

