-- ==== Sys2Proof/Machine/Traffic.lean ====
section
/-! DEFINITION. What moves on its own between caches, homes and links: write-backs and evictions, requests of other devices,
the drain of dead tags, calendars and routes, PCIe and Milay (R102-R111, R130, R183, R323, R354-R356, R385-R393). -/

namespace Sys2Proof.Machine

/-! Homes and caches. -/

/-- The yard that a tag's writes are charged to (R369): 32, of no quota, where a peer's tag is none of this device's. -/
def State.yardOfTag (s : State) (tag : Nat) : Nat :=
  match s.ctxs.find? (fun p => p.2.live && s.tagOf p.1 == tag) with
  | some p => s.yardOf (cidTile p.1)
  | none => ((s.saved.find? (fun p => p.1 == tag)).map (fun (p : Nat × Nat × Nat) => p.2.1)).getD 32

/-- How many bytes a request reaches. -/
def homeSize : HomeOp → Nat
  | .read n => n
  | .write bs => bs.length
  | .xadd _ => 4
  | .orBits _ => 8

/-- HOME_ACCESS (R107): a request of another device is applied or served in the line's one order; a request that crosses a
line, or meets a line that another owns, does nothing yet. EXACT_SUM_ALLOCATE is within it (R85). A peer's OR sets its bit of a
companion word, which lies on a memory-side page (R335). Where the memory has an error or its pseudo-channel has been retired, the request is answered
with an error (R310, R382). -/
def State.homeAccess (s : State) (r : HomeReq) : State :=
  if paSpace r.pa ≠ 0 ∨ homeSize r.op = 0 ∨ 128 < r.pa % 128 + homeSize r.op ∨ !(s.lineFree r.pa none) then s
  else if s.memBad r.pa then { s with out := s.out ++ [.milayError r.dev] }
  else
    let y := s.yardOfTag r.tag
    let pg : Pg := { Pg.plain with memSide := r.memSide }
    let reply (s : State) (bs : List Byte) : State := { s with out := s.out ++ [.milay r.dev bs] }
    match r.op with
    | .read n => if s.isDead r.tag then reply s (List.replicate n 0) else reply (if r.memSide then s else s.fillL2 r.pa y) (s.homeRead r.tag r.pa n pg)
    | .write bs => reply (s.homeWrite r.tag y pg (bs.zipIdx.map (fun p => (r.pa + p.2, p.1)))) []
    | .xadd x => if r.pa % 4 ≠ 0 then s else match s.xadd r.tag y r.pa pg x.toNat with
      | some s => reply s []
      | none => s
    | .orBits x =>
      if r.pa % 8 ≠ 0 then s
      else reply (s.homeWrite r.tag y { Pg.plain with memSide := true } ((leBytes 8 (s.memWord r.pa ||| x).toNat).zipIdx.map (fun p => (r.pa + p.2, p.1)))) []

def execHomeAccess (req : HomeReq) (s : State) : Host.Outcome State Fault Refusal := .next (s.homeAccess req)

/-- L1_WRITEBACK (R108, R110): the dirty bytes of a line leave for home. -/
def State.leaveL1 (s : State) (t l : Nat) : State := if s.homeOpen t (l * 128) none then s.writeBack t l else s

def execL1Writeback (tile line : Nat) (s : State) : Host.Outcome State Fault Refusal := .next (s.leaveL1 tile line)

/-- WRITE_COMBINE_DRAIN (R183). -/
def execWriteCombineDrain (tile : Nat) (s : State) : Host.Outcome State Fault Refusal := .next (s.drainWcb tile)

/-- L2_EVICTION (R104). -/
def execL2Eviction (line : Nat) (s : State) : Host.Outcome State Fault Refusal := .next (s.evictL2 line)

/-- L1_LINE_EVICTION (R110, R126): a clean line of L1 goes; a line of the read-only cache goes or is filled again, a free
choice (log 5). -/
def State.evictL1 (s : State) (t l : Nat) : State :=
  let s := if (s.tile t).line l |>.dirty.isEmpty then s.modTile t (fun x => x.setLine l CacheLine.absent) else s
  let x := (s.tile t).roLine l
  if !x.present then s
  else
    let p := s.draw
    let s := p.2
    if p.1.getLsbD 0 ∧ s.homeOpen t (l * 128) none then
      let s := s.fillL2 (l * 128) (s.yardOf t)
      s.modTile t (fun y => y.setRoLine l
        { present := true, clean := lineBits (s.homeRead 0x10000 (l * 128) 128 x.pg), ver := s.verOf (l * 128), refill := false, dirty := [],
          pg := x.pg })
    else s.modTile t (fun x => x.setRoLine l CacheLine.absent)

def execL1LineEviction (tile line : Nat) (s : State) : Host.Outcome State Fault Refusal := .next (s.evictL1 tile line)

/-! Dead tags (R323). -/

/-- Whether a request bearing a tag is still in flight. -/
def State.tagInFlight (s : State) (tag : Nat) : Bool :=
  s.cores.any (fun p => p.2.vq.any (fun q => q.tag == tag)) ||
  s.tiles.any (fun p => p.2.mq.any (fun q => q.tag == tag) || p.2.mrun.any (fun r => r.q.tag == tag) || p.2.wq.any (fun q => q.tag == tag) ||
    p.2.eng.any (fun e => e.q.tag == tag) || p.2.streams.any (fun m => m.q.tag == tag)) ||
  s.remotes.any (fun r => r.tag == tag && !r.acked)

/-- The bytes that a dead tag has left in a map of dirty bytes are dropped: their write-back would store nothing. -/
def dropDirty (tag : Nat) (m : SMap (Option DirtyByte)) : SMap (Option DirtyByte) :=
  m.filter (fun p => match p.2 with | some d => d.tag != tag | none => true)

/-- Whether a tile holds dirty bytes of a tag. -/
def Tile.holdsDirty (x : Tile) (tag : Nat) : Bool :=
  let mine (m : SMap (Option DirtyByte)) : Bool := m.any (fun p => match p.2 with | some d => d.tag == tag | none => false)
  mine x.wcb || x.l1.any (fun p => mine p.2.dirty)

/-- Drop a dead tag's dirty bytes from a tile; a line that held some is read from home again. -/
def Tile.dropTag (x : Tile) (tag : Nat) : Tile :=
  if !(x.holdsDirty tag) then x
  else { x with wcb := dropDirty tag x.wcb,
                l1 := x.l1.filterMap (fun p =>
                  let d := dropDirty tag p.2.dirty
                  if d = p.2.dirty then some p else if d.isEmpty then none else some (p.1, { p.2 with dirty := d, refill := true })) }

/-- TAG_DRAIN_COMPLETE (R323): the mark is removed everywhere, and the tag is free. -/
def State.tagDrained (s : State) (tag : Nat) : State :=
  if !(s.isDead tag) ∨ s.tagInFlight tag then s
  else
    let s := s.tiles.foldl (fun s p => if p.2.holdsDirty tag then s.modTile p.1 (fun x => x.dropTag tag) else s) s
    { s with dead := s.dead.filter (fun d => d.1 != tag), heldLates := s.heldLates.filter (fun p => p.1 != tag) }

def execTagDrainComplete (tag : Nat) (s : State) : Host.Outcome State Fault Refusal := .next (s.tagDrained tag)

/-! Calendars and routes (R356, R392). -/

/-- The cycle in which the stores to a port of the calendar block take effect: the start of the first period at least 64
cycles after the last of them. -/
def calendarDue (since : Nat) : Nat := (since + 64 + 63) / 64 * 64

/-- CALENDAR_APPLY (R356): the 64 bytes of a port take effect in one piece. -/
def State.applyCalendar (s : State) (p : Nat) : State :=
  match SMap.get (fun _ => 0) s.calSince p with
  | 0 => s
  | c + 1 =>
    if s.cal < calendarDue c then s
    else
      let m := (List.range 64).foldl (fun (m : SMap Byte) i =>
        SMap.set (fun _ => (0 : Byte)) m (p * 64 + i) (s.byte (configPa (p * 64 + i)))) s.calApplied
      { s with calApplied := m, calSince := SMap.set (fun _ => 0) s.calSince p 0 }

def execCalendarApply (port : Nat) (s : State) : Host.Outcome State Fault Refusal := .next (s.applyCalendar port)

/-- The device that a physical address of the Milay domain names (R385). -/
def deviceOf (pa : Nat) : Nat := pa / 2 ^ 46 % 64

/-- The route entry of a device, as stored and as in force (R386, R392). -/
def State.routeStored (s : State) (d : Nat) : Word := s.memWord (configPa (0x130000 + 8 * d)) &&& 0x3FFFF
def State.route (s : State) (d : Nat) : Word := SMap.get (fun _ => 0) s.routes d

/-- ROUTE_ENTRY_APPLY (R392): a changed entry takes effect once every access sent under the old one is acknowledged. -/
def State.applyRoute (s : State) (d : Nat) : State :=
  if s.route d = s.routeStored d ∨ s.remotes.any (fun r => !r.pcie && paSpace r.pa == 0xA && deviceOf r.pa == d && !r.acked) then s
  else { s with routes := SMap.set (fun _ => 0) s.routes d (s.routeStored d) }

def execRouteEntryApply (dev : Nat) (s : State) : Host.Outcome State Fault Refusal := .next (s.applyRoute dev)

/-! PCIe (R102, R387-R391). -/

/-- Add one to a tenant's drop counter, which saturates (R386). -/
def State.countDrop (s : State) (v : Nat) : State :=
  let a := configPa (0x132000 + 8 * v)
  if s.memWord a = BitVec.allOnes 64 then s else s.setMemWord a (s.memWord a + 1)

/-- Whether the admission table lets a requester of the peer port write to a tenant's windows (R391). -/
def State.admitted (s : State) (v : Nat) (req : BitVec 16) : Bool :=
  (List.range 4).any (fun i =>
    let e := s.memWord (configPa (0x110000 + 8 * (4 * v + i)))
    e.getLsbD 63 && e.extractLsb' 0 16 == req)

/-- Whether a posted write goes to landing windows: to BAR2 of a virtual function or of the peer function (R388). -/
def postLands (w : PcieWrite) : Bool :=
  w.bar == 2 && (if w.peer then decide (w.addr < 2 ^ 31) else decide (1 ≤ w.fn) && decide (w.fn ≤ 32) && decide (w.addr < 2 ^ 26))

/-- The tenant, the window and the offset in it that such a write names (R388). -/
def postTenant (w : PcieWrite) : Nat := if w.peer then w.addr / 2 ^ 26 else w.fn - 1
def postWindow (w : PcieWrite) : Nat := w.addr / 2 ^ 20 % 64
def postOffset (w : PcieWrite) : Nat := w.addr % 2 ^ 20

/-- Whether a posted write may be applied now: once, and without relaxed ordering only after every earlier write of its requester on its port
(R390). -/
def State.mayApply (s : State) (w : PcieWrite) : Bool :=
  !(s.posts.contains (w.peer, w.requester, w.seq)) &&
  (w.relaxed || (List.range w.seq).all (fun n => s.posts.contains (w.peer, w.requester, n)))

/-- A posted write is applied, or dropped, for good (R389, R390). -/
def State.notePost (s : State) (w : PcieWrite) : State := { s with posts := s.posts ++ [(w.peer, w.requester, w.seq)] }

/-- The landing window that a posted write names. -/
def State.window (s : State) (w : PcieWrite) : LandWin :=
  SMap.get (fun _ => LandWin.disarmed) s.wins (postTenant w * 64 + postWindow w)

/-- Set the overflow bit of a window's fill word (R102, R389). -/
def State.overflowWindow (s : State) (x : LandWin) : State :=
  s.setFill x.tile (ptrView x.fill) (ptrOff x.fill) (s.fillAt x.tile (ptrView x.fill) (ptrOff x.fill)).setOver

/-- The CP.LAND that armed a window, as the issuer of what goes wrong with an arrival (R100). -/
def LandWin.command (x : LandWin) : QEntry :=
  { seq := x.seq, ord := 0, cid := x.cid, tag := x.tag, pc := 0, inst := .cpLand 0 0, pfx := 0, a := 0, b := 0, qkw := 0, sr := [], vf := [], mf := [],
    since := 0, rel := none, replay := false, binds := [] }

/-- A posted write to a landing window (R102, R389, R391): the bytes land in the window's TM and are counted, or the write is dropped. A malformed fill
word raises its cause at the context that issued the CP.LAND (R100). -/
def State.postedWrite (s : State) (w : PcieWrite) : State :=
  let x := s.window w
  if w.peer ∧ !(s.admitted (postTenant w) w.requester) then s.countDrop (postTenant w)
  else if !x.armed ∨ !(s.yardRuns (postTenant w)) then s.countDrop (postTenant w)
  else if w.poisoned ∨ x.len < postOffset w + w.bytes.length then s.overflowWindow x
  else
    let r := (s.setTmBytes x.tile x.view (x.off + postOffset w) w.bytes).fillArrive x.tile (ptrView x.fill) (ptrOff x.fill) w.bytes.length
    if r.2 then r.1.raiseLate x.command .fillFormat 0 0 0 else r.1

/-- PCIE_UNSUPPORTED_REQUEST (R388): a read of BAR2 or an AtomicOp is answered with Unsupported Request. -/
def execPcieUnsupportedRequest (peer : Bool) (tag : Nat) (s : State) : Host.Outcome State Fault Refusal :=
  .next { s with out := s.out ++ [.unsupported peer tag] }

/-- The bytes of a write that is acknowledged are counted on the fill word of its command (R123, R244, R245). -/
def State.countAcked (s : State) (r : Remote) : State :=
  match r.cmd, r.count with
  | some q, some (t, v, o) => s.countFill q (.at t v o) r.size
  | _, _ => s

/-- A request that has been answered: a write is counted and done with, a read waits for its context to take it. -/
def State.answered (s : State) (r : Remote) : State :=
  if r.isWrite then ({ s with remotes := s.remotes.filter (fun q => q.id != r.id) } : State).countAcked r
  else { s with remotes := s.remotes.map (fun q => if q.id = r.id then { q with acked := true } else q) }

/-- PCIE_COMPLETION (R385): a read delivers what the host or the peer holds, and a write is in place. -/
def State.pcieDone (s : State) (id : Nat) : State :=
  match s.remotes.find? (fun r => r.id == id && r.pcie && !r.acked) with
  | none => s
  | some r =>
    if r.isWrite then (s.setBytes r.pa r.bytes).answered r
    else
      let p := s.drawBytes r.size
      (p.2.setBytes r.pa p.1).answered r

def execPcieCompletion (id : Nat) (s : State) : Host.Outcome State Fault Refusal := .next (s.pcieDone id)

/-- MSIX_POST (R386): the message is sent on the host port. -/
def execMsixPost (w : Word) (s : State) : Host.Outcome State Fault Refusal :=
  .next { s with out := s.out ++ [.msix (w.getLsbD 63) (w.extractLsb' 0 5).toNat (w.extractLsb' 8 3).toNat] }

/-! Milay (R111, R392, R393). -/

/-- The address of a Milay port's link status (R386). -/
def linkPa (port : Nat) : Nat := configPa (0x131000 + port)

/-- MILAY_PORT_DOWN (R393): a port that is not retired is marked down. -/
def State.portDown (s : State) (p : Nat) : State :=
  if 18 ≤ p ∨ s.byte (linkPa p) = 3 then s else s.setByte (linkPa p) 0

def execMilayPortDown (port : Nat) (s : State) : Host.Outcome State Fault Refusal := .next (s.portDown port)

/-- MILAY_PORT_TRAINED (R386): a port that is not retired is up. -/
def State.portUp (s : State) (p : Nat) : State :=
  if 18 ≤ p ∨ s.byte (linkPa p) = 3 then s else s.setByte (linkPa p) 2

def execMilayPortTrained (port : Nat) (s : State) : Host.Outcome State Fault Refusal := .next (s.portUp port)

/-- What agents of another device have written to bytes homed there since they were last read: free values, and a free choice
whether there were any writes and how far the line's version has moved (log 5). -/
def State.elsewhere (s : State) (pa n : Nat) : State :=
  let p := s.draw
  if p.1.getLsbD 0 then
    let v := p.2.draw
    let r := v.2.drawBytes n
    let t := (r.2.setBytes pa r.1).fillL2 pa 0
    t.setL2 (lineOf pa) { t.l2line (lineOf pa) with ver := (t.l2line (lineOf pa)).ver + 1 + (v.1 &&& 0xFFFF) }
  else p.2

/-- The ports that carry the traffic of a device: those of its route entry in force that are up (R386, R392, R393). -/
def State.livePorts (s : State) (d : Nat) : List Nat :=
  (List.range 18).filter (fun p => (s.route d).getLsbD p && s.byte (linkPa p) == 2)

/-- The port of them that carries an address's traffic: a hash of its line chooses it (R392). -/
def State.portFor (s : State) (pa : Nat) : Option Nat :=
  let ps := s.livePorts (deviceOf pa)
  ps[Config.portHash (lineOf pa) % ps.length]?

/-- Whether a request to another device can be answered now: some port carries its traffic, and of the requests to one line, which take one path,
those that were issued before it have been answered (R392). -/
def State.milayOpen (s : State) (r : Remote) : Bool :=
  (s.portFor r.pa).isSome &&
  !(s.remotes.any (fun q => decide (q.id < r.id) && !q.pcie && !q.acked && !q.failed && lineOf q.pa == lineOf r.pa))

/-- The oldest line that PREF has asked for on a tile comes, when it can be filled (R185). -/
def State.fillAhead (s : State) (t : Nat) : State :=
  match (s.tile t).ahead with
  | [] => s
  | (c, pa, pg) :: ps =>
    let gone := s.modTile t (fun x => { x with ahead := ps })
    if ((s.tile t).line (lineOf pa)).present || !(s.ctx c).live then gone else if s.fillable t pa then gone.fillL1 c t pa pg else s

/-- MILAY_ACKNOWLEDGEMENT (R111, R130): the home of another device has applied a write or delivered a read. -/
def State.milayDone (s : State) (id : Nat) : State :=
  match s.remotes.find? (fun r => r.id == id && !r.pcie && !r.acked && !r.failed && s.milayOpen r) with
  | none => s
  | some r =>
    if r.isWrite then s.answered r
    else
      let s := s.elsewhere r.pa r.size
      match r.fill with
      | none => s.answered r
      | some pg =>
        let s : State := { s with remotes := s.remotes.filter (fun q => q.id != r.id) }
        if s.fillable (cidTile r.cid) r.pa then s.fillL1 r.cid (cidTile r.cid) r.pa pg
        else s.modTile (cidTile r.cid) (fun x => { x with ahead := x.ahead ++ [(r.cid, r.pa, pg)] })

def execMilayAcknowledgement (id : Nat) (s : State) : Host.Outcome State Fault Refusal := .next (s.milayDone id)

/-- Whether every port of the route entry in force for a device is down (R393). -/
def State.routeDead (s : State) (d : Nat) : Bool := (s.livePorts d).isEmpty

/-- The live control context that has a tag. -/
def State.ctxOfTag (s : State) (tag : Nat) : Option Nat :=
  (s.ctxs.find? (fun p => p.2.live && cidSlot p.1 == 0 && s.tagOf p.1 == tag)).map (fun (p : Nat × Ctx) => p.1)

/-- The uncorrectable memory error of a write that was given up (R310, R393): late for an engine's, and otherwise precise at the store of the
context that made it, wherever it runs now. For a saved context it is held, to be reported after the restore (log 55). -/
def State.writeError (s : State) (r : Remote) : State :=
  match r.cmd with
  | some q => s.raiseLate q .memError 0 0 r.tv
  | none =>
    match s.ctxOfTag r.tag with
    | some c => ((s.closeWindows c (fun _ => true)).unwait c).deliver c How.now .memError r.pc r.tv
    | none =>
      if s.saved.any (fun p => p.1 == r.tag) then
        { s with heldLates := s.heldLates ++
            [(r.tag, ({ seq := 0, ord := s.pushes, cause := .memError, member := 0, elem := 0, tval := r.tv } : Late))] }
      else s

/-- Whether the windows of the context that made an access can close, so that its precise cause can be taken (R306). -/
def State.canRaise (s : State) (r : Remote) : Bool :=
  r.isLate || !r.isWrite || (match s.ctxOfTag r.tag with | some c => s.windowsReady c | none => true)

/-- Whether an access is given up: it has had no acknowledgement for 1 ms, and no port can carry it (R393), or it is a write to a retired
pseudo-channel (R382). -/
def State.expired (s : State) (r : Remote) : Bool :=
  !r.pcie && !r.acked && (r.failed || (decide (r.sent + 1000000 ≤ s.cal) && s.routeDead (deviceOf r.pa)))

/-- The entries of a companion word whose bit could not be set at its home are not used: they go, and their accesses miss again (R335, R393). -/
def State.dropCompanion (s : State) (w : Nat) : State :=
  (List.range 64).foldl (fun s h => s.dropTlb h (fun e => e.companion == w)) s

/-- MILAY_ACCESS_TIMEOUT (R393): an access that no port can carry is given up. A read's cause is raised where its bytes are awaited, and a line of
PREF does not come. -/
def State.milayTimeout (s : State) (id : Nat) : State :=
  match s.remotes.find? (fun r => r.id == id && s.expired r) with
  | none => s
  | some r =>
    let gone : State := { s with remotes := s.remotes.filter (fun q => q.id != id) }
    if !(s.canRaise r) then s
    else if r.isCompanion then gone.dropCompanion r.pa
    else if r.isWrite then gone.writeError r
    else if r.fill.isSome then gone
    else { s with remotes := s.remotes.map (fun q => if q.id = id then { q with acked := true, failed := true } else q) }

def execMilayAccessTimeout (id : Nat) (s : State) : Host.Outcome State Fault Refusal := .next (s.milayTimeout id)

end Sys2Proof.Machine
end

