-- ==== Sys2Proof/Machine/Tenants.lean ====
section
/-! DEFINITION. Tenant records and what their commands do to a yard: create, start, save, resume, teardown, migration, step
checkpoints and roll back (R363-R381). -/

namespace Sys2Proof.Machine

/-! The record (R363, R364). -/

/-- A doubleword of a record. -/
def State.recField (s : State) (v off : Nat) : Word := s.memWord (recordPa v + off)

/-- Set a record's state and status. -/
def State.setRecord (s : State) (v st status : Nat) : State :=
  s.setMemWord (recordPa v) (BitVec.ofNat 64 (st * 2 ^ 60 + status * 2 ^ 48))

/-- Set a record's status only. -/
def State.setStatus (s : State) (v status : Nat) : State := s.setRecord v (s.recState v) status

/-- A command has ended with a state and a status. -/
def State.endCommand (s : State) (v st status : Nat) : State :=
  (s.setRecord v st status).modTenant v (fun t => { t with cmd := 0, todo := [] })

/-- The shape of a command (R365): go carries on the one in progress, another one in progress makes it busy, a state that does
not accept it is wrong, and otherwise it starts. -/
def State.command (s : State) (v code : Nat) (states : List Nat) (start go : State → State) : State :=
  if (s.tenant v).cmd = code then go s
  else if (s.tenant v).cmd ≠ 0 then s.setStatus v 1
  else if !(states.contains (s.recState v)) then s.setStatus v 2
  else start s

/-- The tiles of a yard that are not retired, in tile-id order. -/
def State.yardTiles (s : State) (v : Nat) : List Nat :=
  (rectTiles (s.recField v 8)).filter (fun t => !(s.tile t).retired)

/-- The tiles of a yard that are not retired, with their places in the rectangle (R374). -/
def State.blocks (s : State) (v : Nat) : List (Nat × Nat) := (rectTiles (s.recField v 8)).zipIdx.filter (fun p => !(s.tile p.1).retired)

/-- The offset of the dispatcher's state in a yard's image, after the tile blocks (R374; log 5). -/
def State.dispatcherOff (s : State) (v : Nat) : Nat := 0x200000 * ((rectTiles (s.recField v 8)).length + 1)

/-- The length of a yard's image: the dispatcher's state takes the last bytes (log 5). -/
def State.imageLen (s : State) (v : Nat) : Nat := s.dispatcherOff v + 0x2000

/-- The hive that serves a yard: that of its first tile that is not retired (R342, R382). -/
def State.yardHive (s : State) (v : Nat) : Nat := hiveOf ((s.yardTiles v).headD (s.northWest v))

/-- The other records that are not free. -/
def State.otherRecords (s : State) (v : Nat) : List Nat := (List.range 32).filter (fun u => u != v && s.recState u != 0)

/-! Create (R366, R367). -/

/-- The tiles of the device that are not retired. -/
def State.liveTiles (s : State) : Nat := ((List.range 1024).filter (fun t => !(s.tile t).retired)).length

/-- The guaranteed tile count of a record. -/
def State.minimum (s : State) (v : Nat) : Nat := (s.recField v 0x10).toNat % 2048

/-- The quota of a record in a hive. -/
def State.quota (s : State) (v h : Nat) : Nat := (s.byte (recordPa v + 0x80 + h)).toNat

/-- The first check of R366 that a record fails; none: it passes them all. -/
def State.createFails (s : State) (v : Nat) : Option Nat :=
  let us := s.otherRecords v
  let r := (s.recField v 8).toNat
  let mine := rectTiles (s.recField v 8)
  if r / 2 ^ 16 % 32 < r % 32 ∨ r / 2 ^ 24 % 32 < r / 256 % 32 ∨
      us.any (fun u => (rectTiles (s.recField u 8)).any (fun t => mine.contains t)) then some 3
  else if (List.range 64).any (fun h => decide (16 < s.quota v h) ||
      decide (16 < us.foldl (fun n u => n + s.quota u h) (s.quota v h))) then some 4
  else if (s.yardTiles v).length < s.minimum v ∨ s.liveTiles < us.foldl (fun n u => n + s.minimum u) (s.minimum v) then some 5
  else if us.any (fun u => (s.recField u 0x28 &&& s.recField v 0x28) != 0 || (s.recField u 0x30 &&& s.recField v 0x30) != 0 ||
      ((s.recField u 0x38).getLsbD 0 && (s.recField v 0x38).getLsbD 0)) then some 6
  else if us.any (fun u => s.recField u 0x18 &&& 0xFF == s.recField v 0x18 &&& 0xFF) then some 7
  else none

/-- Whether calendar bytes that give a yard its slots are still to be applied. -/
def State.calendarWaits (s : State) (v : Nat) : Bool :=
  s.calSince.any (fun p => p.2 != 0 && (List.range 64).any (fun i => (s.byte (configPa (p.1 * 64 + i))).toNat == v))

/-- A new key for an index: lines written under the old one no longer read under it (R367). -/
def State.newKey (s : State) (i : Nat) : State :=
  { s with keyGens := SMap.set (fun _ => 0) s.keyGens i s.keyNext, keyNext := s.keyNext + 1 }

/-- Form a yard: all of it in comb 0, held by job 0 with floor 1 and hold 0; a bulk-synchronous comb is held all the same (R32).
The descriptor in memory is not written then, nor at a CHOLD, a CFLOOR or a shortfall: R47 writes it at step 6 (DESIGN CHOICE; log 69). -/
def State.formYard (s : State) (v : Nat) : State :=
  let b := s.newComb v 0
  let b : Comb := { b with tiles := s.yardTiles v, gen := 1, floor := 1, floorWas := 1, hold := b.bsp, holdWas := b.bsp }
  ({ s with combs := s.combs ++ [b] } : State).newKey ((s.recField v 0x18).toNat % 256)

/-- The wait of a create for its calendar bytes, and its end. -/
def State.goCreate (s : State) (v : Nat) : State :=
  if s.calendarWaits v then s else (s.formYard v).endCommand v 1 0

/-- TENANT_CREATE (R366). -/
def State.tenantCreate (s : State) (v : Nat) : State :=
  s.command v 1 [0] (fun s => match s.createFails v with
    | some n => s.setStatus v n
    | none => (s.modTenant v (fun t => { t with cmd := 1 })).goCreate v) (fun s => s.goCreate v)

def execTenantCreate (v : Nat) (s : State) : Host.Outcome State Fault Refusal := .next (s.tenantCreate v)

/-- TENANT_START (R365). -/
def State.tenantStart (s : State) (v : Nat) : State := s.command v 2 [1] (fun s => s.endCommand v 2 0) (fun s => s)

def execTenantStart (v : Nat) (s : State) : Host.Outcome State Fault Refusal := .next (s.tenantStart v)

/-- TENANT_RESERVED_COMMAND (R364). -/
def execTenantReservedCommand (v code : Nat) (s : State) : Host.Outcome State Fault Refusal :=
  .next (if 10 ≤ code then s.setStatus v 12 else s)

/-! Spans of memory. -/

/-- Put cells into sparse bytes. -/
def putCells (m : List Host.Cell) (cs : List (Nat × Byte)) : List Host.Cell := cs.foldl (fun m p => SMap.set emptyByte m p.1 p.2) m

/-- Write a whole span of this device's memory at home: the listed bytes, and zeros between them. Every line's version advances
(R103): that of a line in L2 by 1, that of the others through the floor of their granule (R104). -/
def State.storeSpan (s : State) (pa len : Nat) (cs : List (Nat × Byte)) : State :=
  let out (a : Nat) : Bool := decide (a < pa) || decide (pa + len ≤ a)
  let floors := (List.range (len / 65536 + 1)).foldl (fun (m : SMap Word) i =>
    SMap.set (fun _ => 0) m (pa / 65536 + i) (SMap.get (fun _ => 0) m (pa / 65536 + i) + 1)) s.floors
  { s with mem := putCells (s.mem.filter (fun p => out p.1)) cs, sums := s.sums.filter (fun p => out (p.1 * 4)), floors := floors,
           l2 := s.l2.map (fun p => if p.2.present && !(out (p.1 * 128)) then (p.1, { p.2 with ver := p.2.ver + 1 }) else p) }

/-- The listed bytes of a span. -/
def State.spanCells (s : State) (pa len : Nat) : List Host.Cell := s.mem.filter (fun p => decide (pa ≤ p.1) && decide (p.1 < pa + len))

/-! Save (R373, R374). -/

/-- The image area of a record. -/
def State.imageBase (s : State) (v : Nat) : Nat := (s.recField v 0x40).toNat

/-- The sparse entries of a yard's tiles; f tells an entry's tile. -/
def ofTiles {α : Type} (ts : List Nat) (f : Nat → Nat) (m : SMap α) : SMap α := m.filter (fun p => ts.contains (f p.1))

/-- The bytes of a tile in its tile block at an address: tile memory, accumulators and Glalin slots. -/
def State.blockCells (s : State) (t blk : Nat) : List (Nat × Byte) :=
  (s.tm.filter (fun p => p.1 / 2 ^ 20 == t)).map (fun (p : Host.Cell) => (blk + p.1 % 2 ^ 20, p.2)) ++
  (s.acc.filter (fun p => p.1 / 2 ^ 15 == t)).flatMap (fun (p : Nat × BitVec 32) =>
    (leBytes 4 p.2.toNat).zipIdx.map (fun q => (blk + 0x100000 + 4 * (p.1 % 2 ^ 15) + q.2, q.1))) ++
  (s.tile t).gl.flatMap (fun p => p.2.image.zipIdx.map (fun q => (blk + 0x120000 + 0x1800 * p.1 + q.2, q.1)))

/-- Write a tile block: what no layout is given for, the tile's registers, its handlers, qk and stopped commands, takes free values (log 5). -/
def State.writeTileBlock (s : State) (t blk : Nat) : State :=
  let r := s.drawBytes 0x2000
  r.2.storeSpan blk 0x128000 (r.2.blockCells t blk ++ r.1.zipIdx.map (fun q => (blk + 0x126000 + q.2, q.1)))

/-- Write the dispatcher's state at its offset: the spec gives no layout, so that its bytes are free values (log 5). -/
def State.writeDispatcher (s : State) (pa : Nat) : State :=
  let r := s.drawBytes 0x2000
  r.2.storeSpan pa 0x2000 (r.1.zipIdx.map (fun q => (pa + q.2, q.1)))

/-- The image of a yard (R374). -/
def State.yardImage (s : State) (v : Nat) : YardImage :=
  let ts := s.yardTiles v
  { yard := v, base := s.imageBase v, todo := (s.tenant v).todo,
    retired := (rectTiles (s.recField v 8)).filter (fun t => (s.tile t).retired),
    ctxs := ofTiles ts cidTile s.ctxs, cores := ofTiles ts coreTile s.cores, tiles := ofTiles ts (fun t => t) s.tiles,
    combs := s.combs.filter (fun b => b.yard == v), launches := s.launches.filter (fun l => l.yard == v),
    graphs := s.graphs.filter (fun g => g.yard == v), phases := s.phases.filter (fun p => p.yard == v),
    rounds := s.rounds.filter (fun r => r.yard == v) }

/-- The header's first doubleword. -/
def imageMagic (v : Nat) : Word := BitVec.ofNat 64 (0x5947 + 2 ^ 16 + v % 32 * 2 ^ 24)

/-- Steps 5 and 6 of a save: the L1s are written back and invalidated, the image is written, and the resident handlers stop. -/
def State.writeImage (s : State) (v : Nat) : State :=
  let ts := s.yardTiles v
  let s := ts.foldl (fun s t => (s.releaseTile t).dropL1 t) s
  let im := s.yardImage v
  let s := (s.blocks v).foldl (fun s p => s.writeTileBlock p.1 (im.base + 0x200000 * (p.2 + 1))) s
  let s := ((s.writeDispatcher (im.base + s.dispatcherOff v)).setBytes im.base (leBytes 8 (imageMagic v).toNat ++
    leBytes 8 (s.recField v 8).toNat)).setBytes (im.base + 24) (leBytes 8 (s.dispatcherOff v))
  let s : State := { s with images := s.images.filter (fun i => !(i.yard == v && i.base == im.base)) ++ [im] }
  (ts.flatMap (fun t => (List.range 4).map (fun n => t * 4 + n))).foldl (fun s k =>
    if (s.core k).handler then (s.setCtx (coreCid k 11) Ctx.reset).modCore k (fun x => { x with handler := false }) else s) s

/-- Whether a yard's contexts are all saved and its engines have come to rest (R373 steps 1 to 4). -/
def State.yardAtRest (s : State) (v : Nat) : Bool :=
  (s.yardTiles v).all (fun t => !(s.hasContexts t) && s.tileDrained t && !((s.tile t).move.any (fun m => decide (3 ≤ m.step))))

/-- Ask for the save of every control context of a yard with reason 6; a slice or budget request that stands is kept for after the resume,
and a yield is taken as it is. -/
def State.askYard (s : State) (v : Nat) : State :=
  ((s.yardTiles v).flatMap controlCids).foldl (fun s c =>
    if (s.ctx c).live && decide ((s.ctx c).saveReq < 3) then s.modCtx c (fun x => { x with saveReq := 6, saveNext := x.saveReq }) else s) s

/-- Disarm every landing window of a tenant (R389). -/
def State.disarm (s : State) (v : Nat) : State := { s with wins := s.wins.filter (fun p => p.1 / 64 != v) }

/-- A save begins. -/
def State.beginYardSave (s : State) (v code : Nat) : State :=
  (((s.setRecord v 3 0).modTenant v (fun t => { t with cmd := code, todo := [] })).disarm v).askYard v

/-- A save goes on: it ends, in the image, once the yard is at rest. -/
def State.goSave (s : State) (v : Nat) : State :=
  if s.yardAtRest v then (s.writeImage v).endCommand v 4 0 else s.askYard v

/-- TENANT_SAVE (R373). -/
def State.tenantSave (s : State) (v : Nat) : State :=
  s.command v 3 [2] (fun s => (s.beginYardSave v 3).goSave v) (fun s => s.goSave v)

def execTenantSave (v : Nat) (s : State) : Host.Outcome State Fault Refusal := .next (s.tenantSave v)

/-! Resume (R375). -/

/-- The image that lies at a record's image area; none: the bytes there come from elsewhere. -/
def State.imageAt (s : State) (v : Nat) : Option YardImage := s.images.find? (fun i => i.yard == v && i.base == s.imageBase v)

/-- Why a resume is refused; none: it is not. -/
def State.resumeFails (s : State) (v : Nat) : Option Nat :=
  let base := s.imageBase v
  let then_ := match s.imageAt v with | some i => i.retired | none => []
  if (rectTiles (s.recField v 8)).any (fun t => (s.tile t).retired && !(then_.contains t)) then some 8
  else if s.memWord base ≠ imageMagic v ∨ s.memWord (base + 8) ≠ s.recField v 8 then some 9
  else none

/-- Load a tile from its block. -/
def State.loadBlock (s : State) (t blk : Nat) : State :=
  let tm := putCells (s.tm.filter (fun p => p.1 / 2 ^ 20 != t))
    ((s.spanCells blk 0x100000).map (fun (p : Host.Cell) => (t * 2 ^ 20 + (p.1 - blk), p.2)))
  let words := ((s.spanCells (blk + 0x100000) 0x20000).map (fun (p : Host.Cell) => (p.1 - blk - 0x100000) / 4)).eraseDups
  let acc := words.foldl (fun (m : SMap (BitVec 32)) i =>
    SMap.set (fun _ => 0) m (t * 2 ^ 15 + i) (BitVec.ofNat 32 (leNat (s.bytes (blk + 0x100000 + 4 * i) 4)))) (s.acc.filter (fun p => p.1 / 2 ^ 15 != t))
  let s : State := { s with tm := tm, acc := acc }
  s.modTile t (fun x => { x with gl := x.gl.map (fun p =>
    (p.1, { p.2 with image := s.bytes (blk + 0x120000 + 0x1800 * p.1) p.2.image.length })) })

/-- Replace the sparse entries of some tiles. -/
def mergeTiles {α : Type} [DecidableEq α] (d : Nat → α) (ts : List Nat) (f : Nat → Nat) (m new : SMap α) : SMap α :=
  new.foldl (fun m p => SMap.set d m p.1 p.2) (m.filter (fun p => !(ts.contains (f p.1))))

/-- A tile of an image on the tile that it is loaded into, which keeps its own clock; its share of the load period begins anew (R39). -/
def Tile.onto (x hw : Tile) (now : Nat) : Tile :=
  { x with pinned := hw.pinned, pinDue := hw.pinDue, leaving := hw.leaving, clkTotal := hw.clkTotal, clkPinned := hw.clkPinned,
           clkFrom := hw.clkFrom, clkStretched := hw.clkStretched, busy := 0, loadFrom := now }

/-- Put the registers of an image into a yard's tiles, cores and dispatcher. -/
def State.loadImage (s : State) (v : Nat) (i : YardImage) : State :=
  let ts := s.yardTiles v
  let i := { i with cores := i.cores.map (fun (p : Nat × Core) => (p.1, { p.2 with clk := (s.core p.1).clk })),
                    tiles := i.tiles.map (fun (p : Nat × Tile) => (p.1, p.2.onto (s.tile p.1) (s.tileCycles p.1))) }
  { s with ctxs := mergeTiles (fun _ => Ctx.reset) ts cidTile s.ctxs i.ctxs,
           cores := mergeTiles (fun _ => Core.reset) ts coreTile s.cores i.cores,
           tiles := mergeTiles (fun _ => Tile.reset) ts (fun t => t) s.tiles i.tiles,
           combs := s.combs.filter (fun b => b.yard != v) ++ i.combs, launches := s.launches.filter (fun l => l.yard != v) ++ i.launches,
           graphs := s.graphs.filter (fun g => g.yard != v) ++ i.graphs, phases := s.phases.filter (fun p => p.yard != v) ++ i.phases,
           rounds := s.rounds.filter (fun r => r.yard != v) ++ i.rounds }

/-- Restart the contexts that are still to come; one that a translation holds up stays, and one whose frame has been overwritten
is not restarted. -/
def State.restart (s : State) (v : Nat) : State :=
  (s.tenant v).todo.foldl (fun s (p : Nat × Word) =>
    let bs := s.tmBytes (cidTile p.1) (ptrView p.2) (ptrOff p.2) 4096
    let off (s : State) : State := s.modTenant v (fun x => { x with todo := x.todo.filter (fun q => q.1 != p.1) })
    if !(frameOk bs) then off s
    else match s.restore (cidCore p.1) bs with
      | (some t, _) => off t
      | (none, t) => t) s

/-- A resume goes on: it ends when every context has restarted. -/
def State.goResume (s : State) (v : Nat) : State :=
  let s := s.restart v
  if (s.tenant v).todo.isEmpty then s.endCommand v 2 0 else s

/-- The control contexts, with their frames, that an image written by another device restarts: free values, since the spec gives no layout of the
dispatcher's state (log 5). -/
def State.arrivedTodo (s : State) (v : Nat) : List (Nat × Word) × State :=
  let p := s.draw
  let cs := (s.yardTiles v).flatMap controlCids
  ((Config.arrivedFrames p.1.toNat).filter (fun x => cs.contains x.1), p.2)

/-- A resume begins: every tile block is loaded, and the dispatcher's state. -/
def State.beginResume (s : State) (v code : Nat) : State :=
  let i := s.imageAt v
  let r := match i with | some i => (i.todo, s.loadImage v i) | none => s.arrivedTodo v
  let s := r.2
  let s := (s.blocks v).foldl (fun s p => s.loadBlock p.1 (s.imageBase v + 0x200000 * (p.2 + 1))) s
  (s.setRecord v 5 0).modTenant v (fun t => { t with cmd := code, todo := r.1 })

/-- TENANT_RESUME (R375). -/
def State.tenantResume (s : State) (v : Nat) : State :=
  s.command v 4 [4] (fun s => match s.resumeFails v with
    | some n => s.setStatus v n
    | none => (s.beginResume v 4).goResume v) (fun s => s.goResume v)

def execTenantResume (v : Nat) (s : State) : Host.Outcome State Fault Refusal := .next (s.tenantResume v)

/-! Teardown (R376). -/

/-- Queue an event on both management ports: a port holds 64, and one more is lost there (R395). Port A's message tells of one that it has
queued (R388). -/
def State.queueEvent (s : State) (bs : List Byte) : State :=
  let m := s.mgmt
  let m' : Mgmt :=
    { m with evA := if m.evA.length < 64 then m.evA ++ [bs] else m.evA, lostA := m.lostA || decide (64 ≤ m.evA.length),
             evB := if m.evB.length < 64 then m.evB ++ [bs] else m.evB, lostB := m.lostB || decide (64 ≤ m.evB.length) }
  { s with out := if m.evA.length < 64 then s.out ++ [.msix true 0 1] else s.out, mgmt := m' }

/-- The 64 bytes of an event with a first doubleword. -/
def eventBytes (w : Nat) : List Byte := leBytes 8 w ++ List.replicate 56 0

/-- The keys of a record: its own, and its valid shared ones (R363). -/
def State.recordKeys (s : State) (v : Nat) : List Nat :=
  let r := (s.recField v 0x18).toNat
  s.keyId (r % 256) :: ((List.range 4).filter (fun i => r.testBit (40 + i))).map (fun i => s.keyId (r / 256 ^ (i + 1) % 256))

/-- Steps 3 to 7: the L1s are invalidated, the tiles cleared, the exact sums of the tenant's keys written back, the own key
destroyed, and the record is free. -/
def State.endTeardown (s : State) (v : Nat) : State :=
  let keys := s.recordKeys v
  let s := (s.yardTiles v).foldl (fun s t => ((s.dropL1 t).clearTile t).modTile t (fun x =>
    { x with move := none, cede := none, lastMove := 0, load := 0, press := 0, busy := 0 })) s
  let lines := (((s.sums.filter (fun p => p.2.live)).map (fun (p : Nat × SumEnt) => p.1 / 32)).eraseDups).filter (fun l =>
    keys.contains (s.lineKey (l * 128)))
  let s := lines.foldl (fun s l => (s.flushSums (l * 128) v).1) s
  let s : State := { s with combs := s.combs.filter (fun b => b.yard != v), launches := s.launches.filter (fun l => l.yard != v),
                            graphs := s.graphs.filter (fun g => g.yard != v), phases := s.phases.filter (fun p => p.yard != v),
                            rounds := s.rounds.filter (fun r => r.yard != v), images := s.images.filter (fun i => i.yard != v),
                            served := s.served.filter (fun p => p.1 / 4 != v) }
  let flr := (s.tenant v).flr
  let s := (((s.newKey ((s.recField v 0x18).toNat % 256)).disarm v).endCommand v 0 0).modTenant v (fun t => { t with flr := false })
  if flr then s.queueEvent (eventBytes (5 + v % 32 * 256)) else s

/-- A teardown goes on once none of the yard's tags is draining. -/
def State.goTeardown (s : State) (v : Nat) : State := if s.dead.any (fun d => d.2 == v) then s else s.endTeardown v

/-- Step 1: every context of the yard is killed, the saved ones too, and its jobs' requests are dropped. -/
def State.beginTeardown (s : State) (v : Nat) : State :=
  let s := ((s.yardTiles v).flatMap tileCids).foldl (fun s c => if (s.ctx c).live then s.killCtx c else s) s
  let s := ((s.saved.filter (fun p => p.2.1 == v)).map (fun (p : Nat × Nat × Nat) => p.1)).foldl (fun s tag => s.killSaved v tag) s
  let s : State := { s with agenda := s.agenda.filter (fun i => match i with | .jobGo y _ => y != v | .jobEnd y _ => y != v | _ => true) }
  (s.setRecord v 6 0).modTenant v (fun t => { t with cmd := 5, todo := [] })

/-- TENANT_TEARDOWN (R376). -/
def State.tenantTeardown (s : State) (v : Nat) : State :=
  s.command v 5 [1, 4] (fun s => (s.beginTeardown v).goTeardown v) (fun s => s.goTeardown v)

def execTenantTeardown (v : Nat) (s : State) : Host.Outcome State Fault Refusal := .next (s.tenantTeardown v)

/-! Migration (R377, R378). -/

/-- The device that a record names as its destination or buddy. -/
def State.buddy (s : State) (v : Nat) : Nat := (s.recField v 0x38).toNat / 256 % 64

/-- A list of bytes cut or filled with zeros to 64. -/
def fit64 (bs : List Byte) : List Byte := (bs ++ List.replicate 64 0).take 64

/-- The spans of memory that a migration or a checkpoint copies: the pages of the page list, then the image. -/
def State.pageSpans (s : State) (v : Nat) : List (Nat × Nat) :=
  let base := s.imageBase v
  let n := Nat.min (s.memWord (base + 16)).toNat 131068
  (List.range n).map (fun i =>
    let z := (s.memWord (base + 0x48 + 16 * i)).toNat % 4
    ((s.memWord (base + 0x40 + 16 * i)).toNat / 65536 * 65536, if z = 0 then 2 ^ 16 else if z = 1 then 2 ^ 21 else 2 ^ 30)) ++
  [(base, s.imageLen v)]

/-- The listed bytes of some spans. -/
def State.spansCells (s : State) (sp : List (Nat × Nat)) : List Host.Cell := sp.flatMap (fun (p : Nat × Nat) => s.spanCells p.1 p.2)

/-- Replace spans of memory by what a list of cells holds of them. -/
def State.storeSpans (s : State) (sp : List (Nat × Nat)) (cells : List Host.Cell) : State :=
  sp.foldl (fun s (p : Nat × Nat) => s.storeSpan p.1 p.2 (cells.filter (fun q => decide (p.1 ≤ q.1) && decide (q.1 < p.1 + p.2)))) s

/-- Send spans of memory to another device. -/
def State.sendPages (s : State) (dev : Nat) (sp : List (Nat × Nat)) : State := { s with out := s.out ++ [.pages dev sp (s.spansCells sp)] }

/-- TENANT_MIGRATE_OUT (R377): the ticket is written, and the pages and the image go to the device that the record names. -/
def State.migrateOut (s : State) (v : Nat) : State :=
  s.command v 6 [4] (fun s =>
    if !((s.recField v 0x38).getLsbD 0) then s.setStatus v 13
    else
      let k := fit64 (Config.ticket v (s.buddy v) s.free)
      let s : State := { s with free := s.free + 1 }
      let s := ((s.setBytes (recordPa v + 0xC0) k).setRecord v 7 0).disarm v
      let s := s.modTenant v (fun t => { t with cmd := 6, sent := s.spansCells (s.pageSpans v) })
      ({ s with out := s.out ++ [.milay (s.buddy v) k] } : State).sendPages (s.buddy v) (s.pageSpans v)) (fun s => s)

def execTenantMigrateOut (v : Nat) (s : State) : Host.Outcome State Fault Refusal := .next (s.migrateOut v)

/-- The 64 KiB granules in which listed bytes differ. -/
def changedGranules (old new : List Host.Cell) : List (Nat × Nat) :=
  (((old.filter (fun p => !(new.contains p)) ++ new.filter (fun p => !(old.contains p))).map (fun (p : Host.Cell) => p.1 / 65536)).eraseDups).map
    (fun g => (g * 65536, 65536))

/-- The final pass: the granules that have been written since they were sent go again (R377). -/
def State.finalPass (s : State) (v : Nat) : State :=
  s.sendPages (s.buddy v) (changedGranules (s.tenant v).sent (s.spansCells (s.pageSpans v)))

/-- MIGRATION_DONE (R377): after the final pass the destination's record is saved, and this one is torn down; or the migration failed, and this one
stays saved. -/
def State.migrationEnds (s : State) (v : Nat) (ok : Bool) : State :=
  if (s.tenant v).cmd ≠ 6 then s
  else if ok then ((s.finalPass v).beginTeardown v).goTeardown v
  else s.endCommand v 4 10

def execMigrationDone (v : Nat) (ok : Bool) (s : State) : Host.Outcome State Fault Refusal := .next (s.migrationEnds v ok)

/-- The lines of some spans are encrypted under a key (R367, R377). -/
def State.keySpans (s : State) (sp : List (Nat × Nat)) (k : Nat) : State :=
  let ls := sp.flatMap (fun (p : Nat × Nat) => (List.range (p.2 / 128)).map (fun i => p.1 / 128 + i))
  { s with lineKeys := ls.foldl (fun m l => SMap.set (fun _ => 0) m l k) s.lineKeys }

/-- Whether a ticket is accepted: it has not been before, it is one written for this record, and at most 60 s have passed since then (R378). -/
def State.ticketFits (s : State) (v : Nat) (k : List Byte) : Bool :=
  !(s.tickets.contains k) && Config.ticketOk v k && decide (s.cal ≤ Config.ticketMade k + 60000000000)

/-- TENANT_MIGRATE_IN (R378): the record takes a yard whose ticket is accepted, once. What arrives in its pages and its image comes from
another device: free values (log 5), encrypted under the yard's own key. -/
def State.migrateIn (s : State) (v : Nat) : State :=
  s.command v 7 [0] (fun s =>
    let k := s.bytes (recordPa v + 0xC0) 64
    if !((s.recField v 0x38).getLsbD 0) then s.setStatus v 13
    else if !(s.ticketFits v k) then s.setStatus v 10
    else
      let p := s.draw
      let s : State := { p.2 with
        tickets := s.tickets ++ [k]
        images := s.images.filter (fun i => !(i.yard == v && i.base == s.imageBase v)) }
      let s := (s.storeSpans (s.pageSpans v) (Config.arrivedCells p.1.toNat)).formYard v
      (s.keySpans (s.pageSpans v) (s.keyId ((s.recField v 0x18).toNat % 256))).endCommand v 4 0) (fun s => s)

def execTenantMigrateIn (v : Nat) (s : State) : Host.Outcome State Fault Refusal := .next (s.migrateIn v)

/-! Step checkpoints (R379-R381). -/

/-- Whether a page with a digest is already present among the pages that the store holds or is being given. -/
def hasDigest (d : List Byte) (ps : List (Nat × List Byte × Bool)) : Bool := ps.any (fun p => p.2.1 == d)

/-- The 64 KiB pages of some cells that are not all zeros, each with its digest; one whose digest is present already is recorded by reference
(R379). -/
def pageRecords (held : List (Nat × List Byte × Bool)) (cells : List Host.Cell) : List (Nat × List Byte × Bool) :=
  ((cells.map (fun (p : Host.Cell) => p.1 / 65536)).eraseDups).foldl (fun acc g =>
    let d := Config.pageDigest ((cells.filter (fun p => p.1 / 65536 == g)).map (fun (p : Host.Cell) => (p.1 % 65536, p.2)))
    acc ++ [(g * 65536, d, hasDigest d (held ++ acc))]) []

/-- What a store keeps of a yard while its next step is written: the newest complete step, and no older one (R380). -/
def State.keptSteps (s : State) (v : Nat) : List StepCopy :=
  s.steps.filter (fun c => c.yard != v || (c.complete && !(s.steps.any (fun d => d.yard == v && d.complete && decide (c.step < d.step)))))

/-- The store takes the next step in the place of the older of its two; its copy for the buddy is sent. -/
def State.storeStep (s : State) (v : Nat) : State :=
  let sp := s.pageSpans v
  match s.imageAt v with
  | none => s
  | some i =>
    let cells := s.spansCells sp
    { s.sendPages (s.buddy v) sp with steps := s.keptSteps v ++
               [({ yard := v, step := (s.recField v 0x58).toNat + 1, complete := false, image := i, spans := sp, cells := cells,
                   pages := pageRecords (s.steps.flatMap (fun c => c.pages)) cells } : StepCopy)] }

/-- A checkpoint goes on: the save, the copies, and then the resume. -/
def State.goCheckpoint (s : State) (v : Nat) : State :=
  if s.recState v = 3 then
    if s.yardAtRest v then (((s.writeImage v).storeStep v).beginResume v 8).goResume v else s.askYard v
  else s.goResume v

/-- TENANT_CHECKPOINT (R379). -/
def State.checkpoint (s : State) (v : Nat) : State :=
  s.command v 8 [2] (fun s => (s.beginYardSave v 8).goCheckpoint v) (fun s => s.goCheckpoint v)

def execTenantCheckpoint (v : Nat) (s : State) : Host.Outcome State Fault Refusal := .next (s.checkpoint v)

/-- CHECKPOINT_STEP_COMPLETE (R379, R380): the buddy's copy is written too, and the two newest complete steps are kept. -/
def State.stepComplete (s : State) (v : Nat) : State :=
  match s.steps.find? (fun c => c.yard == v && !c.complete) with
  | none => s
  | some c =>
    let keep (d : StepCopy) : Bool := d.yard != v || decide (c.step ≤ d.step + 1)
    let done_ (d : StepCopy) : StepCopy := if d.yard == v && d.step == c.step then { d with complete := true } else d
    ({ s with steps := (s.steps.filter keep).map done_ } : State).setMemWord (recordPa v + 0x58) (BitVec.ofNat 64 c.step)

def execCheckpointStepComplete (v : Nat) (s : State) : Host.Outcome State Fault Refusal := .next (s.stepComplete v)

/-- A yard's contexts are dropped, to be replaced by those of a step; their tags stay theirs. -/
def State.dropContexts (s : State) (v : Nat) : State :=
  let s := ((s.yardTiles v).flatMap tileCids).foldl (fun s c =>
    if (s.ctx c).live then ((s.dropCommands c).stopCommands (s.tagOf c)).setCtx c Ctx.reset else s) s
  (s.yardTiles v).foldl (fun s t => (((s.dropL1 t).clearTile t).unpin t).modTile t (fun x => { x with move := none, cede := none })) s

/-- The mixed-step cause at the TSC of the hive that serves a yard (R381). -/
def State.mixedStep (s : State) (v : Nat) : State :=
  let c := coreCid ((1024 + s.yardHive v) * 4) 0
  if (s.ctx c).live then s.boundaryTrap c { How.now with precise := false } .mixedStep 0 else s

/-- Restore a step: memory as it was, and its image in place. -/
def State.loadStep (s : State) (v : Nat) (c : StepCopy) : State :=
  let s := s.dropContexts v
  let s := s.storeSpans c.spans c.cells
  { s with images := s.images.filter (fun i => !(i.yard == v && i.base == c.image.base)) ++ [c.image] }

/-- TENANT_ROLL_BACK (R381): the group's newest common step is one of those held here, or there is none: a free choice, since the
other devices' steps are not this device's state (log 5). -/
def State.rollBack (s : State) (v : Nat) : State :=
  s.command v 9 [2, 4] (fun s =>
    let cs := s.steps.filter (fun c => c.yard == v && c.complete)
    let p := s.draw
    match cs[p.1.toNat % (cs.length + 1)]? with
    | none => (p.2.setStatus v 11).mixedStep v
    | some c => ((p.2.disarm v).loadStep v c).endCommand v 4 0) (fun s => s)

def execTenantRollBack (v : Nat) (s : State) : Host.Outcome State Fault Refusal := .next (s.rollBack v)

end Sys2Proof.Machine
end

