-- ==== Sys2Proof/Machine/Management.lean ====
section
/-! DEFINITION. The management core: the semaphore, the commands of its two ports, events, retirement, measurement, boot, resets
and the thermal trip (R382-R384, R394-R403). -/

namespace Sys2Proof.Machine

def State.modMgmt (s : State) (f : Mgmt → Mgmt) : State := { s with mgmt := f s.mgmt }

/-! Measurement (R399). -/

/-- A measurement register; it reads 64 zero bytes after reset. -/
def Mgmt.mreg (m : Mgmt) (n : Nat) : List Byte := SMap.get (fun _ => List.replicate 64 0) m.mregs n

/-- MEASUREMENT_EXTEND: Mn takes the hash of its value and X. -/
def Mgmt.extend (m : Mgmt) (n : Nat) (x : List Byte) : Mgmt :=
  { m with mregs := SMap.set (fun _ => List.replicate 64 0) m.mregs n (Config.shake256 (m.mreg n ++ x)) }

/-! The semaphore (R395). -/

/-- The number of a port in sem. -/
def portNum : MPort → Nat
  | .a => 1 | .b => 2

def otherPort : MPort → MPort
  | .a => .b | .b => .a

/-- SEM_READ: the port whose read takes a free semaphore; of two in the same cycle, the loser of the last such tie wins, and port
A the first. -/
def State.semRead (s : State) (p : MPort) (tie : Bool) : State :=
  let say (s : State) (p : MPort) : State := { s with out := s.out ++ [.reply p (leBytes 8 s.mgmt.holder)] }
  let both (s : State) : State := if tie then say (say s p) (otherPort p) else say s p
  if s.mgmt.holder ≠ 0 then both s
  else if !tie then both (s.modMgmt (fun m => { m with holder := portNum p, heard := s.cal }))
  else
    let w : MPort := if s.mgmt.tieLoser = 2 then .b else .a
    both (s.modMgmt (fun m => { m with holder := portNum w, tieLoser := portNum (otherPort w), heard := s.cal }))

def execSemRead (p : MPort) (tie : Bool) (s : State) : Host.Outcome State Fault Refusal := .next (s.semRead p tie)

/-- SEM_RELEASE: a write by the holder frees it. -/
def State.semRelease (s : State) (p : MPort) : State :=
  if s.mgmt.holder = portNum p then s.modMgmt (fun m => { m with holder := 0 }) else s

def execSemRelease (p : MPort) (s : State) : Host.Outcome State Fault Refusal := .next (s.semRelease p)

/-- SEM_TIMEOUT: one second, 10^9 calendar cycles, without a command from the holder frees it. -/
def State.semTimeout (s : State) : State :=
  if s.mgmt.holder ≠ 0 ∧ s.mgmt.heard + 1000000000 ≤ s.cal then s.modMgmt (fun m => { m with holder := 0 }) else s

def execSemTimeout (s : State) : Host.Outcome State Fault Refusal := .next s.semTimeout

/-! Commands and replies (R394, R396). -/

/-- Lay bytes over others from an offset on. -/
def overlay (old : List Byte) (off : Nat) (new : List Byte) : List Byte :=
  (old ++ List.replicate off 0).take off ++ new ++ old.drop (off + new.length)

/-- A command is submitted whole: on port A its header and payload stand in the command buffer, where the host has written them before it rang
the doorbell (R394, R396). -/
def State.submit (s : State) (p : MPort) (code seq : Nat) (payload : List Byte) : State :=
  match p with
  | .a => s.modMgmt (fun m => { m with cmdA := (overlay m.cmdA 0
      (leBytes 8 (code % 256 + seq % 65536 * 256 + payload.length % 2 ^ 32 * 2 ^ 32) ++ payload)).take 4096 })
  | .b => s

/-- A doubleword of port A's registers as a read without effect finds it (R394): sem reads the holder, the doorbell, which can only be
written, zero. -/
def Mgmt.portA (m : Mgmt) (off : Nat) : Word :=
  if off = 0 then BitVec.ofNat 64 m.holder
  else if off = 0x10 then BitVec.ofNat 64 ((if m.busyA then 2 ^ 63 else 0) + m.seqA % 65536 * 65536 + m.boot % 256)
  else if off = 0x18 then BitVec.ofNat 64 (m.evA.length % 65536 + if m.lostA then 65536 else 0)
  else if 0x1000 ≤ off ∧ off < 0x2000 then BitVec.ofNat 64 (numAt m.cmdA (off - 0x1000) 8)
  else if 0x2000 ≤ off ∧ off < 0x3000 then BitVec.ofNat 64 (numAt m.replyA (off - 0x2000) 8)
  else if 0x3000 ≤ off ∧ off < 0x3040 then BitVec.ofNat 64 (numAt (m.evA.headD []) (off - 0x3000) 8)
  else 0

/-- Reply to a command: the header with its status, and the payload. Port A keeps it in its reply buffer and sends a message. -/
def State.replyTo (s : State) (p : MPort) (code seq status : Nat) (payload : List Byte) : State :=
  let bs := leBytes 8 (code % 256 + seq % 65536 * 256 + status % 256 * 2 ^ 24 + payload.length * 2 ^ 32) ++ payload
  let s := s.modMgmt (fun m => { m with heard := if m.holder = portNum p then s.cal else m.heard })
  match p with
  | .a => { s.modMgmt (fun m => { m with seqA := seq % 65536, replyA := bs }) with out := s.out ++ [.reply .a bs, .msix true 0 0] }
  | .b => { s with out := s.out ++ [.reply .b bs] }

/-- A command that changes device state: without the semaphore it replies status 2, and nothing changes. -/
def State.guarded (s : State) (p : MPort) (code seq : Nat) (f : State → State) : State :=
  if s.mgmt.holder = portNum p then f s else s.replyTo p code seq 2 []

/-- GET_INFO. -/
def State.getInfo (s : State) (p : MPort) (seq : Nat) : State :=
  s.replyTo p 1 seq 0 (Config.infoPayload s.mgmt.boot s.mgmt.deviceId (numAt (s.mgmt.blob s.mgmt.cur) 4 2))

def execGetInfo (p : MPort) (seq : Nat) (s : State) : Host.Outcome State Fault Refusal := .next ((s.submit p 1 seq []).getInfo p seq)

/-- GET_RETIRE. -/
def State.getRetire (s : State) (p : MPort) (seq : Nat) : State :=
  let gone := (s.tiles.filter (fun t => t.2.retired)).map (fun (t : Nat × Tile) => t.1)
  s.replyTo p 2 seq 0 (Config.retirePayload (gone.filter (fun t => decide (t < 1024)))
    ((gone.filter (fun t => decide (1024 ≤ t))).map (fun t => t - 1024)) s.deadChannels)

def execGetRetire (p : MPort) (seq : Nat) (s : State) : Host.Outcome State Fault Refusal := .next ((s.submit p 2 seq []).getRetire p seq)

/-- The flash slot that is not current. -/
def Mgmt.spare (m : Mgmt) : Nat := 1 - m.cur

/-- STAGE_BLOB: a chunk is written to the spare slot. -/
def State.stageBlob (s : State) (p : MPort) (seq off : Nat) (chunk : List Byte) : State :=
  s.guarded p 3 seq (fun s =>
    (s.modMgmt (fun m => { m with blobs := m.blobs.filter (fun q => q.1 != m.spare) ++
      [(m.spare, overlay (m.blob m.spare) off chunk)] })).replyTo p 3 seq 0 [])

def execStageBlob (p : MPort) (seq off : Nat) (chunk : List Byte) (s : State) : Host.Outcome State Fault Refusal :=
  .next ((s.submit p 3 seq (Config.commandPayload 3 [off] chunk)).stageBlob p seq off chunk)

/-- COMMIT_BLOB (R397): the staged blob becomes current at the next reset when its signature verifies. -/
def State.commitBlob (s : State) (p : MPort) (seq : Nat) : State :=
  s.guarded p 4 seq (fun s =>
    if Config.falconValid 0 (s.mgmt.blob s.mgmt.spare) then (s.modMgmt (fun m => { m with nextCur := m.spare })).replyTo p 4 seq 0 []
    else s.replyTo p 4 seq 3 [])

def execCommitBlob (p : MPort) (seq : Nat) (s : State) : Host.Outcome State Fault Refusal := .next ((s.submit p 4 seq []).commitBlob p seq)

/-! SPDM (R400). -/

/-- The answer to an SPDM request, by its place in R400's list, from what it is computed of: on port A the request stands in the command
buffer and the answer in a management reply, on port B they are as they are. -/
def State.spdmAnswer (s : State) (p : MPort) (seq kind : Nat) (req msg : List Byte) : State :=
  let bs := Config.spdmReply kind msg
  match p with
  | .a => (s.submit .a 7 seq req).replyTo .a 7 seq 0 bs
  | .b => { s with out := s.out ++ [.reply .b bs] }

def execSpdm (p : MPort) (seq : Nat) (msg : List Byte) (s : State) : Host.Outcome State Fault Refusal :=
  .next (s.spdmAnswer p seq 0 msg (msg ++ (List.range 8).flatMap s.mgmt.mreg))
def execGetVersion (p : MPort) (msg : List Byte) (s : State) : Host.Outcome State Fault Refusal := .next (s.spdmAnswer p 0 1 msg msg)
def execGetCapabilities (p : MPort) (msg : List Byte) (s : State) : Host.Outcome State Fault Refusal := .next (s.spdmAnswer p 0 2 msg msg)
def execNegotiateAlgorithms (p : MPort) (msg : List Byte) (s : State) : Host.Outcome State Fault Refusal := .next (s.spdmAnswer p 0 3 msg msg)
def execGetDigests (p : MPort) (msg : List Byte) (s : State) : Host.Outcome State Fault Refusal := .next (s.spdmAnswer p 0 4 msg msg)
def execGetCertificate (p : MPort) (msg : List Byte) (s : State) : Host.Outcome State Fault Refusal := .next (s.spdmAnswer p 0 5 msg msg)
def execChallenge (p : MPort) (msg : List Byte) (s : State) : Host.Outcome State Fault Refusal := .next (s.spdmAnswer p 0 6 msg msg)

/-- The raw measurements that an index names: 1-8 one register, 0xFF all of them. -/
def Mgmt.measured (m : Mgmt) (i : Nat) : List Byte :=
  if 1 ≤ i ∧ i ≤ 8 then m.mreg (i - 1) else if i = 0xFF then (List.range 8).flatMap m.mreg else []

/-- GET_MEASUREMENTS: the answer carries the raw registers. -/
def execGetMeasurements (p : MPort) (index : Nat) (s : State) : Host.Outcome State Fault Refusal :=
  .next (s.spdmAnswer p 0 7 (Config.commandPayload 7 [index] []) (s.mgmt.measured index))

/-! Events (R394, R395, R399). -/

/-- EVENT_QUEUE_READ: the oldest event of a port is returned and removed. -/
def State.readEvent (s : State) (p : MPort) : State :=
  match (match p with | .a => s.mgmt.evA | .b => s.mgmt.evB) with
  | [] => s
  | e :: rest =>
    let s : State := { s with out := s.out ++ [.reply p e] }
    s.modMgmt (fun m => match p with | .a => { m with evA := rest } | .b => { m with evB := rest })

def execEventQueueRead (p : MPort) (s : State) : Host.Outcome State Fault Refusal := .next (s.readEvent p)

/-- The register that an extension post names; none: the post is discarded (R399). -/
def extensionReg (w : Nat) : Option Nat :=
  let n := w / 65536 % 8
  if w = 2 ^ 63 + n * 65536 + 5 ∧ (n = 3 ∨ 5 ≤ n) then some n else none

/-- EVENT_POST (R395, R399): a post with bit 63 of its first doubleword set extends a measurement register, or is discarded. -/
def State.eventPost (s : State) (bs : List Byte) : State :=
  let w := numAt bs 0 8
  if w < 2 ^ 63 then s.queueEvent (fit64 bs)
  else match extensionReg w with
    | none => s
    | some n => (s.modMgmt (fun m => m.extend n ((fit64 bs).drop 8 ++ List.replicate 8 0))).queueEvent (fit64 bs)

def execEventPost (bytes : List Byte) (s : State) : Host.Outcome State Fault Refusal := .next (s.eventPost bytes)

/-! Retirement (R382-R384). -/

/-- The kind and id of what is retired. -/
def retiredId : Retired → Nat × Nat
  | .tile t => (1, t) | .hive h => (2, h) | .pseudoChannel p => (3, p)

/-- Whether an id exists. -/
def retiredOk : Retired → Bool
  | .tile t => decide (t < 1024) | .hive h => decide (h < 64) | .pseudoChannel p => decide (p < 2048)

/-- A comb without a tile ends as R372 says: its launches are cancelled and its contexts killed, and the comb is gone. Where its yard has no other
comb the job stays, with status 3. Moves toward it go to the adjacent comb with the lowest id, or to the lowest of the yard (log 76). -/
def State.endEmpty (s : State) (b : Comb) (t : Nat) : State :=
  let near := (s.combsBeside b.yard b.job [t]).map (fun c => c.job)
  let all := (s.combs.filter (fun c => c.yard == b.yard && c.job != b.job)).map (fun c => c.job)
  match leastBy id (if near.isEmpty then all else near) with
  | none => s.jobStatus b.yard b.job 3
  | some x =>
    let s := (((s.cancelJob b.yard b.job).killJobSaved b.yard b.job).redirect b.yard b.job x).jobStatus b.yard b.job 0
    { s with combs := s.combs.filter (fun c => !(c.yard == b.yard && c.job == b.job)) }

/-- COMB_LAST_TILE_LOSS (R383): a comb left without a tile takes one from its largest neighbour, or its job is ended. -/
def State.lastTile (s : State) (b : Comb) (t : Nat) : State :=
  let cs := (s.combsBeside b.yard b.job [t]).filter (fun c => decide (2 ≤ c.tiles.length))
  match leastBy (fun j => 1024 - (match s.combAt b.yard j with | some c => c.tiles.length | none => 0)) (sortNat (cs.map (fun c => c.job))) with
  | some j =>
    (match leastBy id ((neighbours t).filter (fun u => match s.combAt b.yard j with | some c => c.tiles.contains u | none => false)) with
     | some u => s.beginMove { tile := u, job := b.job, via := t }
     | none => s)
  | none => s.endEmpty b t

/-- A comb without a tile that a retired tile was to join looks for another one (R383). -/
def State.missedTile (s : State) (y : Nat) (m : Option Move) : State :=
  match m.bind (fun m => (s.combAt y m.toJob).map (fun c => (m, c))) with
  | none => s
  | some (m, c) =>
    if c.tiles.isEmpty ∧ !(s.tiles.any (fun p => p.2.move.any (fun n => n.toJob == m.toJob) && s.yardOf p.1 == y)) then s.lastTile c m.via else s

/-- A tile retires (R382): its contexts are killed with the tile-error cause, and it leaves its comb. -/
def State.retireTile (s : State) (t : Nat) : State :=
  if (s.tile t).retired then s
  else
    let y := s.yardOf t
    let was := (s.tile t).move
    let s := s.handBack t
    let s := (tileCids t).foldl (fun s c =>
      if (s.ctx c).live then (s.killCtx c).modCtx (coreCid (cidCore c) 11)
        (fun x => x.setSreg 0x803 (causeWord { How.now with precise := false } Cause.tileError.code))
      else s) s
    let s := ((s.dropL1 t).clearTile t).modTile t (fun x => { x with retired := true, move := none, cede := none, pinned := false, pinDue := none })
    let s : State := { s with wins := s.wins.filter (fun p => p.2.tile != t) }
    match s.combOf t with
    | none => s
    | some b =>
      let b' : Comb := { b with tiles := b.tiles.filter (· != t), gen := b.gen + 1 }
      let s := s.modComb b.yard b.job (fun _ => b')
      let r := s.descPa b'
      let s := r.2.writeDesc b' r.1
      (if b'.tiles.isEmpty then s.lastTile b' t else s).missedTile y was

/-- A pseudo-channel retires: every access to an address in it raises the memory-error cause. -/
def State.retireChannel (s : State) (p : Nat) : State :=
  if s.deadChannels.contains p then s else { s with deadChannels := s.deadChannels ++ [p] }

/-- What is named retires at once. -/
def State.retireNow (s : State) (r : Retired) : State :=
  match r with
  | .tile t => s.retireTile t
  | .pseudoChannel p => s.retireChannel p
  | .hive h =>
    let s := (hiveTiles h).foldl (fun s t => s.retireTile t) s
    let s := (List.range 32).foldl (fun s i => s.retireChannel (32 * h + i)) s
    let c := coreCid ((1024 + h) * 4) 0
    (if (s.ctx c).live then s.killCtx c else s).modTile (1024 + h) (fun x => { x with retired := true })

/-- The combs of a yard with u tiles, their floors lowered where the tiles no longer suffice (R384). -/
def lowered (u v : Nat) (cs : List Comb) : List Comb :=
  let f := (cs.filter (fun b => b.yard == v)).foldl (fun n b => n + b.floor) 0
  if f ≤ u then cs
  else cs.map (fun b => if b.yard == v then (let n := Nat.max 1 (b.floor * u / f); { b with floor := n, floorWas := n }) else b)

/-- The floors of a yard whose tiles no longer suffice, those in its images and steps too (R384). -/
def State.lowerFloors (s : State) (v : Nat) : State :=
  let low (i : YardImage) : YardImage := { i with combs := lowered (s.yardTiles v).length v i.combs }
  { s with combs := lowered (s.yardTiles v).length v s.combs, images := s.images.map low,
           steps := s.steps.map (fun c => { c with image := low c.image }) }

/-- Add one to the share with the greatest remainder, the first of them. -/
def giveOne : List (Nat × Nat × Nat) → Nat → List (Nat × Nat × Nat)
  | ys, 0 => ys
  | ys, n + 1 =>
    match leastBy (fun i => 2 ^ 32 - (ys[i]?.map (fun y => y.2.2)).getD 0) (List.range ys.length) with
    | some i => giveOne (ys.mapIdx (fun j y => if j = i then (y.1, y.2.1 + 1, 0) else y)) n
    | none => ys

/-- The shares of yards in a number of slots, by their minima with largest remainders: yard, share. -/
def State.shares (s : State) (ys : List Nat) (n : Nat) : List (Nat × Nat) :=
  let m := ys.foldl (fun v y => v + s.minimum y) 0
  if m = 0 then ys.map (fun y => (y, n / ys.length))
  else
    let base := ys.map (fun y => (y, n * s.minimum y / m, n * s.minimum y % m))
    (giveOne base (n - base.foldl (fun v y => v + y.2.1) 0)).map (fun (y : Nat × Nat × Nat) => (y.1, y.2.1))

/-- The yard that is dealt the next slot: the least count for its share, compared by cross-multiplication. -/
def nextDealt (given : List Nat) : List (Nat × Nat) → Option (Nat × Nat)
  | [] => none
  | y :: ys =>
    let count (v : Nat) : Nat := (given.filter (· == v)).length
    if y.2 = 0 then nextDealt given ys
    else match nextDealt given ys with
      | some z => some (if count z.1 * y.2 < count y.1 * z.2 then z else y)
      | none => some y

/-- Deal a port's owned slots again (R384): the bytes are stored, and come into force as R356 says. -/
def State.redeal (s : State) (port : Nat) : State :=
  let b (i : Nat) : Nat := (s.byte (configPa (port * 64 + i))).toNat
  let slots := (List.range 64).filter (fun i => decide (b i < 32))
  let ys := sortNat (slots.map b).eraseDups
  if ys.length < 2 then s
  else
    let sh := s.shares ys slots.length
    let r := slots.foldl (fun (r : State × List Nat) i =>
      match nextDealt r.2 sh with
      | some y => (r.1.setByte (configPa (port * 64 + i)) (BitVec.ofNat 8 y.1), r.2 ++ [y.1])
      | none => r) (s, [])
    { r.1 with calSince := SMap.set (fun _ => 0) s.calSince port (s.cal + 1) }

/-- The ports of the calendar block that hold a byte that is not zero. -/
def State.calendarPorts (s : State) : List Nat :=
  ((s.mem.filter (fun (p : Host.Cell) => decide (configPa 0 ≤ p.1) && decide (p.1 < configPa 0x88000))).map
    (fun (p : Host.Cell) => (p.1 - configPa 0) / 64)).eraseDups

/-- GUARANTEE_SHORTFALL (R384): when the minima exceed the tiles left, both ports are told, floors are lowered and the slots of
shared ports dealt again. -/
def State.shortfall (s : State) : State :=
  let vs := (List.range 32).filter (fun v => s.recState v != 0)
  if vs.foldl (fun n v => n + s.minimum v) 0 ≤ s.liveTiles then s
  else
    let s := s.queueEvent (eventBytes 2)
    let s := vs.foldl (fun s v => s.lowerFloors v) s
    s.calendarPorts.foldl (fun s p => s.redeal p) s

/-- RETIRE (R382): the retirement takes effect, is logged, and raises a replace-request, whose kind and id stand in the event's
next bytes (log 9). -/
def State.retire (s : State) (p : MPort) (seq : Nat) (r : Retired) : State :=
  s.guarded p 5 seq (fun s =>
    if !(retiredOk r) then s.replyTo p 5 seq 1 []
    else
      let n := s.liveTiles
      let s := (s.retireNow r).modMgmt (fun m => { m with log := m.log ++ [r] })
      let s := s.queueEvent (eventBytes (1 + (retiredId r).1 * 256 + (retiredId r).2 * 65536))
      (if s.liveTiles < n then s.shortfall else s).replyTo p 5 seq 0 [])

def execRetire (p : MPort) (seq : Nat) (what : Retired) (s : State) : Host.Outcome State Fault Refusal :=
  .next ((s.submit p 5 seq (Config.commandPayload 5 [(retiredId what).1, (retiredId what).2] [])).retire p seq what)

/-! Boot (R397, R398). -/

/-- Where boot stops at a step that fails (R401). -/
def State.stopBoot (s : State) (n : Nat) : State := s.modMgmt (fun m => { m with boot := 0x80 + n })

/-- The retirements that a blob lists (R397). -/
def blobRetired (b : List Byte) : List Retired :=
  let bit (off i : Nat) : Bool := (numAt b (off + i / 8) 1).testBit (i % 8)
  ((List.range 1024).filter (bit 16)).map .tile ++ ((List.range 64).filter (bit 400)).map .hive ++
  ((List.range 2048).filter (bit 144)).map .pseudoChannel

/-- Put a reset tenant record of the blob into its place and create it. The record of yard i is the blob's i-th. -/
def State.bootRecord (s : State) (b : List Byte) (i : Nat) : State :=
  let s := s.setBytes (recordPa i) ((List.replicate 8 0 ++ ((b.drop (416 + 256 * i)).take 256).drop 8).take 256)
  s.tenantCreate i

/-- Start the TSC of a hive at H (R398 step 6). -/
def State.startTsc (s : State) (h : Nat) : State :=
  if (s.tile (1024 + h)).retired then s
  else
    let c := coreCid ((1024 + h) * 4) 0
    let s := s.setTmBytes (1024 + h) 0 0 Config.tscFirmware
    s.setCtx c { Ctx.reset with live := true, priv := .h, pc := Config.tscEntry }

/-- The links as the dies find them: the Milay ports train, and the two PCIe ports are up (R386; log 8). -/
def State.linksStart (s : State) : State := s.setBytes (linkPa 0) (List.replicate 18 1 ++ [2, 2])

/-- Steps 5 to 7 of boot, with a blob that has been verified: the dies are released, retirements are applied, the reset records
are created and the TSCs start. -/
def State.releaseDies (s : State) (b : List Byte) : State :=
  let s := (blobRetired b ++ s.mgmt.log).foldl (fun s r => s.retireNow r) s.linksStart
  let s := (List.range (Nat.min (numAt b 408 8) 32)).foldl (fun s i => s.bootRecord b i) s
  let s := (List.range 64).foldl (fun s h => s.startTsc h) s
  s.modMgmt (fun m => { m with boot := 6 })

/-- BOOT_SEQUENCE (R398) from step 1, for a device whose state has been reset. -/
def State.bootFrom (s : State) : State :=
  match [0, 1].find? (fun i => Config.falconValid 0 (Config.bootImage i)) with
  | none => s.stopBoot 1
  | some i =>
    let s := s.modMgmt (fun m => m.extend 0 (Config.shake256 (Config.bootImage i)))
    match [s.mgmt.nextCur, 1 - s.mgmt.nextCur].find? (fun j => Config.falconValid 0 (s.mgmt.blob j)) with
    | none => s.stopBoot 3
    | some j =>
      let b := s.mgmt.blob j
      let s := s.modMgmt (fun m => (({ m with cur := j, nextCur := j }.extend 1 (Config.shake256 b)).extend 4
        (Config.shake256 (Config.logBytes (m.log.map retiredId)))))
      if !(Config.falconValid 1 Config.tscFirmware) then s.stopBoot 4
      else (s.modMgmt (fun m => m.extend 2 (Config.shake256 Config.tscFirmware))).releaseDies b

/-! Resets (R402, R403). -/

/-- The device after a reset, before it boots: the flash stands, and so do the messages sent and the count of free values; keep
says what stays of memory. The tickets accepted stay known, since each is accepted once (R378; log 7). -/
def State.cleared (s : State) (mem : List Host.Cell) : State :=
  { State.reset with
      free := s.free, mem := mem, out := s.out, tickets := s.tickets,
      mgmt := { Mgmt.reset with blobs := s.mgmt.blobs, cur := s.mgmt.cur, nextCur := s.mgmt.nextCur, log := s.mgmt.log } }

/-- COLD_RESET: nothing but the flash stays. -/
def execColdReset (s : State) : Host.Outcome State Fault Refusal := .next (s.cleared []).bootFrom

/-- A warm reset: every yard is lost and the measurements are cleared; HBM keeps its bytes (log 10). -/
def State.warmReset (s : State) : State :=
  if !s.mgmt.powered then s else (s.cleared (s.mem.filter (fun p => paSpace p.1 == 0))).bootFrom

def execWarmReset (s : State) : Host.Outcome State Fault Refusal := .next s.warmReset

/-- RESET (R396): the management command for a warm reset. -/
def State.resetCommand (s : State) (p : MPort) (seq : Nat) : State :=
  s.guarded p 6 seq (fun s => (s.replyTo p 6 seq 0 []).warmReset)

def execReset (p : MPort) (seq : Nat) (s : State) : Host.Outcome State Fault Refusal := .next ((s.submit p 6 seq []).resetCommand p seq)

/-! Port A (R388, R394, R396). -/

/-- What is retired, by its kind and id. -/
def retiredOf (kind id : Nat) : Option Retired :=
  if kind = 1 then some (.tile id) else if kind = 2 then some (.hive id) else if kind = 3 then some (.pseudoChannel id) else none

/-- A command is carried out, from its code, sequence number, payload, and the arguments and bytes that stand in it (R396; log 9). -/
def State.carryCommand (s : State) (code seq : Nat) (payload : List Byte) (args : List Nat) (bs : List Byte) : State :=
  match code, args with
  | 1, _ => s.getInfo .a seq
  | 2, _ => s.getRetire .a seq
  | 3, off :: _ => s.stageBlob .a seq off bs
  | 4, _ => s.commitBlob .a seq
  | 5, kind :: id :: _ => (match retiredOf kind id with | some r => s.retire .a seq r | none => s.replyTo .a 5 seq 1 [])
  | 6, _ => s.resetCommand .a seq
  | 7, _ => s.replyTo .a 7 seq 0 (Config.spdmReply 0 (payload ++ (List.range 8).flatMap s.mgmt.mreg))
  | _, _ => s.replyTo .a code seq 1 []

/-- The command that the doorbell has submitted is carried out; one whose header is not as R396 gives it is malformed. -/
def State.serveA (s : State) : State :=
  if !s.mgmt.busyA then s
  else
    let w := numAt s.mgmt.cmdA 0 8
    let code := w % 256
    let len := w / 2 ^ 32
    let payload := ((s.mgmt.cmdA ++ List.replicate 4096 0).drop 8).take len
    let s := s.modMgmt (fun m => { m with busyA := false })
    if w / 2 ^ 24 % 256 ≠ 0 ∨ 4088 < len then s.replyTo .a code (w / 256 % 65536) 1 []
    else s.carryCommand code (w / 256 % 65536) payload (Config.commandArgs code payload).1 (Config.commandArgs code payload).2

/-- A write to port A's registers: sem, the doorbell and the command buffer take it, and anything else drops it (R388, R394, R395). A doorbell
that rings while a command is in progress is not heard (log 9). -/
def State.portAWrite (s : State) (off : Nat) (bs : List Byte) : State :=
  let s := if off < 8 ∧ !bs.isEmpty then s.semRelease .a else s
  let s := if off ≤ 8 ∧ 8 < off + bs.length ∧ leNat ((bs.drop (8 - off)).take 8) = 1 ∧ !s.mgmt.busyA then s.modMgmt (fun m => { m with busyA := true })
    else s
  if 0x1000 ≤ off ∧ off < 0x2000 then s.modMgmt (fun m => { m with cmdA := overlay m.cmdA (off - 0x1000) (bs.take (0x2000 - off)) }) else s

/-- A posted write is applied in its order: to a landing window, or to port A; any other one is dropped (R388, R390). A poisoned one to port A is
dropped too (log 9), and what a BAR4 holds is PCIe's own (log 7). -/
def State.applyPost (s : State) (w : PcieWrite) : State :=
  if !(s.mayApply w) then s
  else if postLands w then (s.notePost w).postedWrite w
  else if !w.peer ∧ w.fn = 0 ∧ w.bar = 0 ∧ !w.poisoned then (s.notePost w).portAWrite w.addr w.bytes
  else s.notePost w

/-- PCIE_POSTED_WRITE (R102, R388-R391). -/
def execPciePostedWrite (w : PcieWrite) (s : State) : Host.Outcome State Fault Refusal := .next (s.applyPost w)

/-- FLR_VF: a record that is not free is torn down; the event follows its end. -/
def State.flrVf (s : State) (v : Nat) : State :=
  if s.recState v = 0 then s.queueEvent (eventBytes (5 + v % 32 * 256))
  else ((s.modTenant v (fun t => { t with flr := true })).beginTeardown v).goTeardown v

def execFlrVf (v : Nat) (s : State) : Host.Outcome State Fault Refusal := .next (s.flrVf v)

/-- FLR_PF0: port A's registers are reset, and its semaphore is freed. -/
def execFlrPf0 (s : State) : Host.Outcome State Fault Refusal :=
  .next (s.modMgmt (fun m =>
    { m with holder := if m.holder = 1 then 0 else m.holder, cmdA := [], busyA := false, seqA := 0, replyA := [], evA := [], lostA := false }))

/-- FLR_PEER: nothing but PCIe state, which the spec does not describe, is cleared. -/
def execFlrPeer (s : State) : Host.Outcome State Fault Refusal := .next s

/-- THERMAL_TRIP (R403): the compute dies lose their power and with it their state; only the management core runs on. -/
def State.thermalTrip (s : State) : State :=
  let s := s.queueEvent (eventBytes 4)
  { s with agenda := [], ctxs := [], cores := [], tiles := s.tiles.filterMap (fun p =>
      if p.2.retired then some (p.1, { Tile.reset with retired := true }) else none), hives := [], tm := [], acc := [],
           l2 := [], sums := [], combs := [], launches := [], graphs := [], phases := [], rounds := [], wins := [], remotes := [],
           shoots := [], mgmt := { s.mgmt with powered := false } }

def execThermalTrip (s : State) : Host.Outcome State Fault Refusal := .next s.thermalTrip

end Sys2Proof.Machine
end

