-- ==== Sys2Proof/Machine/Dispatch.lean ====
section
/-! DEFINITION. What each step does: one arm per row of spec/opcode_table.json. -/

namespace Sys2Proof.Machine

/-- The meaning of a step. -/
def exec (i : Instr) (s : State) : Host.Outcome State Fault Refusal :=
  match i with
  | .add d a b => Sys2Proof.Machine.execAdd d a b s
  | .sub d a b => Sys2Proof.Machine.execSub d a b s
  | .and d a b => Sys2Proof.Machine.execAnd d a b s
  | .or d a b => Sys2Proof.Machine.execOr d a b s
  | .xor d a b => Sys2Proof.Machine.execXor d a b s
  | .sll d a b => Sys2Proof.Machine.execSll d a b s
  | .srl d a b => Sys2Proof.Machine.execSrl d a b s
  | .sra d a b => Sys2Proof.Machine.execSra d a b s
  | .slt d a b => Sys2Proof.Machine.execSlt d a b s
  | .slo d a b => Sys2Proof.Machine.execSlo d a b s
  | .mul d a b la => Sys2Proof.Machine.execMul d a b la s
  | .mulh d a b la => Sys2Proof.Machine.execMulh d a b la s
  | .mulhz d a b la => Sys2Proof.Machine.execMulhz d a b la s
  | .div d a b la => Sys2Proof.Machine.execDiv d a b la s
  | .divz d a b la => Sys2Proof.Machine.execDivz d a b la s
  | .rem d a b la => Sys2Proof.Machine.execRem d a b la s
  | .remz d a b la => Sys2Proof.Machine.execRemz d a b la s
  | .min d a b => Sys2Proof.Machine.execMin d a b s
  | .max d a b => Sys2Proof.Machine.execMax d a b s
  | .minz d a b => Sys2Proof.Machine.execMinz d a b s
  | .maxz d a b => Sys2Proof.Machine.execMaxz d a b s
  | .clz d a => Sys2Proof.Machine.execClz d a s
  | .popc d a => Sys2Proof.Machine.execPopc d a s
  | .bfx d a b => Sys2Proof.Machine.execBfx d a b s
  | .bfi d a b => Sys2Proof.Machine.execBfi d a b s
  | .sel d a b => Sys2Proof.Machine.execSel d a b s
  | .addi d a imm => Sys2Proof.Machine.execAddi d a imm s
  | .andi d a imm => Sys2Proof.Machine.execAndi d a imm s
  | .ori d a imm => Sys2Proof.Machine.execOri d a imm s
  | .xori d a imm => Sys2Proof.Machine.execXori d a imm s
  | .slti d a imm => Sys2Proof.Machine.execSlti d a imm s
  | .slli d a n => Sys2Proof.Machine.execSlli d a n s
  | .srli d a n => Sys2Proof.Machine.execSrli d a n s
  | .srai d a n => Sys2Proof.Machine.execSrai d a n s
  | .lui d imm => Sys2Proof.Machine.execLui d imm s
  | .auipc d imm => Sys2Proof.Machine.execAuipc d imm s
  | .beq a b off => Sys2Proof.Machine.execBeq a b off s
  | .bne a b off => Sys2Proof.Machine.execBne a b off s
  | .blt a b off => Sys2Proof.Machine.execBlt a b off s
  | .bge a b off => Sys2Proof.Machine.execBge a b off s
  | .blo a b off => Sys2Proof.Machine.execBlo a b off s
  | .bhs a b off => Sys2Proof.Machine.execBhs a b off s
  | .jal d off => Sys2Proof.Machine.execJal d off s
  | .jalr d a imm => Sys2Proof.Machine.execJalr d a imm s
  | .loop d a imm => Sys2Proof.Machine.execLoop d a imm s
  | .start d a b => Sys2Proof.Machine.execStart d a b s
  | .halt a => Sys2Proof.Machine.execHalt a s
  | .yield d => Sys2Proof.Machine.execYield d s
  | .upret a => Sys2Proof.Machine.execUpret a s
  | .bqe a b off => Sys2Proof.Machine.execBqe a b off s
  | .ldB d a off la => Sys2Proof.Machine.execLdB d a off la s
  | .ldBz d a off la => Sys2Proof.Machine.execLdBz d a off la s
  | .ldH d a off la => Sys2Proof.Machine.execLdH d a off la s
  | .ldHz d a off la => Sys2Proof.Machine.execLdHz d a off la s
  | .ldW d a off la => Sys2Proof.Machine.execLdW d a off la s
  | .ldWz d a off la => Sys2Proof.Machine.execLdWz d a off la s
  | .ldD d a off la => Sys2Proof.Machine.execLdD d a off la s
  | .ldRo d a off la => Sys2Proof.Machine.execLdRo d a off la s
  | .stB b a off => Sys2Proof.Machine.execStB b a off s
  | .stH b a off => Sys2Proof.Machine.execStH b a off s
  | .stW b a off => Sys2Proof.Machine.execStW b a off s
  | .stD b a off => Sys2Proof.Machine.execStD b a off s
  | .stNt b a off => Sys2Proof.Machine.execStNt b a off s
  | .pref a => Sys2Proof.Machine.execPref a s
  | .flush cc a => Sys2Proof.Machine.execFlush cc a s
  | .inval cc a => Sys2Proof.Machine.execInval cc a s
  | .ldv d a off la => Sys2Proof.Machine.execLdv d a off la s
  | .vrec a b => Sys2Proof.Machine.execVrec a b s
  | .valid d la => Sys2Proof.Machine.execValid d la s
  | .vclr => Sys2Proof.Machine.execVclr s
  | .casv d a b la => Sys2Proof.Machine.execCasv d a b la s
  | .cas d a b la => Sys2Proof.Machine.execCas d a b la s
  | .amoAdd d a b w sc la => Sys2Proof.Machine.execAmoAdd d a b w sc la s
  | .amoAnd d a b w sc la => Sys2Proof.Machine.execAmoAnd d a b w sc la s
  | .amoOr d a b w sc la => Sys2Proof.Machine.execAmoOr d a b w sc la s
  | .amoXor d a b w sc la => Sys2Proof.Machine.execAmoXor d a b w sc la s
  | .amoMin d a b w sc la => Sys2Proof.Machine.execAmoMin d a b w sc la s
  | .amoMax d a b w sc la => Sys2Proof.Machine.execAmoMax d a b w sc la s
  | .amoSwap d a b w sc la => Sys2Proof.Machine.execAmoSwap d a b w sc la s
  | .amoXadd d a b sc la => Sys2Proof.Machine.execAmoXadd d a b sc la s
  | .fenceRel sc => Sys2Proof.Machine.execFenceRel sc s
  | .fenceAcq sc => Sys2Proof.Machine.execFenceAcq sc s
  | .fenceAr sc => Sys2Proof.Machine.execFenceAr sc s
  | .evw d a => Sys2Proof.Machine.execEvw d a s
  | .evs a => Sys2Proof.Machine.execEvs a s
  | .bar a => Sys2Proof.Machine.execBar a s
  | .fillw d a b => Sys2Proof.Machine.execFillw d a b s
  | .fillt d a => Sys2Proof.Machine.execFillt d a s
  | .filla d a b => Sys2Proof.Machine.execFilla d a b s
  | .tsync d => Sys2Proof.Machine.execTsync d s
  | .mfs d n => Sys2Proof.Machine.execMfs d n s
  | .mts a n => Sys2Proof.Machine.execMts a n s
  | .ctxFtWrite a => Sys2Proof.Machine.execCtxFtWrite a s
  | .ringRegisterWrite a n => Sys2Proof.Machine.execRingRegisterWrite a n s
  | .mgrpWrite a => Sys2Proof.Machine.execMgrpWrite a s
  | .fflagsAccess wr r => Sys2Proof.Machine.execFflagsAccess wr r s
  | .trapSuppRead d => Sys2Proof.Machine.execTrapSuppRead d s
  | .sKillWrite a => Sys2Proof.Machine.execSKillWrite a s
  | .hvTagWrite a => Sys2Proof.Machine.execHvTagWrite a s
  | .trap a => Sys2Proof.Machine.execTrap a s
  | .eret a => Sys2Proof.Machine.execEret a s
  | .tlbw a b => Sys2Proof.Machine.execTlbw a b s
  | .tlbinvPage a b => Sys2Proof.Machine.execTlbinvPage a b s
  | .shootdownComplete cid => Sys2Proof.Machine.execShootdownComplete cid s
  | .chold d a => Sys2Proof.Machine.execChold d a s
  | .cfloor d a => Sys2Proof.Machine.execCfloor d a s
  | .cload d a => Sys2Proof.Machine.execCload d a s
  | .ccede d a => Sys2Proof.Machine.execCcede d a s
  | .vadd v a b ext la => Sys2Proof.Machine.execVadd v a b ext la s
  | .vsub v a b ext la => Sys2Proof.Machine.execVsub v a b ext la s
  | .vmul v a b ext la => Sys2Proof.Machine.execVmul v a b ext la s
  | .vfma v a b ext la => Sys2Proof.Machine.execVfma v a b ext la s
  | .vfms v a b ext la => Sys2Proof.Machine.execVfms v a b ext la s
  | .vdiv v a b ext la => Sys2Proof.Machine.execVdiv v a b ext la s
  | .vsqrt v a ext la => Sys2Proof.Machine.execVsqrt v a ext la s
  | .vmin v a b ext la => Sys2Proof.Machine.execVmin v a b ext la s
  | .vmax v a b ext la => Sys2Proof.Machine.execVmax v a b ext la s
  | .vabs v a ext la => Sys2Proof.Machine.execVabs v a ext la s
  | .vneg v a ext la => Sys2Proof.Machine.execVneg v a ext la s
  | .vcmp cc m a b ext la => Sys2Proof.Machine.execVcmp cc m a b ext la s
  | .vand v a b ext la => Sys2Proof.Machine.execVand v a b ext la s
  | .vor v a b ext la => Sys2Proof.Machine.execVor v a b ext la s
  | .vxor v a b ext la => Sys2Proof.Machine.execVxor v a b ext la s
  | .vshl v a b ext la => Sys2Proof.Machine.execVshl v a b ext la s
  | .vshr v a b ext la => Sys2Proof.Machine.execVshr v a b ext la s
  | .vsra v a b ext la => Sys2Proof.Machine.execVsra v a b ext la s
  | .vmov v a ext la => Sys2Proof.Machine.execVmov v a ext la s
  | .vbcast v a ext la => Sys2Proof.Machine.execVbcast v a ext la s
  | .vsel v a b ext la => Sys2Proof.Machine.execVsel v a b ext la s
  | .vperm v a b ext la => Sys2Proof.Machine.execVperm v a b ext la s
  | .vswz v a p ext la => Sys2Proof.Machine.execVswz v a p ext la s
  | .vext d a b la => Sys2Proof.Machine.execVext d a b la s
  | .vextMask d m la => Sys2Proof.Machine.execVextMask d m la s
  | .vins v a b la => Sys2Proof.Machine.execVins v a b la s
  | .vinsMask m a la => Sys2Proof.Machine.execVinsMask m a la s
  | .vld v a b ext la => Sys2Proof.Machine.execVld v a b ext la s
  | .vst v a b ext => Sys2Proof.Machine.execVst v a b ext s
  | .vldtm v a b ext la => Sys2Proof.Machine.execVldtm v a b ext la s
  | .vsttm v a b ext => Sys2Proof.Machine.execVsttm v a b ext s
  | .vgath v a b ext la => Sys2Proof.Machine.execVgath v a b ext la s
  | .vscat v a b ext => Sys2Proof.Machine.execVscat v a b ext s
  | .vcvt v a ext la => Sys2Proof.Machine.execVcvt v a ext la s
  | .vpack v a ext la => Sys2Proof.Machine.execVpack v a ext la s
  | .vunpk v a ext la => Sys2Proof.Machine.execVunpk v a ext la s
  | .vqnt v a b ext la => Sys2Proof.Machine.execVqnt v a b ext la s
  | .vred v a p ext la => Sys2Proof.Machine.execVred v a p ext la s
  | .vdot v a b ext la => Sys2Proof.Machine.execVdot v a b ext la s
  | .vrng v ext la => Sys2Proof.Machine.execVrng v ext la s
  | .vcls m a cset ext la => Sys2Proof.Machine.execVcls m a cset ext la s
  | .vtbl v a b ext la => Sys2Proof.Machine.execVtbl v a b ext la s
  | .vbfly v a b ext la => Sys2Proof.Machine.execVbfly v a b ext la s
  | .vcnt v a p ext la => Sys2Proof.Machine.execVcnt v a p ext la s
  | .vscan v a p ext la => Sys2Proof.Machine.execVscan v a p ext la s
  | .fmt f g r t m k => Sys2Proof.Machine.execFmt f g r t m k s
  | .vectorExecute core => Sys2Proof.Machine.execVectorExecute core s
  | .cpGo a b sc => Sys2Proof.Machine.execCpGo a b sc s
  | .cpLand a b => Sys2Proof.Machine.execCpLand a b s
  | .cpTm a b => Sys2Proof.Machine.execCpTm a b s
  | .gaGo a b sc => Sys2Proof.Machine.execGaGo a b sc s
  | .scGo a b sc => Sys2Proof.Machine.execScGo a b sc s
  | .coRed a b sc => Sys2Proof.Machine.execCoRed a b sc s
  | .coBcast a b sc => Sys2Proof.Machine.execCoBcast a b sc s
  | .coAr a b sc => Sys2Proof.Machine.execCoAr a b sc s
  | .mm a b => Sys2Proof.Machine.execMm a b s
  | .mms a b => Sys2Proof.Machine.execMms a b s
  | .mmp a b => Sys2Proof.Machine.execMmp a b s
  | .mzero a => Sys2Proof.Machine.execMzero a s
  | .macr v b la => Sys2Proof.Machine.execMacr v b la s
  | .macw v b => Sys2Proof.Machine.execMacw v b s
  | .macst a b => Sys2Proof.Machine.execMacst a b s
  | .mcmdCheck a => Sys2Proof.Machine.execMcmdCheck a s
  | .mcmdZall a => Sys2Proof.Machine.execMcmdZall a s
  | .mcmdPcancel a => Sys2Proof.Machine.execMcmdPcancel a s
  | .mringPop a b => Sys2Proof.Machine.execMringPop a b s
  | .mringPush a b => Sys2Proof.Machine.execMringPush a b s
  | .mringReset a b => Sys2Proof.Machine.execMringReset a b s
  | .mwait => Sys2Proof.Machine.execMwait s
  | .lnTask a b => Sys2Proof.Machine.execLnTask a b s
  | .lnGraph a b => Sys2Proof.Machine.execLnGraph a b s
  | .lnPhase a b => Sys2Proof.Machine.execLnPhase a b s
  | .lnCancel a b => Sys2Proof.Machine.execLnCancel a b s
  | .lnWait a b => Sys2Proof.Machine.execLnWait a b s
  | .rpRec a => Sys2Proof.Machine.execRpRec a s
  | .rpRun a b => Sys2Proof.Machine.execRpRun a b s
  | .replayPush core => Sys2Proof.Machine.execReplayPush core s
  | .wxld a b => Sys2Proof.Machine.execWxld a b s
  | .wxrel a => Sys2Proof.Machine.execWxrel a s
  | .wxstm a b => Sys2Proof.Machine.execWxstm a b s
  | .wxdet a => Sys2Proof.Machine.execWxdet a s
  | .wxqry d b la => Sys2Proof.Machine.execWxqry d b la s
  | .enStat d b la => Sys2Proof.Machine.execEnStat d b la s
  | .wax v a b ext n la => Sys2Proof.Machine.execWax v a b ext n la s
  | .waxLoadComplete tile => Sys2Proof.Machine.execWaxLoadComplete tile s
  | .streamStart tile => Sys2Proof.Machine.execStreamStart tile s
  | .streamEnd tile => Sys2Proof.Machine.execStreamEnd tile s
  | .engineAccept core => Sys2Proof.Machine.execEngineAccept core s
  | .matrixCommandStart tile => Sys2Proof.Machine.execMatrixCommandStart tile s
  | .matrixCommandRetire tile => Sys2Proof.Machine.execMatrixCommandRetire tile s
  | .mmpPairCommit tile => Sys2Proof.Machine.execMmpPairCommit tile s
  | .collectiveComplete yard dom => Sys2Proof.Machine.execCollectiveComplete yard dom s
  | .engineWriteHome tile => Sys2Proof.Machine.execEngineWriteHome tile s
  | .taskDispatch yard => Sys2Proof.Machine.execTaskDispatch yard s
  | .helperTaskStart tile => Sys2Proof.Machine.execHelperTaskStart tile s
  | .taskCommit cid => Sys2Proof.Machine.execTaskCommit cid s
  | .successorDispatchable yard => Sys2Proof.Machine.execSuccessorDispatchable yard s
  | .taskFaultRecord cid => Sys2Proof.Machine.execTaskFaultRecord cid s
  | .upcallEntry cid => Sys2Proof.Machine.execUpcallEntry cid s
  | .lateCauseReport cid => Sys2Proof.Machine.execLateCauseReport cid s
  | .singleStepTrap cid => Sys2Proof.Machine.execSingleStepTrap cid s
  | .sliceExpiry core => Sys2Proof.Machine.execSliceExpiry core s
  | .budgetExceeded cid => Sys2Proof.Machine.execBudgetExceeded cid s
  | .contextSave cid => Sys2Proof.Machine.execContextSave cid s
  | .eventArrival tile line => Sys2Proof.Machine.execEventArrival tile line s
  | .barrierArrival cid dom members => Sys2Proof.Machine.execBarrierArrival cid dom members s
  | .superstepBoundary yard dom => Sys2Proof.Machine.execSuperstepBoundary yard dom s
  | .linkValueArrival core dir => Sys2Proof.Machine.execLinkValueArrival core dir s
  | .tlbMissRecord hive => Sys2Proof.Machine.execTlbMissRecord hive s
  | .pinSwitchComplete tile => Sys2Proof.Machine.execPinSwitchComplete tile s
  | .calendarApply port => Sys2Proof.Machine.execCalendarApply port s
  | .routeEntryApply dev => Sys2Proof.Machine.execRouteEntryApply dev s
  | .tenantCreate v => Sys2Proof.Machine.execTenantCreate v s
  | .tenantStart v => Sys2Proof.Machine.execTenantStart v s
  | .tenantSave v => Sys2Proof.Machine.execTenantSave v s
  | .tenantResume v => Sys2Proof.Machine.execTenantResume v s
  | .tenantTeardown v => Sys2Proof.Machine.execTenantTeardown v s
  | .tenantMigrateOut v => Sys2Proof.Machine.execTenantMigrateOut v s
  | .tenantMigrateIn v => Sys2Proof.Machine.execTenantMigrateIn v s
  | .tenantCheckpoint v => Sys2Proof.Machine.execTenantCheckpoint v s
  | .tenantRollBack v => Sys2Proof.Machine.execTenantRollBack v s
  | .tenantReservedCommand v code => Sys2Proof.Machine.execTenantReservedCommand v code s
  | .jobGo v j => Sys2Proof.Machine.execJobGo v j s
  | .jobEnd v j => Sys2Proof.Machine.execJobEnd v j s
  | .eventPost bytes => Sys2Proof.Machine.execEventPost bytes s
  | .msixPost w => Sys2Proof.Machine.execMsixPost w s
  | .coldReset => Sys2Proof.Machine.execColdReset s
  | .elasticReturnComplete tile => Sys2Proof.Machine.execElasticReturnComplete tile s
  | .engineCommandComplete tile eng => Sys2Proof.Machine.execEngineCommandComplete tile eng s
  | .mmpPairTimeout tile => Sys2Proof.Machine.execMmpPairTimeout tile s
  | .writeCombineDrain tile => Sys2Proof.Machine.execWriteCombineDrain tile s
  | .launchAging yard job id => Sys2Proof.Machine.execLaunchAging yard job id s
  | .cedeRequestExpiry tile => Sys2Proof.Machine.execCedeRequestExpiry tile s
  | .lossGraceExpiry tile => Sys2Proof.Machine.execLossGraceExpiry tile s
  | .handoverDrainComplete tile => Sys2Proof.Machine.execHandoverDrainComplete tile s
  | .tagDrainComplete tag => Sys2Proof.Machine.execTagDrainComplete tag s
  | .upretVacate a => Sys2Proof.Machine.execUpretVacate a s
  | .eretRestore a => Sys2Proof.Machine.execEretRestore a s
  | .tlbinvVf a b => Sys2Proof.Machine.execTlbinvVf a b s
  | .tlbinvGpa a b => Sys2Proof.Machine.execTlbinvGpa a b s
  | .tlbinvAll a b => Sys2Proof.Machine.execTlbinvAll a b s
  | .fillWordArrival tile view off m => Sys2Proof.Machine.execFillWordArrival tile view off m s
  | .homeAccess req => Sys2Proof.Machine.execHomeAccess req s
  | .l1Writeback tile line => Sys2Proof.Machine.execL1Writeback tile line s
  | .l2Eviction line => Sys2Proof.Machine.execL2Eviction line s
  | .waggleBoundary => Sys2Proof.Machine.execWaggleBoundary s
  | .pciePostedWrite w => Sys2Proof.Machine.execPciePostedWrite w s
  | .pcieUnsupportedRequest peer tag => Sys2Proof.Machine.execPcieUnsupportedRequest peer tag s
  | .milayPortDown port => Sys2Proof.Machine.execMilayPortDown port s
  | .milayAccessTimeout id => Sys2Proof.Machine.execMilayAccessTimeout id s
  | .uncorrectableTileError tile => Sys2Proof.Machine.execUncorrectableTileError tile s
  | .checkpointStepComplete v => Sys2Proof.Machine.execCheckpointStepComplete v s
  | .migrationDone v ok => Sys2Proof.Machine.execMigrationDone v ok s
  | .semRead p tie => Sys2Proof.Machine.execSemRead p tie s
  | .semRelease p => Sys2Proof.Machine.execSemRelease p s
  | .semTimeout => Sys2Proof.Machine.execSemTimeout s
  | .getInfo p seq => Sys2Proof.Machine.execGetInfo p seq s
  | .getRetire p seq => Sys2Proof.Machine.execGetRetire p seq s
  | .stageBlob p seq off chunk => Sys2Proof.Machine.execStageBlob p seq off chunk s
  | .commitBlob p seq => Sys2Proof.Machine.execCommitBlob p seq s
  | .retire p seq what => Sys2Proof.Machine.execRetire p seq what s
  | .reset p seq => Sys2Proof.Machine.execReset p seq s
  | .spdm p seq msg => Sys2Proof.Machine.execSpdm p seq msg s
  | .eventQueueRead p => Sys2Proof.Machine.execEventQueueRead p s
  | .getVersion p msg => Sys2Proof.Machine.execGetVersion p msg s
  | .getCapabilities p msg => Sys2Proof.Machine.execGetCapabilities p msg s
  | .negotiateAlgorithms p msg => Sys2Proof.Machine.execNegotiateAlgorithms p msg s
  | .getDigests p msg => Sys2Proof.Machine.execGetDigests p msg s
  | .getCertificate p msg => Sys2Proof.Machine.execGetCertificate p msg s
  | .challenge p msg => Sys2Proof.Machine.execChallenge p msg s
  | .getMeasurements p index => Sys2Proof.Machine.execGetMeasurements p index s
  | .warmReset => Sys2Proof.Machine.execWarmReset s
  | .flrVf v => Sys2Proof.Machine.execFlrVf v s
  | .flrPf0 => Sys2Proof.Machine.execFlrPf0 s
  | .flrPeer => Sys2Proof.Machine.execFlrPeer s
  | .thermalTrip => Sys2Proof.Machine.execThermalTrip s
  | .tlbEntryEviction hiveLevel place k => Sys2Proof.Machine.execTlbEntryEviction hiveLevel place k s
  | .milayPortTrained port => Sys2Proof.Machine.execMilayPortTrained port s
  | .pcieCompletion id => Sys2Proof.Machine.execPcieCompletion id s
  | .milayAcknowledgement id => Sys2Proof.Machine.execMilayAcknowledgement id s
  | .peerShootdownRequest kind size vf addr => Sys2Proof.Machine.execPeerShootdownRequest kind size vf addr s
  | .droopStretch tile depth => Sys2Proof.Machine.execDroopStretch tile depth s
  | .l1LineEviction tile line => Sys2Proof.Machine.execL1LineEviction tile line s

end Sys2Proof.Machine
end

