-- ==== Sys2Proof/Machine/Turn.lean ====
section
/-! DEFINITION. Whose turn it is. In one step one agent of the device moves: a core has a tile cycle, in which it issues an instruction
of one of its contexts (R9), or another agent does something that can happen now. Which of them comes first is a free value wherever more than one can
move; a core's own choice among its contexts is R9's. -/

namespace Sys2Proof.Machine

/-! Time (R40, R296; log 20). -/

/-- One calendar cycle passes: flits leave in its slot, and at a waggle boundary the border agents come first (R40, R299, R354). -/
def State.tick (s : State) : State :=
  ({ s with cal := s.cal + 1,
            agenda := if (s.cal + 1) % 4096 = 0 then .waggleBoundary :: s.agenda else s.agenda } : State).sendFlits

/-! The rotation of a core (R9, R373). -/

/-- Whether a context can be given a turn: it is live, its helper is not committing, and the resident handler, once entered, is
the only one on its core; a yard that is being saved or torn down runs no handler. -/
def State.canTurn (s : State) (c : Nat) : Bool :=
  let x := s.ctx c
  let n := cidSlot c
  let k := s.core (cidCore c)
  let y := s.recState (s.yardOf (cidTile c))
  x.live && (match x.helper with | some h => h.halting.isNone | none => true) &&
  (if k.handler then n == 11 && y != 3 && y != 5 else n != 11)

/-- The slots of a core in the order in which R9 looks at them. -/
def rotation (last : Nat) : List Nat := (List.range 12).map (fun i => (last + 1 + i) % 12)

/-- Whether a context of a core can be given a turn. -/
def State.coreRuns (s : State) (k : Nat) : Bool := (List.range 12).any (fun n => s.canTurn (coreCid k n))

/-- The cores that hold a context. -/
def State.busyCores (s : State) : List Nat := (s.ctxs.map (fun (p : Nat × Ctx) => cidCore p.1)).eraseDups

/-- When the next tile cycle of a core begins that begins in the present calendar cycle or later (R9, R360). -/
def State.nextCycle (s : State) (k : Nat) : Nat := (s.tile (coreTile k)).edge (Nat.max (s.core k).clk (10 * s.cal))

/-- The cores that run and have a tile cycle that begins in the present calendar cycle, and no other begins earlier (log 20). -/
def State.dueCores (s : State) : List Nat :=
  let due := s.busyCores.filter (fun k => s.coreRuns k && decide (s.nextCycle k < 10 * s.cal + 10))
  due.filter (fun k => due.all (fun j => decide (s.nextCycle k ≤ s.nextCycle j)))

/-! What other agents can do. -/

/-- What a core's queues, links, sequencer and slice can do. -/
def coreMoves (s : State) (k : Nat) (x : Core) : List Instr :=
  (if x.vq.isEmpty && x.held.isEmpty then [] else [.vectorExecute k, .engineAccept k]) ++
  (x.flight.map (fun (f : Flight) => f.dir)).eraseDups.map (fun d => Instr.linkValueArrival k d) ++
  (if x.requeue.isEmpty then [] else [.helperTaskStart (coreTile k)]) ++
  (if s.sliceOver k then [.sliceExpiry k] else [])

/-- What the engines, agents and caches of a tile can do. -/
def tileMoves (t : Nat) (x : Tile) : List Instr :=
  (if x.mq.isEmpty then [] else [.matrixCommandStart t]) ++
  (if x.mrun.isEmpty then [] else [.matrixCommandRetire t, .mmpPairCommit t, .mmpPairTimeout t]) ++
  (if x.half.isSome then [.mmpPairCommit t, .mmpPairTimeout t] else []) ++
  (if x.wq.isEmpty then [] else [.waxLoadComplete t]) ++
  (if x.wq.isEmpty && x.streams.isEmpty then [] else [.streamStart t]) ++
  (if x.streams.isEmpty then [] else [.streamEnd t]) ++
  (if x.eng.isEmpty then [] else [.engineWriteHome t]) ++
  (x.eng.map (fun e => e.eng)).eraseDups.map (fun e => Instr.engineCommandComplete t e) ++
  (if x.ready.isEmpty then [] else [.helperTaskStart t]) ++
  (if x.pinDue.isSome then [.pinSwitchComplete t] else []) ++
  (if x.leaving.isSome then [.elasticReturnComplete t] else []) ++
  (if x.cede.isSome then [.cedeRequestExpiry t] else []) ++
  (if x.move.isSome then [.lossGraceExpiry t, .handoverDrainComplete t] else []) ++
  (if x.wcb.isEmpty then [] else [.writeCombineDrain t])

/-- What a context's halting helper can do. -/
def ctxMoves (c : Nat) (x : Ctx) : List Instr :=
  match x.helper with | some h => (if h.halting.isSome then [.taskCommit c] else []) | none => []

/-- The yards that a list of records names. -/
def State.launchYards (s : State) : List Nat :=
  (s.launches.map (fun (l : Launch) => l.yard) ++ s.graphs.map (fun (g : Graph) => g.yard) ++ s.phases.map (fun (p : Phase) => p.yard)).eraseDups

/-- What the dispatchers can do. -/
def State.launchMoves (s : State) : List Instr :=
  s.launchYards.flatMap (fun y => [Instr.taskDispatch y, Instr.successorDispatchable y]) ++
  s.launches.map (fun l => Instr.launchAging l.yard l.job l.id)

/-- The domains of the collectives that wait at the engines. -/
def State.collDomains (s : State) : List (Nat × Nat) :=
  (s.tiles.flatMap (fun (p : Nat × Tile) => (p.2.eng.filter (fun e => e.eng == 2)).map (fun e =>
    (s.yardOf p.1, ((collBar e.q.sreg).extractLsb' 32 16).toNat)))).eraseDups

/-- The row of a tenant's command in progress (R365). -/
def tenantMove (v : Nat) (x : Tenant) : List Instr := (tenantCommand v x.cmd).toList

/-- What barriers, collectives, invalidations, dead tags, the calendar and the routes can do. -/
def State.sharedMoves (s : State) : List Instr :=
  (s.rounds.map (fun r => Instr.superstepBoundary r.yard r.dom)).eraseDups ++
  s.collDomains.map (fun p => Instr.collectiveComplete p.1 p.2) ++
  s.shoots.map (fun x => Instr.shootdownComplete x.cid) ++
  s.dead.map (fun (p : Nat × Nat) => Instr.tagDrainComplete p.1) ++
  s.calSince.map (fun (p : Nat × Nat) => Instr.calendarApply p.1) ++
  (if s.routes.isEmpty && !(s.mem.any (fun (p : Host.Cell) =>
      decide (configPa 0x130000 ≤ p.1) && decide (p.1 < configPa 0x130180))) then []
   else (List.range 48).map (fun d => Instr.routeEntryApply d))

/-- Every row that an agent other than a core's pipeline might perform now. -/
def State.rows (s : State) : List Instr :=
  s.agenda.take 1 ++
  s.cores.flatMap (fun (p : Nat × Core) => coreMoves s p.1 p.2) ++ s.tiles.flatMap (fun (p : Nat × Tile) => tileMoves p.1 p.2) ++
  s.ctxs.flatMap (fun (p : Nat × Ctx) => ctxMoves p.1 p.2) ++
  (s.hives.filter (fun (p : Nat × Hive) => p.2.misses.any (fun m => m.id == 0))).map (fun (p : Nat × Hive) => Instr.tlbMissRecord p.1) ++
  s.launchMoves ++ s.tenants.flatMap (fun (p : Nat × Tenant) => tenantMove p.1 p.2) ++ s.sharedMoves

/-- The state in which a row is performed: the agenda's own row has left it. -/
def State.forRow (s : State) (i : Instr) : State := if s.agenda.head? = some i then { s with agenda := s.agenda.drop 1 } else s

/-- Whether a row does something now. -/
def State.moves (s : State) (i : Instr) : Bool :=
  match exec i (s.forRow i) with
  | .next t => t != s
  | _ => false

/-- What can come next: a row of another agent, a tile cycle of a core, the end of the calendar cycle, or what may come at any time: a cache lets go of a line
(R104, R110), the data of a line that L2 holds goes bad (R310; log 67), another device or the host answers a request (R111, R385), a request is given up (R393), a line comes that PREF has asked for (R185), a step's copies are
complete (R379), and the management core carries out the command that port A's doorbell has submitted (R394). -/
inductive Choice where
  | row (i : Instr)
  | turn (core : Nat)
  | tick
  | writeBack (tile line : Nat)
  | dropL1 (tile line : Nat)
  | dropL2 (line : Nat)
  | decay (line : Nat)
  | answer (id : Nat)
  | acknowledge (id : Nat)
  | giveUp (id : Nat)
  | stepDone (v : Nat)
  | fillAhead (tile : Nat)
  | serveA
deriving DecidableEq, Repr

/-- What a choice does that is neither a row of State.rows nor a turn. -/
def State.freely (s : State) : Choice → Host.Outcome State Fault Refusal
  | .row _ => .next s
  | .turn _ => .next s
  | .tick => .next s.tick
  | .writeBack t l => execL1Writeback t l s
  | .dropL1 t l => execL1LineEviction t l s
  | .dropL2 l => execL2Eviction l s
  | .decay l => .next (if s.badLines.contains l then s else { s with badLines := s.badLines ++ [l] })
  | .answer id => execPcieCompletion id s
  | .acknowledge id => execMilayAcknowledgement id s
  | .giveUp id => execMilayAccessTimeout id s
  | .stepDone v => execCheckpointStepComplete v s
  | .fillAhead t => .next (s.fillAhead t)
  | .serveA => .next s.serveA

/-- The choices of that kind that there are. -/
def State.atAnyTime (s : State) : List Choice :=
  s.tiles.flatMap (fun (p : Nat × Tile) => p.2.l1.flatMap (fun (q : Nat × CacheLine) => [Choice.writeBack p.1 q.1, Choice.dropL1 p.1 q.1])) ++
  s.l2.flatMap (fun (p : Nat × L2Line) => [Choice.dropL2 p.1, Choice.decay p.1]) ++
  (s.remotes.filter (fun r => !r.acked)).flatMap (fun r =>
    if r.pcie then [Choice.answer r.id] else [Choice.acknowledge r.id, Choice.giveUp r.id]) ++
  (s.steps.filter (fun x => !x.complete)).map (fun x => Choice.stepDone x.yard) ++ 
  (s.tiles.filter (fun (p : Nat × Tile) => !p.2.ahead.isEmpty)).map (fun p => Choice.fillAhead p.1) ++ (if s.mgmt.busyA then [.serveA] else [])

/-- Whether one of them does something now. -/
def State.frees (s : State) (x : Choice) : Bool :=
  match s.freely x with
  | .next t => t != s
  | _ => false

/-- Everything that can come next: a calendar cycle ends when every core has had the tile cycles that begin in it (R9, R296). -/
def State.choices (s : State) : List Choice :=
  (s.rows.filter (fun i => s.moves i)).map Choice.row ++ s.atAnyTime.filter (fun x => s.frees x) ++
  (if s.dueCores.isEmpty then [.tick] else s.dueCores.map Choice.turn)

/-! A core's tile cycle (R9, R35, R308). -/

/-- What a step does: it performs a row in a state, raises a precise cause at the instruction of the context whose turn it is, or has
ended already. -/
inductive Plan where
  | run (i : Instr) (s : State)
  | raise (c : Cause) (tval : Word) (s : State)
  | out (o : Host.Outcome State Fault Refusal)

/-- How a plan ends. -/
def Plan.outcome : Plan → Host.Outcome State Fault Refusal
  | .run i s => exec i s
  | .raise c tval s => runRaw (trap c tval) s
  | .out o => o

/-- A plan whose state is changed first; one that has ended takes the change in its next state. -/
def Plan.after (p : Plan) (f : State → State) : Plan :=
  match p with
  | .run i s => .run i (f s)
  | .raise c tval s => .raise c tval (f s)
  | .out (.next s) => .out (.next (f s))
  | .out o => .out o

/-- What comes of a context that is looked at: it issues, it issues an instruction that then waits, an event comes before its next
instruction, or it is not ready, and what it has asked for stands. -/
inductive Attempt where
  | issues (p : Plan)
  | begins (s : State)
  | comes (p : Plan)
  | waits (s : State)

/-- A plan that ends in a wait of its context issues nothing, but for an instruction that issues and then waits (R9, R35). -/
def Plan.attempt (p : Plan) (c : Nat) : Attempt :=
  match p.outcome with
  | .next u =>
    if (u.ctx c).wait = .none then .issues p
    else match p with
      | .run i _ => if (u.ctx c).wait.issued then .begins (u.modCtx c (fun x => { x with issued := some i })) else .waits u
      | _ => .waits u
  | _ => .issues p

/-- The event that comes before the next instruction of a context, where there is one (R308). -/
def State.boundary (s : State) (c : Nat) : Option Instr :=
  if s.overBudget c then some (.budgetExceeded c)
  else if s.lateDue c then some (.lateCauseReport c)
  else if s.stepDue c then some (.singleStepTrap c)
  else if s.recordDue c then some (.taskFaultRecord c)
  else if s.saveAllowed c then some (.contextSave c)
  else if s.upcallDue c then some (.upcallEntry c)
  else none

/-- The windows that close before the next instruction issues (R152); that of a replayed instance when it can (R239). -/
def State.due (s : State) (w : Window) : Bool := if w.replay then s.windowReady s.cur w else decide (w.last < s.me.pos)

/-- Close the windows that are due. -/
def closeDue : M Unit := fun s => closeThese s.due s

/-- The instruction word at the program counter (R92, R144, R385). -/
def fetch : M IWord := do
  let s ← get
  match (← checkM s.me.pc 4 .fetch) with
  | none => return BitVec.ofNat 32 (leNat (s.tmBytes s.myTile (ptrView s.me.pc) (ptrOff s.me.pc) 4))
  | some l => return BitVec.ofNat 32 (leNat (← fetchShared l))
where
  /-- Four bytes of a shared line: at home, or from where another device or the host holds them. -/
  fetchShared (l : Leaf) : M (List Byte) := fun s =>
    if l.pcie then (do pcieRead l 4; fun s => .ok (s.bytes l.pa 4) s) s
    else if s.fetchOpen s.myTile l.pa then
      (do
        if paSpace l.pa = 0xA then remoteRead l l.pa 4
        fun s => .ok (s.homeRead (s.tagOf s.cur) l.pa 4 l.pg) s) s
    else .error (.wait .owned (BitVec.ofNat 64 l.pa)) s

/-- What comes before an instruction is decoded. -/
def prologue : M IWord := do
  closeDue
  fetch

/-- A word whose operands its instruction's description reserves: the checks of R147 that come before the description come first, and a
prefix that the instruction does not take is discarded (R157; log 62). -/
def barred (i : Instr) : M Unit := do
  match vInfo i with
  | none => noPrefix
  | some d =>
    let w ← takePfx d.use
    trapIf (!(d.blocks.all (fun q => blockOk q d.ext))) .blockExtent 0
    match vExtra i (pfxOf d.dflt w) with
    | some c => trap c 0
    | none => pure ()
  match i with
  | .mfs _ n => discard (srCheck n.toNat)
  | .trapSuppRead _ => discard (srCheck 0x451)
  | _ => pure ()
  trap .reserved 0

/-- A tile cycle in which a context is not ready is charged to it (R35). -/
def State.charge (s : State) (c : Nat) : State := s.modCtx c (fun x => x.setSreg 0x44B (x.sreg 0x44B + 1))

/-- The instruction at the program counter of the context whose turn it is (R147, R150). -/
def State.issue (s : State) : Attempt :=
  match prologue s with
  | .error (.trap e tv) t => Plan.attempt (.raise e tv t) s.cur
  | .error e t => Plan.attempt (.out (runRaw (fun _ => .error e t) s)) s.cur
  | .ok w t =>
    match decode w with
    | .ok i => Plan.attempt (.run i t) s.cur
    | .zeroWord => Plan.attempt (.raise .zeroWord 0 t) s.cur
    | .reserved =>
      match decodeRow w with
      | some i => Plan.attempt (.out (runRaw (barred i) t)) s.cur
      | none => Plan.attempt (.raise .reserved 0 t) s.cur

/-- Whether nothing of a context can issue: its tile switches its clock (R361), or what a restore pushes again for it has no room yet
(R406). -/
def State.stalled (s : State) (c : Nat) : Bool :=
  (s.tile (cidTile c)).pinDue.isSome || (s.tile (cidTile c)).leaving.isSome ||
  (s.core (cidCore c)).held.any (fun q => q.cid == c && q.rel.isNone)

/-- What an event that comes before the next instruction of a context does: one whose time has come and that cannot be acted on yet holds the
context. Where its entry would close a window with a push that is refused, the cause of that comes first (R154, R297; log 75). -/
def State.event (s : State) (c : Nat) (i : Instr) : Attempt :=
  match exec i s with
  | .next u =>
    if u = s then .waits s
    else (match s.windowsReady c, s.refusal c (fun _ => true) with
      | true, some (e, tv) => .comes (.raise e tv s)
      | _, _ => .comes (.run i s))
  | _ => .comes (.run i s)

/-- A core looks at a context: a precise cause that is owed comes first, then an event, and an instruction that has issued and waits keeps the next
one from issuing. -/
def State.attempt (s : State) (c : Nat) : Attempt :=
  let s := { s with cur := c }
  match (s.ctx c).owed with
  | some (e, tv) => if s.windowsReady c then .issues (.raise e tv (s.modMe (fun x => { x with owed := none }))) else .waits s
  | none => match s.boundary c with
    | some i => s.event c i
    | none => if s.stalled c || (s.ctx c).issued.isSome then .waits s else s.issue

/-- Whether a context is not ready in this cycle. -/
def State.unready (s : State) (c : Nat) : Bool := match s.attempt c with | .waits _ => true | _ => false

/-- The cycle passes for the contexts of the core that are not looked at: those that are not ready are charged (R35). -/
def State.pass (s : State) (cs : List Nat) : State := (cs.filter (fun c => s.unready c)).foldl (fun s c => s.charge c) s

/-- An instruction that has issued goes on, and may complete; it needs no issue of its own for that (R9, R300). An event that comes first holds
it back. -/
def State.resume (s : State) (c : Nat) : State :=
  match (if (s.ctx c).owed.isSome then none else (s.ctx c).issued), s.boundary c with
  | some i, none => (match exec i { s with cur := c } with | .next u => u | _ => s)
  | _, _ => s

/-- A context issues: its slot is the last that did, and its core is busy in this cycle (R9, R39). -/
def State.noteIssue (s : State) (c : Nat) : State :=
  (s.modCore (cidCore c) (fun k => { k with lastSlot := cidSlot c })).modTile (cidTile c) (fun t => { t with busy := t.busy + 1 })

/-- The first context in order that is ready issues, and those before it that are not ready are skipped and charged (R9, R35). -/
def State.firstReady (s : State) : List Nat → Plan
  | [] => .out (.next s)
  | c :: cs =>
    match s.attempt c with
    | .waits t => (t.charge c).firstReady cs
    | .issues p => p.after (fun t => (t.pass cs).noteIssue c)
    | .begins t => .out (.next ((t.pass cs).noteIssue c))
    | .comes p => p.after (fun t => t.pass cs)

/-- The contexts of a core that can be given a turn, in the order of the rotation. -/
def State.rotated (s : State) (k : Nat) : List Nat :=
  ((rotation (s.core k).lastSlot).map (coreCid k)).filter (fun c => s.canTurn c)

/-- The next tile cycle of a core begins. -/
def State.beginCycle (s : State) (k : Nat) : State := s.modCore k (fun x => { x with clk := s.nextCycle k + 1 })

/-- What comes in a tile cycle of a core before an issue: what is due on its links arrives, the sequencer pushes a replay, and the
instructions that wait go on (R9, R299, R353). -/
def State.cycleBegun (s : State) (k : Nat) : State :=
  let s := ((s.beginCycle k).landDue k).replayPush k
  (s.rotated k).foldl (fun s c => s.resume c) s

/-- A tile cycle of a core: the first ready context in the rotation issues (R9). -/
def State.turn (s : State) (k : Nat) : Plan :=
  let s := s.cycleBegun k
  s.firstReady (s.rotated k)

/-- Carry out a choice. -/
def State.carryOut (s : State) : Choice → Plan
  | .row i => .run i (s.forRow i)
  | .turn k => s.turn k
  | x => .out (s.freely x)

/-- What comes at a fixed cycle, and has come: a superstep's boundary, 64 calendar cycles after the last member (R203, R300), and before
it the arrivals of its members; the end of a tile's clock switch (R361); the calendar bytes that take effect (R356); the ends of a slice
(R316), of a cede request (R60), of a loss grace (R47), of an MMP half (R249) and of an access that no port carries (R393); the aging of a
launch (R344); and the release of the management semaphore (R395). -/
def State.timed (s : State) : Option Choice :=
  match s.agenda.find? (fun i => match i with
      | .barrierArrival c _ _ => (s.ctx c).barTok == 2 && decide ((s.ctx c).barAt + 64 ≤ s.cal)
      | _ => false) with
  | some i => some (.row i)
  | none =>
    let due (n : Option Nat) : Bool := match n with | some n => decide (n ≤ s.cal) | none => false
    let rows :=
      (s.rounds.filter (fun r => r.tsync && !r.full && decide (r.members ≤ r.arrived.length) && decide (r.since + 64 ≤ s.cal))).map
        (fun r => Instr.superstepBoundary r.yard r.dom) ++
      s.tiles.flatMap (fun (p : Nat × Tile) => (if due p.2.pinDue then [Instr.pinSwitchComplete p.1] else []) ++
        (if due p.2.leaving then [Instr.elasticReturnComplete p.1] else [])) ++
      (s.calSince.filter (fun (p : Nat × Nat) => p.2 != 0 && decide (calendarDue (p.2 - 1) ≤ s.cal))).map (fun (p : Nat × Nat) => Instr.calendarApply p.1) ++
      (s.cores.filter (fun (p : Nat × Core) => s.sliceOver p.1)).map (fun (p : Nat × Core) => Instr.sliceExpiry p.1) ++
      s.tiles.flatMap (fun (p : Nat × Tile) => (if p.2.cede.isSome then [Instr.cedeRequestExpiry p.1] else []) ++
        (if p.2.move.isSome then [Instr.lossGraceExpiry p.1] else []) ++ (if p.2.half.isSome then [Instr.mmpPairTimeout p.1] else [])) ++
      (s.launches.filter (fun l => s.aged l)).map (fun l => Instr.launchAging l.yard l.job l.id) ++
      (if s.mgmt.holder = 0 then [] else [.semTimeout])
    match rows.find? (fun i => s.moves i) with
    | some i => some (.row i)
    | none => (s.remotes.map (fun r => Choice.giveUp r.id)).find? (fun x => s.frees x)

/-- What has come at a fixed cycle happens; a row of the agenda leaves it. -/
def State.onTime (s : State) : Choice → Plan
  | .row i => .run i { s with agenda := s.agenda.erase i }
  | x => s.carryOut x

/-- What the next step does. Before boot has ended nothing else moves (R398, R401). -/
def State.plan (s : State) : Plan :=
  if !s.mgmt.powered then .out (.next s.tick)
  else if s.mgmt.boot = 0 then .run .coldReset s
  else if s.mgmt.boot ≠ 6 then .out (.next s.tick)
  else if s.agenda.head? = some .waggleBoundary then .run .waggleBoundary { s with agenda := s.agenda.drop 1 }
  else match s.timed with
    | some x => s.onTime x
    | none => match s.choices with
      | [] => .out (.next s.tick)
      | [x] => s.carryOut x
      | x :: xs =>
        let p := s.draw
        p.2.carryOut ((x :: xs).getD (p.1.toNat % (xs.length + 1)) x)

/-! The first instruction of a program (log 3). -/

/-- A control context that is about to issue at address 0 of region 0, with all rights to the region, at H. -/
def Ctx.first (x : Ctx) : Ctx :=
  { ((((x.setSreg 0x400 0).setSreg 0x401 0xFFFF).setSreg 0x402 0x1F).setSreg 0x024 0).setSreg 0x44A 0 with
      live := true, priv := .h, pc := 0, windows := [], wait := .none, waitOp := 0, barTok := 0, gains := [], lossDue := false,
      rep := Rep.empty, late := [], stepPend := false, records := [], saveReq := 0, helper := none }

/-- The entry that maps the first page of region 0 to the first page of HBM for a virtual function. -/
def firstPage (vf : Nat) : TlbE := { e0 := BitVec.ofNat 64 (2 ^ 63 + vf % 32 * 2 ^ 56 + 0xF), e1 := 0, e2 := 0, e3 := 0 }

/-- A tile that issues at once and maps that page. -/
def Tile.first (x : Tile) (vf : Nat) : Tile :=
  { Tile.reset with sr := x.sr, gl := x.gl, snap := x.snap, pend := x.pend, ev := x.ev, qk := x.qk, tlb := [firstPage vf] }

/-- The machine of s as it stands when a program has been loaded and its first instruction is next: boot has ended, tile 0's
control context is the only one, nothing else is under way, and the bytes of the instruction lie at address 0. -/
def State.loadFirst (s : State) (bs : List Byte) : State :=
  { (s.setBytes 0 bs).setSum 0 SumEnt.none with
      cur := 0, agenda := [], ctxs := [(0, (s.ctx 0).first)], cores := [], tiles := [(0, (s.tile 0).first 0)],
      hives := [], l2 := [], dead := [], lineKeys := [], launches := [], graphs := [], phases := [], rounds := [], remotes := [],
      shoots := [], calSince := [], tenants := [], steps := [], combs := [], calApplied := [], deadChannels := [], badLines := [],
      mgmt := { s.mgmt with boot := 6, powered := true } }

end Sys2Proof.Machine
end

