-- ==== Sys2Proof/Machine/Step.lean ====
section
/-! DEFINITION. One step of the device, and the placing of an instruction where the next step fetches it. -/

namespace Sys2Proof.Machine

/-- One step of the device: what State.plan says. -/
def step (s : State) : Host.Outcome State Fault Refusal := s.plan.outcome

/-- The machine of s as it stands when a program has been loaded and its first instruction is next (log 3): boot has ended, the
control context of tile 0 runs with code at address 0, and the bytes of the instruction lie there. -/
def State.withFetchWord (s : State) (nbits w : Nat) : State := s.loadFirst (bytesOfWord (BitVec.ofNat 32 (w % 2 ^ nbits)))

end Sys2Proof.Machine
end

