-- ==== Sys2Proof/Safety.lean ====
section
/-! DEFINITION. The terms that claims about the device are stated in: when a context can execute, its operands and results, what an
instruction leaves as it was, and what every step keeps. -/

namespace Sys2Proof.Machine

/-! When an instruction executes. -/

/-- The context whose turn it is can execute an instruction that takes no prefix: it is live, and no prefix is pending (R15, R157). -/
def State.canExecute (s : State) : Prop := s.me.live = true ∧ (s.me.sreg 0x024).getLsbD 63 = false

/-- The queues that an instruction names let it issue: the checks of R136, R137, R246 and R297 pass. GateOpens says when. -/
def State.operandsReady (s : State) (pops pushes : List Reg) (now : Bool) : Prop := gate pops pushes now s = .ok () s

/-- Every open window of the context whose turn it is can close (R154). -/
def State.canClose (s : State) : Prop := s.windowsReady s.cur = true

/-- The state once those windows have closed (R153). -/
def State.closed (s : State) : State := s.closeWindows s.cur (fun _ => true)

/-- No push of an open window is refused at its close: its link takes requests and its slot permits the send (R297). -/
def State.closesClean (s : State) : Prop := s.refusal s.cur (fun _ => true) = none

/-- The same for an instruction that closes the windows first (R154): they can close, and the instruction then runs in s.closed. -/
def State.canExecuteClosed (s : State) : Prop :=
  s.me.live = true ∧ s.canClose ∧ s.closesClean ∧ (s.closed.me.sreg 0x024).getLsbD 63 = false

/-! Operands and results (R136, R160). -/

/-- G[r] as a source, and the state after reading it: a queue pops. -/
def State.read (s : State) (r : Reg) : Word × State := if isQueue r then s.pop r else (s.me.greg r, s)

/-- The state after G[r] := x at issue. -/
def State.write (s : State) (r : Reg) (x : Word) : State := s.applyWrite s.cur (.g r x)

/-- The instruction completes and the next one follows (R152, R174). -/
def State.goOn (s : State) : State := s.modMe (fun x => x.advance (cidSlot s.cur))

/-- The instruction completes and control goes to t. -/
def State.jumpTo (s : State) (t : Word) : State := s.modMe (fun x => (x.completed (cidSlot s.cur)).goTo t)

/-- The state after an instruction with sources A and B and the result f(A, B) in G[d]. -/
def State.result2 (s : State) (d a b : Reg) (f : Word → Word → Word) : State :=
  ((((s.read a).2.read b).2).write d (f (s.read a).1 ((s.read a).2.read b).1)).goOn

/-- The state after an instruction with the source A and the result f(A) in G[d]. -/
def State.result1 (s : State) (d a : Reg) (f : Word → Word) : State := ((s.read a).2.write d (f (s.read a).1)).goOn

/-- A long-latency result x for G[d]: a window holds it, which closes when the position after the last of la further ones issues; with
la 0 that is the next instruction (R152, R153, R155). -/
def State.long (s : State) (la : BitVec 4) (d : Reg) (x : Word) : State :=
  s.modMe (fun c =>
    { c with windows := c.windows ++ [{ last := c.pos + la.toNat, seq := none, ready := true, replay := false, writes := [.g d x] }] })

/-- The state after a long-latency instruction with sources A and B and the result f(A, B) for G[d]. -/
def State.resultLong (s : State) (d a b : Reg) (la : BitVec 4) (f : Word → Word → Word) : State :=
  ((((s.read a).2.read b).2).long la d (f (s.read a).1 ((s.read a).2.read b).1)).goOn

/-- The state after an instruction with sources A and B that also reads the old G[d], and the result f(old, A, B). -/
def State.result3 (s : State) (d a b : Reg) (f : Word → Word → Word → Word) : State :=
  let t := ((s.read a).2.read b).2
  ((t.read d).2.write d (f (t.read d).1 (s.read a).1 ((s.read a).2.read b).1)).goOn

/-- A precise cause of the current instruction is taken: the windows close, and the context goes where the cause goes (R156, R305,
R314); a push that is refused at that close has its cause first (R297). t is the state in which it is raised, s the one before the
instruction. -/
def State.raised (s t : State) (c : Cause) (tval : Word) : State := t.raise s.me.pc c tval

/-- An access of n bytes at p passes its checks (R92) and reaches tile memory. CheckedAccesses says when. -/
def State.atTm (s : State) (p : Word) (n : Nat) (k : AKind) : Prop := checkM p n k s = .ok none s

/-- An access of n bytes at p passes its checks and reaches the shared leaf l; t is the state after its translation. -/
def State.atShared (s : State) (p : Word) (n : Nat) (k : AKind) (l : Leaf) (t : State) : Prop := checkM p n k s = .ok (some l) t

/-- The context whose turn it is runs no task and is no TSC, and a leaf lies in this device's memory: the common case of a
shared access (R12, R110). -/
def State.controlAt (s : State) (l : Leaf) : Prop := s.inTask = false ∧ isTsc s.cur = false ∧ paSpace l.pa = 0

/-- An access can be served at a line's home: no engine or solo task owns the line, and L2 holds it or has room (R26, R122, R368). -/
def State.unowned (s : State) (pa : Nat) : Prop := s.lineFree pa none = true

/-- The tile of the context whose turn it is can reach a line at home now: it is unowned, and the calendar lets the request and its
answer pass (R354, R355). -/
def State.reachesHome (s : State) (pa : Nat) : Prop := s.homeOpen s.myTile pa none = true

/-- That tile can bring the line into its L1: it reaches the line's home, and L1 holds the line or has room (R90). -/
def State.canFill (s : State) (pa : Nat) : Prop := s.fillable s.myTile pa = true

/-- An optional source and the state after reading it: no register is a zero. -/
def State.readOpt (s : State) (r : Option Reg) : Word × State :=
  match r with
  | some r => s.read r
  | none => (0, s)

/-- The pending prefix, 0 when there is none, and whether an operation can take it (R157). -/
def State.pfx (s : State) : IWord := if (s.me.sreg 0x024).getLsbD 63 then (s.me.sreg 0x024).setWidth 32 else 0
def State.pfxFits (s : State) (u : PfxUse) : Prop := (s.me.sreg 0x024).getLsbD 63 = true → u.neutral s.pfx = true

/-- The state after a coprocessor instruction has been pushed and has completed its issue (R209, R242): its entry stands at the
end of its core's queue with the next sequence number, an instruction with register results has a window, a recording buffer
takes it, and the prefix is used up. -/
def State.pushed (s : State) (i : Instr) (pfx : IWord) (a b qkw : Word) (win : Option (BitVec 4)) (rec : Bool) : State :=
  let n := (s.core s.myCore).seq
  let t := s.enqueue s.myCore (s.capture s.cur i pfx a b qkw)
  let u := match win with
    | some la => t.openWindow s.cur (s.me.pos + la.toNat) n false
    | none => t
  (u.modMe (fun x => { x.setSreg 0x024 0 with rep := if rec then x.rep.record ((encode i).getD 0) pfx else x.rep })).goOn

/-- The device runs: it has power, boot has ended, and nothing is due at this cycle, as a waggle boundary is (R40, R203, R398, R401). -/
def State.running (s : State) : Prop :=
  s.mgmt.powered = true ∧ s.mgmt.boot = 6 ∧ s.agenda.head? ≠ some .waggleBoundary ∧ s.timed = none

/-- What comes of a context that is looked at, as a step. -/
def Attempt.outcome : Attempt → Host.Outcome State Fault Refusal
  | .issues p => p.outcome
  | .comes p => p.outcome
  | .begins s => .next s
  | .waits s => .next s

/-! What an instruction leaves as it was. -/

/-- Everything that a read of memory can meet: bytes and exact-sum entries at home, tile memory, accumulators, caches and
write-combining buffers. -/
def State.sameStore (s t : State) : Prop :=
  (∀ a, t.byte a = s.byte a) ∧ (∀ w, t.sumEnt w = s.sumEnt w) ∧ (∀ u v o, t.tmByte u v o = s.tmByte u v o) ∧
  (∀ u r c, t.accWord u r c = s.accWord u r c) ∧
  (∀ u, (t.tile u).l1 = (s.tile u).l1 ∧ (t.tile u).ro = (s.tile u).ro ∧ (t.tile u).wcb = (s.tile u).wcb)

/-- The special registers that tiles and cores hold. -/
def State.sameSpecials (s t : State) : Prop :=
  (∀ u n, (t.tile u).sreg n = (s.tile u).sreg n) ∧ ∀ k n, (t.core k).sreg n = (s.core k).sreg n

/-- Every context but the one whose turn it is. -/
def State.sameOthers (s t : State) : Prop := t.cur = s.cur ∧ ∀ c, c ≠ s.cur → t.ctx c = s.ctx c

/-- The registers of a context but some general registers and some special registers; its privilege too. -/
def Ctx.sameBut (x y : Ctx) (gs : List Reg) (srs : List Nat) : Prop :=
  (∀ r, r ∉ gs → y.greg r = x.greg r) ∧ (∀ n, n ∉ srs → y.sreg n = x.sreg n) ∧ (∀ k, y.vreg k = x.vreg k) ∧
  (∀ k, y.mreg k = x.mreg k) ∧ y.priv = x.priv

/-- The count register of a loop whose last instruction is at the program counter: it counts down with that instruction (R174). -/
def Ctx.loopRegs (x : Ctx) : List Reg :=
  if x.looping && x.pc + 4 == x.loopEnd then [(x.sreg 0x031).extractLsb' 16 5] else []

/-! What every step keeps. -/

/-- The canonical form of a memory: addresses strictly rising, no byte listed that an unlisted address reads as. -/
def Memory.wf (m : List Host.Cell) : Bool := SMap.wf emptyByte m

/-- Memory and tile memory in their canonical form. -/
def State.memoryOk (s : State) : Prop := Memory.wf s.mem = true ∧ Memory.wf s.tm = true

end Sys2Proof.Machine
end

