-- ==== Sys2Proof/Certificates/Slice0/Obligations.lean ====
section
/-! DEFINITION. What the provers are asked to prove of the model: the rules of the spec that say what the machine and its
instructions do. Where a statement rests on a choice of the model's own, its docstring says so and names the log entry. -/

open Sys2Proof Sys2Proof.Machine

/-! The device. -/

/-- After reset no context exists, nothing is mapped, cached or owned, every tile is on elastic timing and in no comb, no byte of memory
has been written, the measurement registers are zero bytes (R399) and the special registers hold their reset values. Where
the spec states no reset value the registers' zero is the model's choice (log 2), and so is what unwritten memory reads as (log 1). -/
def Obligations.ResetLeavesNothingRunning : Prop :=
  (∀ c, (State.reset.ctx c).live = false ∧ (∀ n, (State.reset.ctx c).sreg n = srReset n) ∧
    (∀ r, (State.reset.ctx c).greg r = 0) ∧ (∀ k, (State.reset.ctx c).vreg k = 0) ∧
    (∀ k, (State.reset.ctx c).mreg k = if k = 0 then BitVec.allOnes 64 else 0)) ∧
  (∀ t, (State.reset.tile t).pinned = false ∧ State.reset.combOf t = none ∧ (State.reset.tile t).tlb = [] ∧
    (State.reset.tile t).ev = 0 ∧ ∀ l, ((State.reset.tile t).line l).present = false) ∧
  (∀ a, State.reset.byte a = emptyByte a ∧ (State.reset.sumEnt a).live = false ∧ (State.reset.l2line a).present = false) ∧
  (∀ n, State.reset.mgmt.mreg n = List.replicate 64 0) ∧ State.reset.mgmt.boot = 0 ∧ State.reset.cal = 0

/-- One step carries out one choice: the only one, or any one of several, which a free value picks; every core whose tile cycle is next has
its turn among them, and the calendar cycle ends when none is left. What is due at this cycle comes first (log 20). In a core's turn what has
arrived is taken, the instructions that wait go on, and the first context of the rotation that is ready issues; one that is not ready is skipped and
charged for the cycle (R9, R35). A context at whose boundary nothing is due runs the instruction that the word at its program counter decodes to;
only where that ends in a wait with nothing begun does the core look at the next context. -/
def Obligations.StepRunsTheDecodedInstruction : Prop :=
  (∀ s : State, (s.dueCores = [] → Choice.tick ∈ s.choices) ∧ ∀ k ∈ s.dueCores, Choice.turn k ∈ s.choices) ∧
  (∀ (s : State) (x : Choice), s.running → s.choices = [x] → step s = (s.carryOut x).outcome) ∧
  (∀ s : State, s.running → 2 ≤ s.choices.length → ∃ x, x ∈ s.choices ∧ step s = (s.draw.2.carryOut x).outcome) ∧
  (∀ (s : State) (i : Instr), s.mgmt.powered = true → s.mgmt.boot = 6 → s.agenda.head? ≠ some .waggleBoundary → s.timed = some (.row i) →
    step s = exec i { s with agenda := s.agenda.erase i }) ∧
  (∀ (s : State) (k : Nat), let u := s.cycleBegun k
    s.carryOut (.turn k) =
      u.firstReady (((rotation (u.core k).lastSlot).map (coreCid k)).filter (fun c => u.canTurn c))) ∧
  (∀ (s v : State) (c : Nat) (i : Instr), (s.ctx c).owed = none → (s.ctx c).issued = some i → s.boundary c = none →
    exec i { s with cur := c } = .next v → s.resume c = v) ∧
  (∀ (u : State) (c : Nat) (cs : List Nat) (w : IWord) (t : State) (i : Instr), let a : State := { u with cur := c }
    (u.ctx c).owed = none → (u.ctx c).issued = none → a.stalled c = false → a.boundary c = none → prologue a = .ok w t →
    decode w = .ok i →
    (∀ v, exec i t = .next v → (v.ctx c).wait ≠ .none → (v.ctx c).wait.issued = false →
      u.firstReady (c :: cs) = (v.charge c).firstReady cs) ∧
    (∀ v, exec i t = .next v → (v.ctx c).wait ≠ .none → (v.ctx c).wait.issued = true →
      (u.firstReady (c :: cs)).outcome =
        .next (((v.modCtx c (fun x => { x with issued := some i })).pass cs).noteIssue c)) ∧
    ((∀ v, exec i t = .next v → (v.ctx c).wait = .none) →
      (u.firstReady (c :: cs)).outcome = exec i ((t.pass cs).noteIssue c)))

/-- R92, R144: an instruction is fetched as the four little-endian bytes at the program counter, from this device's memory at
home; a TSC fetches its firmware from its local memory (log 8). A fetch that fails its check raises the check's cause with the
program counter as the trap value.

R147: a word that is no operation raises its cause precisely and has no other effect: the zero word the zero-word cause, every
other one the reserved-encoding cause. Of a word that has a row and a field outside its description, the checks that come before the
description come first: a scalar instruction's prefix is discarded (R157; log 62), and MFS raises the cause of its register. -/
def Obligations.InstructionsAreFetchedAndDecoded : Prop :=
  ((∀ (s t : State) (l : Leaf), s.atShared s.me.pc 4 .fetch l t → paSpace l.pa = 0 → t.fetchOpen t.myTile l.pa = true →
    fetch s = .ok (BitVec.ofNat 32 (leNat (t.homeRead (t.tagOf t.cur) l.pa 4 l.pg))) t) ∧
  (∀ s : State, s.atTm s.me.pc 4 .fetch →
    fetch s = .ok (BitVec.ofNat 32 (leNat (s.tmBytes (ptrTile s.myTile s.me.pc) (ptrView s.me.pc) (ptrOff s.me.pc) 4))) s) ∧
  (∀ (s : State) (e : Cause), checkPtr s s.cur s.me.pc 4 .fetch = some e → fetch s = .error (.trap e s.me.pc) s) ∧
  (∀ s : State, s.me.pc.toNat % 4 ≠ 0 → ptrTag s.me.pc < 14 → s.me.pc.extractLsb' 56 4 = 0 →
    fetch s = .error (.trap .misaligned s.me.pc) s)) ∧
  (∀ (s t : State) (w : IWord), prologue s = .ok w t → t.me.live = true → t.canClose →
    (decode w = .zeroWord → s.issue.outcome = .next (t.raised t .zeroWord 0)) ∧
    (decode w = .reserved → decodeRow w = none → s.issue.outcome = .next (t.raised t .reserved 0)) ∧
    (∀ i, decode w = .reserved → decodeRow w = some i → vInfo i = none →
      (let u := t.modMe (fun x => x.setSreg 0x024 0)
       (t.me.sreg 0x024).getLsbD 63 = true → u.canClose → s.issue.outcome = .next (t.raised u .reserved 0)) ∧
      ((t.me.sreg 0x024).getLsbD 63 = false → (∀ d n, i ≠ .mfs d n) → (∀ d, i ≠ .trapSuppRead d) →
        s.issue.outcome = .next (t.raised t .reserved 0)) ∧
      (∀ d n c x, (t.me.sreg 0x024).getLsbD 63 = false → i = .mfs d n → srCheck n.toNat t = .error (.trap c x) t →
        s.issue.outcome = .next (t.raised t c x))) ∧
    (decode w = .zeroWord ↔ w = 0))

/-- Words written out from the spec's encodings decode to the instructions that they stand for: one of each family. -/
def Obligations.DecodeReadsTheSpecsWords : Prop :=
  decode 0x7C050000 = .ok (.trap 5) ∧ decode 0x7C000010 = .ok (.eret 0) ∧ decode 0x4C050030 = .ok (.upret 5) ∧
  decode 0x54A20170 = .ok (.ldRo 5 2 2 0) ∧ decode 0x68E24250 = .ok (.amoMax 7 2 8 1 0 0) ∧
  decode 0x680228F0 = .ok (.amoXadd 0 2 5 1 0) ∧ decode 0 = .zeroWord ∧ decode 1 = .reserved

/-- The encodings of R144 to R146: an instruction with an encoding decodes from its word to itself, or to the row whose word it
shares; every operand keeps every value that its field admits. -/
def Obligations.DecodeOfEncodeIsTheInstruction : Prop :=
  ∀ (i : Instr) (w : IWord), Sys2Proof.wellFormed i = true → encode i = some w → decode w = .ok (firstRow i)

/-- R147: no encoding is silently ignored: a word that decodes is the encoding of what it decodes to, so no bit of it is dropped. -/
def Obligations.EncodeOfDecodeIsTheWord : Prop :=
  ∀ (w : IWord) (i : Instr), decode w = .ok i → encode i = some w

/-- Memory is in its canonical form after reset, and stays so when a first instruction has been placed. -/
def Obligations.ResetMemoryIsCanonical : Prop :=
  State.reset.memoryOk ∧ ∀ nbits w : Nat, (State.reset.withFetchWord nbits w).memoryOk

/-- Every step keeps memory and tile memory in their canonical form: addresses strictly rising, and no byte listed that an unlisted
address reads as. -/
def Obligations.EveryStepKeepsMemoryCanonical : Prop :=
  (∀ (i : Instr) (s t : State), s.memoryOk → exec i s = .next t → t.memoryOk) ∧
  (∀ s t : State, s.memoryOk → step s = .next t → t.memoryOk)

/-! Exceptions. -/

/-- R305, R306, R307, R158: a precise cause of a context that runs no task is taken at the level its class goes to: the program
counter and the privilege change, the level's saved registers take the address, the cause and the trap value, the running loop is
suspended, the prefix moves into the level's prefix register, and nothing else of any context changes. The windows have closed
before. -/
def Obligations.TrapEntrySavesAndVectors : Prop :=
  ∀ (s : State) (c : Nat) (cause : Cause) (epc tval : Word), isHelperSlot (cidSlot c) = false →
    let x := s.ctx c
    let toH := x.goesToH cause
    let b := trapBase toH
    x.inTrap toH = false → x.sreg (b + 1) ≠ 0 →
    let t := s.deliver c How.now cause epc tval
    let y := t.ctx c
    y.pc = x.sreg (b + 1) ∧ y.priv = (if toH then .h else .s) ∧ y.sreg (b + 2) = epc ∧ y.sreg (b + 3) = BitVec.ofNat 64 cause.code ∧
    y.sreg (b + 4) = tval ∧
    y.sreg b = BitVec.ofNat 64 (0x80 + 0x10 * (match x.priv with | .u => 0 | .s => 1 | .h => 2)) ∧
    y.sreg (pfxReg toH) = (if (x.sreg 0x024).getLsbD 63 then x.sreg 0x024 else 0) ∧ y.sreg 0x024 = 0 ∧ y.sreg 0x031 = 0 ∧
    y.wait = .none ∧ y.gains = x.gains ∧ (∀ r, y.greg r = x.greg r) ∧ (∀ k, y.vreg k = x.vreg k) ∧ (∀ k, y.mreg k = x.mreg k) ∧
    (∀ n, n ∉ [b, b + 2, b + 3, b + 4, pfxReg toH, 0x024, 0x031] → y.sreg n = x.sreg n) ∧
    (∀ d, d ≠ c → t.ctx d = s.ctx d) ∧ s.sameStore t

/-- R305, R310: where a cause goes: class 7, a cause raised at H and a stage-2 fault go to H, and every other cause goes to S when
its class bit in %hv.deleg is 1 and to H otherwise.

R305: a precise cause that would go to a level already in a trap becomes a double trap at H, and one at H itself, or where a
vector is 0, is fatal: the context is gone, its tag is dead, and the core's resident handler finds the cause in %hv.cause.

R28, R314: a cause of a helper ends its task and goes, as a record, to the control context of its core; when eight are held,
%trap.supp counts it instead. That of a saved control context goes into its frame. -/
def Obligations.CausesGoToTheirLevelOrTask : Prop :=
  (∀ (x : Ctx) (cause : Cause),
    (cause.code / 64 = 7 → x.goesToH cause = true) ∧ (x.priv = .h → x.goesToH cause = true) ∧
    (cause = .stage2 → x.goesToH cause = true) ∧
    (cause.code / 64 ≠ 7 → x.priv ≠ .h → cause ≠ .stage2 → x.goesToH cause = !(x.sreg 0x806).getLsbD (cause.code / 64))) ∧
  (∀ (s : State) (c : Nat) (cause : Cause) (epc tval : Word), isHelperSlot (cidSlot c) = false →
    let x := s.ctx c
    (x.goesToH cause = false → x.inTrap false = true → x.inTrap true = false → x.sreg 0x801 ≠ 0 →
      let y := (s.deliver c How.now cause epc tval).ctx c
      y.pc = x.sreg 0x801 ∧ y.priv = .h ∧ y.sreg 0x803 = 0x1C2 ∧ y.sreg 0x802 = epc) ∧
    (cidSlot c = 0 → isTsc c = false → (x.goesToH cause = true ∧ x.inTrap true = true) ∨ (x.inTrap (x.goesToH cause) = false ∧
        x.sreg (trapBase (x.goesToH cause) + 1) = 0) →
      let t := s.deliver c How.now cause epc tval
      (t.ctx c).live = false ∧ t.isDead (s.tagOf c) = true ∧ (t.core (cidCore c)).handler = true ∧
      ((t.ctx (coreCid (cidCore c) 11)).sreg 0x803 = BitVec.ofNat 64 (if x.inTrap (x.goesToH cause) then 0x1C2 else cause.code)))) ∧
  (∀ (s : State) (c : Nat) (h : Helper) (cause : Cause) (epc tval : Word), (s.ctx c).helper = some h →
    isHelperSlot (cidSlot c) = true →
    let boss := coreCid (cidCore c) 0
    let t := s.deliver c How.now cause epc tval
    let r : TaskFault := { cause := cause, launch := h.task.launch.getD 0, index := h.task.index, toH := cause == .stage2 }
    (t.ctx c).live = false ∧
    ((s.ctx boss).live = true → (s.ctx boss).records.length < 8 → (t.ctx boss).records = (s.ctx boss).records ++ [r]) ∧
    ((s.ctx boss).live = true → 8 ≤ (s.ctx boss).records.length → (t.ctx boss).records = (s.ctx boss).records ∧
      (t.ctx boss).sreg 0x451 = if (s.ctx boss).sreg 0x451 = 0xFFFFFFFF then 0xFFFFFFFF else (s.ctx boss).sreg 0x451 + 1) ∧
    (∀ k u o, (s.ctx boss).live = false →
      s.saved.contains (s.tagOf boss, s.yardOf (cidTile boss), s.jobOf (cidTile boss)) = true →
      s.keptOf (s.tagOf boss) = some k → k.place = some (.tm u o) →
      let e := s.endTask c
      let n := e.frameGet (.tm u o) 0 / 2 ^ 52 % 16
      (n < 8 → t.frameGet (.tm u o) 0 = e.frameGet (.tm u o) 0 + 2 ^ 52 ∧ t.frameGet (.tm u o) (0x2C0 + 8 * n) = r.word.toNat) ∧
      (8 ≤ n → t.frameGet (.tm u o) 0x2B8 = Nat.min (e.frameGet (.tm u o) 0x2B8 + 1) 0xFFFFFFFF)))

/-- R309, R158: ERET with A = 0 at S or H, in a context that is not the resident handler, returns: the privilege, the program
counter, the prefix and the suspended loop come back, and intrap and ie of the level take 0 and 1. R174: a loop that does not hold
the resume address in its body ends.

R301, R309, R320: ERET at U raises the privilege cause, and so does an operand other than 0 outside the resident handler. -/
def Obligations.ReturnFromTrapRestores : Prop :=
  (∀ (s : State) (a : Reg), s.canExecuteClosed →
    let u := s.closed
    let x := u.me
    let toH := x.priv == .h
    let b := trapBase toH
    x.priv ≠ .u → cidSlot s.cur ≠ 11 → u.operandsReady [a] [] true → (u.read a).1 = 0 → (x.sreg b).extractLsb' 4 2 ≠ 3 →
    ∃ t, exec (.eret a) s = .next t ∧ t.me.pc = x.sreg (b + 2) ∧
      t.me.priv = (if (x.sreg b).extractLsb' 4 2 = 0 then .u else if (x.sreg b).extractLsb' 4 2 = 1 then .s else .h) ∧
      t.me.inTrap toH = false ∧ (t.me.sreg b).getLsbD 6 = true ∧ t.me.sreg 0x024 = x.sreg (pfxReg toH) ∧
      t.me.sreg (pfxReg toH) = 0 ∧ t.me.sreg 0x030 = SMap.get (fun _ => 0) x.susp (if toH then 2 else 0) ∧
      (let lc : Word := SMap.get (fun _ => 0) x.susp (if toH then 3 else 1)
       let lp := t.me.sreg 0x030
       t.me.sreg 0x031 = if lc.getLsbD 63 ∧
           ¬(lp ≤ x.sreg (b + 2) ∧ x.sreg (b + 2) < lp + 4 * (lc.extractLsb' 0 16).setWidth 64)
         then lc &&& ~~~(1#64 <<< 63) else lc) ∧
      x.sameBut { t.me with priv := x.priv } [] [b, pfxReg toH, 0x024, 0x030, 0x031] ∧ s.closed.sameStore t ∧ s.sameOthers t) ∧
  (∀ (s : State) (a : Reg), s.canExecuteClosed → s.closed.canClose →
    (s.me.priv = .u → exec (.eret a) s = .next (s.raised s.closed .privilege 0) ∧
      exec (.eretRestore a) s = .next (s.raised s.closed .privilege 0)) ∧
    (s.me.priv ≠ .u → cidSlot s.cur ≠ 11 → s.closed.operandsReady [a] [] true → (s.closed.read a).1 ≠ 0 →
      (s.closed.read a).2.canClose → exec (.eret a) s = .next (s.raised (s.closed.read a).2 .privilege 0)))

/-- R207: TRAP, whose word is 0x7C000000 with its operand in bits 20 to 16, raises the user-trap cause precisely, with A as the trap
value and the address of the instruction after TRAP as the resume address: at the end of a loop's body that is the one that
R174 goes on at. -/
def Obligations.TrapRaisesTheUserTrap : Prop :=
  (∀ a : Reg, encode (.trap a) = some (0x7C000000 ||| (a.setWidth 32 <<< 16))) ∧
  (∀ (s : State) (a : Reg), s.canExecuteClosed → s.closed.operandsReady [a] [] true → isHelperSlot (cidSlot s.cur) = false →
    let toH := s.closed.me.goesToH .userTrap
    s.closed.me.inTrap toH = false → s.closed.me.sreg (trapBase toH + 1) ≠ 0 →
    ∃ t, exec (.trap a) s = .next t ∧ t.me.pc = s.closed.me.sreg (trapBase toH + 1) ∧
      t.me.sreg (trapBase toH + 2) = (s.closed.me.advance (cidSlot s.cur)).pc ∧
      ((s.closed.me.looping = true → s.me.pc + 4 ≠ s.closed.me.loopEnd) → t.me.sreg (trapBase toH + 2) = s.me.pc + 4) ∧
      t.me.sreg (trapBase toH + 3) = 0x085 ∧ t.me.sreg (trapBase toH + 4) = (s.closed.read a).1 ∧
      t.me.priv = (if toH then .h else .s))

/-! Scalar instructions. -/

/-- R167, R168: the register forms that complete in one cycle write G[d] from A = G[a] and B = G[b], and nothing raises a flag. A
named queue is popped and pushed (R136).

R167: CLZ gives the number of leading zero bits and POPC the number of 1 bits of A.

R168: BFX extracts and BFI inserts a field of B; BFI and SEL read G[d] before they write it.

R169: the immediate forms, with their immediates widened as R145 says. -/
def Obligations.RegisterAndImmediateFormsWriteTheirResult : Prop :=
  (∀ (s : State) (d a b : Reg), s.canExecute → s.operandsReady [a, b] [d] true →
    exec (.add d a b) s = .next (s.result2 d a b (fun x y => x + y)) ∧
    exec (.sub d a b) s = .next (s.result2 d a b (fun x y => x - y)) ∧
    exec (.and d a b) s = .next (s.result2 d a b (fun x y => x &&& y)) ∧
    exec (.or d a b) s = .next (s.result2 d a b (fun x y => x ||| y)) ∧
    exec (.xor d a b) s = .next (s.result2 d a b (fun x y => x ^^^ y)) ∧
    exec (.sll d a b) s = .next (s.result2 d a b (fun x y => BitVec.ofNat 64 (x.toNat * 2 ^ (y.toNat % 64)))) ∧
    exec (.srl d a b) s = .next (s.result2 d a b (fun x y => BitVec.ofNat 64 (x.toNat / 2 ^ (y.toNat % 64)))) ∧
    exec (.sra d a b) s = .next (s.result2 d a b (fun x y => BitVec.ofInt 64 (x.toInt / 2 ^ (y.toNat % 64)))) ∧
    exec (.slt d a b) s = .next (s.result2 d a b (fun x y => if x.toInt < y.toInt then 1 else 0)) ∧
    exec (.slo d a b) s = .next (s.result2 d a b (fun x y => if x.toNat < y.toNat then 1 else 0)) ∧
    exec (.min d a b) s = .next (s.result2 d a b (fun x y => if x.toInt < y.toInt then x else y)) ∧
    exec (.max d a b) s = .next (s.result2 d a b (fun x y => if x.toInt < y.toInt then y else x)) ∧
    exec (.minz d a b) s = .next (s.result2 d a b (fun x y => if x.toNat < y.toNat then x else y)) ∧
    exec (.maxz d a b) s = .next (s.result2 d a b (fun x y => if x.toNat < y.toNat then y else x))) ∧
  (∀ (s : State) (d a : Reg), s.canExecute → s.operandsReady [a] [d] true →
    (∃ n : Nat, exec (.clz d a) s = .next (s.result1 d a (fun _ => BitVec.ofNat 64 n)) ∧ n ≤ 64 ∧
      (∀ i, i < n → (s.read a).1.getLsbD (63 - i) = false) ∧ (n < 64 → (s.read a).1.getLsbD (63 - n) = true)) ∧
    exec (.popc d a) s =
      .next (s.result1 d a (fun x => BitVec.ofNat 64 ((List.range 64).filter (fun i => x.getLsbD i)).length))) ∧
  (∀ (s : State) (d a b : Reg), s.canExecute →
    (s.operandsReady [a, b] [d] true →
      exec (.bfx d a b) s = .next (s.result2 d a b (fun x y =>
        if y.getLsbD 16 then BitVec.ofInt 64 (Int.bmod (x.toNat / 2 ^ (y.toNat % 64)) (2 ^ ((y.toNat / 256) % 64 + 1)))
        else BitVec.ofNat 64 (x.toNat / 2 ^ (y.toNat % 64) % 2 ^ ((y.toNat / 256) % 64 + 1))))) ∧
    (s.operandsReady [a, b] [] true →
      exec (.bfi d a b) s = .next (s.result3 d a b (fun z x y =>
        let mask : Word := BitVec.ofNat 64 ((2 ^ ((y.toNat / 256) % 64 + 1) - 1) * 2 ^ (y.toNat % 64))
        (z &&& ~~~mask) ||| (BitVec.ofNat 64 (x.toNat * 2 ^ (y.toNat % 64)) &&& mask))) ∧
      exec (.sel d a b) s = .next (s.result3 d a b (fun z x y => if z = 0 then y else x)))) ∧
  (∀ (s : State) (d a : Reg) (imm : BitVec 16) (n : BitVec 6) (u : BitVec 21), s.canExecute →
    (s.operandsReady [a] [d] true →
      exec (.addi d a imm) s = .next (s.result1 d a (fun x => BitVec.ofInt 64 (x.toNat + imm.toInt))) ∧
      exec (.andi d a imm) s = .next (s.result1 d a (fun x => x &&& BitVec.ofNat 64 imm.toNat)) ∧
      exec (.ori d a imm) s = .next (s.result1 d a (fun x => x ||| BitVec.ofNat 64 imm.toNat)) ∧
      exec (.xori d a imm) s = .next (s.result1 d a (fun x => x ^^^ BitVec.ofNat 64 imm.toNat)) ∧
      exec (.slti d a imm) s = .next (s.result1 d a (fun x => if x.toInt < imm.toInt then 1 else 0)) ∧
      exec (.slli d a n) s = .next (s.result1 d a (fun x => BitVec.ofNat 64 (x.toNat * 2 ^ n.toNat))) ∧
      exec (.srli d a n) s = .next (s.result1 d a (fun x => BitVec.ofNat 64 (x.toNat / 2 ^ n.toNat))) ∧
      exec (.srai d a n) s = .next (s.result1 d a (fun x => BitVec.ofInt 64 (x.toInt / 2 ^ n.toNat)))) ∧
    (s.operandsReady [] [d] true →
      exec (.lui d u) s = .next ((s.write d (BitVec.ofInt 64 (u.toInt * 2 ^ 16))).goOn) ∧
      exec (.auipc d u) s = .next ((s.write d (BitVec.ofInt 64 (s.me.pc.toNat + u.toInt * 2 ^ 16))).goOn)))

/-- R151, R152, R167: the long-latency forms read at issue, and a window holds their result; with la 0 it is delivered when the next
instruction issues. Division by zero and the one overflowing quotient deliver the table's values.

R153: at the close of a window its results are written to their destinations, over what was written there inside the window,
and the window is gone. A scalar destination that names no queue then reads the result. Of two windows that write one register and close
at one issue (R154), the one opened later writes last. -/
def Obligations.LongFormsDeliverAtTheirWindow : Prop :=
  (∀ (s : State) (d a b : Reg) (la : BitVec 4), s.canExecute → s.operandsReady [a, b] [d] false →
    exec (.mul d a b la) s = .next (s.resultLong d a b la (fun x y => BitVec.ofNat 64 (x.toNat * y.toNat))) ∧
    exec (.mulh d a b la) s = .next (s.resultLong d a b la (fun x y => BitVec.ofInt 64 (x.toInt * y.toInt / 2 ^ 64))) ∧
    exec (.mulhz d a b la) s = .next (s.resultLong d a b la (fun x y => BitVec.ofNat 64 (x.toNat * y.toNat / 2 ^ 64))) ∧
    exec (.div d a b la) s = .next (s.resultLong d a b la (fun x y =>
      if y = 0 then 0xFFFFFFFFFFFFFFFF else BitVec.ofInt 64 (Int.sign (x.toInt * y.toInt) * (x.toInt.natAbs / y.toInt.natAbs)))) ∧
    exec (.divz d a b la) s = .next (s.resultLong d a b la (fun x y =>
      if y = 0 then 0xFFFFFFFFFFFFFFFF else BitVec.ofNat 64 (x.toNat / y.toNat))) ∧
    exec (.rem d a b la) s = .next (s.resultLong d a b la (fun x y =>
      if y = 0 then x else
        BitVec.ofInt 64 (x.toInt - y.toInt * (Int.sign (x.toInt * y.toInt) * (x.toInt.natAbs / y.toInt.natAbs))))) ∧
    exec (.remz d a b la) s = .next (s.resultLong d a b la (fun x y =>
      if y = 0 then x else BitVec.ofNat 64 (x.toNat % y.toNat)))) ∧
  ((∀ (s : State) (w : Window) (d : Reg) (x : Word), s.me.windows = [w] → w.writes = [.g d x] → isQueue d = false →
    s.closed.me.windows = [] ∧ s.closed.me.greg d = (if d = 0 then 0 else x) ∧
    (∀ r, r ≠ d → s.closed.me.greg r = s.me.greg r) ∧ (∀ n, s.closed.me.sreg n = s.me.sreg n) ∧ s.sameStore s.closed ∧
    s.sameOthers s.closed) ∧
  (∀ (s : State) (v w : Window) (d : Reg) (x y : Word), s.me.windows = [v, w] → v.writes = [.g d x] → w.writes = [.g d y] →
    isQueue d = false → d ≠ 0 → s.closed.me.greg d = y))

/-- R171, R172: a conditional branch reads and pops its operands and goes to PC + 4 × Sext(off, 16) when its condition holds, and
otherwise to the next instruction; BQE tests a queue and pops nothing.

R173: JAL and JALR link PC + 4 and go to their target; JALR with a target off a multiple of 4 raises the misaligned cause and
writes nothing. -/
def Obligations.BranchesAndJumpsGoToTheirTarget : Prop :=
  (∀ (s : State) (a b : Reg) (off : BitVec 16), s.canExecute →
    let x := (s.read a).1
    let y := ((s.read a).2.read b).1
    let go (t : State) (p : Bool) : State := if p then t.jumpTo (BitVec.ofInt 64 (s.me.pc.toNat + 4 * off.toInt)) else t.goOn
    let t := ((s.read a).2.read b).2
    (s.operandsReady [a, b] [] true →
      exec (.beq a b off) s = .next (go t (decide (x = y))) ∧
      exec (.bne a b off) s = .next (go t (decide (x ≠ y))) ∧
      exec (.blt a b off) s = .next (go t (decide (x.toInt < y.toInt))) ∧
      exec (.bge a b off) s = .next (go t (decide (y.toInt ≤ x.toInt))) ∧
      exec (.blo a b off) s = .next (go t (decide (x.toNat < y.toNat))) ∧
      exec (.bhs a b off) s = .next (go t (decide (y.toNat ≤ x.toNat)))) ∧
    (b = 0 → exec (.bqe a b off) s = .next (go s (s.peek a).isEmpty)) ∧
    (b = 1 → a = 28 → exec (.bqe a b off) s = .next (go s (decide (8 ≤ (s.tile s.myTile).qk.length)))) ∧
    (b = 1 → 24 ≤ a.toNat → a.toNat ≤ 27 → exec (.bqe a b off) s = .next (go s (s.linkFull s.myCore (linkDir a))))) ∧
  (∀ (s : State) (d a : Reg) (imm : BitVec 16) (off : BitVec 21), s.canExecute →
    (s.operandsReady [] [d] true →
      exec (.jal d off) s = .next ((s.write d (s.me.pc + 4)).jumpTo (BitVec.ofInt 64 (s.me.pc.toNat + 4 * off.toInt)))) ∧
    (s.operandsReady [a] [d] true →
      let t : Word := BitVec.ofInt 64 ((s.read a).1.toNat + imm.toInt)
      (t.toNat % 4 = 0 → exec (.jalr d a imm) s = .next (((s.read a).2.write d (s.me.pc + 4)).jumpTo t)) ∧
      (t.toNat % 4 ≠ 0 → (s.read a).2.canClose → exec (.jalr d a imm) s = .next (s.raised (s.read a).2 .misaligned t))))

/-- R174: LOOP with a zero count skips the body; otherwise it sets the counter and the loop registers and goes on at the body. A
loop inside an active loop raises the loop-nesting cause.

R174: when the last instruction of an active loop's body completes, the counter falls and control returns to the body's start,
or the counter becomes 0, the loop ends and execution goes on after the body; elsewhere the next instruction follows. -/
def Obligations.LoopsCountTheirBody : Prop :=
  (∀ (s : State) (d a : Reg) (imm : BitVec 16), s.canExecute → d ≠ 0 → d.toNat < 24 → 1 ≤ imm.toInt →
    ((s.me.sreg 0x031).getLsbD 63 = false → s.operandsReady [a] [] true →
      ((s.read a).1 = 0 → exec (.loop d a imm) s = .next ((s.read a).2.jumpTo (s.me.pc + 4 * BitVec.ofNat 64 (imm.toNat + 1)))) ∧
      ((s.read a).1 ≠ 0 → ∃ t, exec (.loop d a imm) s = .next t ∧ t.me.greg d = (s.read a).1 ∧ t.me.sreg 0x030 = s.me.pc + 4 ∧
        t.me.sreg 0x031 = BitVec.ofNat 64 (2 ^ 63 + d.toNat * 2 ^ 16 + imm.toNat) ∧ t.me.pc = s.me.pc + 4 ∧
        s.me.sameBut t.me [d] [0x030, 0x031])) ∧
    ((s.me.sreg 0x031).getLsbD 63 = true → s.canClose → exec (.loop d a imm) s = .next (s.raised s .loopNesting 0))) ∧
  (∀ (x : Ctx) (slot : Nat), let r : Reg := (x.sreg 0x031).extractLsb' 16 5
    r ≠ 0 →
    (x.looping = true → x.pc + 4 = x.loopEnd → 1 < (x.greg r).toNat →
      (x.advance slot).pc = x.sreg 0x030 ∧ (x.advance slot).greg r = x.greg r - 1 ∧ (x.advance slot).sreg 0x031 = x.sreg 0x031) ∧
    (x.looping = true → x.pc + 4 = x.loopEnd → (x.greg r).toNat ≤ 1 →
      (x.advance slot).pc = x.pc + 4 ∧ (x.advance slot).greg r = 0 ∧ ((x.advance slot).sreg 0x031).getLsbD 63 = false) ∧
    ((x.looping = false ∨ x.pc + 4 ≠ x.loopEnd) → (x.advance slot).pc = x.pc + 4 ∧ x.sameBut (x.advance slot) [] []) ∧
    x.sameBut (x.advance slot) [r] [0x031] ∧ (x.advance slot).pos = x.pos + 1 ∧ (x.advance slot).wait = .none)

/-- The frame of the scalar register and immediate forms, R167 to R169 with R152, R165 and R174: where the form completes, no
memory, no special register of a tile or core and no other context changes, and of its own context only G[d], which a
long-latency form leaves to its window, and at the end of a loop's body the loop's registers. -/
def Obligations.ScalarFormsChangeOnlyTheirDestination : Prop :=
  ∀ (s t : State) (i : Instr) (d a b : Reg) (la : BitVec 4) (imm : BitVec 16) (n : BitVec 6) (u : BitVec 21), exec i s = .next t →
    s.canExecute →
    let frame (gs : List Reg) : Prop := s.sameStore t ∧ s.sameSpecials t ∧ s.sameOthers t ∧
      s.me.sameBut t.me (gs ++ s.me.loopRegs) [0x031]
    (i ∈ [.add d a b, .sub d a b, .and d a b, .or d a b, .xor d a b, .sll d a b, .srl d a b, .sra d a b, .slt d a b, .slo d a b,
        .min d a b, .max d a b, .minz d a b, .maxz d a b, .bfx d a b] → s.operandsReady [a, b] [d] true → frame [d]) ∧
    (i ∈ [.bfi d a b, .sel d a b] → s.operandsReady [a, b] [] true → frame [d]) ∧
    (i ∈ [.clz d a, .popc d a, .addi d a imm, .andi d a imm, .ori d a imm, .xori d a imm, .slti d a imm, .slli d a n, .srli d a n,
        .srai d a n] → s.operandsReady [a] [d] true → frame [d]) ∧
    (i ∈ [.lui d u, .auipc d u] → s.operandsReady [] [d] true → frame [d]) ∧
    (i ∈ [.mul d a b la, .mulh d a b la, .mulhz d a b la, .div d a b la, .divz d a b la, .rem d a b la, .remz d a b la] →
      s.operandsReady [a, b] [d] false → frame [])

/-! Queues and events (R66, R136, R137, R196-R199, R299). -/

/-- When the queues that an instruction names let it issue: a push stays in the comb (R137), a push to qk is the matrix group
core's (R246), a push of a bulk-synchronous job falls in one of its slots (R297), every popped queue holds a value for each pop and
every queue pushed at issue has room (R136), and every value popped carries the context's top-code bit (R66). -/
def Obligations.QueuesLetAnInstructionIssue : Prop :=
  ∀ (s : State) (pops pushes : List Reg) (now : Bool),
    s.operandsReady pops pushes now ↔
      (∀ r ∈ pushes, isQueue r = true → r ≠ 28 → s.linkClosed s.myCore (linkDir r) = false) ∧
      (28 ∈ pushes → ((s.tile s.myTile).sreg 0x241).extractLsb' 0 2 = BitVec.ofNat 2 s.myCore) ∧
      (∀ r ∈ pushes, isQueue r = true → r ≠ 28 → now = true → s.bulkSync s.myTile = true →
        s.slotOk s.myTile (dirNum (linkDir r)) = true) ∧
      (∀ r ∈ pops, isQueue r = true → countOf r pops ≤ (s.peek r).length) ∧
      (now = true → (28 ∈ pushes → (s.tile s.myTile).qk.length < 8) ∧
        ∀ r ∈ pushes, isQueue r = true → r ≠ 28 → s.linkFull s.myCore (linkDir r) = false) ∧
      (∀ r ∈ pops, isQueue r = true → ∀ v ∈ (s.peek r).take (countOf r pops), v.tc = s.me.tc)

/-- R136: a source that names a link queue or qk takes its oldest value, which leaves that queue and no other; a source that is no
queue reads its register and changes nothing. R35, R36: an instruction whose queue is empty waits: its program counter, registers,
queues and memory stay as they are. R66: a value with another top-code bit raises the top-code cause and stays.

R299: a push puts its value in flight over the link; its flit leaves at once where its sender's yard may use the slot (R355), and otherwise in the
first calendar cycle whose slot it may. Between pinned tiles it can be popped from the next calendar cycle on, and else from the third after that
slot. The oldest value of a link that is due enters the receiving core's queue behind the values there, and leaves the link; a queue of 32 values takes
none. -/
def Obligations.QueuesDeliverInOrder : Prop :=
  (∀ (s : State) (r : Reg),
    (∀ (q : QVal) (qs : List QVal), 24 ≤ r.toNat → r.toNat ≤ 27 → s.peek r = q :: qs →
      (s.read r).1 = q.val ∧ (s.read r).2.peek r = qs ∧ (s.read r).2.me = s.me ∧ s.sameStore (s.read r).2 ∧
      ∀ p : Reg, 24 ≤ p.toNat → p.toNat ≤ 29 → p ≠ r → (s.read r).2.peek p = s.peek p) ∧
    (∀ (q : QVal) (qs : List QVal), (s.tile s.myTile).qk = q :: qs →
      (s.read 28).1 = q.val ∧ ((s.read 28).2.tile s.myTile).qk = qs ∧ (s.read 28).2.me = s.me ∧ s.sameStore (s.read 28).2) ∧
    (isQueue r = false → s.read r = (s.me.greg r, s)) ∧
    (∀ d b : Reg, s.canExecute → isQueue r = true → isQueue d = false → s.peek r = [] →
      ∃ t, exec (.add d r b) s = .next t ∧ t.me.pc = s.me.pc ∧ t.me.wait = .pop ∧ t.me.waitOp = r.setWidth 64 ∧
        s.me.sameBut t.me [] [0x44B] ∧ s.sameStore t ∧ s.sameOthers t ∧ ∀ p : Reg, t.peek p = s.peek p) ∧
    (∀ (d : Reg) (q : QVal) (qs : List QVal), s.canExecute → s.canClose → isQueue r = true → isQueue d = false →
      s.peek r = q :: qs → q.tc ≠ s.me.tc → exec (.add d r 0) s = .next (s.raised s .topCode 0))) ∧
  ((∀ (s : State) (k j : Nat) (d : Dir) (v : QVal), pushCore k d = some j →
    ((s.pushLink k d v).core j).flight = (s.core j).flight ++
      [{ dir := dirOpp d, val := v,
         due := if s.mayLeaveIn (s.yardOf (coreTile k)) (coreTile k) (dirNum d) then
             some (s.cal + if (s.tile (coreTile k)).pinned = true ∧ (s.tile (coreTile j)).pinned = true then 1 else 3)
           else none }]) ∧
  (∀ (s : State) (k u : Nat) (dir : Dir) (v : QVal), neighbour (coreTile k) dir = some u →
    { dir := dir, val := v, due := none } ∈ (s.core k).flight →
    let c : State := { s with cal := s.cal + 1 }
    (c.mayLeaveIn (s.yardOf u) u (dirNum (dirOpp dir)) = true →
      { dir := dir, val := v,
        due := some (s.cal + 1 + if (s.tile u).pinned = true ∧ (s.tile (coreTile k)).pinned = true then 1 else 3) } ∈ (s.tick.core k).flight) ∧
    (c.mayLeaveIn (s.yardOf u) u (dirNum (dirOpp dir)) = false → { dir := dir, val := v, due := none } ∈ (s.tick.core k).flight)) ∧
  (∀ (s : State) (k : Nat) (dir : Dir) (v : QVal) (due : Option Nat) (f g : List Flight), (s.core k).spill = none →
    (s.core k).flight = f ++ { dir := dir, val := v, due := due } :: g → (∀ p ∈ f, p.dir ≠ dir) →
    (∀ n, due = some n → n ≤ s.cal → ((s.core k).queue dir).length < 32 →
      ∃ t, exec (.linkValueArrival k dir) s = .next t ∧ (t.core k).queue dir = (s.core k).queue dir ++ [v] ∧
        (t.core k).flight = f ++ g ∧ (∀ d, d ≠ dir → (t.core k).queue d = (s.core k).queue d) ∧
        (∀ j, j ≠ k → t.core j = s.core j) ∧ (∀ c, t.ctx c = s.ctx c) ∧ s.sameStore t) ∧
    (32 ≤ ((s.core k).queue dir).length → exec (.linkValueArrival k dir) s = .next s) ∧
    (∀ n, due = some n → s.cal < n → exec (.linkValueArrival k dir) s = .next s) ∧
    (due = none → exec (.linkValueArrival k dir) s = .next s)))

/-- R198: a pop of ev takes the lowest line available to the context, returns its number and clears only that line's bit. A
context that waits at such a pop waits on all 32 lines until it has received one, in whose cycle only a lower line still reaches it; what it
receives is what it then takes. -/
def Obligations.PopOfEvTakesTheLowestLine : Prop :=
  (∀ s : State, s.pendingLines ≠ 0 →
    ∃ n, n < 32 ∧ s.pendingLines.getLsbD n = true ∧ (∀ m, m < n → s.pendingLines.getLsbD m = false) ∧
      (s.read 29).1 = BitVec.ofNat 64 n ∧
      (∀ m, (s.read 29).2.me.got.getLsbD m = (s.me.got.getLsbD m && m != n)) ∧
      ∀ m, ((s.read 29).2.tile s.myTile).ev.getLsbD m =
        ((s.tile s.myTile).ev.getLsbD m && (s.me.got != 0 || m != n))) ∧
  (∀ (x : Ctx) (now line : Nat), x.live = true → x.wait = .pop → x.waitOp = 29 →
    x.waitsLine now line = (x.got == 0 || (x.gotAt == now && decide (line < lowestLine x.got)))) ∧
  (∀ (s : State) (line : Nat), line < 32 → cidSlot s.cur < 12 → s.me.live = true → s.me.wait = .pop → s.me.waitOp = 29 →
    (s.me.waitsLine s.cal line = true → (s.signal s.myTile line).pendingLines = 1#32 <<< line) ∧
    (s.me.waitsLine s.cal line = false → (s.signal s.myTile line).me.got = s.me.got))

/-- R127, R196: an arriving signal is received by every context of the tile that waits on its line; where none waits, the line
stays pending.

R197, R199: EVW returns and takes the lines of its mask that are available, and waits while there is none; a zero or wide mask
is an event-operand cause. EVS sends the signal of a line of a tile that it can reach; a reserved bit is an event-operand cause. -/
def Obligations.EventsReachTheirWaiters : Prop :=
  (∀ (s : State) (tile line : Nat), line < 32 →
    ∃ t, exec (.eventArrival tile line) s = .next t ∧ s.sameStore t ∧ t.cur = s.cur ∧
      (∀ c, cidTile c ≠ tile → t.ctx c = s.ctx c) ∧
      ((∀ c, cidTile c = tile → (s.ctx c).waitsLine s.cal line = false) →
        (t.tile tile).ev = (s.tile tile).ev ||| (1#32 <<< line) ∧ ∀ c, t.ctx c = s.ctx c) ∧
      (∀ c, cidTile c = tile → cidSlot c < 12 → (s.ctx c).waitsLine s.cal line = true →
        (t.ctx c).got = (if (s.ctx c).wait = .pop then 1#32 <<< line else (s.ctx c).got ||| (1#32 <<< line)) ∧
        ((∀ d, (s.ctx d).wait = .pop → (s.ctx d).got = 0) → (t.tile tile).ev = (s.tile tile).ev))) ∧
  (∀ (s : State) (d a : Reg),
    (s.canExecuteClosed → s.closed.operandsReady [a] [d] false →
      let m := (s.closed.read a).1
      let u := (s.closed.read a).2
      let ls := u.pendingLines &&& m.setWidth 32
      (m ≠ 0 → m.extractLsb' 32 32 = 0 → ls ≠ 0 → u.operandsReady [] [d] true →
        exec (.evw d a) s = .next (((u.takeLines ls).write d (ls.setWidth 64)).goOn) ∧
        (u.takeLines ls).me.got = u.me.got &&& ~~~ls ∧
        ((u.takeLines ls).tile u.myTile).ev = if u.me.got = 0 then (u.tile u.myTile).ev &&& ~~~ls else (u.tile u.myTile).ev) ∧
      (m ≠ 0 → m.extractLsb' 32 32 = 0 → ls = 0 → exec (.evw d a) s = .next ((u.unpop s.closed).beginWait .evw m)) ∧
      (m = 0 ∨ m.extractLsb' 32 32 ≠ 0 → u.canClose → exec (.evw d a) s = .next (s.raised u .eventOperand 0))) ∧
    (s.canExecute → s.operandsReady [a] [] true →
      let x := (s.read a).1
      let u := (s.read a).2
      let dest := if x.getLsbD 15 then (x.extractLsb' 16 10).toNat else u.myTile
      (x &&& ~~~(0x03FF801F : Word) = 0 → u.reaches u.myTile dest = true → u.inTask = false →
        exec (.evs a) s = .next ((u.later (.eventArrival dest (x.toNat % 32))).goOn)) ∧
      (x &&& ~~~(0x03FF801F : Word) ≠ 0 → u.canClose → exec (.evs a) s = .next (s.raised u .eventOperand 0)) ∧
      (x &&& ~~~(0x03FF801F : Word) = 0 → u.reaches u.myTile dest = false → u.canClose →
        exec (.evs a) s = .next (s.raised u .combAccess 0))))

/-! Fill words, barriers and supersteps (R100, R101, R202-R204). -/

/-- R101: an arrival counts its bytes. At the target an auto-rearming word takes one generation and one target's count for each
target reached, and any other word one generation when it first gets there; a signal reaches the word's line when it is enabled. A
malformed word (R100) only takes the overflow bit.

R204: FILLT returns the count and generation of a fill word (in bulk-synchronous mode those of the superstep's snapshot, R129),
FILLA arms the word with a new target and returns its count and overflow bit, and FILLW returns the generation once it differs from
B, and waits until then. -/
def Obligations.FillWordsCountAndAnswer : Prop :=
  (∀ (s : State) (tile view off m : Nat),
    let w := s.fillAt tile view off
    let n := w.count + m
    ∃ t, exec (.fillWordArrival tile view off m) s = .next t ∧
      let y := t.fillAt tile view off
      (w.malformed = true → y = { w with flags := Nat.lor w.flags 256 } ∧ ∀ u, t.tile u = s.tile u) ∧
      (w.malformed = false → w.target ≠ 0 → w.target ≤ n → w.rearm = true →
        y.count < w.target ∧ (∃ k, n = k * w.target + y.count ∧ y.gen = (w.gen + k) % 2 ^ 32) ∧ y.flags = w.flags ∧
        y.target = w.target ∧
        (w.enabled = true → (∀ c, cidTile c = tile → (s.ctx c).waitsLine s.cal w.line = false) →
          (t.tile tile).ev = (s.tile tile).ev ||| (1#32 <<< w.line))) ∧
      (w.malformed = false → w.target ≠ 0 → w.target ≤ n → w.rearm = false → n < 2 ^ 32 →
        y.count = n ∧ y.gen = (if w.count < w.target then (w.gen + 1) % 2 ^ 32 else w.gen) ∧ y.target = w.target ∧
        y.flags = (if w.target < n then Nat.lor w.flags 256 else w.flags)) ∧
      (w.malformed = false → (w.target = 0 ∨ n < w.target) → n < 2 ^ 32 →
        y = { w with count := n } ∧ ∀ u, t.tile u = s.tile u)) ∧
  (∀ (s : State) (d a b : Reg), s.canExecute →
    (s.operandsReady [a] [d] false →
      let p := (s.read a).1
      let u := (s.read a).2
      let w := if u.bulkSync u.myTile then u.snapWord p else u.fillWord p
      fillPtr p false u = .ok () u → u.operandsReady [] [d] true →
      exec (.fillt d a) s = .next ((u.write d (BitVec.ofNat 64 (w.count * 2 ^ 32 + w.gen))).goOn)) ∧
    (s.operandsReady [a, b] [d] false →
      let p := (s.read a).1
      let u := ((s.read a).2.read b).2
      let y := ((s.read a).2.read b).1
      let w := u.fillWord p
      let z : FillWord :=
        { target := y.toNat % 2 ^ 32, count := 0, gen := w.gen, flags := w.flags - (if w.flags.testBit 8 then 256 else 0) }
      fillPtr p true u = .ok () u → u.operandsReady [] [d] true →
      exec (.filla d a b) s = .next (((u.setFill u.myTile (ptrView p) (ptrOff p) z).write d
        (BitVec.ofNat 64 ((if w.flags.testBit 8 then 2 ^ 63 else 0) + w.count))).goOn) ∧
      (u.setFill u.myTile (ptrView p) (ptrOff p) z).fillWord p = z) ∧
    (s.canExecuteClosed → s.closed.operandsReady [a, b] [d] false → s.closed.bulkSync s.closed.myTile = false →
      let p := (s.closed.read a).1
      let u := ((s.closed.read a).2.read b).2
      let y := ((s.closed.read a).2.read b).1
      let w := u.fillWord p
      fillPtr p false u = .ok () u →
      (w.gen ≠ y.toNat % 2 ^ 32 → u.operandsReady [] [d] true → exec (.fillw d a b) s = .next ((u.write d (BitVec.ofNat 64 w.gen)).goOn)) ∧
      (w.gen = y.toNat % 2 ^ 32 → ∃ t, exec (.fillw d a b) s = .next t ∧ t.me.wait = .fillw ∧ t.me.pc = s.closed.me.pc ∧
        s.closed.sameStore t)))

/-- R202: an arrival is counted for the round of its domain in its yard: it opens a round or joins the one still collecting
arrivals, which is full once all members have arrived, and whose count starts at its last member's arrival (R300); an arrival with another member count is not counted, and its context learns of it.

R202, R203: BAR and TSYNC go on once the round in which their context has arrived is full: the context leaves the round and
acquires at yard scope, and TSYNC returns the job's superstep count. The first time round BAR releases at yard scope, sends one
arrival and waits.

R129, R201, R203: 64 calendar cycles after the last member of a superstep's round has arrived the round is full, the fill words of every tile of
its job are those of that moment, and the job's superstep count advances by 1; nothing happens before. -/
def Obligations.BarriersAndSuperstepsComplete : Prop :=
  (∀ (s : State) (c dom members : Nat), (s.ctx c).live = true → (s.ctx c).barTok = 1 → 1 ≤ members →
    ∃ t, exec (.barrierArrival c dom members) s = .next t ∧
      let yard := s.yardOf (cidTile c)
      let tag := s.tagOf c
      ((∀ r ∈ s.rounds, r.yard = yard → r.dom = dom → r.full = true ∨ r.members ≤ r.arrived.length) →
        ∃ r, t.rounds = s.rounds ++ [r] ∧ r.yard = yard ∧ r.dom = dom ∧ r.members = members ∧ r.arrived = [tag] ∧
          r.full = decide (members = 1) ∧ r.since = (s.ctx c).barAt ∧ (t.ctx c).barTok = 0) ∧
      (∀ r f g, s.rounds = f ++ r :: g → r ∉ f → r ∉ g → r.yard = yard → r.dom = dom → r.full = false →
        r.arrived.length < r.members → (∀ q ∈ f, q.yard = yard → q.dom = dom → q.full = true ∨ q.members ≤ q.arrived.length) →
        (r.members = members → r.tsync = false → ∃ q, t.rounds = f ++ q :: g ∧ q.arrived = r.arrived ++ [tag] ∧
          q.full = decide (r.members ≤ r.arrived.length + 1) ∧ q.since = Nat.max r.since (s.ctx c).barAt ∧
          (t.ctx c).barTok = 0) ∧
        (r.members ≠ members → t.rounds = s.rounds ∧ (t.ctx c).barTok = 3)) ∧
      s.sameStore t ∧ ∀ k, k ≠ c → t.ctx k = s.ctx k) ∧
  (∀ (s : State) (a d : Reg), s.canExecuteClosed → s.closed.inTask = false →
    let c := s.closed
    (c.operandsReady [a] [] true → (c.read a).1.toNat ≤ 7 →
      let u := (c.read a).2
      let bar := u.me.sreg (0x340 + (c.read a).1.toNat)
      let dom := (bar.extractLsb' 32 16).toNat
      let members := (bar.extractLsb' 0 16).toNat
      bar.getLsbD 63 = true → members ≠ 0 → u.me.barTok = 0 →
      (∀ r, u.roundOf (u.yardOf u.myTile) dom (u.tagOf u.cur) = some r → r.full = true →
        let v := u.leaveRound (u.yardOf u.myTile) dom (u.tagOf u.cur)
        exec (.bar a) s = .next ((v.acquireTile v.myTile 1).goOn)) ∧
      (u.roundOf (u.yardOf u.myTile) dom (u.tagOf u.cur) = none → ∀ v, release 1 u = .ok () v →
        ∃ t, exec (.bar a) s = .next t ∧ t.me.barTok = 1 ∧ t.me.barAt = v.cal ∧ t.me.wait = .bar ∧ t.me.pc = v.me.pc ∧
          t.me.waitOp = u.barOp u.cur (c.read a).1.toNat ∧
          t.agenda = v.agenda ++ [.barrierArrival v.cur dom members])) ∧
    (c.operandsReady [] [d] true → c.bulkSync c.myTile = true →
      let bar := c.me.sreg 0x340
      let dom := (bar.extractLsb' 32 16).toNat
      bar.getLsbD 63 = true → bar.extractLsb' 0 16 ≠ 0 → c.me.barTok = 0 →
      ∀ r, c.roundOf (c.yardOf c.myTile) dom (c.tagOf c.cur) = some r → r.full = true →
        let v := c.leaveRound (c.yardOf c.myTile) dom (c.tagOf c.cur)
        let w := v.acquireTile v.myTile 1
        exec (.tsync d) s = .next ((w.write d (w.sstep w.myTile)).goOn))) ∧
  (∀ (s : State) (yard dom : Nat),
    ((∀ r ∈ s.rounds, r.yard = yard → r.dom = dom → r.tsync = true → r.full = true ∨ r.arrived.length < r.members ∨
        s.cal < r.since + 64) → exec (.superstepBoundary yard dom) s = .next s) ∧
    (∀ r ∈ s.rounds, r.yard = yard → r.dom = dom → r.tsync = true → r.full = false → r.members ≤ r.arrived.length →
      r.since + 64 ≤ s.cal → (∀ q ∈ s.rounds, q.yard = yard → q.dom = dom → q = r) →
      ∃ t, exec (.superstepBoundary yard dom) s = .next t ∧ { r with full := true } ∈ t.rounds ∧
        (∀ q ∈ t.rounds, q.yard = yard → q.dom = dom → q.full = true) ∧ t.combs.length = s.combs.length ∧
        (∀ (i : Nat) (b : Comb), s.combs[i]? = some b → b.yard = yard → b.job = r.job → b.bsp = true →
          t.combs[i]? = some { b with sstep := b.sstep + 1 } ∧
          ∀ u ∈ b.tiles, (t.tile u).snap = s.tm.filter (fun p => p.1 / 2 ^ 20 == u)) ∧
        (∀ c, t.ctx c = s.ctx c) ∧ s.sameStore t))

/-! Memory (R90-R126, R181-R194). -/

/-- R91, R92: the checks of an access before its translation, in the spec's order: the pointer's format, a fetch from tile memory,
alignment, a tile out of reach, the region's bounds and its rights. A pointer that passes them all passes.

R328-R333: a shared access that a tile's TLB maps takes its leaf from the entry: the page's address plus the offset, in the
entry's region; a region other than the pointer's tag is a region mismatch, a right that the entry lacks a translation fault, and
memory that cannot be read right a memory error (R310). An address that nothing maps waits, and its hive holds a miss record; while that
is unanswered the access waits, and a fault that answers it is raised once (R337). -/
def Obligations.AccessesAreCheckedAndTranslated : Prop :=
  (∀ (s : State) (c : Nat) (p : Word) (n : Nat) (k : AKind), 1 ≤ n →
    let tag := (p.extractLsb' 60 4).toNat
    let addr := (p.extractLsb' 0 56).toNat
    let badForm := p.extractLsb' 56 4 ≠ 0 ∨ tag = 15 ∧ (p.extractLsb' 23 33 ≠ 0 ∨ p.getLsbD 20 = true) ∨
      tag = 14 ∧ p.extractLsb' 32 24 ≠ 0
    let r := s.ctx c
    let inside := (r.sreg (0x402 + 4 * tag)).getLsbD 0 = true ∧ (r.sreg (0x400 + 4 * tag)).toNat ≤ addr ∧
      addr + n - 1 ≤ (r.sreg (0x401 + 4 * tag)).toNat
    let may := match k with
      | .read => (r.sreg (0x402 + 4 * tag)).getLsbD 1
      | .write => (r.sreg (0x402 + 4 * tag)).getLsbD 2
      | .fetch => (r.sreg (0x402 + 4 * tag)).getLsbD 3
      | .atomic => (r.sreg (0x402 + 4 * tag)).getLsbD 1 && (r.sreg (0x402 + 4 * tag)).getLsbD 4
    (badForm → checkPtr s c p n k = some .pointerFormat) ∧
    (¬badForm → k = .fetch → 14 ≤ tag → isTsc c = false → checkPtr s c p n k = some .accessKind) ∧
    (¬badForm → (k ≠ .fetch ∨ tag < 14 ∨ isTsc c = true) →
      (addr % n ≠ 0 → checkPtr s c p n k = some .misaligned) ∧
      (addr % n = 0 → tag = 15 → checkPtr s c p n k = none) ∧
      (addr % n = 0 → tag = 14 → checkPtr s c p n k =
        if s.reaches (cidTile c) (p.extractLsb' 20 10).toNat then none else some .combAccess) ∧
      (addr % n = 0 → tag < 14 → ¬inside → checkPtr s c p n k = some .regionBounds) ∧
      (addr % n = 0 → tag < 14 → inside → checkPtr s c p n k = if may then none else some .regionRights))) ∧
  (∀ (s : State) (p : Word) (n : Nat) (k : AKind), 1 ≤ n → isTsc s.cur = false → 14 > ptrTag p → checkPtr s s.cur p n k = none →
    (k = .fetch ∨ s.bulkSync s.myTile = false) → (k = .read ∨ k = .fetch) → s.hazard s.cur false p n = false →
    (∀ e, (s.tile s.myTile).tlb.find? (fun e => e.covers (s.yardOf s.myTile) (ptrAddr p)) = some e → s.me.answers = [] →
      s.missOpen s.cur k.code none p = false → s.companionDue e = false →
      let pa := e.ppage + (ptrAddr p - e.vpage)
      (e.grants k = true → s.memBad pa = false → (e.e0.extractLsb' 4 4).toNat = ptrTag p →
        ∃ l, s.atShared p n k l s ∧ l.pa = pa ∧ l.pg.memSide = e.e1.getLsbD 0 ∧ l.exactSum = e.e1.getLsbD 1) ∧
      (e.grants k = true → s.memBad pa = false → (e.e0.extractLsb' 4 4).toNat ≠ ptrTag p →
        checkM p n k s = .error (.trap .regionMismatch p) s) ∧
      (e.grants k = true → s.memBad pa = true → checkM p n k s = .error (.trap .memError p) s) ∧
      (e.grants k = false → checkM p n k s = .error (.trap .translation p) s)) ∧
    ((s.tile s.myTile).tlb = [] → (s.hive (hiveOf s.myTile)).tlb = [] → s.me.answers = [] →
      s.missOpen s.cur k.code none p = false →
      ∃ t, checkM p n k s = .error (.wait .translation p) t ∧
        ∃ m ∈ (t.hive (hiveOf s.myTile)).misses, m.cid = s.cur ∧ m.addr = p ∧ m.kind = k.code ∧ m.who = none) ∧
    (s.me.answers = [] → s.missOpen s.cur k.code none p = true → checkM p n k s = .error (.wait .translation p) s) ∧
    (∀ a, s.me.answers = [a] → a.addr = p → a.kind = k.code → a.who = none → a.code = 1 ∨ a.code = 2 →
      ∃ t, checkM p n k s = .error (.trap (if a.code = 1 then .translation else .stage2) p) t ∧ t.me.answers = []))

/-- R95: the view of a pointer permutes the places of tile memory: no two offsets share a place, and the bytes of a doubleword stay
together.

R183: a store writes the low bytes of B at A + Sext(off, 9) × size. In tile memory they read back there, and every other byte
of tile memory and all other memory stay as they were. -/
def Obligations.StoresWriteTileMemory : Prop :=
  (∀ (tile view x y : Nat), tile < 1024 → view < 4 →
    (tmKey tile view x = tmKey tile view y ↔ x % 2 ^ 20 = y % 2 ^ 20) ∧
    tmKey tile view x / 2 ^ 20 = tile ∧ tmKey tile view x % 8 = x % 8 ∧
    (x / 8 = y / 8 → tmKey tile view x / 8 = tmKey tile view y / 8) ∧ tmKey tile 0 x = tile * 2 ^ 20 + x % 2 ^ 20) ∧
  (∀ (s : State) (b a : Reg) (off : BitVec 9), s.canExecute → s.operandsReady [a, b] [] true →
    ∀ f ∈ ([(.stB b a off, 1), (.stH b a off, 2), (.stW b a off, 4), (.stD b a off, 8), (.stNt b a off, 8)] : List (Instr × Nat)),
      let n := f.2
      let p : Word := BitVec.ofInt 64 ((s.read a).1.toNat + off.toInt * n)
      let y := ((s.read a).2.read b).1
      let u := ((s.read a).2.read b).2
      let tile := ptrTile u.myTile p
      u.atTm p n .write →
      ∃ t, exec f.1 s = .next t ∧ t = (u.setTmBytes tile (ptrView p) (ptrOff p) (leBytes n y.toNat)).goOn ∧
        (∀ i, i < n → t.tmByte tile (ptrView p) (ptrOff p + i) = BitVec.ofNat 8 (y.toNat / 256 ^ i)) ∧
        (∀ x v o, (∀ i, i < n → tmKey x v o ≠ tmKey tile (ptrView p) (ptrOff p + i)) → t.tmByte x v o = s.tmByte x v o) ∧
        (∀ q, t.byte q = s.byte q ∧ t.sumEnt q = s.sumEnt q) ∧ (∀ x r c, t.accWord x r c = s.accWord x r c) ∧
        (∀ x, (t.tile x).l1 = (s.tile x).l1 ∧ (t.tile x).ro = (s.tile x).ro ∧ (t.tile x).wcb = (s.tile x).wcb) ∧
        s.sameOthers t ∧ s.sameSpecials t ∧ s.me.sameBut t.me s.me.loopRegs [0x031])

/-- R181: a load reads Mem[A + Sext(off, 9) × size] and extends it. It reads tile memory through the pointer's view, and shared
memory in the tile's L1, where a line that is not there is first filled from home; the write-combining buffer goes home before that. A
task reads its own stores first (R113).

R182: LD.RO reads a doubleword through the tile's read-only cache, which takes the line from home when it is absent; tile
memory and memory-side or exact-sum pages raise the access-kind cause. -/
def Obligations.LoadsReadTheirBytes : Prop :=
  (∀ (s : State) (d a : Reg) (off : BitVec 9) (la : BitVec 4), s.canExecute → s.operandsReady [a] [d] false →
    ∀ f ∈ ([(.ldB d a off la, 1, fun v => BitVec.ofInt 64 (Int.bmod v (2 ^ 8))), (.ldBz d a off la, 1, fun v => BitVec.ofNat 64 v),
        (.ldH d a off la, 2, fun v => BitVec.ofInt 64 (Int.bmod v (2 ^ 16))), (.ldHz d a off la, 2, fun v => BitVec.ofNat 64 v),
        (.ldW d a off la, 4, fun v => BitVec.ofInt 64 (Int.bmod v (2 ^ 32))), (.ldWz d a off la, 4, fun v => BitVec.ofNat 64 v),
        (.ldD d a off la, 8, fun v => BitVec.ofNat 64 v)] : List (Instr × Nat × (Nat → Word))),
      let n := f.2.1
      let u := (s.read a).2
      let p : Word := BitVec.ofInt 64 ((s.read a).1.toNat + off.toInt * n)
      (u.atTm p n .read → exec f.1 s = .next ((u.long la d (f.2.2 (leNat
        (u.tmBytes (ptrTile u.myTile p) (ptrView p) (ptrOff p) n)))).goOn)) ∧
      (∀ l t, u.atShared p n .read l t → t.controlAt l →
        (t.mustFill t.myTile l.pa n = false →
          exec f.1 s = .next ((t.long la d (f.2.2 (leNat (t.l1Bytes t.myTile l.pa n)))).goOn)) ∧
        (t.mustFill t.myTile l.pa n = true → t.canFill l.pa →
          let w := t.settleWcb t.myTile
          let v := w.fillL1 w.cur w.myTile l.pa l.pg
          w.sumFlagsBut l.pa n ((t.tile t.myTile).line (lineOf l.pa)).holds = Flags.none →
          exec f.1 s = .next ((v.long la d (f.2.2 (leNat (v.l1Bytes v.myTile l.pa n)))).goOn) ∧
          ((t.tile t.myTile).wcb = [] → ((t.tile t.myTile).line (lineOf l.pa)).dirty = [] → l.pa % n = 0 →
            v.l1Bytes v.myTile l.pa n = t.homeRead (t.tagOf t.cur) l.pa n l.pg))) ∧
      (∀ l t h, u.atShared p n .read l t → t.inTask = true → t.me.helper = some h → paSpace l.pa = 0 →
        ∀ bs : List Byte, bs.length = n → (∀ i b, bs[i]? = some b → h.buffered (l.pa + i) = some b) →
          exec f.1 s = .next ((t.long la d (f.2.2 (leNat bs))).goOn))) ∧
  (∀ (s : State) (d a : Reg) (off : BitVec 9) (la : BitVec 4), s.canExecute → s.operandsReady [a] [d] false →
    let u := (s.read a).2
    let p : Word := BitVec.ofInt 64 ((s.read a).1.toNat + off.toInt * 8)
    (u.atTm p 8 .read → u.canClose → exec (.ldRo d a off la) s = .next (s.raised u .accessKind p)) ∧
    (∀ l t, u.atShared p 8 .read l t →
      (l.pg.memSide = true ∨ l.exactSum = true → t.canClose → exec (.ldRo d a off la) s = .next (s.raised t .accessKind p)) ∧
      (l.pg.memSide = false → l.exactSum = false → t.controlAt l →
        (((t.tile t.myTile).roLine (lineOf l.pa)).present = true →
          exec (.ldRo d a off la) s = .next ((t.long la d (BitVec.ofNat 64 (leNat (t.roBytes t.myTile l.pa 8)))).goOn)) ∧
        (((t.tile t.myTile).roLine (lineOf l.pa)).present = false → t.reachesHome l.pa →
          let v := t.fillRo t.cur t.myTile l.pa l.pg
          exec (.ldRo d a off la) s = .next ((v.long la d (BitVec.ofNat 64 (leNat (v.roBytes v.myTile l.pa 8)))).goOn) ∧
          (l.pa % 8 = 0 → v.roBytes v.myTile l.pa 8 = t.homeRead (t.tagOf t.cur) l.pa 8 l.pg)))))

/-- The frame of a load, R181: in tile memory and in a line that L1 holds, it changes no byte of any memory and no register but, at
the end of a loop's body, the loop's registers; its window will write its destination. -/
def Obligations.LoadsChangeOnlyTheirDestination : Prop :=
  ∀ (s t : State) (d a : Reg) (off : BitVec 9) (la : BitVec 4), s.canExecute → s.operandsReady [a] [d] false →
    isQueue a = false →
    ∀ f ∈ ([(.ldB d a off la, 1), (.ldBz d a off la, 1), (.ldH d a off la, 2), (.ldHz d a off la, 2), (.ldW d a off la, 4),
        (.ldWz d a off la, 4), (.ldD d a off la, 8)] : List (Instr × Nat)),
      let p : Word := BitVec.ofInt 64 ((s.me.greg a).toNat + off.toInt * f.2)
      (s.atTm p f.2 .read ∨ ∃ l, s.atShared p f.2 .read l s ∧ s.controlAt l ∧ s.mustFill s.myTile l.pa f.2 = false) →
      exec f.1 s = .next t →
      s.sameStore t ∧ s.sameOthers t ∧ s.sameSpecials t ∧
      s.me.sameBut t.me s.me.loopRegs [0x031] ∧ ∃ x, t.me.windows = s.me.windows ++ [s.me.laWindow la [.g d x]]

/-- R23, R110, R183: a shared store of a control context makes its bytes dirty bytes of an L1 line, filled from home first when it
is absent; a task buffers them. Every other byte stays as it was, and home sees nothing yet. -/
def Obligations.SharedStoresDirtyTheirLine : Prop :=
  ∀ (s : State) (b a : Reg) (off : BitVec 9), s.canExecute → s.operandsReady [a, b] [] true →
    ∀ f ∈ ([(.stB b a off, 1), (.stH b a off, 2), (.stW b a off, 4), (.stD b a off, 8)] : List (Instr × Nat)),
      let n := f.2
      let p : Word := BitVec.ofInt 64 ((s.read a).1.toNat + off.toInt * n)
      let y := ((s.read a).2.read b).1
      let u := ((s.read a).2.read b).2
      ∀ l v, u.atShared p n .write l v →
      (v.controlAt l → (((v.tile v.myTile).line (lineOf l.pa)).present = true ∨ v.canFill l.pa) →
        let w := if ((v.tile v.myTile).line (lineOf l.pa)).present then v else v.fillL1 v.cur v.myTile l.pa l.pg
        ∃ t, exec f.1 s = .next t ∧ (∀ q, t.byte q = w.byte q ∧ t.sumEnt q = w.sumEnt q) ∧
          (∀ x e o, t.tmByte x e o = w.tmByte x e o) ∧
          (∀ i, i < n → ((t.tile v.myTile).line (lineOf l.pa)).byteAt (l.pa % 128 + i) = BitVec.ofNat 8 (y.toNat / 256 ^ i)) ∧
          (∀ j, j < l.pa % 128 ∨ l.pa % 128 + n ≤ j →
            ((t.tile v.myTile).line (lineOf l.pa)).byteAt j = ((w.tile v.myTile).line (lineOf l.pa)).byteAt j) ∧
          (∀ x k, (x ≠ v.myTile ∨ k ≠ lineOf l.pa) → (t.tile x).line k = (w.tile x).line k) ∧
          s.me.sameBut t.me s.me.loopRegs [0x031] ∧ s.sameOthers t) ∧
      (∀ h : Helper, v.inTask = true → v.me.helper = some h → h.task.solo = false → paSpace l.pa = 0 →
        h.dirtyLines.length < 64 →
        ∃ t k, exec f.1 s = .next t ∧ v.sameStore t ∧ t.me.helper = some k ∧
          (∀ i, i < n → k.buffered (l.pa + i) = some (BitVec.ofNat 8 (y.toNat / 256 ^ i))) ∧
          (∀ q, q < l.pa ∨ l.pa + n ≤ q → k.buffered q = h.buffered q) ∧ s.me.sameBut t.me s.me.loopRegs [0x031])

/-! Line operations, versions, atomics and fences (R103-R116, R182-R194). -/

/-- R108, R183, R185: ST.NT of a line that L1 does not hold goes to the write-combining buffer and fills nothing; PREF brings a line
into L1, or does nothing, and while L1 has room changes no byte of memory; FLUSH writes a line's dirty bytes back to home, at tile
scope without waiting for the home, and INVAL drops the copies too, once the home has taken the bytes.

R103, R105, R107, R108, R323: a write-back puts a line's dirty bytes home as one write: they read there as they were stored, the
line is clean, and its version advances by 1. The copy goes on carrying the version that it was filled with (R113). Of the other lines
L2 may let go of one, whose granule's floor then covers its version (R104). -/
def Obligations.LineOperationsMoveWholeLines : Prop :=
  (∀ (s : State) (b a : Reg) (off : BitVec 9) (cc : BitVec 2), s.canExecute →
    (s.operandsReady [a, b] [] true →
      let p : Word := BitVec.ofInt 64 ((s.read a).1.toNat + off.toInt * 8)
      let y := ((s.read a).2.read b).1
      ∀ l v, (((s.read a).2.read b).2).atShared p 8 .write l v → v.controlAt l →
        ((v.tile v.myTile).line (lineOf l.pa)).present = false → (v.tile v.myTile).wcb = [] →
        ∃ t, exec (.stNt b a off) s = .next t ∧ (t.tile v.myTile).l1 = (v.tile v.myTile).l1 ∧ (∀ q, t.byte q = v.byte q) ∧
          ∀ i, i < 8 → (SMap.get (fun _ => none) (t.tile v.myTile).wcb (l.pa + i)).map DirtyByte.byte =
            some (BitVec.ofNat 8 (y.toNat / 256 ^ i))) ∧
    (s.operandsReady [a] [] true →
      let x := (s.read a).1
      let u := (s.read a).2
      exec (.pref a) s = .next ((u.prefetch x).goOn) ∧
      ((u.tile u.myTile).wcb = [] → (u.tile u.myTile).l1.length < 1024 → (∀ q, (u.prefetch x).byte q = u.byte q) ∧
        (∀ k v o, (u.prefetch x).tmByte k v o = u.tmByte k v o) ∧ (u.prefetch x).me = u.me) ∧
      (∀ l v, u.atShared x 1 .write l v → v.controlAt l → cc = 0 → ¬v.reachesHome l.pa → exec (.flush cc a) s = .next v.goOn ∧
        ∃ t, exec (.inval cc a) s = .next t ∧ t.me.wait = .owned ∧ t.me.pc = v.me.pc ∧ v.sameStore t) ∧
      (∀ l v, u.atShared x 1 .write l v → v.controlAt l → v.reachesHome l.pa →
        (cc.toNat = 3 → (v.me.sreg 0x807).getLsbD 0 = true) →
        let w := v.cleanLine v.myTile (lineOf l.pa)
        let f := if cc = 0 then (w, Flags.none) else w.flushSums l.pa (w.yardOf w.myTile)
        w.remotes = [] → f.2 = Flags.none →
        exec (.flush cc a) s = .next f.1.goOn ∧
        ∃ t, exec (.inval cc a) s = .next t ∧ ((t.tile v.myTile).line (lineOf l.pa)).present = false ∧
          ((t.tile v.myTile).roLine (lineOf l.pa)).present = false ∧ ∀ q, t.byte q = f.1.byte q))) ∧
  (∀ (s : State) (tile l : Nat) (pg : Pg), SMap.wf (fun _ => none) ((s.tile tile).line l).dirty = true →
    (∀ i d, SMap.get (fun _ => none) ((s.tile tile).line l).dirty i = some d → i < 128 ∧ s.isDead d.tag = false ∧ d.pg = pg) →
    pg.memSide = false → s.keyClash (l * 128) pg = false → paSpace (l * 128) = 0 → s.channelDead (l * 128) = false → s.isDead 0x10000 = false →
    let t := s.writeBack tile l
    (∀ i d, SMap.get (fun _ => none) ((s.tile tile).line l).dirty i = some d →
      t.byte (l * 128 + i) = d.byte ∧ (t.sumEnt ((l * 128 + i) / 4)).live = false) ∧
    (∀ a, (a / 128 = l → SMap.get (fun _ => none) ((s.tile tile).line l).dirty (a % 128) = none) → t.byte a = s.byte a) ∧
    (∀ i, i < 128 → ((t.tile tile).line l).byteAt i = ((s.tile tile).line l).byteAt i) ∧ ((t.tile tile).line l).dirty = [] ∧
    ((t.tile tile).line l).ver = ((s.tile tile).line l).ver ∧
    t.verOf (l * 128) = (if ((s.tile tile).line l).dirty = [] then s.verOf (l * 128) else s.verOf (l * 128) + 1) ∧
    ∀ k, k ≠ l → (t.tile tile).line k = (s.tile tile).line k ∧
      (t.l2line k = s.l2line k ∨
        (t.l2line k = L2Line.absent ∧ s.evictable k = true ∧ (s.l2line k).ver ≤ t.floorOf (k * 128))))

/-- R186, R188: LDV reads a doubleword and its line's version at home; VREC enters a line in the validation set, which fails when
the line is there at another version and overflows at sixteen; VCLR empties the set. -/
def Obligations.VersionsAreReadAndRecorded : Prop :=
  ∀ (s : State) (d a b : Reg) (off : BitVec 9) (la : BitVec 4), s.canExecute →
    (s.operandsReady [a] [] true →
      let p : Word := BitVec.ofInt 64 ((s.read a).1.toNat + off.toInt * 8)
      ∀ l t, ((s.read a).2).atShared p 8 .read l t → t.controlAt l → t.me.helper = none → l.pg.memSide = false → t.reachesHome l.pa →
        let w := t.cleanLine t.myTile (lineOf l.pa)
        let v := w.fillL2 l.pa (w.payer w.cur)
        let x : Word := BitVec.ofNat 64 (leNat (v.homeRead (v.tagOf v.cur) l.pa 8 l.pg))
        v.sumFlags l.pa 8 = Flags.none →
        exec (.ldv d a off la) s = .next ((v.modMe (fun y =>
          { y with windows := y.windows ++ [y.laWindow la [.g d x, .g (d + 1) (v.verOf l.pa)]] })).goOn)) ∧
    (s.operandsReady [a, b] [] true →
      let p := (s.read a).1
      let y := ((s.read a).2.read b).1
      ∀ l t, (((s.read a).2.read b).2).atShared p 1 .read l t → l.pg.memSide = false → paSpace l.pa = 0 →
        ((∀ e ∈ t.me.vset, e.1 ≠ l.pa / 128) → t.me.vset.length < 16 →
          exec (.vrec a b) s = .next ((t.modMe (fun x => { x with vset := x.vset ++ [(l.pa / 128, y)] })).goOn)) ∧
        ((∀ e ∈ t.me.vset, e.1 ≠ l.pa / 128) → 16 ≤ t.me.vset.length → t.canClose →
          exec (.vrec a b) s = .next (s.raised t .vsetFull 0)) ∧
        (∀ v, t.me.vset.find? (fun e => e.1 == l.pa / 128) = some (l.pa / 128, v) →
          exec (.vrec a b) s = .next ((t.modMe (fun x => { x with vfail := x.vfail || v != y })).goOn))) ∧
    exec .vclr s = .next ((s.modMe (fun x => { x with vset := [], vfail := false })).goOn)

/-- R291: VALID reports only pass or fail, and after it %vset reads 0 in either case. R32: outside its exchange slots it raises the
slot fault. -/
def Obligations.ValidReportsPassOrFail : Prop :=
  ∀ (s : State) (d : Reg) (la : BitVec 4), s.canExecute → s.operandsReady [] [d] false →
    (s.me.issued = none → s.slotRefused s.cur = true → s.canClose → exec (.valid d la) s = .next (s.raised s .slotFault (s.slotTval 0xF))) ∧
    (s.slotRefused s.cur = false →
    (∀ e ∈ s.me.vset, s.homeOpen s.myTile (e.1 * 128) (if s.inTask then some s.cur else none) = true) →
    let t := s.modMe (fun x => { x with vset := [], vfail := false })
    (s.me.vfail = false → (∀ e ∈ s.me.vset, s.verOf (e.1 * 128) = e.2) → exec (.valid d la) s = .next ((t.long la d 1).goOn)) ∧
    (s.me.vfail = true ∨ (∃ e ∈ s.me.vset, s.verOf (e.1 * 128) ≠ e.2) →
      exec (.valid d la) s = .next ((t.long la d 0).goOn)) ∧
    ∀ x, ((t.long la d x).goOn).readSr s.cur 0x038 = 0)

/-- R111: a release waits for the context's coprocessor work, and beyond tile scope writes back every line that holds bytes its core
stored; an acquire beyond tile scope leaves no clean copy of a line homed here and empties the read-only cache.

R111, R194: a fence closes the windows, then releases, acquires or does both at its scope, tile scope in a task; system scope
needs its policy bit. -/
def Obligations.FencesMakeStoresVisible : Prop :=
  (∀ (s : State) (sc : Nat),
    (s.copBusy s.cur = true → release sc s = .error (.wait .drain 0) s) ∧
    (s.copBusy s.cur = false → release 0 s = .ok () s) ∧
    (s.copBusy s.cur = false → sc ≠ 0 → s.dirtyBlocked s.myTile s.myCore = false →
      let t := s.releaseCore s.myTile s.myCore
      t.remotes = [] → release sc s = .ok () t ∧ ∀ l i d,
        SMap.get (fun _ => none) ((t.tile s.myTile).line l).dirty i = some d → d.core ≠ s.myCore) ∧
    (sc ≠ 0 → ((s.acquireTile s.myTile sc).tile s.myTile).ro = [] ∧ ∀ l,
      let x := ((s.acquireTile s.myTile sc).tile s.myTile).line l
      x.present = true → (paSpace (l * 128) ≠ 0xA ∨ 2 ≤ sc) → x.refill = true ∧ x.dirty ≠ []) ∧
    s.acquireTile s.myTile 0 = s ∧ (s.acquireTile s.myTile sc).me = s.me) ∧
  (∀ (s : State) (sc : BitVec 2), s.canExecuteClosed →
    let c := s.closed
    let k := if c.inTask then 0 else sc.toNat
    ((sc.toNat = 3 → (c.me.sreg 0x807).getLsbD 0 = true) →
      (exec (.fenceAcq sc) s = .next ((c.acquireTile c.myTile k).goOn)) ∧
      (∀ t, release k c = .ok () t → exec (.fenceRel sc) s = .next t.goOn ∧
        exec (.fenceAr sc) s = .next ((t.acquireTile t.myTile k).goOn))) ∧
    (sc.toNat = 3 → (c.me.sreg 0x807).getLsbD 0 = false → c.canClose →
      exec (.fenceAcq sc) s = .next (s.raised c .scopePolicy 0) ∧ exec (.fenceRel sc) s = .next (s.raised c .scopePolicy 0) ∧
      exec (.fenceAr sc) s = .next (s.raised c .scopePolicy 0)))

/-- R120, R190, R191: an atomic of a control context acts on its line at home as one step: the window of its register takes the old
value, the bytes at home the new one, and no other byte changes. An AMO always writes; CAS writes when the old value is the expected one. -/
def Obligations.AtomicsActOnceAtHome : Prop :=
  ∀ (s : State) (d a b : Reg) (la : BitVec 4), s.canExecute → isQueue d = false → isQueue a = false → isQueue b = false →
    let p := s.me.greg a
    let y := s.me.greg b
    let ready (n : Nat) (l : Leaf) (u v : State) : Prop := s.atShared p n .atomic l u ∧ u.controlAt l ∧ l.exactSum = false ∧
      u.me = s.me ∧ v.reachesHome l.pa ∧ v.isDead (v.tagOf v.cur) = false ∧
      let h := v.cleanLine v.myTile (lineOf l.pa)
      h.keyClash l.pa l.pg = false ∧ ∀ w, w / 32 = l.pa / 128 → (h.sumEnt w).live = false
    let after (n : Nat) (l : Leaf) (w t : State) (old new : Nat) : Prop :=
      t.me.windows = s.me.windows ++ [s.me.laWindow la [.g d ((BitVec.ofNat (8 * n) old).signExtend 64)]] ∧
      (∀ i, i < n → t.byte (l.pa + i) = BitVec.ofNat 8 (new / 256 ^ i)) ∧
      (∀ q, q < l.pa ∨ l.pa + n ≤ q → t.byte q = w.byte q) ∧ t.me.pos = s.me.pos + 1
    (∀ f ∈ ([(fun w => .amoAdd d a b w 0 la, fun _ o x => o + x), (fun w => .amoAnd d a b w 0 la, fun _ o x => o &&& x),
        (fun w => .amoOr d a b w 0 la, fun _ o x => o ||| x), (fun w => .amoXor d a b w 0 la, fun _ o x => o ^^^ x),
        (fun w => .amoMin d a b w 0 la, fun _ o x => if x.toInt < o.toInt then x else o),
        (fun w => .amoMax d a b w 0 la, fun _ o x => if o.toInt < x.toInt then x else o),
        (fun w => .amoSwap d a b w 0 la, fun _ _ x => x)] :
        List ((BitVec 1 → Instr) × ((n : Nat) → BitVec n → BitVec n → BitVec n))),
      ∀ (w : BitVec 1) (l : Leaf) (u : State), let n := if w = 0 then 4 else 8
        ready n l u u →
        let v := u.cleanLine u.myTile (lineOf l.pa)
        let old := leNat (v.bytes l.pa n)
        ∃ t, exec (f.1 w) s = .next t ∧
          after n l v t old (f.2 (8 * n) (BitVec.ofNat (8 * n) old) (BitVec.ofNat (8 * n) y.toNat)).toNat) ∧
    (∀ (l : Leaf) (u v : State), release 1 u = .ok () v → ready 8 l u v →
      let h := v.cleanLine v.myTile (lineOf l.pa)
      let old := leNat (h.bytes l.pa 8)
      (∃ t, exec (.cas d a b la) s = .next t ∧
        after 8 l h t old (if BitVec.ofNat 64 old = y then (s.me.greg d).toNat else old)) ∧
      (l.pg.memSide = false → ∃ t, exec (.casv d a b la) s = .next t ∧
        t.me.windows = s.me.windows ++ [s.me.laWindow la [.g d (if h.verOf l.pa = y then 1 else 0)]] ∧
        (∀ i, i < 8 → t.byte (l.pa + i) =
          if h.verOf l.pa = y then BitVec.ofNat 8 ((s.me.greg d).toNat / 256 ^ i) else h.byte (l.pa + i))))

/-- R85, R86, R103, R192: AMO.XADD of a control context adds an F32 value to the exact sum of its word, which it starts from the
word's value when there is none, and delivers the sum as it was before; the line's version advances by 1. -/
def Obligations.ExactSumsAddAtHome : Prop :=
  ∀ (s : State) (d a b : Reg) (la : BitVec 4) (l : Leaf) (u : State), s.canExecute → isQueue d = false → isQueue a = false →
    isQueue b = false → s.atShared (s.me.greg a) 4 .atomic l u → u.controlAt l → l.exactSum = true →
    u.me = s.me → u.me.helper = none → u.reachesHome l.pa → u.isDead (u.tagOf u.cur) = false →
    let v := u.cleanLine u.myTile (lineOf l.pa)
    let w := l.pa / 4
    v.keyClash l.pa l.pg = false → (v.sumEnt w).live = true ∨ v.sumCount (hiveOfPa l.pa) < 16384 →
    (d = 0 ∨ (v.sumBefore l.pa l.pg).2 = Flags.none) →
    ∃ t, exec (.amoXadd d a b 0 la) s = .next t ∧ t.sumEnt w = (v.sumStart w).add ((s.me.greg b).toNat % 2 ^ 32) ∧
      (∀ x, x ≠ w → t.sumEnt x = v.sumEnt x) ∧ (∀ q, t.byte q = v.byte q) ∧ t.verOf l.pa = v.verOf l.pa + 1 ∧
      t.me.windows = s.me.windows ++ [s.me.laWindow la [.g d (BitVec.ofNat 64 (v.sumBefore l.pa l.pg).1)]]

/-! Special registers (R4, R19, R29, R99, R150, R206, R214, R246, R301-R304, R322, R361). -/

/-- R150, R206: MFS and MTS of a number that names no register raise the reserved-encoding cause, and of a range above the
privilege the privilege cause, with the number as the trap value. MFS returns the register; MTS writes what its fields take, which
reads back, and no other register; a set must-be-zero bit is a reserved encoding, and R4: a read-only register ignores the write. -/
def Obligations.SpecialRegistersReadAndWrite : Prop :=
  ∀ (s : State) (d a : Reg) (n : BitVec 12), s.canExecute →
    let allowed := (0x400 ≤ n.toNat → s.me.priv ≠ .u) ∧ (0x800 ≤ n.toNat → s.me.priv = .h)
    (s.canClose →
      (srInfo n.toNat = none → exec (.mfs d n) s = .next (s.raised s .reserved (n.setWidth 64)) ∧
        exec (.mts a n) s = .next (s.raised s .reserved (n.setWidth 64))) ∧
      (srInfo n.toNat ≠ none → ¬allowed → exec (.mfs d n) s = .next (s.raised s .privilege (n.setWidth 64)) ∧
        exec (.mts a n) s = .next (s.raised s .privilege (n.setWidth 64)))) ∧
    (srInfo n.toNat ≠ none → allowed → s.operandsReady [] [d] true → n ≠ 0x020 → n ≠ 0x451 → (n ≠ 0 ∨ isTsc s.cur = false) →
      exec (.mfs d n) s = .next ((s.write d (s.readSr s.cur n.toNat)).goOn)) ∧
    (allowed → s.operandsReady [a] [] true →
      let x := (s.read a).1
      let u := (s.read a).2
      (∀ i, srInfo n.toNat = some i → i.acc = .ro → exec (.mts a n) s = .next u.goOn) ∧
      (∀ i, srInfo n.toNat = some i → i.acc = .rw → x &&& BitVec.ofNat 64 i.keep ≠ x → u.canClose →
        exec (.mts a n) s = .next (s.raised u .reserved (n.setWidth 64))) ∧
      (∀ i, srInfo n.toNat = some i → i.acc = .rw → x &&& BitVec.ofNat 64 i.keep = x →
        n.toNat ∉ [0x010, 0x020, 0x022, 0x241, 0x449, 0x44E, 0x808] → (n.toNat < 0x200 ∨ 0x240 ≤ n.toNat) →
        let t := u.setSr u.cur n.toNat (storedValue n.toNat x)
        exec (.mts a n) s = .next t.goOn ∧ t.readSr u.cur n.toNat = storedValue n.toNat x ∧
          ∀ m, m ≠ n.toNat → t.sr u.cur m = u.sr u.cur m))

/-- The frame of MFS and MTS, R206: MFS changes no register but its destination, and MTS of a register of the context none but
that one; neither changes memory, and at the end of a loop's body the loop's registers count. -/
def Obligations.SpecialRegisterMovesKeepTheRest : Prop :=
  ∀ (s t : State) (d a : Reg) (n : BitVec 12) (i : SrInfo), s.canExecute → srInfo n.toNat = some i →
    (0x400 ≤ n.toNat → s.me.priv ≠ .u) → (0x800 ≤ n.toNat → s.me.priv = .h) →
    (s.operandsReady [] [d] true → n ≠ 0x020 → n ≠ 0x451 → exec (.mfs d n) s = .next t →
      s.sameStore t ∧ s.sameOthers t ∧ s.sameSpecials t ∧ s.me.sameBut t.me (d :: s.me.loopRegs) [0x031]) ∧
    (s.operandsReady [a] [] true → i.acc = .rw → (s.read a).1 &&& BitVec.ofNat 64 i.keep = (s.read a).1 →
      n.toNat ∉ [0x010, 0x020, 0x022, 0x241, 0x449, 0x44E, 0x808] → isTileSr n.toNat = false → isCoreSr n.toNat = false →
      exec (.mts a n) s = .next t →
      s.sameStore t ∧ s.sameOthers t ∧ s.sameSpecials t ∧ s.me.sameBut t.me s.me.loopRegs [n.toNat, 0x031])

/-- The registers with behaviour of their own. R302: %trap.supp clears when it is read. R214: %st.fflags waits for the drain, and its
bits [63:5] ignore a write (R4, R74).
R29, R361: %ctx.ft set to 1 goes on at once on a pinned tile, and otherwise waits for a calendar cycle that is a multiple of 64 at
least 16 later. R99: a ring register waits for the drain, and the ring of another context's command is busy, R246: %mgrp for the tile's matrix commands. R322: %s.kill makes a saved
context's tag dead. R304: %hv.tag is set to a tag that is not draining. -/
def Obligations.SpecialRegistersWithEffects : Prop :=
  ∀ (s : State) (d a : Reg) (n : BitVec 12), s.canExecute →
    let x := (s.read a).1
    let u := (s.read a).2
    (s.me.priv ≠ .u → s.operandsReady [] [d] true →
      let t := ((s.modMe (fun y => y.setSreg 0x451 0)).write d (s.me.sreg 0x451)).goOn
      exec (.trapSuppRead d) s = .next t ∧ exec (.mfs d 0x451) s = .next t) ∧
    (s.operandsReady [] [d] true → s.drained s.cur = true → s.me.late = [] →
      exec (.fflagsAccess false d) s = .next ((s.write d (s.me.sreg 0x020)).goOn) ∧
      exec (.mfs d 0x020) s = .next ((s.write d (s.me.sreg 0x020)).goOn)) ∧
    (s.operandsReady [a] [] true →
      (s.drained s.cur = true → s.me.late = [] →
        exec (.fflagsAccess true a) s = .next ((u.modMe (fun y => y.setSreg 0x020 (x &&& 0x1F))).goOn) ∧
        exec (.mts a 0x020) s = .next ((u.modMe (fun y => y.setSreg 0x020 (x &&& 0x1F))).goOn)) ∧
      (x = 0 → exec (.ctxFtWrite a) s = .next (((u.modMe (fun y => y.setSreg 0x010 0)).unpin u.myTile).goOn)) ∧
      (x = 1 → u.losing u.myTile = false → (u.tile u.myTile).pinned = true →
        exec (.ctxFtWrite a) s = .next ((u.modMe (fun y => y.setSreg 0x010 1)).goOn)) ∧
      (x = 1 → u.losing u.myTile = false → (u.tile u.myTile).pinned = false → (u.tile u.myTile).pinDue = none →
        (u.tile u.myTile).leaving = none →
        ∃ t k, exec (.ctxFtWrite a) s = .next t ∧ t.me.wait = .pin ∧ t.me.pc = s.me.pc ∧ t.me.sreg 0x010 = 1 ∧
          (t.tile s.myTile).pinDue = some k ∧ k % 64 = 0 ∧ s.cal + 16 ≤ k ∧ k < s.cal + 80) ∧
      (0x200 ≤ n.toNat → n.toNat < 0x240 → (∃ i, srInfo n.toNat = some i ∧ x &&& BitVec.ofNat 64 i.keep = x) →
        u.drained u.cur = true →
        let other (q : QEntry) : Prop := (q.cid ≠ u.cur ∨ q.tag ≠ u.tagOf u.cur) ∧ u.usesRing u.myTile ((n.toNat - 0x200) / 8) q = true
        ((3 ≤ n.toNat % 8 ∨ ∀ q ∈ u.inFlight u.myTile, ¬other q) →
          exec (.ringRegisterWrite a n) s = .next ((u.modTile u.myTile (fun y => y.setSreg n.toNat x)).goOn)) ∧
        (n.toNat % 8 < 3 → (∃ q ∈ u.inFlight u.myTile, other q) → u.canClose →
          exec (.ringRegisterWrite a n) s = .next (s.raised u .ringBusy 0))) ∧
      (x &&& 0x800003FF00000003 = x → (∀ q ∈ u.inFlight u.myTile, isMatrix q.inst = false) →
        exec (.mgrpWrite a) s = .next ((u.modTile u.myTile (fun y => y.setSreg 0x241 x)).goOn)) ∧
      (s.me.priv ≠ .u →
        exec (.sKillWrite a) s = .next ((u.killSaved (u.yardOf u.myTile) (x.toNat % 65536)).goOn) ∧
        (∀ j, (x.toNat % 65536, u.yardOf u.myTile, j) ∈ u.saved →
          (u.killSaved (u.yardOf u.myTile) (x.toNat % 65536)).isDead (x.toNat % 65536) = true)) ∧
      (s.me.priv = .h → x.toNat < 65536 → u.isDead x.toNat = false →
        exec (.hvTagWrite a) s = .next ((u.modMe (fun y => y.setSreg 0x808 x)).goOn)))

/-! Work, upcalls and the resident handler (R57, R134, R143, R177-R180, R320). -/

/-- R134, R177: START makes a helper live in the lowest free slot of its core, at its entry address, with sp past its frame and
every other register zero, and returns the slot's number; with B a slot whose frame was retained, the helper gets that frame. -/
def Obligations.StartMakesAHelperLive : Prop :=
  ∀ (s : State) (d a b : Reg), s.canExecuteClosed → cidSlot s.cur = 0 → isTsc s.cur = false →
    s.closed.operandsReady [a, b] [d] true → isQueue d = false → s.closed.me.looping = false →
    let e := (s.closed.read a).1
    let y := ((s.closed.read a).2.read b).1
    let u := ((s.closed.read a).2.read b).2
    let live (t : State) (n f : Nat) : Prop :=
      let h := t.ctx (coreCid u.myCore n)
      exec (.start d a b) s = .next t ∧ h.live = true ∧ h.priv = .u ∧ h.pc = e ∧
        h.greg 31 = BitVec.ofNat 64 (0xF * 2 ^ 60 + u.frameOff u.myTile f + 4096) ∧ (∀ r, r ≠ 31 → h.greg r = 0) ∧
        (∀ k, h.vreg k = 0) ∧ f ∈ (t.tile u.myTile).frames ∧ (d ≠ 0 → t.me.greg d = BitVec.ofNat 64 n) ∧ t.me.pc = s.me.pc + 4
    e.extractLsb' 0 2 = 0 →
    (y = 0 → ∀ n f, u.freeSlot u.myCore = some n → u.freeFrame u.myTile = some f → ∃ t, live t n f) ∧
    (1 ≤ y.toNat → y.toNat ≤ 10 → u.slotBusy u.myCore y.toNat = false →
      ((u.core u.myCore).endedOf y.toNat = 0 → u.canClose → exec (.start d a b) s = .next (s.raised u .frameLost 0)) ∧
      (∀ n f, (u.core u.myCore).endedOf y.toNat = f + 1 → u.freeSlot u.myCore = some n →
        ∃ t, live t n f ∧ ∀ k v o, t.tmByte k v o = u.tmByte k v o))

/-- R178: HALT of a task starts its commit with the retain bit of A, and its helper executes nothing more. R57, R180: UPRET
resumes at %upc.epc with the upcall's cause cleared and the loop that the upcall set aside (R174; log 13); with bit 0 of A set while its
tile is being lost, the context vacates: it goes on after UPRET and is asked to save with reason 5, whatever save it has been asked for
(R48, R143).

R179: YIELD returns whether the core has another context ready, which is the supervisor's to say and a free value here (log 5):
1 asks for the context's save with reason 3, and 0 changes nothing else; outside a control context it returns 0. -/
def Obligations.HelpersUpcallsAndSlicesEnd : Prop :=
  (∀ (s : State) (a : Reg), s.canExecuteClosed → s.closed.operandsReady [a] [] true →
    let x := (s.closed.read a).1
    let u := (s.closed.read a).2
    (∀ h, s.closed.inTask = true → u.me.helper = some h →
      ∃ t, exec (.halt a) s = .next t ∧ t.me.helper = some { h with halting := some (x.getLsbD 0) } ∧ t.me.pc = u.me.pc ∧
        t.me.wait = .none ∧ s.sameOthers t) ∧
    (s.closed.inTask = false → s.closed.canClose → exec (.halt a) s = .next (s.raised s.closed .contextKind 0)) ∧
    (cidSlot s.cur = 0 → (x.getLsbD 0 = false ∨ u.losing u.myTile = false) →
      ∃ t, exec (.upret a) s = .next t ∧ exec (.upretVacate a) s = .next t ∧ t.me.pc = u.me.sreg 0x113 ∧ t.me.sreg 0x114 = 0 ∧
        t.me.gains = (if u.me.gainTaken then u.me.gains.drop 1 else u.me.gains) ∧ t.me.gainOvf = false ∧
        (∀ r, t.me.greg r = u.me.greg r) ∧ s.sameOthers t ∧
        ((u.me.sreg 0x114).getLsbD 2 = true →
          let lp : Word := SMap.get (fun _ => 0) u.me.susp 4
          let lc : Word := SMap.get (fun _ => 0) u.me.susp 5
          t.me.sreg 0x030 = lp ∧ t.me.sreg 0x031 = if lc.getLsbD 63 ∧
            ¬(lp ≤ u.me.sreg 0x113 ∧ u.me.sreg 0x113 < lp + 4 * (lc.extractLsb' 0 16).setWidth 64)
          then lc &&& ~~~(1#64 <<< 63) else lc)) ∧
    (cidSlot s.cur = 0 → x.getLsbD 0 = true → u.losing u.myTile = true →
      ∃ t, exec (.upret a) s = .next t ∧ exec (.upretVacate a) s = .next t ∧ t.me.pc = u.me.pc + 4 ∧ t.me.sreg 0x114 = 0 ∧
        t.me.saveReq = 5 ∧ (∀ r, t.me.greg r = u.me.greg r) ∧ s.sameOthers t)) ∧
  (∀ (s : State) (d : Reg), s.canExecuteClosed → s.closed.operandsReady [] [d] true →
    let c := s.closed
    let t : State := { c with free := c.free + 1 }
    ((cidSlot s.cur ≠ 0 ∨ isTsc s.cur = true) → exec (.yield d) s = .next ((c.write d 0).goOn)) ∧
    (cidSlot s.cur = 0 → isTsc s.cur = false →
      ((Config.freeValue c.free).getLsbD 0 = false → exec (.yield d) s = .next ((t.write d 0).goOn)) ∧
      ((Config.freeValue c.free).getLsbD 0 = true → ∃ v, exec (.yield d) s = .next v ∧
        v = ((t.write d 1).goOn).askSave c.cur 3 ∧ (c.me.saveReq = 0 → v.me.saveReq = 3))))

/-- R317, R318, R320: a save that is asked for and allowed, for the reasons 1 to 3, of a context with no coprocessor work, no helper
and no message buffer: the frame is written to tile memory, the tag is that of a saved context, and the core's resident handler runs
at S with the reason, the frame and the tag. Without a request that is allowed nothing changes.

R320, R321: ERET of the resident handler with A pointing at a frame that passes its checks loads the frame into the control
slot of its core, and the handler ends; of a fresh frame the context's address and g1 are shown. A frame with a wrong magic number is a frame-format cause. -/
def Obligations.SavesAndRestoresMoveTheFrame : Prop :=
  (∀ (s : State) (c : Nat),
    let x := s.ctx c
    let t := cidTile c
    let k := cidCore c
    let p := 0xF000000000000000 ||| (x.sreg 0x447 &&& 0xFF000)
    (s.saveAllowed c = false → exec (.contextSave c) s = .next s) ∧
    (s.saveAllowed c = true → s.mustBeQuiet c = false ∨ s.yardQuiet (s.yardOf t) = true → x.saveReq ∈ [1, 2, 3] → t < 1024 →
      s.helpersOf k = [] → (s.core k).vq = [] → (s.core k).held = [] → (s.tile t).mq = [] →
      (s.tile t).mrun = [] → (s.tile t).wq = [] → (s.tile t).streams = [] → (s.tile t).l1 = [] → (s.tile t).wcb = [] →
      x.windows = [] → x.barTok = 0 → x.sreg 0x448 = 0 →
      ∃ u, exec (.contextSave c) s = .next u ∧ (u.ctx c).live = false ∧ (u.core k).handler = true ∧
        (u.ctx (coreCid k 11)).live = true ∧ (u.ctx (coreCid k 11)).priv = .s ∧ (u.ctx (coreCid k 11)).pc = (s.core k).sreg 0x446 ∧
        (u.ctx (coreCid k 11)).greg 1 = BitVec.ofNat 64 x.saveReq ∧ (u.ctx (coreCid k 11)).greg 2 = p ∧
        (u.ctx (coreCid k 11)).greg 3 = BitVec.ofNat 64 (s.tagOf c) ∧ (s.tagOf c, s.yardOf t, s.jobOf t) ∈ u.saved ∧
        (∀ a, u.byte a = s.byte a) ∧
        leNat (u.tmBytes t 0 (ptrOff p) 2) = 0x5346 ∧ leNat (u.tmBytes t 0 (ptrOff p + 8) 8) = x.pc.toNat ∧
        (∀ i, i < 23 → leNat (u.tmBytes t 0 (ptrOff p + 32 + 8 * i) 8) = (x.greg (BitVec.ofNat 5 (i + 1))).toNat) ∧
        ∀ v i, v < 32 → i < 8 → leNat (u.tmBytes t 0 (ptrOff p + 2048 + 64 * v + 8 * i) 8) = ((x.vreg v).extractLsb' (64 * i) 64).toNat)) ∧
  (∀ (s v w : State) (a : Reg), s.canExecuteClosed → s.closed.me.priv ≠ .u → cidSlot s.cur = 11 →
    s.closed.operandsReady [a] [] true →
    let p := (s.closed.read a).1
    let u := (s.closed.read a).2
    let bs := u.tmBytes u.myTile (ptrView p) (ptrOff p) 4096
    p ≠ 0 → ptrTag p = 15 → checkPtr u u.cur p 4096 .read = none →
    (u.restoreCause u.myTile bs = none → u.restore u.myCore bs = (some v, w) →
      ∃ t, exec (.eretRestore a) s = .next t ∧ exec (.eret a) s = .next t ∧ t = v.endHandler u.myCore ∧
        (t.ctx (coreCid u.myCore 11)).live = false ∧ (t.core u.myCore).handler = false ∧
        (leNat ((bs.drop 3).take 1) = 0 → let c := t.ctx (coreCid u.myCore 0)
          c.live = true ∧ c.pc = BitVec.ofNat 64 (leNat ((bs.drop 8).take 8)) ∧
          c.greg 1 = BitVec.ofNat 64 (leNat ((bs.drop 32).take 8)))) ∧
    (leNat (bs.take 2) ≠ 0x5346 → u.canClose → exec (.eretRestore a) s = .next (s.raised u .frameFormat 0)))

/-! Translation (R326, R327, R330-R339). -/

/-- R326, R334: TLBW below H is refused. At H it puts a well-formed entry into its hive's TLB, and into a tile's when B says so.

R333: the oldest miss without a record is written into the next free slot of the hive service node's ring with a fresh id. -/
def Obligations.TlbEntriesAnswerMisses : Prop :=
  (∀ (s : State) (a b : Reg), s.canExecute →
    (s.me.priv ≠ .h → s.canClose → exec (.tlbw a b) s = .next (s.raised s .privilege 0)) ∧
    (s.me.priv = .h → s.operandsReady [a, b] [] true →
    let p := (s.read a).1
    let y := ((s.read a).2.read b).1
    let u := ((s.read a).2.read b).2
    let h := hiveOf u.myTile
    let e := tlbOf (u.tmBytes u.myTile (ptrView p) (ptrOff p) 32)
    ptrTag p = 15 → checkPtr u u.cur p 32 .read = none → y.toNat < 1024 ∨ (2 ^ 15 ≤ y.toNat ∧ y.toNat < 2 ^ 15 + 1024) →
    hiveOf (y.toNat % 1024) = h →
    (u.malformed e = false → e.e0.getLsbD 63 = true →
      ∃ t, exec (.tlbw a b) s = .next t ∧ e ∈ (t.hive h).tlb ∧ (2 ^ 15 ≤ y.toNat → e ∈ (t.tile (y.toNat % 1024)).tlb) ∧
        (∀ k, k ≠ h → t.hive k = u.hive k) ∧ t.me.pos = s.me.pos + 1 ∧ ∀ r, (r ∉ s.me.loopRegs) → t.me.greg r = s.me.greg r) ∧
    (u.malformed e = true → u.canClose → exec (.tlbw a b) s = .next (s.raised u .tlbFormat p)))) ∧
  (∀ (s : State) (h : Nat) (m : Miss), (s.hive h).misses.find? (fun m => !m.written) = some m → m.kind ≠ 7 →
    let off := (s.hive h).slot % 256 * 32
    (s.tmByte (1024 + h) 0 (off + 24)).getLsbD 0 = false → (s.hive h).nextId < 65536 →
    ∃ t, exec (.tlbMissRecord h) s = .next t ∧
      (∀ q, t.byte q = s.byte q) ∧ leNat (t.tmBytes (1024 + h) 0 off 8) = m.addr.toNat ∧
      leNat (t.tmBytes (1024 + h) 0 (off + 8) 2) = (s.hive h).nextId ∧ (t.tmByte (1024 + h) 0 (off + 24)) = 1 ∧
      (t.hive h).slot = ((s.hive h).slot + 1) % 256 ∧ { m with id := (s.hive h).nextId, written := true } ∈ (t.hive h).misses)

/-- R327, R338: TLBINV waits with its shoot-down until every acknowledgement has arrived, and then goes on; an address off a multiple of
the size is misaligned. The shoot-down takes the
matching entries out of the hives' TLBs, here those of all hives for kinds 1 and 3, and a peer's request does the same.

R330, R338: what shoot-downs, a peer's request and evictions take out of the TLBs: a shoot-down is not over before the hives have written its
notices and no combined byte waits that was stored through a matching entry; after one of a VF no hive holds an entry of it, and after a peer's request none that matches; an eviction takes one entry. -/
def Obligations.ShootDownsRemoveEntries : Prop :=
  (∀ (s : State) (a b : Reg), s.canExecuteClosed → s.closed.operandsReady [a, b] [] true → s.closed.me.priv = .h →
    let x := (s.closed.read a).1
    let y := ((s.closed.read a).2.read b).1
    let u := ((s.closed.read a).2.read b).2
    ∀ f ∈ ([(.tlbinvPage a b, 0), (.tlbinvVf a b, 1), (.tlbinvGpa a b, 2), (.tlbinvAll a b, 3)] : List (Instr × Nat)),
      let addr := (x.extractLsb' 0 56).toNat
      let z := y.toNat % 4
      y.toNat = z + 4 * f.2 → z ≠ 3 →
      (x.toNat % sizeBytes z ≠ 0 → u.canClose → exec f.1 s = .next (s.raised u .misaligned x)) ∧
      (x.toNat % sizeBytes z = 0 → (f.2 = 1 → x = 0) →
      (∀ q, u.shoots.find? (fun q => q.is u.cur f.2 z (u.yardOf u.myTile) addr) = some q → q.acks = false →
        exec f.1 s = .next (({ u with shoots := u.shoots.erase q } : State).goOn)) ∧
      (u.shoots.find? (fun q => q.is u.cur f.2 z (u.yardOf u.myTile) addr) = none →
        ∃ t q, exec f.1 s = .next t ∧ t.me.wait = .remote ∧ t.me.pc = u.me.pc ∧ t.shoots = u.shoots.filter (fun q => q.cid != u.cur) ++ [q] ∧
          q.acks = true ∧ q.is u.cur f.2 z (u.yardOf u.myTile) addr = true))) ∧
  ((∀ (s : State) (c : Nat) (q : Shoot), s.shoots.find? (fun q => q.cid == c && q.acks) = some q →
    (s.shootReady q = false → exec (.shootdownComplete c) s = .next s) ∧
    (s.shootReady q = true → q.kind = 1 →
    ∃ t, exec (.shootdownComplete c) s = .next t ∧ (∀ h, h < 64 → ∀ e ∈ (t.hive h).tlb, e.vf ≠ q.vf) ∧
      { q with acks := false } ∈ t.shoots)) ∧
  (∀ (s : State) (kind size vf addr h : Nat), h < 64 → addr < 2 ^ 56 →
    ∃ t, exec (.peerShootdownRequest kind size vf addr) s = .next t ∧
      (∀ e ∈ (t.hive h).tlb, e ∈ (s.hive h).tlb ∧ invMatches kind size vf addr e = false) ∧
      ∀ m ∈ (t.hive h).misses, m.kind ≠ 7 → invStale kind size vf addr m = true → m.stale = true) ∧
  (∀ (s : State) (place k : Nat), ∃ t, exec (.tlbEntryEviction false place k) s = .next t ∧
    (t.tile place).tlb = (s.tile place).tlb.eraseIdx k ∧ (∀ x, x ≠ place → t.tile x = s.tile x) ∧ s.sameStore t) ∧
  (∀ (s : State) (place k : Nat) (e : TlbE), (s.hive place).tlb[k]? = some e →
    ∃ t, exec (.tlbEntryEviction true place k) s = .next t ∧ e ∉ (t.hive place).tlb ∧
      (∀ f, f ≠ e → (f ∈ (t.hive place).tlb ↔ f ∈ (s.hive place).tlb)) ∧ ∀ j, j ≠ place → t.hive j = s.hive j))

/-! The comb's instructions (R38, R58-R60). -/

/-- R58 to R60: CHOLD, CFLOOR and CLOAD return the old hold, floor and load adjustment and set the new one, the floor kept within 1
and 1,024 and the adjustment within ±1,024; in bulk-synchronous mode the hold stays set. CCEDE answers the first test that fails, or
0 and the request. A task's is a comb-context cause. -/
def Obligations.CombSettingsAndRequests : Prop :=
  ∀ (s : State) (d a : Reg) (c : Comb), s.canExecute → s.operandsReady [a] [d] true → isQueue d = false → d ≠ 0 →
    s.me.looping = false →
    let x := (s.read a).1
    let k := s.myTile
    (s.inTask = true → s.canClose → ∀ i ∈ ([.chold d a, .cfloor d a, .cload d a, .ccede d a] : List Instr),
      exec i s = .next (s.raised s .combContext 0)) ∧
    (s.inTask = false → s.combOf k = some c →
      (∃ t b, exec (.chold d a) s = .next t ∧ t.combOf k = some b ∧ b.hold = (x.getLsbD 0 || c.bsp) ∧ b.tiles = c.tiles ∧
        b.floor = c.floor ∧ t.me.greg d = (if c.hold then 1 else 0)) ∧
      (∃ t b, exec (.cfloor d a) s = .next t ∧ t.combOf k = some b ∧
        b.floor = (if x.toNat = 0 then 1 else if 1024 < x.toNat then 1024 else x.toNat) ∧ b.hold = c.hold ∧ b.tiles = c.tiles ∧
        t.me.greg d = BitVec.ofNat 64 c.floor) ∧
      (∃ t, exec (.cload d a) s = .next t ∧ t.combs = s.combs ∧
        (t.tile k).adj = (let v := (x.extractLsb' 0 16).toInt; if v < -1024 then -1024 else if 1024 < v then 1024 else v) ∧
        t.me.greg d = BitVec.ofInt 64 (s.tile k).adj) ∧
      ∃ t, exec (.ccede d a) s = .next t ∧ t.combs = s.combs ∧
        t.me.greg d = (if 1024 ≤ x.toNat ∨ x.toNat ∉ c.tiles then 1 else if c.hold then 2 else if c.tiles.length ≤ c.floor then 3
          else if (∀ u ∈ neighbours x.toNat, ∀ b, s.combOf u = some b → b.yard = c.yard → b.job = c.job) then 4
          else if (∃ r, (s.tile x.toNat).cede = some r ∧ s.cal < r + 65536) then 5 else 0) ∧
        (t.me.greg d = 0 → (t.tile x.toNat).cede = some s.cal))

/-! Coprocessor instructions: issue (R10, R157, R209, R216, R242, R246-R252, R258-R272, R279-R286, R311). -/

/-- R209, R210, R311: a vector operation (VADD to VSCAN: every instruction with vector operands, VLD to VSCAT and VEXT and VINS
among them) joins its core's queue with what it captured: its operands, registers, prefix and the next sequence number; its results
have a window, and the prefix is used up. A form that reaches shared memory has its slot checked in that cycle (R32, R298). A block that leaves the register numbers is a block-extent cause, a prefix with a field
that the operation does not use a reserved encoding (R157), and a full queue or a held late cause is waited for (R10).

R157, R216: FMT makes its word the pending prefix of the next instruction and counts as one with it. -/
def Obligations.VectorOperationsJoinTheirQueue : Prop :=
  ((∀ (s : State) (v a b : Reg) (ext la : BitVec 4) (cc : BitVec 2) (m : BitVec 3) (p : BitVec 5),
    ∀ i ∈ ([
        .vadd v a b ext la, .vsub v a b ext la, .vmul v a b ext la, .vfma v a b ext la, .vfms v a b ext la,
        .vdiv v a b ext la, .vmin v a b ext la, .vmax v a b ext la, .vand v a b ext la, .vor v a b ext la,
        .vxor v a b ext la, .vshl v a b ext la, .vshr v a b ext la, .vsra v a b ext la, .vsel v a b ext la,
        .vperm v a b ext la, .vld v a b ext la, .vldtm v a b ext la, .vgath v a b ext la, .vqnt v a b ext la,
        .vdot v a b ext la, .vtbl v a b ext la, .vbfly v a b ext la, .vsqrt v a ext la, .vabs v a ext la, .vneg v a ext la,
        .vmov v a ext la, .vbcast v a ext la, .vcvt v a ext la, .vpack v a ext la, .vunpk v a ext la, .vswz v a p ext la,
        .vred v a p ext la, .vcnt v a p ext la, .vscan v a p ext la, .vst v a b ext, .vsttm v a b ext, .vscat v a b ext,
        .vcmp cc m a b ext la, .vcls m a p ext la, .vext v a b la, .vextMask v m la, .vins v a b la, .vinsMask m a la,
        .vrng v ext la] : List Instr), s.me.live = true → ∃ d, vInfo i = some d ∧
    (s.pfxFits d.use → d.blocks.all (fun q => blockOk q d.ext) = true → vExtra i (pfxOf d.dflt s.pfx) = none →
      s.operandsReady (d.sa.toList ++ d.sb.toList) d.push false →
      let x := s.readOpt d.sa
      let y := x.2.readOpt d.sb
      let refused := sharedForm i x.1 && y.2.me.issued.isNone && y.2.slotRefused y.2.cur
      (y.2.pushBlocked = false → refused = false → exec i s = .next (y.2.pushed i s.pfx x.1 y.1 0 d.win true)) ∧
      (y.2.pushBlocked = false → refused = true → y.2.canClose → exec i s = .next (s.raised y.2 .slotFault (y.2.slotTval 0xF))) ∧
      (y.2.pushBlocked = true → ∃ t, exec i s = .next t ∧ t.me.wait = .fullQueue ∧ t.me.pc = s.me.pc ∧ s.sameStore t ∧
        s.me.sameBut t.me [] [0x44B])) ∧
    (s.pfxFits d.use → d.blocks.all (fun q => blockOk q d.ext) = false → s.canClose →
      exec i s = .next (s.raised s .blockExtent 0)) ∧
    (¬s.pfxFits d.use → s.canClose → exec i s = .next (s.raised (s.modMe (fun x => x.setSreg 0x024 0)) .reserved 0))) ∧
  ∀ (s : State) (i : Instr) (pfx : IWord) (a b qkw : Word) (win : Option (BitVec 4)) (rec : Bool),
    let t := s.pushed i pfx a b qkw win rec
    (∃ q, (t.core s.myCore).vq = (s.core s.myCore).vq ++ [q] ∧ q.inst = i ∧ q.pfx = pfx ∧ q.a = a ∧ q.b = b ∧ q.qkw = qkw ∧
      q.cid = s.cur ∧ q.pc = s.me.pc ∧ q.seq = (s.core s.myCore).seq ∧ q.sr = s.me.sr ∧ q.vf = s.me.v ∧ q.mf = s.me.m) ∧
    (t.core s.myCore).seq = ((s.core s.myCore).seq + 1) % 65536 ∧
    (∀ la, win = some la → t.me.windows = s.me.windows ++
      [{ last := s.me.pos + la.toNat, seq := some (s.core s.myCore).seq, ready := false, replay := false, writes := [] }]) ∧
    s.sameStore t ∧ s.sameOthers t ∧ s.sameSpecials t ∧ s.me.sameBut t.me s.me.loopRegs [0x024, 0x031] ∧ t.me.sreg 0x024 = 0) ∧
  (∀ (s : State) (f g : BitVec 5) (r : BitVec 3) (t : BitVec 1) (m : BitVec 3) (k : BitVec 2) (w : IWord), s.canExecute →
    encode (.fmt f g r t m k) = some w →
    ∃ u, exec (.fmt f g r t m k) s = .next u ∧ u.me.sreg 0x024 = BitVec.ofNat 64 (2 ^ 63 + w.toNat) ∧ u.me.pos = s.me.pos ∧
      (s.me.looping = false → u.me.pc = s.me.pc + 4) ∧ s.sameStore u ∧ s.sameOthers u ∧
      s.me.sameBut u.me s.me.loopRegs [0x024, 0x031])

/-- R242, R243, R246-R252, R259, R260, R266-R269, R273, R280, R285, R286: an engine command reads its operands, is checked, and
joins its core's queue; a failed check raises its cause precisely and pops nothing; in a task, a command of the copy or launch
engine is held back until the commit. WXREL and WXQRY carry the load that their opcode is bound to, and WXREL unbinds the opcode at its issue
(DEDUCED from R279; log 46). The
prefix field 1 marks an LN.TASK of a single step under %dbg.hold (R315): the model's own mark (log 41).

R247, R248: MM, MMS and MMP join the queue with their prefix, their operand and coordinate words, and MMS with a scale word that
it takes from qk; a word with a reserved bit is an accumulator-range cause. R253, R312: MWAIT goes on once the context's
coprocessor instructions have drained, and waits until then.

R122, R242, R244, R258-R264: CP.GO, GA.GO, SC.GO and the collectives own the lines of their destination, and join the queue
with a number of their own; scope 3 for a context that may reach neither host nor peer memory is a scope-policy cause (R304; log 71), and lines that another command owns are
waited for. -/
def Obligations.EngineCommandsJoinTheirQueue : Prop :=
  (∀ (s : State) (d a b v : Reg) (la : BitVec 4), s.canExecute →
    (∀ f ∈ ([(.mzero a, some a, none, fun _ x _ => if originOk x false then none else some (.accRange, 0)),
        (.macw v b, none, some b, fun _ _ y => macCheck v y false), (.macst a b, some a, some b, macstCheck),
        (.mcmdCheck a, some a, none, mcmdCheck), (.mcmdZall a, some a, none, mcmdCheck), (.mcmdPcancel a, some a, none, mcmdCheck),
        (.mringPop a b, some a, some b, mringCheck), (.mringPush a b, some a, some b, mringCheck),
        (.mringReset a b, some a, some b, mringCheck), (.cpLand a b, some a, some b, landCheck), (.cpTm a b, some a, some b, noCheck),
        (.lnTask a b, some a, some b, lnTaskCheck), (.lnGraph a b, some a, some b, lnGraphCheck),
        (.lnPhase a b, some a, some b, lnPhaseCheck), (.lnCancel a b, some a, some b, levelCheck),
        (.wxdet a, some a, none, fun _ x _ => opcodeCheck x)] :
        List (Instr × Option Reg × Option Reg × Check)),
      s.operandsReady (f.2.1.toList ++ f.2.2.1.toList) [] true →
      let x := s.readOpt f.2.1
      let y := x.2.readOpt f.2.2.1
      let later := f.1 ∈ [.cpLand a b, .cpTm a b, .lnTask a b, .lnGraph a b, .lnPhase a b, .lnCancel a b]
      let held := f.1 = .lnTask a b ∧ y.2.me.stepped = true ∧ (y.2.me.sreg 0x44E).getLsbD 0 = true
      (f.2.2.2 y.2 x.1 y.1 = none → y.2.inTask = false ∨ ¬later → y.2.pushBlocked = false →
        (¬held → exec f.1 s = .next (y.2.pushed f.1 0 x.1 y.1 0 none false)) ∧
        (held → exec f.1 s = .next (y.2.pushed f.1 1 x.1 y.1 0 none false))) ∧
      (∀ c tv, f.2.2.2 y.2 x.1 y.1 = some (c, tv) → (y.2.unpop s).canClose →
        exec f.1 s = .next (s.raised (y.2.unpop s) c tv)) ∧
      (f.2.2.2 y.2 x.1 y.1 = none → y.2.inTask = true → later → ∀ h, y.2.me.helper = some h →
        ∃ t k q, exec f.1 s = .next t ∧ t.me.helper = some k ∧ k.deferred = h.deferred ++ [q] ∧ q.inst = f.1 ∧ q.a = x.1 ∧ q.b = y.1 ∧
          (t.core s.myCore).vq = (s.core s.myCore).vq)) ∧
    (s.operandsReady [b] [] true → macCheck v (s.read b).1 true = none → (s.read b).2.pushBlocked = false →
      exec (.macr v b la) s = .next ((s.read b).2.pushed (.macr v b la) 0 0 (s.read b).1 0 (some la) false)) ∧
    (s.operandsReady [a] [] true →
      let x := (s.read a).1
      let u := (s.read a).2
      (opcodeCheck x = none → u.pushBlocked = false → exec (.wxrel a) s =
        .next ((u.pushed (.wxrel a) 0 x 0 (BitVec.ofNat 64 (u.bindKey u.cur (x.toNat % 8))) none false).modMe (fun c => c.release (x.toNat % 8)))) ∧
      (∀ c tv, opcodeCheck x = some (c, tv) → (u.unpop s).canClose → exec (.wxrel a) s = .next (s.raised (u.unpop s) c tv))) ∧
    (s.operandsReady [b] [d] false → opcodeCheck (s.read b).1 = none → (s.read b).2.pushBlocked = false →
      let u := (s.read b).2
      let n := (s.read b).1.toNat % 8
      exec (.wxqry d b la) s = .next (u.pushed (.wxqry d b la) 0 (u.me.bind n).word (s.read b).1 (BitVec.ofNat 64 (u.bindKey u.cur n)) (some la) false))) ∧
  (∀ (s : State) (a b : Reg), s.me.live = true →
    (s.pfxFits useMm →
      (s.operandsReady [a, b] [] true →
        let x := s.read a
        let y := x.2.read b
        y.2.pushBlocked = false → x.1.toNat < 256 →
        (originOk y.1 false = true → exec (.mm a b) s = .next (y.2.pushed (.mm a b) s.pfx x.1 y.1 0 none false)) ∧
        (originOk y.1 true = true → exec (.mmp a b) s = .next (y.2.pushed (.mmp a b) s.pfx x.1 y.1 0 none false))) ∧
      (s.operandsReady [a, b, 28] [] true →
        let x := s.read a
        let y := x.2.read b
        let z := y.2.read 28
        (z.2.pushBlocked = false → x.1.toNat < 256 → originOk y.1 false = true →
          exec (.mms a b) s = .next (z.2.pushed (.mms a b) s.pfx x.1 y.1 z.1 none false)) ∧
        (256 ≤ x.1.toNat → (y.2.unpop s).canClose → exec (.mms a b) s = .next (s.raised (y.2.unpop s) .accRange 0)))) ∧
    (s.canExecute → s.drained s.cur = true → s.me.late = [] → s.pushBlocked = false →
      ∃ t, exec .mwait s = .next t ∧ (t.core s.myCore).seq = ((s.core s.myCore).seq + 1) % 65536 ∧ t.me.pos = s.me.pos + 1 ∧
        (t.core s.myCore).vq = (s.core s.myCore).vq) ∧
    (s.canExecute → s.drained s.cur = false ∨ s.me.late ≠ [] → ∃ t, exec .mwait s = .next t ∧ t.me.wait = .drain ∧ t.me.pc = s.me.pc)) ∧
  (∀ (s : State) (a b : Reg) (sc : BitVec 2), s.canExecute → s.operandsReady [a, b] [] true →
    ∀ f ∈ ([(.cpGo a b sc, cpCheck sc), (.gaGo a b sc, gathCheck sc true), (.scGo a b sc, gathCheck sc false),
        (.coRed a b sc, collCheck sc), (.coBcast a b sc, collCheck sc), (.coAr a b sc, collCheck sc)] : List (Instr × Check)),
      let x := s.read a
      let y := x.2.read b
      let q := { y.2.capture y.2.cur f.1 0 x.1 y.1 0 with seq := (y.2.core y.2.myCore).seq }
      (f.2 y.2 x.1 y.1 = none → y.2.inTask = false → y.2.pushBlocked = false → ∀ t u, y.2.ownLines q y.2.nextReq = (some t, u) →
        t.pushBlocked = false →
        exec f.1 s = .next (({ t with nextReq := y.2.nextReq + 1 } : State).pushed f.1 0 x.1 y.1 (BitVec.ofNat 64 y.2.nextReq) none false) ∧
        ∀ ls, (y.2.cmdLines q).1 = some ls → ∀ l ∈ ls, (t.l2line l).engine = some y.2.nextReq) ∧
      (f.2 y.2 x.1 y.1 = none → y.2.inTask = false → y.2.pushBlocked = false → (y.2.ownLines q y.2.nextReq).1 = none →
        ∃ t, exec f.1 s = .next t ∧ t.me.wait = .owned) ∧
      (sc = 3 → (y.2.me.sreg 0x807).getLsbD 1 = false → (y.2.me.sreg 0x807).getLsbD 2 = false → (y.2.unpop s).canClose →
        exec f.1 s = .next (s.raised (y.2.unpop s) .scopePolicy 0)))

/-- R279-R286: WXLD binds its opcode at issue and evicts another one from its slot, WXSTM names the load that its opcode is bound
to, and so does WAX, whose results have a window, whether or not the load has completed (R293), but for a helper's on a binding taken over
whose image has another arity; an unbound WAX enters the wax upcall
where one is set and not active. R257, R273: EN.STAT answers from the tile's engines, in the window of its result. R271, R272: RP.REC starts a recording and RP.RUN a replay. R242, R269: LN.WAIT
goes on when the context's earlier launch commands have been carried out and its level's counter is zero, with the level's flags. -/
def Obligations.WaxStatusReplayAndLaunchWait : Prop :=
  ∀ (s : State) (d a b v : Reg) (la ext : BitVec 4) (n : BitVec 3),
    (s.canExecute → s.operandsReady [a, b] [] true →
      let x := s.read a
      let y := x.2.read b
      let k := y.1.toNat % 8
      y.2.pushBlocked = false →
      (y.1 &&& 0x37 = y.1 →
        ∃ t, exec (.wxld a b) s = .next t ∧ (∃ q, (t.core s.myCore).vq = (s.core s.myCore).vq ++ [q] ∧ q.inst = .wxld a b ∧
            q.qkw = BitVec.ofNat 64 y.2.nextLoad) ∧ (t.me.bind k).ident = y.2.nextLoad ∧ (t.me.bind k).lent = false ∧
          (t.me.bind k).bound = true ∧ (t.me.bind k).slot = y.1.toNat / 16 % 4 ∧ t.me.sreg (0x2A8 + k) = x.1 ∧
          ∀ m, m < 8 → m ≠ k → (s.me.bind m).bound = true → (s.me.bind m).slot = y.1.toNat / 16 % 4 → (t.me.bind m).bound = false) ∧
      (wxstmCheck y.2 x.1 y.1 = none →
        exec (.wxstm a b) s = .next (y.2.pushed (.wxstm a b) 0 x.1 y.1 (BitVec.ofNat 64 (y.2.bindKey y.2.cur k)) none false)) ∧
      (s.inTask = false → rpCheck y.2 x.1 y.1 = none →
        ∃ t, exec (.rpRun a b) s = .next t ∧ t.me.rep.left = x.1.toNat ∧ t.me.rep.idx = 0 ∧ t.me.rep.buf = s.me.rep.buf ∧
          t.me.pos = s.me.pos + 1)) ∧
    (s.canExecute → s.operandsReady [a] [] true → s.inTask = false → 1 ≤ (s.read a).1.toNat → (s.read a).1.toNat ≤ 16 →
      (s.read a).2.pushBlocked = false →
      ∃ t, exec (.rpRec a) s = .next t ∧ t.me.rep.target = (s.read a).1.toNat ∧ t.me.rep.buf = [] ∧ t.me.rep.left = 0 ∧
        t.me.pos = s.me.pos + 1) ∧
    (s.me.live = true → s.pfxFits useWax → [v, a, b].all (fun r => blockOk r ext) = true →
      ((s.me.bind n.toNat).bound = true → s.lentFails n.toNat (fun m => waxArityOk m v a b) = true → s.canClose →
        exec (.wax v a b ext n la) s = .next (s.raised s .waxArity 0)) ∧
      ((s.me.bind n.toNat).bound = true → s.lentFails n.toNat (fun m => waxArityOk m v a b) = false → s.pushBlocked = false →
        exec (.wax v a b ext n la) s =
          .next (s.pushed (.wax v a b ext n la) s.pfx 0 0 (BitVec.ofNat 64 (s.bindKey s.cur n.toNat)) (some la) true)) ∧
      ((s.me.bind n.toNat).bound = false → s.me.sreg 0x2A0 = 0 → s.canClose →
        exec (.wax v a b ext n la) s = .next (s.raised s .waxUnbound 0)) ∧
      ((s.me.bind n.toNat).bound = false → s.inTask = false → s.me.sreg 0x2A0 ≠ 0 → (s.me.sreg 0x114).getLsbD 2 = false → s.canClose →
        s.closesClean → ∃ t, exec (.wax v a b ext n la) s = .next t ∧ t.me.pc = s.closed.me.sreg 0x2A0 ∧ t.me.sreg 0x114 = 4 ∧
          t.me.sreg 0x2A2 = BitVec.ofNat 64 (2 ^ 63 + (s.me.bind n.toNat).reason * 256 + n.toNat) ∧
          t.me.sreg 0x113 = (if (s.me.sreg 0x024).getLsbD 63 then s.me.pc - 4 else s.me.pc) ∧ t.me.sreg 0x024 = 0)) ∧
    (s.canExecute → s.copHeld = false → s.operandsReady [b] [d] false → (s.read b).1.toNat < 256 →
      let u := (s.read b).2
      let v := u.long la d (u.enStat u.cur (s.read b).1)
      exec (.enStat d b la) s = .next ((v.countOn v.cur (v.tagOf v.cur) (.enStat d b la)).goOn)) ∧
    (s.canExecute → s.inTask = false → s.copHeld = false → s.operandsReady [a, b] [] true →
      let x := s.read a
      let y := x.2.read b
      let yard := y.2.yardOf y.2.myTile
      let job := y.2.jobOf y.2.myTile
      levelOk x.1 y.1 = true →
      (y.2.lnPending y.2.cur = false → y.2.levelBusy yard job x.1 y.1 = false →
        let u := y.2.modMe (fun z => z.orFlags (y.2.levelFlags yard job x.1 y.1))
        exec (.lnWait a b) s = .next ((u.countOn u.cur (u.tagOf u.cur) (.lnWait a b)).goOn)) ∧
      (y.2.lnPending y.2.cur = true ∨ y.2.levelBusy yard job x.1 y.1 = true → ∃ t, exec (.lnWait a b) s = .next t ∧ t.me.wait = .lnWait ∧ t.me.pc = s.me.pc ∧
        s.sameStore t))

/-! Coprocessor instructions: execution (R209-R215, R218, R221, R242, R271). -/

/-- R209, R211, R214, R215: the vector operation at the head of a queue that holds lane groups computes from what it captured: its
window takes the results, its flags are set, and the entry is gone; formats that it does not take are a late operand-format cause, with
the address of its first element where it accesses memory.

R210, R211, R218, R221: what integer and bit operations write: every enabled element takes its value from the captured
elements, modulo its width, and every other bit of the block stays as it is. -/
def Obligations.VectorOperationsDeliverTheirValues : Prop :=
  (∀ (s u : State) (k c : Nat) (q : QEntry) (qs : List QEntry) (d : VInfo), (s.core k).vq = q :: qs → s.owner q = some c →
    vInfo q.inst = some d → s.takeLanes k = some u → (s.core k).held = [] →
    let o := q.vop d (u.ctx c).tc
    let tv : Word := if (vecMem q.inst).isSome then q.elemAddr o.p 0 0 else 0
    (vFormats q.inst o.p.fa o.p.fb = true → vecMem q.inst = none → q.replay = false → q.rel = none → ∀ r, o.compute = .done r →
      (∀ f ∈ r.flags, enabledCause f.2.2 (((u.ctx c).sreg 0x021).setWidth 5) = none) →
      ∃ t, exec (.vectorExecute k) s = .next t ∧ (t.core k).vq = qs ∧ s.sameStore t ∧
        (t.ctx c).windows = (s.ctx c).windows.map (fun w =>
          if w.seq = some q.seq ∧ w.ready = false then { w with ready := true, writes := r.writes } else w) ∧
        (t.ctx c).sreg 0x020 = (s.ctx c).sreg 0x020 ||| (r.flags.foldl (fun f x => f ||| x.2.2) Flags.none).setWidth 64 ∧
        (t.ctx c).late = (s.ctx c).late) ∧
    (vFormats q.inst o.p.fa o.p.fb = false → isHelperSlot (cidSlot c) = false → q.rel = none →
      ∃ t, exec (.vectorExecute k) s = .next t ∧ (t.core k).vq = qs ∧
        (t.ctx c).late = (s.ctx c).late ++ [{ seq := q.seq, ord := q.ord, cause := .operandFormat, member := 0, elem := 0, tval := tv }])) ∧
  (∀ (q : QEntry) (v a b : Reg) (ext la : BitVec 4) (tc : Bool) (x : Ctx),
    blockOk v ext = true → blockOk a ext = true → blockOk b ext = true →
    ∀ f ∈ ([(.vand v a b ext la, fun n y z => Nat.land y z % 2 ^ n), (.vor v a b ext la, fun n y z => Nat.lor y z % 2 ^ n),
        (.vxor v a b ext la, fun n y z => Nat.xor y z % 2 ^ n), (.vadd v a b ext la, fun n y z => (y + z) % 2 ^ n),
        (.vsub v a b ext la, fun n y z => (y + 2 ^ n - z) % 2 ^ n), (.vmov v a ext la, fun _ y _ => y)] :
        List (Instr × (Nat → Nat → Nat → Nat))),
      ∀ d, q.inst = f.1 → vInfo f.1 = some d →
      let o := q.vop d tc
      let w := o.p.fa.width
      let e := o.p.fa.elems
      o.p.fa.isInt = true → o.p.sat = false →
      ∃ r, o.compute = .done r ∧
        let y := r.writes.foldl (fun (y : Ctx) z => match z with
          | .v n m z => y.setVreg n ((y.vreg n &&& ~~~m) ||| (z &&& m)) | _ => y) x
        ∀ k, k < o.n * e →
          elemGet w (y.vreg (blockReg v ext (k / e))) (k % e) =
            (if enabled o.mask k then f.2 w (elemGet w (q.vreg (blockReg a ext (k / e))) (k % e))
                (elemGet w (q.vreg (blockReg b ext (k / e))) (k % e))
             else elemGet w (x.vreg (blockReg v ext (k / e))) (k % e)))

/-! Events: engines (R98, R122, R242, R246-R254, R258-R264, R272, R279, R285, R353). -/

/-- R242, R248, R406: the command at the head of a core's queue passes to its engine: to the matrix engine's input while that holds
fewer than sixteen commands, and to another engine with the lines that its issue has taken. R124, R254: the command at the front
of the matrix engine waits for a stream that reaches its rows and for an earlier command of its context that it conflicts with. R98, R248,
R251: otherwise it starts: MZERO clears its block, MM takes its operand tiles from the rings' heads, and waits for them, and a pair
of formats that is not permitted is a late operand-format cause.

R82, R98, R248: the oldest started command retires: with integer operands every element of its block is the accumulator plus the
sum of 128 products, modulo 2^32, and the rest of the accumulators stays.

R249: two halves that agree commit, and each side then multiplies with its partner's B tile; halves that differ abort both
sides, and a half whose partner has not started within 1,024 calendar cycles aborts its sender. -/
def Obligations.EnginesStartAndRetireTheirCommands : Prop :=
  ((∀ (s : State) (k : Nat) (q : QEntry) (qs : List QEntry), (s.core k).vq = q :: qs → (s.core k).held = [] →
    let t := coreTile k
    (engineOf q.inst = some 3 → (s.tile t).mq.length < 16 → ∃ u, exec (.engineAccept k) s = .next u ∧ (u.core k).vq = qs ∧
      (u.tile t).mq = (s.tile t).mq ++ [q] ∧ s.sameStore u) ∧
    (engineOf q.inst = some 3 → 16 ≤ (s.tile t).mq.length → exec (.engineAccept k) s = .next s) ∧
    (∀ n, engineOf q.inst = some n → n ∉ [3, 6] → q.qkw ≠ 0 → ∃ u o, exec (.engineAccept k) s = .next u ∧ (u.core k).vq = qs ∧
      (u.tile (cidTile q.cid)).eng = (s.tile (cidTile q.cid)).eng ++ [{ id := q.qkw.toNat, eng := n, q := q, owned := o, moved := 0, src := [] }] ∧
      s.sameStore u) ∧
    (∀ a b, q.inst = .wxld a b → (s.tile t).wq = [] → ∃ u, exec (.engineAccept k) s = .next u ∧ (u.core k).vq = qs ∧
      (u.tile t).wq = [q])) ∧
  (∀ (s : State) (t : Nat) (q : QEntry) (qs : List QEntry) (a b : Reg), (s.tile t).mq = q :: qs →
    (s.accHeld t q = true ∨ s.overtakes q 0 = true → exec (.matrixCommandStart t) s = .next s) ∧
    (s.accHeld t q = false → s.overtakes q 0 = false → (s.tile t).mrun = [] →
    (q.inst = .mzero a → ∃ u, exec (.matrixCommandStart t) s = .next u ∧ (u.tile t).mq = qs ∧
      ∀ r c, r < 128 → c < 256 → u.accWord t r c =
        if q.a.toNat % 128 ≤ r ∧ r < q.a.toNat % 128 + 32 ∧ q.a.toNat / 256 % 256 ≤ c ∧ c < q.a.toNat / 256 % 256 + 32 then 0
        else s.accWord t r c) ∧
    (q.inst = .mm a b →
      let p := q.mmPfx
      let ka := q.a.toNat % 8
      let kb := q.a.toNat / 16 % 8
      let ra := s.ring t ka
      let rb := s.ring t kb
      let pb := if ka = kb then 1 else 0
      (pairOk p.fa p.fb = true → ra.valid = true → rb.valid = true → tileBytes p.fa ≤ ra.tileBytes → tileBytes p.fb ≤ rb.tileBytes →
        (0 < ra.held → pb < rb.held → ∃ u r, exec (.matrixCommandStart t) s = .next u ∧ (u.tile t).mq = qs ∧ (u.tile t).mrun = [r] ∧
          r.q = q ∧ r.abyte = s.tmBytes t ra.view (ra.slotOff ra.head) (tileBytes p.fa) ∧
          r.bbyte = s.tmBytes t rb.view (rb.slotOff (rb.head + pb)) (tileBytes p.fb) ∧ r.paired = true) ∧
        (ra.held = 0 ∨ rb.held ≤ pb → exec (.matrixCommandStart t) s = .next s)) ∧
      (pairOk p.fa p.fb = false → ∀ c, s.owner q = some c → isHelperSlot (cidSlot c) = false → q.rel = none →
        ∃ u, exec (.matrixCommandStart t) s = .next u ∧ (u.tile t).mq = qs ∧ (u.tile t).mrun = [] ∧
          (u.ctx c).late = (s.ctx c).late ++ [{ seq := q.seq, ord := q.ord, cause := .operandFormat, member := 0, elem := 0, tval := 0 }]))))) ∧
  (∀ (s : State) (t : Nat) (r : MRun) (rs : List MRun), (s.tile t).mrun = r :: rs →
    (r.paired = false → exec (.matrixCommandRetire t) s = .next s) ∧
    (r.paired = true → r.q.scale = none → originOk r.q.b false = true →
      let p := r.q.mmPfx
      let row := r.q.b.toNat % 128
      let col := r.q.b.toNat / 256 % 256
      p.fa ∈ [.i8, .z8] → p.fb ∈ [.i8, .z8] → p.sat = false → r.abyte.length = 4096 → r.bbyte.length = 4096 →
      ∃ u, exec (.matrixCommandRetire t) s = .next u ∧ (u.tile t).mrun = rs ∧
        (∀ k, r.pops = [k] → k < 8 → (s.ring t k).valid = true → (u.ring t k).head = ((s.ring t k).head + 1) % (s.ring t k).modulus) ∧
        ∀ i j, i < 128 → j < 256 → u.accWord t i j =
          if row ≤ i ∧ i < row + 32 ∧ col ≤ j ∧ j < col + 32 then
            BitVec.ofInt 32 ((s.accWord t i j).toInt + ((List.range 128).map (fun n =>
              p.fa.intValue (r.abyte.getD (128 * (i - row) + n) 0).toNat * p.fb.intValue (r.bbyte.getD (128 * (j - col) + n) 0).toNat)).sum)
          else s.accWord t i j)) ∧
  ((∀ (s : State) (t u : Nat) (r r' : MRun) (h h' : PairHalf), t ≠ u → (s.tile t).half = some h → h.from_ = u →
    (s.tile u).half = some h' → h'.from_ = t → s.openMmp t = some r → s.openMmp u = some r' →
    let same : Prop := r.q.b.toNat / 65536 % 256 = h.tag ∧ r.q.mmPfx.fa = r'.q.mmPfx.fa ∧ r.q.mmPfx.fb = r'.q.mmPfx.fb ∧
      r.q.mmPfx.sat = r'.q.mmPfx.sat
    (same → ∃ w, exec (.mmpPairCommit t) s = .next w ∧ (w.tile t).half = none ∧ (w.tile u).half = none ∧ s.sameStore w ∧
      (w.tile t).mrun = (s.tile t).mrun.map (fun m => if m = r then { m with paired := true, bbyte := h.bytes } else m) ∧
      (w.tile u).mrun = (s.tile u).mrun.map (fun m => if m = r' then { m with paired := true, bbyte := h'.bytes } else m)) ∧
    (¬same → isHelperSlot (cidSlot r.q.cid) = false → isHelperSlot (cidSlot r'.q.cid) = false →
      ∃ w, exec (.mmpPairCommit t) s = .next w ∧ (w.tile t).mrun = (s.tile t).mrun.erase r ∧
        (w.tile u).mrun = (s.tile u).mrun.erase r' ∧
        ∀ c, s.owner r.q = some c → r.q.rel = none → ∃ l ∈ (w.ctx c).late, l.seq = r.q.seq ∧ l.cause = .pairAbort)) ∧
  ∀ (s : State) (t : Nat) (h : PairHalf), (s.tile t).half = some h →
    (s.cal < h.since + 1024 → exec (.mmpPairTimeout t) s = .next s) ∧
    (s.pairStarted t h.from_ = true → exec (.mmpPairTimeout t) s = .next s) ∧
    (h.since + 1024 ≤ s.cal → s.pairStarted t h.from_ = false →
      (∀ r, s.openMmp h.from_ = some r → isHelperSlot (cidSlot r.q.cid) = false →
        ∃ w, exec (.mmpPairTimeout t) s = .next w ∧ (w.tile h.from_).mrun = (s.tile h.from_).mrun.erase r) ∧
      (s.openMmp h.from_ = none → ∃ w, exec (.mmpPairTimeout t) s = .next w ∧ (w.tile t).half = none)))

/-- R258, R260, R242: the one command of an engine goes on when its engine does; CP.TM within tile memory copies its bytes as they
were before it began, and leaves its engine, once no earlier command of its context conflicts with it (R124), links carry its flits (R366) and
they may leave the tile (R354). R122: a write at home is one piece of its command. R264: a collective waits for every
member of its domain; members whose commands differ all end with a mismatch, and a broadcast to one member copies its source once its port lets it
send. -/
def Obligations.EnginesMoveTheirBytes : Prop :=
  (∀ (s : State) (t : Nat) (e : ECmd), (s.tile t).eng = [e] →
    exec (.engineCommandComplete t e.eng) s = .next (s.advanceCmd t e) ∧
    (∀ a b, e.q.inst = .cpTm a b → e.moved = 0 →
      let len := (e.q.sreg 0x250).toNat
      let src := e.q.a
      let dst := e.q.b
      let u := ptrTile (cidTile e.q.cid) src
      let w := ptrTile (cidTile e.q.cid) dst
      isTm src = true → isTm dst = true → u < 1024 → w < 1024 → e.q.sreg 0x251 = 0 →
      checkPtr (s.withSr e.q) e.q.cid src 1 .read = none → checkPtr (s.withSr e.q) e.q.cid dst 1 .write = none →
      ptrOff src + len ≤ 0x100000 → ptrOff dst + len ≤ 0x100000 →
      s.overtakes e.q 0 = false → (∀ k ∈ [u, w], s.routeOpen (s.yardOf (cidTile e.q.cid)) (cidTile e.q.cid) k = true) →
      (u = cidTile e.q.cid ∧ w = cidTile e.q.cid) ∨ s.portOpen (cidTile e.q.cid) 4 = true →
      ∃ x, exec (.engineCommandComplete t e.eng) s = .next x ∧ (x.tile t).eng = [] ∧
        (∀ i, i < len → x.tmByte w (ptrView dst) (ptrOff dst + i) = s.tmByte u (ptrView src) (ptrOff src + i)) ∧
        (∀ i, i < 0x100000 → i < ptrOff dst ∨ ptrOff dst + len ≤ i → x.tmByte w (ptrView dst) i = s.tmByte w (ptrView dst) i) ∧
        ∀ a, x.byte a = s.byte a) ∧
    (e.eng ≤ 1 → e.moved ≠ 0 ∨ (s.cmdStart e.q = none ∧ s.overtakes e.q 0 = false) → ∀ x i, s.movePiece e.q e.id e.moved (s.cmdFill e.q) true e.src = .go x i →
      exec (.engineWriteHome t) s = .next (x.setMoved t e e.src i))) ∧
  ∀ (s : State) (yard dom : Nat) (m : Member) (ms : List Member), s.collMembers yard dom = m :: ms →
    let count := (collBar m.2.q.sreg).toNat % 65536
    ((m :: ms).length < count → exec (.collectiveComplete yard dom) s = .next s) ∧
    (count ≤ (m :: ms).length → (∃ x ∈ ms, collKey x.2.q ≠ collKey m.2.q) →
      ((m :: ms).find? (fun x => collRank x.2.q == (collKey m.2.q).2.2.2)).isSome = true → (collFmt (m.2.q.sreg 0x272)).isSome = true →
      exec (.collectiveComplete yard dom) s = .next (s.collFail (m :: ms) (fun _ => .collMismatch)) ∧
      ∀ x ∈ m :: ms, ∀ y ∈ ((s.collFail (m :: ms) (fun _ => .collMismatch)).tile x.1).eng, y.id ≠ x.2.id) ∧
    (∀ a b sc f, ms = [] → count = 1 → m.2.q.inst = .coBcast a b sc → sc = 0 → collFmt (m.2.q.sreg 0x272) = some f →
      collRank m.2.q = (collKey m.2.q).2.2.2 → m.2.q.sreg 0x273 = 0 → m.2.moved = 0 →
      (m.2 ∈ (s.tile m.1).eng → s.portOpen m.1 6 = false → exec (.collectiveComplete yard dom) s = .next s) ∧
      (s.portOpen m.1 6 = true → s.matrixBefore m.1 m.2.q = false → (s.collSend [m]).overtakes m.2.q 0 = false →
      let n := (m.2.q.sreg 0x271).toNat
      let width := f.width / 8
      let src := m.2.q.a
      let dst := m.2.q.b
      let u := ptrTile (cidTile m.2.q.cid) src
      let w := ptrTile (cidTile m.2.q.cid) dst
      isTm src = true → isTm dst = true → u < 1024 → w < 1024 → ptrOff src % width = 0 → ptrOff dst % width = 0 →
      checkPtr (s.withSr m.2.q) m.2.q.cid src 1 .read = none → checkPtr (s.withSr m.2.q) m.2.q.cid dst 1 .write = none →
      (∀ k ∈ [u, w], s.routeOpen (s.yardOf (cidTile m.2.q.cid)) (cidTile m.2.q.cid) k = true) →
      ptrOff src + n * width ≤ 0x100000 → ptrOff dst + n * width ≤ 0x100000 →
      ∃ x, exec (.collectiveComplete yard dom) s = .next x ∧
        ∀ i, i < n * width → x.tmByte w (ptrView dst) (ptrOff dst + i) = s.tmByte u (ptrView src) (ptrOff src + i)))

/-- R279, R280: a load that finds its slot free and a valid image puts the image there under the tile's next identity; without one
the opcode is unbound and the load ends with a late wax-image-format cause, and an access that fails with its own cause. R285: a stream on a load that has failed ends with the
same cause, one on a load under way waits, and one that stops ends and reports its cause
unless an element before has raised an enabled one (R76). R272, R353: the sequencer pushes
the next instance of a replay with its registers staggered. -/
def Obligations.WaxLoadsStreamsAndReplays : Prop :=
  (∀ (s x : State) (t c : Nat) (q : QEntry) (bs : List Byte) (a b : Reg), (s.tile t).wq = [q] → q.inst = .wxld a b →
    s.owner q = some c → isHelperSlot (cidSlot c) = false → q.rel = none →
    ((s.tile t).slot (q.b.toNat / 16 % 4)).owner = none → s.overtakes q 0 = false →
    (s.readImage q q.a = .wait x → exec (.waxLoadComplete t) s = .next (s.asked x)) ∧
    (s.readImage q q.a = .got bs x → bs ≠ [] → ∃ u, exec (.waxLoadComplete t) s = .next u ∧ (u.tile t).wq = [] ∧
      (u.tile t).slot (q.b.toNat / 16 % 4) = { owner := some (s.waxOwner c), ident := (x.tile t).ident, image := bs } ∧
      (u.tile t).ident = (x.tile t).ident + 1) ∧
    (s.readImage q q.a = .got bs x → bs = [] → ∃ u, exec (.waxLoadComplete t) s = .next u ∧ (u.tile t).wq = [] ∧
      (u.ctx c).late = (x.ctx c).late ++ [{ seq := q.seq, ord := q.ord, cause := .waxFormat, member := 0, elem := 0, tval := 0 }] ∧
      (((x.ctx c).bind (q.b.toNat % 8)).ident = q.qkw.toNat → ((u.ctx c).bind (q.b.toNat % 8)).bound = false)) ∧
    (∀ e tv, s.readImage q q.a = .bad e tv x → ∃ u, exec (.waxLoadComplete t) s = .next u ∧ (u.tile t).wq = [] ∧
      (u.ctx c).late = (x.ctx c).late ++ [{ seq := q.seq, ord := q.ord, cause := e, member := 0, elem := 0, tval := tv }])) ∧
  (∀ (s : State) (t c : Nat) (q : QEntry) (a b : Reg), (s.tile t).wq = [q] → (s.tile t).streams = [] → q.inst = .wxstm a b →
    (2 ^ 63 ≤ q.qkw.toNat → q.qkw.toNat ≠ failKey → exec (.streamStart t) s = .next s) ∧
    (q.qkw.toNat = failKey → s.owner q = some c → isHelperSlot (cidSlot c) = false → q.rel = none →
      ∃ u, exec (.streamStart t) s = .next u ∧ (u.tile t).wq = [] ∧ (u.tile t).streams = [] ∧
        (u.ctx c).late = (s.ctx c).late ++ [{ seq := q.seq, ord := q.ord, cause := .waxFormat, member := 0, elem := 0, tval := 0 }])) ∧
  (∀ (s : State) (t : Nat) (m : Stream), (s.tile t).streams = [m] →
    ((s.tile t).wq = [] → exec (.streamStart t) s = .next (s.streamMove t m false)) ∧
    (m.halted = true → (∀ p ∈ portsOf m.desc, p.2.writes = false) → ∀ c n e tv, m.cause = some (n, e, tv) → s.owner m.q = some c →
      isHelperSlot (cidSlot c) = false → m.q.rel = none →
      firstCause (m.eval.2.flags.filter (fun p => decide (p.1 ≤ n))) (((s.ctx c).sreg 0x021).setWidth 5) = none →
      ∃ u, exec (.streamEnd t) s = .next u ∧ (u.tile t).streams = [] ∧
        (u.ctx c).late = (s.ctx c).late ++ [{ seq := m.q.seq, ord := m.q.ord, cause := e, member := 0, elem := 0, tval := tv }])) ∧
  ∀ (s : State) (k : Nat) (v a b : Reg) (ext la : BitVec 4) (w p : IWord),
    let x := s.ctx (coreCid k 0)
    (x.rep.left = 0 → exec (.replayPush k) s = .next s) ∧
    (x.live = true → x.late = [] → (s.core k).vq.length < 16 → (s.core k).held = [] → x.rep.buf = [(w, p)] → x.rep.left ≠ 0 →
      decode w = .ok (.vadd v a b ext la) →
      let d := 8 * (x.rep.idx + 1) * x.rep.rs + (x.rep.idx + 1) * x.rep.cs
      let i : Instr := .vadd (BitVec.ofNat 5 (v.toNat + d)) (BitVec.ofNat 5 (a.toNat + d)) (BitVec.ofNat 5 (b.toNat + d)) ext 0
      v.toNat + d < 32 → a.toNat + d < 32 → b.toNat + d < 32 → extentOk i p = true →
      ∃ t q, exec (.replayPush k) s = .next t ∧ (t.core k).vq = (s.core k).vq ++ [q] ∧ q.inst = i ∧ q.pc = x.rep.pc ∧ q.pfx = p ∧
        (t.ctx (coreCid k 0)).rep = { x.rep with left := x.rep.left - 1, idx := x.rep.idx + 1 })

/-! Events: launches and tasks (R16, R24, R133, R342-R347). -/

/-- R343, R346: the dispatcher of a running yard takes the first task of its one open launch that may leave, and places it. R347,
R133: a tile starts its oldest ready task in a free slot with a cleared frame. R345: a launch is dispatchable once its predecessors
have completed. R344: a launch from which no task has been taken for 65,536 calendar cycles, none of its placed tasks being held, rises one level. -/
def Obligations.DispatchersPlaceStartAndAge : Prop :=
  (∀ (s : State) (yard : Nat) (l : Launch) (b : Comb) (a : Task) (as : List Task) (u : Nat),
    (s.yardRuns yard = false → exec (.taskDispatch yard) s = .next s) ∧
    (s.yardRuns yard = true → s.launches = [l] → l.yard = yard → l.prio < 4 → l.open = true → l.queue = a :: as →
      s.combAt yard l.job = some b → s.mayLeave l a = true → s.placing b a = .tile u →
      ∃ t, exec (.taskDispatch yard) s = .next t ∧ (t.tile u).ready = (s.tile u).ready ++ [a] ∧
        t.launches = [{ l with queue := as, running := l.running ++ [a.index], since := s.cal }])) ∧
  (∀ (s : State) (t n f : Nat) (a : Task) (as : List Task),
    (s.startWaits t = true ∨ (s.tile t).move.isSome = true ∨ s.yardRuns (s.yardOf t) = false → exec (.helperTaskStart t) s = .next s) ∧
    (s.startWaits t = false → (s.tile t).move = none → s.yardRuns (s.yardOf t) = true → t < 1024 →
      (∀ i, i < 4 → (s.core (4 * t + i)).requeue = []) → (s.tile t).ready = a :: as → s.startPlace (s.freestCore t) = some (n, f) →
      let c := coreCid (s.freestCore t) n
      let off := s.frameOff t f
      ∃ u h, exec (.helperTaskStart t) s = .next u ∧ (u.tile t).ready = as ∧ f ∈ (u.tile t).frames ∧
        (u.ctx c).live = true ∧ (u.ctx c).priv = .u ∧ (u.ctx c).pc = a.entry ∧ (u.ctx c).helper = some h ∧ h.frame = f ∧
        h.task = { a with slot := c } ∧ h.dirty = [] ∧ h.reads = [] ∧ h.deferred = [] ∧
        (u.ctx c).greg 31 = BitVec.ofNat 64 (0xF * 2 ^ 60 + off + 4096) ∧ (∀ r, r ≠ 31 → (u.ctx c).greg r = 0) ∧
        (off % 4096 = 0 → off + 4096 ≤ 0x100000 → ∀ i, i < 4096 → u.tmByte t 0 (off + i) = 0))) ∧
  (∀ (s : State) (yard : Nat), ∃ u, exec (.successorDispatchable yard) s = .next u ∧
    u.launches = s.launches.map (fun l => if l.yard = yard ∧ l.count ≠ 0 ∧ l.dispatchable = false then
      { l with dispatchable := s.eligible l.yard l.job l.id, since := if s.eligible l.yard l.job l.id then s.cal else l.since } else l) ∧
    u.mem = s.mem ∧ u.tm = s.tm) ∧
  ∀ (s : State) (y j i : Nat) (l : Launch), s.launches = [l] → l.is y j i = true →
    ∃ u, exec (.launchAging y j i) s = .next u ∧ u.launches =
      [if l.open = true ∧ l.queue ≠ [] ∧ s.heldTasks l = false ∧ l.since + 65536 ≤ s.cal ∧ l.prio ≠ 0 then
        { l with prio := l.prio - 1, since := l.since + 65536 } else l]

/-- R24, R25, R114, R134, R178: a task commits once its coprocessor work has drained, its lines are free and L2 has room for
them (R368). A read set with a line
whose version has changed aborts it: the helper is gone and the task is first in its launch's queue again, with one more abort.
Otherwise its bytes are written at home, no other line changes, its slot is free, and with HALT's retain bit its frame is kept. -/
def Obligations.CommitsValidateAndPublish : Prop :=
  ∀ (s : State) (c : Nat) (h : Helper) (retain : Bool), (s.ctx c).helper = some h →
    (h.halting = none → exec (.taskCommit c) s = .next s) ∧
    (h.halting = some retain →
      let k := cidCore c
      let ls := h.dirtyLines ++ h.reads.map (fun e => e.line)
      (s.drained c = false ∨ s.turnToCommit h.task = false ∨ (∃ l ∈ ls, s.homeOpen (cidTile c) (l * 128) (some c) = false) ∨
          (h.deferred = [] ∧ s.l2RoomAll h.dirtyLines = false) →
        exec (.taskCommit c) s = .next s) ∧
      (s.drained c = true → s.turnToCommit h.task = true → (∀ l ∈ ls, s.homeOpen (cidTile c) (l * 128) (some c) = true) → h.deferred = [] →
        s.l2RoomAll h.dirtyLines = true →
        (h.task.solo = false → s.readsHold h = false →
          ∃ u, exec (.taskCommit c) s = .next u ∧ (u.ctx c).live = false ∧
            ∀ i l, h.task.launch = some i → s.launchAt h.task.yard h.task.job i = some l → ∃ m a, u.launchAt h.task.yard h.task.job i = some m ∧
              m.queue = a :: l.queue ∧ a.index = h.task.index ∧ a.data = h.task.data ∧ a.aborts = h.task.aborts + 1 ∧
              a.solo = decide (8 ≤ h.task.aborts + 1)) ∧
        (s.readsHold h = true → h.amos = [] → h.task.launch = none → s.isDead (s.tagOf c) = false → (h.dirty.map (fun (p : Nat × Option Byte) => p.1)).Nodup →
          ∃ u, exec (.taskCommit c) s = .next u ∧ (u.ctx c).live = false ∧ (u.ctx c).helper = none ∧
            (∀ a b, (a, some b) ∈ h.dirty → u.byte a = b) ∧ (∀ a, lineOf a ∉ h.dirtyLines → u.byte a = s.byte a) ∧
            ∀ n ∈ [cidSlot h.task.slot, cidSlot c],
              (u.core k).endedOf n = if retain && !(s.losing (cidTile c)) then h.frame + 1 else 0)))

/-! Events: the boundary of an instruction, saves (R55, R308, R312-R325). -/

/-- R302, R303, R312-R315, R306: a late cause, a single step and a task-fault record are taken at a boundary once the windows can close: the
cause register tells what kind it is and of which element, the trap value is the cause's, the resume address is that of the next
instruction, and the report is spent. What is not due changes nothing, nor does a step while its command waits to be accepted (R315). -/
def Obligations.BoundaryCausesAreTaken : Prop :=
  ∀ (s : State) (c : Nat) (l : Late) (r : TaskFault) (rs : List TaskFault),
    let x := s.ctx c
    let taken (u : State) (e : Cause) (word tv : Word) : Prop :=
      let toH := x.goesToH e
      let b := trapBase toH
      x.sreg (b + 1) ≠ 0 → (u.ctx c).pc = x.sreg (b + 1) ∧ (u.ctx c).priv = (if toH then .h else .s) ∧ (u.ctx c).sreg (b + 2) = x.pc ∧
        (u.ctx c).sreg (b + 3) = word ∧ (u.ctx c).sreg (b + 4) = tv ∧ (u.ctx c).inTrap toH = true ∧ (u.ctx c).wait = .none
    (s.lateDue c = false → exec (.lateCauseReport c) s = .next s) ∧ (s.stepDue c = false → exec (.singleStepTrap c) s = .next s) ∧
    (s.recordDue c = false → exec (.taskFaultRecord c) s = .next s) ∧ (s.accepting c = true → exec (.singleStepTrap c) s = .next s) ∧
    (s.windowsReady c = true →
      (s.lateDue c = true → x.late = [l] → ∃ u, exec (.lateCauseReport c) s = .next u ∧
        taken u l.cause (BitVec.ofNat 64 (2 ^ 63 + l.member % 256 * 2 ^ 40 + l.elem % 256 * 2 ^ 32 + l.cause.code)) l.tval ∧
        (x.sreg (trapBase (x.goesToH l.cause) + 1) ≠ 0 → (u.ctx c).late = [] ∧ (u.ctx c).sreg 0x450 = BitVec.ofNat 64 (l.seq % 65536))) ∧
      (s.stepDue c = true → s.accepting c = false → ∃ u, exec (.singleStepTrap c) s = .next u ∧ taken u .singleStep 0x086 0 ∧
        (x.sreg (trapBase (x.goesToH .singleStep) + 1) ≠ 0 → (u.ctx c).stepPend = false)) ∧
      (s.recordDue c = true → x.records = r :: rs → ∃ u, exec (.taskFaultRecord c) s = .next u ∧
        taken u r.cause (BitVec.ofNat 64 (2 ^ 62 + r.cause.code)) (BitVec.ofNat 64 (r.launch % 256 * 2 ^ 56 + r.index % 65536)) ∧
        (x.sreg (trapBase (x.goesToH r.cause) + 1) ≠ 0 → (u.ctx c).records = rs)))

/-- R55, R56, R310, R316, R320, R324, R325: an upcall that is due is entered, a loss before a gain (the model's order, log 30); a
slice that has expired asks the control context to save, or enters the resident handler of an empty slot; a context that has waited
past its budget is asked to save; an uncorrectable tile error is a late cause at every control context of the tile and ends its
tasks. What is not due changes nothing. -/
def Obligations.UpcallsSlicesBudgetsAndTileErrors : Prop :=
  (∀ (s : State) (c : Nat),
    let x := s.ctx c
    (s.upcallDue c = false → exec (.upcallEntry c) s = .next s) ∧
    (s.upcallDue c = true → s.windowsReady c = true →
      ∃ u, exec (.upcallEntry c) s = .next u ∧ (u.ctx c).pc = x.sreg 0x112 ∧ (u.ctx c).sreg 0x113 = x.pc ∧
        (u.ctx c).sreg 0x114 = (if x.lossDue then 6 else 5) ∧ (u.ctx c).lossDue = false ∧ (u.ctx c).priv = x.priv ∧
        (∀ m, m ≠ c → u.ctx m = s.ctx m)) ∧
    (s.overBudget c = false → exec (.budgetExceeded c) s = .next s) ∧
    (s.overBudget c = true → x.sreg 0x44C = 0 → ∃ u, exec (.budgetExceeded c) s = .next u ∧ (u.ctx c).saveReq = 2 ∧ s.sameStore u) ∧
    (∀ pa pg t, s.overBudget c = true → s.agentPa c (x.sreg 0x44C) 64 .write = (.ok pa pg, t) → s.isDead 0x10000 = false →
      ∃ u, exec (.budgetExceeded c) s = .next u ∧ (u.ctx c).saveReq = 2 ∧ u.bytes pa 64 = t.syncSnapshot c)) ∧
  (∀ (s : State) (k : Nat),
    (s.sliceOver k = false ∨ (s.core k).handler = true → exec (.sliceExpiry k) s = .next s) ∧
    (s.sliceOver k = true → (s.core k).handler = false → ∃ u, exec (.sliceExpiry k) s = .next u ∧ (u.core k).sliceStart = s.tileCycles (coreTile k) ∧
      ((s.ctx (coreCid k 0)).live = true → (u.ctx (coreCid k 0)).saveReq =
        if (s.ctx (coreCid k 0)).saveReq = 0 then 1 else (s.ctx (coreCid k 0)).saveReq) ∧
      ((s.ctx (coreCid k 0)).live = false → (u.core k).handler = true ∧ (u.ctx (coreCid k 11)).live = true ∧
        (u.ctx (coreCid k 11)).priv = .s ∧ (u.ctx (coreCid k 11)).pc = (s.core k).sreg 0x446 ∧ (u.ctx (coreCid k 11)).greg 1 = 0))) ∧
  ∀ (s : State) (t : Nat), ∃ u, exec (.uncorrectableTileError t) s = .next u ∧
    ∀ c ∈ tileCids t, (s.ctx c).live = true →
      (isHelperSlot (cidSlot c) = false → ∃ l, (u.ctx c).late = (s.ctx c).late ++ [l] ∧ l.cause = .tileError) ∧
      (isHelperSlot (cidSlot c) = true → (s.ctx c).helper.isSome = true → (u.ctx c).live = false)

/-! Events: clocks, calendars, routes and territory (R37-R60, R356, R360, R361, R371, R372, R392). -/

/-- R29, R361: a switch to fixed timing completes in its cycle and not before it, and a departure ends in its own. R360: a droop
stretches a cycle of an elastic tile and none of a pinned one. R356: the 64 bytes of a port's calendar take effect together, at the
start of the first period that begins at least 64 cycles after the last store. R392: a route entry takes effect once every access
under the old one has been acknowledged.

R39-R43, R60: at a waggle boundary every tile of a comb takes its load and counts its busy cycles anew, and a tile
of a comb that holds its border does not begin to move. A border agent decides for a move only where its own comb does not hold,
exceeds its floor, and neither fixed timing nor a retained frame keeps the tile, and to an unheld comb of the yard beside the tile.
A request to cede a tile ends after 16 periods. -/
def Obligations.ClocksCalendarsAndBordersChange : Prop :=
  (∀ (s : State) (t d : Nat),
    (∀ n, (s.tile t).pinDue = some n →
      (s.cal < n → exec (.pinSwitchComplete t) s = .next s) ∧
      (n ≤ s.cal → ∃ u, exec (.pinSwitchComplete t) s = .next u ∧ (u.tile t).pinned = true ∧ (u.tile t).pinDue = none ∧
        (u.tile t).leaving = none ∧ s.sameStore u ∧ ∀ c, u.ctx c = s.ctx c)) ∧
    (∀ n, (s.tile t).leaving = some n →
      (s.cal < n → exec (.elasticReturnComplete t) s = .next s) ∧
      (n ≤ s.cal → ∃ u, exec (.elasticReturnComplete t) s = .next u ∧ (u.tile t).leaving = none ∧ s.sameStore u)) ∧
    ((s.tile t).pinned = true → exec (.droopStretch t d) s = .next s) ∧
    ((s.tile t).pinned = false → d ≠ 0 → ∃ u, exec (.droopStretch t d) s = .next u ∧
      (u.tile t).clkStretched = (s.tile t).clkStretched + 1 ∧ s.sameStore u) ∧
    (∀ n, SMap.get (fun _ => 0) s.calSince t = n + 1 →
      (s.cal < (n + 127) / 64 * 64 → exec (.calendarApply t) s = .next s) ∧
      ((n + 127) / 64 * 64 ≤ s.cal → ∃ u, exec (.calendarApply t) s = .next u ∧
        (∀ i, i < 64 → SMap.get (fun _ => (0 : Byte)) u.calApplied (t * 64 + i) = s.byte (configPa (t * 64 + i))) ∧
        ∀ a, a / 64 ≠ t → SMap.get (fun _ => (0 : Byte)) u.calApplied a = SMap.get (fun _ => (0 : Byte)) s.calApplied a)) ∧
    ((∃ r ∈ s.remotes, r.pcie = false ∧ paSpace r.pa = 0xA ∧ deviceOf r.pa = d ∧ r.acked = false) → exec (.routeEntryApply d) s = .next s) ∧
    ((∀ r ∈ s.remotes, r.pcie = false → paSpace r.pa = 0xA → deviceOf r.pa = d → r.acked = true) → ∃ u, exec (.routeEntryApply d) s = .next u ∧
      u.route d = s.routeStored d)) ∧
  ((∀ (s : State), ∃ u, exec .waggleBoundary s = .next u ∧
    (∀ b ∈ s.combs, ∀ t ∈ b.tiles, (u.tile t).load = s.loadOf t ∧ (u.tile t).busy = 0) ∧
    (∀ t b, s.combOf t = some b → b.holdFor s.cal = true → (u.tile t).move = (s.tile t).move)) ∧
  (∀ (s : State) (t : Nat) (d : Decision), s.borderDecision t = some d → d.tile = t ∧ ∃ y ∈ s.combs, t ∈ y.tiles ∧
    y.holdFor s.cal = false ∧ y.floorFor s.cal < y.tiles.length ∧ s.wantsPin t = false ∧ s.retains t = false ∧ s.simplePoint y t = true ∧
    s.reserved t = false ∧ ∃ x ∈ s.combs, x.yard = y.yard ∧ x.job = d.job ∧ x.job ≠ y.job ∧ x.holdFor s.cal = false ∧ d.via ∈ x.tiles ∧
      d.via ∈ neighbours t) ∧
  ∀ (s : State) (t a : Nat), (s.tile t).cede = some a →
    (s.cal < a + 65536 → exec (.cedeRequestExpiry t) s = .next s) ∧
    (a + 65536 ≤ s.cal → ∃ u, exec (.cedeRequestExpiry t) s = .next u ∧ (u.tile t).cede = none ∧ s.sameStore u))

/-- R47, R48: after the loss grace the control contexts left on a tile are asked for a forced save and its helpers' tasks abort; a
move whose contexts are gone disarms the tile's landing windows and refuses requests; one that has drained passes its tile, cleared,
from one comb to the other, and both generations rise.

R371, R372: a job begins with the passing of its rectangle, or its entry's status tells why it does not: 1 where the rectangle is
not within one comb of the yard, 2 where what is left falls below the floor, 3 where the job exists already. A job ends with the
killing of its contexts and the passing of its tiles to the adjacent comb of the lowest id; with no such comb its status is 3. Both wait
while the yard's dispatcher does not run (R365, R373). -/
def Obligations.TilesAndJobsChangeHands : Prop :=
  (∀ (s : State) (t : Nat) (m : Move), (s.tile t).move = some m →
    (2 < m.step ∨ s.tileCycles t < m.since + 65536 → exec (.lossGraceExpiry t) s = .next s) ∧
    (m.step ≤ 2 → m.since + 65536 ≤ s.tileCycles t → ∃ u, exec (.lossGraceExpiry t) s = .next u ∧
      (∀ c ∈ controlCids t, (s.ctx c).live = true → (s.ctx c).saveReq ≠ 5 → (u.ctx c).saveReq = 4) ∧
      ∀ n, n < 4 → ∀ c ∈ s.helpersOf (4 * t + n), (s.ctx c).helper.isSome = true → (u.ctx c).live = false) ∧
    ∀ y x, s.combOf t = some y → s.combAt y.yard m.toJob = some x → m.via < 1024 →
      (m.step ≤ 2 → s.hasContexts t = true ∨ s.recState y.yard ≠ 2 → exec (.handoverDrainComplete t) s = .next s) ∧
      (m.step ≤ 2 → s.hasContexts t = false → s.recState y.yard = 2 → ∃ u, exec (.handoverDrainComplete t) s = .next u ∧
        (u.tile t).move = some { m with step := 3 } ∧ ∀ w ∈ u.wins, w.2.tile ≠ t) ∧
      (2 < m.step → s.tileDrained t = false → exec (.handoverDrainComplete t) s = .next s) ∧
      let py := s.descPa y
      let px := py.2.descPa x
      let ring := (List.range 1024).filter (fun v => (s.tile v).retired && s.countsIn x v)
      (2 < m.step → s.tileDrained t = true → m.toJob ≠ y.job → s.combAt y.yard y.job = some y → (∃ v ∈ y.tiles, v ≠ t) →
        (x.tiles = [] ∨ connected (sortNat (x.tiles ++ [t] ++ ring)).eraseDups = true) →
        py.1 ≠ .wait → px.1 ≠ .wait → px.2.descFree py.1 = true → px.2.descFree px.1 = true →
        ∃ u y' x', exec (.handoverDrainComplete t) s = .next u ∧ (u.tile t).move = none ∧ (u.tile t).lastMove = s.cal ∧
          (∀ v o, u.tmByte t v o = 0) ∧ (u.tile t).l1 = [] ∧
          u.combAt y.yard y.job = some y' ∧ y'.tiles = y.tiles.filter (fun v => v ≠ t) ∧ y'.gen = y.gen + 1 ∧
          u.combAt y.yard m.toJob = some x' ∧ t ∈ x'.tiles ∧ (∀ v ∈ x.tiles, v ∈ x'.tiles) ∧ x'.gen = x.gen + 1)) ∧
  (∀ (s : State) (v j : Nat),
    (s.yardRuns v = false →
      (s.recState v = 0 → exec (.jobGo v j) s = .next s ∧ exec (.jobEnd v j) s = .next s) ∧
      (s.recState v ≠ 0 → exec (.jobGo v j) s = .next (s.later (.jobGo v j)) ∧ exec (.jobEnd v j) s = .next (s.later (.jobEnd v j)))) ∧
    (s.yardRuns v = true →
    ((s.combAt v j).isSome = true → exec (.jobGo v j) s = .next (s.jobStatus v j 3)) ∧
    (s.combAt v j = none →
      let ts := rectTiles (BitVec.ofNat 64 (leNat (s.homeBytes (s.jobEntry v j + 8) 8)))
      (ts.head?.bind (fun t => s.combOf t) = none → exec (.jobGo v j) s = .next (s.jobStatus v j 1)) ∧
      ∀ b, ts.head?.bind (fun t => s.combOf t) = some b →
        (b.yard ≠ v ∨ (∃ t ∈ ts, t ∉ b.tiles) → exec (.jobGo v j) s = .next (s.jobStatus v j 1)) ∧
        let rest := b.tiles.filter (fun t => !(ts.contains t))
        let ring := (List.range 1024).filter (fun t => (s.tile t).retired && s.countsIn { b with tiles := rest } t)
        b.yard = v → (∀ t ∈ ts, t ∈ b.tiles) →
          (rest.length < b.floor → exec (.jobGo v j) s = .next (s.jobStatus v j 2)) ∧
          (b.floor ≤ rest.length → connected (rest ++ ring) = true → (∃ t ∈ ts, s.reserved t = true) → exec (.jobGo v j) s = .next (s.jobStatus v j 3)) ∧
          (b.floor ≤ rest.length → connected (rest ++ ring) = true → (∀ t ∈ ts, s.reserved t = false) →
            ∃ u x, exec (.jobGo v j) s = .next u ∧ u.combs = s.combs ++ [x] ∧ x.yard = v ∧ x.job = j ∧ x.tiles = [] ∧
              ∀ t ∈ ts, (u.tile t).move = some { toJob := j, via := 1024, step := 2, since := s.tileCycles t } ∧ (u.tile t).ready = [])) ∧
    (s.combAt v j = none → exec (.jobEnd v j) s = .next s) ∧
    ∀ b, s.combAt v j = some b →
      let js := (s.combsBeside v j b.tiles).map (fun c => c.job)
      (js = [] → exec (.jobEnd v j) s = .next (s.jobStatus v j 3)) ∧
      ∀ i ∈ js, (∀ n ∈ js, i ≤ n) → ∃ u, exec (.jobEnd v j) s = .next u ∧
        (∀ t ∈ b.tiles, ∀ c ∈ tileCids t, cidSlot c ≤ 10 → (u.ctx c).live = false) ∧
        ∀ t ∈ b.tiles, (s.tile t).move = none → (u.tile t).move = some { toJob := i, via := 1024, step := 2, since := u.tileCycles t }))

/-! Events: homes, links and ports (R85, R102-R111, R323, R385-R393). -/

/-- R107, R103, R110, R183: a request of another device is served in a line's one order: a read answers what the line holds, a write
puts its bytes there and advances its version by 1. A line's dirty bytes leave L1 as one write at home. R104: an eviction from L2
raises its granule's floor to the line's version, and a line that is filled again takes floor + 1. A clean line of L1 goes, a dirty
one stays. What a tile sends home goes when the calendar lets it (R354). R323: the mark of a dead tag is removed once no request bears it.

R390: a posted write is applied once, and without relaxed ordering only after every earlier one of its requester on its port. R388: its BAR
and address name port A, or a tenant's landing window. R102, R386, R389, R391: one to a window is counted as dropped where the window is not
armed, its tenant does not run, or the requester is not admitted; one that does not fit or is poisoned sets the fill word's overflow; another
one's bytes land and are counted; where its fill word is malformed, the context that armed the window has a late fill-word-format cause
(R100). R385, R388: a read of BAR2 is unsupported, and an answered request is done with; R123: a write's bytes are counted then.
R392: Milay answers where a port of the route is up, and of one line's requests in the order of issue. R393: ports go down and come up, and
an access that no port has been able to carry for 1 ms is given up with its cause. -/
def Obligations.HomesAndPortsServeTheirTraffic : Prop :=
  ((∀ (s : State) (dev pa tag : Nat) (m : Bool), paSpace pa = 0 → s.lineFree pa none = true → s.isDead tag = false →
    (∀ op, 0 < homeSize op → pa % 128 + homeSize op ≤ 128 → s.memBad pa = true →
      exec (.homeAccess { dev := dev, tag := tag, pa := pa, memSide := m, op := op }) s = .next { s with out := s.out ++ [.milayError dev] }) ∧
    (∀ n, 0 < n → pa % 128 + n ≤ 128 → s.memBad pa = false →
      ∃ u, exec (.homeAccess { dev := dev, tag := tag, pa := pa, memSide := m, op := .read n }) s = .next u ∧
      u.out = s.out ++ [.milay dev (s.homeBytes pa n)] ∧ ∀ a, u.byte a = s.byte a) ∧
    (∀ bs, 0 < bs.length → pa % 128 + bs.length ≤ 128 → s.memBad pa = false →
      ∃ u, exec (.homeAccess { dev := dev, tag := tag, pa := pa, memSide := m, op := .write bs }) s = .next u ∧ u.out = s.out ++ [.milay dev []] ∧
        u.bytes pa bs.length = bs ∧ (∀ a, a < pa ∨ pa + bs.length ≤ a → u.byte a = s.byte a) ∧
        u.verOf pa = if m then s.verOf pa else s.verOf pa + 1)) ∧
  (∀ (s : State) (t l : Nat),
    (s.homeOpen t (l * 128) none = true → exec (.l1Writeback t l) s = .next (s.writeBack t l)) ∧
    (s.homeOpen t (l * 128) none = false → exec (.l1Writeback t l) s = .next s) ∧
    (s.evictable l = true → ∃ u, exec (.l2Eviction l) s = .next u ∧ (u.l2line l).present = false ∧
      u.floorOf (l * 128) = (if s.floorOf (l * 128) < (s.l2line l).ver then (s.l2line l).ver else s.floorOf (l * 128)) ∧
      u.verOf (l * 128) = u.floorOf (l * 128) + 1 ∧ s.sameStore u) ∧
    (s.evictable l = false → exec (.l2Eviction l) s = .next s) ∧
    (((s.tile t).roLine l).present = false →
      (((s.tile t).line l).dirty = [] → ∃ u, exec (.l1LineEviction t l) s = .next u ∧ (u.tile t).line l = CacheLine.absent ∧
        ∀ a, u.byte a = s.byte a) ∧
      (((s.tile t).line l).dirty ≠ [] → exec (.l1LineEviction t l) s = .next s)) ∧
    ((∀ p ∈ (s.tile t).wcb, s.homeOpen t p.1 none = true) → ((s.tile t).wcb.map (fun (p : Nat × Option DirtyByte) => p.1)).Nodup →
      s.isDead 0x10000 = false → ∃ u, exec (.writeCombineDrain t) s = .next u ∧ (u.tile t).wcb = [] ∧
        ∀ a d, (a, some d) ∈ (s.tile t).wcb → s.isDead d.tag = false → s.channelDead (lineOf a * 128) = false → u.byte a = d.byte)) ∧
  ∀ (s : State) (tag : Nat),
    (s.isDead tag = false ∨ s.tagInFlight tag = true → exec (.tagDrainComplete tag) s = .next s) ∧
    (s.isDead tag = true → s.tagInFlight tag = false → ∃ u, exec (.tagDrainComplete tag) s = .next u ∧ u.isDead tag = false ∧
      (∀ g, g ≠ tag → u.isDead g = s.isDead g) ∧ ∀ a, u.byte a = s.byte a)) ∧
  ((∀ (s : State) (w : PcieWrite),
    let t := s.notePost w
    (s.mayApply w = true ↔ (w.peer, w.requester, w.seq) ∉ s.posts ∧ (w.relaxed = true ∨ ∀ n, n < w.seq → (w.peer, w.requester, n) ∈ s.posts)) ∧
    (w.peer, w.requester, w.seq) ∈ t.posts ∧
    (s.mayApply w = false → exec (.pciePostedWrite w) s = .next s) ∧
    (s.mayApply w = true →
      (∀ v n o, v < 32 → n < 64 → o < 2 ^ 20 → w.bar = 2 → w.addr = (if w.peer then v * 2 ^ 26 else 0) + n * 2 ^ 20 + o →
        (w.peer = false → w.fn = v + 1) →
        let x := SMap.get (fun _ => LandWin.disarmed) s.wins (v * 64 + n)
        ((w.peer = true ∧ s.admitted v w.requester = false) ∨ x.armed = false ∨ s.yardRuns v = false →
          exec (.pciePostedWrite w) s = .next (t.countDrop v)) ∧
        (x.armed = true → s.yardRuns v = true → (w.peer = true → s.admitted v w.requester = true) →
          (w.poisoned = true ∨ x.len < o + w.bytes.length → exec (.pciePostedWrite w) s = .next (t.overflowWindow x)) ∧
          (w.poisoned = false → o + w.bytes.length ≤ x.len →
            let r := (t.setTmBytes x.tile x.view (x.off + o) w.bytes).fillArrive x.tile (ptrView x.fill) (ptrOff x.fill) w.bytes.length
            exec (.pciePostedWrite w) s = .next (if r.2 then r.1.raiseLate x.command .fillFormat 0 0 0 else r.1)))) ∧
      (w.peer = false → w.fn = 0 → w.bar = 0 → w.poisoned = false →
        exec (.pciePostedWrite w) s = .next (t.portAWrite w.addr w.bytes)) ∧
      (w.bar ≠ 2 → w.peer = true ∨ w.fn ≠ 0 ∨ w.bar ≠ 0 ∨ w.poisoned = true → exec (.pciePostedWrite w) s = .next t))) ∧
  (∀ (s : State) (v : Nat), v < 32 → ∀ u, u = s.countDrop v →
    u.memWord (configPa (0x132000 + 8 * v)) =
      if s.memWord (configPa (0x132000 + 8 * v)) = BitVec.allOnes 64 then BitVec.allOnes 64 else s.memWord (configPa (0x132000 + 8 * v)) + 1) ∧
  (∀ (s : State) (peer : Bool) (tag : Nat) (w : Word), ∃ u, exec (.pcieUnsupportedRequest peer tag) s = .next u ∧
    u.out = s.out ++ [.unsupported peer tag] ∧ u.mem = s.mem ∧ u.tm = s.tm ∧ ∃ x, exec (.msixPost w) s = .next x ∧
    x.out = s.out ++ [.msix (w.getLsbD 63) (w.toNat % 32) (w.toNat / 256 % 8)] ∧ x.mem = s.mem ∧ x.tm = s.tm) ∧
  (∀ (s : State) (r : Remote) (ps qs : List Remote), s.remotes = ps ++ r :: qs → (∀ q ∈ ps ++ qs, q.id ≠ r.id) → r.acked = false →
    let i : Instr := if r.pcie then .pcieCompletion r.id else .milayAcknowledgement r.id
    let gone : State := { s with remotes := ps ++ qs }
    let open_ : Prop := r.pcie = true ∨ (r.failed = false ∧ s.milayOpen r = true)
    (s.milayOpen r = true ↔ s.routeDead (deviceOf r.pa) = false ∧
      ∀ q ∈ s.remotes, q.id < r.id → q.pcie = false → q.acked = false → q.failed = false → lineOf q.pa ≠ lineOf r.pa) ∧
    (¬open_ → exec i s = .next s) ∧
    (open_ →
      (r.isWrite = true →
        exec i s = .next (({ (if r.pcie then s.setBytes r.pa r.bytes else s) with remotes := ps ++ qs } : State).countAcked r)) ∧
      (r.isWrite = false → r.pcie = true ∨ r.fill = none →
        ∃ u, exec i s = .next u ∧ u.remotes = ps ++ { r with acked := true } :: qs) ∧
      (r.isWrite = false → r.pcie = false → r.fill ≠ none → ∃ u, exec i s = .next u ∧ ∀ q ∈ ps ++ qs, q ∈ u.remotes)) ∧
    (r.pcie = false →
      let expired : Prop := r.failed = true ∨ (r.sent + 1000000 ≤ s.cal ∧ s.routeDead (deviceOf r.pa) = true)
      (¬expired ∨ s.canRaise r = false → exec (.milayAccessTimeout r.id) s = .next s) ∧
      (expired → s.canRaise r = true →
        (r.isWrite = false → r.fill = none →
          exec (.milayAccessTimeout r.id) s = .next { s with remotes := ps ++ { r with acked := true, failed := true } :: qs }) ∧
        (r.isWrite = false → r.fill ≠ none → exec (.milayAccessTimeout r.id) s = .next gone) ∧
        (r.isCompanion = true → exec (.milayAccessTimeout r.id) s = .next (gone.dropCompanion r.pa)) ∧
        (r.isWrite = true → r.isCompanion = false →
          exec (.milayAccessTimeout r.id) s = .next (gone.writeError r) ∧
          (∀ q c, r.cmd = some q → q.rel = none → gone.owner q = some c → isHelperSlot (cidSlot c) = false →
            ∃ l, ((gone.writeError r).ctx c).late = (s.ctx c).late ++ [l] ∧ l.cause = .memError ∧ l.tval = r.tv ∧
              l.seq = q.seq ∧ l.ord = q.ord))))) ∧
  ∀ (s : State) (p : Nat), p < 18 →
    (s.byte (linkPa p) ≠ 3 → ∃ u w, exec (.milayPortDown p) s = .next u ∧ u.byte (linkPa p) = 0 ∧
      exec (.milayPortTrained p) s = .next w ∧ w.byte (linkPa p) = 2) ∧
    (s.byte (linkPa p) = 3 → exec (.milayPortDown p) s = .next s ∧ exec (.milayPortTrained p) s = .next s))

/-! Events: tenants (R363-R381). -/

/-- R364, R365: each command of a tenant record is refused with status 1 while another one is in progress and with status 2 in a
state that does not accept it; a reserved command has status 12. The record keeps its state.

R365, R366, R373, R375-R378: what the commands of a record do in their turn: a create that fails a check tells which, and otherwise forms
the yard in comb 0 with floor 1; a start runs it; a save stays in state 3 until the yard is at rest; a resume of an image that is not
there is refused; a teardown with no context left frees the record; a migration out writes the ticket, and in takes it once.

R377, R379-R381: a checkpoint saves the yard and stays in state 3 until it is at rest; a step is complete once the buddy's copy is written,
and the record then names it; a roll back to a step that this device holds leaves the yard saved as that step holds it, and one for which
there is no common step (a free choice of the model's, log 5) has status 11; a migration that fails leaves the yard saved, with
status 10, and one that succeeds tears it down. -/
def Obligations.TenantCommandsTakeEffect : Prop :=
  (∀ (s : State) (v : Nat), v < 32 →
    let word (n : Nat) : Word := BitVec.ofNat 64 (s.recState v * 2 ^ 60 + n * 2 ^ 48)
    (∀ f ∈ ([(.tenantCreate v, 1, [0]), (.tenantStart v, 2, [1]), (.tenantSave v, 3, [2]), (.tenantResume v, 4, [4]),
        (.tenantTeardown v, 5, [1, 4]), (.tenantMigrateOut v, 6, [4]), (.tenantMigrateIn v, 7, [0]), (.tenantCheckpoint v, 8, [2]),
        (.tenantRollBack v, 9, [2, 4])] : List (Instr × Nat × List Nat)),
      ((s.tenant v).cmd ≠ f.2.1 → (s.tenant v).cmd ≠ 0 → ∃ u, exec f.1 s = .next u ∧ u.memWord (recordPa v) = word 1 ∧
        u.tenants = s.tenants ∧ u.ctxs = s.ctxs ∧ u.combs = s.combs) ∧
      ((s.tenant v).cmd = 0 → s.recState v ∉ f.2.2 → ∃ u, exec f.1 s = .next u ∧ u.memWord (recordPa v) = word 2 ∧
        u.tenants = s.tenants ∧ u.ctxs = s.ctxs ∧ u.combs = s.combs)) ∧
    ∀ n, 10 ≤ n → ∃ u, exec (.tenantReservedCommand v n) s = .next u ∧ u.memWord (recordPa v) = word 12 ∧ u.ctxs = s.ctxs) ∧
  (∀ (s : State) (v : Nat), v < 32 → (s.tenant v).cmd = 0 →
    let st (u : State) (n : Nat) : Prop := u.recState v = n ∧ (u.tenant v).cmd = 0
    (s.recState v = 0 →
      (∀ n, s.createFails v = some n → ∃ u, exec (.tenantCreate v) s = .next u ∧ st u 0 ∧ u.memWord (recordPa v) = BitVec.ofNat 64 (n * 2 ^ 48) ∧
        u.combs = s.combs) ∧
      (s.createFails v = none → s.calendarWaits v = false → ∃ u b, exec (.tenantCreate v) s = .next u ∧ st u 1 ∧
        u.combs = s.combs ++ [b] ∧ b.yard = v ∧ b.job = 0 ∧ b.tiles = s.yardTiles v ∧ b.gen = 1 ∧ b.floor = 1) ∧
      ((s.recField v 0x38).getLsbD 0 = false → ∃ u, exec (.tenantMigrateIn v) s = .next u ∧
        u.memWord (recordPa v) = BitVec.ofNat 64 (13 * 2 ^ 48)) ∧
      ((s.recField v 0x38).getLsbD 0 = true →
        let k := s.bytes (recordPa v + 0xC0) 64
        (k ∈ s.tickets ∨ Config.ticketOk v k = false ∨ Config.ticketMade k + 60000000000 < s.cal → ∃ u, exec (.tenantMigrateIn v) s = .next u ∧
          u.memWord (recordPa v) = BitVec.ofNat 64 (10 * 2 ^ 48)) ∧
        (k ∉ s.tickets → Config.ticketOk v k = true → s.cal ≤ Config.ticketMade k + 60000000000 → ∃ u, exec (.tenantMigrateIn v) s = .next u ∧ st u 4 ∧ k ∈ u.tickets))) ∧
    (s.recState v = 1 → ∃ u, exec (.tenantStart v) s = .next u ∧ st u 2 ∧ u.ctxs = s.ctxs ∧ u.combs = s.combs) ∧
    (s.recState v = 2 →
      ((s.beginYardSave v 3).yardAtRest v = false → ∃ u, exec (.tenantSave v) s = .next u ∧ u.recState v = 3 ∧ (u.tenant v).cmd = 3) ∧
      ((s.beginYardSave v 3).yardAtRest v = true → ∃ u, exec (.tenantSave v) s = .next u ∧ st u 4 ∧ ∃ i ∈ u.images, i.yard = v)) ∧
    (s.recState v = 4 →
      (∀ n, s.resumeFails v = some n → ∃ u, exec (.tenantResume v) s = .next u ∧ st u 4 ∧
        u.memWord (recordPa v) = BitVec.ofNat 64 (4 * 2 ^ 60 + n * 2 ^ 48)) ∧
      (∀ i, s.resumeFails v = none → s.imageAt v = some i → i.todo = [] → ∃ u, exec (.tenantResume v) s = .next u ∧ st u 2 ∧
        ∀ b ∈ i.combs, b ∈ u.combs) ∧
      ((s.recField v 0x38).getLsbD 0 = false → ∃ u, exec (.tenantMigrateOut v) s = .next u ∧ st u 4 ∧
        u.memWord (recordPa v) = BitVec.ofNat 64 (4 * 2 ^ 60 + 13 * 2 ^ 48)) ∧
      ((s.recField v 0x38).getLsbD 0 = true → ∃ u, exec (.tenantMigrateOut v) s = .next u ∧ u.recState v = 7 ∧ (u.tenant v).cmd = 6 ∧
        u.bytes (recordPa v + 0xC0) 64 = fit64 (Config.ticket v (s.buddy v) s.free) ∧ (∀ w ∈ u.wins, w.1 / 64 ≠ v) ∧
        u.out = s.out ++ [.milay (s.buddy v) (fit64 (Config.ticket v (s.buddy v) s.free)), .pages (s.buddy v) (u.pageSpans v) (u.tenant v).sent])) ∧
    ((s.recState v = 1 ∨ s.recState v = 4) → (∀ t ∈ s.yardTiles v, ∀ c ∈ tileCids t, (s.ctx c).live = false) →
      (∀ p ∈ s.saved, p.2.1 ≠ v) →
      ((∃ d ∈ s.dead, d.2 = v) → ∃ u, exec (.tenantTeardown v) s = .next u ∧ u.recState v = 6 ∧ (u.tenant v).cmd = 5) ∧
      ((∀ d ∈ s.dead, d.2 ≠ v) → ∃ u, exec (.tenantTeardown v) s = .next u ∧ st u 0 ∧ (∀ b ∈ u.combs, b.yard ≠ v) ∧
        ∀ t ∈ s.yardTiles v, ∀ w o, u.tmByte t w o = 0))) ∧
  (∀ (s : State) (v : Nat), v < 32 →
    ((s.tenant v).cmd = 0 → s.recState v = 2 → (s.beginYardSave v 8).yardAtRest v = false →
      ∃ u, exec (.tenantCheckpoint v) s = .next u ∧ u.recState v = 3 ∧ (u.tenant v).cmd = 8) ∧
    ((∀ c ∈ s.steps, c.yard ≠ v ∨ c.complete = true) → exec (.checkpointStepComplete v) s = .next s) ∧
    (∀ c ∈ s.steps, c.yard = v → c.complete = false → (∀ d ∈ s.steps, d.yard = v → d.complete = false → d = c) →
      ∃ u, exec (.checkpointStepComplete v) s = .next u ∧ u.recField v 0x58 = BitVec.ofNat 64 c.step ∧
        { c with complete := true } ∈ u.steps ∧ ∀ d ∈ u.steps, d.yard = v → c.step ≤ d.step + 1) ∧
    ((s.tenant v).cmd = 0 → (s.recState v = 2 ∨ s.recState v = 4) → (∀ c ∈ s.steps, c.yard = v → c.complete = false) →
      ∃ u, exec (.tenantRollBack v) s = .next u ∧ u.memWord (recordPa v) = BitVec.ofNat 64 (s.recState v * 2 ^ 60 + 11 * 2 ^ 48)) ∧
    ((s.tenant v).cmd = 0 → (s.recState v = 2 ∨ s.recState v = 4) →
      let cs := s.steps.filter (fun c => c.yard == v && c.complete)
      let none_ (u : State) : Prop := u.memWord (recordPa v) = BitVec.ofNat 64 (s.recState v * 2 ^ 60 + 11 * 2 ^ 48) ∧ u.steps = s.steps
      let back (c : StepCopy) (u : State) : Prop := u.recState v = 4 ∧ (u.tenant v).cmd = 0 ∧ c.image ∈ u.images ∧ u.steps = s.steps ∧
        (∀ t ∈ s.yardTiles v, ∀ x ∈ tileCids t, (u.ctx x).live = false) ∧ (∀ t ∈ s.yardTiles v, ∀ w o, u.tmByte t w o = 0) ∧
        ∀ a, (∀ p ∈ c.spans, a < p.1 ∨ p.1 + p.2 ≤ a) → (a < recordPa v ∨ recordPa v + 8 ≤ a) → u.byte a = s.byte a
      (∀ c, cs[s.draw.1.toNat % (cs.length + 1)]? = some c → ∃ u, exec (.tenantRollBack v) s = .next u ∧ back c u) ∧
      ∃ u, exec (.tenantRollBack v) s = .next u ∧ (none_ u ∨ ∃ c ∈ cs, back c u)) ∧
    (∀ ok, (s.tenant v).cmd ≠ 6 → exec (.migrationDone v ok) s = .next s) ∧
    ((s.tenant v).cmd = 6 →
      exec (.migrationDone v true) s = .next (((s.finalPass v).beginTeardown v).goTeardown v) ∧
      (∃ sp, s.finalPass v = s.sendPages (s.buddy v) sp ∧ ∀ a b, ((a, b) ∈ (s.tenant v).sent ↔ (a, b) ∈ s.spansCells (s.pageSpans v)) ∨
        ∃ p ∈ sp, p.1 ≤ a ∧ a < p.1 + p.2) ∧
      ∃ u, exec (.migrationDone v false) s = .next u ∧ (u.tenant v).cmd = 0 ∧
        u.memWord (recordPa v) = BitVec.ofNat 64 (4 * 2 ^ 60 + 10 * 2 ^ 48)))

/-! Events: management (R382-R384, R394-R403). -/

/-- R395: the semaphore goes to the port whose read takes it, to port A in the first tie, and is freed by its holder or by one second
without a command of it. R396: the commands that change the device reply status 2 to a port that does not hold it, and nothing else
changes but what port A's command buffer holds of the command; to the holder, a chunk goes to the spare flash slot, a verified blob is current at the next
reset and another one has status 3. R394: GET_INFO and GET_RETIRE reply to every port; a write to port A's command buffer lands there, and its
doorbell submits what stands there. R382: a tile that retires loses its contexts.

R395, R399: an event joins the queue of both ports, and is lost at one that holds 64; a read takes the oldest; a post that names a measurement register
that software may extend extends it, and any other one is discarded. R400: the answers to SPDM requests are the exchange's own (Config,
log 7), on port A in a management reply. -/
def Obligations.ManagementCommandsAndEvents : Prop :=
  (∀ (s : State) (p : MPort) (seq : Nat),
    let held := s.mgmt.holder = portNum p
    (s.mgmt.holder = 0 → ∃ u, exec (.semRead p false) s = .next u ∧ u.mgmt.holder = portNum p ∧
      u.out = s.out ++ [.reply p (leBytes 8 (portNum p))]) ∧
    (s.mgmt.holder = 0 → s.mgmt.tieLoser = 0 → ∃ u, exec (.semRead p true) s = .next u ∧ u.mgmt.holder = 1 ∧ u.mgmt.tieLoser = 2) ∧
    (s.mgmt.holder ≠ 0 → ∃ u, exec (.semRead p false) s = .next u ∧ u.mgmt = s.mgmt ∧ u.out = s.out ++ [.reply p (leBytes 8 s.mgmt.holder)]) ∧
    (held → ∃ u, exec (.semRelease p) s = .next u ∧ u.mgmt.holder = 0) ∧ (¬held → exec (.semRelease p) s = .next s) ∧
    (s.mgmt.holder ≠ 0 → s.mgmt.heard + 1000000000 ≤ s.cal → ∃ u, exec .semTimeout s = .next u ∧ u.mgmt.holder = 0) ∧
    (s.cal < s.mgmt.heard + 1000000000 → exec .semTimeout s = .next s) ∧
    (∃ bs, exec (.getInfo p seq) s = .next ((s.submit p 1 seq []).replyTo p 1 seq 0 bs)) ∧
    (∃ bs, exec (.getRetire p seq) s = .next ((s.submit p 2 seq []).replyTo p 2 seq 0 bs)) ∧
    (∀ off chunk r, ¬held →
      exec (.stageBlob p seq off chunk) s = .next ((s.submit p 3 seq (Config.commandPayload 3 [off] chunk)).replyTo p 3 seq 2 []) ∧
      exec (.commitBlob p seq) s = .next ((s.submit p 4 seq []).replyTo p 4 seq 2 []) ∧
      exec (.retire p seq r) s =
        .next ((s.submit p 5 seq (Config.commandPayload 5 [(retiredId r).1, (retiredId r).2] [])).replyTo p 5 seq 2 []) ∧
      exec (.reset p seq) s = .next ((s.submit p 6 seq []).replyTo p 6 seq 2 [])) ∧
    (∀ code bs, s.submit p code seq bs = { s with mgmt := { s.mgmt with cmdA := (s.submit p code seq bs).mgmt.cmdA } } ∧
      (p = .b → s.submit p code seq bs = s) ∧
      (p = .a → bs.length ≤ 4088 → (s.submit p code seq bs).mgmt.cmdA.take (8 + bs.length) =
        leBytes 8 (code % 256 + seq % 65536 * 256 + bs.length * 2 ^ 32) ++ bs)) ∧
    (held →
      (∀ off chunk, s.mgmt.cur ≤ 1 → ∃ u, exec (.stageBlob p seq off chunk) s = .next u ∧
        ((u.mgmt.blob (1 - s.mgmt.cur)).drop off).take chunk.length = chunk ∧ u.mgmt.blob s.mgmt.cur = s.mgmt.blob s.mgmt.cur) ∧
      (Config.falconValid 0 (s.mgmt.blob (1 - s.mgmt.cur)) = true → ∃ u, exec (.commitBlob p seq) s = .next u ∧
        u.mgmt.nextCur = 1 - s.mgmt.cur) ∧
      (Config.falconValid 0 (s.mgmt.blob (1 - s.mgmt.cur)) = false → exec (.commitBlob p seq) s = .next ((s.submit p 4 seq []).replyTo p 4 seq 3 [])) ∧
      (∀ t, t < 1024 → (s.tile t).retired = false → ∃ u, exec (.retire p seq (.tile t)) s = .next u ∧ (u.tile t).retired = true ∧
        u.mgmt.log = s.mgmt.log ++ [.tile t] ∧ ∀ c ∈ tileCids t, (s.ctx c).live = true → (u.ctx c).live = false) ∧
      exec (.reset p seq) s = .next ((s.submit p 6 seq []).replyTo p 6 seq 0 []).warmReset) ∧
    (s.mgmt.busyA = false → s.serveA = s) ∧
    (∀ v n, s.mgmt.busyA = true → numAt s.mgmt.cmdA 0 8 = v + seq % 65536 * 256 + n * 2 ^ 32 → v < 256 → n ≤ 4088 →
      let d := s.modMgmt (fun m => { m with busyA := false })
      (v = 1 → s.serveA = d.getInfo .a (seq % 65536)) ∧ (v = 2 → s.serveA = d.getRetire .a (seq % 65536)) ∧
      (v = 0 ∨ 7 < v → s.serveA = d.replyTo .a v (seq % 65536) 1 [])) ∧
    (∀ off (bs : List Byte), ∀ u, u = s.portAWrite off bs →
      (0x1000 ≤ off → off + bs.length ≤ 0x2000 →
        (u.mgmt.cmdA.drop (off - 0x1000)).take bs.length = bs ∧ u.mgmt.busyA = s.mgmt.busyA ∧ u.mgmt.holder = s.mgmt.holder) ∧
      (off = 8 → bs = leBytes 8 1 → u.mgmt.busyA = true ∧ u.mgmt.cmdA = s.mgmt.cmdA) ∧
      (0x10 ≤ off → off < 0x1000 → u = s)) ∧
    ∀ code status (bs : List Byte), let u := s.replyTo p code seq status bs
      let m := leBytes 8 (code % 256 + seq % 65536 * 256 + status % 256 * 2 ^ 24 + bs.length * 2 ^ 32) ++ bs
      u.ctxs = s.ctxs ∧ u.tiles = s.tiles ∧ u.mem = s.mem ∧ (p = .b → u.out = s.out ++ [.reply .b m]) ∧
      (p = .a → u.out = s.out ++ [.reply .a m, .msix true 0 0] ∧ u.mgmt.replyA = m)) ∧
  (∀ (s : State) (p : MPort) (seq : Nat) (msg bs : List Byte),
    let w := leNat (bs.take 8)
    let e := (bs ++ List.replicate 64 0).take 64
    let queued (u : State) : Prop := (s.mgmt.evA.length < 64 → u.mgmt.evA = s.mgmt.evA ++ [e]) ∧
      (64 ≤ s.mgmt.evA.length → u.mgmt.evA = s.mgmt.evA ∧ u.mgmt.lostA = true) ∧
      (s.mgmt.evB.length < 64 → u.mgmt.evB = s.mgmt.evB ++ [e]) ∧ (64 ≤ s.mgmt.evB.length → u.mgmt.evB = s.mgmt.evB ∧ u.mgmt.lostB = true)
    (w < 2 ^ 63 → ∃ u, exec (.eventPost bs) s = .next u ∧ queued u ∧ u.mgmt.mregs = s.mgmt.mregs) ∧
    (∀ n, n ∈ [3, 5, 6, 7] → w = 2 ^ 63 + n * 65536 + 5 → ∃ u, exec (.eventPost bs) s = .next u ∧ queued u ∧
      u.mgmt.mreg n = Config.shake256 (s.mgmt.mreg n ++ (e.drop 8 ++ List.replicate 8 0)) ∧ ∀ k, k ≠ n → u.mgmt.mreg k = s.mgmt.mreg k) ∧
    (2 ^ 63 ≤ w → (∀ n ∈ [3, 5, 6, 7], w ≠ 2 ^ 63 + n * 65536 + 5) → exec (.eventPost bs) s = .next s) ∧
    (∀ x xs, s.mgmt.evA = x :: xs → ∃ u, exec (.eventQueueRead .a) s = .next u ∧ u.mgmt.evA = xs ∧ u.out = s.out ++ [.reply .a x]) ∧
    (∀ x xs, s.mgmt.evB = x :: xs → ∃ u, exec (.eventQueueRead .b) s = .next u ∧ u.mgmt.evB = xs ∧ u.out = s.out ++ [.reply .b x]) ∧
    (s.mgmt.evA = [] → exec (.eventQueueRead .a) s = .next s) ∧
    ∀ f ∈ ([(.getVersion p msg, 0, 1, msg, msg), (.getCapabilities p msg, 0, 2, msg, msg), (.negotiateAlgorithms p msg, 0, 3, msg, msg),
        (.getDigests p msg, 0, 4, msg, msg), (.getCertificate p msg, 0, 5, msg, msg), (.challenge p msg, 0, 6, msg, msg),
        (.getMeasurements p seq, 0, 7, Config.commandPayload 7 [seq] [], s.mgmt.measured seq), (.spdm p seq msg, seq, 0, msg, msg ++ (List.range 8).flatMap s.mgmt.mreg)] :
        List (Instr × Nat × Nat × List Byte × List Byte)),
      (p = .a → exec f.1 s = .next ((s.submit .a 7 f.2.1 f.2.2.2.1).replyTo .a 7 f.2.1 0 (Config.spdmReply f.2.2.1 f.2.2.2.2))) ∧
      (p = .b → ∃ u, exec f.1 s = .next u ∧ u.out = s.out ++ [.reply .b (Config.spdmReply f.2.2.1 f.2.2.2.2)] ∧ u.mem = s.mem ∧
        u.mgmt = s.mgmt))

/-- R397, R398, R401-R403: a reset leaves no context, no comb and no tile memory, keeps the flash, and boots: without a boot image that
verifies it stops at step 1, and with images and a blob that verify the TSC of every hive that is not retired runs at H (at an address
of the model's own, log 8). A function-level reset of a free record queues its event at once; the physical function's frees port A's
semaphore; the peer's changes nothing. A thermal trip takes the power of the compute dies, and a warm reset then does nothing. -/
def Obligations.ResetsBootTheDevice : Prop :=
  (∀ (s : State) (m : List Host.Cell), (s.cleared m).ctxs = [] ∧ (s.cleared m).combs = [] ∧ (s.cleared m).tm = [] ∧
    (s.cleared m).mem = m ∧ (s.cleared m).mgmt.blobs = s.mgmt.blobs ∧ (s.cleared m).mgmt.log = s.mgmt.log) ∧
  (∀ (s : State),
    exec .coldReset s = .next (s.cleared []).bootFrom ∧
    (s.mgmt.powered = true → exec .warmReset s = .next (s.cleared (s.mem.filter (fun c => paSpace c.1 == 0))).bootFrom) ∧
    (s.mgmt.powered = false → exec .warmReset s = .next s) ∧
    ((∀ i, i < 2 → Config.falconValid 0 (Config.bootImage i) = false) → s.bootFrom.mgmt.boot = 0x81 ∧ s.bootFrom.ctxs = s.ctxs) ∧
    ((∃ i, i < 2 ∧ Config.falconValid 0 (Config.bootImage i) = true) → s.mgmt.nextCur < 2 →
      (Config.falconValid 0 (s.mgmt.blob 0) = false ∧ Config.falconValid 0 (s.mgmt.blob 1) = false → s.bootFrom.mgmt.boot = 0x83) ∧
      (Config.falconValid 0 (s.mgmt.blob s.mgmt.nextCur) = true →
        (Config.falconValid 1 Config.tscFirmware = false → s.bootFrom.mgmt.boot = 0x84) ∧
        (Config.falconValid 1 Config.tscFirmware = true → s.bootFrom.mgmt.boot = 6 ∧
          ∀ h, h < 64 → (s.bootFrom.tile (1024 + h)).retired = false →
            let x := s.bootFrom.ctx (coreCid ((1024 + h) * 4) 0)
            x.live = true ∧ x.priv = .h ∧ x.pc = Config.tscEntry)))) ∧
  ∀ (s : State) (v : Nat),
    (s.recState v = 0 → ∃ u, exec (.flrVf v) s = .next u ∧ (s.mgmt.evA.length < 64 → u.mgmt.evA = s.mgmt.evA ++ [eventBytes (5 + v % 32 * 256)])) ∧
    (s.recState v ≠ 0 → exec (.flrVf v) s =
      .next (((s.modTenant v (fun x => { x with flr := true })).beginTeardown v).goTeardown v)) ∧
    (∃ u, exec .flrPf0 s = .next u ∧ (s.mgmt.holder = 1 → u.mgmt.holder = 0) ∧ (s.mgmt.holder ≠ 1 → u.mgmt.holder = s.mgmt.holder) ∧
      u.ctxs = s.ctxs ∧ u.mem = s.mem) ∧
    exec .flrPeer s = .next s ∧
    ∃ u, exec .thermalTrip s = .next u ∧ u.mgmt.powered = false ∧ u.ctxs = [] ∧ u.tm = [] ∧ u.combs = [] ∧
      (s.mgmt.evA.length < 64 → u.mgmt.evA = s.mgmt.evA ++ [eventBytes 4])
end

