-- ==== Sys2Proof/Laws/SMap.lean ====
section
/-! SUPPORT. Sparse maps: a write is read back, leaves every other key alone, and keeps the canonical form. -/

namespace Sys2Proof

set_option linter.unusedSectionVars false

variable {α : Type} [DecidableEq α] {d : Nat → α}

theorem SMap.get_erase_self (m : SMap α) (k : Nat) : SMap.get d (m.erase k) k = d k := by
  induction m with
  | nil => rfl
  | cons p m ih =>
    obtain ⟨j, b⟩ := p
    by_cases h : j = k
    · simpa [SMap.erase, h] using ih
    · simpa [SMap.erase, h, SMap.get] using ih

theorem SMap.get_erase_ne (m : SMap α) {k j : Nat} (h : j ≠ k) : SMap.get d (m.erase k) j = SMap.get d m j := by
  induction m with
  | nil => rfl
  | cons p m ih =>
    obtain ⟨i, b⟩ := p
    by_cases hi : i = k
    · subst hi; simpa [SMap.erase, SMap.get, Ne.symm h] using ih
    · by_cases hj : i = j
      · simp [SMap.erase, SMap.get, hj, h]
      · simpa [SMap.erase, SMap.get, hi, hj] using ih

theorem SMap.get_insert_self (m : SMap α) (k : Nat) (a : α) (h : ∀ p ∈ m, p.1 ≠ k) : SMap.get d (m.insert k a) k = a := by
  induction m with
  | nil => simp [SMap.insert, SMap.get]
  | cons p m ih =>
    obtain ⟨j, b⟩ := p
    have hj : j ≠ k := h (j, b) (by simp)
    by_cases hk : k < j
    · simp [SMap.insert, hk, SMap.get]
    · simpa [SMap.insert, hk, SMap.get, hj] using ih (fun p hp => h p (by simp [hp]))

theorem SMap.get_insert_ne (m : SMap α) {k j : Nat} (a : α) (h : j ≠ k) : SMap.get d (m.insert k a) j = SMap.get d m j := by
  induction m with
  | nil => simp [SMap.insert, SMap.get, Ne.symm h]
  | cons p m ih =>
    obtain ⟨i, b⟩ := p
    by_cases hk : k < i
    · simp [SMap.insert, hk, SMap.get, Ne.symm h]
    · by_cases hj : i = j
      · subst hj; simp [SMap.insert, hk, SMap.get]
      · simpa [SMap.insert, hk, SMap.get, hj] using ih

/-- A value put at a key is read back there, in any list of entries. -/
@[simp] theorem SMap.get_set_self (m : SMap α) (k : Nat) (a : α) : SMap.get d (SMap.set d m k a) k = a := by
  by_cases h : a = d k
  · simp [SMap.set, h, SMap.get_erase_self]
  · simp only [SMap.set, h, if_false]
    exact SMap.get_insert_self _ _ _ (by simp [SMap.erase])

/-- A value put at a key leaves every other key as it was. -/
theorem SMap.get_set_ne (m : SMap α) {k j : Nat} (a : α) (h : j ≠ k) : SMap.get d (SMap.set d m k a) j = SMap.get d m j := by
  unfold SMap.set
  split
  · exact SMap.get_erase_ne m h
  · rw [SMap.get_insert_ne _ a h, SMap.get_erase_ne m h]

theorem SMap.get_set (m : SMap α) (k j : Nat) (a : α) :
    SMap.get d (SMap.set d m k a) j = if j = k then a else SMap.get d m j := by
  split
  · next h => subst h; simp
  · next h => exact SMap.get_set_ne m a h

/-! The canonical form. -/

theorem SMap.wf_cons {j : Nat} {b : α} {m : SMap α} :
    SMap.wf d ((j, b) :: m) = true ↔ b ≠ d j ∧ SMap.above j m = true ∧ SMap.wf d m = true := by
  simp [SMap.wf, and_assoc]

/-- In a canonical list every later key lies above the first. -/
theorem SMap.wf_lt {j : Nat} {m : SMap α} (ha : SMap.above j m = true) (hw : SMap.wf d m = true) : ∀ p ∈ m, j < p.1 := by
  induction m generalizing j with
  | nil => simp
  | cons p m ih =>
    obtain ⟨i, b⟩ := p
    have hi : j < i := by simpa [SMap.above] using ha
    obtain ⟨_, ha', hw'⟩ := SMap.wf_cons.mp hw
    intro p hp
    rcases List.mem_cons.mp hp with rfl | hp
    · exact hi
    · exact lt_trans hi (ih ha' hw' p hp)

theorem SMap.above_of_lt {j : Nat} {m : SMap α} (h : ∀ p ∈ m, j < p.1) : SMap.above j m = true := by
  cases m with
  | nil => rfl
  | cons p m => obtain ⟨i, b⟩ := p; simpa [SMap.above] using h (i, b) (by simp)

/-- Dropping entries keeps the canonical form. -/
theorem SMap.wf_filter {m : SMap α} (p : Nat × α → Bool) (hw : SMap.wf d m = true) : SMap.wf d (m.filter p) = true := by
  induction m with
  | nil => rfl
  | cons q m ih =>
    obtain ⟨j, b⟩ := q
    obtain ⟨hb, ha, hw'⟩ := SMap.wf_cons.mp hw
    by_cases hp : p (j, b)
    · simp only [List.filter_cons, hp, if_true]
      exact SMap.wf_cons.mpr ⟨hb, SMap.above_of_lt (fun q hq => SMap.wf_lt ha hw' q (List.mem_of_mem_filter hq)), ih hw'⟩
    · simpa [List.filter_cons, hp] using ih hw'

theorem SMap.wf_erase {m : SMap α} (k : Nat) (hw : SMap.wf d m = true) : SMap.wf d (m.erase k) = true := SMap.wf_filter _ hw

theorem SMap.mem_insert {m : SMap α} {k : Nat} {a : α} {p : Nat × α} : p ∈ m.insert k a ↔ p = (k, a) ∨ p ∈ m := by
  induction m with
  | nil => simp [SMap.insert]
  | cons q m ih =>
    obtain ⟨j, b⟩ := q
    by_cases hk : k < j
    · simp [SMap.insert, hk]
    · simp only [SMap.insert, hk, if_false, List.mem_cons, ih]; tauto

theorem SMap.wf_insert {m : SMap α} {k : Nat} {a : α} (ha : a ≠ d k) (hk : ∀ p ∈ m, p.1 ≠ k) (hw : SMap.wf d m = true) :
    SMap.wf d (m.insert k a) = true := by
  induction m with
  | nil => simp [SMap.insert, SMap.wf, SMap.above, ha]
  | cons q m ih =>
    obtain ⟨j, b⟩ := q
    obtain ⟨hb, hab, hw'⟩ := SMap.wf_cons.mp hw
    have hj : j ≠ k := hk (j, b) (by simp)
    by_cases h : k < j
    · simp only [SMap.insert, h, if_true]
      exact SMap.wf_cons.mpr ⟨ha, by simpa [SMap.above] using h, hw⟩
    · simp only [SMap.insert, h, if_false]
      refine SMap.wf_cons.mpr ⟨hb, SMap.above_of_lt (fun q hq => ?_), ih (fun q hq => hk q (by simp [hq])) hw'⟩
      rcases SMap.mem_insert.mp hq with rfl | hq
      · omega
      · exact SMap.wf_lt hab hw' q hq

/-- A write keeps the canonical form. -/
theorem SMap.wf_set {m : SMap α} (k : Nat) (a : α) (hw : SMap.wf d m = true) : SMap.wf d (SMap.set d m k a) = true := by
  unfold SMap.set
  split
  · exact SMap.wf_erase k hw
  · next h => exact SMap.wf_insert h (by simp [SMap.erase]) (SMap.wf_erase k hw)

end Sys2Proof
end

