-- ==== Sys2Proof/Laws/State.lean ====
section
/-! SUPPORT. What each update of the state leaves as it was: one equation for each part and each update. -/

namespace Sys2Proof.Machine

/-! The device. -/

@[simp] theorem State.setCtx_cur (s : State) (c : Nat) (x : Ctx) : (s.setCtx c x).cur = s.cur := rfl
@[simp] theorem State.setCtx_agenda (s : State) (c : Nat) (x : Ctx) : (s.setCtx c x).agenda = s.agenda := rfl
@[simp] theorem State.setCtx_free (s : State) (c : Nat) (x : Ctx) : (s.setCtx c x).free = s.free := rfl
@[simp] theorem State.setCtx_pushes (s : State) (c : Nat) (x : Ctx) : (s.setCtx c x).pushes = s.pushes := rfl
@[simp] theorem State.setCtx_cal (s : State) (c : Nat) (x : Ctx) : (s.setCtx c x).cal = s.cal := rfl
@[simp] theorem State.setCtx_mem (s : State) (c : Nat) (x : Ctx) : (s.setCtx c x).mem = s.mem := rfl
@[simp] theorem State.setCtx_tm (s : State) (c : Nat) (x : Ctx) : (s.setCtx c x).tm = s.tm := rfl
@[simp] theorem State.setCtx_acc (s : State) (c : Nat) (x : Ctx) : (s.setCtx c x).acc = s.acc := rfl
@[simp] theorem State.setCtx_cores (s : State) (c : Nat) (x : Ctx) : (s.setCtx c x).cores = s.cores := rfl
@[simp] theorem State.setCtx_tiles (s : State) (c : Nat) (x : Ctx) : (s.setCtx c x).tiles = s.tiles := rfl
@[simp] theorem State.setCtx_hives (s : State) (c : Nat) (x : Ctx) : (s.setCtx c x).hives = s.hives := rfl
@[simp] theorem State.setCtx_l2 (s : State) (c : Nat) (x : Ctx) : (s.setCtx c x).l2 = s.l2 := rfl
@[simp] theorem State.setCtx_l2Use (s : State) (c : Nat) (x : Ctx) : (s.setCtx c x).l2Use = s.l2Use := rfl
@[simp] theorem State.setCtx_floors (s : State) (c : Nat) (x : Ctx) : (s.setCtx c x).floors = s.floors := rfl
@[simp] theorem State.setCtx_sums (s : State) (c : Nat) (x : Ctx) : (s.setCtx c x).sums = s.sums := rfl
@[simp] theorem State.setCtx_dead (s : State) (c : Nat) (x : Ctx) : (s.setCtx c x).dead = s.dead := rfl
@[simp] theorem State.setCtx_saved (s : State) (c : Nat) (x : Ctx) : (s.setCtx c x).saved = s.saved := rfl
@[simp] theorem State.setCtx_kept (s : State) (c : Nat) (x : Ctx) : (s.setCtx c x).kept = s.kept := rfl
@[simp] theorem State.setCtx_heldLates (s : State) (c : Nat) (x : Ctx) : (s.setCtx c x).heldLates = s.heldLates := rfl
@[simp] theorem State.setCtx_combs (s : State) (c : Nat) (x : Ctx) : (s.setCtx c x).combs = s.combs := rfl
@[simp] theorem State.setCtx_launches (s : State) (c : Nat) (x : Ctx) : (s.setCtx c x).launches = s.launches := rfl
@[simp] theorem State.setCtx_graphs (s : State) (c : Nat) (x : Ctx) : (s.setCtx c x).graphs = s.graphs := rfl
@[simp] theorem State.setCtx_phases (s : State) (c : Nat) (x : Ctx) : (s.setCtx c x).phases = s.phases := rfl
@[simp] theorem State.setCtx_order (s : State) (c : Nat) (x : Ctx) : (s.setCtx c x).order = s.order := rfl
@[simp] theorem State.setCtx_served (s : State) (c : Nat) (x : Ctx) : (s.setCtx c x).served = s.served := rfl
@[simp] theorem State.setCtx_rounds (s : State) (c : Nat) (x : Ctx) : (s.setCtx c x).rounds = s.rounds := rfl
@[simp] theorem State.setCtx_wins (s : State) (c : Nat) (x : Ctx) : (s.setCtx c x).wins = s.wins := rfl
@[simp] theorem State.setCtx_remotes (s : State) (c : Nat) (x : Ctx) : (s.setCtx c x).remotes = s.remotes := rfl
@[simp] theorem State.setCtx_nextReq (s : State) (c : Nat) (x : Ctx) : (s.setCtx c x).nextReq = s.nextReq := rfl
@[simp] theorem State.setCtx_shoots (s : State) (c : Nat) (x : Ctx) : (s.setCtx c x).shoots = s.shoots := rfl
@[simp] theorem State.setCtx_posts (s : State) (c : Nat) (x : Ctx) : (s.setCtx c x).posts = s.posts := rfl
@[simp] theorem State.setCtx_calSince (s : State) (c : Nat) (x : Ctx) : (s.setCtx c x).calSince = s.calSince := rfl
@[simp] theorem State.setCtx_calApplied (s : State) (c : Nat) (x : Ctx) : (s.setCtx c x).calApplied = s.calApplied := rfl
@[simp] theorem State.setCtx_routes (s : State) (c : Nat) (x : Ctx) : (s.setCtx c x).routes = s.routes := rfl
@[simp] theorem State.setCtx_tenants (s : State) (c : Nat) (x : Ctx) : (s.setCtx c x).tenants = s.tenants := rfl
@[simp] theorem State.setCtx_images (s : State) (c : Nat) (x : Ctx) : (s.setCtx c x).images = s.images := rfl
@[simp] theorem State.setCtx_steps (s : State) (c : Nat) (x : Ctx) : (s.setCtx c x).steps = s.steps := rfl
@[simp] theorem State.setCtx_tickets (s : State) (c : Nat) (x : Ctx) : (s.setCtx c x).tickets = s.tickets := rfl
@[simp] theorem State.setCtx_keyGens (s : State) (c : Nat) (x : Ctx) : (s.setCtx c x).keyGens = s.keyGens := rfl
@[simp] theorem State.setCtx_keyNext (s : State) (c : Nat) (x : Ctx) : (s.setCtx c x).keyNext = s.keyNext := rfl
@[simp] theorem State.setCtx_lineKeys (s : State) (c : Nat) (x : Ctx) : (s.setCtx c x).lineKeys = s.lineKeys := rfl
@[simp] theorem State.setCtx_deadChannels (s : State) (c : Nat) (x : Ctx) : (s.setCtx c x).deadChannels = s.deadChannels := rfl
@[simp] theorem State.setCtx_badLines (s : State) (c : Nat) (x : Ctx) : (s.setCtx c x).badLines = s.badLines := rfl
@[simp] theorem State.setCtx_mgmt (s : State) (c : Nat) (x : Ctx) : (s.setCtx c x).mgmt = s.mgmt := rfl
@[simp] theorem State.setCtx_out (s : State) (c : Nat) (x : Ctx) : (s.setCtx c x).out = s.out := rfl
@[simp] theorem State.modCtx_cur (s : State) (c : Nat) (f : Ctx → Ctx) : (s.modCtx c f).cur = s.cur := rfl
@[simp] theorem State.modCtx_agenda (s : State) (c : Nat) (f : Ctx → Ctx) : (s.modCtx c f).agenda = s.agenda := rfl
@[simp] theorem State.modCtx_free (s : State) (c : Nat) (f : Ctx → Ctx) : (s.modCtx c f).free = s.free := rfl
@[simp] theorem State.modCtx_pushes (s : State) (c : Nat) (f : Ctx → Ctx) : (s.modCtx c f).pushes = s.pushes := rfl
@[simp] theorem State.modCtx_cal (s : State) (c : Nat) (f : Ctx → Ctx) : (s.modCtx c f).cal = s.cal := rfl
@[simp] theorem State.modCtx_mem (s : State) (c : Nat) (f : Ctx → Ctx) : (s.modCtx c f).mem = s.mem := rfl
@[simp] theorem State.modCtx_tm (s : State) (c : Nat) (f : Ctx → Ctx) : (s.modCtx c f).tm = s.tm := rfl
@[simp] theorem State.modCtx_acc (s : State) (c : Nat) (f : Ctx → Ctx) : (s.modCtx c f).acc = s.acc := rfl
@[simp] theorem State.modCtx_cores (s : State) (c : Nat) (f : Ctx → Ctx) : (s.modCtx c f).cores = s.cores := rfl
@[simp] theorem State.modCtx_tiles (s : State) (c : Nat) (f : Ctx → Ctx) : (s.modCtx c f).tiles = s.tiles := rfl
@[simp] theorem State.modCtx_hives (s : State) (c : Nat) (f : Ctx → Ctx) : (s.modCtx c f).hives = s.hives := rfl
@[simp] theorem State.modCtx_l2 (s : State) (c : Nat) (f : Ctx → Ctx) : (s.modCtx c f).l2 = s.l2 := rfl
@[simp] theorem State.modCtx_l2Use (s : State) (c : Nat) (f : Ctx → Ctx) : (s.modCtx c f).l2Use = s.l2Use := rfl
@[simp] theorem State.modCtx_floors (s : State) (c : Nat) (f : Ctx → Ctx) : (s.modCtx c f).floors = s.floors := rfl
@[simp] theorem State.modCtx_sums (s : State) (c : Nat) (f : Ctx → Ctx) : (s.modCtx c f).sums = s.sums := rfl
@[simp] theorem State.modCtx_dead (s : State) (c : Nat) (f : Ctx → Ctx) : (s.modCtx c f).dead = s.dead := rfl
@[simp] theorem State.modCtx_saved (s : State) (c : Nat) (f : Ctx → Ctx) : (s.modCtx c f).saved = s.saved := rfl
@[simp] theorem State.modCtx_kept (s : State) (c : Nat) (f : Ctx → Ctx) : (s.modCtx c f).kept = s.kept := rfl
@[simp] theorem State.modCtx_heldLates (s : State) (c : Nat) (f : Ctx → Ctx) : (s.modCtx c f).heldLates = s.heldLates := rfl
@[simp] theorem State.modCtx_combs (s : State) (c : Nat) (f : Ctx → Ctx) : (s.modCtx c f).combs = s.combs := rfl
@[simp] theorem State.modCtx_launches (s : State) (c : Nat) (f : Ctx → Ctx) : (s.modCtx c f).launches = s.launches := rfl
@[simp] theorem State.modCtx_graphs (s : State) (c : Nat) (f : Ctx → Ctx) : (s.modCtx c f).graphs = s.graphs := rfl
@[simp] theorem State.modCtx_phases (s : State) (c : Nat) (f : Ctx → Ctx) : (s.modCtx c f).phases = s.phases := rfl
@[simp] theorem State.modCtx_order (s : State) (c : Nat) (f : Ctx → Ctx) : (s.modCtx c f).order = s.order := rfl
@[simp] theorem State.modCtx_served (s : State) (c : Nat) (f : Ctx → Ctx) : (s.modCtx c f).served = s.served := rfl
@[simp] theorem State.modCtx_rounds (s : State) (c : Nat) (f : Ctx → Ctx) : (s.modCtx c f).rounds = s.rounds := rfl
@[simp] theorem State.modCtx_wins (s : State) (c : Nat) (f : Ctx → Ctx) : (s.modCtx c f).wins = s.wins := rfl
@[simp] theorem State.modCtx_remotes (s : State) (c : Nat) (f : Ctx → Ctx) : (s.modCtx c f).remotes = s.remotes := rfl
@[simp] theorem State.modCtx_nextReq (s : State) (c : Nat) (f : Ctx → Ctx) : (s.modCtx c f).nextReq = s.nextReq := rfl
@[simp] theorem State.modCtx_shoots (s : State) (c : Nat) (f : Ctx → Ctx) : (s.modCtx c f).shoots = s.shoots := rfl
@[simp] theorem State.modCtx_posts (s : State) (c : Nat) (f : Ctx → Ctx) : (s.modCtx c f).posts = s.posts := rfl
@[simp] theorem State.modCtx_calSince (s : State) (c : Nat) (f : Ctx → Ctx) : (s.modCtx c f).calSince = s.calSince := rfl
@[simp] theorem State.modCtx_calApplied (s : State) (c : Nat) (f : Ctx → Ctx) : (s.modCtx c f).calApplied = s.calApplied := rfl
@[simp] theorem State.modCtx_routes (s : State) (c : Nat) (f : Ctx → Ctx) : (s.modCtx c f).routes = s.routes := rfl
@[simp] theorem State.modCtx_tenants (s : State) (c : Nat) (f : Ctx → Ctx) : (s.modCtx c f).tenants = s.tenants := rfl
@[simp] theorem State.modCtx_images (s : State) (c : Nat) (f : Ctx → Ctx) : (s.modCtx c f).images = s.images := rfl
@[simp] theorem State.modCtx_steps (s : State) (c : Nat) (f : Ctx → Ctx) : (s.modCtx c f).steps = s.steps := rfl
@[simp] theorem State.modCtx_tickets (s : State) (c : Nat) (f : Ctx → Ctx) : (s.modCtx c f).tickets = s.tickets := rfl
@[simp] theorem State.modCtx_keyGens (s : State) (c : Nat) (f : Ctx → Ctx) : (s.modCtx c f).keyGens = s.keyGens := rfl
@[simp] theorem State.modCtx_keyNext (s : State) (c : Nat) (f : Ctx → Ctx) : (s.modCtx c f).keyNext = s.keyNext := rfl
@[simp] theorem State.modCtx_lineKeys (s : State) (c : Nat) (f : Ctx → Ctx) : (s.modCtx c f).lineKeys = s.lineKeys := rfl
@[simp] theorem State.modCtx_deadChannels (s : State) (c : Nat) (f : Ctx → Ctx) : (s.modCtx c f).deadChannels = s.deadChannels := rfl
@[simp] theorem State.modCtx_badLines (s : State) (c : Nat) (f : Ctx → Ctx) : (s.modCtx c f).badLines = s.badLines := rfl
@[simp] theorem State.modCtx_mgmt (s : State) (c : Nat) (f : Ctx → Ctx) : (s.modCtx c f).mgmt = s.mgmt := rfl
@[simp] theorem State.modCtx_out (s : State) (c : Nat) (f : Ctx → Ctx) : (s.modCtx c f).out = s.out := rfl
@[simp] theorem State.modMe_cur (s : State) (f : Ctx → Ctx) : (s.modMe f).cur = s.cur := rfl
@[simp] theorem State.modMe_agenda (s : State) (f : Ctx → Ctx) : (s.modMe f).agenda = s.agenda := rfl
@[simp] theorem State.modMe_free (s : State) (f : Ctx → Ctx) : (s.modMe f).free = s.free := rfl
@[simp] theorem State.modMe_pushes (s : State) (f : Ctx → Ctx) : (s.modMe f).pushes = s.pushes := rfl
@[simp] theorem State.modMe_cal (s : State) (f : Ctx → Ctx) : (s.modMe f).cal = s.cal := rfl
@[simp] theorem State.modMe_mem (s : State) (f : Ctx → Ctx) : (s.modMe f).mem = s.mem := rfl
@[simp] theorem State.modMe_tm (s : State) (f : Ctx → Ctx) : (s.modMe f).tm = s.tm := rfl
@[simp] theorem State.modMe_acc (s : State) (f : Ctx → Ctx) : (s.modMe f).acc = s.acc := rfl
@[simp] theorem State.modMe_cores (s : State) (f : Ctx → Ctx) : (s.modMe f).cores = s.cores := rfl
@[simp] theorem State.modMe_tiles (s : State) (f : Ctx → Ctx) : (s.modMe f).tiles = s.tiles := rfl
@[simp] theorem State.modMe_hives (s : State) (f : Ctx → Ctx) : (s.modMe f).hives = s.hives := rfl
@[simp] theorem State.modMe_l2 (s : State) (f : Ctx → Ctx) : (s.modMe f).l2 = s.l2 := rfl
@[simp] theorem State.modMe_l2Use (s : State) (f : Ctx → Ctx) : (s.modMe f).l2Use = s.l2Use := rfl
@[simp] theorem State.modMe_floors (s : State) (f : Ctx → Ctx) : (s.modMe f).floors = s.floors := rfl
@[simp] theorem State.modMe_sums (s : State) (f : Ctx → Ctx) : (s.modMe f).sums = s.sums := rfl
@[simp] theorem State.modMe_dead (s : State) (f : Ctx → Ctx) : (s.modMe f).dead = s.dead := rfl
@[simp] theorem State.modMe_saved (s : State) (f : Ctx → Ctx) : (s.modMe f).saved = s.saved := rfl
@[simp] theorem State.modMe_kept (s : State) (f : Ctx → Ctx) : (s.modMe f).kept = s.kept := rfl
@[simp] theorem State.modMe_heldLates (s : State) (f : Ctx → Ctx) : (s.modMe f).heldLates = s.heldLates := rfl
@[simp] theorem State.modMe_combs (s : State) (f : Ctx → Ctx) : (s.modMe f).combs = s.combs := rfl
@[simp] theorem State.modMe_launches (s : State) (f : Ctx → Ctx) : (s.modMe f).launches = s.launches := rfl
@[simp] theorem State.modMe_graphs (s : State) (f : Ctx → Ctx) : (s.modMe f).graphs = s.graphs := rfl
@[simp] theorem State.modMe_phases (s : State) (f : Ctx → Ctx) : (s.modMe f).phases = s.phases := rfl
@[simp] theorem State.modMe_order (s : State) (f : Ctx → Ctx) : (s.modMe f).order = s.order := rfl
@[simp] theorem State.modMe_served (s : State) (f : Ctx → Ctx) : (s.modMe f).served = s.served := rfl
@[simp] theorem State.modMe_rounds (s : State) (f : Ctx → Ctx) : (s.modMe f).rounds = s.rounds := rfl
@[simp] theorem State.modMe_wins (s : State) (f : Ctx → Ctx) : (s.modMe f).wins = s.wins := rfl
@[simp] theorem State.modMe_remotes (s : State) (f : Ctx → Ctx) : (s.modMe f).remotes = s.remotes := rfl
@[simp] theorem State.modMe_nextReq (s : State) (f : Ctx → Ctx) : (s.modMe f).nextReq = s.nextReq := rfl
@[simp] theorem State.modMe_shoots (s : State) (f : Ctx → Ctx) : (s.modMe f).shoots = s.shoots := rfl
@[simp] theorem State.modMe_posts (s : State) (f : Ctx → Ctx) : (s.modMe f).posts = s.posts := rfl
@[simp] theorem State.modMe_calSince (s : State) (f : Ctx → Ctx) : (s.modMe f).calSince = s.calSince := rfl
@[simp] theorem State.modMe_calApplied (s : State) (f : Ctx → Ctx) : (s.modMe f).calApplied = s.calApplied := rfl
@[simp] theorem State.modMe_routes (s : State) (f : Ctx → Ctx) : (s.modMe f).routes = s.routes := rfl
@[simp] theorem State.modMe_tenants (s : State) (f : Ctx → Ctx) : (s.modMe f).tenants = s.tenants := rfl
@[simp] theorem State.modMe_images (s : State) (f : Ctx → Ctx) : (s.modMe f).images = s.images := rfl
@[simp] theorem State.modMe_steps (s : State) (f : Ctx → Ctx) : (s.modMe f).steps = s.steps := rfl
@[simp] theorem State.modMe_tickets (s : State) (f : Ctx → Ctx) : (s.modMe f).tickets = s.tickets := rfl
@[simp] theorem State.modMe_keyGens (s : State) (f : Ctx → Ctx) : (s.modMe f).keyGens = s.keyGens := rfl
@[simp] theorem State.modMe_keyNext (s : State) (f : Ctx → Ctx) : (s.modMe f).keyNext = s.keyNext := rfl
@[simp] theorem State.modMe_lineKeys (s : State) (f : Ctx → Ctx) : (s.modMe f).lineKeys = s.lineKeys := rfl
@[simp] theorem State.modMe_deadChannels (s : State) (f : Ctx → Ctx) : (s.modMe f).deadChannels = s.deadChannels := rfl
@[simp] theorem State.modMe_badLines (s : State) (f : Ctx → Ctx) : (s.modMe f).badLines = s.badLines := rfl
@[simp] theorem State.modMe_mgmt (s : State) (f : Ctx → Ctx) : (s.modMe f).mgmt = s.mgmt := rfl
@[simp] theorem State.modMe_out (s : State) (f : Ctx → Ctx) : (s.modMe f).out = s.out := rfl
@[simp] theorem State.setCore_cur (s : State) (k : Nat) (x : Core) : (s.setCore k x).cur = s.cur := rfl
@[simp] theorem State.setCore_agenda (s : State) (k : Nat) (x : Core) : (s.setCore k x).agenda = s.agenda := rfl
@[simp] theorem State.setCore_free (s : State) (k : Nat) (x : Core) : (s.setCore k x).free = s.free := rfl
@[simp] theorem State.setCore_pushes (s : State) (k : Nat) (x : Core) : (s.setCore k x).pushes = s.pushes := rfl
@[simp] theorem State.setCore_cal (s : State) (k : Nat) (x : Core) : (s.setCore k x).cal = s.cal := rfl
@[simp] theorem State.setCore_mem (s : State) (k : Nat) (x : Core) : (s.setCore k x).mem = s.mem := rfl
@[simp] theorem State.setCore_tm (s : State) (k : Nat) (x : Core) : (s.setCore k x).tm = s.tm := rfl
@[simp] theorem State.setCore_acc (s : State) (k : Nat) (x : Core) : (s.setCore k x).acc = s.acc := rfl
@[simp] theorem State.setCore_ctxs (s : State) (k : Nat) (x : Core) : (s.setCore k x).ctxs = s.ctxs := rfl
@[simp] theorem State.setCore_tiles (s : State) (k : Nat) (x : Core) : (s.setCore k x).tiles = s.tiles := rfl
@[simp] theorem State.setCore_hives (s : State) (k : Nat) (x : Core) : (s.setCore k x).hives = s.hives := rfl
@[simp] theorem State.setCore_l2 (s : State) (k : Nat) (x : Core) : (s.setCore k x).l2 = s.l2 := rfl
@[simp] theorem State.setCore_l2Use (s : State) (k : Nat) (x : Core) : (s.setCore k x).l2Use = s.l2Use := rfl
@[simp] theorem State.setCore_floors (s : State) (k : Nat) (x : Core) : (s.setCore k x).floors = s.floors := rfl
@[simp] theorem State.setCore_sums (s : State) (k : Nat) (x : Core) : (s.setCore k x).sums = s.sums := rfl
@[simp] theorem State.setCore_dead (s : State) (k : Nat) (x : Core) : (s.setCore k x).dead = s.dead := rfl
@[simp] theorem State.setCore_saved (s : State) (k : Nat) (x : Core) : (s.setCore k x).saved = s.saved := rfl
@[simp] theorem State.setCore_kept (s : State) (k : Nat) (x : Core) : (s.setCore k x).kept = s.kept := rfl
@[simp] theorem State.setCore_heldLates (s : State) (k : Nat) (x : Core) : (s.setCore k x).heldLates = s.heldLates := rfl
@[simp] theorem State.setCore_combs (s : State) (k : Nat) (x : Core) : (s.setCore k x).combs = s.combs := rfl
@[simp] theorem State.setCore_launches (s : State) (k : Nat) (x : Core) : (s.setCore k x).launches = s.launches := rfl
@[simp] theorem State.setCore_graphs (s : State) (k : Nat) (x : Core) : (s.setCore k x).graphs = s.graphs := rfl
@[simp] theorem State.setCore_phases (s : State) (k : Nat) (x : Core) : (s.setCore k x).phases = s.phases := rfl
@[simp] theorem State.setCore_order (s : State) (k : Nat) (x : Core) : (s.setCore k x).order = s.order := rfl
@[simp] theorem State.setCore_served (s : State) (k : Nat) (x : Core) : (s.setCore k x).served = s.served := rfl
@[simp] theorem State.setCore_rounds (s : State) (k : Nat) (x : Core) : (s.setCore k x).rounds = s.rounds := rfl
@[simp] theorem State.setCore_wins (s : State) (k : Nat) (x : Core) : (s.setCore k x).wins = s.wins := rfl
@[simp] theorem State.setCore_remotes (s : State) (k : Nat) (x : Core) : (s.setCore k x).remotes = s.remotes := rfl
@[simp] theorem State.setCore_nextReq (s : State) (k : Nat) (x : Core) : (s.setCore k x).nextReq = s.nextReq := rfl
@[simp] theorem State.setCore_shoots (s : State) (k : Nat) (x : Core) : (s.setCore k x).shoots = s.shoots := rfl
@[simp] theorem State.setCore_posts (s : State) (k : Nat) (x : Core) : (s.setCore k x).posts = s.posts := rfl
@[simp] theorem State.setCore_calSince (s : State) (k : Nat) (x : Core) : (s.setCore k x).calSince = s.calSince := rfl
@[simp] theorem State.setCore_calApplied (s : State) (k : Nat) (x : Core) : (s.setCore k x).calApplied = s.calApplied := rfl
@[simp] theorem State.setCore_routes (s : State) (k : Nat) (x : Core) : (s.setCore k x).routes = s.routes := rfl
@[simp] theorem State.setCore_tenants (s : State) (k : Nat) (x : Core) : (s.setCore k x).tenants = s.tenants := rfl
@[simp] theorem State.setCore_images (s : State) (k : Nat) (x : Core) : (s.setCore k x).images = s.images := rfl
@[simp] theorem State.setCore_steps (s : State) (k : Nat) (x : Core) : (s.setCore k x).steps = s.steps := rfl
@[simp] theorem State.setCore_tickets (s : State) (k : Nat) (x : Core) : (s.setCore k x).tickets = s.tickets := rfl
@[simp] theorem State.setCore_keyGens (s : State) (k : Nat) (x : Core) : (s.setCore k x).keyGens = s.keyGens := rfl
@[simp] theorem State.setCore_keyNext (s : State) (k : Nat) (x : Core) : (s.setCore k x).keyNext = s.keyNext := rfl
@[simp] theorem State.setCore_lineKeys (s : State) (k : Nat) (x : Core) : (s.setCore k x).lineKeys = s.lineKeys := rfl
@[simp] theorem State.setCore_deadChannels (s : State) (k : Nat) (x : Core) : (s.setCore k x).deadChannels = s.deadChannels := rfl
@[simp] theorem State.setCore_badLines (s : State) (k : Nat) (x : Core) : (s.setCore k x).badLines = s.badLines := rfl
@[simp] theorem State.setCore_mgmt (s : State) (k : Nat) (x : Core) : (s.setCore k x).mgmt = s.mgmt := rfl
@[simp] theorem State.setCore_out (s : State) (k : Nat) (x : Core) : (s.setCore k x).out = s.out := rfl
@[simp] theorem State.modCore_cur (s : State) (k : Nat) (f : Core → Core) : (s.modCore k f).cur = s.cur := rfl
@[simp] theorem State.modCore_agenda (s : State) (k : Nat) (f : Core → Core) : (s.modCore k f).agenda = s.agenda := rfl
@[simp] theorem State.modCore_free (s : State) (k : Nat) (f : Core → Core) : (s.modCore k f).free = s.free := rfl
@[simp] theorem State.modCore_pushes (s : State) (k : Nat) (f : Core → Core) : (s.modCore k f).pushes = s.pushes := rfl
@[simp] theorem State.modCore_cal (s : State) (k : Nat) (f : Core → Core) : (s.modCore k f).cal = s.cal := rfl
@[simp] theorem State.modCore_mem (s : State) (k : Nat) (f : Core → Core) : (s.modCore k f).mem = s.mem := rfl
@[simp] theorem State.modCore_tm (s : State) (k : Nat) (f : Core → Core) : (s.modCore k f).tm = s.tm := rfl
@[simp] theorem State.modCore_acc (s : State) (k : Nat) (f : Core → Core) : (s.modCore k f).acc = s.acc := rfl
@[simp] theorem State.modCore_ctxs (s : State) (k : Nat) (f : Core → Core) : (s.modCore k f).ctxs = s.ctxs := rfl
@[simp] theorem State.modCore_tiles (s : State) (k : Nat) (f : Core → Core) : (s.modCore k f).tiles = s.tiles := rfl
@[simp] theorem State.modCore_hives (s : State) (k : Nat) (f : Core → Core) : (s.modCore k f).hives = s.hives := rfl
@[simp] theorem State.modCore_l2 (s : State) (k : Nat) (f : Core → Core) : (s.modCore k f).l2 = s.l2 := rfl
@[simp] theorem State.modCore_l2Use (s : State) (k : Nat) (f : Core → Core) : (s.modCore k f).l2Use = s.l2Use := rfl
@[simp] theorem State.modCore_floors (s : State) (k : Nat) (f : Core → Core) : (s.modCore k f).floors = s.floors := rfl
@[simp] theorem State.modCore_sums (s : State) (k : Nat) (f : Core → Core) : (s.modCore k f).sums = s.sums := rfl
@[simp] theorem State.modCore_dead (s : State) (k : Nat) (f : Core → Core) : (s.modCore k f).dead = s.dead := rfl
@[simp] theorem State.modCore_saved (s : State) (k : Nat) (f : Core → Core) : (s.modCore k f).saved = s.saved := rfl
@[simp] theorem State.modCore_kept (s : State) (k : Nat) (f : Core → Core) : (s.modCore k f).kept = s.kept := rfl
@[simp] theorem State.modCore_heldLates (s : State) (k : Nat) (f : Core → Core) : (s.modCore k f).heldLates = s.heldLates := rfl
@[simp] theorem State.modCore_combs (s : State) (k : Nat) (f : Core → Core) : (s.modCore k f).combs = s.combs := rfl
@[simp] theorem State.modCore_launches (s : State) (k : Nat) (f : Core → Core) : (s.modCore k f).launches = s.launches := rfl
@[simp] theorem State.modCore_graphs (s : State) (k : Nat) (f : Core → Core) : (s.modCore k f).graphs = s.graphs := rfl
@[simp] theorem State.modCore_phases (s : State) (k : Nat) (f : Core → Core) : (s.modCore k f).phases = s.phases := rfl
@[simp] theorem State.modCore_order (s : State) (k : Nat) (f : Core → Core) : (s.modCore k f).order = s.order := rfl
@[simp] theorem State.modCore_served (s : State) (k : Nat) (f : Core → Core) : (s.modCore k f).served = s.served := rfl
@[simp] theorem State.modCore_rounds (s : State) (k : Nat) (f : Core → Core) : (s.modCore k f).rounds = s.rounds := rfl
@[simp] theorem State.modCore_wins (s : State) (k : Nat) (f : Core → Core) : (s.modCore k f).wins = s.wins := rfl
@[simp] theorem State.modCore_remotes (s : State) (k : Nat) (f : Core → Core) : (s.modCore k f).remotes = s.remotes := rfl
@[simp] theorem State.modCore_nextReq (s : State) (k : Nat) (f : Core → Core) : (s.modCore k f).nextReq = s.nextReq := rfl
@[simp] theorem State.modCore_shoots (s : State) (k : Nat) (f : Core → Core) : (s.modCore k f).shoots = s.shoots := rfl
@[simp] theorem State.modCore_posts (s : State) (k : Nat) (f : Core → Core) : (s.modCore k f).posts = s.posts := rfl
@[simp] theorem State.modCore_calSince (s : State) (k : Nat) (f : Core → Core) : (s.modCore k f).calSince = s.calSince := rfl
@[simp] theorem State.modCore_calApplied (s : State) (k : Nat) (f : Core → Core) : (s.modCore k f).calApplied = s.calApplied := rfl
@[simp] theorem State.modCore_routes (s : State) (k : Nat) (f : Core → Core) : (s.modCore k f).routes = s.routes := rfl
@[simp] theorem State.modCore_tenants (s : State) (k : Nat) (f : Core → Core) : (s.modCore k f).tenants = s.tenants := rfl
@[simp] theorem State.modCore_images (s : State) (k : Nat) (f : Core → Core) : (s.modCore k f).images = s.images := rfl
@[simp] theorem State.modCore_steps (s : State) (k : Nat) (f : Core → Core) : (s.modCore k f).steps = s.steps := rfl
@[simp] theorem State.modCore_tickets (s : State) (k : Nat) (f : Core → Core) : (s.modCore k f).tickets = s.tickets := rfl
@[simp] theorem State.modCore_keyGens (s : State) (k : Nat) (f : Core → Core) : (s.modCore k f).keyGens = s.keyGens := rfl
@[simp] theorem State.modCore_keyNext (s : State) (k : Nat) (f : Core → Core) : (s.modCore k f).keyNext = s.keyNext := rfl
@[simp] theorem State.modCore_lineKeys (s : State) (k : Nat) (f : Core → Core) : (s.modCore k f).lineKeys = s.lineKeys := rfl
@[simp] theorem State.modCore_deadChannels (s : State) (k : Nat) (f : Core → Core) : (s.modCore k f).deadChannels = s.deadChannels := rfl
@[simp] theorem State.modCore_badLines (s : State) (k : Nat) (f : Core → Core) : (s.modCore k f).badLines = s.badLines := rfl
@[simp] theorem State.modCore_mgmt (s : State) (k : Nat) (f : Core → Core) : (s.modCore k f).mgmt = s.mgmt := rfl
@[simp] theorem State.modCore_out (s : State) (k : Nat) (f : Core → Core) : (s.modCore k f).out = s.out := rfl
@[simp] theorem State.setTile_cur (s : State) (t : Nat) (x : Tile) : (s.setTile t x).cur = s.cur := rfl
@[simp] theorem State.setTile_agenda (s : State) (t : Nat) (x : Tile) : (s.setTile t x).agenda = s.agenda := rfl
@[simp] theorem State.setTile_free (s : State) (t : Nat) (x : Tile) : (s.setTile t x).free = s.free := rfl
@[simp] theorem State.setTile_pushes (s : State) (t : Nat) (x : Tile) : (s.setTile t x).pushes = s.pushes := rfl
@[simp] theorem State.setTile_cal (s : State) (t : Nat) (x : Tile) : (s.setTile t x).cal = s.cal := rfl
@[simp] theorem State.setTile_mem (s : State) (t : Nat) (x : Tile) : (s.setTile t x).mem = s.mem := rfl
@[simp] theorem State.setTile_tm (s : State) (t : Nat) (x : Tile) : (s.setTile t x).tm = s.tm := rfl
@[simp] theorem State.setTile_acc (s : State) (t : Nat) (x : Tile) : (s.setTile t x).acc = s.acc := rfl
@[simp] theorem State.setTile_ctxs (s : State) (t : Nat) (x : Tile) : (s.setTile t x).ctxs = s.ctxs := rfl
@[simp] theorem State.setTile_cores (s : State) (t : Nat) (x : Tile) : (s.setTile t x).cores = s.cores := rfl
@[simp] theorem State.setTile_hives (s : State) (t : Nat) (x : Tile) : (s.setTile t x).hives = s.hives := rfl
@[simp] theorem State.setTile_l2 (s : State) (t : Nat) (x : Tile) : (s.setTile t x).l2 = s.l2 := rfl
@[simp] theorem State.setTile_l2Use (s : State) (t : Nat) (x : Tile) : (s.setTile t x).l2Use = s.l2Use := rfl
@[simp] theorem State.setTile_floors (s : State) (t : Nat) (x : Tile) : (s.setTile t x).floors = s.floors := rfl
@[simp] theorem State.setTile_sums (s : State) (t : Nat) (x : Tile) : (s.setTile t x).sums = s.sums := rfl
@[simp] theorem State.setTile_dead (s : State) (t : Nat) (x : Tile) : (s.setTile t x).dead = s.dead := rfl
@[simp] theorem State.setTile_saved (s : State) (t : Nat) (x : Tile) : (s.setTile t x).saved = s.saved := rfl
@[simp] theorem State.setTile_kept (s : State) (t : Nat) (x : Tile) : (s.setTile t x).kept = s.kept := rfl
@[simp] theorem State.setTile_heldLates (s : State) (t : Nat) (x : Tile) : (s.setTile t x).heldLates = s.heldLates := rfl
@[simp] theorem State.setTile_combs (s : State) (t : Nat) (x : Tile) : (s.setTile t x).combs = s.combs := rfl
@[simp] theorem State.setTile_launches (s : State) (t : Nat) (x : Tile) : (s.setTile t x).launches = s.launches := rfl
@[simp] theorem State.setTile_graphs (s : State) (t : Nat) (x : Tile) : (s.setTile t x).graphs = s.graphs := rfl
@[simp] theorem State.setTile_phases (s : State) (t : Nat) (x : Tile) : (s.setTile t x).phases = s.phases := rfl
@[simp] theorem State.setTile_order (s : State) (t : Nat) (x : Tile) : (s.setTile t x).order = s.order := rfl
@[simp] theorem State.setTile_served (s : State) (t : Nat) (x : Tile) : (s.setTile t x).served = s.served := rfl
@[simp] theorem State.setTile_rounds (s : State) (t : Nat) (x : Tile) : (s.setTile t x).rounds = s.rounds := rfl
@[simp] theorem State.setTile_wins (s : State) (t : Nat) (x : Tile) : (s.setTile t x).wins = s.wins := rfl
@[simp] theorem State.setTile_remotes (s : State) (t : Nat) (x : Tile) : (s.setTile t x).remotes = s.remotes := rfl
@[simp] theorem State.setTile_nextReq (s : State) (t : Nat) (x : Tile) : (s.setTile t x).nextReq = s.nextReq := rfl
@[simp] theorem State.setTile_shoots (s : State) (t : Nat) (x : Tile) : (s.setTile t x).shoots = s.shoots := rfl
@[simp] theorem State.setTile_posts (s : State) (t : Nat) (x : Tile) : (s.setTile t x).posts = s.posts := rfl
@[simp] theorem State.setTile_calSince (s : State) (t : Nat) (x : Tile) : (s.setTile t x).calSince = s.calSince := rfl
@[simp] theorem State.setTile_calApplied (s : State) (t : Nat) (x : Tile) : (s.setTile t x).calApplied = s.calApplied := rfl
@[simp] theorem State.setTile_routes (s : State) (t : Nat) (x : Tile) : (s.setTile t x).routes = s.routes := rfl
@[simp] theorem State.setTile_tenants (s : State) (t : Nat) (x : Tile) : (s.setTile t x).tenants = s.tenants := rfl
@[simp] theorem State.setTile_images (s : State) (t : Nat) (x : Tile) : (s.setTile t x).images = s.images := rfl
@[simp] theorem State.setTile_steps (s : State) (t : Nat) (x : Tile) : (s.setTile t x).steps = s.steps := rfl
@[simp] theorem State.setTile_tickets (s : State) (t : Nat) (x : Tile) : (s.setTile t x).tickets = s.tickets := rfl
@[simp] theorem State.setTile_keyGens (s : State) (t : Nat) (x : Tile) : (s.setTile t x).keyGens = s.keyGens := rfl
@[simp] theorem State.setTile_keyNext (s : State) (t : Nat) (x : Tile) : (s.setTile t x).keyNext = s.keyNext := rfl
@[simp] theorem State.setTile_lineKeys (s : State) (t : Nat) (x : Tile) : (s.setTile t x).lineKeys = s.lineKeys := rfl
@[simp] theorem State.setTile_deadChannels (s : State) (t : Nat) (x : Tile) : (s.setTile t x).deadChannels = s.deadChannels := rfl
@[simp] theorem State.setTile_badLines (s : State) (t : Nat) (x : Tile) : (s.setTile t x).badLines = s.badLines := rfl
@[simp] theorem State.setTile_mgmt (s : State) (t : Nat) (x : Tile) : (s.setTile t x).mgmt = s.mgmt := rfl
@[simp] theorem State.setTile_out (s : State) (t : Nat) (x : Tile) : (s.setTile t x).out = s.out := rfl
@[simp] theorem State.modTile_cur (s : State) (t : Nat) (f : Tile → Tile) : (s.modTile t f).cur = s.cur := rfl
@[simp] theorem State.modTile_agenda (s : State) (t : Nat) (f : Tile → Tile) : (s.modTile t f).agenda = s.agenda := rfl
@[simp] theorem State.modTile_free (s : State) (t : Nat) (f : Tile → Tile) : (s.modTile t f).free = s.free := rfl
@[simp] theorem State.modTile_pushes (s : State) (t : Nat) (f : Tile → Tile) : (s.modTile t f).pushes = s.pushes := rfl
@[simp] theorem State.modTile_cal (s : State) (t : Nat) (f : Tile → Tile) : (s.modTile t f).cal = s.cal := rfl
@[simp] theorem State.modTile_mem (s : State) (t : Nat) (f : Tile → Tile) : (s.modTile t f).mem = s.mem := rfl
@[simp] theorem State.modTile_tm (s : State) (t : Nat) (f : Tile → Tile) : (s.modTile t f).tm = s.tm := rfl
@[simp] theorem State.modTile_acc (s : State) (t : Nat) (f : Tile → Tile) : (s.modTile t f).acc = s.acc := rfl
@[simp] theorem State.modTile_ctxs (s : State) (t : Nat) (f : Tile → Tile) : (s.modTile t f).ctxs = s.ctxs := rfl
@[simp] theorem State.modTile_cores (s : State) (t : Nat) (f : Tile → Tile) : (s.modTile t f).cores = s.cores := rfl
@[simp] theorem State.modTile_hives (s : State) (t : Nat) (f : Tile → Tile) : (s.modTile t f).hives = s.hives := rfl
@[simp] theorem State.modTile_l2 (s : State) (t : Nat) (f : Tile → Tile) : (s.modTile t f).l2 = s.l2 := rfl
@[simp] theorem State.modTile_l2Use (s : State) (t : Nat) (f : Tile → Tile) : (s.modTile t f).l2Use = s.l2Use := rfl
@[simp] theorem State.modTile_floors (s : State) (t : Nat) (f : Tile → Tile) : (s.modTile t f).floors = s.floors := rfl
@[simp] theorem State.modTile_sums (s : State) (t : Nat) (f : Tile → Tile) : (s.modTile t f).sums = s.sums := rfl
@[simp] theorem State.modTile_dead (s : State) (t : Nat) (f : Tile → Tile) : (s.modTile t f).dead = s.dead := rfl
@[simp] theorem State.modTile_saved (s : State) (t : Nat) (f : Tile → Tile) : (s.modTile t f).saved = s.saved := rfl
@[simp] theorem State.modTile_kept (s : State) (t : Nat) (f : Tile → Tile) : (s.modTile t f).kept = s.kept := rfl
@[simp] theorem State.modTile_heldLates (s : State) (t : Nat) (f : Tile → Tile) : (s.modTile t f).heldLates = s.heldLates := rfl
@[simp] theorem State.modTile_combs (s : State) (t : Nat) (f : Tile → Tile) : (s.modTile t f).combs = s.combs := rfl
@[simp] theorem State.modTile_launches (s : State) (t : Nat) (f : Tile → Tile) : (s.modTile t f).launches = s.launches := rfl
@[simp] theorem State.modTile_graphs (s : State) (t : Nat) (f : Tile → Tile) : (s.modTile t f).graphs = s.graphs := rfl
@[simp] theorem State.modTile_phases (s : State) (t : Nat) (f : Tile → Tile) : (s.modTile t f).phases = s.phases := rfl
@[simp] theorem State.modTile_order (s : State) (t : Nat) (f : Tile → Tile) : (s.modTile t f).order = s.order := rfl
@[simp] theorem State.modTile_served (s : State) (t : Nat) (f : Tile → Tile) : (s.modTile t f).served = s.served := rfl
@[simp] theorem State.modTile_rounds (s : State) (t : Nat) (f : Tile → Tile) : (s.modTile t f).rounds = s.rounds := rfl
@[simp] theorem State.modTile_wins (s : State) (t : Nat) (f : Tile → Tile) : (s.modTile t f).wins = s.wins := rfl
@[simp] theorem State.modTile_remotes (s : State) (t : Nat) (f : Tile → Tile) : (s.modTile t f).remotes = s.remotes := rfl
@[simp] theorem State.modTile_nextReq (s : State) (t : Nat) (f : Tile → Tile) : (s.modTile t f).nextReq = s.nextReq := rfl
@[simp] theorem State.modTile_shoots (s : State) (t : Nat) (f : Tile → Tile) : (s.modTile t f).shoots = s.shoots := rfl
@[simp] theorem State.modTile_posts (s : State) (t : Nat) (f : Tile → Tile) : (s.modTile t f).posts = s.posts := rfl
@[simp] theorem State.modTile_calSince (s : State) (t : Nat) (f : Tile → Tile) : (s.modTile t f).calSince = s.calSince := rfl
@[simp] theorem State.modTile_calApplied (s : State) (t : Nat) (f : Tile → Tile) : (s.modTile t f).calApplied = s.calApplied := rfl
@[simp] theorem State.modTile_routes (s : State) (t : Nat) (f : Tile → Tile) : (s.modTile t f).routes = s.routes := rfl
@[simp] theorem State.modTile_tenants (s : State) (t : Nat) (f : Tile → Tile) : (s.modTile t f).tenants = s.tenants := rfl
@[simp] theorem State.modTile_images (s : State) (t : Nat) (f : Tile → Tile) : (s.modTile t f).images = s.images := rfl
@[simp] theorem State.modTile_steps (s : State) (t : Nat) (f : Tile → Tile) : (s.modTile t f).steps = s.steps := rfl
@[simp] theorem State.modTile_tickets (s : State) (t : Nat) (f : Tile → Tile) : (s.modTile t f).tickets = s.tickets := rfl
@[simp] theorem State.modTile_keyGens (s : State) (t : Nat) (f : Tile → Tile) : (s.modTile t f).keyGens = s.keyGens := rfl
@[simp] theorem State.modTile_keyNext (s : State) (t : Nat) (f : Tile → Tile) : (s.modTile t f).keyNext = s.keyNext := rfl
@[simp] theorem State.modTile_lineKeys (s : State) (t : Nat) (f : Tile → Tile) : (s.modTile t f).lineKeys = s.lineKeys := rfl
@[simp] theorem State.modTile_deadChannels (s : State) (t : Nat) (f : Tile → Tile) : (s.modTile t f).deadChannels = s.deadChannels := rfl
@[simp] theorem State.modTile_badLines (s : State) (t : Nat) (f : Tile → Tile) : (s.modTile t f).badLines = s.badLines := rfl
@[simp] theorem State.modTile_mgmt (s : State) (t : Nat) (f : Tile → Tile) : (s.modTile t f).mgmt = s.mgmt := rfl
@[simp] theorem State.modTile_out (s : State) (t : Nat) (f : Tile → Tile) : (s.modTile t f).out = s.out := rfl
@[simp] theorem State.modHive_cur (s : State) (h : Nat) (f : Hive → Hive) : (s.modHive h f).cur = s.cur := rfl
@[simp] theorem State.modHive_agenda (s : State) (h : Nat) (f : Hive → Hive) : (s.modHive h f).agenda = s.agenda := rfl
@[simp] theorem State.modHive_free (s : State) (h : Nat) (f : Hive → Hive) : (s.modHive h f).free = s.free := rfl
@[simp] theorem State.modHive_pushes (s : State) (h : Nat) (f : Hive → Hive) : (s.modHive h f).pushes = s.pushes := rfl
@[simp] theorem State.modHive_cal (s : State) (h : Nat) (f : Hive → Hive) : (s.modHive h f).cal = s.cal := rfl
@[simp] theorem State.modHive_mem (s : State) (h : Nat) (f : Hive → Hive) : (s.modHive h f).mem = s.mem := rfl
@[simp] theorem State.modHive_tm (s : State) (h : Nat) (f : Hive → Hive) : (s.modHive h f).tm = s.tm := rfl
@[simp] theorem State.modHive_acc (s : State) (h : Nat) (f : Hive → Hive) : (s.modHive h f).acc = s.acc := rfl
@[simp] theorem State.modHive_ctxs (s : State) (h : Nat) (f : Hive → Hive) : (s.modHive h f).ctxs = s.ctxs := rfl
@[simp] theorem State.modHive_cores (s : State) (h : Nat) (f : Hive → Hive) : (s.modHive h f).cores = s.cores := rfl
@[simp] theorem State.modHive_tiles (s : State) (h : Nat) (f : Hive → Hive) : (s.modHive h f).tiles = s.tiles := rfl
@[simp] theorem State.modHive_l2 (s : State) (h : Nat) (f : Hive → Hive) : (s.modHive h f).l2 = s.l2 := rfl
@[simp] theorem State.modHive_l2Use (s : State) (h : Nat) (f : Hive → Hive) : (s.modHive h f).l2Use = s.l2Use := rfl
@[simp] theorem State.modHive_floors (s : State) (h : Nat) (f : Hive → Hive) : (s.modHive h f).floors = s.floors := rfl
@[simp] theorem State.modHive_sums (s : State) (h : Nat) (f : Hive → Hive) : (s.modHive h f).sums = s.sums := rfl
@[simp] theorem State.modHive_dead (s : State) (h : Nat) (f : Hive → Hive) : (s.modHive h f).dead = s.dead := rfl
@[simp] theorem State.modHive_saved (s : State) (h : Nat) (f : Hive → Hive) : (s.modHive h f).saved = s.saved := rfl
@[simp] theorem State.modHive_kept (s : State) (h : Nat) (f : Hive → Hive) : (s.modHive h f).kept = s.kept := rfl
@[simp] theorem State.modHive_heldLates (s : State) (h : Nat) (f : Hive → Hive) : (s.modHive h f).heldLates = s.heldLates := rfl
@[simp] theorem State.modHive_combs (s : State) (h : Nat) (f : Hive → Hive) : (s.modHive h f).combs = s.combs := rfl
@[simp] theorem State.modHive_launches (s : State) (h : Nat) (f : Hive → Hive) : (s.modHive h f).launches = s.launches := rfl
@[simp] theorem State.modHive_graphs (s : State) (h : Nat) (f : Hive → Hive) : (s.modHive h f).graphs = s.graphs := rfl
@[simp] theorem State.modHive_phases (s : State) (h : Nat) (f : Hive → Hive) : (s.modHive h f).phases = s.phases := rfl
@[simp] theorem State.modHive_order (s : State) (h : Nat) (f : Hive → Hive) : (s.modHive h f).order = s.order := rfl
@[simp] theorem State.modHive_served (s : State) (h : Nat) (f : Hive → Hive) : (s.modHive h f).served = s.served := rfl
@[simp] theorem State.modHive_rounds (s : State) (h : Nat) (f : Hive → Hive) : (s.modHive h f).rounds = s.rounds := rfl
@[simp] theorem State.modHive_wins (s : State) (h : Nat) (f : Hive → Hive) : (s.modHive h f).wins = s.wins := rfl
@[simp] theorem State.modHive_remotes (s : State) (h : Nat) (f : Hive → Hive) : (s.modHive h f).remotes = s.remotes := rfl
@[simp] theorem State.modHive_nextReq (s : State) (h : Nat) (f : Hive → Hive) : (s.modHive h f).nextReq = s.nextReq := rfl
@[simp] theorem State.modHive_shoots (s : State) (h : Nat) (f : Hive → Hive) : (s.modHive h f).shoots = s.shoots := rfl
@[simp] theorem State.modHive_posts (s : State) (h : Nat) (f : Hive → Hive) : (s.modHive h f).posts = s.posts := rfl
@[simp] theorem State.modHive_calSince (s : State) (h : Nat) (f : Hive → Hive) : (s.modHive h f).calSince = s.calSince := rfl
@[simp] theorem State.modHive_calApplied (s : State) (h : Nat) (f : Hive → Hive) : (s.modHive h f).calApplied = s.calApplied := rfl
@[simp] theorem State.modHive_routes (s : State) (h : Nat) (f : Hive → Hive) : (s.modHive h f).routes = s.routes := rfl
@[simp] theorem State.modHive_tenants (s : State) (h : Nat) (f : Hive → Hive) : (s.modHive h f).tenants = s.tenants := rfl
@[simp] theorem State.modHive_images (s : State) (h : Nat) (f : Hive → Hive) : (s.modHive h f).images = s.images := rfl
@[simp] theorem State.modHive_steps (s : State) (h : Nat) (f : Hive → Hive) : (s.modHive h f).steps = s.steps := rfl
@[simp] theorem State.modHive_tickets (s : State) (h : Nat) (f : Hive → Hive) : (s.modHive h f).tickets = s.tickets := rfl
@[simp] theorem State.modHive_keyGens (s : State) (h : Nat) (f : Hive → Hive) : (s.modHive h f).keyGens = s.keyGens := rfl
@[simp] theorem State.modHive_keyNext (s : State) (h : Nat) (f : Hive → Hive) : (s.modHive h f).keyNext = s.keyNext := rfl
@[simp] theorem State.modHive_lineKeys (s : State) (h : Nat) (f : Hive → Hive) : (s.modHive h f).lineKeys = s.lineKeys := rfl
@[simp] theorem State.modHive_deadChannels (s : State) (h : Nat) (f : Hive → Hive) : (s.modHive h f).deadChannels = s.deadChannels := rfl
@[simp] theorem State.modHive_badLines (s : State) (h : Nat) (f : Hive → Hive) : (s.modHive h f).badLines = s.badLines := rfl
@[simp] theorem State.modHive_mgmt (s : State) (h : Nat) (f : Hive → Hive) : (s.modHive h f).mgmt = s.mgmt := rfl
@[simp] theorem State.modHive_out (s : State) (h : Nat) (f : Hive → Hive) : (s.modHive h f).out = s.out := rfl
@[simp] theorem State.setL2_cur (s : State) (l : Nat) (x : L2Line) : (s.setL2 l x).cur = s.cur := rfl
@[simp] theorem State.setL2_agenda (s : State) (l : Nat) (x : L2Line) : (s.setL2 l x).agenda = s.agenda := rfl
@[simp] theorem State.setL2_free (s : State) (l : Nat) (x : L2Line) : (s.setL2 l x).free = s.free := rfl
@[simp] theorem State.setL2_pushes (s : State) (l : Nat) (x : L2Line) : (s.setL2 l x).pushes = s.pushes := rfl
@[simp] theorem State.setL2_cal (s : State) (l : Nat) (x : L2Line) : (s.setL2 l x).cal = s.cal := rfl
@[simp] theorem State.setL2_mem (s : State) (l : Nat) (x : L2Line) : (s.setL2 l x).mem = s.mem := rfl
@[simp] theorem State.setL2_tm (s : State) (l : Nat) (x : L2Line) : (s.setL2 l x).tm = s.tm := rfl
@[simp] theorem State.setL2_acc (s : State) (l : Nat) (x : L2Line) : (s.setL2 l x).acc = s.acc := rfl
@[simp] theorem State.setL2_ctxs (s : State) (l : Nat) (x : L2Line) : (s.setL2 l x).ctxs = s.ctxs := rfl
@[simp] theorem State.setL2_cores (s : State) (l : Nat) (x : L2Line) : (s.setL2 l x).cores = s.cores := rfl
@[simp] theorem State.setL2_tiles (s : State) (l : Nat) (x : L2Line) : (s.setL2 l x).tiles = s.tiles := rfl
@[simp] theorem State.setL2_hives (s : State) (l : Nat) (x : L2Line) : (s.setL2 l x).hives = s.hives := rfl
@[simp] theorem State.setL2_l2Use (s : State) (l : Nat) (x : L2Line) : (s.setL2 l x).l2Use = s.l2Use := rfl
@[simp] theorem State.setL2_floors (s : State) (l : Nat) (x : L2Line) : (s.setL2 l x).floors = s.floors := rfl
@[simp] theorem State.setL2_sums (s : State) (l : Nat) (x : L2Line) : (s.setL2 l x).sums = s.sums := rfl
@[simp] theorem State.setL2_dead (s : State) (l : Nat) (x : L2Line) : (s.setL2 l x).dead = s.dead := rfl
@[simp] theorem State.setL2_saved (s : State) (l : Nat) (x : L2Line) : (s.setL2 l x).saved = s.saved := rfl
@[simp] theorem State.setL2_kept (s : State) (l : Nat) (x : L2Line) : (s.setL2 l x).kept = s.kept := rfl
@[simp] theorem State.setL2_heldLates (s : State) (l : Nat) (x : L2Line) : (s.setL2 l x).heldLates = s.heldLates := rfl
@[simp] theorem State.setL2_combs (s : State) (l : Nat) (x : L2Line) : (s.setL2 l x).combs = s.combs := rfl
@[simp] theorem State.setL2_launches (s : State) (l : Nat) (x : L2Line) : (s.setL2 l x).launches = s.launches := rfl
@[simp] theorem State.setL2_graphs (s : State) (l : Nat) (x : L2Line) : (s.setL2 l x).graphs = s.graphs := rfl
@[simp] theorem State.setL2_phases (s : State) (l : Nat) (x : L2Line) : (s.setL2 l x).phases = s.phases := rfl
@[simp] theorem State.setL2_order (s : State) (l : Nat) (x : L2Line) : (s.setL2 l x).order = s.order := rfl
@[simp] theorem State.setL2_served (s : State) (l : Nat) (x : L2Line) : (s.setL2 l x).served = s.served := rfl
@[simp] theorem State.setL2_rounds (s : State) (l : Nat) (x : L2Line) : (s.setL2 l x).rounds = s.rounds := rfl
@[simp] theorem State.setL2_wins (s : State) (l : Nat) (x : L2Line) : (s.setL2 l x).wins = s.wins := rfl
@[simp] theorem State.setL2_remotes (s : State) (l : Nat) (x : L2Line) : (s.setL2 l x).remotes = s.remotes := rfl
@[simp] theorem State.setL2_nextReq (s : State) (l : Nat) (x : L2Line) : (s.setL2 l x).nextReq = s.nextReq := rfl
@[simp] theorem State.setL2_shoots (s : State) (l : Nat) (x : L2Line) : (s.setL2 l x).shoots = s.shoots := rfl
@[simp] theorem State.setL2_posts (s : State) (l : Nat) (x : L2Line) : (s.setL2 l x).posts = s.posts := rfl
@[simp] theorem State.setL2_calSince (s : State) (l : Nat) (x : L2Line) : (s.setL2 l x).calSince = s.calSince := rfl
@[simp] theorem State.setL2_calApplied (s : State) (l : Nat) (x : L2Line) : (s.setL2 l x).calApplied = s.calApplied := rfl
@[simp] theorem State.setL2_routes (s : State) (l : Nat) (x : L2Line) : (s.setL2 l x).routes = s.routes := rfl
@[simp] theorem State.setL2_tenants (s : State) (l : Nat) (x : L2Line) : (s.setL2 l x).tenants = s.tenants := rfl
@[simp] theorem State.setL2_images (s : State) (l : Nat) (x : L2Line) : (s.setL2 l x).images = s.images := rfl
@[simp] theorem State.setL2_steps (s : State) (l : Nat) (x : L2Line) : (s.setL2 l x).steps = s.steps := rfl
@[simp] theorem State.setL2_tickets (s : State) (l : Nat) (x : L2Line) : (s.setL2 l x).tickets = s.tickets := rfl
@[simp] theorem State.setL2_keyGens (s : State) (l : Nat) (x : L2Line) : (s.setL2 l x).keyGens = s.keyGens := rfl
@[simp] theorem State.setL2_keyNext (s : State) (l : Nat) (x : L2Line) : (s.setL2 l x).keyNext = s.keyNext := rfl
@[simp] theorem State.setL2_lineKeys (s : State) (l : Nat) (x : L2Line) : (s.setL2 l x).lineKeys = s.lineKeys := rfl
@[simp] theorem State.setL2_deadChannels (s : State) (l : Nat) (x : L2Line) : (s.setL2 l x).deadChannels = s.deadChannels := rfl
@[simp] theorem State.setL2_badLines (s : State) (l : Nat) (x : L2Line) : (s.setL2 l x).badLines = s.badLines := rfl
@[simp] theorem State.setL2_mgmt (s : State) (l : Nat) (x : L2Line) : (s.setL2 l x).mgmt = s.mgmt := rfl
@[simp] theorem State.setL2_out (s : State) (l : Nat) (x : L2Line) : (s.setL2 l x).out = s.out := rfl
@[simp] theorem State.setSum_cur (s : State) (w : Nat) (x : SumEnt) : (s.setSum w x).cur = s.cur := rfl
@[simp] theorem State.setSum_agenda (s : State) (w : Nat) (x : SumEnt) : (s.setSum w x).agenda = s.agenda := rfl
@[simp] theorem State.setSum_free (s : State) (w : Nat) (x : SumEnt) : (s.setSum w x).free = s.free := rfl
@[simp] theorem State.setSum_pushes (s : State) (w : Nat) (x : SumEnt) : (s.setSum w x).pushes = s.pushes := rfl
@[simp] theorem State.setSum_cal (s : State) (w : Nat) (x : SumEnt) : (s.setSum w x).cal = s.cal := rfl
@[simp] theorem State.setSum_mem (s : State) (w : Nat) (x : SumEnt) : (s.setSum w x).mem = s.mem := rfl
@[simp] theorem State.setSum_tm (s : State) (w : Nat) (x : SumEnt) : (s.setSum w x).tm = s.tm := rfl
@[simp] theorem State.setSum_acc (s : State) (w : Nat) (x : SumEnt) : (s.setSum w x).acc = s.acc := rfl
@[simp] theorem State.setSum_ctxs (s : State) (w : Nat) (x : SumEnt) : (s.setSum w x).ctxs = s.ctxs := rfl
@[simp] theorem State.setSum_cores (s : State) (w : Nat) (x : SumEnt) : (s.setSum w x).cores = s.cores := rfl
@[simp] theorem State.setSum_tiles (s : State) (w : Nat) (x : SumEnt) : (s.setSum w x).tiles = s.tiles := rfl
@[simp] theorem State.setSum_hives (s : State) (w : Nat) (x : SumEnt) : (s.setSum w x).hives = s.hives := rfl
@[simp] theorem State.setSum_l2 (s : State) (w : Nat) (x : SumEnt) : (s.setSum w x).l2 = s.l2 := rfl
@[simp] theorem State.setSum_l2Use (s : State) (w : Nat) (x : SumEnt) : (s.setSum w x).l2Use = s.l2Use := rfl
@[simp] theorem State.setSum_floors (s : State) (w : Nat) (x : SumEnt) : (s.setSum w x).floors = s.floors := rfl
@[simp] theorem State.setSum_dead (s : State) (w : Nat) (x : SumEnt) : (s.setSum w x).dead = s.dead := rfl
@[simp] theorem State.setSum_saved (s : State) (w : Nat) (x : SumEnt) : (s.setSum w x).saved = s.saved := rfl
@[simp] theorem State.setSum_kept (s : State) (w : Nat) (x : SumEnt) : (s.setSum w x).kept = s.kept := rfl
@[simp] theorem State.setSum_heldLates (s : State) (w : Nat) (x : SumEnt) : (s.setSum w x).heldLates = s.heldLates := rfl
@[simp] theorem State.setSum_combs (s : State) (w : Nat) (x : SumEnt) : (s.setSum w x).combs = s.combs := rfl
@[simp] theorem State.setSum_launches (s : State) (w : Nat) (x : SumEnt) : (s.setSum w x).launches = s.launches := rfl
@[simp] theorem State.setSum_graphs (s : State) (w : Nat) (x : SumEnt) : (s.setSum w x).graphs = s.graphs := rfl
@[simp] theorem State.setSum_phases (s : State) (w : Nat) (x : SumEnt) : (s.setSum w x).phases = s.phases := rfl
@[simp] theorem State.setSum_order (s : State) (w : Nat) (x : SumEnt) : (s.setSum w x).order = s.order := rfl
@[simp] theorem State.setSum_served (s : State) (w : Nat) (x : SumEnt) : (s.setSum w x).served = s.served := rfl
@[simp] theorem State.setSum_rounds (s : State) (w : Nat) (x : SumEnt) : (s.setSum w x).rounds = s.rounds := rfl
@[simp] theorem State.setSum_wins (s : State) (w : Nat) (x : SumEnt) : (s.setSum w x).wins = s.wins := rfl
@[simp] theorem State.setSum_remotes (s : State) (w : Nat) (x : SumEnt) : (s.setSum w x).remotes = s.remotes := rfl
@[simp] theorem State.setSum_nextReq (s : State) (w : Nat) (x : SumEnt) : (s.setSum w x).nextReq = s.nextReq := rfl
@[simp] theorem State.setSum_shoots (s : State) (w : Nat) (x : SumEnt) : (s.setSum w x).shoots = s.shoots := rfl
@[simp] theorem State.setSum_posts (s : State) (w : Nat) (x : SumEnt) : (s.setSum w x).posts = s.posts := rfl
@[simp] theorem State.setSum_calSince (s : State) (w : Nat) (x : SumEnt) : (s.setSum w x).calSince = s.calSince := rfl
@[simp] theorem State.setSum_calApplied (s : State) (w : Nat) (x : SumEnt) : (s.setSum w x).calApplied = s.calApplied := rfl
@[simp] theorem State.setSum_routes (s : State) (w : Nat) (x : SumEnt) : (s.setSum w x).routes = s.routes := rfl
@[simp] theorem State.setSum_tenants (s : State) (w : Nat) (x : SumEnt) : (s.setSum w x).tenants = s.tenants := rfl
@[simp] theorem State.setSum_images (s : State) (w : Nat) (x : SumEnt) : (s.setSum w x).images = s.images := rfl
@[simp] theorem State.setSum_steps (s : State) (w : Nat) (x : SumEnt) : (s.setSum w x).steps = s.steps := rfl
@[simp] theorem State.setSum_tickets (s : State) (w : Nat) (x : SumEnt) : (s.setSum w x).tickets = s.tickets := rfl
@[simp] theorem State.setSum_keyGens (s : State) (w : Nat) (x : SumEnt) : (s.setSum w x).keyGens = s.keyGens := rfl
@[simp] theorem State.setSum_keyNext (s : State) (w : Nat) (x : SumEnt) : (s.setSum w x).keyNext = s.keyNext := rfl
@[simp] theorem State.setSum_lineKeys (s : State) (w : Nat) (x : SumEnt) : (s.setSum w x).lineKeys = s.lineKeys := rfl
@[simp] theorem State.setSum_deadChannels (s : State) (w : Nat) (x : SumEnt) : (s.setSum w x).deadChannels = s.deadChannels := rfl
@[simp] theorem State.setSum_badLines (s : State) (w : Nat) (x : SumEnt) : (s.setSum w x).badLines = s.badLines := rfl
@[simp] theorem State.setSum_mgmt (s : State) (w : Nat) (x : SumEnt) : (s.setSum w x).mgmt = s.mgmt := rfl
@[simp] theorem State.setSum_out (s : State) (w : Nat) (x : SumEnt) : (s.setSum w x).out = s.out := rfl
@[simp] theorem State.modTenant_cur (s : State) (v : Nat) (f : Tenant → Tenant) : (s.modTenant v f).cur = s.cur := rfl
@[simp] theorem State.modTenant_agenda (s : State) (v : Nat) (f : Tenant → Tenant) : (s.modTenant v f).agenda = s.agenda := rfl
@[simp] theorem State.modTenant_free (s : State) (v : Nat) (f : Tenant → Tenant) : (s.modTenant v f).free = s.free := rfl
@[simp] theorem State.modTenant_pushes (s : State) (v : Nat) (f : Tenant → Tenant) : (s.modTenant v f).pushes = s.pushes := rfl
@[simp] theorem State.modTenant_cal (s : State) (v : Nat) (f : Tenant → Tenant) : (s.modTenant v f).cal = s.cal := rfl
@[simp] theorem State.modTenant_mem (s : State) (v : Nat) (f : Tenant → Tenant) : (s.modTenant v f).mem = s.mem := rfl
@[simp] theorem State.modTenant_tm (s : State) (v : Nat) (f : Tenant → Tenant) : (s.modTenant v f).tm = s.tm := rfl
@[simp] theorem State.modTenant_acc (s : State) (v : Nat) (f : Tenant → Tenant) : (s.modTenant v f).acc = s.acc := rfl
@[simp] theorem State.modTenant_ctxs (s : State) (v : Nat) (f : Tenant → Tenant) : (s.modTenant v f).ctxs = s.ctxs := rfl
@[simp] theorem State.modTenant_cores (s : State) (v : Nat) (f : Tenant → Tenant) : (s.modTenant v f).cores = s.cores := rfl
@[simp] theorem State.modTenant_tiles (s : State) (v : Nat) (f : Tenant → Tenant) : (s.modTenant v f).tiles = s.tiles := rfl
@[simp] theorem State.modTenant_hives (s : State) (v : Nat) (f : Tenant → Tenant) : (s.modTenant v f).hives = s.hives := rfl
@[simp] theorem State.modTenant_l2 (s : State) (v : Nat) (f : Tenant → Tenant) : (s.modTenant v f).l2 = s.l2 := rfl
@[simp] theorem State.modTenant_l2Use (s : State) (v : Nat) (f : Tenant → Tenant) : (s.modTenant v f).l2Use = s.l2Use := rfl
@[simp] theorem State.modTenant_floors (s : State) (v : Nat) (f : Tenant → Tenant) : (s.modTenant v f).floors = s.floors := rfl
@[simp] theorem State.modTenant_sums (s : State) (v : Nat) (f : Tenant → Tenant) : (s.modTenant v f).sums = s.sums := rfl
@[simp] theorem State.modTenant_dead (s : State) (v : Nat) (f : Tenant → Tenant) : (s.modTenant v f).dead = s.dead := rfl
@[simp] theorem State.modTenant_saved (s : State) (v : Nat) (f : Tenant → Tenant) : (s.modTenant v f).saved = s.saved := rfl
@[simp] theorem State.modTenant_kept (s : State) (v : Nat) (f : Tenant → Tenant) : (s.modTenant v f).kept = s.kept := rfl
@[simp] theorem State.modTenant_heldLates (s : State) (v : Nat) (f : Tenant → Tenant) : (s.modTenant v f).heldLates = s.heldLates := rfl
@[simp] theorem State.modTenant_combs (s : State) (v : Nat) (f : Tenant → Tenant) : (s.modTenant v f).combs = s.combs := rfl
@[simp] theorem State.modTenant_launches (s : State) (v : Nat) (f : Tenant → Tenant) : (s.modTenant v f).launches = s.launches := rfl
@[simp] theorem State.modTenant_graphs (s : State) (v : Nat) (f : Tenant → Tenant) : (s.modTenant v f).graphs = s.graphs := rfl
@[simp] theorem State.modTenant_phases (s : State) (v : Nat) (f : Tenant → Tenant) : (s.modTenant v f).phases = s.phases := rfl
@[simp] theorem State.modTenant_order (s : State) (v : Nat) (f : Tenant → Tenant) : (s.modTenant v f).order = s.order := rfl
@[simp] theorem State.modTenant_served (s : State) (v : Nat) (f : Tenant → Tenant) : (s.modTenant v f).served = s.served := rfl
@[simp] theorem State.modTenant_rounds (s : State) (v : Nat) (f : Tenant → Tenant) : (s.modTenant v f).rounds = s.rounds := rfl
@[simp] theorem State.modTenant_wins (s : State) (v : Nat) (f : Tenant → Tenant) : (s.modTenant v f).wins = s.wins := rfl
@[simp] theorem State.modTenant_remotes (s : State) (v : Nat) (f : Tenant → Tenant) : (s.modTenant v f).remotes = s.remotes := rfl
@[simp] theorem State.modTenant_nextReq (s : State) (v : Nat) (f : Tenant → Tenant) : (s.modTenant v f).nextReq = s.nextReq := rfl
@[simp] theorem State.modTenant_shoots (s : State) (v : Nat) (f : Tenant → Tenant) : (s.modTenant v f).shoots = s.shoots := rfl
@[simp] theorem State.modTenant_posts (s : State) (v : Nat) (f : Tenant → Tenant) : (s.modTenant v f).posts = s.posts := rfl
@[simp] theorem State.modTenant_calSince (s : State) (v : Nat) (f : Tenant → Tenant) : (s.modTenant v f).calSince = s.calSince := rfl
@[simp] theorem State.modTenant_calApplied (s : State) (v : Nat) (f : Tenant → Tenant) : (s.modTenant v f).calApplied = s.calApplied := rfl
@[simp] theorem State.modTenant_routes (s : State) (v : Nat) (f : Tenant → Tenant) : (s.modTenant v f).routes = s.routes := rfl
@[simp] theorem State.modTenant_images (s : State) (v : Nat) (f : Tenant → Tenant) : (s.modTenant v f).images = s.images := rfl
@[simp] theorem State.modTenant_steps (s : State) (v : Nat) (f : Tenant → Tenant) : (s.modTenant v f).steps = s.steps := rfl
@[simp] theorem State.modTenant_tickets (s : State) (v : Nat) (f : Tenant → Tenant) : (s.modTenant v f).tickets = s.tickets := rfl
@[simp] theorem State.modTenant_keyGens (s : State) (v : Nat) (f : Tenant → Tenant) : (s.modTenant v f).keyGens = s.keyGens := rfl
@[simp] theorem State.modTenant_keyNext (s : State) (v : Nat) (f : Tenant → Tenant) : (s.modTenant v f).keyNext = s.keyNext := rfl
@[simp] theorem State.modTenant_lineKeys (s : State) (v : Nat) (f : Tenant → Tenant) : (s.modTenant v f).lineKeys = s.lineKeys := rfl
@[simp] theorem State.modTenant_deadChannels (s : State) (v : Nat) (f : Tenant → Tenant) : (s.modTenant v f).deadChannels = s.deadChannels := rfl
@[simp] theorem State.modTenant_badLines (s : State) (v : Nat) (f : Tenant → Tenant) : (s.modTenant v f).badLines = s.badLines := rfl
@[simp] theorem State.modTenant_mgmt (s : State) (v : Nat) (f : Tenant → Tenant) : (s.modTenant v f).mgmt = s.mgmt := rfl
@[simp] theorem State.modTenant_out (s : State) (v : Nat) (f : Tenant → Tenant) : (s.modTenant v f).out = s.out := rfl
@[simp] theorem State.setByte_cur (s : State) (pa : Nat) (b : Byte) : (s.setByte pa b).cur = s.cur := rfl
@[simp] theorem State.setByte_agenda (s : State) (pa : Nat) (b : Byte) : (s.setByte pa b).agenda = s.agenda := rfl
@[simp] theorem State.setByte_free (s : State) (pa : Nat) (b : Byte) : (s.setByte pa b).free = s.free := rfl
@[simp] theorem State.setByte_pushes (s : State) (pa : Nat) (b : Byte) : (s.setByte pa b).pushes = s.pushes := rfl
@[simp] theorem State.setByte_cal (s : State) (pa : Nat) (b : Byte) : (s.setByte pa b).cal = s.cal := rfl
@[simp] theorem State.setByte_tm (s : State) (pa : Nat) (b : Byte) : (s.setByte pa b).tm = s.tm := rfl
@[simp] theorem State.setByte_acc (s : State) (pa : Nat) (b : Byte) : (s.setByte pa b).acc = s.acc := rfl
@[simp] theorem State.setByte_ctxs (s : State) (pa : Nat) (b : Byte) : (s.setByte pa b).ctxs = s.ctxs := rfl
@[simp] theorem State.setByte_cores (s : State) (pa : Nat) (b : Byte) : (s.setByte pa b).cores = s.cores := rfl
@[simp] theorem State.setByte_tiles (s : State) (pa : Nat) (b : Byte) : (s.setByte pa b).tiles = s.tiles := rfl
@[simp] theorem State.setByte_hives (s : State) (pa : Nat) (b : Byte) : (s.setByte pa b).hives = s.hives := rfl
@[simp] theorem State.setByte_l2 (s : State) (pa : Nat) (b : Byte) : (s.setByte pa b).l2 = s.l2 := rfl
@[simp] theorem State.setByte_l2Use (s : State) (pa : Nat) (b : Byte) : (s.setByte pa b).l2Use = s.l2Use := rfl
@[simp] theorem State.setByte_floors (s : State) (pa : Nat) (b : Byte) : (s.setByte pa b).floors = s.floors := rfl
@[simp] theorem State.setByte_sums (s : State) (pa : Nat) (b : Byte) : (s.setByte pa b).sums = s.sums := rfl
@[simp] theorem State.setByte_dead (s : State) (pa : Nat) (b : Byte) : (s.setByte pa b).dead = s.dead := rfl
@[simp] theorem State.setByte_saved (s : State) (pa : Nat) (b : Byte) : (s.setByte pa b).saved = s.saved := rfl
@[simp] theorem State.setByte_kept (s : State) (pa : Nat) (b : Byte) : (s.setByte pa b).kept = s.kept := rfl
@[simp] theorem State.setByte_heldLates (s : State) (pa : Nat) (b : Byte) : (s.setByte pa b).heldLates = s.heldLates := rfl
@[simp] theorem State.setByte_combs (s : State) (pa : Nat) (b : Byte) : (s.setByte pa b).combs = s.combs := rfl
@[simp] theorem State.setByte_launches (s : State) (pa : Nat) (b : Byte) : (s.setByte pa b).launches = s.launches := rfl
@[simp] theorem State.setByte_graphs (s : State) (pa : Nat) (b : Byte) : (s.setByte pa b).graphs = s.graphs := rfl
@[simp] theorem State.setByte_phases (s : State) (pa : Nat) (b : Byte) : (s.setByte pa b).phases = s.phases := rfl
@[simp] theorem State.setByte_order (s : State) (pa : Nat) (b : Byte) : (s.setByte pa b).order = s.order := rfl
@[simp] theorem State.setByte_served (s : State) (pa : Nat) (b : Byte) : (s.setByte pa b).served = s.served := rfl
@[simp] theorem State.setByte_rounds (s : State) (pa : Nat) (b : Byte) : (s.setByte pa b).rounds = s.rounds := rfl
@[simp] theorem State.setByte_wins (s : State) (pa : Nat) (b : Byte) : (s.setByte pa b).wins = s.wins := rfl
@[simp] theorem State.setByte_remotes (s : State) (pa : Nat) (b : Byte) : (s.setByte pa b).remotes = s.remotes := rfl
@[simp] theorem State.setByte_nextReq (s : State) (pa : Nat) (b : Byte) : (s.setByte pa b).nextReq = s.nextReq := rfl
@[simp] theorem State.setByte_shoots (s : State) (pa : Nat) (b : Byte) : (s.setByte pa b).shoots = s.shoots := rfl
@[simp] theorem State.setByte_posts (s : State) (pa : Nat) (b : Byte) : (s.setByte pa b).posts = s.posts := rfl
@[simp] theorem State.setByte_calSince (s : State) (pa : Nat) (b : Byte) : (s.setByte pa b).calSince = s.calSince := rfl
@[simp] theorem State.setByte_calApplied (s : State) (pa : Nat) (b : Byte) : (s.setByte pa b).calApplied = s.calApplied := rfl
@[simp] theorem State.setByte_routes (s : State) (pa : Nat) (b : Byte) : (s.setByte pa b).routes = s.routes := rfl
@[simp] theorem State.setByte_tenants (s : State) (pa : Nat) (b : Byte) : (s.setByte pa b).tenants = s.tenants := rfl
@[simp] theorem State.setByte_images (s : State) (pa : Nat) (b : Byte) : (s.setByte pa b).images = s.images := rfl
@[simp] theorem State.setByte_steps (s : State) (pa : Nat) (b : Byte) : (s.setByte pa b).steps = s.steps := rfl
@[simp] theorem State.setByte_tickets (s : State) (pa : Nat) (b : Byte) : (s.setByte pa b).tickets = s.tickets := rfl
@[simp] theorem State.setByte_keyGens (s : State) (pa : Nat) (b : Byte) : (s.setByte pa b).keyGens = s.keyGens := rfl
@[simp] theorem State.setByte_keyNext (s : State) (pa : Nat) (b : Byte) : (s.setByte pa b).keyNext = s.keyNext := rfl
@[simp] theorem State.setByte_lineKeys (s : State) (pa : Nat) (b : Byte) : (s.setByte pa b).lineKeys = s.lineKeys := rfl
@[simp] theorem State.setByte_deadChannels (s : State) (pa : Nat) (b : Byte) : (s.setByte pa b).deadChannels = s.deadChannels := rfl
@[simp] theorem State.setByte_badLines (s : State) (pa : Nat) (b : Byte) : (s.setByte pa b).badLines = s.badLines := rfl
@[simp] theorem State.setByte_mgmt (s : State) (pa : Nat) (b : Byte) : (s.setByte pa b).mgmt = s.mgmt := rfl
@[simp] theorem State.setByte_out (s : State) (pa : Nat) (b : Byte) : (s.setByte pa b).out = s.out := rfl
@[simp] theorem State.setTmByte_cur (s : State) (t view off : Nat) (b : Byte) : (s.setTmByte t view off b).cur = s.cur := rfl
@[simp] theorem State.setTmByte_agenda (s : State) (t view off : Nat) (b : Byte) : (s.setTmByte t view off b).agenda = s.agenda := rfl
@[simp] theorem State.setTmByte_free (s : State) (t view off : Nat) (b : Byte) : (s.setTmByte t view off b).free = s.free := rfl
@[simp] theorem State.setTmByte_pushes (s : State) (t view off : Nat) (b : Byte) : (s.setTmByte t view off b).pushes = s.pushes := rfl
@[simp] theorem State.setTmByte_cal (s : State) (t view off : Nat) (b : Byte) : (s.setTmByte t view off b).cal = s.cal := rfl
@[simp] theorem State.setTmByte_mem (s : State) (t view off : Nat) (b : Byte) : (s.setTmByte t view off b).mem = s.mem := rfl
@[simp] theorem State.setTmByte_acc (s : State) (t view off : Nat) (b : Byte) : (s.setTmByte t view off b).acc = s.acc := rfl
@[simp] theorem State.setTmByte_ctxs (s : State) (t view off : Nat) (b : Byte) : (s.setTmByte t view off b).ctxs = s.ctxs := rfl
@[simp] theorem State.setTmByte_cores (s : State) (t view off : Nat) (b : Byte) : (s.setTmByte t view off b).cores = s.cores := rfl
@[simp] theorem State.setTmByte_tiles (s : State) (t view off : Nat) (b : Byte) : (s.setTmByte t view off b).tiles = s.tiles := rfl
@[simp] theorem State.setTmByte_hives (s : State) (t view off : Nat) (b : Byte) : (s.setTmByte t view off b).hives = s.hives := rfl
@[simp] theorem State.setTmByte_l2 (s : State) (t view off : Nat) (b : Byte) : (s.setTmByte t view off b).l2 = s.l2 := rfl
@[simp] theorem State.setTmByte_l2Use (s : State) (t view off : Nat) (b : Byte) : (s.setTmByte t view off b).l2Use = s.l2Use := rfl
@[simp] theorem State.setTmByte_floors (s : State) (t view off : Nat) (b : Byte) : (s.setTmByte t view off b).floors = s.floors := rfl
@[simp] theorem State.setTmByte_sums (s : State) (t view off : Nat) (b : Byte) : (s.setTmByte t view off b).sums = s.sums := rfl
@[simp] theorem State.setTmByte_dead (s : State) (t view off : Nat) (b : Byte) : (s.setTmByte t view off b).dead = s.dead := rfl
@[simp] theorem State.setTmByte_saved (s : State) (t view off : Nat) (b : Byte) : (s.setTmByte t view off b).saved = s.saved := rfl
@[simp] theorem State.setTmByte_kept (s : State) (t view off : Nat) (b : Byte) : (s.setTmByte t view off b).kept = s.kept := rfl
@[simp] theorem State.setTmByte_heldLates (s : State) (t view off : Nat) (b : Byte) : (s.setTmByte t view off b).heldLates = s.heldLates := rfl
@[simp] theorem State.setTmByte_combs (s : State) (t view off : Nat) (b : Byte) : (s.setTmByte t view off b).combs = s.combs := rfl
@[simp] theorem State.setTmByte_launches (s : State) (t view off : Nat) (b : Byte) : (s.setTmByte t view off b).launches = s.launches := rfl
@[simp] theorem State.setTmByte_graphs (s : State) (t view off : Nat) (b : Byte) : (s.setTmByte t view off b).graphs = s.graphs := rfl
@[simp] theorem State.setTmByte_phases (s : State) (t view off : Nat) (b : Byte) : (s.setTmByte t view off b).phases = s.phases := rfl
@[simp] theorem State.setTmByte_order (s : State) (t view off : Nat) (b : Byte) : (s.setTmByte t view off b).order = s.order := rfl
@[simp] theorem State.setTmByte_served (s : State) (t view off : Nat) (b : Byte) : (s.setTmByte t view off b).served = s.served := rfl
@[simp] theorem State.setTmByte_rounds (s : State) (t view off : Nat) (b : Byte) : (s.setTmByte t view off b).rounds = s.rounds := rfl
@[simp] theorem State.setTmByte_wins (s : State) (t view off : Nat) (b : Byte) : (s.setTmByte t view off b).wins = s.wins := rfl
@[simp] theorem State.setTmByte_remotes (s : State) (t view off : Nat) (b : Byte) : (s.setTmByte t view off b).remotes = s.remotes := rfl
@[simp] theorem State.setTmByte_nextReq (s : State) (t view off : Nat) (b : Byte) : (s.setTmByte t view off b).nextReq = s.nextReq := rfl
@[simp] theorem State.setTmByte_shoots (s : State) (t view off : Nat) (b : Byte) : (s.setTmByte t view off b).shoots = s.shoots := rfl
@[simp] theorem State.setTmByte_posts (s : State) (t view off : Nat) (b : Byte) : (s.setTmByte t view off b).posts = s.posts := rfl
@[simp] theorem State.setTmByte_calSince (s : State) (t view off : Nat) (b : Byte) : (s.setTmByte t view off b).calSince = s.calSince := rfl
@[simp] theorem State.setTmByte_calApplied (s : State) (t view off : Nat) (b : Byte) : (s.setTmByte t view off b).calApplied = s.calApplied := rfl
@[simp] theorem State.setTmByte_routes (s : State) (t view off : Nat) (b : Byte) : (s.setTmByte t view off b).routes = s.routes := rfl
@[simp] theorem State.setTmByte_tenants (s : State) (t view off : Nat) (b : Byte) : (s.setTmByte t view off b).tenants = s.tenants := rfl
@[simp] theorem State.setTmByte_images (s : State) (t view off : Nat) (b : Byte) : (s.setTmByte t view off b).images = s.images := rfl
@[simp] theorem State.setTmByte_steps (s : State) (t view off : Nat) (b : Byte) : (s.setTmByte t view off b).steps = s.steps := rfl
@[simp] theorem State.setTmByte_tickets (s : State) (t view off : Nat) (b : Byte) : (s.setTmByte t view off b).tickets = s.tickets := rfl
@[simp] theorem State.setTmByte_keyGens (s : State) (t view off : Nat) (b : Byte) : (s.setTmByte t view off b).keyGens = s.keyGens := rfl
@[simp] theorem State.setTmByte_keyNext (s : State) (t view off : Nat) (b : Byte) : (s.setTmByte t view off b).keyNext = s.keyNext := rfl
@[simp] theorem State.setTmByte_lineKeys (s : State) (t view off : Nat) (b : Byte) : (s.setTmByte t view off b).lineKeys = s.lineKeys := rfl
@[simp] theorem State.setTmByte_deadChannels (s : State) (t view off : Nat) (b : Byte) : (s.setTmByte t view off b).deadChannels = s.deadChannels := rfl
@[simp] theorem State.setTmByte_badLines (s : State) (t view off : Nat) (b : Byte) : (s.setTmByte t view off b).badLines = s.badLines := rfl
@[simp] theorem State.setTmByte_mgmt (s : State) (t view off : Nat) (b : Byte) : (s.setTmByte t view off b).mgmt = s.mgmt := rfl
@[simp] theorem State.setTmByte_out (s : State) (t view off : Nat) (b : Byte) : (s.setTmByte t view off b).out = s.out := rfl
@[simp] theorem State.setAcc_cur (s : State) (t row col : Nat) (x : BitVec 32) : (s.setAcc t row col x).cur = s.cur := rfl
@[simp] theorem State.setAcc_agenda (s : State) (t row col : Nat) (x : BitVec 32) : (s.setAcc t row col x).agenda = s.agenda := rfl
@[simp] theorem State.setAcc_free (s : State) (t row col : Nat) (x : BitVec 32) : (s.setAcc t row col x).free = s.free := rfl
@[simp] theorem State.setAcc_pushes (s : State) (t row col : Nat) (x : BitVec 32) : (s.setAcc t row col x).pushes = s.pushes := rfl
@[simp] theorem State.setAcc_cal (s : State) (t row col : Nat) (x : BitVec 32) : (s.setAcc t row col x).cal = s.cal := rfl
@[simp] theorem State.setAcc_mem (s : State) (t row col : Nat) (x : BitVec 32) : (s.setAcc t row col x).mem = s.mem := rfl
@[simp] theorem State.setAcc_tm (s : State) (t row col : Nat) (x : BitVec 32) : (s.setAcc t row col x).tm = s.tm := rfl
@[simp] theorem State.setAcc_ctxs (s : State) (t row col : Nat) (x : BitVec 32) : (s.setAcc t row col x).ctxs = s.ctxs := rfl
@[simp] theorem State.setAcc_cores (s : State) (t row col : Nat) (x : BitVec 32) : (s.setAcc t row col x).cores = s.cores := rfl
@[simp] theorem State.setAcc_tiles (s : State) (t row col : Nat) (x : BitVec 32) : (s.setAcc t row col x).tiles = s.tiles := rfl
@[simp] theorem State.setAcc_hives (s : State) (t row col : Nat) (x : BitVec 32) : (s.setAcc t row col x).hives = s.hives := rfl
@[simp] theorem State.setAcc_l2 (s : State) (t row col : Nat) (x : BitVec 32) : (s.setAcc t row col x).l2 = s.l2 := rfl
@[simp] theorem State.setAcc_l2Use (s : State) (t row col : Nat) (x : BitVec 32) : (s.setAcc t row col x).l2Use = s.l2Use := rfl
@[simp] theorem State.setAcc_floors (s : State) (t row col : Nat) (x : BitVec 32) : (s.setAcc t row col x).floors = s.floors := rfl
@[simp] theorem State.setAcc_sums (s : State) (t row col : Nat) (x : BitVec 32) : (s.setAcc t row col x).sums = s.sums := rfl
@[simp] theorem State.setAcc_dead (s : State) (t row col : Nat) (x : BitVec 32) : (s.setAcc t row col x).dead = s.dead := rfl
@[simp] theorem State.setAcc_saved (s : State) (t row col : Nat) (x : BitVec 32) : (s.setAcc t row col x).saved = s.saved := rfl
@[simp] theorem State.setAcc_kept (s : State) (t row col : Nat) (x : BitVec 32) : (s.setAcc t row col x).kept = s.kept := rfl
@[simp] theorem State.setAcc_heldLates (s : State) (t row col : Nat) (x : BitVec 32) : (s.setAcc t row col x).heldLates = s.heldLates := rfl
@[simp] theorem State.setAcc_combs (s : State) (t row col : Nat) (x : BitVec 32) : (s.setAcc t row col x).combs = s.combs := rfl
@[simp] theorem State.setAcc_launches (s : State) (t row col : Nat) (x : BitVec 32) : (s.setAcc t row col x).launches = s.launches := rfl
@[simp] theorem State.setAcc_graphs (s : State) (t row col : Nat) (x : BitVec 32) : (s.setAcc t row col x).graphs = s.graphs := rfl
@[simp] theorem State.setAcc_phases (s : State) (t row col : Nat) (x : BitVec 32) : (s.setAcc t row col x).phases = s.phases := rfl
@[simp] theorem State.setAcc_order (s : State) (t row col : Nat) (x : BitVec 32) : (s.setAcc t row col x).order = s.order := rfl
@[simp] theorem State.setAcc_served (s : State) (t row col : Nat) (x : BitVec 32) : (s.setAcc t row col x).served = s.served := rfl
@[simp] theorem State.setAcc_rounds (s : State) (t row col : Nat) (x : BitVec 32) : (s.setAcc t row col x).rounds = s.rounds := rfl
@[simp] theorem State.setAcc_wins (s : State) (t row col : Nat) (x : BitVec 32) : (s.setAcc t row col x).wins = s.wins := rfl
@[simp] theorem State.setAcc_remotes (s : State) (t row col : Nat) (x : BitVec 32) : (s.setAcc t row col x).remotes = s.remotes := rfl
@[simp] theorem State.setAcc_nextReq (s : State) (t row col : Nat) (x : BitVec 32) : (s.setAcc t row col x).nextReq = s.nextReq := rfl
@[simp] theorem State.setAcc_shoots (s : State) (t row col : Nat) (x : BitVec 32) : (s.setAcc t row col x).shoots = s.shoots := rfl
@[simp] theorem State.setAcc_posts (s : State) (t row col : Nat) (x : BitVec 32) : (s.setAcc t row col x).posts = s.posts := rfl
@[simp] theorem State.setAcc_calSince (s : State) (t row col : Nat) (x : BitVec 32) : (s.setAcc t row col x).calSince = s.calSince := rfl
@[simp] theorem State.setAcc_calApplied (s : State) (t row col : Nat) (x : BitVec 32) : (s.setAcc t row col x).calApplied = s.calApplied := rfl
@[simp] theorem State.setAcc_routes (s : State) (t row col : Nat) (x : BitVec 32) : (s.setAcc t row col x).routes = s.routes := rfl
@[simp] theorem State.setAcc_tenants (s : State) (t row col : Nat) (x : BitVec 32) : (s.setAcc t row col x).tenants = s.tenants := rfl
@[simp] theorem State.setAcc_images (s : State) (t row col : Nat) (x : BitVec 32) : (s.setAcc t row col x).images = s.images := rfl
@[simp] theorem State.setAcc_steps (s : State) (t row col : Nat) (x : BitVec 32) : (s.setAcc t row col x).steps = s.steps := rfl
@[simp] theorem State.setAcc_tickets (s : State) (t row col : Nat) (x : BitVec 32) : (s.setAcc t row col x).tickets = s.tickets := rfl
@[simp] theorem State.setAcc_keyGens (s : State) (t row col : Nat) (x : BitVec 32) : (s.setAcc t row col x).keyGens = s.keyGens := rfl
@[simp] theorem State.setAcc_keyNext (s : State) (t row col : Nat) (x : BitVec 32) : (s.setAcc t row col x).keyNext = s.keyNext := rfl
@[simp] theorem State.setAcc_lineKeys (s : State) (t row col : Nat) (x : BitVec 32) : (s.setAcc t row col x).lineKeys = s.lineKeys := rfl
@[simp] theorem State.setAcc_deadChannels (s : State) (t row col : Nat) (x : BitVec 32) : (s.setAcc t row col x).deadChannels = s.deadChannels := rfl
@[simp] theorem State.setAcc_badLines (s : State) (t row col : Nat) (x : BitVec 32) : (s.setAcc t row col x).badLines = s.badLines := rfl
@[simp] theorem State.setAcc_mgmt (s : State) (t row col : Nat) (x : BitVec 32) : (s.setAcc t row col x).mgmt = s.mgmt := rfl
@[simp] theorem State.setAcc_out (s : State) (t row col : Nat) (x : BitVec 32) : (s.setAcc t row col x).out = s.out := rfl
@[simp] theorem State.modComb_cur (s : State) (y j : Nat) (f : Comb → Comb) : (s.modComb y j f).cur = s.cur := rfl
@[simp] theorem State.modComb_agenda (s : State) (y j : Nat) (f : Comb → Comb) : (s.modComb y j f).agenda = s.agenda := rfl
@[simp] theorem State.modComb_free (s : State) (y j : Nat) (f : Comb → Comb) : (s.modComb y j f).free = s.free := rfl
@[simp] theorem State.modComb_pushes (s : State) (y j : Nat) (f : Comb → Comb) : (s.modComb y j f).pushes = s.pushes := rfl
@[simp] theorem State.modComb_cal (s : State) (y j : Nat) (f : Comb → Comb) : (s.modComb y j f).cal = s.cal := rfl
@[simp] theorem State.modComb_mem (s : State) (y j : Nat) (f : Comb → Comb) : (s.modComb y j f).mem = s.mem := rfl
@[simp] theorem State.modComb_tm (s : State) (y j : Nat) (f : Comb → Comb) : (s.modComb y j f).tm = s.tm := rfl
@[simp] theorem State.modComb_acc (s : State) (y j : Nat) (f : Comb → Comb) : (s.modComb y j f).acc = s.acc := rfl
@[simp] theorem State.modComb_ctxs (s : State) (y j : Nat) (f : Comb → Comb) : (s.modComb y j f).ctxs = s.ctxs := rfl
@[simp] theorem State.modComb_cores (s : State) (y j : Nat) (f : Comb → Comb) : (s.modComb y j f).cores = s.cores := rfl
@[simp] theorem State.modComb_tiles (s : State) (y j : Nat) (f : Comb → Comb) : (s.modComb y j f).tiles = s.tiles := rfl
@[simp] theorem State.modComb_hives (s : State) (y j : Nat) (f : Comb → Comb) : (s.modComb y j f).hives = s.hives := rfl
@[simp] theorem State.modComb_l2 (s : State) (y j : Nat) (f : Comb → Comb) : (s.modComb y j f).l2 = s.l2 := rfl
@[simp] theorem State.modComb_l2Use (s : State) (y j : Nat) (f : Comb → Comb) : (s.modComb y j f).l2Use = s.l2Use := rfl
@[simp] theorem State.modComb_floors (s : State) (y j : Nat) (f : Comb → Comb) : (s.modComb y j f).floors = s.floors := rfl
@[simp] theorem State.modComb_sums (s : State) (y j : Nat) (f : Comb → Comb) : (s.modComb y j f).sums = s.sums := rfl
@[simp] theorem State.modComb_dead (s : State) (y j : Nat) (f : Comb → Comb) : (s.modComb y j f).dead = s.dead := rfl
@[simp] theorem State.modComb_saved (s : State) (y j : Nat) (f : Comb → Comb) : (s.modComb y j f).saved = s.saved := rfl
@[simp] theorem State.modComb_kept (s : State) (y j : Nat) (f : Comb → Comb) : (s.modComb y j f).kept = s.kept := rfl
@[simp] theorem State.modComb_heldLates (s : State) (y j : Nat) (f : Comb → Comb) : (s.modComb y j f).heldLates = s.heldLates := rfl
@[simp] theorem State.modComb_launches (s : State) (y j : Nat) (f : Comb → Comb) : (s.modComb y j f).launches = s.launches := rfl
@[simp] theorem State.modComb_graphs (s : State) (y j : Nat) (f : Comb → Comb) : (s.modComb y j f).graphs = s.graphs := rfl
@[simp] theorem State.modComb_phases (s : State) (y j : Nat) (f : Comb → Comb) : (s.modComb y j f).phases = s.phases := rfl
@[simp] theorem State.modComb_order (s : State) (y j : Nat) (f : Comb → Comb) : (s.modComb y j f).order = s.order := rfl
@[simp] theorem State.modComb_served (s : State) (y j : Nat) (f : Comb → Comb) : (s.modComb y j f).served = s.served := rfl
@[simp] theorem State.modComb_rounds (s : State) (y j : Nat) (f : Comb → Comb) : (s.modComb y j f).rounds = s.rounds := rfl
@[simp] theorem State.modComb_wins (s : State) (y j : Nat) (f : Comb → Comb) : (s.modComb y j f).wins = s.wins := rfl
@[simp] theorem State.modComb_remotes (s : State) (y j : Nat) (f : Comb → Comb) : (s.modComb y j f).remotes = s.remotes := rfl
@[simp] theorem State.modComb_nextReq (s : State) (y j : Nat) (f : Comb → Comb) : (s.modComb y j f).nextReq = s.nextReq := rfl
@[simp] theorem State.modComb_shoots (s : State) (y j : Nat) (f : Comb → Comb) : (s.modComb y j f).shoots = s.shoots := rfl
@[simp] theorem State.modComb_posts (s : State) (y j : Nat) (f : Comb → Comb) : (s.modComb y j f).posts = s.posts := rfl
@[simp] theorem State.modComb_calSince (s : State) (y j : Nat) (f : Comb → Comb) : (s.modComb y j f).calSince = s.calSince := rfl
@[simp] theorem State.modComb_calApplied (s : State) (y j : Nat) (f : Comb → Comb) : (s.modComb y j f).calApplied = s.calApplied := rfl
@[simp] theorem State.modComb_routes (s : State) (y j : Nat) (f : Comb → Comb) : (s.modComb y j f).routes = s.routes := rfl
@[simp] theorem State.modComb_tenants (s : State) (y j : Nat) (f : Comb → Comb) : (s.modComb y j f).tenants = s.tenants := rfl
@[simp] theorem State.modComb_images (s : State) (y j : Nat) (f : Comb → Comb) : (s.modComb y j f).images = s.images := rfl
@[simp] theorem State.modComb_steps (s : State) (y j : Nat) (f : Comb → Comb) : (s.modComb y j f).steps = s.steps := rfl
@[simp] theorem State.modComb_tickets (s : State) (y j : Nat) (f : Comb → Comb) : (s.modComb y j f).tickets = s.tickets := rfl
@[simp] theorem State.modComb_keyGens (s : State) (y j : Nat) (f : Comb → Comb) : (s.modComb y j f).keyGens = s.keyGens := rfl
@[simp] theorem State.modComb_keyNext (s : State) (y j : Nat) (f : Comb → Comb) : (s.modComb y j f).keyNext = s.keyNext := rfl
@[simp] theorem State.modComb_lineKeys (s : State) (y j : Nat) (f : Comb → Comb) : (s.modComb y j f).lineKeys = s.lineKeys := rfl
@[simp] theorem State.modComb_deadChannels (s : State) (y j : Nat) (f : Comb → Comb) : (s.modComb y j f).deadChannels = s.deadChannels := rfl
@[simp] theorem State.modComb_badLines (s : State) (y j : Nat) (f : Comb → Comb) : (s.modComb y j f).badLines = s.badLines := rfl
@[simp] theorem State.modComb_mgmt (s : State) (y j : Nat) (f : Comb → Comb) : (s.modComb y j f).mgmt = s.mgmt := rfl
@[simp] theorem State.modComb_out (s : State) (y j : Nat) (f : Comb → Comb) : (s.modComb y j f).out = s.out := rfl
@[simp] theorem State.modLaunch_cur (s : State) (y j i : Nat) (f : Launch → Launch) : (s.modLaunch y j i f).cur = s.cur := rfl
@[simp] theorem State.modLaunch_agenda (s : State) (y j i : Nat) (f : Launch → Launch) : (s.modLaunch y j i f).agenda = s.agenda := rfl
@[simp] theorem State.modLaunch_free (s : State) (y j i : Nat) (f : Launch → Launch) : (s.modLaunch y j i f).free = s.free := rfl
@[simp] theorem State.modLaunch_pushes (s : State) (y j i : Nat) (f : Launch → Launch) : (s.modLaunch y j i f).pushes = s.pushes := rfl
@[simp] theorem State.modLaunch_cal (s : State) (y j i : Nat) (f : Launch → Launch) : (s.modLaunch y j i f).cal = s.cal := rfl
@[simp] theorem State.modLaunch_mem (s : State) (y j i : Nat) (f : Launch → Launch) : (s.modLaunch y j i f).mem = s.mem := rfl
@[simp] theorem State.modLaunch_tm (s : State) (y j i : Nat) (f : Launch → Launch) : (s.modLaunch y j i f).tm = s.tm := rfl
@[simp] theorem State.modLaunch_acc (s : State) (y j i : Nat) (f : Launch → Launch) : (s.modLaunch y j i f).acc = s.acc := rfl
@[simp] theorem State.modLaunch_ctxs (s : State) (y j i : Nat) (f : Launch → Launch) : (s.modLaunch y j i f).ctxs = s.ctxs := rfl
@[simp] theorem State.modLaunch_cores (s : State) (y j i : Nat) (f : Launch → Launch) : (s.modLaunch y j i f).cores = s.cores := rfl
@[simp] theorem State.modLaunch_tiles (s : State) (y j i : Nat) (f : Launch → Launch) : (s.modLaunch y j i f).tiles = s.tiles := rfl
@[simp] theorem State.modLaunch_hives (s : State) (y j i : Nat) (f : Launch → Launch) : (s.modLaunch y j i f).hives = s.hives := rfl
@[simp] theorem State.modLaunch_l2 (s : State) (y j i : Nat) (f : Launch → Launch) : (s.modLaunch y j i f).l2 = s.l2 := rfl
@[simp] theorem State.modLaunch_l2Use (s : State) (y j i : Nat) (f : Launch → Launch) : (s.modLaunch y j i f).l2Use = s.l2Use := rfl
@[simp] theorem State.modLaunch_floors (s : State) (y j i : Nat) (f : Launch → Launch) : (s.modLaunch y j i f).floors = s.floors := rfl
@[simp] theorem State.modLaunch_sums (s : State) (y j i : Nat) (f : Launch → Launch) : (s.modLaunch y j i f).sums = s.sums := rfl
@[simp] theorem State.modLaunch_dead (s : State) (y j i : Nat) (f : Launch → Launch) : (s.modLaunch y j i f).dead = s.dead := rfl
@[simp] theorem State.modLaunch_saved (s : State) (y j i : Nat) (f : Launch → Launch) : (s.modLaunch y j i f).saved = s.saved := rfl
@[simp] theorem State.modLaunch_kept (s : State) (y j i : Nat) (f : Launch → Launch) : (s.modLaunch y j i f).kept = s.kept := rfl
@[simp] theorem State.modLaunch_heldLates (s : State) (y j i : Nat) (f : Launch → Launch) : (s.modLaunch y j i f).heldLates = s.heldLates := rfl
@[simp] theorem State.modLaunch_combs (s : State) (y j i : Nat) (f : Launch → Launch) : (s.modLaunch y j i f).combs = s.combs := rfl
@[simp] theorem State.modLaunch_graphs (s : State) (y j i : Nat) (f : Launch → Launch) : (s.modLaunch y j i f).graphs = s.graphs := rfl
@[simp] theorem State.modLaunch_phases (s : State) (y j i : Nat) (f : Launch → Launch) : (s.modLaunch y j i f).phases = s.phases := rfl
@[simp] theorem State.modLaunch_order (s : State) (y j i : Nat) (f : Launch → Launch) : (s.modLaunch y j i f).order = s.order := rfl
@[simp] theorem State.modLaunch_served (s : State) (y j i : Nat) (f : Launch → Launch) : (s.modLaunch y j i f).served = s.served := rfl
@[simp] theorem State.modLaunch_rounds (s : State) (y j i : Nat) (f : Launch → Launch) : (s.modLaunch y j i f).rounds = s.rounds := rfl
@[simp] theorem State.modLaunch_wins (s : State) (y j i : Nat) (f : Launch → Launch) : (s.modLaunch y j i f).wins = s.wins := rfl
@[simp] theorem State.modLaunch_remotes (s : State) (y j i : Nat) (f : Launch → Launch) : (s.modLaunch y j i f).remotes = s.remotes := rfl
@[simp] theorem State.modLaunch_nextReq (s : State) (y j i : Nat) (f : Launch → Launch) : (s.modLaunch y j i f).nextReq = s.nextReq := rfl
@[simp] theorem State.modLaunch_shoots (s : State) (y j i : Nat) (f : Launch → Launch) : (s.modLaunch y j i f).shoots = s.shoots := rfl
@[simp] theorem State.modLaunch_posts (s : State) (y j i : Nat) (f : Launch → Launch) : (s.modLaunch y j i f).posts = s.posts := rfl
@[simp] theorem State.modLaunch_calSince (s : State) (y j i : Nat) (f : Launch → Launch) : (s.modLaunch y j i f).calSince = s.calSince := rfl
@[simp] theorem State.modLaunch_calApplied (s : State) (y j i : Nat) (f : Launch → Launch) : (s.modLaunch y j i f).calApplied = s.calApplied := rfl
@[simp] theorem State.modLaunch_routes (s : State) (y j i : Nat) (f : Launch → Launch) : (s.modLaunch y j i f).routes = s.routes := rfl
@[simp] theorem State.modLaunch_tenants (s : State) (y j i : Nat) (f : Launch → Launch) : (s.modLaunch y j i f).tenants = s.tenants := rfl
@[simp] theorem State.modLaunch_images (s : State) (y j i : Nat) (f : Launch → Launch) : (s.modLaunch y j i f).images = s.images := rfl
@[simp] theorem State.modLaunch_steps (s : State) (y j i : Nat) (f : Launch → Launch) : (s.modLaunch y j i f).steps = s.steps := rfl
@[simp] theorem State.modLaunch_tickets (s : State) (y j i : Nat) (f : Launch → Launch) : (s.modLaunch y j i f).tickets = s.tickets := rfl
@[simp] theorem State.modLaunch_keyGens (s : State) (y j i : Nat) (f : Launch → Launch) : (s.modLaunch y j i f).keyGens = s.keyGens := rfl
@[simp] theorem State.modLaunch_keyNext (s : State) (y j i : Nat) (f : Launch → Launch) : (s.modLaunch y j i f).keyNext = s.keyNext := rfl
@[simp] theorem State.modLaunch_lineKeys (s : State) (y j i : Nat) (f : Launch → Launch) : (s.modLaunch y j i f).lineKeys = s.lineKeys := rfl
@[simp] theorem State.modLaunch_deadChannels (s : State) (y j i : Nat) (f : Launch → Launch) : (s.modLaunch y j i f).deadChannels = s.deadChannels := rfl
@[simp] theorem State.modLaunch_badLines (s : State) (y j i : Nat) (f : Launch → Launch) : (s.modLaunch y j i f).badLines = s.badLines := rfl
@[simp] theorem State.modLaunch_mgmt (s : State) (y j i : Nat) (f : Launch → Launch) : (s.modLaunch y j i f).mgmt = s.mgmt := rfl
@[simp] theorem State.modLaunch_out (s : State) (y j i : Nat) (f : Launch → Launch) : (s.modLaunch y j i f).out = s.out := rfl
@[simp] theorem State.later_cur (s : State) (i : Instr) : (s.later i).cur = s.cur := rfl
@[simp] theorem State.later_free (s : State) (i : Instr) : (s.later i).free = s.free := rfl
@[simp] theorem State.later_pushes (s : State) (i : Instr) : (s.later i).pushes = s.pushes := rfl
@[simp] theorem State.later_cal (s : State) (i : Instr) : (s.later i).cal = s.cal := rfl
@[simp] theorem State.later_mem (s : State) (i : Instr) : (s.later i).mem = s.mem := rfl
@[simp] theorem State.later_tm (s : State) (i : Instr) : (s.later i).tm = s.tm := rfl
@[simp] theorem State.later_acc (s : State) (i : Instr) : (s.later i).acc = s.acc := rfl
@[simp] theorem State.later_ctxs (s : State) (i : Instr) : (s.later i).ctxs = s.ctxs := rfl
@[simp] theorem State.later_cores (s : State) (i : Instr) : (s.later i).cores = s.cores := rfl
@[simp] theorem State.later_tiles (s : State) (i : Instr) : (s.later i).tiles = s.tiles := rfl
@[simp] theorem State.later_hives (s : State) (i : Instr) : (s.later i).hives = s.hives := rfl
@[simp] theorem State.later_l2 (s : State) (i : Instr) : (s.later i).l2 = s.l2 := rfl
@[simp] theorem State.later_l2Use (s : State) (i : Instr) : (s.later i).l2Use = s.l2Use := rfl
@[simp] theorem State.later_floors (s : State) (i : Instr) : (s.later i).floors = s.floors := rfl
@[simp] theorem State.later_sums (s : State) (i : Instr) : (s.later i).sums = s.sums := rfl
@[simp] theorem State.later_dead (s : State) (i : Instr) : (s.later i).dead = s.dead := rfl
@[simp] theorem State.later_saved (s : State) (i : Instr) : (s.later i).saved = s.saved := rfl
@[simp] theorem State.later_kept (s : State) (i : Instr) : (s.later i).kept = s.kept := rfl
@[simp] theorem State.later_heldLates (s : State) (i : Instr) : (s.later i).heldLates = s.heldLates := rfl
@[simp] theorem State.later_combs (s : State) (i : Instr) : (s.later i).combs = s.combs := rfl
@[simp] theorem State.later_launches (s : State) (i : Instr) : (s.later i).launches = s.launches := rfl
@[simp] theorem State.later_graphs (s : State) (i : Instr) : (s.later i).graphs = s.graphs := rfl
@[simp] theorem State.later_phases (s : State) (i : Instr) : (s.later i).phases = s.phases := rfl
@[simp] theorem State.later_order (s : State) (i : Instr) : (s.later i).order = s.order := rfl
@[simp] theorem State.later_served (s : State) (i : Instr) : (s.later i).served = s.served := rfl
@[simp] theorem State.later_rounds (s : State) (i : Instr) : (s.later i).rounds = s.rounds := rfl
@[simp] theorem State.later_wins (s : State) (i : Instr) : (s.later i).wins = s.wins := rfl
@[simp] theorem State.later_remotes (s : State) (i : Instr) : (s.later i).remotes = s.remotes := rfl
@[simp] theorem State.later_nextReq (s : State) (i : Instr) : (s.later i).nextReq = s.nextReq := rfl
@[simp] theorem State.later_shoots (s : State) (i : Instr) : (s.later i).shoots = s.shoots := rfl
@[simp] theorem State.later_posts (s : State) (i : Instr) : (s.later i).posts = s.posts := rfl
@[simp] theorem State.later_calSince (s : State) (i : Instr) : (s.later i).calSince = s.calSince := rfl
@[simp] theorem State.later_calApplied (s : State) (i : Instr) : (s.later i).calApplied = s.calApplied := rfl
@[simp] theorem State.later_routes (s : State) (i : Instr) : (s.later i).routes = s.routes := rfl
@[simp] theorem State.later_tenants (s : State) (i : Instr) : (s.later i).tenants = s.tenants := rfl
@[simp] theorem State.later_images (s : State) (i : Instr) : (s.later i).images = s.images := rfl
@[simp] theorem State.later_steps (s : State) (i : Instr) : (s.later i).steps = s.steps := rfl
@[simp] theorem State.later_tickets (s : State) (i : Instr) : (s.later i).tickets = s.tickets := rfl
@[simp] theorem State.later_keyGens (s : State) (i : Instr) : (s.later i).keyGens = s.keyGens := rfl
@[simp] theorem State.later_keyNext (s : State) (i : Instr) : (s.later i).keyNext = s.keyNext := rfl
@[simp] theorem State.later_lineKeys (s : State) (i : Instr) : (s.later i).lineKeys = s.lineKeys := rfl
@[simp] theorem State.later_deadChannels (s : State) (i : Instr) : (s.later i).deadChannels = s.deadChannels := rfl
@[simp] theorem State.later_badLines (s : State) (i : Instr) : (s.later i).badLines = s.badLines := rfl
@[simp] theorem State.later_mgmt (s : State) (i : Instr) : (s.later i).mgmt = s.mgmt := rfl
@[simp] theorem State.later_out (s : State) (i : Instr) : (s.later i).out = s.out := rfl
@[simp] theorem State.tick_cur (s : State) : s.tick.cur = s.cur := rfl
@[simp] theorem State.tick_free (s : State) : s.tick.free = s.free := rfl
@[simp] theorem State.tick_pushes (s : State) : s.tick.pushes = s.pushes := rfl
@[simp] theorem State.tick_mem (s : State) : s.tick.mem = s.mem := rfl
@[simp] theorem State.tick_tm (s : State) : s.tick.tm = s.tm := rfl
@[simp] theorem State.tick_acc (s : State) : s.tick.acc = s.acc := rfl
@[simp] theorem State.tick_ctxs (s : State) : s.tick.ctxs = s.ctxs := rfl
@[simp] theorem State.tick_tiles (s : State) : s.tick.tiles = s.tiles := rfl
@[simp] theorem State.tick_hives (s : State) : s.tick.hives = s.hives := rfl
@[simp] theorem State.tick_l2 (s : State) : s.tick.l2 = s.l2 := rfl
@[simp] theorem State.tick_l2Use (s : State) : s.tick.l2Use = s.l2Use := rfl
@[simp] theorem State.tick_floors (s : State) : s.tick.floors = s.floors := rfl
@[simp] theorem State.tick_sums (s : State) : s.tick.sums = s.sums := rfl
@[simp] theorem State.tick_dead (s : State) : s.tick.dead = s.dead := rfl
@[simp] theorem State.tick_saved (s : State) : s.tick.saved = s.saved := rfl
@[simp] theorem State.tick_kept (s : State) : s.tick.kept = s.kept := rfl
@[simp] theorem State.tick_heldLates (s : State) : s.tick.heldLates = s.heldLates := rfl
@[simp] theorem State.tick_combs (s : State) : s.tick.combs = s.combs := rfl
@[simp] theorem State.tick_launches (s : State) : s.tick.launches = s.launches := rfl
@[simp] theorem State.tick_graphs (s : State) : s.tick.graphs = s.graphs := rfl
@[simp] theorem State.tick_phases (s : State) : s.tick.phases = s.phases := rfl
@[simp] theorem State.tick_order (s : State) : s.tick.order = s.order := rfl
@[simp] theorem State.tick_served (s : State) : s.tick.served = s.served := rfl
@[simp] theorem State.tick_rounds (s : State) : s.tick.rounds = s.rounds := rfl
@[simp] theorem State.tick_wins (s : State) : s.tick.wins = s.wins := rfl
@[simp] theorem State.tick_remotes (s : State) : s.tick.remotes = s.remotes := rfl
@[simp] theorem State.tick_nextReq (s : State) : s.tick.nextReq = s.nextReq := rfl
@[simp] theorem State.tick_shoots (s : State) : s.tick.shoots = s.shoots := rfl
@[simp] theorem State.tick_posts (s : State) : s.tick.posts = s.posts := rfl
@[simp] theorem State.tick_calSince (s : State) : s.tick.calSince = s.calSince := rfl
@[simp] theorem State.tick_calApplied (s : State) : s.tick.calApplied = s.calApplied := rfl
@[simp] theorem State.tick_routes (s : State) : s.tick.routes = s.routes := rfl
@[simp] theorem State.tick_tenants (s : State) : s.tick.tenants = s.tenants := rfl
@[simp] theorem State.tick_images (s : State) : s.tick.images = s.images := rfl
@[simp] theorem State.tick_steps (s : State) : s.tick.steps = s.steps := rfl
@[simp] theorem State.tick_tickets (s : State) : s.tick.tickets = s.tickets := rfl
@[simp] theorem State.tick_keyGens (s : State) : s.tick.keyGens = s.keyGens := rfl
@[simp] theorem State.tick_keyNext (s : State) : s.tick.keyNext = s.keyNext := rfl
@[simp] theorem State.tick_lineKeys (s : State) : s.tick.lineKeys = s.lineKeys := rfl
@[simp] theorem State.tick_deadChannels (s : State) : s.tick.deadChannels = s.deadChannels := rfl
@[simp] theorem State.tick_badLines (s : State) : s.tick.badLines = s.badLines := rfl
@[simp] theorem State.tick_mgmt (s : State) : s.tick.mgmt = s.mgmt := rfl
@[simp] theorem State.tick_out (s : State) : s.tick.out = s.out := rfl

/-! A context. -/

@[simp] theorem Ctx.setSreg_live (x : Ctx) (n : Nat) (w : Word) : (x.setSreg n w).live = x.live := rfl
@[simp] theorem Ctx.setSreg_priv (x : Ctx) (n : Nat) (w : Word) : (x.setSreg n w).priv = x.priv := rfl
@[simp] theorem Ctx.setSreg_pc (x : Ctx) (n : Nat) (w : Word) : (x.setSreg n w).pc = x.pc := rfl
@[simp] theorem Ctx.setSreg_g (x : Ctx) (n : Nat) (w : Word) : (x.setSreg n w).g = x.g := rfl
@[simp] theorem Ctx.setSreg_v (x : Ctx) (n : Nat) (w : Word) : (x.setSreg n w).v = x.v := rfl
@[simp] theorem Ctx.setSreg_m (x : Ctx) (n : Nat) (w : Word) : (x.setSreg n w).m = x.m := rfl
@[simp] theorem Ctx.setSreg_pos (x : Ctx) (n : Nat) (w : Word) : (x.setSreg n w).pos = x.pos := rfl
@[simp] theorem Ctx.setSreg_windows (x : Ctx) (n : Nat) (w : Word) : (x.setSreg n w).windows = x.windows := rfl
@[simp] theorem Ctx.setSreg_wait (x : Ctx) (n : Nat) (w : Word) : (x.setSreg n w).wait = x.wait := rfl
@[simp] theorem Ctx.setSreg_waitOp (x : Ctx) (n : Nat) (w : Word) : (x.setSreg n w).waitOp = x.waitOp := rfl
@[simp] theorem Ctx.setSreg_issued (x : Ctx) (n : Nat) (w : Word) : (x.setSreg n w).issued = x.issued := rfl
@[simp] theorem Ctx.setSreg_got (x : Ctx) (n : Nat) (w : Word) : (x.setSreg n w).got = x.got := rfl
@[simp] theorem Ctx.setSreg_gotAt (x : Ctx) (n : Nat) (w : Word) : (x.setSreg n w).gotAt = x.gotAt := rfl
@[simp] theorem Ctx.setSreg_owed (x : Ctx) (n : Nat) (w : Word) : (x.setSreg n w).owed = x.owed := rfl
@[simp] theorem Ctx.setSreg_barTok (x : Ctx) (n : Nat) (w : Word) : (x.setSreg n w).barTok = x.barTok := rfl
@[simp] theorem Ctx.setSreg_barAt (x : Ctx) (n : Nat) (w : Word) : (x.setSreg n w).barAt = x.barAt := rfl
@[simp] theorem Ctx.setSreg_vset (x : Ctx) (n : Nat) (w : Word) : (x.setSreg n w).vset = x.vset := rfl
@[simp] theorem Ctx.setSreg_vfail (x : Ctx) (n : Nat) (w : Word) : (x.setSreg n w).vfail = x.vfail := rfl
@[simp] theorem Ctx.setSreg_gains (x : Ctx) (n : Nat) (w : Word) : (x.setSreg n w).gains = x.gains := rfl
@[simp] theorem Ctx.setSreg_gainOvf (x : Ctx) (n : Nat) (w : Word) : (x.setSreg n w).gainOvf = x.gainOvf := rfl
@[simp] theorem Ctx.setSreg_lossDue (x : Ctx) (n : Nat) (w : Word) : (x.setSreg n w).lossDue = x.lossDue := rfl
@[simp] theorem Ctx.setSreg_gainTaken (x : Ctx) (n : Nat) (w : Word) : (x.setSreg n w).gainTaken = x.gainTaken := rfl
@[simp] theorem Ctx.setSreg_rep (x : Ctx) (n : Nat) (w : Word) : (x.setSreg n w).rep = x.rep := rfl
@[simp] theorem Ctx.setSreg_wax (x : Ctx) (n : Nat) (w : Word) : (x.setSreg n w).wax = x.wax := rfl
@[simp] theorem Ctx.setSreg_late (x : Ctx) (n : Nat) (w : Word) : (x.setSreg n w).late = x.late := rfl
@[simp] theorem Ctx.setSreg_stepPend (x : Ctx) (n : Nat) (w : Word) : (x.setSreg n w).stepPend = x.stepPend := rfl
@[simp] theorem Ctx.setSreg_records (x : Ctx) (n : Nat) (w : Word) : (x.setSreg n w).records = x.records := rfl
@[simp] theorem Ctx.setSreg_saveReq (x : Ctx) (n : Nat) (w : Word) : (x.setSreg n w).saveReq = x.saveReq := rfl
@[simp] theorem Ctx.setSreg_saveNext (x : Ctx) (n : Nat) (w : Word) : (x.setSreg n w).saveNext = x.saveNext := rfl
@[simp] theorem Ctx.setSreg_susp (x : Ctx) (n : Nat) (w : Word) : (x.setSreg n w).susp = x.susp := rfl
@[simp] theorem Ctx.setSreg_answers (x : Ctx) (n : Nat) (w : Word) : (x.setSreg n w).answers = x.answers := rfl
@[simp] theorem Ctx.setSreg_withdrawn (x : Ctx) (n : Nat) (w : Word) : (x.setSreg n w).withdrawn = x.withdrawn := rfl
@[simp] theorem Ctx.setSreg_helper (x : Ctx) (n : Nat) (w : Word) : (x.setSreg n w).helper = x.helper := rfl
@[simp] theorem Ctx.setVreg_live (x : Ctx) (k : Nat) (w : VWord) : (x.setVreg k w).live = x.live := rfl
@[simp] theorem Ctx.setVreg_priv (x : Ctx) (k : Nat) (w : VWord) : (x.setVreg k w).priv = x.priv := rfl
@[simp] theorem Ctx.setVreg_pc (x : Ctx) (k : Nat) (w : VWord) : (x.setVreg k w).pc = x.pc := rfl
@[simp] theorem Ctx.setVreg_g (x : Ctx) (k : Nat) (w : VWord) : (x.setVreg k w).g = x.g := rfl
@[simp] theorem Ctx.setVreg_m (x : Ctx) (k : Nat) (w : VWord) : (x.setVreg k w).m = x.m := rfl
@[simp] theorem Ctx.setVreg_sr (x : Ctx) (k : Nat) (w : VWord) : (x.setVreg k w).sr = x.sr := rfl
@[simp] theorem Ctx.setVreg_pos (x : Ctx) (k : Nat) (w : VWord) : (x.setVreg k w).pos = x.pos := rfl
@[simp] theorem Ctx.setVreg_windows (x : Ctx) (k : Nat) (w : VWord) : (x.setVreg k w).windows = x.windows := rfl
@[simp] theorem Ctx.setVreg_wait (x : Ctx) (k : Nat) (w : VWord) : (x.setVreg k w).wait = x.wait := rfl
@[simp] theorem Ctx.setVreg_waitOp (x : Ctx) (k : Nat) (w : VWord) : (x.setVreg k w).waitOp = x.waitOp := rfl
@[simp] theorem Ctx.setVreg_issued (x : Ctx) (k : Nat) (w : VWord) : (x.setVreg k w).issued = x.issued := rfl
@[simp] theorem Ctx.setVreg_got (x : Ctx) (k : Nat) (w : VWord) : (x.setVreg k w).got = x.got := rfl
@[simp] theorem Ctx.setVreg_gotAt (x : Ctx) (k : Nat) (w : VWord) : (x.setVreg k w).gotAt = x.gotAt := rfl
@[simp] theorem Ctx.setVreg_owed (x : Ctx) (k : Nat) (w : VWord) : (x.setVreg k w).owed = x.owed := rfl
@[simp] theorem Ctx.setVreg_barTok (x : Ctx) (k : Nat) (w : VWord) : (x.setVreg k w).barTok = x.barTok := rfl
@[simp] theorem Ctx.setVreg_barAt (x : Ctx) (k : Nat) (w : VWord) : (x.setVreg k w).barAt = x.barAt := rfl
@[simp] theorem Ctx.setVreg_vset (x : Ctx) (k : Nat) (w : VWord) : (x.setVreg k w).vset = x.vset := rfl
@[simp] theorem Ctx.setVreg_vfail (x : Ctx) (k : Nat) (w : VWord) : (x.setVreg k w).vfail = x.vfail := rfl
@[simp] theorem Ctx.setVreg_gains (x : Ctx) (k : Nat) (w : VWord) : (x.setVreg k w).gains = x.gains := rfl
@[simp] theorem Ctx.setVreg_gainOvf (x : Ctx) (k : Nat) (w : VWord) : (x.setVreg k w).gainOvf = x.gainOvf := rfl
@[simp] theorem Ctx.setVreg_lossDue (x : Ctx) (k : Nat) (w : VWord) : (x.setVreg k w).lossDue = x.lossDue := rfl
@[simp] theorem Ctx.setVreg_gainTaken (x : Ctx) (k : Nat) (w : VWord) : (x.setVreg k w).gainTaken = x.gainTaken := rfl
@[simp] theorem Ctx.setVreg_rep (x : Ctx) (k : Nat) (w : VWord) : (x.setVreg k w).rep = x.rep := rfl
@[simp] theorem Ctx.setVreg_wax (x : Ctx) (k : Nat) (w : VWord) : (x.setVreg k w).wax = x.wax := rfl
@[simp] theorem Ctx.setVreg_late (x : Ctx) (k : Nat) (w : VWord) : (x.setVreg k w).late = x.late := rfl
@[simp] theorem Ctx.setVreg_stepPend (x : Ctx) (k : Nat) (w : VWord) : (x.setVreg k w).stepPend = x.stepPend := rfl
@[simp] theorem Ctx.setVreg_records (x : Ctx) (k : Nat) (w : VWord) : (x.setVreg k w).records = x.records := rfl
@[simp] theorem Ctx.setVreg_saveReq (x : Ctx) (k : Nat) (w : VWord) : (x.setVreg k w).saveReq = x.saveReq := rfl
@[simp] theorem Ctx.setVreg_saveNext (x : Ctx) (k : Nat) (w : VWord) : (x.setVreg k w).saveNext = x.saveNext := rfl
@[simp] theorem Ctx.setVreg_susp (x : Ctx) (k : Nat) (w : VWord) : (x.setVreg k w).susp = x.susp := rfl
@[simp] theorem Ctx.setVreg_answers (x : Ctx) (k : Nat) (w : VWord) : (x.setVreg k w).answers = x.answers := rfl
@[simp] theorem Ctx.setVreg_withdrawn (x : Ctx) (k : Nat) (w : VWord) : (x.setVreg k w).withdrawn = x.withdrawn := rfl
@[simp] theorem Ctx.setVreg_helper (x : Ctx) (k : Nat) (w : VWord) : (x.setVreg k w).helper = x.helper := rfl
@[simp] theorem Ctx.setGreg_live (x : Ctx) (r : Reg) (w : Word) : (x.setGreg r w).live = x.live := by
  unfold Ctx.setGreg; split <;> rfl
@[simp] theorem Ctx.setGreg_priv (x : Ctx) (r : Reg) (w : Word) : (x.setGreg r w).priv = x.priv := by
  unfold Ctx.setGreg; split <;> rfl
@[simp] theorem Ctx.setGreg_pc (x : Ctx) (r : Reg) (w : Word) : (x.setGreg r w).pc = x.pc := by
  unfold Ctx.setGreg; split <;> rfl
@[simp] theorem Ctx.setGreg_v (x : Ctx) (r : Reg) (w : Word) : (x.setGreg r w).v = x.v := by
  unfold Ctx.setGreg; split <;> rfl
@[simp] theorem Ctx.setGreg_m (x : Ctx) (r : Reg) (w : Word) : (x.setGreg r w).m = x.m := by
  unfold Ctx.setGreg; split <;> rfl
@[simp] theorem Ctx.setGreg_sr (x : Ctx) (r : Reg) (w : Word) : (x.setGreg r w).sr = x.sr := by
  unfold Ctx.setGreg; split <;> rfl
@[simp] theorem Ctx.setGreg_pos (x : Ctx) (r : Reg) (w : Word) : (x.setGreg r w).pos = x.pos := by
  unfold Ctx.setGreg; split <;> rfl
@[simp] theorem Ctx.setGreg_windows (x : Ctx) (r : Reg) (w : Word) : (x.setGreg r w).windows = x.windows := by
  unfold Ctx.setGreg; split <;> rfl
@[simp] theorem Ctx.setGreg_wait (x : Ctx) (r : Reg) (w : Word) : (x.setGreg r w).wait = x.wait := by
  unfold Ctx.setGreg; split <;> rfl
@[simp] theorem Ctx.setGreg_waitOp (x : Ctx) (r : Reg) (w : Word) : (x.setGreg r w).waitOp = x.waitOp := by
  unfold Ctx.setGreg; split <;> rfl
@[simp] theorem Ctx.setGreg_issued (x : Ctx) (r : Reg) (w : Word) : (x.setGreg r w).issued = x.issued := by
  unfold Ctx.setGreg; split <;> rfl
@[simp] theorem Ctx.setGreg_got (x : Ctx) (r : Reg) (w : Word) : (x.setGreg r w).got = x.got := by
  unfold Ctx.setGreg; split <;> rfl
@[simp] theorem Ctx.setGreg_gotAt (x : Ctx) (r : Reg) (w : Word) : (x.setGreg r w).gotAt = x.gotAt := by
  unfold Ctx.setGreg; split <;> rfl
@[simp] theorem Ctx.setGreg_owed (x : Ctx) (r : Reg) (w : Word) : (x.setGreg r w).owed = x.owed := by
  unfold Ctx.setGreg; split <;> rfl
@[simp] theorem Ctx.setGreg_barTok (x : Ctx) (r : Reg) (w : Word) : (x.setGreg r w).barTok = x.barTok := by
  unfold Ctx.setGreg; split <;> rfl
@[simp] theorem Ctx.setGreg_barAt (x : Ctx) (r : Reg) (w : Word) : (x.setGreg r w).barAt = x.barAt := by
  unfold Ctx.setGreg; split <;> rfl
@[simp] theorem Ctx.setGreg_vset (x : Ctx) (r : Reg) (w : Word) : (x.setGreg r w).vset = x.vset := by
  unfold Ctx.setGreg; split <;> rfl
@[simp] theorem Ctx.setGreg_vfail (x : Ctx) (r : Reg) (w : Word) : (x.setGreg r w).vfail = x.vfail := by
  unfold Ctx.setGreg; split <;> rfl
@[simp] theorem Ctx.setGreg_gains (x : Ctx) (r : Reg) (w : Word) : (x.setGreg r w).gains = x.gains := by
  unfold Ctx.setGreg; split <;> rfl
@[simp] theorem Ctx.setGreg_gainOvf (x : Ctx) (r : Reg) (w : Word) : (x.setGreg r w).gainOvf = x.gainOvf := by
  unfold Ctx.setGreg; split <;> rfl
@[simp] theorem Ctx.setGreg_lossDue (x : Ctx) (r : Reg) (w : Word) : (x.setGreg r w).lossDue = x.lossDue := by
  unfold Ctx.setGreg; split <;> rfl
@[simp] theorem Ctx.setGreg_gainTaken (x : Ctx) (r : Reg) (w : Word) : (x.setGreg r w).gainTaken = x.gainTaken := by
  unfold Ctx.setGreg; split <;> rfl
@[simp] theorem Ctx.setGreg_rep (x : Ctx) (r : Reg) (w : Word) : (x.setGreg r w).rep = x.rep := by
  unfold Ctx.setGreg; split <;> rfl
@[simp] theorem Ctx.setGreg_wax (x : Ctx) (r : Reg) (w : Word) : (x.setGreg r w).wax = x.wax := by
  unfold Ctx.setGreg; split <;> rfl
@[simp] theorem Ctx.setGreg_late (x : Ctx) (r : Reg) (w : Word) : (x.setGreg r w).late = x.late := by
  unfold Ctx.setGreg; split <;> rfl
@[simp] theorem Ctx.setGreg_stepPend (x : Ctx) (r : Reg) (w : Word) : (x.setGreg r w).stepPend = x.stepPend := by
  unfold Ctx.setGreg; split <;> rfl
@[simp] theorem Ctx.setGreg_records (x : Ctx) (r : Reg) (w : Word) : (x.setGreg r w).records = x.records := by
  unfold Ctx.setGreg; split <;> rfl
@[simp] theorem Ctx.setGreg_saveReq (x : Ctx) (r : Reg) (w : Word) : (x.setGreg r w).saveReq = x.saveReq := by
  unfold Ctx.setGreg; split <;> rfl
@[simp] theorem Ctx.setGreg_saveNext (x : Ctx) (r : Reg) (w : Word) : (x.setGreg r w).saveNext = x.saveNext := by
  unfold Ctx.setGreg; split <;> rfl
@[simp] theorem Ctx.setGreg_susp (x : Ctx) (r : Reg) (w : Word) : (x.setGreg r w).susp = x.susp := by
  unfold Ctx.setGreg; split <;> rfl
@[simp] theorem Ctx.setGreg_answers (x : Ctx) (r : Reg) (w : Word) : (x.setGreg r w).answers = x.answers := by
  unfold Ctx.setGreg; split <;> rfl
@[simp] theorem Ctx.setGreg_withdrawn (x : Ctx) (r : Reg) (w : Word) : (x.setGreg r w).withdrawn = x.withdrawn := by
  unfold Ctx.setGreg; split <;> rfl
@[simp] theorem Ctx.setGreg_helper (x : Ctx) (r : Reg) (w : Word) : (x.setGreg r w).helper = x.helper := by
  unfold Ctx.setGreg; split <;> rfl
@[simp] theorem Ctx.setMreg_live (x : Ctx) (k : Nat) (w : Word) : (x.setMreg k w).live = x.live := by
  unfold Ctx.setMreg; split <;> rfl
@[simp] theorem Ctx.setMreg_priv (x : Ctx) (k : Nat) (w : Word) : (x.setMreg k w).priv = x.priv := by
  unfold Ctx.setMreg; split <;> rfl
@[simp] theorem Ctx.setMreg_pc (x : Ctx) (k : Nat) (w : Word) : (x.setMreg k w).pc = x.pc := by
  unfold Ctx.setMreg; split <;> rfl
@[simp] theorem Ctx.setMreg_g (x : Ctx) (k : Nat) (w : Word) : (x.setMreg k w).g = x.g := by
  unfold Ctx.setMreg; split <;> rfl
@[simp] theorem Ctx.setMreg_v (x : Ctx) (k : Nat) (w : Word) : (x.setMreg k w).v = x.v := by
  unfold Ctx.setMreg; split <;> rfl
@[simp] theorem Ctx.setMreg_sr (x : Ctx) (k : Nat) (w : Word) : (x.setMreg k w).sr = x.sr := by
  unfold Ctx.setMreg; split <;> rfl
@[simp] theorem Ctx.setMreg_pos (x : Ctx) (k : Nat) (w : Word) : (x.setMreg k w).pos = x.pos := by
  unfold Ctx.setMreg; split <;> rfl
@[simp] theorem Ctx.setMreg_windows (x : Ctx) (k : Nat) (w : Word) : (x.setMreg k w).windows = x.windows := by
  unfold Ctx.setMreg; split <;> rfl
@[simp] theorem Ctx.setMreg_wait (x : Ctx) (k : Nat) (w : Word) : (x.setMreg k w).wait = x.wait := by
  unfold Ctx.setMreg; split <;> rfl
@[simp] theorem Ctx.setMreg_waitOp (x : Ctx) (k : Nat) (w : Word) : (x.setMreg k w).waitOp = x.waitOp := by
  unfold Ctx.setMreg; split <;> rfl
@[simp] theorem Ctx.setMreg_issued (x : Ctx) (k : Nat) (w : Word) : (x.setMreg k w).issued = x.issued := by
  unfold Ctx.setMreg; split <;> rfl
@[simp] theorem Ctx.setMreg_got (x : Ctx) (k : Nat) (w : Word) : (x.setMreg k w).got = x.got := by
  unfold Ctx.setMreg; split <;> rfl
@[simp] theorem Ctx.setMreg_gotAt (x : Ctx) (k : Nat) (w : Word) : (x.setMreg k w).gotAt = x.gotAt := by
  unfold Ctx.setMreg; split <;> rfl
@[simp] theorem Ctx.setMreg_owed (x : Ctx) (k : Nat) (w : Word) : (x.setMreg k w).owed = x.owed := by
  unfold Ctx.setMreg; split <;> rfl
@[simp] theorem Ctx.setMreg_barTok (x : Ctx) (k : Nat) (w : Word) : (x.setMreg k w).barTok = x.barTok := by
  unfold Ctx.setMreg; split <;> rfl
@[simp] theorem Ctx.setMreg_barAt (x : Ctx) (k : Nat) (w : Word) : (x.setMreg k w).barAt = x.barAt := by
  unfold Ctx.setMreg; split <;> rfl
@[simp] theorem Ctx.setMreg_vset (x : Ctx) (k : Nat) (w : Word) : (x.setMreg k w).vset = x.vset := by
  unfold Ctx.setMreg; split <;> rfl
@[simp] theorem Ctx.setMreg_vfail (x : Ctx) (k : Nat) (w : Word) : (x.setMreg k w).vfail = x.vfail := by
  unfold Ctx.setMreg; split <;> rfl
@[simp] theorem Ctx.setMreg_gains (x : Ctx) (k : Nat) (w : Word) : (x.setMreg k w).gains = x.gains := by
  unfold Ctx.setMreg; split <;> rfl
@[simp] theorem Ctx.setMreg_gainOvf (x : Ctx) (k : Nat) (w : Word) : (x.setMreg k w).gainOvf = x.gainOvf := by
  unfold Ctx.setMreg; split <;> rfl
@[simp] theorem Ctx.setMreg_lossDue (x : Ctx) (k : Nat) (w : Word) : (x.setMreg k w).lossDue = x.lossDue := by
  unfold Ctx.setMreg; split <;> rfl
@[simp] theorem Ctx.setMreg_gainTaken (x : Ctx) (k : Nat) (w : Word) : (x.setMreg k w).gainTaken = x.gainTaken := by
  unfold Ctx.setMreg; split <;> rfl
@[simp] theorem Ctx.setMreg_rep (x : Ctx) (k : Nat) (w : Word) : (x.setMreg k w).rep = x.rep := by
  unfold Ctx.setMreg; split <;> rfl
@[simp] theorem Ctx.setMreg_wax (x : Ctx) (k : Nat) (w : Word) : (x.setMreg k w).wax = x.wax := by
  unfold Ctx.setMreg; split <;> rfl
@[simp] theorem Ctx.setMreg_late (x : Ctx) (k : Nat) (w : Word) : (x.setMreg k w).late = x.late := by
  unfold Ctx.setMreg; split <;> rfl
@[simp] theorem Ctx.setMreg_stepPend (x : Ctx) (k : Nat) (w : Word) : (x.setMreg k w).stepPend = x.stepPend := by
  unfold Ctx.setMreg; split <;> rfl
@[simp] theorem Ctx.setMreg_records (x : Ctx) (k : Nat) (w : Word) : (x.setMreg k w).records = x.records := by
  unfold Ctx.setMreg; split <;> rfl
@[simp] theorem Ctx.setMreg_saveReq (x : Ctx) (k : Nat) (w : Word) : (x.setMreg k w).saveReq = x.saveReq := by
  unfold Ctx.setMreg; split <;> rfl
@[simp] theorem Ctx.setMreg_saveNext (x : Ctx) (k : Nat) (w : Word) : (x.setMreg k w).saveNext = x.saveNext := by
  unfold Ctx.setMreg; split <;> rfl
@[simp] theorem Ctx.setMreg_susp (x : Ctx) (k : Nat) (w : Word) : (x.setMreg k w).susp = x.susp := by
  unfold Ctx.setMreg; split <;> rfl
@[simp] theorem Ctx.setMreg_answers (x : Ctx) (k : Nat) (w : Word) : (x.setMreg k w).answers = x.answers := by
  unfold Ctx.setMreg; split <;> rfl
@[simp] theorem Ctx.setMreg_withdrawn (x : Ctx) (k : Nat) (w : Word) : (x.setMreg k w).withdrawn = x.withdrawn := by
  unfold Ctx.setMreg; split <;> rfl
@[simp] theorem Ctx.setMreg_helper (x : Ctx) (k : Nat) (w : Word) : (x.setMreg k w).helper = x.helper := by
  unfold Ctx.setMreg; split <;> rfl

/-! A core. -/

@[simp] theorem Core.setSreg_vq (x : Core) (n : Nat) (w : Word) : (x.setSreg n w).vq = x.vq := rfl
@[simp] theorem Core.setSreg_held (x : Core) (n : Nat) (w : Word) : (x.setSreg n w).held = x.held := rfl
@[simp] theorem Core.setSreg_seq (x : Core) (n : Nat) (w : Word) : (x.setSreg n w).seq = x.seq := rfl
@[simp] theorem Core.setSreg_ring (x : Core) (n : Nat) (w : Word) : (x.setSreg n w).ring = x.ring := rfl
@[simp] theorem Core.setSreg_qn (x : Core) (n : Nat) (w : Word) : (x.setSreg n w).qn = x.qn := rfl
@[simp] theorem Core.setSreg_qe (x : Core) (n : Nat) (w : Word) : (x.setSreg n w).qe = x.qe := rfl
@[simp] theorem Core.setSreg_qs (x : Core) (n : Nat) (w : Word) : (x.setSreg n w).qs = x.qs := rfl
@[simp] theorem Core.setSreg_qw (x : Core) (n : Nat) (w : Word) : (x.setSreg n w).qw = x.qw := rfl
@[simp] theorem Core.setSreg_flight (x : Core) (n : Nat) (w : Word) : (x.setSreg n w).flight = x.flight := rfl
@[simp] theorem Core.setSreg_lastSlot (x : Core) (n : Nat) (w : Word) : (x.setSreg n w).lastSlot = x.lastSlot := rfl
@[simp] theorem Core.setSreg_clk (x : Core) (n : Nat) (w : Word) : (x.setSreg n w).clk = x.clk := rfl
@[simp] theorem Core.setSreg_lanes (x : Core) (n : Nat) (w : Word) : (x.setSreg n w).lanes = x.lanes := rfl
@[simp] theorem Core.setSreg_handler (x : Core) (n : Nat) (w : Word) : (x.setSreg n w).handler = x.handler := rfl
@[simp] theorem Core.setSreg_spill (x : Core) (n : Nat) (w : Word) : (x.setSreg n w).spill = x.spill := rfl
@[simp] theorem Core.setSreg_sliceStart (x : Core) (n : Nat) (w : Word) : (x.setSreg n w).sliceStart = x.sliceStart := rfl
@[simp] theorem Core.setSreg_ended (x : Core) (n : Nat) (w : Word) : (x.setSreg n w).ended = x.ended := rfl
@[simp] theorem Core.setSreg_requeue (x : Core) (n : Nat) (w : Word) : (x.setSreg n w).requeue = x.requeue := rfl
@[simp] theorem Core.setQueue_vq (x : Core) (d : Dir) (q : List QVal) : (x.setQueue d q).vq = x.vq := by
  cases d <;> rfl
@[simp] theorem Core.setQueue_held (x : Core) (d : Dir) (q : List QVal) : (x.setQueue d q).held = x.held := by
  cases d <;> rfl
@[simp] theorem Core.setQueue_seq (x : Core) (d : Dir) (q : List QVal) : (x.setQueue d q).seq = x.seq := by
  cases d <;> rfl
@[simp] theorem Core.setQueue_ring (x : Core) (d : Dir) (q : List QVal) : (x.setQueue d q).ring = x.ring := by
  cases d <;> rfl
@[simp] theorem Core.setQueue_flight (x : Core) (d : Dir) (q : List QVal) : (x.setQueue d q).flight = x.flight := by
  cases d <;> rfl
@[simp] theorem Core.setQueue_sr (x : Core) (d : Dir) (q : List QVal) : (x.setQueue d q).sr = x.sr := by
  cases d <;> rfl
@[simp] theorem Core.setQueue_lastSlot (x : Core) (d : Dir) (q : List QVal) : (x.setQueue d q).lastSlot = x.lastSlot := by
  cases d <;> rfl
@[simp] theorem Core.setQueue_clk (x : Core) (d : Dir) (q : List QVal) : (x.setQueue d q).clk = x.clk := by
  cases d <;> rfl
@[simp] theorem Core.setQueue_lanes (x : Core) (d : Dir) (q : List QVal) : (x.setQueue d q).lanes = x.lanes := by
  cases d <;> rfl
@[simp] theorem Core.setQueue_handler (x : Core) (d : Dir) (q : List QVal) : (x.setQueue d q).handler = x.handler := by
  cases d <;> rfl
@[simp] theorem Core.setQueue_spill (x : Core) (d : Dir) (q : List QVal) : (x.setQueue d q).spill = x.spill := by
  cases d <;> rfl
@[simp] theorem Core.setQueue_sliceStart (x : Core) (d : Dir) (q : List QVal) : (x.setQueue d q).sliceStart = x.sliceStart := by
  cases d <;> rfl
@[simp] theorem Core.setQueue_ended (x : Core) (d : Dir) (q : List QVal) : (x.setQueue d q).ended = x.ended := by
  cases d <;> rfl
@[simp] theorem Core.setQueue_requeue (x : Core) (d : Dir) (q : List QVal) : (x.setQueue d q).requeue = x.requeue := by
  cases d <;> rfl

/-! A tile. -/

@[simp] theorem Tile.setSreg_pend (x : Tile) (n : Nat) (w : Word) : (x.setSreg n w).pend = x.pend := rfl
@[simp] theorem Tile.setSreg_ev (x : Tile) (n : Nat) (w : Word) : (x.setSreg n w).ev = x.ev := rfl
@[simp] theorem Tile.setSreg_qk (x : Tile) (n : Nat) (w : Word) : (x.setSreg n w).qk = x.qk := rfl
@[simp] theorem Tile.setSreg_mq (x : Tile) (n : Nat) (w : Word) : (x.setSreg n w).mq = x.mq := rfl
@[simp] theorem Tile.setSreg_mrun (x : Tile) (n : Nat) (w : Word) : (x.setSreg n w).mrun = x.mrun := rfl
@[simp] theorem Tile.setSreg_half (x : Tile) (n : Nat) (w : Word) : (x.setSreg n w).half = x.half := rfl
@[simp] theorem Tile.setSreg_eng (x : Tile) (n : Nat) (w : Word) : (x.setSreg n w).eng = x.eng := rfl
@[simp] theorem Tile.setSreg_doneCnt (x : Tile) (n : Nat) (w : Word) : (x.setSreg n w).doneCnt = x.doneCnt := rfl
@[simp] theorem Tile.setSreg_lastLate (x : Tile) (n : Nat) (w : Word) : (x.setSreg n w).lastLate = x.lastLate := rfl
@[simp] theorem Tile.setSreg_gl (x : Tile) (n : Nat) (w : Word) : (x.setSreg n w).gl = x.gl := rfl
@[simp] theorem Tile.setSreg_ident (x : Tile) (n : Nat) (w : Word) : (x.setSreg n w).ident = x.ident := rfl
@[simp] theorem Tile.setSreg_wq (x : Tile) (n : Nat) (w : Word) : (x.setSreg n w).wq = x.wq := rfl
@[simp] theorem Tile.setSreg_streams (x : Tile) (n : Nat) (w : Word) : (x.setSreg n w).streams = x.streams := rfl
@[simp] theorem Tile.setSreg_snap (x : Tile) (n : Nat) (w : Word) : (x.setSreg n w).snap = x.snap := rfl
@[simp] theorem Tile.setSreg_pinned (x : Tile) (n : Nat) (w : Word) : (x.setSreg n w).pinned = x.pinned := rfl
@[simp] theorem Tile.setSreg_pinDue (x : Tile) (n : Nat) (w : Word) : (x.setSreg n w).pinDue = x.pinDue := rfl
@[simp] theorem Tile.setSreg_leaving (x : Tile) (n : Nat) (w : Word) : (x.setSreg n w).leaving = x.leaving := rfl
@[simp] theorem Tile.setSreg_clkTotal (x : Tile) (n : Nat) (w : Word) : (x.setSreg n w).clkTotal = x.clkTotal := rfl
@[simp] theorem Tile.setSreg_clkPinned (x : Tile) (n : Nat) (w : Word) : (x.setSreg n w).clkPinned = x.clkPinned := rfl
@[simp] theorem Tile.setSreg_clkFrom (x : Tile) (n : Nat) (w : Word) : (x.setSreg n w).clkFrom = x.clkFrom := rfl
@[simp] theorem Tile.setSreg_clkStretched (x : Tile) (n : Nat) (w : Word) : (x.setSreg n w).clkStretched = x.clkStretched := rfl
@[simp] theorem Tile.setSreg_loadFrom (x : Tile) (n : Nat) (w : Word) : (x.setSreg n w).loadFrom = x.loadFrom := rfl
@[simp] theorem Tile.setSreg_load (x : Tile) (n : Nat) (w : Word) : (x.setSreg n w).load = x.load := rfl
@[simp] theorem Tile.setSreg_press (x : Tile) (n : Nat) (w : Word) : (x.setSreg n w).press = x.press := rfl
@[simp] theorem Tile.setSreg_adj (x : Tile) (n : Nat) (w : Word) : (x.setSreg n w).adj = x.adj := rfl
@[simp] theorem Tile.setSreg_adjWas (x : Tile) (n : Nat) (w : Word) : (x.setSreg n w).adjWas = x.adjWas := rfl
@[simp] theorem Tile.setSreg_adjAt (x : Tile) (n : Nat) (w : Word) : (x.setSreg n w).adjAt = x.adjAt := rfl
@[simp] theorem Tile.setSreg_busy (x : Tile) (n : Nat) (w : Word) : (x.setSreg n w).busy = x.busy := rfl
@[simp] theorem Tile.setSreg_lastMove (x : Tile) (n : Nat) (w : Word) : (x.setSreg n w).lastMove = x.lastMove := rfl
@[simp] theorem Tile.setSreg_cede (x : Tile) (n : Nat) (w : Word) : (x.setSreg n w).cede = x.cede := rfl
@[simp] theorem Tile.setSreg_move (x : Tile) (n : Nat) (w : Word) : (x.setSreg n w).move = x.move := rfl
@[simp] theorem Tile.setSreg_frames (x : Tile) (n : Nat) (w : Word) : (x.setSreg n w).frames = x.frames := rfl
@[simp] theorem Tile.setSreg_ready (x : Tile) (n : Nat) (w : Word) : (x.setSreg n w).ready = x.ready := rfl
@[simp] theorem Tile.setSreg_l1 (x : Tile) (n : Nat) (w : Word) : (x.setSreg n w).l1 = x.l1 := rfl
@[simp] theorem Tile.setSreg_ro (x : Tile) (n : Nat) (w : Word) : (x.setSreg n w).ro = x.ro := rfl
@[simp] theorem Tile.setSreg_wcb (x : Tile) (n : Nat) (w : Word) : (x.setSreg n w).wcb = x.wcb := rfl
@[simp] theorem Tile.setSreg_tlb (x : Tile) (n : Nat) (w : Word) : (x.setSreg n w).tlb = x.tlb := rfl
@[simp] theorem Tile.setSreg_ahead (x : Tile) (n : Nat) (w : Word) : (x.setSreg n w).ahead = x.ahead := rfl
@[simp] theorem Tile.setSreg_retired (x : Tile) (n : Nat) (w : Word) : (x.setSreg n w).retired = x.retired := rfl
@[simp] theorem Tile.setLine_sr (x : Tile) (l : Nat) (y : CacheLine) : (x.setLine l y).sr = x.sr := rfl
@[simp] theorem Tile.setLine_pend (x : Tile) (l : Nat) (y : CacheLine) : (x.setLine l y).pend = x.pend := rfl
@[simp] theorem Tile.setLine_ev (x : Tile) (l : Nat) (y : CacheLine) : (x.setLine l y).ev = x.ev := rfl
@[simp] theorem Tile.setLine_qk (x : Tile) (l : Nat) (y : CacheLine) : (x.setLine l y).qk = x.qk := rfl
@[simp] theorem Tile.setLine_mq (x : Tile) (l : Nat) (y : CacheLine) : (x.setLine l y).mq = x.mq := rfl
@[simp] theorem Tile.setLine_mrun (x : Tile) (l : Nat) (y : CacheLine) : (x.setLine l y).mrun = x.mrun := rfl
@[simp] theorem Tile.setLine_half (x : Tile) (l : Nat) (y : CacheLine) : (x.setLine l y).half = x.half := rfl
@[simp] theorem Tile.setLine_eng (x : Tile) (l : Nat) (y : CacheLine) : (x.setLine l y).eng = x.eng := rfl
@[simp] theorem Tile.setLine_doneCnt (x : Tile) (l : Nat) (y : CacheLine) : (x.setLine l y).doneCnt = x.doneCnt := rfl
@[simp] theorem Tile.setLine_lastLate (x : Tile) (l : Nat) (y : CacheLine) : (x.setLine l y).lastLate = x.lastLate := rfl
@[simp] theorem Tile.setLine_gl (x : Tile) (l : Nat) (y : CacheLine) : (x.setLine l y).gl = x.gl := rfl
@[simp] theorem Tile.setLine_ident (x : Tile) (l : Nat) (y : CacheLine) : (x.setLine l y).ident = x.ident := rfl
@[simp] theorem Tile.setLine_wq (x : Tile) (l : Nat) (y : CacheLine) : (x.setLine l y).wq = x.wq := rfl
@[simp] theorem Tile.setLine_streams (x : Tile) (l : Nat) (y : CacheLine) : (x.setLine l y).streams = x.streams := rfl
@[simp] theorem Tile.setLine_snap (x : Tile) (l : Nat) (y : CacheLine) : (x.setLine l y).snap = x.snap := rfl
@[simp] theorem Tile.setLine_pinned (x : Tile) (l : Nat) (y : CacheLine) : (x.setLine l y).pinned = x.pinned := rfl
@[simp] theorem Tile.setLine_pinDue (x : Tile) (l : Nat) (y : CacheLine) : (x.setLine l y).pinDue = x.pinDue := rfl
@[simp] theorem Tile.setLine_leaving (x : Tile) (l : Nat) (y : CacheLine) : (x.setLine l y).leaving = x.leaving := rfl
@[simp] theorem Tile.setLine_clkTotal (x : Tile) (l : Nat) (y : CacheLine) : (x.setLine l y).clkTotal = x.clkTotal := rfl
@[simp] theorem Tile.setLine_clkPinned (x : Tile) (l : Nat) (y : CacheLine) : (x.setLine l y).clkPinned = x.clkPinned := rfl
@[simp] theorem Tile.setLine_clkFrom (x : Tile) (l : Nat) (y : CacheLine) : (x.setLine l y).clkFrom = x.clkFrom := rfl
@[simp] theorem Tile.setLine_clkStretched (x : Tile) (l : Nat) (y : CacheLine) : (x.setLine l y).clkStretched = x.clkStretched := rfl
@[simp] theorem Tile.setLine_loadFrom (x : Tile) (l : Nat) (y : CacheLine) : (x.setLine l y).loadFrom = x.loadFrom := rfl
@[simp] theorem Tile.setLine_load (x : Tile) (l : Nat) (y : CacheLine) : (x.setLine l y).load = x.load := rfl
@[simp] theorem Tile.setLine_press (x : Tile) (l : Nat) (y : CacheLine) : (x.setLine l y).press = x.press := rfl
@[simp] theorem Tile.setLine_adj (x : Tile) (l : Nat) (y : CacheLine) : (x.setLine l y).adj = x.adj := rfl
@[simp] theorem Tile.setLine_adjWas (x : Tile) (l : Nat) (y : CacheLine) : (x.setLine l y).adjWas = x.adjWas := rfl
@[simp] theorem Tile.setLine_adjAt (x : Tile) (l : Nat) (y : CacheLine) : (x.setLine l y).adjAt = x.adjAt := rfl
@[simp] theorem Tile.setLine_busy (x : Tile) (l : Nat) (y : CacheLine) : (x.setLine l y).busy = x.busy := rfl
@[simp] theorem Tile.setLine_lastMove (x : Tile) (l : Nat) (y : CacheLine) : (x.setLine l y).lastMove = x.lastMove := rfl
@[simp] theorem Tile.setLine_cede (x : Tile) (l : Nat) (y : CacheLine) : (x.setLine l y).cede = x.cede := rfl
@[simp] theorem Tile.setLine_move (x : Tile) (l : Nat) (y : CacheLine) : (x.setLine l y).move = x.move := rfl
@[simp] theorem Tile.setLine_frames (x : Tile) (l : Nat) (y : CacheLine) : (x.setLine l y).frames = x.frames := rfl
@[simp] theorem Tile.setLine_ready (x : Tile) (l : Nat) (y : CacheLine) : (x.setLine l y).ready = x.ready := rfl
@[simp] theorem Tile.setLine_ro (x : Tile) (l : Nat) (y : CacheLine) : (x.setLine l y).ro = x.ro := rfl
@[simp] theorem Tile.setLine_wcb (x : Tile) (l : Nat) (y : CacheLine) : (x.setLine l y).wcb = x.wcb := rfl
@[simp] theorem Tile.setLine_tlb (x : Tile) (l : Nat) (y : CacheLine) : (x.setLine l y).tlb = x.tlb := rfl
@[simp] theorem Tile.setLine_ahead (x : Tile) (l : Nat) (y : CacheLine) : (x.setLine l y).ahead = x.ahead := rfl
@[simp] theorem Tile.setLine_retired (x : Tile) (l : Nat) (y : CacheLine) : (x.setLine l y).retired = x.retired := rfl

end Sys2Proof.Machine
end

