-- ==== Sys2Proof/Laws/Access.lean ====
section
/-! SUPPORT. Reading back what was written: contexts, cores, tiles, registers, special registers and bytes. -/

namespace Sys2Proof.Machine

/-! Contexts, cores, tiles and hives. -/

@[simp] theorem State.ctx_setCtx_self (s : State) (c : Nat) (x : Ctx) : (s.setCtx c x).ctx c = x := SMap.get_set_self _ _ _
theorem State.ctx_setCtx_ne (s : State) {c j : Nat} (x : Ctx) (h : j ≠ c) : (s.setCtx c x).ctx j = s.ctx j := SMap.get_set_ne _ _ h
@[simp] theorem State.core_setCore_self (s : State) (k : Nat) (x : Core) : (s.setCore k x).core k = x := SMap.get_set_self _ _ _
theorem State.core_setCore_ne (s : State) {k j : Nat} (x : Core) (h : j ≠ k) : (s.setCore k x).core j = s.core j := SMap.get_set_ne _ _ h
@[simp] theorem State.tile_setTile_self (s : State) (t : Nat) (x : Tile) : (s.setTile t x).tile t = x := SMap.get_set_self _ _ _
theorem State.tile_setTile_ne (s : State) {t j : Nat} (x : Tile) (h : j ≠ t) : (s.setTile t x).tile j = s.tile j := SMap.get_set_ne _ _ h
@[simp] theorem State.l2line_setL2_self (s : State) (l : Nat) (x : L2Line) : (s.setL2 l x).l2line l = x := SMap.get_set_self _ _ _
theorem State.l2line_setL2_ne (s : State) {l j : Nat} (x : L2Line) (h : j ≠ l) : (s.setL2 l x).l2line j = s.l2line j := SMap.get_set_ne _ _ h
@[simp] theorem State.sumEnt_setSum_self (s : State) (w : Nat) (x : SumEnt) : (s.setSum w x).sumEnt w = x := SMap.get_set_self _ _ _
theorem State.sumEnt_setSum_ne (s : State) {w j : Nat} (x : SumEnt) (h : j ≠ w) : (s.setSum w x).sumEnt j = s.sumEnt j := SMap.get_set_ne _ _ h
@[simp] theorem State.ctx_modCtx_self (s : State) (c : Nat) (f : Ctx → Ctx) : (s.modCtx c f).ctx c = f (s.ctx c) := SMap.get_set_self _ _ _
theorem State.ctx_modCtx_ne (s : State) {c j : Nat} (f : Ctx → Ctx) (h : j ≠ c) : (s.modCtx c f).ctx j = s.ctx j := SMap.get_set_ne _ _ h
@[simp] theorem State.core_modCore_self (s : State) (k : Nat) (f : Core → Core) : (s.modCore k f).core k = f (s.core k) := SMap.get_set_self _ _ _
theorem State.core_modCore_ne (s : State) {k j : Nat} (f : Core → Core) (h : j ≠ k) : (s.modCore k f).core j = s.core j := SMap.get_set_ne _ _ h
@[simp] theorem State.tile_modTile_self (s : State) (t : Nat) (f : Tile → Tile) : (s.modTile t f).tile t = f (s.tile t) := SMap.get_set_self _ _ _
theorem State.tile_modTile_ne (s : State) {t j : Nat} (f : Tile → Tile) (h : j ≠ t) : (s.modTile t f).tile j = s.tile j := SMap.get_set_ne _ _ h
@[simp] theorem State.hive_modHive_self (s : State) (i : Nat) (f : Hive → Hive) : (s.modHive i f).hive i = f (s.hive i) := SMap.get_set_self _ _ _
theorem State.hive_modHive_ne (s : State) {i j : Nat} (f : Hive → Hive) (h : j ≠ i) : (s.modHive i f).hive j = s.hive j := SMap.get_set_ne _ _ h
@[simp] theorem State.tenant_modTenant_self (s : State) (v : Nat) (f : Tenant → Tenant) : (s.modTenant v f).tenant v = f (s.tenant v) := SMap.get_set_self _ _ _
theorem State.tenant_modTenant_ne (s : State) {v j : Nat} (f : Tenant → Tenant) (h : j ≠ v) : (s.modTenant v f).tenant j = s.tenant j := SMap.get_set_ne _ _ h

@[simp] theorem State.me_modMe (s : State) (f : Ctx → Ctx) : (s.modMe f).me = f s.me := SMap.get_set_self _ _ _
theorem State.ctx_modMe_ne (s : State) {j : Nat} (f : Ctx → Ctx) (h : j ≠ s.cur) : (s.modMe f).ctx j = s.ctx j := SMap.get_set_ne _ _ h
@[simp] theorem State.ctx_cur (s : State) : s.ctx s.cur = s.me := rfl

@[simp] theorem State.core_setCtx (s : State) (i : Nat) (x : Ctx) (k : Nat) : (s.setCtx i x).core k = s.core k := rfl
@[simp] theorem State.tile_setCtx (s : State) (i : Nat) (x : Ctx) (t : Nat) : (s.setCtx i x).tile t = s.tile t := rfl
@[simp] theorem State.hive_setCtx (s : State) (i : Nat) (x : Ctx) (h : Nat) : (s.setCtx i x).hive h = s.hive h := rfl
@[simp] theorem State.l2line_setCtx (s : State) (i : Nat) (x : Ctx) (l : Nat) : (s.setCtx i x).l2line l = s.l2line l := rfl
@[simp] theorem State.sumEnt_setCtx (s : State) (i : Nat) (x : Ctx) (w : Nat) : (s.setCtx i x).sumEnt w = s.sumEnt w := rfl
@[simp] theorem State.tenant_setCtx (s : State) (i : Nat) (x : Ctx) (v : Nat) : (s.setCtx i x).tenant v = s.tenant v := rfl
@[simp] theorem State.byte_setCtx (s : State) (i : Nat) (x : Ctx) (pa : Nat) : (s.setCtx i x).byte pa = s.byte pa := rfl
@[simp] theorem State.tmByte_setCtx (s : State) (i : Nat) (x : Ctx) (u view off : Nat) : (s.setCtx i x).tmByte u view off = s.tmByte u view off := rfl
@[simp] theorem State.accWord_setCtx (s : State) (i : Nat) (x : Ctx) (u row col : Nat) : (s.setCtx i x).accWord u row col = s.accWord u row col := rfl
@[simp] theorem State.core_modCtx (s : State) (i : Nat) (f : Ctx → Ctx) (k : Nat) : (s.modCtx i f).core k = s.core k := rfl
@[simp] theorem State.tile_modCtx (s : State) (i : Nat) (f : Ctx → Ctx) (t : Nat) : (s.modCtx i f).tile t = s.tile t := rfl
@[simp] theorem State.hive_modCtx (s : State) (i : Nat) (f : Ctx → Ctx) (h : Nat) : (s.modCtx i f).hive h = s.hive h := rfl
@[simp] theorem State.l2line_modCtx (s : State) (i : Nat) (f : Ctx → Ctx) (l : Nat) : (s.modCtx i f).l2line l = s.l2line l := rfl
@[simp] theorem State.sumEnt_modCtx (s : State) (i : Nat) (f : Ctx → Ctx) (w : Nat) : (s.modCtx i f).sumEnt w = s.sumEnt w := rfl
@[simp] theorem State.tenant_modCtx (s : State) (i : Nat) (f : Ctx → Ctx) (v : Nat) : (s.modCtx i f).tenant v = s.tenant v := rfl
@[simp] theorem State.byte_modCtx (s : State) (i : Nat) (f : Ctx → Ctx) (pa : Nat) : (s.modCtx i f).byte pa = s.byte pa := rfl
@[simp] theorem State.tmByte_modCtx (s : State) (i : Nat) (f : Ctx → Ctx) (u view off : Nat) : (s.modCtx i f).tmByte u view off = s.tmByte u view off := rfl
@[simp] theorem State.accWord_modCtx (s : State) (i : Nat) (f : Ctx → Ctx) (u row col : Nat) : (s.modCtx i f).accWord u row col = s.accWord u row col := rfl
@[simp] theorem State.core_modMe (s : State) (f : Ctx → Ctx) (k : Nat) : (s.modMe f).core k = s.core k := rfl
@[simp] theorem State.tile_modMe (s : State) (f : Ctx → Ctx) (t : Nat) : (s.modMe f).tile t = s.tile t := rfl
@[simp] theorem State.hive_modMe (s : State) (f : Ctx → Ctx) (h : Nat) : (s.modMe f).hive h = s.hive h := rfl
@[simp] theorem State.l2line_modMe (s : State) (f : Ctx → Ctx) (l : Nat) : (s.modMe f).l2line l = s.l2line l := rfl
@[simp] theorem State.sumEnt_modMe (s : State) (f : Ctx → Ctx) (w : Nat) : (s.modMe f).sumEnt w = s.sumEnt w := rfl
@[simp] theorem State.tenant_modMe (s : State) (f : Ctx → Ctx) (v : Nat) : (s.modMe f).tenant v = s.tenant v := rfl
@[simp] theorem State.byte_modMe (s : State) (f : Ctx → Ctx) (pa : Nat) : (s.modMe f).byte pa = s.byte pa := rfl
@[simp] theorem State.tmByte_modMe (s : State) (f : Ctx → Ctx) (u view off : Nat) : (s.modMe f).tmByte u view off = s.tmByte u view off := rfl
@[simp] theorem State.accWord_modMe (s : State) (f : Ctx → Ctx) (u row col : Nat) : (s.modMe f).accWord u row col = s.accWord u row col := rfl
@[simp] theorem State.ctx_setCore (s : State) (i : Nat) (x : Core) (c : Nat) : (s.setCore i x).ctx c = s.ctx c := rfl
@[simp] theorem State.tile_setCore (s : State) (i : Nat) (x : Core) (t : Nat) : (s.setCore i x).tile t = s.tile t := rfl
@[simp] theorem State.hive_setCore (s : State) (i : Nat) (x : Core) (h : Nat) : (s.setCore i x).hive h = s.hive h := rfl
@[simp] theorem State.l2line_setCore (s : State) (i : Nat) (x : Core) (l : Nat) : (s.setCore i x).l2line l = s.l2line l := rfl
@[simp] theorem State.sumEnt_setCore (s : State) (i : Nat) (x : Core) (w : Nat) : (s.setCore i x).sumEnt w = s.sumEnt w := rfl
@[simp] theorem State.tenant_setCore (s : State) (i : Nat) (x : Core) (v : Nat) : (s.setCore i x).tenant v = s.tenant v := rfl
@[simp] theorem State.byte_setCore (s : State) (i : Nat) (x : Core) (pa : Nat) : (s.setCore i x).byte pa = s.byte pa := rfl
@[simp] theorem State.tmByte_setCore (s : State) (i : Nat) (x : Core) (u view off : Nat) : (s.setCore i x).tmByte u view off = s.tmByte u view off := rfl
@[simp] theorem State.accWord_setCore (s : State) (i : Nat) (x : Core) (u row col : Nat) : (s.setCore i x).accWord u row col = s.accWord u row col := rfl
@[simp] theorem State.me_setCore (s : State) (i : Nat) (x : Core) : (s.setCore i x).me = s.me := rfl
@[simp] theorem State.ctx_modCore (s : State) (i : Nat) (f : Core → Core) (c : Nat) : (s.modCore i f).ctx c = s.ctx c := rfl
@[simp] theorem State.tile_modCore (s : State) (i : Nat) (f : Core → Core) (t : Nat) : (s.modCore i f).tile t = s.tile t := rfl
@[simp] theorem State.hive_modCore (s : State) (i : Nat) (f : Core → Core) (h : Nat) : (s.modCore i f).hive h = s.hive h := rfl
@[simp] theorem State.l2line_modCore (s : State) (i : Nat) (f : Core → Core) (l : Nat) : (s.modCore i f).l2line l = s.l2line l := rfl
@[simp] theorem State.sumEnt_modCore (s : State) (i : Nat) (f : Core → Core) (w : Nat) : (s.modCore i f).sumEnt w = s.sumEnt w := rfl
@[simp] theorem State.tenant_modCore (s : State) (i : Nat) (f : Core → Core) (v : Nat) : (s.modCore i f).tenant v = s.tenant v := rfl
@[simp] theorem State.byte_modCore (s : State) (i : Nat) (f : Core → Core) (pa : Nat) : (s.modCore i f).byte pa = s.byte pa := rfl
@[simp] theorem State.tmByte_modCore (s : State) (i : Nat) (f : Core → Core) (u view off : Nat) : (s.modCore i f).tmByte u view off = s.tmByte u view off := rfl
@[simp] theorem State.accWord_modCore (s : State) (i : Nat) (f : Core → Core) (u row col : Nat) : (s.modCore i f).accWord u row col = s.accWord u row col := rfl
@[simp] theorem State.me_modCore (s : State) (i : Nat) (f : Core → Core) : (s.modCore i f).me = s.me := rfl
@[simp] theorem State.ctx_setTile (s : State) (i : Nat) (x : Tile) (c : Nat) : (s.setTile i x).ctx c = s.ctx c := rfl
@[simp] theorem State.core_setTile (s : State) (i : Nat) (x : Tile) (k : Nat) : (s.setTile i x).core k = s.core k := rfl
@[simp] theorem State.hive_setTile (s : State) (i : Nat) (x : Tile) (h : Nat) : (s.setTile i x).hive h = s.hive h := rfl
@[simp] theorem State.l2line_setTile (s : State) (i : Nat) (x : Tile) (l : Nat) : (s.setTile i x).l2line l = s.l2line l := rfl
@[simp] theorem State.sumEnt_setTile (s : State) (i : Nat) (x : Tile) (w : Nat) : (s.setTile i x).sumEnt w = s.sumEnt w := rfl
@[simp] theorem State.tenant_setTile (s : State) (i : Nat) (x : Tile) (v : Nat) : (s.setTile i x).tenant v = s.tenant v := rfl
@[simp] theorem State.byte_setTile (s : State) (i : Nat) (x : Tile) (pa : Nat) : (s.setTile i x).byte pa = s.byte pa := rfl
@[simp] theorem State.tmByte_setTile (s : State) (i : Nat) (x : Tile) (u view off : Nat) : (s.setTile i x).tmByte u view off = s.tmByte u view off := rfl
@[simp] theorem State.accWord_setTile (s : State) (i : Nat) (x : Tile) (u row col : Nat) : (s.setTile i x).accWord u row col = s.accWord u row col := rfl
@[simp] theorem State.me_setTile (s : State) (i : Nat) (x : Tile) : (s.setTile i x).me = s.me := rfl
@[simp] theorem State.ctx_modTile (s : State) (i : Nat) (f : Tile → Tile) (c : Nat) : (s.modTile i f).ctx c = s.ctx c := rfl
@[simp] theorem State.core_modTile (s : State) (i : Nat) (f : Tile → Tile) (k : Nat) : (s.modTile i f).core k = s.core k := rfl
@[simp] theorem State.hive_modTile (s : State) (i : Nat) (f : Tile → Tile) (h : Nat) : (s.modTile i f).hive h = s.hive h := rfl
@[simp] theorem State.l2line_modTile (s : State) (i : Nat) (f : Tile → Tile) (l : Nat) : (s.modTile i f).l2line l = s.l2line l := rfl
@[simp] theorem State.sumEnt_modTile (s : State) (i : Nat) (f : Tile → Tile) (w : Nat) : (s.modTile i f).sumEnt w = s.sumEnt w := rfl
@[simp] theorem State.tenant_modTile (s : State) (i : Nat) (f : Tile → Tile) (v : Nat) : (s.modTile i f).tenant v = s.tenant v := rfl
@[simp] theorem State.byte_modTile (s : State) (i : Nat) (f : Tile → Tile) (pa : Nat) : (s.modTile i f).byte pa = s.byte pa := rfl
@[simp] theorem State.tmByte_modTile (s : State) (i : Nat) (f : Tile → Tile) (u view off : Nat) : (s.modTile i f).tmByte u view off = s.tmByte u view off := rfl
@[simp] theorem State.accWord_modTile (s : State) (i : Nat) (f : Tile → Tile) (u row col : Nat) : (s.modTile i f).accWord u row col = s.accWord u row col := rfl
@[simp] theorem State.me_modTile (s : State) (i : Nat) (f : Tile → Tile) : (s.modTile i f).me = s.me := rfl
@[simp] theorem State.ctx_modHive (s : State) (i : Nat) (f : Hive → Hive) (c : Nat) : (s.modHive i f).ctx c = s.ctx c := rfl
@[simp] theorem State.core_modHive (s : State) (i : Nat) (f : Hive → Hive) (k : Nat) : (s.modHive i f).core k = s.core k := rfl
@[simp] theorem State.tile_modHive (s : State) (i : Nat) (f : Hive → Hive) (t : Nat) : (s.modHive i f).tile t = s.tile t := rfl
@[simp] theorem State.l2line_modHive (s : State) (i : Nat) (f : Hive → Hive) (l : Nat) : (s.modHive i f).l2line l = s.l2line l := rfl
@[simp] theorem State.sumEnt_modHive (s : State) (i : Nat) (f : Hive → Hive) (w : Nat) : (s.modHive i f).sumEnt w = s.sumEnt w := rfl
@[simp] theorem State.tenant_modHive (s : State) (i : Nat) (f : Hive → Hive) (v : Nat) : (s.modHive i f).tenant v = s.tenant v := rfl
@[simp] theorem State.byte_modHive (s : State) (i : Nat) (f : Hive → Hive) (pa : Nat) : (s.modHive i f).byte pa = s.byte pa := rfl
@[simp] theorem State.tmByte_modHive (s : State) (i : Nat) (f : Hive → Hive) (u view off : Nat) : (s.modHive i f).tmByte u view off = s.tmByte u view off := rfl
@[simp] theorem State.accWord_modHive (s : State) (i : Nat) (f : Hive → Hive) (u row col : Nat) : (s.modHive i f).accWord u row col = s.accWord u row col := rfl
@[simp] theorem State.me_modHive (s : State) (i : Nat) (f : Hive → Hive) : (s.modHive i f).me = s.me := rfl
@[simp] theorem State.ctx_setL2 (s : State) (i : Nat) (x : L2Line) (c : Nat) : (s.setL2 i x).ctx c = s.ctx c := rfl
@[simp] theorem State.core_setL2 (s : State) (i : Nat) (x : L2Line) (k : Nat) : (s.setL2 i x).core k = s.core k := rfl
@[simp] theorem State.tile_setL2 (s : State) (i : Nat) (x : L2Line) (t : Nat) : (s.setL2 i x).tile t = s.tile t := rfl
@[simp] theorem State.hive_setL2 (s : State) (i : Nat) (x : L2Line) (h : Nat) : (s.setL2 i x).hive h = s.hive h := rfl
@[simp] theorem State.sumEnt_setL2 (s : State) (i : Nat) (x : L2Line) (w : Nat) : (s.setL2 i x).sumEnt w = s.sumEnt w := rfl
@[simp] theorem State.tenant_setL2 (s : State) (i : Nat) (x : L2Line) (v : Nat) : (s.setL2 i x).tenant v = s.tenant v := rfl
@[simp] theorem State.byte_setL2 (s : State) (i : Nat) (x : L2Line) (pa : Nat) : (s.setL2 i x).byte pa = s.byte pa := rfl
@[simp] theorem State.tmByte_setL2 (s : State) (i : Nat) (x : L2Line) (u view off : Nat) : (s.setL2 i x).tmByte u view off = s.tmByte u view off := rfl
@[simp] theorem State.accWord_setL2 (s : State) (i : Nat) (x : L2Line) (u row col : Nat) : (s.setL2 i x).accWord u row col = s.accWord u row col := rfl
@[simp] theorem State.me_setL2 (s : State) (i : Nat) (x : L2Line) : (s.setL2 i x).me = s.me := rfl
@[simp] theorem State.ctx_setSum (s : State) (i : Nat) (x : SumEnt) (c : Nat) : (s.setSum i x).ctx c = s.ctx c := rfl
@[simp] theorem State.core_setSum (s : State) (i : Nat) (x : SumEnt) (k : Nat) : (s.setSum i x).core k = s.core k := rfl
@[simp] theorem State.tile_setSum (s : State) (i : Nat) (x : SumEnt) (t : Nat) : (s.setSum i x).tile t = s.tile t := rfl
@[simp] theorem State.hive_setSum (s : State) (i : Nat) (x : SumEnt) (h : Nat) : (s.setSum i x).hive h = s.hive h := rfl
@[simp] theorem State.l2line_setSum (s : State) (i : Nat) (x : SumEnt) (l : Nat) : (s.setSum i x).l2line l = s.l2line l := rfl
@[simp] theorem State.tenant_setSum (s : State) (i : Nat) (x : SumEnt) (v : Nat) : (s.setSum i x).tenant v = s.tenant v := rfl
@[simp] theorem State.byte_setSum (s : State) (i : Nat) (x : SumEnt) (pa : Nat) : (s.setSum i x).byte pa = s.byte pa := rfl
@[simp] theorem State.tmByte_setSum (s : State) (i : Nat) (x : SumEnt) (u view off : Nat) : (s.setSum i x).tmByte u view off = s.tmByte u view off := rfl
@[simp] theorem State.accWord_setSum (s : State) (i : Nat) (x : SumEnt) (u row col : Nat) : (s.setSum i x).accWord u row col = s.accWord u row col := rfl
@[simp] theorem State.me_setSum (s : State) (i : Nat) (x : SumEnt) : (s.setSum i x).me = s.me := rfl
@[simp] theorem State.ctx_setByte (s : State) (i : Nat) (b : Byte) (c : Nat) : (s.setByte i b).ctx c = s.ctx c := rfl
@[simp] theorem State.core_setByte (s : State) (i : Nat) (b : Byte) (k : Nat) : (s.setByte i b).core k = s.core k := rfl
@[simp] theorem State.tile_setByte (s : State) (i : Nat) (b : Byte) (t : Nat) : (s.setByte i b).tile t = s.tile t := rfl
@[simp] theorem State.hive_setByte (s : State) (i : Nat) (b : Byte) (h : Nat) : (s.setByte i b).hive h = s.hive h := rfl
@[simp] theorem State.l2line_setByte (s : State) (i : Nat) (b : Byte) (l : Nat) : (s.setByte i b).l2line l = s.l2line l := rfl
@[simp] theorem State.sumEnt_setByte (s : State) (i : Nat) (b : Byte) (w : Nat) : (s.setByte i b).sumEnt w = s.sumEnt w := rfl
@[simp] theorem State.tenant_setByte (s : State) (i : Nat) (b : Byte) (v : Nat) : (s.setByte i b).tenant v = s.tenant v := rfl
@[simp] theorem State.tmByte_setByte (s : State) (i : Nat) (b : Byte) (u view off : Nat) : (s.setByte i b).tmByte u view off = s.tmByte u view off := rfl
@[simp] theorem State.accWord_setByte (s : State) (i : Nat) (b : Byte) (u row col : Nat) : (s.setByte i b).accWord u row col = s.accWord u row col := rfl
@[simp] theorem State.me_setByte (s : State) (i : Nat) (b : Byte) : (s.setByte i b).me = s.me := rfl
@[simp] theorem State.ctx_setTmByte (s : State) (i vw o : Nat) (b : Byte) (c : Nat) : (s.setTmByte i vw o b).ctx c = s.ctx c := rfl
@[simp] theorem State.core_setTmByte (s : State) (i vw o : Nat) (b : Byte) (k : Nat) : (s.setTmByte i vw o b).core k = s.core k := rfl
@[simp] theorem State.tile_setTmByte (s : State) (i vw o : Nat) (b : Byte) (t : Nat) : (s.setTmByte i vw o b).tile t = s.tile t := rfl
@[simp] theorem State.hive_setTmByte (s : State) (i vw o : Nat) (b : Byte) (h : Nat) : (s.setTmByte i vw o b).hive h = s.hive h := rfl
@[simp] theorem State.l2line_setTmByte (s : State) (i vw o : Nat) (b : Byte) (l : Nat) : (s.setTmByte i vw o b).l2line l = s.l2line l := rfl
@[simp] theorem State.sumEnt_setTmByte (s : State) (i vw o : Nat) (b : Byte) (w : Nat) : (s.setTmByte i vw o b).sumEnt w = s.sumEnt w := rfl
@[simp] theorem State.tenant_setTmByte (s : State) (i vw o : Nat) (b : Byte) (v : Nat) : (s.setTmByte i vw o b).tenant v = s.tenant v := rfl
@[simp] theorem State.byte_setTmByte (s : State) (i vw o : Nat) (b : Byte) (pa : Nat) : (s.setTmByte i vw o b).byte pa = s.byte pa := rfl
@[simp] theorem State.accWord_setTmByte (s : State) (i vw o : Nat) (b : Byte) (u row col : Nat) : (s.setTmByte i vw o b).accWord u row col = s.accWord u row col := rfl
@[simp] theorem State.me_setTmByte (s : State) (i vw o : Nat) (b : Byte) : (s.setTmByte i vw o b).me = s.me := rfl
@[simp] theorem State.ctx_setAcc (s : State) (i r q : Nat) (x : BitVec 32) (c : Nat) : (s.setAcc i r q x).ctx c = s.ctx c := rfl
@[simp] theorem State.core_setAcc (s : State) (i r q : Nat) (x : BitVec 32) (k : Nat) : (s.setAcc i r q x).core k = s.core k := rfl
@[simp] theorem State.tile_setAcc (s : State) (i r q : Nat) (x : BitVec 32) (t : Nat) : (s.setAcc i r q x).tile t = s.tile t := rfl
@[simp] theorem State.hive_setAcc (s : State) (i r q : Nat) (x : BitVec 32) (h : Nat) : (s.setAcc i r q x).hive h = s.hive h := rfl
@[simp] theorem State.l2line_setAcc (s : State) (i r q : Nat) (x : BitVec 32) (l : Nat) : (s.setAcc i r q x).l2line l = s.l2line l := rfl
@[simp] theorem State.sumEnt_setAcc (s : State) (i r q : Nat) (x : BitVec 32) (w : Nat) : (s.setAcc i r q x).sumEnt w = s.sumEnt w := rfl
@[simp] theorem State.tenant_setAcc (s : State) (i r q : Nat) (x : BitVec 32) (v : Nat) : (s.setAcc i r q x).tenant v = s.tenant v := rfl
@[simp] theorem State.byte_setAcc (s : State) (i r q : Nat) (x : BitVec 32) (pa : Nat) : (s.setAcc i r q x).byte pa = s.byte pa := rfl
@[simp] theorem State.tmByte_setAcc (s : State) (i r q : Nat) (x : BitVec 32) (u view off : Nat) : (s.setAcc i r q x).tmByte u view off = s.tmByte u view off := rfl
@[simp] theorem State.me_setAcc (s : State) (i r q : Nat) (x : BitVec 32) : (s.setAcc i r q x).me = s.me := rfl

/-! Registers (R135, R160): g0 reads zero and takes no write, m0 reads ones and takes none. -/

@[simp] theorem Ctx.greg_zero (x : Ctx) : x.greg 0 = 0 := rfl
@[simp] theorem Ctx.mreg_zero (x : Ctx) : x.mreg 0 = BitVec.allOnes 64 := rfl
@[simp] theorem Ctx.setGreg_zero (x : Ctx) (w : Word) : x.setGreg 0 w = x := rfl

theorem Ctx.greg_setGreg_self (x : Ctx) {r : Reg} (w : Word) (h : r ≠ 0) : (x.setGreg r w).greg r = w := by
  unfold Ctx.greg Ctx.setGreg
  rw [if_neg h, if_neg h]
  exact SMap.get_set_self _ _ _

theorem Ctx.greg_setGreg_ne (x : Ctx) {r k : Reg} (w : Word) (h : k ≠ r) : (x.setGreg r w).greg k = x.greg k := by
  unfold Ctx.greg Ctx.setGreg
  split
  · rfl
  · split
    · rfl
    · exact SMap.get_set_ne _ _ (fun e => h (BitVec.eq_of_toNat_eq e))

@[simp] theorem Ctx.vreg_setVreg_self (x : Ctx) (k : Nat) (w : VWord) : (x.setVreg k w).vreg k = w := SMap.get_set_self _ _ _
theorem Ctx.vreg_setVreg_ne (x : Ctx) {k j : Nat} (w : VWord) (h : j ≠ k) : (x.setVreg k w).vreg j = x.vreg j := SMap.get_set_ne _ _ h

theorem Ctx.mreg_setMreg_self (x : Ctx) {k : Nat} (w : Word) (h : k ≠ 0) : (x.setMreg k w).mreg k = w := by
  simp [Ctx.mreg, Ctx.setMreg, h]

theorem Ctx.mreg_setMreg_ne (x : Ctx) {k j : Nat} (w : Word) (h : j ≠ k) : (x.setMreg k w).mreg j = x.mreg j := by
  unfold Ctx.mreg Ctx.setMreg
  split
  · rfl
  · split
    · rfl
    · exact SMap.get_set_ne _ _ h

@[simp] theorem Ctx.sreg_setSreg_self (x : Ctx) (n : Nat) (w : Word) : (x.setSreg n w).sreg n = w := SMap.get_set_self _ _ _
theorem Ctx.sreg_setSreg_ne (x : Ctx) {n k : Nat} (w : Word) (h : k ≠ n) : (x.setSreg n w).sreg k = x.sreg k := SMap.get_set_ne _ _ h

/-- The special register k after a write of n, by a comparison of the numbers. -/
theorem Ctx.sreg_setSreg (x : Ctx) (n k : Nat) (w : Word) : (x.setSreg n w).sreg k = if k = n then w else x.sreg k :=
  SMap.get_set _ _ _ _

@[simp] theorem Ctx.sreg_setGreg (x : Ctx) (r : Reg) (w : Word) (n : Nat) : (x.setGreg r w).sreg n = x.sreg n := by
  simp [Ctx.sreg]
@[simp] theorem Ctx.sreg_setVreg (x : Ctx) (k : Nat) (w : VWord) (n : Nat) : (x.setVreg k w).sreg n = x.sreg n := rfl
@[simp] theorem Ctx.sreg_setMreg (x : Ctx) (k : Nat) (w : Word) (n : Nat) : (x.setMreg k w).sreg n = x.sreg n := by
  simp [Ctx.sreg]
@[simp] theorem Ctx.greg_setSreg (x : Ctx) (n : Nat) (w : Word) (r : Reg) : (x.setSreg n w).greg r = x.greg r := rfl
@[simp] theorem Ctx.greg_setVreg (x : Ctx) (k : Nat) (w : VWord) (r : Reg) : (x.setVreg k w).greg r = x.greg r := rfl
@[simp] theorem Ctx.greg_setMreg (x : Ctx) (k : Nat) (w : Word) (r : Reg) : (x.setMreg k w).greg r = x.greg r := by
  simp [Ctx.greg]
@[simp] theorem Ctx.vreg_setSreg (x : Ctx) (n : Nat) (w : Word) (k : Nat) : (x.setSreg n w).vreg k = x.vreg k := rfl
@[simp] theorem Ctx.vreg_setGreg (x : Ctx) (r : Reg) (w : Word) (k : Nat) : (x.setGreg r w).vreg k = x.vreg k := by
  simp [Ctx.vreg]
@[simp] theorem Ctx.mreg_setSreg (x : Ctx) (n : Nat) (w : Word) (k : Nat) : (x.setSreg n w).mreg k = x.mreg k := rfl
@[simp] theorem Ctx.mreg_setGreg (x : Ctx) (r : Reg) (w : Word) (k : Nat) : (x.setGreg r w).mreg k = x.mreg k := by
  simp [Ctx.mreg]

@[simp] theorem Tile.sreg_setSreg_self (x : Tile) (n : Nat) (w : Word) : (x.setSreg n w).sreg n = w := SMap.get_set_self _ _ _
theorem Tile.sreg_setSreg_ne (x : Tile) {n k : Nat} (w : Word) (h : k ≠ n) : (x.setSreg n w).sreg k = x.sreg k := SMap.get_set_ne _ _ h
@[simp] theorem Core.sreg_setSreg_self (x : Core) (n : Nat) (w : Word) : (x.setSreg n w).sreg n = w := SMap.get_set_self _ _ _
theorem Core.sreg_setSreg_ne (x : Core) {n k : Nat} (w : Word) (h : k ≠ n) : (x.setSreg n w).sreg k = x.sreg k := SMap.get_set_ne _ _ h

@[simp] theorem Core.queue_setQueue_self (x : Core) (d : Dir) (q : List QVal) : (x.setQueue d q).queue d = q := by cases d <;> rfl
theorem Core.queue_setQueue_ne (x : Core) {d k : Dir} (q : List QVal) (h : k ≠ d) : (x.setQueue d q).queue k = x.queue k := by
  cases d <;> cases k <;> first | rfl | exact absurd rfl h

/-! Bytes (R90, R385). -/

@[simp] theorem State.byte_setByte_self (s : State) (pa : Nat) (b : Byte) : (s.setByte pa b).byte pa = b := SMap.get_set_self _ _ _
theorem State.byte_setByte_ne (s : State) {pa q : Nat} (b : Byte) (h : q ≠ pa) : (s.setByte pa b).byte q = s.byte q := SMap.get_set_ne _ _ h

/-- A store leaves every byte outside it. -/
theorem State.byte_setBytes_outside (bs : List Byte) (s : State) {pa q : Nat} (h : q < pa ∨ pa + bs.length ≤ q) :
    (s.setBytes pa bs).byte q = s.byte q := by
  induction bs generalizing s pa with
  | nil => rfl
  | cons b bs ih =>
    simp only [List.length_cons] at h
    rw [State.setBytes, ih _ (by omega), State.byte_setByte_ne _ _ (by omega)]

/-- A stored byte is read back. -/
theorem State.byte_setBytes_inside (bs : List Byte) (s : State) {pa i : Nat} (h : i < bs.length) :
    (s.setBytes pa bs).byte (pa + i) = bs[i] := by
  induction bs generalizing s pa i with
  | nil => simp at h
  | cons b bs ih =>
    cases i with
    | zero =>
      rw [State.setBytes, State.byte_setBytes_outside _ _ (by omega)]
      simp
    | succ i =>
      have hi : i < bs.length := by simpa using h
      have := ih (s.setByte pa b) (pa := pa + 1) hi
      simpa [State.setBytes, Nat.add_assoc, Nat.add_comm 1 i] using this

@[simp] theorem State.tmByte_setTmByte_self (s : State) (t view off : Nat) (b : Byte) :
    (s.setTmByte t view off b).tmByte t view off = b := SMap.get_set_self _ _ _
theorem State.tmByte_setTmByte_ne (s : State) {t view off u v o : Nat} (b : Byte) (h : tmKey u v o ≠ tmKey t view off) :
    (s.setTmByte t view off b).tmByte u v o = s.tmByte u v o := SMap.get_set_ne _ _ h

@[simp] theorem leBytes_length (n x : Nat) : (leBytes n x).length = n := by
  induction n generalizing x with
  | zero => rfl
  | succ n ih => simp [leBytes, ih]

/-- The little-endian bytes of a number give back the number, cut to their width (R90). -/
theorem leNat_leBytes (n x : Nat) : leNat (leBytes n x) = x % 256 ^ n := by
  induction n generalizing x with
  | zero => simp [leBytes, leNat, Nat.mod_one]
  | succ n ih =>
    have h := Nat.mod_mul (a := 256) (b := 256 ^ n) (x := x)
    rw [leBytes, leNat, ih, BitVec.toNat_ofNat, show 256 ^ (n + 1) = 256 * 256 ^ n from by rw [pow_succ, Nat.mul_comm], h]

end Sys2Proof.Machine
end

