-- ==== Sys2Proof/Laws/Memory.lean ====
section
/-! SUPPORT. Memory: a byte written is read back, every other byte stays, and every operation over memory keeps its
canonical form. -/

namespace Sys2Proof.Machine

/-! One byte. -/

theorem State.byte_setByte (s : State) (pa a : Nat) (b : Byte) :
    (s.setByte pa b).byte a = if a = pa then b else s.byte a := by
  simp [State.byte, State.setByte, SMap.get_set]

theorem State.tmByte_setTmByte (s : State) (t view off u v o : Nat) (b : Byte) :
    (s.setTmByte t view off b).tmByte u v o = if tmKey u v o = tmKey t view off then b else s.tmByte u v o := by
  simp [State.tmByte, State.setTmByte, SMap.get_set]

/-- Bytes stored from an address leave every address outside them as it was. -/
theorem State.byte_setBytes_out (s : State) (pa a : Nat) (bs : List Byte) (h : a < pa ∨ pa + bs.length ≤ a) :
    (s.setBytes pa bs).byte a = s.byte a := by
  induction bs generalizing s pa with
  | nil => rfl
  | cons b bs ih =>
    simp only [List.length_cons] at h
    rw [State.setBytes, ih _ _ (by omega), State.byte_setByte_ne _ _ (by omega)]

/-- Bytes stored from an address are read back there. -/
theorem State.byte_setBytes_in (s : State) (pa i : Nat) (bs : List Byte) (h : i < bs.length) :
    (s.setBytes pa bs).byte (pa + i) = bs[i] := by
  induction bs generalizing s pa i with
  | nil => simp at h
  | cons b bs ih =>
    cases i with
    | zero => rw [State.setBytes, State.byte_setBytes_out _ _ _ _ (by omega)]; simp
    | succ i =>
      have := ih (s.setByte pa b) (pa + 1) i (by simpa using h)
      rw [State.setBytes, show pa + (i + 1) = pa + 1 + i by omega]
      simpa using this

/-! The canonical form. -/

theorem State.memoryOk_reset : State.reset.memoryOk := ⟨rfl, rfl⟩

/-- What leaves memory and tile memory alone keeps their form. -/
theorem State.memoryOk_of_eq {s t : State} (hm : t.mem = s.mem) (ht : t.tm = s.tm) (h : s.memoryOk) : t.memoryOk := by
  unfold State.memoryOk at *; rwa [hm, ht]

theorem Memory.wf_set {m : List Host.Cell} (a : Nat) (b : Byte) (h : Memory.wf m = true) :
    Memory.wf (SMap.set emptyByte m a b) = true := SMap.wf_set a b h

theorem Memory.wf_filter {m : List Host.Cell} (p : Host.Cell → Bool) (h : Memory.wf m = true) :
    Memory.wf (m.filter p) = true := SMap.wf_filter p h

theorem State.memoryOk_setByte {s : State} (pa : Nat) (b : Byte) (h : s.memoryOk) : (s.setByte pa b).memoryOk :=
  ⟨Memory.wf_set pa b h.1, h.2⟩

theorem State.memoryOk_setTmByte {s : State} (t view off : Nat) (b : Byte) (h : s.memoryOk) :
    (s.setTmByte t view off b).memoryOk := ⟨h.1, Memory.wf_set _ b h.2⟩

theorem State.memoryOk_setBytes {s : State} (pa : Nat) (bs : List Byte) (h : s.memoryOk) : (s.setBytes pa bs).memoryOk := by
  induction bs generalizing s pa with
  | nil => exact h
  | cons b bs ih => exact ih _ (State.memoryOk_setByte pa b h)

theorem State.memoryOk_setTmBytes {s : State} (t view off : Nat) (bs : List Byte) (h : s.memoryOk) :
    (s.setTmBytes t view off bs).memoryOk := by
  induction bs generalizing s off with
  | nil => exact h
  | cons b bs ih => exact ih _ (State.memoryOk_setTmByte t view off b h)

theorem State.memoryOk_putBytes {s : State} (bs : List (Nat × Byte)) (h : s.memoryOk) : (s.putBytes bs).memoryOk := by
  induction bs generalizing s with
  | nil => exact h
  | cons p bs ih => exact ih (State.memoryOk_setByte p.1 p.2 h)

theorem Memory.wf_putCells {m : List Host.Cell} (cs : List (Nat × Byte)) (h : Memory.wf m = true) :
    Memory.wf (putCells m cs) = true := by
  unfold putCells
  induction cs generalizing m with
  | nil => exact h
  | cons p cs ih => exact ih (Memory.wf_set p.1 p.2 h)

theorem State.memoryOk_clearFrame {s : State} (t off : Nat) (h : s.memoryOk) : (s.clearFrame t off).memoryOk :=
  ⟨h.1, Memory.wf_filter _ h.2⟩

theorem State.memoryOk_storeSpan {s : State} (pa len : Nat) (cs : List (Nat × Byte)) (h : s.memoryOk) :
    (s.storeSpan pa len cs).memoryOk := by
  unfold State.storeSpan
  exact ⟨Memory.wf_putCells cs (Memory.wf_filter _ h.1), h.2⟩

/-- A state made step by step from a list is in the form when each step keeps it. -/
theorem State.memoryOk_foldl {α : Type} (l : List α) {f : State → α → State} (hf : ∀ s x, s.memoryOk → (f s x).memoryOk)
    {s : State} (h : s.memoryOk) : (l.foldl f s).memoryOk := by
  induction l generalizing s with
  | nil => exact h
  | cons x l ih => exact ih (hf s x h)

theorem State.memoryOk_storeSpans {s : State} (sp : List (Nat × Nat)) (cs : List (Nat × Byte)) (h : s.memoryOk) :
    (s.storeSpans sp cs).memoryOk := State.memoryOk_foldl _ (fun _ p hs => State.memoryOk_storeSpan p.1 p.2 _ hs) h

/-! Writes at home (R103, R107, R108, R185). -/

/-- What happens in L2 alone leaves every byte where it is (R104, R368, R369). -/
theorem State.memoryOk_evictL2 {s : State} (l : Nat) (h : s.memoryOk) : (s.evictL2 l).memoryOk := by
  unfold State.evictL2; dsimp only; split <;> exact h

theorem State.memoryOk_placeL2 {s : State} (l t : Nat) (h : s.memoryOk) : (s.placeL2 l t).memoryOk := by
  unfold State.placeL2
  dsimp only
  split
  · exact h
  · split
    · exact h
    · split
      · exact h
      · exact h
      · exact State.memoryOk_evictL2 _ h

theorem State.memoryOk_fillL2 {s : State} (pa yard : Nat) (h : s.memoryOk) : (s.fillL2 pa yard).memoryOk := by
  unfold State.fillL2
  dsimp only
  split
  · exact h
  · exact State.memoryOk_placeL2 (s := s.setL2 (lineOf pa) _) _ _ h

theorem State.memoryOk_moveL2 {s : State} (l yard : Nat) (h : s.memoryOk) : (s.moveL2 l yard).memoryOk := by
  unfold State.moveL2
  split
  · exact h
  · split
    · exact h
    · dsimp only
      split
      · exact h
      · exact State.memoryOk_placeL2 (s := s.setL2 l _) _ _ h

theorem State.memoryOk_bumpVer {s : State} (pa yard : Nat) (h : s.memoryOk) : (s.bumpVer pa yard).memoryOk := by
  unfold State.bumpVer
  dsimp only
  split <;> exact State.memoryOk_moveL2 (lineOf pa) yard (State.memoryOk_fillL2 pa yard h)

theorem State.memoryOk_takeKey {s : State} (pa : Nat) (pg : Pg) (h : s.memoryOk) : (s.takeKey pa pg).memoryOk := by
  unfold State.takeKey
  split
  · exact h
  · next k _ =>
    generalize hb : (s.garbledBytes (lineOf pa * 128) 128 pg).zipIdx.map (fun p => (lineOf pa * 128 + p.2, p.1)) = bs
    have hp := State.memoryOk_putBytes bs h
    simp only [hb]
    split
    · exact ⟨hp.1, hp.2⟩
    · exact h

theorem State.memoryOk_homeWrite {s : State} (tag yard : Nat) (pg : Pg) (bs : List (Nat × Byte)) (h : s.memoryOk) :
    (s.homeWrite tag yard pg bs).memoryOk := by
  unfold State.homeWrite
  split
  · exact h
  · split
    · exact h
    · dsimp only
      split
      · exact State.memoryOk_bumpVer _ _ (State.memoryOk_putBytes _ (State.memoryOk_takeKey _ _ h))
      · exact State.memoryOk_putBytes _ (State.memoryOk_takeKey _ _ h)

theorem State.memoryOk_flushSums {s : State} (pa yard : Nat) (h : s.memoryOk) : (s.flushSums pa yard).1.memoryOk := by
  unfold State.flushSums
  dsimp only
  split
  · exact h
  · refine State.memoryOk_bumpVer _ _ (State.memoryOk_foldl _ (fun t i ht => ?_) h)
    exact State.memoryOk_of_eq (State.setSum_mem _ _ _) (State.setSum_tm _ _ _) (State.memoryOk_setBytes _ _ ht)

theorem State.memoryOk_sendHome {s : State} (t l : Nat) (cells : List (Nat × DirtyByte)) (h : s.memoryOk) :
    (s.sendHome t l cells).memoryOk := by
  unfold State.sendHome
  split
  · exact h
  · dsimp only
    split
    · have hk (ks : List (Nat × Nat)) (f : State → Nat × Nat → State) (hf : ∀ u k, u.memoryOk → (f u k).memoryOk) :
          (ks.foldl f s).memoryOk := State.memoryOk_foldl _ hf h
      split
      · exact hk _ _ (fun _ _ hu => hu)
      · exact State.memoryOk_homeWrite _ _ _ _ (hk _ _ (fun _ _ hu => hu))
    · split
      · exact h
      · exact State.memoryOk_homeWrite _ _ _ _ h

theorem State.memoryOk_writeBack {s : State} (t l : Nat) (h : s.memoryOk) : (s.writeBack t l).memoryOk := by
  unfold State.writeBack
  dsimp only
  split
  · exact h
  · exact State.memoryOk_sendHome t l _ h

theorem State.memoryOk_drainWcb {s : State} (t : Nat) (h : s.memoryOk) : (s.drainWcb t).memoryOk :=
  State.memoryOk_foldl _ (fun _ _ hs => State.memoryOk_sendHome _ _ _ hs) h

theorem State.memoryOk_roomL1 {s : State} (t : Nat) (h : s.memoryOk) : (s.roomL1 t).memoryOk := by
  unfold State.roomL1
  split
  · exact h
  · exact State.memoryOk_writeBack (s := s.draw.2) _ _ h

theorem State.memoryOk_roomRo {s : State} (t : Nat) (h : s.memoryOk) : (s.roomRo t).memoryOk := by
  unfold State.roomRo; split <;> exact h

theorem State.memoryOk_cleanLine {s : State} (t l : Nat) (h : s.memoryOk) : (s.cleanLine t l).memoryOk :=
  State.memoryOk_drainWcb t (State.memoryOk_writeBack t l h)

theorem State.memoryOk_releaseCore {s : State} (t k : Nat) (h : s.memoryOk) : (s.releaseCore t k).memoryOk :=
  State.memoryOk_drainWcb t (State.memoryOk_foldl _ (fun _ l hs => State.memoryOk_writeBack t l hs) h)

theorem State.memoryOk_releaseTile {s : State} (t : Nat) (h : s.memoryOk) : (s.releaseTile t).memoryOk :=
  State.memoryOk_drainWcb t (State.memoryOk_foldl _ (fun _ l hs => State.memoryOk_writeBack t l hs) h)

theorem State.memoryOk_acquireTile {s : State} (t sc : Nat) (h : s.memoryOk) : (s.acquireTile t sc).memoryOk := by
  unfold State.acquireTile; split <;> exact h

/-! Resets (R402, R403). -/

theorem State.memoryOk_cleared {s : State} (m : List Host.Cell) (h : Memory.wf m = true) : (s.cleared m).memoryOk :=
  ⟨h, rfl⟩

end Sys2Proof.Machine
end

