-- ==== Sys2Proof/Laws/PerInstr.lean ====
section
/-! SUPPORT. Statements about every instruction, made one constructor at a time. -/

/-- An instruction and the row whose word it shares have one word and are well formed together (R143, R146, R147). -/
def Sys2Proof.Laws.RowWord.Statement (i : Sys2Proof.Instr) : Prop :=
  Sys2Proof.encode (Sys2Proof.firstRow i) = Sys2Proof.encode i ∧
    Sys2Proof.wellFormed (Sys2Proof.firstRow i) = Sys2Proof.wellFormed i

namespace Sys2Proof.Laws.RowWord

open Sys2Proof

theorem add (d : Reg) (a : Reg) (b : Reg) : Statement (.add d a b) := ⟨rfl, rfl⟩
theorem sub (d : Reg) (a : Reg) (b : Reg) : Statement (.sub d a b) := ⟨rfl, rfl⟩
theorem and (d : Reg) (a : Reg) (b : Reg) : Statement (.and d a b) := ⟨rfl, rfl⟩
theorem or (d : Reg) (a : Reg) (b : Reg) : Statement (.or d a b) := ⟨rfl, rfl⟩
theorem xor (d : Reg) (a : Reg) (b : Reg) : Statement (.xor d a b) := ⟨rfl, rfl⟩
theorem sll (d : Reg) (a : Reg) (b : Reg) : Statement (.sll d a b) := ⟨rfl, rfl⟩
theorem srl (d : Reg) (a : Reg) (b : Reg) : Statement (.srl d a b) := ⟨rfl, rfl⟩
theorem sra (d : Reg) (a : Reg) (b : Reg) : Statement (.sra d a b) := ⟨rfl, rfl⟩
theorem slt (d : Reg) (a : Reg) (b : Reg) : Statement (.slt d a b) := ⟨rfl, rfl⟩
theorem slo (d : Reg) (a : Reg) (b : Reg) : Statement (.slo d a b) := ⟨rfl, rfl⟩
theorem mul (d : Reg) (a : Reg) (b : Reg) (la : BitVec 4) : Statement (.mul d a b la) := ⟨rfl, rfl⟩
theorem mulh (d : Reg) (a : Reg) (b : Reg) (la : BitVec 4) : Statement (.mulh d a b la) := ⟨rfl, rfl⟩
theorem mulhz (d : Reg) (a : Reg) (b : Reg) (la : BitVec 4) : Statement (.mulhz d a b la) := ⟨rfl, rfl⟩
theorem div (d : Reg) (a : Reg) (b : Reg) (la : BitVec 4) : Statement (.div d a b la) := ⟨rfl, rfl⟩
theorem divz (d : Reg) (a : Reg) (b : Reg) (la : BitVec 4) : Statement (.divz d a b la) := ⟨rfl, rfl⟩
theorem rem (d : Reg) (a : Reg) (b : Reg) (la : BitVec 4) : Statement (.rem d a b la) := ⟨rfl, rfl⟩
theorem remz (d : Reg) (a : Reg) (b : Reg) (la : BitVec 4) : Statement (.remz d a b la) := ⟨rfl, rfl⟩
theorem min (d : Reg) (a : Reg) (b : Reg) : Statement (.min d a b) := ⟨rfl, rfl⟩
theorem max (d : Reg) (a : Reg) (b : Reg) : Statement (.max d a b) := ⟨rfl, rfl⟩
theorem minz (d : Reg) (a : Reg) (b : Reg) : Statement (.minz d a b) := ⟨rfl, rfl⟩
theorem maxz (d : Reg) (a : Reg) (b : Reg) : Statement (.maxz d a b) := ⟨rfl, rfl⟩
theorem clz (d : Reg) (a : Reg) : Statement (.clz d a) := ⟨rfl, rfl⟩
theorem popc (d : Reg) (a : Reg) : Statement (.popc d a) := ⟨rfl, rfl⟩
theorem bfx (d : Reg) (a : Reg) (b : Reg) : Statement (.bfx d a b) := ⟨rfl, rfl⟩
theorem bfi (d : Reg) (a : Reg) (b : Reg) : Statement (.bfi d a b) := ⟨rfl, rfl⟩
theorem sel (d : Reg) (a : Reg) (b : Reg) : Statement (.sel d a b) := ⟨rfl, rfl⟩
theorem addi (d : Reg) (a : Reg) (imm : BitVec 16) : Statement (.addi d a imm) := ⟨rfl, rfl⟩
theorem andi (d : Reg) (a : Reg) (imm : BitVec 16) : Statement (.andi d a imm) := ⟨rfl, rfl⟩
theorem ori (d : Reg) (a : Reg) (imm : BitVec 16) : Statement (.ori d a imm) := ⟨rfl, rfl⟩
theorem xori (d : Reg) (a : Reg) (imm : BitVec 16) : Statement (.xori d a imm) := ⟨rfl, rfl⟩
theorem slti (d : Reg) (a : Reg) (imm : BitVec 16) : Statement (.slti d a imm) := ⟨rfl, rfl⟩
theorem slli (d : Reg) (a : Reg) (n : BitVec 6) : Statement (.slli d a n) := ⟨rfl, rfl⟩
theorem srli (d : Reg) (a : Reg) (n : BitVec 6) : Statement (.srli d a n) := ⟨rfl, rfl⟩
theorem srai (d : Reg) (a : Reg) (n : BitVec 6) : Statement (.srai d a n) := ⟨rfl, rfl⟩
theorem lui (d : Reg) (imm : BitVec 21) : Statement (.lui d imm) := ⟨rfl, rfl⟩
theorem auipc (d : Reg) (imm : BitVec 21) : Statement (.auipc d imm) := ⟨rfl, rfl⟩
theorem beq (a : Reg) (b : Reg) (off : BitVec 16) : Statement (.beq a b off) := ⟨rfl, rfl⟩
theorem bne (a : Reg) (b : Reg) (off : BitVec 16) : Statement (.bne a b off) := ⟨rfl, rfl⟩
theorem blt (a : Reg) (b : Reg) (off : BitVec 16) : Statement (.blt a b off) := ⟨rfl, rfl⟩
theorem bge (a : Reg) (b : Reg) (off : BitVec 16) : Statement (.bge a b off) := ⟨rfl, rfl⟩
theorem blo (a : Reg) (b : Reg) (off : BitVec 16) : Statement (.blo a b off) := ⟨rfl, rfl⟩
theorem bhs (a : Reg) (b : Reg) (off : BitVec 16) : Statement (.bhs a b off) := ⟨rfl, rfl⟩
theorem jal (d : Reg) (off : BitVec 21) : Statement (.jal d off) := ⟨rfl, rfl⟩
theorem jalr (d : Reg) (a : Reg) (imm : BitVec 16) : Statement (.jalr d a imm) := ⟨rfl, rfl⟩
theorem loop (d : Reg) (a : Reg) (imm : BitVec 16) : Statement (.loop d a imm) := ⟨rfl, rfl⟩
theorem start (d : Reg) (a : Reg) (b : Reg) : Statement (.start d a b) := ⟨rfl, rfl⟩
theorem halt (a : Reg) : Statement (.halt a) := ⟨rfl, rfl⟩
theorem yield (d : Reg) : Statement (.yield d) := ⟨rfl, rfl⟩
theorem upret (a : Reg) : Statement (.upret a) := ⟨rfl, rfl⟩
theorem bqe (a : Reg) (b : Reg) (off : BitVec 16) : Statement (.bqe a b off) := ⟨rfl, rfl⟩
theorem ldB (d : Reg) (a : Reg) (off : BitVec 9) (la : BitVec 4) : Statement (.ldB d a off la) := ⟨rfl, rfl⟩
theorem ldBz (d : Reg) (a : Reg) (off : BitVec 9) (la : BitVec 4) : Statement (.ldBz d a off la) := ⟨rfl, rfl⟩
theorem ldH (d : Reg) (a : Reg) (off : BitVec 9) (la : BitVec 4) : Statement (.ldH d a off la) := ⟨rfl, rfl⟩
theorem ldHz (d : Reg) (a : Reg) (off : BitVec 9) (la : BitVec 4) : Statement (.ldHz d a off la) := ⟨rfl, rfl⟩
theorem ldW (d : Reg) (a : Reg) (off : BitVec 9) (la : BitVec 4) : Statement (.ldW d a off la) := ⟨rfl, rfl⟩
theorem ldWz (d : Reg) (a : Reg) (off : BitVec 9) (la : BitVec 4) : Statement (.ldWz d a off la) := ⟨rfl, rfl⟩
theorem ldD (d : Reg) (a : Reg) (off : BitVec 9) (la : BitVec 4) : Statement (.ldD d a off la) := ⟨rfl, rfl⟩
theorem ldRo (d : Reg) (a : Reg) (off : BitVec 9) (la : BitVec 4) : Statement (.ldRo d a off la) := ⟨rfl, rfl⟩
theorem stB (b : Reg) (a : Reg) (off : BitVec 9) : Statement (.stB b a off) := ⟨rfl, rfl⟩
theorem stH (b : Reg) (a : Reg) (off : BitVec 9) : Statement (.stH b a off) := ⟨rfl, rfl⟩
theorem stW (b : Reg) (a : Reg) (off : BitVec 9) : Statement (.stW b a off) := ⟨rfl, rfl⟩
theorem stD (b : Reg) (a : Reg) (off : BitVec 9) : Statement (.stD b a off) := ⟨rfl, rfl⟩
theorem stNt (b : Reg) (a : Reg) (off : BitVec 9) : Statement (.stNt b a off) := ⟨rfl, rfl⟩
theorem pref (a : Reg) : Statement (.pref a) := ⟨rfl, rfl⟩
theorem flush (cc : BitVec 2) (a : Reg) : Statement (.flush cc a) := ⟨rfl, rfl⟩
theorem inval (cc : BitVec 2) (a : Reg) : Statement (.inval cc a) := ⟨rfl, rfl⟩
theorem ldv (d : Reg) (a : Reg) (off : BitVec 9) (la : BitVec 4) : Statement (.ldv d a off la) := ⟨rfl, rfl⟩
theorem vrec (a : Reg) (b : Reg) : Statement (.vrec a b) := ⟨rfl, rfl⟩
theorem valid (d : Reg) (la : BitVec 4) : Statement (.valid d la) := ⟨rfl, rfl⟩
theorem vclr : Statement .vclr := ⟨rfl, rfl⟩
theorem casv (d : Reg) (a : Reg) (b : Reg) (la : BitVec 4) : Statement (.casv d a b la) := ⟨rfl, rfl⟩
theorem cas (d : Reg) (a : Reg) (b : Reg) (la : BitVec 4) : Statement (.cas d a b la) := ⟨rfl, rfl⟩
theorem amoAdd (d : Reg) (a : Reg) (b : Reg) (w : BitVec 1) (sc : BitVec 2) (la : BitVec 4) : Statement (.amoAdd d a b w sc la) := ⟨rfl, rfl⟩
theorem amoAnd (d : Reg) (a : Reg) (b : Reg) (w : BitVec 1) (sc : BitVec 2) (la : BitVec 4) : Statement (.amoAnd d a b w sc la) := ⟨rfl, rfl⟩
theorem amoOr (d : Reg) (a : Reg) (b : Reg) (w : BitVec 1) (sc : BitVec 2) (la : BitVec 4) : Statement (.amoOr d a b w sc la) := ⟨rfl, rfl⟩
theorem amoXor (d : Reg) (a : Reg) (b : Reg) (w : BitVec 1) (sc : BitVec 2) (la : BitVec 4) : Statement (.amoXor d a b w sc la) := ⟨rfl, rfl⟩
theorem amoMin (d : Reg) (a : Reg) (b : Reg) (w : BitVec 1) (sc : BitVec 2) (la : BitVec 4) : Statement (.amoMin d a b w sc la) := ⟨rfl, rfl⟩
theorem amoMax (d : Reg) (a : Reg) (b : Reg) (w : BitVec 1) (sc : BitVec 2) (la : BitVec 4) : Statement (.amoMax d a b w sc la) := ⟨rfl, rfl⟩
theorem amoSwap (d : Reg) (a : Reg) (b : Reg) (w : BitVec 1) (sc : BitVec 2) (la : BitVec 4) : Statement (.amoSwap d a b w sc la) := ⟨rfl, rfl⟩
theorem amoXadd (d : Reg) (a : Reg) (b : Reg) (sc : BitVec 2) (la : BitVec 4) : Statement (.amoXadd d a b sc la) := ⟨rfl, rfl⟩
theorem fenceRel (sc : BitVec 2) : Statement (.fenceRel sc) := ⟨rfl, rfl⟩
theorem fenceAcq (sc : BitVec 2) : Statement (.fenceAcq sc) := ⟨rfl, rfl⟩
theorem fenceAr (sc : BitVec 2) : Statement (.fenceAr sc) := ⟨rfl, rfl⟩
theorem evw (d : Reg) (a : Reg) : Statement (.evw d a) := ⟨rfl, rfl⟩
theorem evs (a : Reg) : Statement (.evs a) := ⟨rfl, rfl⟩
theorem bar (a : Reg) : Statement (.bar a) := ⟨rfl, rfl⟩
theorem fillw (d : Reg) (a : Reg) (b : Reg) : Statement (.fillw d a b) := ⟨rfl, rfl⟩
theorem fillt (d : Reg) (a : Reg) : Statement (.fillt d a) := ⟨rfl, rfl⟩
theorem filla (d : Reg) (a : Reg) (b : Reg) : Statement (.filla d a b) := ⟨rfl, rfl⟩
theorem tsync (d : Reg) : Statement (.tsync d) := ⟨rfl, rfl⟩
theorem mfs (d : Reg) (n : BitVec 12) : Statement (.mfs d n) := ⟨rfl, rfl⟩
theorem mts (a : Reg) (n : BitVec 12) : Statement (.mts a n) := ⟨rfl, rfl⟩
theorem ctxFtWrite (a : Reg) : Statement (.ctxFtWrite a) := ⟨rfl, rfl⟩
theorem ringRegisterWrite (a : Reg) (n : BitVec 12) : Statement (.ringRegisterWrite a n) := ⟨rfl, rfl⟩
theorem mgrpWrite (a : Reg) : Statement (.mgrpWrite a) := ⟨rfl, rfl⟩
theorem fflagsAccess (wr : Bool) (r : Reg) : Statement (.fflagsAccess wr r) := ⟨rfl, rfl⟩
theorem trapSuppRead (d : Reg) : Statement (.trapSuppRead d) := ⟨rfl, rfl⟩
theorem sKillWrite (a : Reg) : Statement (.sKillWrite a) := ⟨rfl, rfl⟩
theorem hvTagWrite (a : Reg) : Statement (.hvTagWrite a) := ⟨rfl, rfl⟩
theorem trap (a : Reg) : Statement (.trap a) := ⟨rfl, rfl⟩
theorem eret (a : Reg) : Statement (.eret a) := ⟨rfl, rfl⟩
theorem tlbw (a : Reg) (b : Reg) : Statement (.tlbw a b) := ⟨rfl, rfl⟩
theorem tlbinvPage (a : Reg) (b : Reg) : Statement (.tlbinvPage a b) := ⟨rfl, rfl⟩
theorem shootdownComplete (cid : Nat) : Statement (.shootdownComplete cid) := ⟨rfl, rfl⟩
theorem chold (d : Reg) (a : Reg) : Statement (.chold d a) := ⟨rfl, rfl⟩
theorem cfloor (d : Reg) (a : Reg) : Statement (.cfloor d a) := ⟨rfl, rfl⟩
theorem cload (d : Reg) (a : Reg) : Statement (.cload d a) := ⟨rfl, rfl⟩
theorem ccede (d : Reg) (a : Reg) : Statement (.ccede d a) := ⟨rfl, rfl⟩
theorem vadd (v : Reg) (a : Reg) (b : Reg) (ext : BitVec 4) (la : BitVec 4) : Statement (.vadd v a b ext la) := ⟨rfl, rfl⟩
theorem vsub (v : Reg) (a : Reg) (b : Reg) (ext : BitVec 4) (la : BitVec 4) : Statement (.vsub v a b ext la) := ⟨rfl, rfl⟩
theorem vmul (v : Reg) (a : Reg) (b : Reg) (ext : BitVec 4) (la : BitVec 4) : Statement (.vmul v a b ext la) := ⟨rfl, rfl⟩
theorem vfma (v : Reg) (a : Reg) (b : Reg) (ext : BitVec 4) (la : BitVec 4) : Statement (.vfma v a b ext la) := ⟨rfl, rfl⟩
theorem vfms (v : Reg) (a : Reg) (b : Reg) (ext : BitVec 4) (la : BitVec 4) : Statement (.vfms v a b ext la) := ⟨rfl, rfl⟩
theorem vdiv (v : Reg) (a : Reg) (b : Reg) (ext : BitVec 4) (la : BitVec 4) : Statement (.vdiv v a b ext la) := ⟨rfl, rfl⟩
theorem vsqrt (v : Reg) (a : Reg) (ext : BitVec 4) (la : BitVec 4) : Statement (.vsqrt v a ext la) := ⟨rfl, rfl⟩
theorem vmin (v : Reg) (a : Reg) (b : Reg) (ext : BitVec 4) (la : BitVec 4) : Statement (.vmin v a b ext la) := ⟨rfl, rfl⟩
theorem vmax (v : Reg) (a : Reg) (b : Reg) (ext : BitVec 4) (la : BitVec 4) : Statement (.vmax v a b ext la) := ⟨rfl, rfl⟩
theorem vabs (v : Reg) (a : Reg) (ext : BitVec 4) (la : BitVec 4) : Statement (.vabs v a ext la) := ⟨rfl, rfl⟩
theorem vneg (v : Reg) (a : Reg) (ext : BitVec 4) (la : BitVec 4) : Statement (.vneg v a ext la) := ⟨rfl, rfl⟩
theorem vcmp (cc : BitVec 2) (m : BitVec 3) (a : Reg) (b : Reg) (ext : BitVec 4) (la : BitVec 4) : Statement (.vcmp cc m a b ext la) := ⟨rfl, rfl⟩
theorem vand (v : Reg) (a : Reg) (b : Reg) (ext : BitVec 4) (la : BitVec 4) : Statement (.vand v a b ext la) := ⟨rfl, rfl⟩
theorem vor (v : Reg) (a : Reg) (b : Reg) (ext : BitVec 4) (la : BitVec 4) : Statement (.vor v a b ext la) := ⟨rfl, rfl⟩
theorem vxor (v : Reg) (a : Reg) (b : Reg) (ext : BitVec 4) (la : BitVec 4) : Statement (.vxor v a b ext la) := ⟨rfl, rfl⟩
theorem vshl (v : Reg) (a : Reg) (b : Reg) (ext : BitVec 4) (la : BitVec 4) : Statement (.vshl v a b ext la) := ⟨rfl, rfl⟩
theorem vshr (v : Reg) (a : Reg) (b : Reg) (ext : BitVec 4) (la : BitVec 4) : Statement (.vshr v a b ext la) := ⟨rfl, rfl⟩
theorem vsra (v : Reg) (a : Reg) (b : Reg) (ext : BitVec 4) (la : BitVec 4) : Statement (.vsra v a b ext la) := ⟨rfl, rfl⟩
theorem vmov (v : Reg) (a : Reg) (ext : BitVec 4) (la : BitVec 4) : Statement (.vmov v a ext la) := ⟨rfl, rfl⟩
theorem vbcast (v : Reg) (a : Reg) (ext : BitVec 4) (la : BitVec 4) : Statement (.vbcast v a ext la) := ⟨rfl, rfl⟩
theorem vsel (v : Reg) (a : Reg) (b : Reg) (ext : BitVec 4) (la : BitVec 4) : Statement (.vsel v a b ext la) := ⟨rfl, rfl⟩
theorem vperm (v : Reg) (a : Reg) (b : Reg) (ext : BitVec 4) (la : BitVec 4) : Statement (.vperm v a b ext la) := ⟨rfl, rfl⟩
theorem vswz (v : Reg) (a : Reg) (p : BitVec 5) (ext : BitVec 4) (la : BitVec 4) : Statement (.vswz v a p ext la) := ⟨rfl, rfl⟩
theorem vext (d : Reg) (a : Reg) (b : Reg) (la : BitVec 4) : Statement (.vext d a b la) := ⟨rfl, rfl⟩
theorem vextMask (d : Reg) (m : BitVec 3) (la : BitVec 4) : Statement (.vextMask d m la) := ⟨rfl, rfl⟩
theorem vins (v : Reg) (a : Reg) (b : Reg) (la : BitVec 4) : Statement (.vins v a b la) := ⟨rfl, rfl⟩
theorem vinsMask (m : BitVec 3) (a : Reg) (la : BitVec 4) : Statement (.vinsMask m a la) := ⟨rfl, rfl⟩
theorem vld (v : Reg) (a : Reg) (b : Reg) (ext : BitVec 4) (la : BitVec 4) : Statement (.vld v a b ext la) := ⟨rfl, rfl⟩
theorem vst (v : Reg) (a : Reg) (b : Reg) (ext : BitVec 4) : Statement (.vst v a b ext) := ⟨rfl, rfl⟩
theorem vldtm (v : Reg) (a : Reg) (b : Reg) (ext : BitVec 4) (la : BitVec 4) : Statement (.vldtm v a b ext la) := ⟨rfl, rfl⟩
theorem vsttm (v : Reg) (a : Reg) (b : Reg) (ext : BitVec 4) : Statement (.vsttm v a b ext) := ⟨rfl, rfl⟩
theorem vgath (v : Reg) (a : Reg) (b : Reg) (ext : BitVec 4) (la : BitVec 4) : Statement (.vgath v a b ext la) := ⟨rfl, rfl⟩
theorem vscat (v : Reg) (a : Reg) (b : Reg) (ext : BitVec 4) : Statement (.vscat v a b ext) := ⟨rfl, rfl⟩
theorem vcvt (v : Reg) (a : Reg) (ext : BitVec 4) (la : BitVec 4) : Statement (.vcvt v a ext la) := ⟨rfl, rfl⟩
theorem vpack (v : Reg) (a : Reg) (ext : BitVec 4) (la : BitVec 4) : Statement (.vpack v a ext la) := ⟨rfl, rfl⟩
theorem vunpk (v : Reg) (a : Reg) (ext : BitVec 4) (la : BitVec 4) : Statement (.vunpk v a ext la) := ⟨rfl, rfl⟩
theorem vqnt (v : Reg) (a : Reg) (b : Reg) (ext : BitVec 4) (la : BitVec 4) : Statement (.vqnt v a b ext la) := ⟨rfl, rfl⟩
theorem vred (v : Reg) (a : Reg) (p : BitVec 5) (ext : BitVec 4) (la : BitVec 4) : Statement (.vred v a p ext la) := ⟨rfl, rfl⟩
theorem vdot (v : Reg) (a : Reg) (b : Reg) (ext : BitVec 4) (la : BitVec 4) : Statement (.vdot v a b ext la) := ⟨rfl, rfl⟩
theorem vrng (v : Reg) (ext : BitVec 4) (la : BitVec 4) : Statement (.vrng v ext la) := ⟨rfl, rfl⟩
theorem vcls (m : BitVec 3) (a : Reg) (cset : BitVec 5) (ext : BitVec 4) (la : BitVec 4) : Statement (.vcls m a cset ext la) := ⟨rfl, rfl⟩
theorem vtbl (v : Reg) (a : Reg) (b : Reg) (ext : BitVec 4) (la : BitVec 4) : Statement (.vtbl v a b ext la) := ⟨rfl, rfl⟩
theorem vbfly (v : Reg) (a : Reg) (b : Reg) (ext : BitVec 4) (la : BitVec 4) : Statement (.vbfly v a b ext la) := ⟨rfl, rfl⟩
theorem vcnt (v : Reg) (a : Reg) (p : BitVec 5) (ext : BitVec 4) (la : BitVec 4) : Statement (.vcnt v a p ext la) := ⟨rfl, rfl⟩
theorem vscan (v : Reg) (a : Reg) (p : BitVec 5) (ext : BitVec 4) (la : BitVec 4) : Statement (.vscan v a p ext la) := ⟨rfl, rfl⟩
theorem fmt (f : BitVec 5) (g : BitVec 5) (r : BitVec 3) (t : BitVec 1) (m : BitVec 3) (k : BitVec 2) : Statement (.fmt f g r t m k) := ⟨rfl, rfl⟩
theorem vectorExecute (core : Nat) : Statement (.vectorExecute core) := ⟨rfl, rfl⟩
theorem cpGo (a : Reg) (b : Reg) (sc : BitVec 2) : Statement (.cpGo a b sc) := ⟨rfl, rfl⟩
theorem cpLand (a : Reg) (b : Reg) : Statement (.cpLand a b) := ⟨rfl, rfl⟩
theorem cpTm (a : Reg) (b : Reg) : Statement (.cpTm a b) := ⟨rfl, rfl⟩
theorem gaGo (a : Reg) (b : Reg) (sc : BitVec 2) : Statement (.gaGo a b sc) := ⟨rfl, rfl⟩
theorem scGo (a : Reg) (b : Reg) (sc : BitVec 2) : Statement (.scGo a b sc) := ⟨rfl, rfl⟩
theorem coRed (a : Reg) (b : Reg) (sc : BitVec 2) : Statement (.coRed a b sc) := ⟨rfl, rfl⟩
theorem coBcast (a : Reg) (b : Reg) (sc : BitVec 2) : Statement (.coBcast a b sc) := ⟨rfl, rfl⟩
theorem coAr (a : Reg) (b : Reg) (sc : BitVec 2) : Statement (.coAr a b sc) := ⟨rfl, rfl⟩
theorem mm (a : Reg) (b : Reg) : Statement (.mm a b) := ⟨rfl, rfl⟩
theorem mms (a : Reg) (b : Reg) : Statement (.mms a b) := ⟨rfl, rfl⟩
theorem mmp (a : Reg) (b : Reg) : Statement (.mmp a b) := ⟨rfl, rfl⟩
theorem mzero (a : Reg) : Statement (.mzero a) := ⟨rfl, rfl⟩
theorem macr (v : Reg) (b : Reg) (la : BitVec 4) : Statement (.macr v b la) := ⟨rfl, rfl⟩
theorem macw (v : Reg) (b : Reg) : Statement (.macw v b) := ⟨rfl, rfl⟩
theorem macst (a : Reg) (b : Reg) : Statement (.macst a b) := ⟨rfl, rfl⟩
theorem mcmdCheck (a : Reg) : Statement (.mcmdCheck a) := ⟨rfl, rfl⟩
theorem mcmdZall (a : Reg) : Statement (.mcmdZall a) := ⟨rfl, rfl⟩
theorem mcmdPcancel (a : Reg) : Statement (.mcmdPcancel a) := ⟨rfl, rfl⟩
theorem mringPop (a : Reg) (b : Reg) : Statement (.mringPop a b) := ⟨rfl, rfl⟩
theorem mringPush (a : Reg) (b : Reg) : Statement (.mringPush a b) := ⟨rfl, rfl⟩
theorem mringReset (a : Reg) (b : Reg) : Statement (.mringReset a b) := ⟨rfl, rfl⟩
theorem mwait : Statement .mwait := ⟨rfl, rfl⟩
theorem lnTask (a : Reg) (b : Reg) : Statement (.lnTask a b) := ⟨rfl, rfl⟩
theorem lnGraph (a : Reg) (b : Reg) : Statement (.lnGraph a b) := ⟨rfl, rfl⟩
theorem lnPhase (a : Reg) (b : Reg) : Statement (.lnPhase a b) := ⟨rfl, rfl⟩
theorem lnCancel (a : Reg) (b : Reg) : Statement (.lnCancel a b) := ⟨rfl, rfl⟩
theorem lnWait (a : Reg) (b : Reg) : Statement (.lnWait a b) := ⟨rfl, rfl⟩
theorem rpRec (a : Reg) : Statement (.rpRec a) := ⟨rfl, rfl⟩
theorem rpRun (a : Reg) (b : Reg) : Statement (.rpRun a b) := ⟨rfl, rfl⟩
theorem replayPush (core : Nat) : Statement (.replayPush core) := ⟨rfl, rfl⟩
theorem wxld (a : Reg) (b : Reg) : Statement (.wxld a b) := ⟨rfl, rfl⟩
theorem wxrel (a : Reg) : Statement (.wxrel a) := ⟨rfl, rfl⟩
theorem wxstm (a : Reg) (b : Reg) : Statement (.wxstm a b) := ⟨rfl, rfl⟩
theorem wxdet (a : Reg) : Statement (.wxdet a) := ⟨rfl, rfl⟩
theorem wxqry (d : Reg) (b : Reg) (la : BitVec 4) : Statement (.wxqry d b la) := ⟨rfl, rfl⟩
theorem enStat (d : Reg) (b : Reg) (la : BitVec 4) : Statement (.enStat d b la) := ⟨rfl, rfl⟩
theorem wax (v : Reg) (a : Reg) (b : Reg) (ext : BitVec 4) (n : BitVec 3) (la : BitVec 4) : Statement (.wax v a b ext n la) := ⟨rfl, rfl⟩
theorem waxLoadComplete (tile : Nat) : Statement (.waxLoadComplete tile) := ⟨rfl, rfl⟩
theorem streamStart (tile : Nat) : Statement (.streamStart tile) := ⟨rfl, rfl⟩
theorem streamEnd (tile : Nat) : Statement (.streamEnd tile) := ⟨rfl, rfl⟩
theorem engineAccept (core : Nat) : Statement (.engineAccept core) := ⟨rfl, rfl⟩
theorem matrixCommandStart (tile : Nat) : Statement (.matrixCommandStart tile) := ⟨rfl, rfl⟩
theorem matrixCommandRetire (tile : Nat) : Statement (.matrixCommandRetire tile) := ⟨rfl, rfl⟩
theorem mmpPairCommit (tile : Nat) : Statement (.mmpPairCommit tile) := ⟨rfl, rfl⟩
theorem collectiveComplete (yard : Nat) (dom : Nat) : Statement (.collectiveComplete yard dom) := ⟨rfl, rfl⟩
theorem engineWriteHome (tile : Nat) : Statement (.engineWriteHome tile) := ⟨rfl, rfl⟩
theorem taskDispatch (yard : Nat) : Statement (.taskDispatch yard) := ⟨rfl, rfl⟩
theorem helperTaskStart (tile : Nat) : Statement (.helperTaskStart tile) := ⟨rfl, rfl⟩
theorem taskCommit (cid : Nat) : Statement (.taskCommit cid) := ⟨rfl, rfl⟩
theorem successorDispatchable (yard : Nat) : Statement (.successorDispatchable yard) := ⟨rfl, rfl⟩
theorem taskFaultRecord (cid : Nat) : Statement (.taskFaultRecord cid) := ⟨rfl, rfl⟩
theorem upcallEntry (cid : Nat) : Statement (.upcallEntry cid) := ⟨rfl, rfl⟩
theorem lateCauseReport (cid : Nat) : Statement (.lateCauseReport cid) := ⟨rfl, rfl⟩
theorem singleStepTrap (cid : Nat) : Statement (.singleStepTrap cid) := ⟨rfl, rfl⟩
theorem sliceExpiry (core : Nat) : Statement (.sliceExpiry core) := ⟨rfl, rfl⟩
theorem budgetExceeded (cid : Nat) : Statement (.budgetExceeded cid) := ⟨rfl, rfl⟩
theorem contextSave (cid : Nat) : Statement (.contextSave cid) := ⟨rfl, rfl⟩
theorem eventArrival (tile : Nat) (line : Nat) : Statement (.eventArrival tile line) := ⟨rfl, rfl⟩
theorem barrierArrival (cid : Nat) (dom : Nat) (members : Nat) : Statement (.barrierArrival cid dom members) := ⟨rfl, rfl⟩
theorem superstepBoundary (yard : Nat) (dom : Nat) : Statement (.superstepBoundary yard dom) := ⟨rfl, rfl⟩
theorem linkValueArrival (core : Nat) (dir : Dir) : Statement (.linkValueArrival core dir) := ⟨rfl, rfl⟩
theorem tlbMissRecord (hive : Nat) : Statement (.tlbMissRecord hive) := ⟨rfl, rfl⟩
theorem pinSwitchComplete (tile : Nat) : Statement (.pinSwitchComplete tile) := ⟨rfl, rfl⟩
theorem calendarApply (port : Nat) : Statement (.calendarApply port) := ⟨rfl, rfl⟩
theorem routeEntryApply (dev : Nat) : Statement (.routeEntryApply dev) := ⟨rfl, rfl⟩
theorem tenantCreate (v : Nat) : Statement (.tenantCreate v) := ⟨rfl, rfl⟩
theorem tenantStart (v : Nat) : Statement (.tenantStart v) := ⟨rfl, rfl⟩
theorem tenantSave (v : Nat) : Statement (.tenantSave v) := ⟨rfl, rfl⟩
theorem tenantResume (v : Nat) : Statement (.tenantResume v) := ⟨rfl, rfl⟩
theorem tenantTeardown (v : Nat) : Statement (.tenantTeardown v) := ⟨rfl, rfl⟩
theorem tenantMigrateOut (v : Nat) : Statement (.tenantMigrateOut v) := ⟨rfl, rfl⟩
theorem tenantMigrateIn (v : Nat) : Statement (.tenantMigrateIn v) := ⟨rfl, rfl⟩
theorem tenantCheckpoint (v : Nat) : Statement (.tenantCheckpoint v) := ⟨rfl, rfl⟩
theorem tenantRollBack (v : Nat) : Statement (.tenantRollBack v) := ⟨rfl, rfl⟩
theorem tenantReservedCommand (v : Nat) (code : Nat) : Statement (.tenantReservedCommand v code) := ⟨rfl, rfl⟩
theorem jobGo (v : Nat) (j : Nat) : Statement (.jobGo v j) := ⟨rfl, rfl⟩
theorem jobEnd (v : Nat) (j : Nat) : Statement (.jobEnd v j) := ⟨rfl, rfl⟩
theorem eventPost (bytes : List Byte) : Statement (.eventPost bytes) := ⟨rfl, rfl⟩
theorem msixPost (w : Word) : Statement (.msixPost w) := ⟨rfl, rfl⟩
theorem coldReset : Statement .coldReset := ⟨rfl, rfl⟩
theorem elasticReturnComplete (tile : Nat) : Statement (.elasticReturnComplete tile) := ⟨rfl, rfl⟩
theorem engineCommandComplete (tile : Nat) (eng : Nat) : Statement (.engineCommandComplete tile eng) := ⟨rfl, rfl⟩
theorem mmpPairTimeout (tile : Nat) : Statement (.mmpPairTimeout tile) := ⟨rfl, rfl⟩
theorem writeCombineDrain (tile : Nat) : Statement (.writeCombineDrain tile) := ⟨rfl, rfl⟩
theorem launchAging (yard : Nat) (job : Nat) (id : Nat) : Statement (.launchAging yard job id) := ⟨rfl, rfl⟩
theorem cedeRequestExpiry (tile : Nat) : Statement (.cedeRequestExpiry tile) := ⟨rfl, rfl⟩
theorem lossGraceExpiry (tile : Nat) : Statement (.lossGraceExpiry tile) := ⟨rfl, rfl⟩
theorem handoverDrainComplete (tile : Nat) : Statement (.handoverDrainComplete tile) := ⟨rfl, rfl⟩
theorem tagDrainComplete (tag : Nat) : Statement (.tagDrainComplete tag) := ⟨rfl, rfl⟩
theorem upretVacate (a : Reg) : Statement (.upretVacate a) := ⟨rfl, rfl⟩
theorem eretRestore (a : Reg) : Statement (.eretRestore a) := ⟨rfl, rfl⟩
theorem tlbinvVf (a : Reg) (b : Reg) : Statement (.tlbinvVf a b) := ⟨rfl, rfl⟩
theorem tlbinvGpa (a : Reg) (b : Reg) : Statement (.tlbinvGpa a b) := ⟨rfl, rfl⟩
theorem tlbinvAll (a : Reg) (b : Reg) : Statement (.tlbinvAll a b) := ⟨rfl, rfl⟩
theorem fillWordArrival (tile : Nat) (view : Nat) (off : Nat) (m : Nat) : Statement (.fillWordArrival tile view off m) := ⟨rfl, rfl⟩
theorem homeAccess (req : HomeReq) : Statement (.homeAccess req) := ⟨rfl, rfl⟩
theorem l1Writeback (tile : Nat) (line : Nat) : Statement (.l1Writeback tile line) := ⟨rfl, rfl⟩
theorem l2Eviction (line : Nat) : Statement (.l2Eviction line) := ⟨rfl, rfl⟩
theorem waggleBoundary : Statement .waggleBoundary := ⟨rfl, rfl⟩
theorem pciePostedWrite (w : PcieWrite) : Statement (.pciePostedWrite w) := ⟨rfl, rfl⟩
theorem pcieUnsupportedRequest (peer : Bool) (tag : Nat) : Statement (.pcieUnsupportedRequest peer tag) := ⟨rfl, rfl⟩
theorem milayPortDown (port : Nat) : Statement (.milayPortDown port) := ⟨rfl, rfl⟩
theorem milayAccessTimeout (id : Nat) : Statement (.milayAccessTimeout id) := ⟨rfl, rfl⟩
theorem uncorrectableTileError (tile : Nat) : Statement (.uncorrectableTileError tile) := ⟨rfl, rfl⟩
theorem checkpointStepComplete (v : Nat) : Statement (.checkpointStepComplete v) := ⟨rfl, rfl⟩
theorem migrationDone (v : Nat) (ok : Bool) : Statement (.migrationDone v ok) := ⟨rfl, rfl⟩
theorem semRead (p : MPort) (tie : Bool) : Statement (.semRead p tie) := ⟨rfl, rfl⟩
theorem semRelease (p : MPort) : Statement (.semRelease p) := ⟨rfl, rfl⟩
theorem semTimeout : Statement .semTimeout := ⟨rfl, rfl⟩
theorem getInfo (p : MPort) (seq : Nat) : Statement (.getInfo p seq) := ⟨rfl, rfl⟩
theorem getRetire (p : MPort) (seq : Nat) : Statement (.getRetire p seq) := ⟨rfl, rfl⟩
theorem stageBlob (p : MPort) (seq : Nat) (off : Nat) (chunk : List Byte) : Statement (.stageBlob p seq off chunk) := ⟨rfl, rfl⟩
theorem commitBlob (p : MPort) (seq : Nat) : Statement (.commitBlob p seq) := ⟨rfl, rfl⟩
theorem retire (p : MPort) (seq : Nat) (what : Retired) : Statement (.retire p seq what) := ⟨rfl, rfl⟩
theorem reset (p : MPort) (seq : Nat) : Statement (.reset p seq) := ⟨rfl, rfl⟩
theorem spdm (p : MPort) (seq : Nat) (msg : List Byte) : Statement (.spdm p seq msg) := ⟨rfl, rfl⟩
theorem eventQueueRead (p : MPort) : Statement (.eventQueueRead p) := ⟨rfl, rfl⟩
theorem getVersion (p : MPort) (msg : List Byte) : Statement (.getVersion p msg) := ⟨rfl, rfl⟩
theorem getCapabilities (p : MPort) (msg : List Byte) : Statement (.getCapabilities p msg) := ⟨rfl, rfl⟩
theorem negotiateAlgorithms (p : MPort) (msg : List Byte) : Statement (.negotiateAlgorithms p msg) := ⟨rfl, rfl⟩
theorem getDigests (p : MPort) (msg : List Byte) : Statement (.getDigests p msg) := ⟨rfl, rfl⟩
theorem getCertificate (p : MPort) (msg : List Byte) : Statement (.getCertificate p msg) := ⟨rfl, rfl⟩
theorem challenge (p : MPort) (msg : List Byte) : Statement (.challenge p msg) := ⟨rfl, rfl⟩
theorem getMeasurements (p : MPort) (index : Nat) : Statement (.getMeasurements p index) := ⟨rfl, rfl⟩
theorem warmReset : Statement .warmReset := ⟨rfl, rfl⟩
theorem flrVf (v : Nat) : Statement (.flrVf v) := ⟨rfl, rfl⟩
theorem flrPf0 : Statement .flrPf0 := ⟨rfl, rfl⟩
theorem flrPeer : Statement .flrPeer := ⟨rfl, rfl⟩
theorem thermalTrip : Statement .thermalTrip := ⟨rfl, rfl⟩
theorem tlbEntryEviction (hiveLevel : Bool) (place : Nat) (k : Nat) : Statement (.tlbEntryEviction hiveLevel place k) := ⟨rfl, rfl⟩
theorem milayPortTrained (port : Nat) : Statement (.milayPortTrained port) := ⟨rfl, rfl⟩
theorem pcieCompletion (id : Nat) : Statement (.pcieCompletion id) := ⟨rfl, rfl⟩
theorem milayAcknowledgement (id : Nat) : Statement (.milayAcknowledgement id) := ⟨rfl, rfl⟩
theorem peerShootdownRequest (kind : Nat) (size : Nat) (vf : Nat) (addr : Nat) : Statement (.peerShootdownRequest kind size vf addr) := ⟨rfl, rfl⟩
theorem droopStretch (tile : Nat) (depth : Nat) : Statement (.droopStretch tile depth) := ⟨rfl, rfl⟩
theorem l1LineEviction (tile : Nat) (line : Nat) : Statement (.l1LineEviction tile line) := ⟨rfl, rfl⟩

end Sys2Proof.Laws.RowWord
end

