-- ==== Sys2Proof/Laws/Run.lean ====
section
/-! SUPPORT. How the meaning of an instruction runs: the parts of a sequence, the ways it can end, and the operations that every
instruction is made of. -/

namespace Sys2Proof.Machine

/-! Sequences. -/

theorem bind_ok {α β : Type} {m : M α} {f : α → M β} {s t : State} {a : α} (h : m s = .ok a t) : (m >>= f) s = f a t := by
  show EStateM.bind m f s = f a t
  simp [EStateM.bind, h]

theorem bind_error {α β : Type} {m : M α} {f : α → M β} {s t : State} {e : Exit} (h : m s = .error e t) :
    (m >>= f) s = .error e t := by
  show EStateM.bind m f s = _
  simp [EStateM.bind, h]

theorem get_bind {β : Type} {f : State → M β} {s : State} : ((get : M State) >>= f) s = f s s := rfl
theorem modify_bind {β : Type} {g : State → State} {f : PUnit → M β} {s : State} : ((modify g : M PUnit) >>= f) s = f ⟨⟩ (g s) := rfl
theorem set_bind {β : Type} {t : State} {f : PUnit → M β} {s : State} : ((set t : M PUnit) >>= f) s = f ⟨⟩ t := rfl
theorem pure_bind' {α β : Type} {a : α} {f : α → M β} {s : State} : ((pure a : M α) >>= f) s = f a s := rfl

@[simp] theorem trapIf_false {c : Cause} {tv : Word} {s : State} : trapIf false c tv s = .ok () s := rfl
@[simp] theorem trapIf_true {c : Cause} {tv : Word} {s : State} : trapIf true c tv s = .error (.trap c tv) s := rfl

/-! The ways a run ends. -/

theorem runRaw_ok {m : M Unit} {s t : State} (hl : s.me.live = true) (h : m s = .ok () t) : runRaw m s = .next t := by
  simp [runRaw, hl, h]

theorem keepQueues_ok {α : Type} {m : M α} {s t : State} {a : α} (h : m s = .ok a t) : keepQueues m s = .ok a t := by
  simp [keepQueues, h]

theorem run_ok {m : M Unit} {s t : State} (hl : s.me.live = true) (h : m s = .ok () t) : run m s = .next t :=
  runRaw_ok hl (keepQueues_ok h)

/-- Windows that can all close leave the state in which each has closed in its turn. -/
theorem State.closeList_all {s : State} {c : Nat} {ws : List Window} (h : (s.closeList c ws).2 = true) :
    (s.closeList c ws).1 = ws.foldl (fun s w => s.closeWindow c w) s := by
  induction ws generalizing s with
  | nil => rfl
  | cons w ws ih =>
    unfold State.closeList at h ⊢
    split at h
    · next hw => rw [if_pos hw]; exact ih h
    · cases h

theorem closeAll_ok {s : State} (h : s.canClose) (hr : s.closesClean) : closeAll s = .ok () s.closed := by
  have h2 : (s.closeList s.cur (s.me.closing (fun _ => true))).2 = true := h
  have h1 : (s.closeList s.cur (s.me.closing (fun _ => true))).1 = s.closed := State.closeList_all h2
  unfold closeAll closeThese
  rw [← Prod.mk.eta (p := s.closeList s.cur (s.me.closing (fun _ => true))), h1, h2]
  simp only [show s.refusal s.cur (fun _ => true) = none from hr]

/-- An instruction that closes the windows first runs in the state with them closed. -/
theorem runClose_ok {m : M Unit} {s t : State} (hl : s.me.live = true) (hc : s.canClose) (hr : s.closesClean)
    (h : m s.closed = .ok () t) : runClose m s = .next t :=
  runRaw_ok hl (by rw [bind_ok (closeAll_ok hc hr)]; exact keepQueues_ok h)

/-- A precise cause: the windows close and it is delivered with the instruction's address (R156, R306). -/
theorem run_trap {m : M Unit} {s t : State} {c : Cause} {tv : Word} (hl : s.me.live = true) (h : m s = .error (.trap c tv) t)
    (hw : t.windowsReady t.cur = true) :
    run m s = .next (s.raised t c tv) := by
  unfold State.raised
  simp [run, runRaw, keepQueues, hl, h, hw]

/-- A wait: what was popped is put back, and the wait is noted (R35, R36). -/
theorem run_wait {m : M Unit} {s t : State} {k : WaitKind} {op : Word} (hl : s.me.live = true) (h : m s = .error (.wait k op) t) :
    run m s = .next ((t.unpop s).beginWait k op) := by
  simp [run, runRaw, keepQueues, hl, h]

/-- A step of a context that is not live stops. -/
theorem runRaw_dead {m : M Unit} {s : State} (hl : s.me.live = false) : runRaw m s = .fault .noContext := by
  simp [runRaw, hl]

/-! What a run can do, said once. -/

/-- A run that answers a next state did one of four things: it completed or left; it began to wait; a precise cause was
delivered; or a precise cause is owed until the windows can close. -/
theorem runRaw_next {m : M Unit} {s t : State} (h : runRaw m s = .next t) :
    s.me.live = true ∧
    (m s = .ok () t ∨ m s = .error .left t ∨
      (∃ k op u, m s = .error (.wait k op) u ∧ t = u.beginWait k op) ∨
      (∃ c tv u, m s = .error (.trap c tv) u ∧
        ((u.windowsReady u.cur = true ∧
            t = s.raised u c tv) ∨
          (u.windowsReady u.cur = false ∧ t = s.owe c tv)))) := by
  unfold runRaw at h
  split at h
  · next hl =>
    refine ⟨hl, ?_⟩
    split at h
    · next hm => cases h; exact .inl hm
    · next hm => cases h; exact .inr (.inl hm)
    · cases h
    · next hm => cases h; exact .inr (.inr (.inl ⟨_, _, _, hm, rfl⟩))
    · next c tv u hm =>
      refine .inr (.inr (.inr ⟨c, tv, u, hm, ?_⟩))
      split at h
      · next hw => cases h; exact .inl ⟨hw, rfl⟩
      · next hw => cases h; exact .inr ⟨by simpa using hw, rfl⟩
  · cases h

/-- The gate lets an instruction go on, makes it wait, or raises one of its four causes; it changes nothing. -/
theorem gate_cases (pops pushes : List Reg) (now : Bool) (s : State) :
    gate pops pushes now s = .ok () s ∨ (∃ r, gate pops pushes now s = .error (.wait .pop r) s) ∨
    (∃ r, gate pops pushes now s = .error (.wait .push r) s) ∨ gate pops pushes now s = .error (.trap .combAccess 0) s ∨
    gate pops pushes now s = .error (.trap .matrixGroup 0) s ∨ (∃ tv, gate pops pushes now s = .error (.trap .slotFault tv) s) ∨
    gate pops pushes now s = .error (.trap .topCode 0) s := by
  unfold gate
  dsimp only
  split
  · simp
  · split
    · simp
    · split
      · simp
      · split
        · simp
        · split
          · simp
          · split <;> simp

/-- Taking an exception enters the level of its cause, or H with a double trap, or is fatal (R305). -/
theorem State.takeTrap_cases (s : State) (c : Nat) (h : How) (cause : Cause) (epc tval : Word) :
    let x := s.ctx c
    s.takeTrap c h cause epc tval = s.setCtx c (x.enter (x.goesToH cause) h cause.code epc tval) ∨
    s.takeTrap c h cause epc tval = s.setCtx c (x.enter true h Cause.doubleTrap.code epc 0) ∨
    s.takeTrap c h cause epc tval = s.fatal c .doubleTrap ∨ s.takeTrap c h cause epc tval = s.fatal c cause := by
  dsimp only [State.takeTrap]
  split
  · split <;> simp
  · split <;> simp

/-- An exception that does not find its level in a trap, whose vector is not 0, enters that level (R305, R306). -/
theorem State.takeTrap_enter {s : State} {c : Nat} {h : How} {cause : Cause} {epc tval : Word}
    (ht : (s.ctx c).inTrap ((s.ctx c).goesToH cause) = false) (hv : (s.ctx c).sreg (trapBase ((s.ctx c).goesToH cause) + 1) ≠ 0) :
    s.takeTrap c h cause epc tval = s.setCtx c ((s.ctx c).enter ((s.ctx c).goesToH cause) h cause.code epc tval) := by
  dsimp only [State.takeTrap]
  rw [ht, Bool.and_false, if_neg (by simp), if_neg hv]

/-! The operations. -/

theorem noPrefix_ok {s : State} (h : (s.me.sreg 0x024).getLsbD 63 = false) : noPrefix s = .ok () s := by
  simp only [noPrefix, h]; rfl

theorem noPrefix_trap {s : State} (h : (s.me.sreg 0x024).getLsbD 63 = true) :
    noPrefix s = .error (.trap .reserved 0) (s.modMe (fun x => x.setSreg 0x024 0)) := by
  simp only [noPrefix, h]; rfl

theorem readG_ok (r : Reg) (s : State) : readG r s = .ok (s.read r).1 (s.read r).2 := by
  unfold readG State.read
  split <;> rfl

theorem writeG_ok (r : Reg) (x : Word) (s : State) : writeG r x s = .ok () (s.write r x) := rfl
theorem next_ok (s : State) : next s = .ok () s.goOn := rfl
theorem jump_ok (t : Word) (s : State) : jump t s = .ok () (s.jumpTo t) := rfl

theorem writeLa_ok (la : BitVec 4) (d : Reg) (x : Word) (s : State) : writeLa la [.g d x] s = .ok () (s.long la d x) := rfl

/-! Reading a register (R136): what a pop changes. -/

/-- The state after a pop: the value leaves its queue, and nothing else changes. -/
theorem State.pop_state (s : State) (r : Reg) :
    (s.pop r).2 = if r = 28 then s.modTile s.myTile (fun t => { t with qk := t.qk.drop 1 })
      else if r = 29 then s.takeLines ((1 : BitVec 32) <<< lowestLine s.pendingLines)
      else s.modCore s.myCore (fun k => k.setQueue (linkDir r) ((k.queue (linkDir r)).drop 1)) := by
  unfold State.pop
  dsimp only
  split
  · rfl
  · split <;> rfl

/-- Reading a register changes nothing of the context but the event lines it holds. -/
theorem State.me_read (s : State) (r : Reg) : ∃ g, (s.read r).2.me = { s.me with got := g } := by
  unfold State.read
  split
  · rw [State.pop_state]
    split
    · exact ⟨s.me.got, rfl⟩
    · split
      · exact ⟨_, State.me_modMe _ _⟩
      · exact ⟨s.me.got, rfl⟩
  · exact ⟨s.me.got, rfl⟩

@[simp] theorem State.read_cur (s : State) (r : Reg) : (s.read r).2.cur = s.cur := by
  unfold State.read
  split
  · rw [State.pop_state]
    split
    · rfl
    · split <;> rfl
  · rfl

theorem State.sameStore_refl (s : State) : s.sameStore s :=
  ⟨fun _ => rfl, fun _ => rfl, fun _ _ _ => rfl, fun _ _ _ => rfl, fun _ => ⟨rfl, rfl, rfl⟩⟩

theorem State.sameStore_trans {s t u : State} (h : s.sameStore t) (k : t.sameStore u) : s.sameStore u :=
  ⟨fun a => (k.1 a).trans (h.1 a), fun w => (k.2.1 w).trans (h.2.1 w), fun x y z => (k.2.2.1 x y z).trans (h.2.2.1 x y z),
   fun x y z => (k.2.2.2.1 x y z).trans (h.2.2.2.1 x y z),
   fun x => ⟨(k.2.2.2.2 x).1.trans (h.2.2.2.2 x).1, (k.2.2.2.2 x).2.1.trans (h.2.2.2.2 x).2.1,
     (k.2.2.2.2 x).2.2.trans (h.2.2.2.2 x).2.2⟩⟩

/-- A change of contexts and cores is no change of storage. -/
theorem State.sameStore_modCtx (s : State) (c : Nat) (f : Ctx → Ctx) : s.sameStore (s.modCtx c f) := State.sameStore_refl s
theorem State.sameStore_modCore (s : State) (k : Nat) (f : Core → Core) : s.sameStore (s.modCore k f) := State.sameStore_refl s

/-- Nor is a change of a tile that keeps its caches. -/
theorem State.sameStore_modTile (s : State) (t : Nat) (f : Tile → Tile)
    (hf : ∀ x, (f x).l1 = x.l1 ∧ (f x).ro = x.ro ∧ (f x).wcb = x.wcb) : s.sameStore (s.modTile t f) := by
  refine ⟨fun _ => rfl, fun _ => rfl, fun _ _ _ => rfl, fun _ _ _ => rfl, fun u => ?_⟩
  by_cases h : u = t
  · subst h; simpa using hf (s.tile u)
  · rw [State.tile_modTile_ne _ _ h]; exact ⟨rfl, rfl, rfl⟩

theorem State.sameStore_takeLines (s : State) (ls : BitVec 32) : s.sameStore (s.takeLines ls) :=
  State.sameStore_trans (t := s.modTile s.myTile (fun t => { t with ev := if s.me.got = 0 then t.ev &&& ~~~ls else t.ev }))
    (State.sameStore_modTile s _ _ (fun _ => ⟨rfl, rfl, rfl⟩)) (State.sameStore_modCtx _ _ _)

/-- Reading a register changes no storage. -/
theorem State.sameStore_read (s : State) (r : Reg) : s.sameStore (s.read r).2 := by
  unfold State.read
  split
  · rw [State.pop_state]
    split
    · exact State.sameStore_modTile s _ _ (fun _ => ⟨rfl, rfl, rfl⟩)
    · split
      · exact State.sameStore_takeLines s _
      · exact State.sameStore_modCore s _ _
  · exact State.sameStore_refl s

/-- Nor does a register result (R66, R137). -/
theorem State.sameStore_applyWrite (s : State) (c : Nat) (w : RegWrite) : s.sameStore (s.applyWrite c w) := by
  cases w with
  | g r x =>
    simp only [State.applyWrite]
    split
    · exact State.sameStore_modTile s _ _ (fun _ => ⟨rfl, rfl, rfl⟩)
    · split
      · unfold State.pushLink
        split
        · exact State.sameStore_refl s
        · exact State.sameStore_modCore s _ _
      · exact State.sameStore_modCtx s _ _
  | v r m x => exact State.sameStore_modCtx s _ _
  | m r k x => exact State.sameStore_modCtx s _ _

theorem State.sameStore_goOn (s : State) : s.sameStore s.goOn := State.sameStore_modCtx s _ _
theorem State.sameStore_jumpTo (s : State) (t : Word) : s.sameStore (s.jumpTo t) := State.sameStore_modCtx s _ _

/-! The shapes of the scalar operations (R165, R167-R170). -/

theorem opRR_ok {d a b : Reg} {f : Word → Word → Word} {s : State} (h : s.canExecute) (hg : s.operandsReady [a, b] [d] true) :
    run (opRR d a b f) s = .next (s.result2 d a b f) := by
  refine run_ok h.1 ?_
  unfold opRR
  rw [bind_ok (noPrefix_ok h.2), bind_ok hg, bind_ok (readG_ok a s), bind_ok (readG_ok b _), bind_ok (writeG_ok _ _ _), next_ok]
  rfl

theorem opR_ok {d a : Reg} {f : Word → Word} {s : State} (h : s.canExecute) (hg : s.operandsReady [a] [d] true) :
    run (opR d a f) s = .next (s.result1 d a f) := by
  refine run_ok h.1 ?_
  unfold opR
  rw [bind_ok (noPrefix_ok h.2), bind_ok hg, bind_ok (readG_ok a s), bind_ok (writeG_ok _ _ _), next_ok]
  rfl

end Sys2Proof.Machine
end

