-- ==== Sys2Proof/Tests/Slice0.lean ====
section
/-! SUPPORT. Tests: the well-formedness checks, decoding of words written out from the spec's encodings, single steps with results
from the spec, and for each statement with hypotheses states and operands that meet them. -/

namespace Sys2Proof.Tests
set_option Elab.async false
open Sys2Proof Sys2Proof.Machine

/-! Small states. -/

/-- Whether an outcome is a next state with a property. -/
def nextWith (o : Host.Outcome State Fault Refusal) (p : State → Bool) : Bool := match o with | .next t => p t | _ => false

/-- A control context of tile 0 at H, about to issue at address 0 of region 0; its page maps to the first page of HBM. -/
def h0 : State := State.reset.withFetchWord 32 0

/-- General registers of the context whose turn it is. -/
def regs (s : State) (l : List (Reg × Word)) : State := l.foldl (fun s p => s.modMe (fun x => x.setGreg p.1 p.2)) s

/-- Special registers of the context whose turn it is. -/
def srs (s : State) (l : List (Nat × Word)) : State := l.foldl (fun s p => s.setSr s.cur p.1 p.2) s

/-- The same context at U, with trap vectors and every class delegated to S. -/
def u0 : State := srs (h0.modMe (fun x => { x with priv := .u })) [(0x441, 0x100), (0x801, 0x200), (0x806, 0x7F)]

/-- A comb of yard 1 that holds tiles 0 and 1, with two helper frames. -/
def comb0 : Comb :=
  { yard := 1, job := 1, tiles := [0, 1], gen := 1, floor := 1, floorWas := 1, floorAt := 0, hold := false, holdWas := false, holdAt := 0,
    bsp := false, desc := 0, homeTile := 0, homeCore := 0, frames := 2, poolBase := 1, sstep := 0, flags := 0, gains := [], gainOvf := false }

/-- The context at U on a tile of that comb. -/
def c0 : State := { u0 with combs := [comb0] }

/-- A value without the top-code bit. -/
def qv (n : Nat) : QVal := { val := BitVec.ofNat 64 n, tc := false }

/-- A task without a launch. -/
def task0 : Task :=
  { yard := 1, job := 1, launch := none, index := 0, ts := 0, data := 0, entry := 0x400, solo := false, aborts := 0, slot := 1, park := none, ctl := [] }

/-- A helper of that task with nothing buffered. -/
def helper0 : Helper := { task := task0, frame := 0, dirty := [], pages := [], reads := [], deferred := [], halting := none, amos := [] }

/-- The turn of helper slot 1 of core 0 of tile 0. -/
def t0 : State :=
  ({ c0 with cur := 1 }).setCtx 1 { (c0.ctx 0) with helper := some helper0 }

/-! Well-formedness refuses an ill-formed term of each check. -/

/-- R62, R136, R147, R168, R172, R174, R186, R190, R217: reserved operands of encoded instructions. -/
theorem test_illFormed_operands : ([
    .add 29 1 2, .bfi 24 1 2, .sel 29 1 2, .loop 0 1 4, .loop 24 1 4, .loop 3 1 0, .loop 3 1 0x8000, .bqe 23 0 4, .bqe 30 0 4, .bqe 24 2 4,
    .bqe 29 1 4, .ldv 0 1 0 0, .ldv 23 1 0 0, .cas 25 1 2 0, .mfs 29 1, .mfs 3 0x451, .mts 3 0x010, .ringRegisterWrite 3 0x205,
    .fflagsAccess false 29, .vcmp 0 0 1 2 0 0, .vswz 1 2 8 0 0, .vinsMask 0 1 0, .vred 1 2 4 0 0, .vcls 0 1 0 0 0, .vcnt 1 2 3 0 0,
    .vscan 1 2 2 0 0, .fmt 16 0 7 0 0 0, .fmt 0 16 7 0 0 0, .fmt 0 0 6 0 0 0, .vqnt 1 2 29 0 0, .enStat 29 1 0] : List Instr).all
      (fun i => !(wellFormed i)) = true := by decide

/-- R8, R11, R137, R196, R371, R385: places that the part does not have. -/
theorem test_illFormed_places : ([
    .shootdownComplete 69632, .vectorExecute 4352, .waxLoadComplete 1088, .collectiveComplete 32 0, .fillWordArrival 0 4 0 1,
    .taskDispatch 32, .launchAging 0 65536 0, .taskCommit 69632, .tagDrainComplete 65536, .eventArrival 0 32, .tlbMissRecord 64,
    .routeEntryApply 48, .pcieUnsupportedRequest 0 65536, .milayPortDown 18, .tenantCreate 32, .jobGo 0 64, .jobEnd 32 0] : List Instr).all
      (fun i => !(wellFormed i)) = true := by decide

/-- The neighbours of some of them are well-formed. -/
theorem test_wellFormed_neighbours : ([
    .add 28 1 2, .bfi 23 1 2, .sel 30 1 2, .loop 23 1 1, .bqe 24 0 4, .bqe 28 1 4, .ldv 22 1 0 0, .cas 30 1 2 0, .ringRegisterWrite 3 0x204,
    .vcmp 0 1 1 2 0 0, .vswz 1 2 7 0 0, .vred 1 2 3 0 0, .vcnt 1 2 2 0 0, .vscan 1 2 1 0 0, .fmt 15 15 7 0 0 0, .vectorExecute 4351,
    .eventArrival 1087 31, .jobGo 31 63] : List Instr).all wellFormed = true := by decide

/-! Words written out from the spec's opcode table decode to the instruction they stand for: one for every row with an encoding,
each operand at a value that no other operand of the row has where its width lets it. A word that two rows share decodes to the
first of them. -/

theorem test_decode_scalar_and_branch_1 : ([
    0x05A6A800, 0x05A6A810, 0x05A6A820, 0x05A6A830, 0x05A6A840, 0x05A6A850, 0x05A6A860, 0x05A6A870, 0x05A6A880, 0x05A6A890,
    0x05A6A8A9, 0x05A6A8B9, 0x05A6A8C9, 0x05A6A8D9] : List IWord).map decode = ([
    .add 13 6 21, .sub 13 6 21, .and 13 6 21, .or 13 6 21, .xor 13 6 21, .sll 13 6 21, .srl 13 6 21, .sra 13 6 21,
    .slt 13 6 21, .slo 13 6 21, .mul 13 6 21 9, .mulh 13 6 21 9, .mulhz 13 6 21 9, .div 13 6 21 9] : List Instr).map (fun i => .ok (firstRow i)) := by decide

theorem test_decode_scalar_and_branch_2 : ([
    0x05A6A8E9, 0x05A6A8F9, 0x05A6A909, 0x05A6A910, 0x05A6A920, 0x05A6A930, 0x05A6A940, 0x05A60150, 0x05A60160, 0x05A6A970,
    0x05A6A980, 0x05A6A990, 0x09A67A5C, 0x0DA67A5C] : List IWord).map decode = ([
    .divz 13 6 21 9, .rem 13 6 21 9, .remz 13 6 21 9, .min 13 6 21, .max 13 6 21, .minz 13 6 21, .maxz 13 6 21, .clz 13 6,
    .popc 13 6, .bfx 13 6 21, .bfi 13 6 21, .sel 13 6 21, .addi 13 6 31324, .andi 13 6 31324] : List Instr).map (fun i => .ok (firstRow i)) := by decide

theorem test_decode_scalar_and_branch_3 : ([
    0x11A67A5C, 0x15A67A5C, 0x19A67A5C, 0x1DA60025, 0x1DA60065, 0x1DA600A5, 0x21B5A5C3, 0x25B5A5C3, 0x28D58A5C, 0x2CD58A5C,
    0x30D58A5C, 0x34D58A5C, 0x38D58A5C, 0x3CD58A5C] : List IWord).map decode = ([
    .ori 13 6 31324, .xori 13 6 31324, .slti 13 6 31324, .slli 13 6 37, .srli 13 6 37, .srai 13 6 37, .lui 13 1418691,
    .auipc 13 1418691, .beq 6 21 35420, .bne 6 21 35420, .blt 6 21 35420, .bge 6 21 35420, .blo 6 21 35420, .bhs 6 21 35420] : List Instr).map (fun i => .ok (firstRow i)) := by decide

theorem test_decode_scalar_and_branch_4 : ([
    0x41B5A5C3, 0x45A67A5C, 0x49A67A5C, 0x4C060030, 0x53818A5C, 0x6C000090, 0x6C0000A0, 0x6C0000B0, 0x81A60000, 0x81A60010,
    0x81A60020, 0x81A60030, 0xA0C13540] : List IWord).map decode = ([
    .jal 13 1418691, .jalr 13 6 31324, .loop 13 6 31324, .upretVacate 6, .bqe 28 1 35420, .fenceRel 2, .fenceAcq 2,
    .fenceAr 2, .chold 13 6, .cfloor 13 6, .cload 13 6, .ccede 13 6, .mms 6 21] : List Instr).map (fun i => .ok (firstRow i)) := by decide

theorem test_decode_memory_and_atomic_1 : ([
    0x4DA6A800, 0x4C060010, 0x4DA00020, 0x4C060030, 0x55A69A89, 0x55A69A99, 0x55A69AA9, 0x55A69AB9, 0x55A69AC9, 0x55A69AD9,
    0x55A69AE9, 0x55A69AF9, 0x5AA69A80, 0x5AA69A90] : List IWord).map decode = ([
    .start 13 6 21, .halt 6, .yield 13, .upret 6, .ldB 13 6 309 9, .ldBz 13 6 309 9, .ldH 13 6 309 9, .ldHz 13 6 309 9,
    .ldW 13 6 309 9, .ldWz 13 6 309 9, .ldD 13 6 309 9, .ldRo 13 6 309 9, .stB 21 6 309, .stH 21 6 309] : List Instr).map (fun i => .ok (firstRow i)) := by decide

theorem test_decode_memory_and_atomic_2 : ([
    0x5AA69AA0, 0x5AA69AB0, 0x5AA69AC0, 0x5C060000, 0x5C460010, 0x5C460020, 0x61A69AE9, 0x6406A800, 0x65A00019, 0x64000020,
    0x65A6A839, 0x65A6A849, 0x69A6AB09, 0x69A6AB19] : List IWord).map decode = ([
    .stW 21 6 309, .stD 21 6 309, .stNt 21 6 309, .pref 6, .flush 2 6, .inval 2 6, .ldv 13 6 309 9, .vrec 6 21, .valid 13 9,
    .vclr, .casv 13 6 21 9, .cas 13 6 21 9, .amoAdd 13 6 21 1 2 9, .amoAnd 13 6 21 1 2 9] : List Instr).map (fun i => .ok (firstRow i)) := by decide

theorem test_decode_memory_and_atomic_3 : ([
    0x69A6AB29, 0x69A6AB39, 0x69A6AB49, 0x69A6AB59, 0x69A6AB69, 0x69A6A979] : List IWord).map decode = ([
    .amoOr 13 6 21 1 2 9, .amoXor 13 6 21 1 2 9, .amoMin 13 6 21 1 2 9, .amoMax 13 6 21 1 2 9, .amoSwap 13 6 21 1 2 9,
    .amoXadd 13 6 21 2 9] : List Instr).map (fun i => .ok (firstRow i)) := by decide

theorem test_decode_event_and_special_1 : ([
    0x71A60000, 0x70060010, 0x70060020, 0x71A6A830, 0x71A60040, 0x71A6A850, 0x71A00060, 0x75A008A5, 0x780608A5, 0x7C060000] : List IWord).map decode = ([
    .evw 13 6, .evs 6, .bar 6, .fillw 13 6 21, .fillt 13 6, .filla 13 6 21, .tsync 13, .mfs 13 2213, .mts 6 2213, .trap 6] : List Instr).map (fun i => .ok (firstRow i)) := by decide

theorem test_decode_vector_1 : ([
    0x86081289, 0x86081299, 0x860812A9, 0x860812B9, 0x860812C9, 0x860812D9, 0x860802E9, 0x860812F9, 0x8A081289, 0x8A080299,
    0x8A0802A9, 0x8AA812B9, 0x8A0812C9, 0x8A0812D9] : List IWord).map decode = ([
    .vadd 16 8 2 5 9, .vsub 16 8 2 5 9, .vmul 16 8 2 5 9, .vfma 16 8 2 5 9, .vfms 16 8 2 5 9, .vdiv 16 8 2 5 9,
    .vsqrt 16 8 5 9, .vmin 16 8 2 5 9, .vmax 16 8 2 5 9, .vabs 16 8 5 9, .vneg 16 8 5 9, .vcmp 2 5 8 2 5 9, .vand 16 8 2 5 9,
    .vor 16 8 2 5 9] : List Instr).map (fun i => .ok (firstRow i)) := by decide

theorem test_decode_vector_2 : ([
    0x8A0812E9, 0x8A0812F9, 0x8E081289, 0x8E081299, 0x8E0802A9, 0x8E0802B9, 0x8E0812C9, 0x8E0812D9, 0x8E080AE9, 0x8DA6A879,
    0x8DA500F9, 0x9206A809, 0x90A60089, 0x92081299] : List IWord).map decode = ([
    .vxor 16 8 2 5 9, .vshl 16 8 2 5 9, .vshr 16 8 2 5 9, .vsra 16 8 2 5 9, .vmov 16 8 5 9, .vbcast 16 8 5 9,
    .vsel 16 8 2 5 9, .vperm 16 8 2 5 9, .vswz 16 8 1 5 9, .vext 13 6 21 9, .vextMask 13 5 9, .vins 16 6 21 9,
    .vinsMask 5 6 9, .vld 16 8 2 5 9] : List Instr).map (fun i => .ok (firstRow i)) := by decide

theorem test_decode_vector_3 : ([
    0x920812A0, 0x920812B9, 0x920812C0, 0x920812D9, 0x920812E0, 0x920802F9, 0x96080289, 0x96080299, 0x960812A9, 0x96080AB9,
    0x960812C9, 0x960002D9, 0x94A89AE9, 0x960812F9] : List IWord).map decode = ([
    .vst 16 8 2 5, .vldtm 16 8 2 5 9, .vsttm 16 8 2 5, .vgath 16 8 2 5 9, .vscat 16 8 2 5, .vcvt 16 8 5 9, .vpack 16 8 5 9,
    .vunpk 16 8 5 9, .vqnt 16 8 2 5 9, .vred 16 8 1 5 9, .vdot 16 8 2 5 9, .vrng 16 5 9, .vcls 5 8 19 5 9, .vtbl 16 8 2 5 9] : List Instr).map (fun i => .ok (firstRow i)) := by decide

theorem test_decode_vector_4 : ([
    0x9A081289, 0x9A080A99, 0x9A080AA9, 0x9C213540] : List IWord).map decode = ([
    .vbfly 16 8 2 5 9, .vcnt 16 8 1 5 9, .vscan 16 8 1 5 9, .fmt 1 1 1 1 5 1] : List Instr).map (fun i => .ok (firstRow i)) := by decide

theorem test_decode_engine_and_work_1 : ([
    0x7C060010, 0x7C060010, 0x7C06A820, 0x7C06A830, 0x7C06A830, 0x7C06A830, 0x7C06A830, 0xA0003560, 0xA0013540, 0xA0023540,
    0xA0403560, 0xA0413560, 0xA0803560, 0xA0813560] : List IWord).map decode = ([
    .eret 6, .eretRestore 6, .tlbw 6 21, .tlbinvPage 6 21, .tlbinvVf 6 21, .tlbinvGpa 6 21, .tlbinvAll 6 21, .cpGo 6 21 2,
    .cpLand 6 21, .cpTm 6 21, .gaGo 6 21 2, .scGo 6 21 2, .coRed 6 21 2, .coBcast 6 21 2] : List Instr).map (fun i => .ok (firstRow i)) := by decide

theorem test_decode_engine_and_work_2 : ([
    0xA0823560, 0xA0C03540, 0xA0C23540, 0xA0C33000, 0xA0C48549, 0xA0C58540, 0xA0C63540, 0xA0C73000, 0xA0C73000, 0xA0C73000,
    0xA0C83540, 0xA0C83540, 0xA0C83540, 0xA0C90000] : List IWord).map decode = ([
    .coAr 6 21 2, .mm 6 21, .mmp 6 21, .mzero 6, .macr 16 21 9, .macw 16 21, .macst 6 21, .mcmdCheck 6, .mcmdZall 6,
    .mcmdPcancel 6, .mringPop 6 21, .mringPush 6 21, .mringReset 6 21, .mwait] : List Instr).map (fun i => .ok (firstRow i)) := by decide

theorem test_decode_engine_and_work_3 : ([
    0xA1003540, 0xA1013540, 0xA1023540, 0xA1033540, 0xA1043540, 0xA1403000, 0xA1413540, 0xA1803540, 0xA1813000, 0xA1823540,
    0xA1833000, 0xA1846D49, 0xA3C06D49, 0xA60812D9] : List IWord).map decode = ([
    .lnTask 6 21, .lnGraph 6 21, .lnPhase 6 21, .lnCancel 6 21, .lnWait 6 21, .rpRec 6, .rpRun 6 21, .wxld 6 21, .wxrel 6,
    .wxstm 6 21, .wxdet 6, .wxqry 13 21 9, .enStat 13 21 9, .wax 16 8 2 5 5 9] : List Instr).map (fun i => .ok (firstRow i)) := by decide

/-- R166, R168, R174, R182, R192, R206, R207, R309: the words that the spec's own text gives as examples. -/
theorem test_decode_spec_examples : ([0x4926_0003, 0x7C00_0010, 0x7C02_0010, 0x7C05_0000, 0, 1] : List IWord).map decode =
    [.ok (.loop 9 6 3), .ok (.eret 0), .ok (.eret 2), .ok (.trap 5), .zeroWord, .reserved] := by decide

/-! Witnesses: the device. -/

/-- StepRunsTheDecodedInstruction: a device whose only choice is the end of its calendar cycle. -/
def idle : State := { State.reset with mgmt := { State.reset.mgmt with boot := 6 } }
theorem witness_step_idle : idle.running ∧ idle.choices = [.tick] := ⟨⟨rfl, rfl, by decide, rfl⟩, rfl⟩
/-- A tile whose switch to fixed timing is due. -/
def switching : State := idle.modTile 0 (fun x => { x with pinDue := some 0 })
theorem witness_step_timed : switching.mgmt.powered = true ∧ switching.mgmt.boot = 6 ∧ switching.agenda.head? ≠ some .waggleBoundary ∧
    switching.timed = some (.row (.pinSwitchComplete 0)) := ⟨rfl, rfl, by decide, by decide⟩
def addi37 : State := State.reset.withFetchWord 32 0x0860_0007
/-- A context in its core's cycle that is about to issue ADDI g3, g0, 7, and one at ADDI g3, qe, 7 whose queue is empty. -/
def addiTurn : State := { addi37.cycleBegun 0 with cur := 0 }
def popTurn : State := { (State.reset.withFetchWord 32 0x0879_0007).cycleBegun 0 with cur := 0 }
theorem witness_step_turn : addi37.running ∧ addi37.choices = [.turn 0] ∧ (addiTurn.ctx 0).owed = none ∧ (addiTurn.ctx 0).issued = none ∧ addiTurn.stalled 0 = false ∧ addiTurn.boundary 0 = none ∧
    prologue addiTurn = .ok 0x0860_0007 addiTurn ∧ decode 0x0860_0007 = .ok (.addi 3 0 7) ∧
    nextWith (exec (.addi 3 0 7) addiTurn) (fun v => (v.ctx 0).wait == .none) = true :=
  ⟨⟨rfl, rfl, by decide, rfl⟩, rfl, rfl, rfl, rfl, rfl, rfl, rfl, rfl⟩
theorem witness_step_wait : popTurn.stalled 0 = false ∧ popTurn.boundary 0 = none ∧ prologue popTurn = .ok 0x0879_0007 popTurn ∧
    decode 0x0879_0007 = .ok (.addi 3 25 7) ∧ nextWith (exec (.addi 3 25 7) popTurn) (fun v => (v.ctx 0).wait == .pop) = true :=
  ⟨rfl, rfl, rfl, rfl, rfl⟩
/-- A context that is about to issue EVW g3, g1 with nothing pending issues it and waits; once its line has come, it goes on. -/
def evwTurn : State := { (regs (State.reset.withFetchWord 32 0x7061_0000) [(1, 0x20)]).cycleBegun 0 with cur := 0 }
theorem witness_step_begins : evwTurn.stalled 0 = false ∧ evwTurn.boundary 0 = none ∧ prologue evwTurn = .ok 0x7061_0000 evwTurn ∧
    decode 0x7061_0000 = .ok (.evw 3 1) ∧ nextWith (exec (.evw 3 1) evwTurn) (fun v => (v.ctx 0).wait == .evw) = true ∧ WaitKind.evw.issued = true :=
  ⟨rfl, rfl, rfl, rfl, rfl, rfl⟩
def evwWaits : State := (evwTurn.modMe (fun x => { x with wait := .evw, issued := some (.evw 3 1) })).modTile 0 (fun t => { t with ev := 0x20 })
theorem witness_resume : (evwWaits.ctx 0).owed = none ∧ (evwWaits.ctx 0).issued = some (.evw 3 1) ∧ evwWaits.boundary 0 = none ∧
    nextWith (exec (.evw 3 1) { evwWaits with cur := 0 }) (fun v => v.me.pc == 4) = true := ⟨rfl, rfl, rfl, rfl⟩
/-- R9: an instruction that has issued is resumed, and a calendar cycle ends when no core is due. -/
theorem test_resume : (evwWaits.resume 0).me.pc = 4 ∧ (evwWaits.resume 0).me.greg 3 = 0x20 := by decide
theorem witness_dueCores : idle.dueCores = [] ∧ addi37.dueCores = [0] := ⟨rfl, rfl⟩
/-- Two choices: two contexts that can issue. -/
def twoTurns : State := { addi37 with ctxs := [(0, addi37.ctx 0), (64, addi37.ctx 0)] }
theorem witness_step_choice : twoTurns.running ∧ twoTurns.choices = [.turn 0, .turn 4] := ⟨⟨rfl, rfl, by decide, rfl⟩, rfl⟩
/-- R167, R144: the instruction placed in memory runs in one step. -/
theorem test_step_addi : nextWith (step addi37) (fun t => t.me.greg 3 == 7 && t.me.pc == 4) = true := by decide

/-- InstructionsAreFetchedAndDecoded: a fetch from shared memory, one of a TSC, a failed check, an odd address, and the zero word. -/
theorem witness_fetch_shared : ∃ l, h0.atShared h0.me.pc 4 .fetch l h0 ∧ paSpace l.pa = 0 ∧ h0.unowned l.pa := ⟨_, rfl, rfl, rfl⟩
def tsc0 : State :=
  ({ h0 with cur := 1024 * 64, ctxs := [] }).setCtx (1024 * 64) { (h0.ctx 0) with pc := 0xF000000000000000 }
theorem witness_fetch_tsc : tsc0.atTm tsc0.me.pc 4 .fetch := rfl
theorem witness_fetch_failed : checkPtr (h0.modMe (fun x => { x with pc := 0x0100000000000000 })) 0 0x0100000000000000 4 .fetch = some .pointerFormat := by
  decide
theorem witness_fetch_odd : (2 : Word).toNat % 4 ≠ 0 ∧ ptrTag 2 < 14 ∧ (2 : Word).extractLsb' 56 4 = 0 := by decide
theorem witness_undecodable : prologue h0 = .ok 0 h0 ∧ h0.me.live = true ∧ h0.canClose ∧ decode 0 = .zeroWord ∧ decode 1 = .reserved :=
  ⟨rfl, rfl, rfl, rfl, rfl⟩

/-- ADD with a reserved destination has a row and a reserved field: with a prefix, and without one; MFS of a register of S at U. -/
def illFormed (w : Nat) (p : Priv) (pfx : Word) : State :=
  (State.reset.withFetchWord 32 w).modMe (fun x => { (x.setSreg 0x024 pfx) with priv := p })
theorem witness_reservedFields : (illFormed 1 .h 0).me.live = true ∧ prologue (illFormed 1 .h 0) = .ok 1 (illFormed 1 .h 0) ∧ (illFormed 1 .h 0).canClose ∧
    decodeRow 1 = none ∧ decode 1 = .reserved ∧
    prologue (illFormed 0x07A11000 .h (1#64 <<< 63)) = .ok 0x07A11000 (illFormed 0x07A11000 .h (1#64 <<< 63)) ∧
    decodeRow 0x07A11000 = some (.add 29 1 2) ∧ vInfo (.add 29 1 2) = none ∧ decode 0x07A11000 = .reserved ∧
    ((illFormed 0x07A11000 .h (1#64 <<< 63)).modMe (fun x => x.setSreg 0x024 0)).canClose ∧
    decodeRow 0x77A00440 = some (.mfs 29 0x440) ∧ decode 0x77A00440 = .reserved ∧
    srCheck 0x440 (illFormed 0x77A00440 .u 0) = .error (.trap .privilege 0x440) (illFormed 0x77A00440 .u 0) :=
  ⟨rfl, rfl, rfl, by decide, by decide, rfl, by decide, by decide, by decide, rfl, by decide, by decide, rfl⟩
/-- DecodeOfEncodeIsTheInstruction, EncodeOfDecodeIsTheWord, EveryStepKeepsMemoryCanonical. -/
theorem witness_encode : wellFormed (.addi 3 0 7) = true ∧ encode (.addi 3 0 7) = some 0x0860_0007 := by decide
theorem witness_memoryOk : addi37.memoryOk ∧ nextWith (step addi37) (fun t => decide (Memory.wf t.mem = true)) = true := ⟨⟨rfl, rfl⟩, by decide⟩

/-! Witnesses: exceptions. -/

/-- TrapEntrySavesAndVectors, to S and to H. -/
theorem witness_trapEntry : isHelperSlot (cidSlot 0) = false ∧ (u0.ctx 0).goesToH .reserved = false ∧ (u0.ctx 0).inTrap false = false ∧
    (u0.ctx 0).sreg 0x441 ≠ 0 ∧ (u0.ctx 0).goesToH .stage2 = true ∧ (u0.ctx 0).inTrap true = false ∧ (u0.ctx 0).sreg 0x801 ≠ 0 := by decide
/-- R306: entry to S. -/
theorem test_trapEntry : (let y := ((u0.deliver 0 How.now .userTrap 0x40 7).ctx 0)
    y.pc = 0x100 ∧ y.priv = .s ∧ y.sreg 0x442 = 0x40 ∧ y.sreg 0x443 = 0x085 ∧ y.sreg 0x444 = 7 ∧ y.sreg 0x440 = 0x80) := by decide

/-- CausesGoToTheirLevelOrTask: class 7, H, a stage-2 fault, a delegated class; a double trap; the two fatal cases; a task's fault. -/
theorem witness_causeLevels : Cause.memError.code / 64 = 7 ∧ h0.me.priv = .h ∧ Cause.reserved.code / 64 ≠ 7 ∧ u0.me.priv ≠ .h ∧
    Cause.reserved ≠ .stage2 := by decide
/-- A context in a trap at S; one in a trap at H; one without vectors. -/
def inS : State := srs u0 [(0x440, 0x80)]
def inH : State := srs h0 [(0x800, 0x80), (0x801, 0x200)]
theorem witness_doubleTrap : (inS.ctx 0).goesToH .reserved = false ∧ (inS.ctx 0).inTrap false = true ∧ (inS.ctx 0).inTrap true = false ∧
    (inS.ctx 0).sreg 0x801 ≠ 0 := by decide
theorem witness_fatal : cidSlot 0 = 0 ∧ isTsc 0 = false ∧ (inH.ctx 0).goesToH .reserved = true ∧ (inH.ctx 0).inTrap true = true ∧
    (h0.ctx 0).inTrap true = false ∧ (h0.ctx 0).sreg 0x801 = 0 := by decide
/-- R305: the double trap and the fatal cause. -/
theorem test_doubleTrap : (let y := (inS.deliver 0 How.now .reserved 0x40 0).ctx 0; y.pc = 0x200 ∧ y.priv = .h ∧ y.sreg 0x803 = 0x1C2) := by decide
set_option maxRecDepth 20000 in
theorem test_fatal : (let t := inH.deliver 0 How.now .reserved 0x40 0
    (t.ctx 0).live = false ∧ (t.core 0).handler = true ∧ (t.ctx 11).sreg 0x803 = 0x1C2) := by decide
theorem witness_taskFault : (t0.ctx 1).helper = some helper0 ∧ isHelperSlot (cidSlot 1) = true ∧ (t0.ctx 0).records.length < 8 ∧
    8 ≤ ((t0.modCtx 0 (fun x => { x with records := List.replicate 8 ⟨.reserved, 0, 0, false⟩ })).ctx 0).records.length := by decide
/-- The same helper, with its control context saved into the frame at 0x4000 of tile 0. -/
def bossSaved : State :=
  let s : State := { t0 with saved := [(t0.tagOf 0, t0.yardOf 0, t0.jobOf 0)], kept := [(t0.tagOf 0,
    some { srs := [], gainTaken := false, repPc := 0, susp := [], place := some (.tm 0 0x4000) })] }
  s.modCtx 0 (fun x => { x with live := false })
set_option maxRecDepth 20000 in
theorem witness_taskFaultSaved : (bossSaved.ctx 1).helper = some helper0 ∧ (bossSaved.ctx 0).live = false ∧
    bossSaved.saved.contains (bossSaved.tagOf 0, bossSaved.yardOf 0, bossSaved.jobOf 0) = true ∧
    (bossSaved.keptOf (bossSaved.tagOf 0)).bind (fun k => k.place) = some (.tm 0 0x4000) ∧
    (bossSaved.endTask 1).frameGet (.tm 0 0x4000) 0 / 2 ^ 52 % 16 < 8 ∧
    8 ≤ ((bossSaved.setTmBytes 0 0 0x4006 [0x80]).endTask 1).frameGet (.tm 0 0x4000) 0 / 2 ^ 52 % 16 := by decide
set_option maxRecDepth 20000 in
/-- R314: the record of a saved context is counted in its frame's header, and stands at 0x2C0. -/
theorem test_taskFaultSaved : (let t := bossSaved.deliver 1 How.now .reserved 0 0
    t.frameGet (.tm 0 0x4000) 0 = 2 ^ 52 ∧ t.frameGet (.tm 0 0x4000) 0x2C0 % 2 ^ 16 = 0x081) := by decide
/-- R314: a task's fault is a record of its core's control context, and its slot is free. -/
theorem test_taskFault : (let t := t0.deliver 1 How.now .reserved 0 0
    (t.ctx 1).live = false ∧ (t.ctx 0).records = [{ cause := .reserved, launch := 0, index := 0, toH := false }]) := by decide

/-- ReturnFromTrapRestores: a return at S, and the refusals at U and of an operand outside the handler. -/
def atS : State := srs (u0.modMe (fun x => { x with priv := .s, susp := [(0, 0x20), (1, 0x8000000000030004)] })) [(0x440, 0x80), (0x442, 0x24)]
theorem witness_return : atS.canExecuteClosed ∧ atS.closed.me.priv ≠ .u ∧ cidSlot atS.cur ≠ 11 ∧ atS.closed.operandsReady [0] [] true ∧
    (atS.closed.read 0).1 = 0 ∧ (atS.closed.me.sreg 0x440).extractLsb' 4 2 ≠ 3 :=
  ⟨⟨rfl, rfl, rfl, rfl⟩, by decide, by decide, rfl, rfl, by decide⟩
theorem witness_returnRefused : u0.canExecuteClosed ∧ u0.closed.canClose ∧ u0.me.priv = .u ∧ (regs atS [(2, 8)]).canExecuteClosed ∧
    (regs atS [(2, 8)]).closed.operandsReady [2] [] true ∧ ((regs atS [(2, 8)]).closed.read 2).1 ≠ 0 ∧
    ((regs atS [(2, 8)]).closed.read 2).2.canClose :=
  ⟨⟨rfl, rfl, rfl, rfl⟩, rfl, rfl, ⟨rfl, rfl, rfl, rfl⟩, rfl, by decide, rfl⟩
/-- R309: ERET g0 brings back the privilege, the address and the loop; R174: a loop without the address in its body ends. -/
theorem test_eret : nextWith (exec (.eret 0) atS) (fun t => t.me.pc == 0x24 && t.me.priv == .u && t.me.sreg 0x031 == 0x8000000000030004 &&
    t.me.sreg 0x440 == 0x40) = true := by decide
theorem test_eret_outside : nextWith (exec (.eret 0) (srs atS [(0x442, 0x30)])) (fun t => t.me.pc == 0x30 && t.me.sreg 0x031 == 0x30004) = true := by
  decide

/-- TrapRaisesTheUserTrap. -/
theorem witness_trap : u0.canExecuteClosed ∧ u0.closed.operandsReady [5] [] true ∧ isHelperSlot (cidSlot u0.cur) = false ∧
    u0.me.looping = false ∧ u0.closed.me.goesToH .userTrap = false ∧ u0.closed.me.inTrap false = false ∧ u0.closed.me.sreg 0x441 ≠ 0 :=
  ⟨⟨rfl, rfl, rfl, rfl⟩, rfl, rfl, rfl, rfl, rfl, by decide⟩
/-- R207: TRAP g5. -/
theorem test_trap : nextWith (exec (.trap 5) (regs u0 [(5, 9)])) (fun t => t.me.pc == 0x100 && t.me.sreg 0x442 == 4 && t.me.sreg 0x443 == 0x085 &&
    t.me.sreg 0x444 == 9) = true := by decide

/-! Witnesses: scalar instructions. -/

/-- A queue with a value for a source, and one with room for a destination. -/
def q0 : State := (c0.modCore 0 (fun k => { k with qe := [qv 5, qv 6] })).modTile 0 (fun t => { t with qk := [qv 7], ev := 0x50 })
/-- RegisterAndImmediateFormsWriteTheirResult, LongFormsDeliverAtTheirWindow, ScalarFormsChangeOnlyTheirDestination: plain
registers, a popped source, and a pushed destination. -/
theorem witness_registerForms : u0.canExecute ∧ u0.operandsReady [1, 2] [3] true ∧ u0.operandsReady [1, 2] [] true ∧
    u0.operandsReady [1] [3] true ∧ u0.operandsReady [] [3] true ∧ q0.operandsReady [25, 28] [25] true ∧ q0.canExecute ∧
    u0.operandsReady [1, 2] [3] false :=
  ⟨⟨rfl, rfl⟩, rfl, rfl, rfl, rfl, rfl, ⟨rfl, rfl⟩, rfl⟩
/-- A window about to close. -/
def w0 : State := u0.modMe (fun x => { x with windows := [{ last := 3, seq := none, ready := true, writes := [.g 4 9], replay := false }] })
theorem witness_window : ∃ w, w0.me.windows = [w] ∧ w.writes = [.g 4 9] ∧ isQueue 4 = false := ⟨_, rfl, rfl, rfl⟩
/-- Two windows that write one register: one opened with la 1 and the next with la 0 close together. -/
def w2 : State :=
  u0.modMe (fun x => { x with windows :=
    [{ last := 3, seq := none, ready := true, writes := [.g 4 9], replay := false },
     { last := 3, seq := none, ready := true, writes := [.g 4 8], replay := false }] })
theorem witness_windows : ∃ v w, w2.me.windows = [v, w] ∧ v.writes = [.g 4 9] ∧ w.writes = [.g 4 8] ∧ isQueue 4 = false ∧ ¬w.last < v.last :=
  ⟨_, _, rfl, rfl, rfl, rfl, by decide⟩
/-- R153: the one opened later writes last. -/
theorem test_windows : w2.closed.me.greg 4 = 8 := by decide

def ab : State := regs u0 [(1, 0xFFFFFFFFFFFFFFFD), (2, 2)]
/-- R167, R168: results by hand, from −3 and 2. -/
theorem test_scalar_register : ([
    (.add 3 1 2, 0xFFFFFFFFFFFFFFFF), (.sub 3 2 1, 5), (.and 3 1 2, 0), (.or 3 1 2, 0xFFFFFFFFFFFFFFFF), (.xor 3 1 1, 0), (.sll 3 1 2, 0xFFFFFFFFFFFFFFF4),
    (.srl 3 1 2, 0x3FFFFFFFFFFFFFFF), (.sra 3 1 2, 0xFFFFFFFFFFFFFFFF), (.slt 3 1 2, 1), (.slo 3 1 2, 0), (.mul 3 1 2 0, 0xFFFFFFFFFFFFFFFA),
    (.mulh 3 1 2 0, 0xFFFFFFFFFFFFFFFF), (.mulhz 3 1 2 0, 1), (.div 3 1 2 0, 0xFFFFFFFFFFFFFFFF), (.divz 3 1 2 0, 0x7FFFFFFFFFFFFFFE),
    (.rem 3 1 2 0, 0xFFFFFFFFFFFFFFFF), (.remz 3 1 2 0, 1), (.min 3 1 2, 0xFFFFFFFFFFFFFFFD), (.max 3 1 2, 2), (.minz 3 1 2, 2),
    (.maxz 3 1 2, 0xFFFFFFFFFFFFFFFD), (.clz 3 2, 62), (.popc 3 1, 63), (.div 3 1 0 0, 0xFFFFFFFFFFFFFFFF), (.rem 3 1 0 0, 0xFFFFFFFFFFFFFFFD)] :
    List (Instr × Word)).all (fun p => nextWith (exec p.1 ab) (fun t => t.closed.me.greg 3 == p.2 && t.me.pc == 4)) = true := by decide
/-- R168, R169: B = 0x10704 names the eight bits from 4 on, sign-extended. -/
theorem test_scalar_fields : ([
    (.bfx 3 5 6, 0xFFFFFFFFFFFFFFBC), (.bfi 7 6 6, 0x00000040), (.sel 7 5 6, 0x10704), (.addi 3 1 0xFFFF, 0xFFFFFFFFFFFFFFFC), (.andi 3 1 0xFFFF, 0xFFFD),
    (.ori 3 2 0x8000, 0x8002), (.xori 3 1 0xFFFF, 0xFFFFFFFFFFFF0002), (.slti 3 1 0, 1), (.slli 3 2 63, 0), (.srli 3 1 63, 1), (.srai 3 1 63, 0xFFFFFFFFFFFFFFFF),
    (.lui 3 0x100000, 0xFFFFFFF000000000), (.auipc 3 1, 0x10000)] : List (Instr × Word)).all
      (fun p => nextWith (exec p.1 (regs ab [(5, 0xABCD), (6, 0x10704)])) (fun t => t.me.greg (if p.1 = .bfi 7 6 6 ∨ p.1 = .sel 7 5 6 then 7 else 3) == p.2)) = true := by
  decide
/-- R152: with la above 0 the result waits for its window. -/
theorem test_window : nextWith (exec (.mul 3 1 2 2) ab) (fun t => t.me.greg 3 == 0 && t.closed.me.greg 3 == 0xFFFFFFFFFFFFFFFA) = true := by decide

/-- BranchesAndJumpsGoToTheirTarget: an operand ready, both tests of BQE, and a target off a multiple of 4. -/
theorem witness_branch : u0.operandsReady [1, 2] [] true ∧ u0.operandsReady [] [3] true ∧ u0.operandsReady [1] [3] true ∧
    (BitVec.ofInt 64 (((regs u0 [(1, 2)]).read 1).1.toNat + (0 : BitVec 16).toInt)).toNat % 4 ≠ 0 ∧ ((regs u0 [(1, 2)]).read 1).2.canClose :=
  ⟨rfl, rfl, rfl, by decide, rfl⟩
/-- R171-R173, from address 0: −1 instruction, taken or not. -/
theorem test_branches : ([
    (.beq 1 1 0xFFFF, 0xFFFFFFFFFFFFFFFC), (.bne 1 1 0xFFFF, 4), (.blt 1 2 0x10, 0x40), (.bge 1 2 0x10, 4), (.blo 1 2 0x10, 4), (.bhs 1 2 0x10, 0x40),
    (.bqe 24 0 0x10, 0x40), (.bqe 28 1 0x10, 4), (.jal 3 0x1FFFFF, 0xFFFFFFFFFFFFFFFC), (.jalr 3 2 2, 4)] : List (Instr × Word)).all
      (fun p => nextWith (exec p.1 ab) (fun t => t.me.pc == p.2)) = true := by decide

/-- LoopsCountTheirBody: a LOOP that starts, one that skips, one inside a loop, and the end of a body with counts 2 and 1. -/
def inLoop (n : Word) : State := regs (srs (u0.modMe (fun x => { x with pc := 0x2C })) [(0x030, 0x20), (0x031, 0x8000000000030004)]) [(3, n)]
theorem witness_loop : u0.canExecute ∧ (3 : Reg) ≠ 0 ∧ (3 : Reg).toNat < 24 ∧ 1 ≤ (4 : BitVec 16).toInt ∧ (u0.me.sreg 0x031).getLsbD 63 = false ∧
    u0.operandsReady [1] [] true ∧ (u0.read 1).1 = 0 ∧ (ab.read 1).1 ≠ 0 ∧ ab.operandsReady [1] [] true ∧
    ((inLoop 2).me.sreg 0x031).getLsbD 63 = true ∧ (inLoop 2).canClose :=
  ⟨⟨rfl, rfl⟩, by decide, by decide, by decide, rfl, rfl, rfl, by decide, rfl, rfl, rfl⟩
theorem witness_loopEnd : ((inLoop 2).me.sreg 0x031).extractLsb' 16 5 ≠ 0 ∧ (inLoop 2).me.looping = true ∧
    (inLoop 2).me.pc + 4 = (inLoop 2).me.loopEnd ∧ 1 < ((inLoop 2).me.greg 3).toNat ∧ ((inLoop 1).me.greg 3).toNat ≤ 1 ∧
    (((inLoop 2).modMe (fun x => { x with pc := 0x20 })).me.pc + 4 ≠ (inLoop 2).me.loopEnd) := by decide
/-- R174: two rounds left, one round left, and a LOOP with a zero count. -/
theorem test_loop : (((inLoop 2).me.advance 0).pc = 0x20 ∧ ((inLoop 2).me.advance 0).greg 3 = 1 ∧ ((inLoop 1).me.advance 0).pc = 0x30 ∧
    ((inLoop 1).me.advance 0).sreg 0x031 = 0x30004) := by decide
theorem test_loop_start : nextWith (exec (.loop 3 2 4) ab) (fun t => t.me.greg 3 == 2 && t.me.sreg 0x031 == 0x8000000000030004 && t.me.pc == 4) = true ∧
    nextWith (exec (.loop 3 0 4) ab) (fun t => t.me.pc == 0x14) = true := by decide

/-! Witnesses: queues and events. -/

/-- QueuesLetAnInstructionIssue and QueuesDeliverInOrder: values held, an empty queue, a value with another top-code bit, and one in
flight. -/
theorem witness_queues : q0.peek 25 = [qv 5, qv 6] ∧ (q0.tile q0.myTile).qk = [qv 7] ∧ isQueue 3 = false ∧ isQueue 24 = true ∧ q0.peek 24 = [] ∧
    q0.canExecute ∧ q0.canClose := ⟨rfl, rfl, rfl, rfl, rfl, ⟨rfl, rfl⟩, rfl⟩
def q1 : State := q0.modCore 0 (fun k => { k with qs := [{ val := 1, tc := true }], flight := [⟨.n, qv 1, none⟩, ⟨.e, qv 2, some 0⟩, ⟨.e, qv 3, some 1⟩] })
theorem witness_topCode : q1.canExecute ∧ q1.canClose ∧ q1.peek 26 = [{ val := 1, tc := true }] ∧ true ≠ q1.me.tc := ⟨⟨rfl, rfl⟩, rfl, rfl, by decide⟩
theorem witness_flight : pushCore 0 .e = some 4 ∧ (q1.core 0).spill = none ∧ (q1.core 0).flight = [⟨.n, qv 1, none⟩] ++ ⟨.e, qv 2, some 0⟩ :: [⟨.e, qv 3, some 1⟩] ∧
    (∀ p ∈ [(⟨.n, qv 1, none⟩ : Flight)], p.dir ≠ .e) ∧ 0 ≤ q1.cal := by decide
/-- A value that is not due yet; one that waits for its slot, which its sender's yard may not use, or may. -/
def flying (due : Option Nat) (b : Nat) : State :=
  { (c0.modCore 0 (fun k => { k with flight := [⟨.e, qv 2, due⟩] })) with calApplied := [(1 * 0x200 + 3 * 0x40, b), (1 * 0x200 + 3 * 0x40 + 1, b)] }
theorem witness_departure : (flying (some 1) 0).cal < 1 ∧ neighbour (coreTile 0) .e = some 1 ∧
    ({ flying none 62 with cal := 1 } : State).mayLeaveIn ((flying none 62).yardOf 1) 1 (dirNum (dirOpp .e)) = false ∧
    ({ flying none 63 with cal := 1 } : State).mayLeaveIn ((flying none 63).yardOf 1) 1 (dirNum (dirOpp .e)) = true := by decide
/-- R136, R299: a pop, a wait on an empty queue, a top-code mismatch and an arrival. -/
theorem test_pop : nextWith (exec (.add 3 25 25) q0) (fun t => t.me.greg 3 == 11 && t.peek 25 == [] && t.me.pc == 4) = true ∧
    nextWith (exec (.add 3 24 1) q0) (fun t => t.me.wait == .pop && t.me.pc == 0 && t.peek 25 == [qv 5, qv 6]) = true ∧
    nextWith (exec (.add 3 26 0) q1) (fun t => t.me.pc == 0x100 && t.me.sreg 0x443 == 0x008 && (t.peek 26).length == 1) = true := by decide
theorem test_linkArrival : nextWith (exec (.linkValueArrival 0 .e) q1) (fun t => (t.core 0).qe == [qv 5, qv 6, qv 2] &&
    (t.core 0).flight == [⟨.n, qv 1, none⟩, ⟨.e, qv 3, some 1⟩]) = true ∧
    ((flying none 63).tick.core 0).flight = [⟨.e, qv 2, some 4⟩] ∧ ((flying none 62).tick.core 0).flight = [⟨.e, qv 2, none⟩] := by decide
/-- R137: a push to the east is in flight toward the west queue of the core of the same number on tile 1. -/
theorem test_push : nextWith (exec (.add 25 0 0) c0) (fun t => (t.core 4).flight == [⟨.w, qv 0, none⟩]) = true ∧
    nextWith (exec (.add 24 0 0) c0) (fun t => t.me.sreg 0x443 == 0x161) = true := by decide

/-- PopOfEvTakesTheLowestLine. -/
theorem witness_ev : q0.pendingLines ≠ 0 := by decide
def waiting (k : WaitKind) (op : Word) : State := c0.modMe (fun x => { x with wait := k, waitOp := op })
theorem witness_evWait : (waiting .pop 29).me.live = true ∧ (waiting .pop 29).me.wait = .pop ∧ (waiting .pop 29).me.waitOp = 29 ∧
    cidSlot (waiting .pop 29).cur < 12 ∧ (waiting .pop 29).me.waitsLine (waiting .pop 29).cal 3 = true ∧
    ((waiting .pop 29).modMe (fun x => { x with got := 1 })).me.waitsLine 0 3 = false := by decide
/-- R198: lines 4 and 6 are pending. -/
theorem test_ev : nextWith (exec (.add 3 29 0) q0) (fun t => t.me.greg 3 == 4 && (t.tile 0).ev == 0x40) = true := by decide

/-- EventsReachTheirWaiters: a line that nothing waits on, and one that an EVW waits on. -/
theorem witness_noWaiter : ∀ c, (c0.ctx c).waitsLine c0.cal 3 = false := by
  intro c
  by_cases h : c = 0
  · subst h; decide
  · have e : c0.ctx c = Ctx.reset := by
      show SMap.get (fun _ => Ctx.reset) c0.ctxs c = Ctx.reset
      have : c0.ctxs = [(0, c0.ctx 0)] := by decide
      rw [this]; simp [SMap.get, Ne.symm h]
    rw [e]; decide
theorem witness_waiter : cidTile 0 = 0 ∧ cidSlot 0 < 12 ∧ ((waiting .evw 8).ctx 0).waitsLine (waiting .evw 8).cal 3 = true := by decide
theorem witness_noPop : ∀ d, ((waiting .evw 8).ctx d).wait ≠ .pop := by
  intro c
  by_cases h : c = 0
  · subst h; decide
  · have e : (waiting .evw 8).ctx c = Ctx.reset := by
      show SMap.get (fun _ => Ctx.reset) (waiting .evw 8).ctxs c = Ctx.reset
      have : (waiting .evw 8).ctxs = [(0, (waiting .evw 8).ctx 0)] := by decide
      rw [this]; simp [SMap.get, Ne.symm h]
    rw [e]; decide
theorem test_eventArrival : nextWith (exec (.eventArrival 0 3) c0) (fun t => (t.tile 0).ev == 8) = true ∧
    nextWith (exec (.eventArrival 0 3) (waiting .evw 8)) (fun t => (t.ctx 0).got == 8 && (t.tile 0).ev == 0) = true := by decide
/-- EVW with a line, without one, with a zero mask; EVS to the own tile, with a reserved bit, to a tile out of reach. -/
def ev0 : State := regs q0 [(1, 0x10), (2, 0x02), (3, 0x100000000), (4, 0x20), (5, 0x58000)]
theorem witness_evw : ev0.canExecuteClosed ∧ ev0.closed.operandsReady [1] [6] false ∧ (ev0.closed.read 1).2.operandsReady [] [6] true ∧
    (ev0.closed.read 1).2.pendingLines &&& ((ev0.closed.read 1).1).setWidth 32 ≠ 0 ∧ ev0.closed.operandsReady [2] [6] false ∧
    (ev0.closed.read 2).2.pendingLines &&& ((ev0.closed.read 2).1).setWidth 32 = 0 ∧ ev0.closed.operandsReady [3] [6] false ∧
    ((ev0.closed.read 3).1).extractLsb' 32 32 ≠ 0 ∧ (ev0.closed.read 3).2.canClose :=
  ⟨⟨rfl, rfl, rfl, rfl⟩, rfl, rfl, by decide, rfl, by decide, rfl, by decide, rfl⟩
theorem witness_evs : ev0.canExecute ∧ ev0.operandsReady [0] [] true ∧ (ev0.read 0).2.reaches 0 0 = true ∧ (ev0.read 0).2.inTask = false ∧
    (ev0.read 4).1 &&& ~~~(0x03FF801F : Word) ≠ 0 ∧ (ev0.read 5).1 &&& ~~~(0x03FF801F : Word) = 0 ∧ (ev0.read 5).1.getLsbD 15 = true ∧
    (ev0.read 5).2.reaches 0 5 = false ∧ (ev0.read 5).2.canClose := ⟨⟨rfl, rfl⟩, rfl, rfl, rfl, by decide, by decide, rfl, rfl, rfl⟩
theorem test_evw : nextWith (exec (.evw 6 1) ev0) (fun t => t.me.greg 6 == 0x10 && (t.tile 0).ev == 0x40) = true ∧
    nextWith (exec (.evw 6 2) ev0) (fun t => t.me.wait == .evw && t.me.pc == 0) = true ∧
    nextWith (exec (.evw 6 3) ev0) (fun t => t.me.sreg 0x443 == 0x100) = true := by decide
theorem test_evs : nextWith (exec (.evs 0) ev0) (fun t => t.agenda == [.eventArrival 0 0]) = true ∧
    nextWith (exec (.evs 5) ev0) (fun t => t.me.sreg 0x443 == 0x161) = true := by decide

/-- FillWordsCountAndAnswer: at offset 0x100 a word with target 8, count 6, generation 3 and each kind of flags. -/
def fill (flags : Nat) : State := regs ((c0.setFill 0 0 0x100 { target := 8, count := 6, gen := 3, flags := flags })) [(1, 0xF000000000000100), (2, 3), (4, 5)]
theorem witness_fill : ((fill 0x200).fillAt 0 0 0x100).malformed = true ∧ ((fill 3).fillAt 0 0 0x100).malformed = false ∧
    ((fill 3).fillAt 0 0 0x100).target ≠ 0 ∧ ((fill 3).fillAt 0 0 0x100).target ≤ ((fill 3).fillAt 0 0 0x100).count + 20 ∧
    ((fill 3).fillAt 0 0 0x100).rearm = true ∧ ((fill 3).fillAt 0 0 0x100).enabled = true ∧ ((fill 0).fillAt 0 0 0x100).rearm = false ∧
    ((fill 0).fillAt 0 0 0x100).malformed = false ∧ ((fill 0).fillAt 0 0 0x100).count + 1 < ((fill 0).fillAt 0 0 0x100).target := by decide
/-- R101: 26 bytes make three generations of eight; a single-shot word passes its target; a word below it only counts. -/
theorem test_fill : nextWith (exec (.fillWordArrival 0 0 0x100 20) (fill 3)) (fun t => t.fillAt 0 0 0x100 == { target := 8, count := 2, gen := 6, flags := 3 } &&
      (t.tile 0).ev == 1) = true ∧
    nextWith (exec (.fillWordArrival 0 0 0x100 3) (fill 0)) (fun t => t.fillAt 0 0 0x100 == { target := 8, count := 9, gen := 4, flags := 256 }) = true ∧
    nextWith (exec (.fillWordArrival 0 0 0x100 1) (fill 0)) (fun t => t.fillAt 0 0 0x100 == { target := 8, count := 7, gen := 3, flags := 0 }) = true := by decide
theorem witness_fillInstructions : (fill 0).canExecute ∧ (fill 0).operandsReady [1] [3] false ∧ (fill 0).operandsReady [1, 2] [3] false ∧
    fillPtr ((fill 0).read 1).1 false ((fill 0).read 1).2 = .ok () ((fill 0).read 1).2 ∧
    fillPtr ((fill 0).read 1).1 true ((fill 0).read 1).2 = .ok () ((fill 0).read 1).2 ∧ ((fill 0).read 1).2.operandsReady [] [3] true ∧ (fill 0).canExecuteClosed ∧
    (fill 0).closed.bulkSync (fill 0).closed.myTile = false ∧ ((fill 0).fillWord 0xF000000000000100).gen ≠ ((fill 0).read 4).1.toNat % 2 ^ 32 ∧
    ((fill 0).fillWord 0xF000000000000100).gen = ((fill 0).read 2).1.toNat % 2 ^ 32 :=
  ⟨⟨rfl, rfl⟩, rfl, rfl, rfl, rfl, rfl, ⟨rfl, rfl, rfl, rfl⟩, rfl, by decide, by decide⟩
theorem test_fillInstructions : nextWith (exec (.fillt 3 1) (fill 0)) (fun t => t.me.greg 3 == 0x600000003) = true ∧
    nextWith (exec (.filla 3 1 4) (fill 0x100)) (fun t => t.me.greg 3 == 0x8000000000000006 &&
      t.fillAt 0 0 0x100 == { target := 5, count := 0, gen := 3, flags := 0 }) = true ∧
    nextWith (exec (.fillw 3 1 4) (fill 0)) (fun t => t.me.greg 3 == 3) = true ∧
    nextWith (exec (.fillw 3 1 2) (fill 0)) (fun t => t.me.wait == .fillw && t.me.pc == 0) = true := by decide

/-- BarriersAndSuperstepsComplete: a first arrival, a last one, one with another count, a full round, and a superstep's round that is due. -/
def arrival (rs : List Round) : State := { (srs c0 [(0x340, 0x8000000700000002)]).modMe (fun x => { x with barTok := 1 }) with rounds := rs }
def round (full tsync : Bool) (arrived : List Nat) : Round :=
  { yard := 1, job := 1, dom := 7, members := 2, arrived := arrived, tsync := tsync, full := full, since := 0 }
theorem witness_arrival : ((arrival []).ctx 0).live = true ∧ ((arrival []).ctx 0).barTok = 1 ∧ (1 : Nat) ≤ 2 ∧ (arrival []).rounds = [] ∧
    (arrival [round false false [9]]).rounds = [] ++ round false false [9] :: [] ∧
    (round false false [9]).yard = (arrival []).yardOf 0 ∧ (round false false [9]).arrived.length < (round false false [9]).members ∧
    (round false false [9]).members = 2 ∧ (round false false [9]).members ≠ 3 := by decide
theorem test_arrival : nextWith (exec (.barrierArrival 0 7 2) (arrival [])) (fun t => t.rounds == [round false false [0]]) = true ∧
    nextWith (exec (.barrierArrival 0 7 2) (arrival [round false false [9]])) (fun t => t.rounds == [round true false [9, 0]] && (t.ctx 0).barTok == 0) = true ∧
    nextWith (exec (.barrierArrival 0 7 3) (arrival [round false false [9]])) (fun t => (t.ctx 0).barTok == 3) = true := by decide
def atBar (rs : List Round) (bsp : Bool) : State := { (arrival rs).modMe (fun x => { x with barTok := 0 }) with combs := [{ comb0 with bsp := bsp, sstep := 4 }] }
theorem witness_bar : (atBar [] false).canExecuteClosed ∧ (atBar [] false).closed.inTask = false ∧ (atBar [] false).closed.operandsReady [0] [] true ∧
    ((atBar [] false).closed.read 0).1.toNat ≤ 7 ∧ (((atBar [] false).closed.read 0).2.me.sreg 0x340).getLsbD 63 = true ∧
    ((atBar [] false).closed.read 0).2.me.barTok = 0 ∧ ((atBar [] false).closed.read 0).2.roundOf 1 7 0 = none ∧
    release 1 ((atBar [] false).closed.read 0).2 = .ok () (((atBar [] false).closed.read 0).2.releaseCore 0 0) ∧
    ((atBar [round true false [9, 0]] false).closed.read 0).2.roundOf 1 7 0 = some (round true false [9, 0]) :=
  ⟨⟨rfl, rfl, rfl, rfl⟩, rfl, rfl, by decide, rfl, rfl, rfl, rfl, rfl⟩
theorem witness_tsync : (atBar [round true true [0]] true).canExecuteClosed ∧ (atBar [round true true [0]] true).closed.operandsReady [] [3] true ∧
    (atBar [round true true [0]] true).closed.bulkSync 0 = true ∧ (atBar [round true true [0]] true).closed.helpersOf 0 = [] ∧
    (atBar [round true true [0]] true).closed.sendsDone 0 = true ∧
    (atBar [round true true [0]] true).closed.roundOf 1 7 0 = some (round true true [0]) :=
  ⟨⟨rfl, rfl, rfl, rfl⟩, rfl, rfl, rfl, rfl, rfl⟩
theorem test_bar : nextWith (exec (.bar 0) (atBar [] false)) (fun t => t.me.wait == .bar && t.agenda == [.barrierArrival 0 7 2]) = true ∧
    nextWith (exec (.bar 0) (atBar [round true false [9, 0]] false)) (fun t => t.me.pc == 4 && t.rounds == [round true false [9]]) = true ∧
    nextWith (exec (.tsync 3) (atBar [round true true [0]] true)) (fun t => t.me.greg 3 == 4 && t.rounds == []) = true := by decide
def due : State := { atBar [round false true [0, 9]] true with cal := 64 }
theorem witness_superstep : due.rounds = [round false true [0, 9]] ∧ (round false true [0, 9]).members ≤ 2 ∧ 0 + 64 ≤ due.cal ∧
    due.combs[0]? = some { comb0 with bsp := true, sstep := 4 } ∧ cidTile 0 ∈ comb0.tiles ∧ (due.ctx 0).live = true ∧ due.tagOf 0 ∈ [0, 9] ∧
    ({ due with cal := 63 } : State).cal < 0 + 64 := by decide
theorem test_superstep : nextWith (exec (.superstepBoundary 1 7) due) (fun t => t.combs == [{ comb0 with bsp := true, sstep := 5 }] &&
    t.rounds == [round true true [0, 9]]) = true := by decide

/-! Witnesses: memory. -/

/-- AccessesAreCheckedAndTranslated: each clause's pointer. -/
theorem witness_checks : (0x0100000000000000 : Word).extractLsb' 56 4 ≠ 0 ∧ (0xF000000000100000 : Word).getLsbD 20 = true ∧
    checkPtr u0 0 0xF000000000000000 4 .fetch = some .accessKind ∧ checkPtr u0 0 2 4 .read = some .misaligned ∧
    checkPtr u0 0 0xF0000000000FFFFC 4 .read = none ∧ checkPtr c0 0 0xE000000000100000 4 .read = none ∧
    checkPtr c0 0 0xE000000000200000 4 .read = some .combAccess ∧ checkPtr u0 0 0xFFFC 4 .read = none ∧
    checkPtr u0 0 0x10000 4 .read = some .regionBounds ∧ checkPtr (srs u0 [(0x402, 0x03)]) 0 0xFFFC 4 .write = some .regionRights ∧
    checkPtr (srs u0 [(0x402, 0x13)]) 0 0 8 .atomic = none := by decide
theorem witness_translation : isTsc h0.cur = false ∧ 14 > ptrTag 8 ∧ checkPtr h0 h0.cur 8 4 .read = none ∧ h0.bulkSync h0.myTile = false ∧
    h0.memBad 8 = false ∧ h0.hazard h0.cur false 8 4 = false ∧ h0.me.answers = [] ∧ h0.missOpen h0.cur 1 none 8 = false ∧
    (∃ e, (h0.tile 0).tlb.find? (fun e => e.covers (h0.yardOf 0) (ptrAddr 8)) = some e ∧ h0.companionDue e = false ∧ e.grants .read = true ∧
      (e.e0.extractLsb' 4 4).toNat = ptrTag 8) :=
  ⟨rfl, by decide, rfl, rfl, rfl, rfl, rfl, rfl, _, rfl, rfl, by decide, by decide⟩
/-- A page of region 1, one without rights, and no page. -/
def mapped (e0 : Word) : State := h0.modTile 0 (fun t => { t with tlb := [{ e0 := e0, e1 := 0, e2 := 0, e3 := 0 }] })
theorem witness_translationFaults : (mapped 0x800000000000001F).hazard 0 false 8 4 = false ∧
    (∃ e, ((mapped 0x800000000000001F).tile 0).tlb.find? (fun e => e.covers 0 8) = some e ∧ e.grants .read = true ∧ (e.e0.extractLsb' 4 4).toNat ≠ ptrTag 8) ∧
    (∃ e, ((mapped 0x8000000000000002).tile 0).tlb.find? (fun e => e.covers 0 8) = some e ∧ e.grants .read = false) ∧
    ((h0.modTile 0 (fun t => { t with tlb := [] })).tile 0).tlb = [] ∧ ((h0.modTile 0 (fun t => { t with tlb := [] })).hive 0).tlb = [] ∧
    (h0.modTile 0 (fun t => { t with tlb := [] })).me.answers = [] ∧ ({ h0 with badLines := [0] } : State).memBad 8 = true ∧
    (h0.addMiss 0 AKind.read.code none 8).missOpen 0 AKind.read.code none 8 = true ∧
    (h0.modMe (fun x => { x with answers := [{ code := 1, kind := AKind.read.code, who := none, addr := 8 }] })).hazard 0 false 8 4 = false :=
  ⟨rfl, ⟨_, rfl, by decide, by decide⟩, ⟨_, rfl, by decide⟩, rfl, rfl, rfl, by decide, by decide, rfl⟩
theorem test_translation : (match checkM 8 4 .read h0 with | .ok (some l) _ => l.pa == 8 | _ => false) = true ∧
    (match checkM 8 4 .read (mapped 0x800000000000001F) with | .error (.trap .regionMismatch 8) _ => true | _ => false) = true ∧
    (match checkM 8 4 .read (mapped 0x8000000000000002) with | .error (.trap .translation 8) _ => true | _ => false) = true ∧
    (match checkM 8 4 .read (h0.modTile 0 (fun t => { t with tlb := [] })) with
      | .error (.wait .translation 8) t => (t.hive 0).misses.length == 1 | _ => false) = true ∧
    (match checkM 8 4 .read { h0 with badLines := [0] } with | .error (.trap .memError 8) _ => true | _ => false) = true ∧
    (match checkM 8 4 .read (h0.modMe (fun x => { x with answers := [{ code := 1, kind := AKind.read.code, who := none, addr := 8 }] })) with
      | .error (.trap .translation 8) t => t.me.answers == [] | _ => false) = true := by decide

/-- LoadsReadTheirBytes, LoadsChangeOnlyTheirDestination, StoresWriteTileMemory: tile memory. -/
def m0 : State := regs ((u0.setTmBytes 0 0 0x80 [0x81, 0x82, 0x83, 0x84, 0x85, 0x86, 0x87, 0x88]).setBytes 0x200 [0xF1, 0xF2, 0xF3, 0xF4, 0xF5, 0xF6, 0xF7, 0xF8])
  [(1, 0xF000000000000080), (2, 0x200), (3, 0x1122334455667788)]
theorem witness_load_tm : m0.canExecute ∧ m0.operandsReady [1] [4] false ∧ (m0.read 1).2.atTm (m0.read 1).1 8 .read ∧ (m0.read 1).2.atTm (m0.read 1).1 1 .read ∧
    (m0.read 1).2.atTm (m0.read 1).1 2 .read ∧ (m0.read 1).2.atTm (m0.read 1).1 4 .read ∧ isQueue 1 = false :=
  ⟨⟨rfl, rfl⟩, rfl, rfl, rfl, rfl, rfl, rfl⟩
/-- The same line present in L1, absent with its fill, and a task's own bytes. -/
def m1 : State := m0.fillL1 0 0 0x200 Pg.plain
theorem witness_load_shared : (∃ l, m0.atShared 0x200 8 .read l m0 ∧ m0.controlAt l ∧ m0.mustFill m0.myTile l.pa 8 = true ∧ m0.canFill l.pa ∧
      (m0.settleWcb m0.myTile).sumFlags l.pa 8 = Flags.none ∧ (m0.tile 0).wcb = [] ∧ ((m0.tile 0).line (lineOf l.pa)).dirty = [] ∧ l.pa % 8 = 0) ∧
    (∃ l, m1.atShared 0x200 8 .read l m1 ∧ m1.controlAt l ∧ m1.mustFill m1.myTile l.pa 8 = false) :=
  ⟨⟨_, rfl, ⟨rfl, rfl, rfl⟩, rfl, rfl, rfl, rfl, rfl, rfl⟩, ⟨_, rfl, ⟨rfl, rfl, rfl⟩, rfl⟩⟩
/-- A task of the yard whose page is mapped at its virtual function, with its own bytes at 0x200. -/
def t1 : State := regs (({ t0 with tiles := [(0, { (t0.tile 0) with tlb := [firstPage 1] })] }).modHelper 1 (fun h =>
  { h with dirty := [(0x200, some 1), (0x201, some 2)] })) [(2, 0x200), (3, 0xAABB)]
theorem witness_load_task : t1.canExecute ∧ t1.operandsReady [2] [4] false ∧ (∃ l h, (t1.read 2).2.atShared 0x200 2 .read l t1 ∧ t1.inTask = true ∧
    t1.me.helper = some h ∧ paSpace l.pa = 0 ∧ h.buffered (l.pa + 0) = some 1 ∧ h.buffered (l.pa + 1) = some 2) :=
  ⟨⟨rfl, rfl⟩, rfl, _, _, rfl, rfl, rfl, rfl, rfl, rfl⟩
/-- R181: sign and zero extension, and the offset in units of the size. -/
theorem test_loads : ([(.ldB 4 1 1 0, 0xFFFFFFFFFFFFFF82), (.ldBz 4 1 1 0, 0x82), (.ldH 4 1 1 0, 0xFFFFFFFFFFFF8483), (.ldHz 4 1 1 0, 0x8483),
    (.ldW 4 1 1 0, 0xFFFFFFFF88878685), (.ldWz 4 1 1 0, 0x88878685), (.ldD 4 1 0 0, 0x8887868584838281), (.ldD 4 2 0 0, 0xF8F7F6F5F4F3F2F1)] :
    List (Instr × Word)).all (fun p => nextWith (exec p.1 m0) (fun t => t.closed.me.greg 4 == p.2)) = true := by decide +kernel
theorem test_load_task : nextWith (exec (.ldHz 4 2 0 0) t1) (fun t => t.closed.me.greg 4 == 0x0201) = true := by decide
theorem witness_store_tm : m0.operandsReady [1, 3] [] true ∧ ((m0.read 1).2.read 3).2.atTm (m0.read 1).1 8 .write ∧
    ((m0.read 1).2.read 3).2.atTm (m0.read 1).1 1 .write := ⟨rfl, rfl, rfl⟩
theorem test_stores : ([(.stB 3 1 1, 0x8887868584838881), (.stH 3 1 1, 0x8887868577888281), (.stW 3 1 1, 0x5566778884838281), (.stD 3 1 0, 0x1122334455667788),
    (.stNt 3 1 0, 0x1122334455667788)] : List (Instr × Nat)).all (fun p => nextWith (exec p.1 m0) (fun t => leNat (t.tmBytes 0 0 0x80 8) == p.2)) = true := by decide
/-- R95: view 1 exchanges banks by the row's low bits. -/
theorem witness_view : (3 : Nat) < 1024 ∧ (1 : Nat) < 4 ∧ tmKey 3 1 0x208 = 3 * 2 ^ 20 + 0x200 := by decide

/-- SharedStoresDirtyTheirLine: a line present, a line absent, and a task. -/
theorem witness_store_shared : (∃ l v, ((m0.read 2).2.read 3).2.atShared 0x200 8 .write l v ∧ v.controlAt l ∧
      ((v.tile v.myTile).line (lineOf l.pa)).present = false ∧ v.canFill l.pa) ∧
    (∃ l v, ((m1.read 2).2.read 3).2.atShared 0x200 8 .write l v ∧ v.controlAt l ∧ ((v.tile v.myTile).line (lineOf l.pa)).present = true) :=
  ⟨⟨_, _, rfl, ⟨rfl, rfl, rfl⟩, rfl, rfl⟩, ⟨_, _, rfl, ⟨rfl, rfl, rfl⟩, rfl⟩⟩
theorem witness_store_task : ∃ l v h, ((t1.read 2).2.read 3).2.atShared 0x200 2 .write l v ∧ v.inTask = true ∧ v.me.helper = some h ∧ h.task.solo = false ∧
    paSpace l.pa = 0 ∧ h.dirtyLines.length < 64 := ⟨_, _, _, rfl, rfl, rfl, rfl, rfl, by decide⟩
theorem test_store_shared : nextWith (exec (.stH 3 2 0) m0) (fun t => t.byte 0x200 == 0xF1 && ((t.tile 0).line 4).byteAt 0 == 0x88 &&
      ((t.tile 0).line 4).byteAt 1 == 0x77 && ((t.tile 0).line 4).byteAt 2 == 0xF3) = true ∧
    nextWith (exec (.stH 3 2 0) t1) (fun t => (match t.me.helper with | some h => h.buffered 0x200 == some 0xBB && h.buffered 0x201 == some 0xAA | none => false) &&
      t.byte 0x200 == 0) = true := by decide +kernel

/-- LoadsReadTheirBytes, LD.RO: tile memory, an exact-sum page, a line absent from and present in the read-only cache. -/
def xs0 : State := regs (m0.modTile 0 (fun t => { t with tlb := [{ (firstPage 0) with e1 := 2 }] })) [(5, 0x3F800000)]
def m2 : State := m0.fillRo 0 0 0x200 Pg.plain
theorem witness_ldRo : (m0.read 1).2.atTm (m0.read 1).1 8 .read ∧ (m0.read 1).2.canClose ∧
    (∃ l, xs0.atShared 0x200 8 .read l xs0 ∧ l.exactSum = true) ∧
    (∃ l, m0.atShared 0x200 8 .read l m0 ∧ l.pg.memSide = false ∧ l.exactSum = false ∧ m0.controlAt l ∧ ((m0.tile 0).roLine (lineOf l.pa)).present = false ∧
      m0.reachesHome l.pa ∧ l.pa % 8 = 0) ∧ ((m2.tile 0).roLine 4).present = true :=
  ⟨rfl, rfl, ⟨_, rfl, rfl⟩, ⟨_, rfl, rfl, rfl, ⟨rfl, rfl, rfl⟩, rfl, rfl, rfl⟩, by decide +kernel⟩
theorem test_ldRo : nextWith (exec (.ldRo 4 2 0 0) m0) (fun t => t.closed.me.greg 4 == 0xF8F7F6F5F4F3F2F1 && ((t.tile 0).roLine 4).present) = true ∧
    nextWith (exec (.ldRo 4 1 0 0) m0) (fun t => t.me.sreg 0x443 == 0x046) = true := by decide +kernel

/-- LineOperationsMoveWholeLines: ST.NT of an absent line, and a line with a dirty byte for FLUSH, INVAL and a write-back. -/
def m3 : State := m1.dirtyBytes 0 0 { va := 0x201, pa := 0x201, region := 0, pg := Pg.plain, exactSum := false } [0xEE]
theorem witness_lineOps : (∃ l v, ((m0.read 2).2.read 3).2.atShared 0x200 8 .write l v ∧ v.controlAt l ∧
      ((v.tile v.myTile).line (lineOf l.pa)).present = false ∧ (v.tile v.myTile).wcb = []) ∧
    (∃ l v, (m3.read 2).2.atShared 0x200 1 .write l v ∧ v.controlAt l ∧ v.reachesHome l.pa ∧ (v.cleanLine v.myTile (lineOf l.pa)).remotes = [] ∧
      ((v.cleanLine v.myTile (lineOf l.pa)).flushSums l.pa 0).2 = Flags.none) :=
  ⟨⟨_, _, rfl, ⟨rfl, rfl, rfl⟩, rfl, rfl⟩, ⟨_, _, rfl, ⟨rfl, rfl, rfl⟩, rfl, by decide +kernel, by decide +kernel⟩⟩
/-- FLUSH at tile scope of a line that another command owns. -/
theorem witness_flushHeld : ¬(m3.setL2 4 { m3.l2line 4 with engine := some 9 }).reachesHome 0x200 := by unfold State.reachesHome; decide +kernel
theorem witness_writeBack : SMap.wf (fun _ => none) ((m3.tile 0).line 4).dirty = true ∧
    ((m3.tile 0).line 4).dirty.map (fun p => (p.1, p.2.map (fun d => (m3.isDead d.tag, d.pg)))) = [(1, some (false, Pg.plain))] ∧
    Pg.plain.memSide = false ∧ m3.keyClash (4 * 128) Pg.plain = false ∧ paSpace (4 * 128) = 0 ∧ m3.channelDead (4 * 128) = false ∧ m3.isDead 0x10000 = false := by decide +kernel
theorem test_flush : nextWith (exec (.flush 0 2) m3) (fun t => t.byte 0x201 == 0xEE && t.byte 0x200 == 0xF1 && ((t.tile 0).line 4).present && t.verOf 0x200 == 2) = true ∧
    nextWith (exec (.inval 0 2) m3) (fun t => t.byte 0x201 == 0xEE && !((t.tile 0).line 4).present) = true ∧
    nextWith (exec (.pref 2) m0) (fun t => ((t.tile 0).line 4).present && t.me.pc == 4) = true ∧
    nextWith (exec (.stNt 3 2 0) m0) (fun t => t.byte 0x200 == 0xF1 && ((SMap.get (fun _ => none) (t.tile 0).wcb 0x201).map DirtyByte.byte) == some 0x77) = true := by
  decide +kernel

/-- VersionsAreReadAndRecorded and ValidReportsPassOrFail: sets with the line at its version, at another one, and full. -/
def vs (l : List (Nat × Word)) (fail : Bool) : State := regs (m0.modMe (fun x => { x with vset := l, vfail := fail })) [(6, 7)]
theorem witness_versions : (∃ l, m0.atShared 0x200 8 .read l m0 ∧ m0.controlAt l ∧ m0.me.helper = none ∧ l.pg.memSide = false ∧ m0.reachesHome l.pa ∧
      ((m0.cleanLine 0 (lineOf l.pa)).fillL2 l.pa ((m0.cleanLine 0 (lineOf l.pa)).payer 0)).sumFlags l.pa 8 = Flags.none) ∧ isQueue 4 = false ∧ isQueue 5 = false ∧ m0.me.looping = false ∧
    (∃ l, ((m0.read 2).2.read 3).2.atShared 0x200 1 .read l m0 ∧ m0.me.vset = [] ∧ paSpace l.pa = 0) ∧
    (vs (List.replicate 16 (9, 0)) false).me.vset.length = 16 ∧ (∀ e ∈ (vs (List.replicate 16 (9, 0)) false).me.vset, e.1 ≠ 0x200 / 128) ∧
    (vs [(4, 1)] false).me.vset.find? (fun e => e.1 == 0x200 / 128) = some (0x200 / 128, 1) :=
  ⟨⟨_, rfl, ⟨rfl, rfl, rfl⟩, rfl, rfl, rfl, rfl⟩, rfl, rfl, rfl, ⟨_, rfl, rfl, rfl⟩, rfl, by decide, rfl⟩
theorem witness_valid : (vs [(4, 1)] false).canExecute ∧ (vs [(4, 1)] false).operandsReady [] [3] false ∧ (vs [(4, 1)] false).slotRefused 0 = false ∧
    (∀ e ∈ (vs [(4, 1)] false).me.vset, (vs [(4, 1)] false).homeOpen 0 (e.1 * 128) none = true) ∧ (vs [(4, 1)] false).inTask = false ∧
    (∀ e ∈ (vs [(4, 1)] false).me.vset, (vs [(4, 1)] false).verOf (e.1 * 128) = e.2) ∧ (vs [(4, 1)] true).me.vfail = true ∧
    (∃ e ∈ (vs [(4, 2)] false).me.vset, (vs [(4, 2)] false).verOf (e.1 * 128) ≠ e.2) :=
  ⟨⟨rfl, rfl⟩, rfl, rfl, by decide, rfl, by decide, rfl, by decide⟩
/-- A bulk-synchronous job outside its exchange slots. -/
def bsp0 : State := { c0 with combs := [{ comb0 with bsp := true }] }
theorem witness_slot : bsp0.canExecute ∧ bsp0.operandsReady [] [3] false ∧ bsp0.me.issued = none ∧ bsp0.slotRefused bsp0.cur = true ∧ bsp0.canClose :=
  ⟨⟨rfl, rfl⟩, rfl, rfl, rfl, rfl⟩
theorem test_versions : nextWith (exec (.ldv 4 2 0 0) m0) (fun t => t.closed.me.greg 4 == 0xF8F7F6F5F4F3F2F1 && t.closed.me.greg 5 == 1) = true ∧
    nextWith (exec (.vrec 2 6) m0) (fun t => t.me.vset == [(4, 0)]) = true ∧ nextWith (exec (.vrec 2 6) (vs [(4, 1)] false)) (fun t => t.me.vfail) = true ∧
    nextWith (exec (.vrec 2 6) (vs (List.replicate 16 (9, 0)) false)) (fun t => t.me.sreg 0x443 == 0x103) = true ∧
    nextWith (exec .vclr (vs [(4, 1)] true)) (fun t => t.me.vset == [] && !t.me.vfail) = true := by decide +kernel
theorem test_valid : nextWith (exec (.valid 4 0) (vs [(4, 1)] false)) (fun t => t.closed.me.greg 4 == 1 && t.me.vset == []) = true ∧
    nextWith (exec (.valid 4 0) (vs [(4, 2)] false)) (fun t => t.me.greg 4 == 0 && t.me.vset == []) = true ∧
    nextWith (exec (.valid 4 0) (vs [(4, 1)] true)) (fun t => t.me.greg 4 == 0 && !t.me.vfail) = true := by decide +kernel

/-- FencesMakeStoresVisible: coprocessor work under way, and none with a dirty line. -/
def entry (i : Instr) (a b : Word) : QEntry :=
  { seq := 5, ord := 5, cid := 0, tag := 0, pc := 0x20, inst := i, pfx := 0, a := a, b := b, qkw := 0, sr := [], vf := [], mf := [], since := 0, rel := none, replay := false, binds := [] }
theorem witness_release : (m3.modCore 0 (fun k => { k with vq := [entry (.vmov 1 2 0 0) 0 0] })).copBusy 0 = true ∧ m3.copBusy m3.cur = false ∧
    m3.dirtyBlocked m3.myTile m3.myCore = false ∧ (m3.releaseCore m3.myTile m3.myCore).remotes = [] ∧ m3.canExecuteClosed ∧
    release 1 m3.closed = .ok () (m3.closed.releaseCore 0 0) ∧ (m3.closed.me.sreg 0x807).getLsbD 0 = false ∧ m3.closed.canClose :=
  ⟨by decide +kernel, by decide +kernel, by decide +kernel, by decide +kernel, ⟨rfl, rfl, rfl, rfl⟩, rfl, rfl, rfl⟩
theorem test_fences : nextWith (exec (.fenceRel 1) m3) (fun t => t.byte 0x201 == 0xEE && ((t.tile 0).line 4).present && t.me.pc == 4) = true ∧
    nextWith (exec (.fenceAcq 1) m1) (fun t => !((t.tile 0).line 4).present) = true ∧
    nextWith (exec (.fenceAr 1) m3) (fun t => t.byte 0x201 == 0xEE && !((t.tile 0).line 4).present) = true ∧
    nextWith (exec (.fenceRel 3) m3) (fun t => t.me.sreg 0x443 == 0x18C && t.byte 0x201 == 0xF2) = true := by decide +kernel

/-- AtomicsActOnceAtHome and ExactSumsAddAtHome. -/
def a0 : State := regs (h0.setBytes 0x200 [0xFE, 0xFF, 0xFF, 0xFF, 1, 0, 0, 0]) [(1, 0x200), (2, 3), (3, 0x77), (4, 0x1FFFFFFFE)]
theorem witness_atomic : a0.canExecute ∧ (∃ l, a0.atShared 0x200 4 .atomic l (a0.setCompanion 0 (firstPage 0) 8) ∧ l.exactSum = false ∧
      ((a0.setCompanion 0 (firstPage 0) 8).cleanLine 0 4).keyClash l.pa l.pg = false) ∧
    (a0.setCompanion 0 (firstPage 0) 8).inTask = false ∧ isTsc (a0.setCompanion 0 (firstPage 0) 8).cur = false ∧
    (a0.setCompanion 0 (firstPage 0) 8).me = a0.me ∧ (a0.setCompanion 0 (firstPage 0) 8).reachesHome 0x200 ∧ (a0.setCompanion 0 (firstPage 0) 8).isDead 0 = false ∧
    ((a0.setCompanion 0 (firstPage 0) 8).cleanLine 0 4).sums = [] ∧ release 1 (a0.setCompanion 0 (firstPage 0) 8) = .ok () ((a0.setCompanion 0 (firstPage 0) 8).releaseCore 0 0) :=
  ⟨⟨rfl, rfl⟩, ⟨_, rfl, rfl, rfl⟩, rfl, rfl, rfl, rfl, rfl, rfl, rfl⟩
/-- R191, R190: −2 and 3 as 32-bit values; a CAS that matches and one that does not; a CASV. -/
theorem test_atomics : ([(.amoAdd 5 1 2 0 0 0, 1), (.amoAnd 5 1 2 0 0 0, 2), (.amoOr 5 1 2 0 0 0, 0xFFFFFFFF), (.amoXor 5 1 2 0 0 0, 0xFFFFFFFD),
    (.amoMin 5 1 2 0 0 0, 0xFFFFFFFE), (.amoMax 5 1 2 0 0 0, 3), (.amoSwap 5 1 2 0 0 0, 3)] : List (Instr × Nat)).all
      (fun p => nextWith (exec p.1 a0) (fun t => t.closed.me.greg 5 == 0xFFFFFFFFFFFFFFFE && leNat (t.bytes 0x200 4) == p.2 && t.byte 0x204 == 1)) = true := by decide +kernel
theorem test_cas : nextWith (exec (.cas 3 1 4 0) a0) (fun t => t.closed.me.greg 3 == 0x1FFFFFFFE && leNat (t.bytes 0x200 8) == 0x77) = true ∧
    nextWith (exec (.cas 3 1 2 0) a0) (fun t => t.closed.me.greg 3 == 0x1FFFFFFFE && leNat (t.bytes 0x200 8) == 0x1FFFFFFFE) = true ∧
    nextWith (exec (.casv 3 1 6 0) (regs a0 [(6, 1)])) (fun t => t.closed.me.greg 3 == 1 && leNat (t.bytes 0x200 8) == 0x77) = true ∧
    nextWith (exec (.casv 3 1 2 0) a0) (fun t => t.closed.me.greg 3 == 0 && leNat (t.bytes 0x200 8) == 0x1FFFFFFFE) = true := by decide +kernel
/-- 1.0 in an exact-sum page, to which 1.0 is added. -/
def x0 : State := regs ((h0.setBytes 0x200 [0, 0, 0x80, 0x3F]).modTile 0 (fun t => { t with tlb := [{ (firstPage 0) with e1 := 2 }] })) [(1, 0x200), (2, 0x3F800000)]
theorem witness_xadd : x0.canExecute ∧ (∃ l u, x0.atShared 0x200 4 .atomic l u ∧ l.exactSum = true ∧ u.inTask = false ∧ isTsc u.cur = false ∧ paSpace l.pa = 0 ∧
    (u.cleanLine 0 (lineOf l.pa)).keyClash l.pa l.pg = false ∧ u.me = x0.me ∧ u.me.helper = none ∧ u.reachesHome l.pa ∧ u.isDead (u.tagOf u.cur) = false ∧
    (u.cleanLine 0 (lineOf l.pa)).sumCount (hiveOfPa l.pa) < 16384 ∧
    ((u.cleanLine 0 (lineOf l.pa)).sumBefore l.pa l.pg).2 = Flags.none) := ⟨⟨rfl, rfl⟩, _, _, rfl, rfl, rfl, rfl, rfl, rfl, rfl, rfl, rfl, rfl, by decide +kernel, rfl⟩

/-! Witnesses: special registers. -/

/-- SpecialRegistersReadAndWrite, SpecialRegisterMovesKeepTheRest. -/
theorem witness_sr : srInfo 0x005 = none ∧ srInfo 0x440 ≠ none ∧ u0.me.priv = .u ∧ u0.canClose ∧ srInfo 0x028 ≠ none ∧
    srInfo 0x000 = some srRo ∧ (∃ i, srInfo 0x022 = some i ∧ i.acc = .rw) ∧ (∃ i, srInfo 0x028 = some i ∧ i.acc = .rw) ∧ isTileSr 0x028 = false ∧ isCoreSr 0x028 = false :=
  ⟨rfl, by decide, rfl, rfl, by decide, rfl, ⟨_, rfl, rfl⟩, ⟨_, rfl, rfl⟩, rfl, rfl⟩
theorem witness_srKeep : ∀ i, srInfo 0x022 = some i → (0x40 : Word) &&& BitVec.ofNat 64 i.keep ≠ 0x40 := by decide
theorem test_sr : nextWith (exec (.mts 2 0x028) ab) (fun t => t.me.sreg 0x028 == 2 && t.me.pc == 4) = true ∧
    nextWith (exec (.mfs 3 0x801) (srs h0 [(0x801, 0x200)])) (fun t => t.me.greg 3 == 0x200) = true ∧
    nextWith (exec (.mfs 3 0x440) u0) (fun t => t.me.sreg 0x803 == 0x180 || t.me.sreg 0x443 == 0x180) = true ∧
    nextWith (exec (.mts 3 0x005) u0) (fun t => t.me.sreg 0x443 == 0x081 && t.me.sreg 0x444 == 5) = true ∧
    nextWith (exec (.mts 2 0x000) ab) (fun t => t.me.pc == 4) = true := by decide
/-- SpecialRegistersWithEffects. -/
def sup0 : State := regs (srs (c0.modMe (fun x => { x with priv := .s })) [(0x451, 3)]) [(1, 1), (2, 7), (3, 0x8000000100000002)]
theorem witness_srEffects : sup0.canExecute ∧ sup0.me.priv ≠ .u ∧ sup0.operandsReady [] [4] true ∧ sup0.drained sup0.cur = true ∧ sup0.me.late = [] ∧
    sup0.operandsReady [1] [] true ∧ (sup0.read 1).1 = 1 ∧ (sup0.read 1).2.losing 0 = false ∧ (sup0.read 1).2.tile 0 = (sup0.tile 0) ∧
    (sup0.tile 0).pinned = false ∧ (sup0.tile 0).pinDue = none ∧ (sup0.tile 0).leaving = none ∧ (sup0.read 0).1 = 0 ∧
    (sup0.inFlight 0) = [] ∧ (∃ i, srInfo 0x202 = some i ∧ (7 : Word) &&& BitVec.ofNat 64 i.keep = 7) ∧
    (0x8000000100000002 : Word) &&& 0x800003FF00000003 = 0x8000000100000002 :=
  ⟨⟨rfl, rfl⟩, by decide, rfl, rfl, rfl, rfl, rfl, rfl, rfl, rfl, rfl, rfl, rfl, rfl, ⟨_, rfl, by decide⟩, by decide⟩
theorem witness_srEffectsH : (regs h0 [(1, 5)]).me.priv = .h ∧ (regs h0 [(1, 5)]).isDead 5 = false ∧
    (7, 1, 1) ∈ ({ sup0 with saved := [(7, 1, 1)] } : State).saved ∧ (sup0.modTile 0 (fun t => { t with pinned := true })).losing 0 = false := by decide
/-- A ring register while another context's command names the ring, and one of its count registers. -/
def ringBusy0 : State :=
  u0.modTile 0 (fun t => { t with mq := [{ entry (.mringPop 1 2) 0 1 with cid := 16, tag := 3 }] })
theorem witness_ringBusy : ringBusy0.drained ringBusy0.cur = true ∧ (∃ q ∈ ringBusy0.inFlight 0, (q.cid ≠ 0 ∨ q.tag ≠ ringBusy0.tagOf 0) ∧
    ringBusy0.usesRing 0 0 q = true) ∧ (0x202 : Nat) % 8 < 3 ∧ 3 ≤ (0x203 : Nat) % 8 ∧ ringBusy0.canClose :=
  ⟨by decide +kernel, ⟨_, .head _, by decide, by decide +kernel⟩, by decide, by decide, rfl⟩
theorem test_ringBusy : nextWith (exec (.ringRegisterWrite 2 0x202) ringBusy0) (fun t => t.me.sreg 0x443 == BitVec.ofNat 64 Cause.ringBusy.code) = true := by decide +kernel
theorem test_srEffects : nextWith (exec (.trapSuppRead 4) sup0) (fun t => t.me.greg 4 == 3 && t.me.sreg 0x451 == 0) = true ∧
    nextWith (exec (.fflagsAccess true 2) sup0) (fun t => t.me.sreg 0x020 == 7) = true ∧
    nextWith (exec (.ctxFtWrite 1) sup0) (fun t => t.me.wait == .pin && (t.tile 0).pinDue == some 64) = true ∧
    nextWith (exec (.ringRegisterWrite 2 0x202) sup0) (fun t => (t.tile 0).sreg 0x202 == 7) = true ∧
    nextWith (exec (.mgrpWrite 3) sup0) (fun t => (t.tile 0).sreg 0x241 == 0x8000000100000002) = true ∧
    nextWith (exec (.sKillWrite 2) { sup0 with saved := [(7, 1, 1)] }) (fun t => t.isDead 7 && t.saved == []) = true ∧
    nextWith (exec (.hvTagWrite 2) (regs h0 [(2, 5)])) (fun t => t.me.sreg 0x808 == 5) = true := by decide

/-! Witnesses: helpers, saves, translation, territory. -/

/-- StartMakesAHelperLive: a fresh frame; a retained one; a slot that retained none. -/
def s0 : State := regs c0 [(1, 0x400), (2, 3), (3, 2)]
def s1 : State := s0.modCore 0 (fun k => { k with ended := [⟨3, 3, 2⟩] })
theorem witness_start : s0.canExecuteClosed ∧ cidSlot s0.cur = 0 ∧ isTsc s0.cur = false ∧ s0.closed.operandsReady [1, 0] [4] true ∧ s0.closed.me.looping = false ∧
    ((s0.closed.read 1).1).extractLsb' 0 2 = 0 ∧ ((s0.closed.read 1).2.read 0).2.freeSlot 0 = some 1 ∧ ((s0.closed.read 1).2.read 0).2.freeFrame 0 = some 0 ∧
    ((s1.closed.read 1).2.read 2).2.slotBusy 0 3 = false ∧ (((s1.closed.read 1).2.read 2).2.core 0).endedOf 3 = 1 + 1 ∧
    (((s0.closed.read 1).2.read 2).2.core 0).endedOf 3 = 0 ∧ ((s0.closed.read 1).2.read 2).2.canClose :=
  ⟨⟨rfl, rfl, rfl, rfl⟩, rfl, rfl, rfl, rfl, rfl, rfl, rfl, rfl, rfl, rfl, rfl⟩
theorem test_start : nextWith (exec (.start 4 1 0) s0) (fun t => t.me.greg 4 == 1 && (t.ctx 1).live && (t.ctx 1).pc == 0x400 && (t.ctx 1).greg 31 == 0xF000000000002000) = true ∧
    nextWith (exec (.start 4 1 2) s1) (fun t => t.me.greg 4 == 1 && (t.ctx 1).greg 31 == 0xF000000000003000) = true ∧
    nextWith (exec (.start 4 1 2) s0) (fun t => t.me.sreg 0x443 == 0x104) = true := by decide +kernel

/-- HelpersUpcallsAndSlicesEnd. -/
theorem witness_halt : t0.canExecuteClosed ∧ t0.closed.operandsReady [0] [] true ∧ t0.closed.inTask = true ∧ (t0.closed.read 0).2.me.helper = some helper0 ∧
    c0.closed.inTask = false ∧ c0.closed.canClose := ⟨⟨rfl, rfl, rfl, rfl⟩, rfl, rfl, rfl, rfl, rfl⟩
/-- A context in an upcall, whose tile is being lost. -/
def up0 : State := regs ((srs c0 [(0x113, 0x80), (0x114, 6)]).modMe (fun x => { x with susp := [(4, 0x20), (5, 0x8000000000030004)] })) [(1, 1)]
def up1 : State := up0.modTile 0 (fun t => { t with move := some { toJob := 2, via := 1, step := 1, since := 0 } })
theorem witness_upret : up0.canExecuteClosed ∧ up0.closed.operandsReady [0] [] true ∧ ((up0.closed.read 0).1).getLsbD 0 = false ∧
    cidSlot up0.cur = 0 ∧ ((up0.closed.read 0).2.me.sreg 0x114).getLsbD 2 = true ∧ up1.canExecuteClosed ∧
    up1.closed.operandsReady [1] [] true ∧ ((up1.closed.read 1).1).getLsbD 0 = true ∧
    (up1.closed.read 1).2.losing 0 = true ∧ (up1.closed.read 1).2.me.saveReq = 0 := ⟨⟨rfl, rfl, rfl, rfl⟩, rfl, rfl, rfl, rfl, ⟨rfl, rfl, rfl, rfl⟩, rfl, rfl, rfl, rfl⟩
theorem witness_yield : c0.canExecuteClosed ∧ c0.closed.operandsReady [] [3] true ∧ cidSlot c0.cur = 0 ∧ isTsc c0.cur = false ∧ cidSlot t0.cur ≠ 0 :=
  ⟨⟨rfl, rfl, rfl, rfl⟩, rfl, rfl, rfl, by decide⟩
theorem test_upret : nextWith (exec (.upret 0) up0) (fun t => t.me.pc == 0x80 && t.me.sreg 0x114 == 0) = true ∧
    nextWith (exec (.upret 1) up1) (fun t => t.me.pc == 4 && t.me.saveReq == 5 && t.me.sreg 0x114 == 0) = true ∧
    nextWith (exec (.halt 0) t0) (fun t => t.me.helper == some { helper0 with halting := some false }) = true ∧
    nextWith (exec (.halt 0) c0) (fun t => t.me.sreg 0x443 == 0x084) = true := by decide

/-- SavesAndRestoresMoveTheFrame: a context asked to save, and a resident handler with a fresh frame at 0x1000. -/
def sv0 : State := regs (c0.modMe (fun x => { x with saveReq := 1, pc := 0x44 })) [(7, 0xABC)]
theorem witness_save : sv0.saveAllowed 0 = true ∧ (sv0.ctx 0).saveReq ∈ [1, 2, 3] ∧ sv0.helpersOf 0 = [] ∧ (sv0.core 0).vq = [] ∧ (sv0.core 0).held = [] ∧ sv0.mustBeQuiet 0 = false ∧ (sv0.tile 0).mq = [] ∧
    (sv0.tile 0).mrun = [] ∧ (sv0.tile 0).wq = [] ∧ (sv0.tile 0).streams = [] ∧ (sv0.tile 0).l1 = [] ∧ (sv0.tile 0).wcb = [] ∧ (sv0.ctx 0).windows = [] ∧
    (sv0.ctx 0).barTok = 0 ∧ (sv0.ctx 0).sreg 0x448 = 0 ∧ c0.saveAllowed 0 = false := by decide +kernel
def rh0 : State := regs (({ c0 with cur := 11, ctxs := [] }).setCtx 11 { (c0.ctx 0) with priv := .s }
    |>.setTmBytes 0 0 0x1000 ([0x46, 0x53, 1, 0, 0, 0, 0, 0, 0x40, 1] ++ List.replicate 22 0 ++ [9])) [(1, 0xF000000000001000), (2, 0xF000000000002000)]
theorem test_save : nextWith (exec (.contextSave 0) sv0) (fun t => !(t.ctx 0).live && (t.ctx 11).live && (t.ctx 11).greg 1 == 1) = true := by decide +kernel

theorem witness_restore : rh0.canExecuteClosed ∧ rh0.closed.me.priv = .s ∧ cidSlot rh0.cur = 11 ∧ rh0.closed.operandsReady [1] [] true ∧
    ptrTag (rh0.closed.read 1).1 = 15 ∧ checkPtr (rh0.closed.read 1).2 11 0xF000000000001000 4096 .read = none ∧
    (rh0.closed.read 1).2.restoreCause 0 ((rh0.closed.read 1).2.tmBytes 0 0 0x1000 4096) = none ∧
    ((rh0.closed.read 1).2.restore 0 ((rh0.closed.read 1).2.tmBytes 0 0 0x1000 4096)).1.isSome ∧
    checkPtr (rh0.closed.read 2).2 11 0xF000000000002000 4096 .read = none ∧ leNat ((rh0.closed.read 2).2.tmBytes 0 0 0x2000 2) = 0 ∧
    (rh0.closed.read 2).2.canClose := ⟨⟨rfl, rfl, rfl, rfl⟩, rfl, rfl, rfl, by decide, by decide, by decide +kernel, by decide +kernel, by decide, by decide, rfl⟩
theorem test_restore : nextWith (exec (.eretRestore 1) rh0) (fun t => (t.ctx 0).live && !(t.ctx 11).live && (t.ctx 0).pc == 0x140 && (t.ctx 0).greg 1 == 9) = true := by
  decide +kernel
theorem test_restore_refused : nextWith (exec (.eretRestore 2) rh0) (fun t => (t.ctx 11).sreg 0x441 != 0) = true := by decide +kernel

/-- TlbEntriesAnswerMisses: a well-formed entry at 0 of the tile, a malformed one at 0x20, and a miss that is not written. -/
def tl0 : State := regs ((((h0.setMemWord (recordPa 1) 0x2000000000000000).setTmBytes 0 0 0 (leBytes 8 0x8100000000000003 ++ leBytes 8 0x10000)).setTmBytes 0 0 0x20
  (leBytes 8 0x8100000000000303))) [(1, 0xF000000000000000), (2, 0xF000000000000020)]
theorem witness_tlbw : tl0.canExecute ∧ tl0.me.priv = .h ∧ tl0.operandsReady [1, 0] [] true ∧ ptrTag 0xF000000000000000 = 15 ∧
    checkPtr ((tl0.read 1).2.read 0).2 0 0xF000000000000000 32 .read = none ∧ hiveOf 0 = 0 ∧
    ((tl0.read 1).2.read 0).2.malformed (tlbOf (tl0.tmBytes 0 0 0 32)) = false ∧ (tlbOf (tl0.tmBytes 0 0 0 32)).e0.getLsbD 63 = true ∧
    ((tl0.read 2).2.read 0).2.malformed (tlbOf (tl0.tmBytes 0 0 0x20 32)) = true ∧ ((tl0.read 2).2.read 0).2.canClose ∧ u0.me.priv ≠ .h :=
  ⟨⟨rfl, rfl⟩, rfl, rfl, by decide, by decide, by decide, by decide +kernel, by decide +kernel, by decide +kernel, rfl, by decide⟩
theorem test_tlbw : nextWith (exec (.tlbw 1 0) tl0) (fun t => (t.hive 0).tlb == [⟨0x8100000000000003, 0x10000, 0, 0⟩] && t.me.pc == 4) = true ∧
    nextWith (exec (.tlbw 2 0) tl0) (fun t => t.isDead 0 && (t.hive 0).tlb == []) = true := by decide +kernel
def miss0 : Miss := { id := 0, addr := 0x12340, kind := 1, cid := 0, who := none, vf := 1, tag := 5, priv := 0, inv := 0, stale := false, written := false, task := none }
def ms0 : State := h0.modHive 0 (fun x => { x with misses := [miss0] })
theorem witness_miss : (ms0.hive 0).misses.find? (fun m => !m.written) = some miss0 ∧ miss0.kind ≠ 7 ∧
    (ms0.tmByte 1024 0 24).getLsbD 0 = false ∧ (ms0.hive 0).nextId < 65536 := by decide
theorem test_miss : nextWith (exec (.tlbMissRecord 0) ms0) (fun t => leNat (t.tmBytes 1024 0 0 8) == 0x12340 && leNat (t.tmBytes 1024 0 8 2) == 1 &&
    (t.hive 0).slot == 1) = true := by decide +kernel

/-- ShootDownsRemoveEntries: a TLBINV of each kind that starts and one that is acknowledged; what takes entries out. -/
def iv (k : Nat) (acks : Bool) : State := { regs (h0.modHive 0 (fun x => { x with tlb := [firstPage 0, firstPage 1] })) [(1, BitVec.ofNat 64 (4 * k))] with
  shoots := [{ cid := 0, kind := k, size := 0, vf := 0, addr := 0, acks := acks }] }
theorem witness_tlbinv : [0, 1, 2, 3].all (fun k => (iv k false).shoots.find? (fun q => q.is 0 k 0 0 0) == some { cid := 0, kind := k, size := 0, vf := 0, addr := 0, acks := false } &&
    ((iv k false).read 1).1.toNat == 0 + 4 * k) = true ∧ (iv 0 false).canExecuteClosed ∧ (iv 0 false).closed.operandsReady [0, 1] [] true ∧ (iv 0 false).closed.me.priv = .h ∧
    h0.shoots.find? (fun q => q.is 0 0 0 0 0) = none ∧ ((2 : Word).toNat % sizeBytes 0 ≠ 0) ∧ ((iv 0 false).closed.read 1).2.canClose := ⟨by decide, ⟨rfl, rfl, rfl, rfl⟩, rfl, rfl, rfl, by decide, rfl⟩
theorem witness_shootDown : (iv 1 true).shoots.find? (fun q => q.cid == 0 && q.acks) = some { cid := 0, kind := 1, size := 0, vf := 0, addr := 0, acks := true } ∧
    (((iv 1 true).hive 0).tlb)[1]? = some (firstPage 1) ∧ (iv 1 true).shootReady { cid := 0, kind := 1, size := 0, vf := 0, addr := 0, acks := true } = true ∧
    ((iv 1 true).modHive 0 (fun x => { x with misses := [{ miss0 with kind := 7 }] })).shootReady { cid := 0, kind := 1, size := 0, vf := 0, addr := 0, acks := true } = false := by
  decide +kernel
theorem test_shootDown_evicts : nextWith (exec (.tlbEntryEviction true 0 1) (iv 1 true)) (fun t => (t.hive 0).tlb == [firstPage 0]) = true := by decide +kernel
theorem test_shootDown_retires : nextWith (exec (.tlbinvVf 0 1) (iv 1 false)) (fun t => t.shoots == [] && t.me.pc == 4) = true := by decide +kernel

/-- CombSettingsAndRequests. -/
theorem witness_comb : c0.canExecute ∧ c0.operandsReady [1] [3] true ∧ isQueue 3 = false ∧ c0.me.looping = false ∧ c0.inTask = false ∧ c0.combOf 0 = some comb0 ∧
    t0.inTask = true ∧ t0.canExecute ∧ t0.canClose := ⟨⟨rfl, rfl⟩, rfl, rfl, rfl, rfl, rfl, rfl, ⟨rfl, rfl⟩, rfl⟩
theorem test_comb : nextWith (exec (.chold 3 1) (regs c0 [(1, 1)])) (fun t => t.me.greg 3 == 0 && (t.combOf 0).any (fun b => b.hold)) = true ∧
    nextWith (exec (.cfloor 3 1) (regs c0 [(1, 5000)])) (fun t => t.me.greg 3 == 1 && (t.combOf 0).any (fun b => b.floor == 1024)) = true ∧
    nextWith (exec (.cload 3 1) (regs c0 [(1, 0x8000)])) (fun t => t.me.greg 3 == 0 && (t.tile 0).adj == -1024) = true ∧
    nextWith (exec (.ccede 3 1) (regs c0 [(1, 5)])) (fun t => t.me.greg 3 == 1) = true ∧
    nextWith (exec (.chold 3 1) t0) (fun t => !(t.ctx 1).live) = true := by decide +kernel

/-! Coprocessor instructions: issue and execution. -/

/-- VectorOperationsJoinTheirQueue: a vector add that fits; blocks and a prefix that do not; a queue that is full. -/
def fullQ : State := u0.modCore 0 (fun k => { k with vq := List.replicate 16 (entry (.vmov 1 2 0 0) 0 0) })
def pfx0 (w : Word) : State := u0.modMe (fun x => x.setSreg 0x024 (2 ^ 63 ||| w))
theorem witness_vector : (∃ d, vInfo (.vadd 1 2 3 0 0) = some d ∧ u0.pfxFits d.use ∧ d.blocks.all (fun q => blockOk q d.ext) = true ∧
    vExtra (.vadd 1 2 3 0 0) (pfxOf d.dflt u0.pfx) = none ∧ u0.operandsReady (d.sa.toList ++ d.sb.toList) d.push false) ∧ u0.me.live = true ∧
    u0.pushBlocked = false ∧ fullQ.pushBlocked = true ∧ (∃ d, vInfo (.vadd 31 2 3 4 0) = some d ∧ d.blocks.all (fun q => blockOk q d.ext) = false) ∧
    (∃ d, vInfo (.vand 1 2 3 0 0) = some d ∧ ¬(pfx0 0x1000).pfxFits d.use) ∧ (pfx0 0x1000).canClose ∧ u0.canClose :=
  ⟨⟨_, rfl, by unfold State.pfxFits; decide +kernel, by decide, by decide, rfl⟩, rfl, rfl, rfl, ⟨_, rfl, by decide⟩, ⟨_, rfl, by unfold State.pfxFits; decide +kernel⟩, rfl, rfl⟩
/-- A vector load of shared memory of a bulk-synchronous job outside its slots. -/
theorem witness_vectorSlot : sharedForm (.vld 1 2 3 0 0) ((bsp0.readOpt (some 2)).1) = true ∧ bsp0.me.issued = none ∧ bsp0.slotRefused bsp0.cur = true ∧
    bsp0.pushBlocked = false ∧ bsp0.canClose := ⟨by decide, rfl, rfl, rfl, rfl⟩
theorem test_vectorSlot : nextWith (exec (.vld 1 2 3 0 0) bsp0) (fun t => t.me.sreg 0x443 == BitVec.ofNat 64 Cause.slotFault.code && (t.core 0).vq == []) = true := by decide +kernel
theorem test_vectorIssue : nextWith (exec (.vadd 1 2 3 0 5) u0) (fun t => (t.core 0).vq.length == 1 && t.me.windows.length == 1 && t.me.pc == 4) = true ∧
    nextWith (exec (.vadd 1 2 3 0 5) fullQ) (fun t => t.me.wait == .fullQueue && t.me.pc == 0) = true ∧
    nextWith (exec (.vadd 31 2 3 4 0) u0) (fun t => t.me.sreg 0x443 == 0x082) = true ∧
    nextWith (exec (.vand 1 2 3 0 0) (pfx0 0x1000)) (fun t => t.me.sreg 0x443 == 0x081 && t.me.sreg 0x024 == 0) = true := by decide +kernel

/-- FmtSetsThePrefix. -/
theorem witness_fmt : u0.canExecute ∧ (encode (.fmt 1 1 7 0 0 0)).isSome = true ∧ u0.me.looping = false := ⟨⟨rfl, rfl⟩, rfl, rfl⟩
theorem test_fmt : nextWith (exec (.fmt 1 1 7 0 0 0) u0) (fun t => t.me.pc == 4 && (t.me.sreg 0x024).getLsbD 63 && t.me.pos == 0) = true := by decide

/-- EngineCommandsJoinTheirQueue: operands that each command takes, and some that it does not. -/
def ops (s : State) (a b : Word) : State := regs s [(1, a), (2, b)]
def cmds : List (Instr × Word × Word × Check) :=
  [(.mzero 1, 0x2020, 0, fun _ x _ => if originOk x false then none else some (.accRange, 0)),
    (.macw 2 2, 0, 0, fun _ _ y => macCheck 2 y false), (.macst 1 2, 0, 0, macstCheck),
    (.mcmdCheck 1, 0, 0, mcmdCheck), (.mcmdZall 1, 1, 0, mcmdCheck), (.mcmdPcancel 1, 2, 0, mcmdCheck),
    (.mringPop 1 2, 0, 1, mringCheck), (.mringPush 1 2, 0x10, 1, mringCheck), (.mringReset 1 2, 0x20, 0, mringCheck),
    (.cpLand 1 2, 0, 0x1000, landCheck), (.cpTm 1 2, 0, 0, noCheck), (.lnTask 1 2, 0x1000, 7, lnTaskCheck), (.lnGraph 1 2, 0x1000, 7, lnGraphCheck),
    (.lnPhase 1 2, 0, 7, lnPhaseCheck), (.lnCancel 1 2, 0, 7, levelCheck), (.wxrel 1, 3, 0, fun _ x _ => opcodeCheck x),
    (.wxdet 1, 3, 0, fun _ x _ => opcodeCheck x)]
theorem witness_commands : c0.canExecute ∧ c0.operandsReady [1, 2] [] true ∧ c0.operandsReady [1] [] true ∧ c0.operandsReady [2] [4] false ∧
    c0.inTask = false ∧ c0.pushBlocked = false ∧ cmds.all (fun f => (f.2.2.2 c0 f.2.1 f.2.2.1).isNone) = true ∧ t0.inTask = true ∧
    t0.me.helper = some helper0 ∧ t0.canExecute ∧ macCheck 2 0 true = none ∧ opcodeCheck 3 = none ∧ mringCheck c0 0x30 0 = some (.reserved, 0) ∧
    ((c0.read 1).2.unpop c0).canClose :=
  ⟨⟨rfl, rfl⟩, rfl, rfl, rfl, rfl, rfl, by decide, rfl, rfl, ⟨rfl, rfl⟩, by decide, by decide, by decide, rfl⟩
/-- The same, stepped under the hold of new launches (R315). -/
def held0 : State := ops (srs c0 [(0x44D, 1), (0x44E, 1)]) 0x1000 7
theorem witness_held : held0.me.stepped = true ∧ (held0.me.sreg 0x44E).getLsbD 0 = true := by decide
theorem test_commands : cmds.all (fun f => nextWith (exec f.1 (ops c0 f.2.1 f.2.2.1)) (fun t =>
      (t.core 0).vq.map (fun q => q.inst) == [f.1] && t.me.pc == 4 && (t.core 0).seq == 1)) = true := by decide
theorem test_commands_deferred : nextWith (exec (.cpTm 1 2) t0) (fun t => t.me.helper.any (fun h => h.deferred.map (fun q => q.inst) == [.cpTm 1 2]) && (t.core 0).vq == []) = true ∧
    nextWith (exec (.mringPop 1 2) (ops c0 0x30 0)) (fun t => t.me.sreg 0x443 == 0x081 && (t.core 0).vq == []) = true ∧
    nextWith (exec (.lnTask 1 2) held0) (fun t => (t.core 0).vq.map (fun q => q.pfx) == [1]) = true ∧
    nextWith (exec (.macr 2 2 3) c0) (fun t => t.me.windows.length == 1) = true ∧
    nextWith (exec (.wxqry 4 1 3) c0) (fun t => t.me.windows.length == 1) = true := by decide

/-- MatrixCommandsJoinTheirQueue: operands at a block of the accumulators, with and without a scale word; commands under way. -/
def mm0 : State := ops q0 0x10 0x2020
def mBusy : State := c0.modTile 0 (fun x => { x with mq := [entry (.mzero 1) 0 0] })
theorem witness_matrix : mm0.me.live = true ∧ mm0.pfxFits useMm ∧ mm0.operandsReady [1, 2] [] true ∧ mm0.operandsReady [1, 2, 28] [] true ∧
    originOk 0x2020 false = true ∧ originOk 0x2020 true = true ∧ mm0.pushBlocked = false ∧ c0.canExecute ∧ c0.drained c0.cur = true ∧ c0.me.late = [] ∧ mBusy.canExecute ∧ mBusy.drained mBusy.cur = false ∧
    (mm0.unpop mm0).canClose := ⟨rfl, by unfold State.pfxFits; decide +kernel, rfl, rfl, by decide, by decide, rfl, ⟨rfl, rfl⟩, rfl, rfl, ⟨rfl, rfl⟩, by decide, rfl⟩
theorem test_matrixIssue : nextWith (exec (.mm 1 2) mm0) (fun t => (t.core 0).vq.map (fun q => (q.a, q.b)) == [(0x10, 0x2020)]) = true ∧
    nextWith (exec (.mmp 1 2) mm0) (fun t => (t.core 0).vq.length == 1) = true ∧
    nextWith (exec (.mms 1 2) mm0) (fun t => (t.core 0).vq.map (fun q => q.qkw) == [7] && (t.tile 0).qk == []) = true ∧
    nextWith (exec (.mms 1 2) (ops q0 0x100 0)) (fun t => t.me.sreg 0x443 == 0x0C1 && (t.tile 0).qk.length == 1) = true ∧
    nextWith (exec .mwait c0) (fun t => (t.core 0).seq == 1 && t.me.pc == 4) = true ∧
    nextWith (exec .mwait mBusy) (fun t => t.me.wait == .drain && t.me.pc == 0) = true := by decide

/-- MovingCommandsOwnTheirLines: eight bytes to shared memory and to tile memory, and a scope that policy forbids. -/
def mv0 : State := ops (srs m0 [(0x250, 8), (0x261, 1), (0x260, 8)]) 0xF000000000000000 0x200
theorem witness_moving : mv0.canExecute ∧ mv0.operandsReady [1, 2] [] true ∧ cpCheck 1 mv0 0xF000000000000000 0x200 = none ∧
    gathCheck 1 true mv0 0xF000000000000000 0x200 = none ∧ mv0.inTask = false ∧ mv0.pushBlocked = false ∧
    ((mv0.ownLines { (mv0.capture 0 (.cpGo 1 2 1) 0 0xF000000000000000 0x200 0) with seq := 0 } 1).1.any (fun t => !t.pushBlocked)) = true ∧
    (mv0.cmdLines { (mv0.capture 0 (.cpGo 1 2 1) 0 0xF000000000000000 0x200 0) with seq := 0 }).1 = some [4] ∧
    (mv0.me.sreg 0x807).getLsbD 0 = false ∧ (mv0.unpop mv0).canClose :=
  ⟨⟨rfl, rfl⟩, rfl, by decide, by decide, rfl, rfl, by decide +kernel, by decide +kernel, rfl, rfl⟩
theorem test_moving : nextWith (exec (.cpGo 1 2 1) mv0) (fun t => (t.core 0).vq.map (fun q => q.qkw) == [1] && (t.l2line 4).engine == some 1 && t.nextReq == 2) = true ∧
    nextWith (exec (.gaGo 1 2 1) mv0) (fun t => (t.l2line 4).engine == some 1) = true ∧
    nextWith (exec (.cpGo 1 2 3) mv0) (fun t => t.me.sreg 0x443 == 0x18C && (t.core 0).vq == []) = true := by decide +kernel

/-- WaxStatusReplayAndLaunchWait: operands of WXLD, WXSTM and RP.RUN; bindings; a pending launch command; a level that has ended. -/
def wl0 : State := ops c0 0xF000000000000800 0x13
def bound0 : State := (ops c0 0xF000000000000800 3).modMe (fun x => x.setBind 3 { bound := true, reason := 0, slot := 1, ident := loadKey 5, lent := false })
def rp0 : State := (ops c0 5 1).modMe (fun x => { x with rep := { x.rep with buf := [(0, 0)] } })
def lnPend : State := (ops c0 0 7).modCore 0 (fun k => { k with vq := [entry (.lnPhase 1 2) 0 7] })
theorem witness_wax : wl0.canExecute ∧ wl0.operandsReady [1, 2] [] true ∧ wl0.pushBlocked = false ∧ (0x13 : Word) &&& 0x37 = 0x13 ∧
    wxstmCheck bound0 0xF000000000000800 3 = none ∧ rpCheck rp0 5 1 = none ∧ rp0.inTask = false ∧ (bound0.me.bind 3).bound = true ∧
    bound0.imageOf bound0.myTile (bound0.bindKey 0 3) = none ∧ (c0.me.bind 3).bound = false ∧ c0.me.sreg 0x2A0 = 0 ∧ c0.canClose ∧
    [1, 2, 3].all (fun r => blockOk r 0) = true ∧ c0.operandsReady [1] [] true ∧ c0.operandsReady [2] [4] false ∧ levelOk 0 7 = true ∧
    c0.lnPending c0.cur = false ∧ c0.levelBusy 1 1 0 7 = false ∧ lnPend.lnPending lnPend.cur = true ∧ bound0.lentFails 3 (fun m => waxArityOk m 1 2 3) = false :=
  ⟨⟨rfl, rfl⟩, rfl, rfl, by decide, by decide, by decide, rfl, rfl, by decide, rfl, rfl, rfl, by decide, rfl, rfl, by decide, by decide, by decide, by decide, by decide⟩
/-- A context with a wax upcall that an unbound WAX enters, its prefix pending. -/
def waxUp0 : State := srs c0 [(0x2A0, 0x300), (0x024, 0x800000000000E000)]
theorem witness_waxUpcall : (waxUp0.me.bind 3).bound = false ∧ waxUp0.inTask = false ∧ waxUp0.me.sreg 0x2A0 ≠ 0 ∧ (waxUp0.me.sreg 0x114).getLsbD 2 = false ∧
    waxUp0.canClose ∧ waxUp0.closesClean ∧ waxUp0.me.live = true ∧ waxUp0.pfxFits useWax :=
  ⟨rfl, rfl, by decide, rfl, rfl, rfl, rfl, by unfold State.pfxFits; decide +kernel⟩
theorem test_waxUpcall : nextWith (exec (.wax 1 2 3 0 3 0) waxUp0) (fun t => t.me.pc == 0x300 && t.me.sreg 0x114 == 4 && t.me.sreg 0x2A2 == 0x8000000000000003 &&
    t.me.sreg 0x113 == 0xFFFFFFFFFFFFFFFC) = true := by decide +kernel
theorem witness_copHeld : c0.copHeld = false ∧ (c0.read 2).1.toNat < 256 ∧ (lnPend.lnPending lnPend.cur = true) := by decide +kernel
theorem test_wax : nextWith (exec (.wxld 1 2) (bound0.modMe (fun x => x.setGreg 2 0x14))) (fun t => (t.me.bind 4).bound && (t.me.bind 4).slot == 1 && !(t.me.bind 3).bound &&
      (t.me.bind 3).reason == 2 && t.me.sreg 0x2AC == 0xF000000000000800) = true ∧
    nextWith (exec (.wxstm 1 2) bound0) (fun t => (t.core 0).vq.map (fun q => q.qkw.toNat) == [loadKey 5]) = true ∧
    nextWith (exec (.wax 1 2 3 0 3 0) bound0) (fun t => (t.core 0).vq.length == 1 && t.me.windows.length == 1) = true ∧
    nextWith (exec (.wax 1 2 3 0 3 0) c0) (fun t => t.me.pc == 0x100 && t.me.sreg 0x443 == (Cause.waxUnbound).code) = true := by decide +kernel
theorem test_repetition : nextWith (exec (.rpRun 1 2) rp0) (fun t => t.me.rep.left == 5 && t.me.rep.rs == 1 && t.me.pc == 4) = true ∧
    nextWith (exec (.rpRec 1) rp0) (fun t => t.me.rep.target == 5 && t.me.rep.buf == []) = true ∧
    nextWith (exec (.enStat 4 2 0) (ops c0 0 0)) (fun t => t.me.greg 4 == 0 && t.me.pc == 4) = true ∧
    nextWith (exec (.lnWait 1 2) (ops c0 0 7)) (fun t => t.me.pc == 4) = true ∧
    nextWith (exec (.lnWait 1 2) lnPend) (fun t => t.me.pc == 0 && t.me.wait == .lnWait) = true := by decide +kernel

/-- VectorOperationsDeliverTheirValues: an OR of V2 and V3 at the head of its queue, with its window, and one with a format that it does not take. -/
def vq0 (pfx : IWord) : State := (u0.modCore 0 (fun k => { k with vq := [{ entry (.vor 1 2 3 0 0) 0 0 with pfx := pfx, vf := [(2, 0xF00), (3, 0x00F)] }] })).modMe
  (fun x => { x with windows := [{ last := 3, seq := some 5, ready := false, replay := false, writes := [] }] })
theorem witness_vectorOp : (∃ q d u, ((vq0 0).core 0).vq = [q] ∧ ((vq0 0).core 0).held = [] ∧ q.replay = false ∧ q.rel = none ∧ (vq0 0).owner q = some 0 ∧ vInfo q.inst = some d ∧ (vq0 0).takeLanes 0 = some u ∧
      vFormats q.inst (q.vop d (u.ctx 0).tc).p.fa (q.vop d (u.ctx 0).tc).p.fb = true ∧ vecMem q.inst = none ∧
      (q.vop d (u.ctx 0).tc).p.fa.isInt = true ∧ (q.vop d (u.ctx 0).tc).p.sat = false ∧
      ∃ r, (q.vop d (u.ctx 0).tc).compute = .done r ∧ ∀ f ∈ r.flags, enabledCause f.2.2 (((u.ctx 0).sreg 0x021).setWidth 5) = none) ∧
    isHelperSlot (cidSlot 0) = false ∧ [1, 2, 3].all (fun r => blockOk r 0) = true :=
  ⟨⟨_, _, _, rfl, rfl, rfl, rfl, by decide +kernel, rfl, rfl, by decide +kernel, rfl, by decide +kernel, by decide +kernel, _, rfl, by decide +kernel⟩, rfl, by decide⟩
theorem test_vectorOp : nextWith (exec (.vectorExecute 0) (vq0 0)) (fun t => (t.core 0).vq == [] && t.me.windows.all (fun w => w.ready)) = true := by decide +kernel
theorem test_vectorOp_format : nextWith (exec (.vectorExecute 0) (vq0 0x00200000)) (fun t => (t.core 0).vq == [] && t.me.late.map (fun l => l.cause) == [.operandFormat]) = true := by
  decide +kernel
/-! Engines, the Glalin array, launches. -/

/-- EnginesStartAndRetireTheirCommands: a queue whose head is a matrix command, a copy that owns its lines, and a wax load. -/
def qd (l : List QEntry) : State := c0.modCore 0 (fun k => { k with vq := l })
def copy0 : QEntry := { entry (.cpTm 1 2) 0xF000000000000080 0xF000000000000100 with qkw := 1, sr := [(0x250, 8)] }
def load0 : QEntry := { entry (.wxld 1 2) 0xF000000000000800 0x13 with qkw := BitVec.ofNat 64 (loadKey 5) }
theorem witness_accept : engineOf (entry (.mzero 1) 0 0).inst = some 3 ∧ ((qd [entry (.mzero 1) 0 0]).tile 0).mq.length < 16 ∧
    engineOf copy0.inst = some 0 ∧ copy0.qkw ≠ 0 ∧ 16 ≤ (((qd [entry (.mzero 1) 0 0]).modTile 0 (fun x => { x with mq := List.replicate 16 copy0 })).tile 0).mq.length ∧
    ((qd [load0]).core 0).held = [] ∧ ((qd [load0]).tile 0).wq = [] := by decide
theorem test_accept : nextWith (exec (.engineAccept 0) (qd [entry (.mzero 1) 0 0])) (fun t => (t.core 0).vq == [] && (t.tile 0).mq == [entry (.mzero 1) 0 0]) = true ∧
    nextWith (exec (.engineAccept 0) (qd [copy0])) (fun t => (t.core 0).vq == [] && (t.tile 0).eng.map (fun e => (e.id, e.eng)) == [(1, 0)]) = true ∧
    nextWith (exec (.engineAccept 0) (qd [load0])) (fun t => (t.core 0).vq == [] && (t.tile 0).wq == [load0]) = true := by decide +kernel

/-- Rings 0 and 1 hold one 4,096-byte tile each. -/
def rings0 (held : Word) : State := c0.modTile 0 (fun x => ((((((((x.setSreg 0x200 0x2000).setSreg 0x201 0x2000).setSreg 0x202 0x1000).setSreg 0x204 1).setSreg 0x208
  0x4000).setSreg 0x209 0x2000).setSreg 0x20A 0x1000).setSreg 0x20C held))
def mmQ : QEntry := { entry (.mm 1 2) 0x90 0x2020 with pfx := 0 }
def starting (q : QEntry) (held : Word) : State := ((rings0 held).setAcc 0 32 33 7).modTile 0 (fun x => { x with mq := [q] })
theorem witness_matrixStart : ((starting mmQ 1).tile 0).streams = [] ∧ ((starting mmQ 1).tile 0).wq = [] ∧ ((starting mmQ 1).tile 0).mrun = [] ∧
    pairOk mmQ.mmPfx.fa mmQ.mmPfx.fb = true ∧ ((starting mmQ 1).ring 0 0).valid = true ∧ ((starting mmQ 1).ring 0 1).valid = true ∧
    tileBytes mmQ.mmPfx.fa ≤ ((starting mmQ 1).ring 0 0).tileBytes ∧ tileBytes mmQ.mmPfx.fb ≤ ((starting mmQ 1).ring 0 1).tileBytes ∧
    0 < ((starting mmQ 1).ring 0 0).held ∧ 0 < ((starting mmQ 1).ring 0 1).held ∧ ((starting mmQ 0).ring 0 1).held = 0 ∧
    pairOk ({ mmQ with pfx := 0x00200000 } : QEntry).mmPfx.fa ({ mmQ with pfx := 0x00200000 } : QEntry).mmPfx.fb = true ∧
    pairOk ({ mmQ with pfx := 0x00600000 } : QEntry).mmPfx.fa ({ mmQ with pfx := 0x00600000 } : QEntry).mmPfx.fb = false ∧
    (starting mmQ 1).owner mmQ = some 0 ∧ (starting mmQ 1).accHeld 0 mmQ = false ∧ (starting mmQ 1).overtakes mmQ 0 = false ∧
    ((starting mmQ 1).modTile 0 (fun x => { x with mrun := [{ q := { mmQ with ord := 1, a := 0x2020 }, abyte := [], bbyte := [], pops := [], paired := true, tc := false, partner := 0 },
      { q := { entry (.mringPush 1 2) 0 0 with ord := 1 }, abyte := [], bbyte := [], pops := [], paired := true, tc := false, partner := 0 }] })).accHeld 0 mmQ = false := by
  decide +kernel
/-- A store to tile memory that a later copy of its context would overtake. -/
def behind0 : State := c0.modTile 0 (fun x => { x with eng := [{ id := 1, eng := 0, q := { copy0 with ord := 1 }, owned := [], moved := 0, src := [] }] })
theorem witness_overtakes : behind0.overtakes { copy0 with ord := 2 } 0 = true ∧ behind0.overtakes { copy0 with ord := 0 } 0 = false := by decide +kernel
theorem test_matrixStart : nextWith (exec (.matrixCommandStart 0) (starting { mmQ with inst := .mzero 1, a := 0x2020 } 1)) (fun t => t.accWord 0 32 33 == 0 && (t.tile 0).mq == []) = true ∧
    nextWith (exec (.matrixCommandStart 0) (starting mmQ 0)) (fun t => (t.tile 0).mq == [mmQ]) = true ∧
    nextWith (exec (.matrixCommandStart 0) (starting mmQ 1)) (fun t => (t.tile 0).mq == [] && (t.tile 0).mrun.map (fun r => r.pops) == [[1]]) = true ∧
    nextWith (exec (.matrixCommandStart 0) (starting { mmQ with pfx := 0x00600000 } 1)) (fun t => (t.tile 0).mq == [] && (t.ctx 0).late.map (fun l => l.cause) == [.operandFormat]) = true := by
  decide +kernel
/-- A started command with integer tiles; one of a pair that has not committed. -/
def run0 : MRun := { q := { mmQ with pfx := 0x00200000 }, abyte := List.replicate 4096 1, bbyte := List.replicate 4096 2, pops := [1], paired := true, tc := false, partner := 0 }
def retiring (r : MRun) : State := ((rings0 1).setAcc 0 32 33 7).modTile 0 (fun x => { x with mrun := [r] })
theorem witness_retire : ((retiring run0).tile 0).mrun = [run0] ∧ run0.paired = true ∧ run0.q.scale = none ∧ originOk run0.q.b false = true ∧
    run0.q.mmPfx.fa ∈ [Fmt.i8, .z8] ∧ run0.q.mmPfx.fb ∈ [Fmt.i8, .z8] ∧ run0.q.mmPfx.sat = false ∧ run0.abyte.length = 4096 ∧ run0.bbyte.length = 4096 ∧
    run0.pops = [1] ∧ ((retiring run0).ring 0 1).valid = true :=
  ⟨rfl, rfl, rfl, by decide, by decide, by decide, by decide, List.length_replicate, List.length_replicate, rfl, by decide +kernel⟩
theorem test_retire_waits : nextWith (exec (.matrixCommandRetire 0) (retiring { run0 with paired := false })) (fun t => (t.tile 0).mrun.length == 1) = true := by decide +kernel
/-- R82: one element of the block: 7 + 128 products of 1 and 2; −1 times 2 with a signed A. -/
theorem test_retire_element : mmElem run0.q.mmPfx false none 7 (List.replicate 128 1) (List.replicate 128 2) = (263, Flags.none) ∧
    mmElem { run0.q.mmPfx with fa := .i8 } false none 7 (List.replicate 128 255) (List.replicate 128 2) = (0xFFFFFF07, Flags.none) := by decide +kernel

/-- PairsCommitOrAbort: tiles 0 and 1 with each other's halves, that agree or differ in their tag. -/
def half (u tag : Nat) : PairHalf := { from_ := u, tag := tag, pfx := 0, bytes := [], since := 0 }
def pr (b : Word) (cid : Nat) : MRun := { q := { entry (.mmp 1 2) 0x90 b with cid := cid, tag := cid }, abyte := [], bbyte := [], pops := [], paired := false, tc := false, partner := 1 - cid / 16 }
def pairs (tag : Nat) : State := (c0.modTile 0 (fun x => { (x.setSreg 0x241 0x8000000100000000) with mrun := [pr 0x50000 0], half := some (half 1 tag) })).modTile 1
  (fun x => { x with mrun := [pr 0x50000 16], half := some (half 0 5) })
theorem witness_pairs : ((pairs 5).tile 0).half = some (half 1 5) ∧ ((pairs 5).tile 1).half = some (half 0 5) ∧ (pairs 5).openMmp 0 = some (pr 0x50000 0) ∧
    (pairs 5).openMmp 1 = some (pr 0x50000 16) ∧ (pr 0x50000 0).q.b.toNat / 65536 % 256 = 5 ∧ isHelperSlot (cidSlot 0) = false ∧ isHelperSlot (cidSlot 16) = false ∧
    (pairs 5).owner (pr 0x50000 0).q = some 0 ∧ (c0.modTile 0 (fun x => { x with half := some (half 1 5) })).openMmp 0 = none ∧
    (c0.modTile 0 (fun x => { x with half := some (half 1 5) })).openMmp 1 = none := by decide +kernel
/-- A half whose sender still waits and whose receiver has not started. -/
def pairLate : State :=
  { (c0.modTile 0 (fun x => { x with half := some (half 1 5) })).modTile 1 (fun x => { (x.setSreg 0x241 0x8000000000000000) with mrun := [pr 0x50000 16] }) with cal := 1024 }
theorem witness_pairTimeout : (pairLate.tile 0).half = some (half 1 5) ∧ (half 1 5).since + 1024 ≤ pairLate.cal ∧ pairLate.openMmp 0 = none ∧
    pairLate.openMmp 1 = some (pr 0x50000 16) ∧ pairLate.pairStarted 0 1 = false ∧ (pairs 5).pairStarted 0 1 = true := by decide +kernel
theorem test_pairs : nextWith (exec (.mmpPairCommit 0) (pairs 5)) (fun t => (t.tile 0).mrun.all (fun m => m.paired) && (t.tile 1).mrun.all (fun m => m.paired) &&
      (t.tile 0).half.isNone && (t.tile 1).half.isNone) = true ∧
    nextWith (exec (.mmpPairCommit 0) (pairs 6)) (fun t => (t.tile 0).mrun == [] && (t.tile 1).mrun == [] && (t.ctx 0).late.map (fun l => l.cause) == [.pairAbort]) = true ∧
    nextWith (exec (.mmpPairTimeout 0) { c0.modTile 0 (fun x => { x with half := some (half 1 5) }) with cal := 1024 }) (fun t => (t.tile 0).half.isNone) = true ∧
    nextWith (exec (.mmpPairTimeout 0) { c0.modTile 0 (fun x => { x with half := some (half 1 5) }) with cal := 1023 }) (fun t => (t.tile 0).half.isSome) = true := by decide +kernel

/-- EnginesMoveTheirBytes: a copy within tile memory, a write at home, and collectives of one and of two members. -/
def copying (q : QEntry) (n : Nat) : State := { m0 with combs := [comb0], calApplied := [(6 * 0x40, 63)] }.modTile 0 (fun x => { x with eng := [{ id := 1, eng := n, q := q, owned := [], moved := 0, src := [] }] })
def coll0 (root : Word) : QEntry := { entry (.coBcast 1 2 0) 0xF000000000000080 0xF000000000000200 with
  sr := [(0x340, 0x8000000700000001), (0x271, 4), (0x272, 0xE), (0x270, root)] }
theorem witness_copy : ((copying copy0 0).tile 0).eng = [{ id := 1, eng := 0, q := copy0, owned := [], moved := 0, src := [] }] ∧ isTm copy0.a = true ∧ isTm copy0.b = true ∧
    ptrTile 0 copy0.a < 1024 ∧ checkPtr ((copying copy0 0).withSr copy0) 0 copy0.a 1 .read = none ∧ checkPtr ((copying copy0 0).withSr copy0) 0 copy0.b 1 .write = none ∧
    copy0.sreg 0x251 = 0 ∧ ptrOff copy0.a + (copy0.sreg 0x250).toNat ≤ 0x100000 ∧ ptrOff copy0.b + (copy0.sreg 0x250).toNat ≤ 0x100000 ∧
    (copying copy0 0).overtakes copy0 0 = false ∧ (copying copy0 0).routeOpen ((copying copy0 0).yardOf 0) 0 0 = true ∧ ptrTile 0 copy0.a = 0 ∧ ptrTile 0 copy0.b = 0 := by
  decide +kernel
theorem test_copy : nextWith (exec (.engineCommandComplete 0 0) (copying copy0 0)) (fun t => leNat (t.tmBytes 0 0 0x100 8) == 0x8887868584838281 && (t.tile 0).eng == []) = true := by
  decide +kernel
def home0 : QEntry := { copy0 with inst := .cpGo 1 2 1, b := 0x200, sr := SMap.set srReset (m0.ctx 0).sr 0x250 8 }
def copyHome : State := m0.modTile 0 (fun x => { x with eng := [{ id := 1, eng := 0, q := home0, owned := [], moved := 0, src := [] }] })
theorem witness_writeHome : (copyHome.tile 0).eng = [{ id := 1, eng := 0, q := home0, owned := [], moved := 0, src := [] }] ∧ copyHome.cmdStart home0 = none ∧ copyHome.overtakes home0 0 = false ∧
    (match copyHome.movePiece home0 1 0 (copyHome.cmdFill home0) true [] with | .go _ i => i == 8 | _ => false) = true := by decide +kernel
theorem test_copyHome : nextWith (exec (.engineWriteHome 0) copyHome) (fun t => leNat (t.bytes 0x200 8) == 0x8887868584838281 && (t.tile 0).eng.map (fun e => e.moved) == [8]) = true := by
  decide +kernel
theorem witness_collective : (copying (coll0 0) 2).collMembers 1 7 = [(0, { id := 1, eng := 2, q := coll0 0, owned := [], moved := 0, src := [] })] ∧
    (collBar (coll0 0).sreg).toNat % 65536 = 1 ∧ collFmt ((coll0 0).sreg 0x272) = some .f32 ∧ collRank (coll0 0) = (collKey (coll0 0)).2.2.2 ∧
    (coll0 0).sreg 0x273 = 0 ∧ (copying (coll0 0) 2).portOpen 0 6 = true ∧ ((copying (coll0 0) 2).collSend [(0, { id := 1, eng := 2, q := coll0 0, owned := [], moved := 0, src := [] })]).overtakes (coll0 0) 0 = false ∧
    ({ copying (coll0 0) 2 with calApplied := [] } : State).portOpen 0 6 = false ∧ (copying (coll0 0) 2).routeOpen ((copying (coll0 0) 2).yardOf 0) 0 0 = true ∧
    (copying (coll0 0) 2).matrixBefore 0 (coll0 0) = false ∧ checkPtr ((copying (coll0 0) 2).withSr (coll0 0)) 0 (coll0 0).a 1 .read = none ∧
    checkPtr ((copying (coll0 0) 2).withSr (coll0 0)) 0 (coll0 0).b 1 .write = none := by decide +kernel
theorem test_collective : nextWith (exec (.collectiveComplete 1 7) (copying (coll0 0) 2)) (fun t => leNat (t.tmBytes 0 0 0x200 8) == 0x8887868584838281 && (t.tile 0).eng == []) = true := by
  decide +kernel
def coll2 : State := (copying { coll0 0 with sr := [(0x340, 0x8000000700000002), (0x271, 4), (0x272, 0xE), (0x270, 0)] } 2).modTile 1 (fun x =>
  { x with eng := [{ id := 2, eng := 2, q := { coll0 0 with cid := 16, tag := 16, sr := [(0x340, 0x8000000700000002), (0x271, 5), (0x272, 0xE), (0x270, 0x10000)] }, owned := [], moved := 0, src := [] }] })
theorem witness_mismatch : (coll2.collMembers 1 7).length = 2 ∧ ((coll2.collMembers 1 7).map (fun m => collKey m.2.q)).eraseDups.length = 2 ∧
    ((coll2.collMembers 1 7).find? (fun x => collRank x.2.q == 0)).isSome = true ∧ (collFmt 0xE).isSome = true := by decide +kernel
theorem test_mismatch : nextWith (exec (.collectiveComplete 1 7) coll2) (fun t => (t.tile 0).eng == [] && (t.tile 1).eng == [] && (t.ctx 0).late.map (fun l => l.cause) == [.collMismatch]) = true := by
  decide +kernel

/-- WaxLoadsStreamsAndReplays: a valid image at 0x800 of the tile and none at 0x1000; a stream that has failed; a replay of one instruction. -/
def image0 : List Byte := [87, 88, 1, 0, 48, 0, 4, 5, 8, 8, 1, 2, 0, 0, 0, 0, 0, 0, 0, 0, 0, 0, 0, 0, 254, 198, 28, 229, 0, 0, 0, 0, 0, 1, 8, 0, 0, 0, 0, 0, 48, 0, 0, 0, 0,
  50, 0, 0]
def loading (p : Word) : State := ((c0.setTmBytes 0 0 0x800 image0).modCtx 0 (fun x => x.setBind 3 { bound := true, reason := 0, slot := 1, ident := loadKey 5, lent := false })).modTile 0
  (fun x => { x with wq := [{ load0 with a := p }] })
theorem witness_load : (loading 0xF000000000000800).owner load0 = some 0 ∧ ((((loading 0xF000000000000800).tile 0).slot (load0.b.toNat / 16 % 4))).owner = none ∧
    ((loading 0xF000000000000800).ctx 0).bind 3 = { bound := true, reason := 0, slot := 1, ident := load0.qkw.toNat, lent := false } ∧ load0.rel = none ∧
    (loading 0xF000000000000800).overtakes load0 0 = false ∧
    (match (loading 0xF000000000000800).readImage load0 0xF000000000000800 with | .got bs _ => bs == image0 | _ => false) = true ∧
    (match (loading 0xF000000000001000).readImage { load0 with a := 0xF000000000001000 } 0xF000000000001000 with | .got bs _ => bs == [] | _ => false) = true ∧
    (match (loading 0).readImage { load0 with a := 0x0100000000000000 } 0x0100000000000000 with | .bad .pointerFormat _ _ => true | _ => false) = true ∧
    (match ((loading 0).modTile 0 (fun x => { x with tlb := [] })).readImage { load0 with a := 8, sr := (m0.ctx 0).sr } 8 with | .wait _ => true | _ => false) = true := by decide +kernel
/-- A helper's binding, taken over from its control context, whose image reads one vector operand. -/
def lent0 : State := (bound0.modMe (fun x => x.setBind 3 { bound := true, reason := 0, slot := 1, ident := 1, lent := true })).modTile 0 (fun x =>
  { x with gl := [(1, { owner := some 0, ident := 1, image := image0 })] })
theorem witness_lent : (lent0.me.bind 3).bound = true ∧ lent0.canClose ∧ lent0.lentFails 3 (fun m => waxArityOk m 1 2 3) = true := ⟨rfl, rfl, by decide +kernel⟩
theorem test_load : nextWith (exec (.waxLoadComplete 0) (loading 0xF000000000000800)) (fun t => ((t.tile 0).slot 1).image == image0 && (t.tile 0).ident == 2 && (t.tile 0).wq == [] &&
      ((t.ctx 0).bind 3).ident == 1) = true ∧
    nextWith (exec (.waxLoadComplete 0) (loading 0xF000000000001000)) (fun t => (t.tile 0).wq == [] && !((t.ctx 0).bind 3).bound &&
      (t.ctx 0).late.map (fun l => l.cause) == [.waxFormat]) = true := by decide +kernel
def stm0 (key : Nat) : QEntry := { entry (.wxstm 1 2) 0xF000000000000000 3 with qkw := BitVec.ofNat 64 key }
def stream0 : Stream := { q := stm0 1, op := 3, tc := false, image := [], desc := [], vals := [], idxs := [], landed := [], dead := [], halted := true, cause := some (0, .streamDesc, 5) }
def streaming (q : List QEntry) (m : List Stream) : State := c0.modTile 0 (fun x => { x with wq := q, streams := m })
theorem witness_stream : (stm0 failKey).qkw.toNat = failKey ∧ 2 ^ 63 ≤ (stm0 (loadKey 4)).qkw.toNat ∧ (stm0 (loadKey 4)).qkw.toNat ≠ failKey ∧
    (portsOf stream0.desc).all (fun p => !p.2.writes) = true ∧ c0.owner stream0.q = some 0 ∧ stream0.q.rel = none ∧
    firstCause (stream0.eval.2.flags.filter (fun p => decide (p.1 ≤ 0))) (((c0.ctx 0).sreg 0x021).setWidth 5) = none := by decide +kernel
theorem test_stream : nextWith (exec (.streamStart 0) (streaming [stm0 (loadKey 4)] [])) (fun t => (t.tile 0).wq.length == 1) = true ∧
    nextWith (exec (.streamStart 0) (streaming [stm0 failKey] [])) (fun t => (t.tile 0).wq == [] && (t.ctx 0).late.map (fun l => l.cause) == [.waxFormat]) = true ∧
    nextWith (exec (.streamEnd 0) (streaming [] [stream0])) (fun t => (t.tile 0).streams == [] && (t.ctx 0).late.map (fun l => (l.cause, l.tval)) == [(.streamDesc, 5)]) = true := by
  decide +kernel
def replaying (left : Nat) : State := c0.modMe (fun x => { x with rep := { Rep.empty with buf := [((encode (.vadd 1 2 3 0 7)).getD 0, 0)], left := left, idx := 1, rs := 1, cs := 2, pc := 0x40 } })
theorem witness_replay : (replaying 2).me.live = true ∧ (replaying 2).me.late = [] ∧ ((replaying 2).core 0).held = [] ∧ ((replaying 2).core 0).vq.length < 16 ∧
    decode ((encode (.vadd 1 2 3 0 7)).getD 0) = .ok (.vadd 1 2 3 0 7) ∧ 3 + 20 < 32 ∧ extentOk (.vadd 21 22 23 0 0) 0 = true := by decide +kernel
theorem test_replay : nextWith (exec (.replayPush 0) (replaying 2)) (fun t => (t.core 0).vq.map (fun q => (q.inst, q.pc)) == [(.vadd 21 22 23 0 0, 0x40)] && t.me.rep.left == 1 && t.me.rep.idx == 2) = true ∧
    nextWith (exec (.replayPush 0) (replaying 0)) (fun t => (t.core 0).vq == []) = true := by decide +kernel
/-! Events: tasks, boundaries, territory, memory, tenants and management. -/

/-- DispatchersPlaceStartAndAge: yard 1 runs, with one launch of one queued task; a ready task on a tile; a launch that has waited. -/
def launch0 : Launch :=
  { yard := 1, job := 1, id := 4, order := 0, ordered := false, prio := 2, count := 1, queue := [{ task0 with launch := some 4 }], running := [],
    solo := none, flags := 0, dispatchable := true, since := 0, held := false }
def dp0 : State := { c0.setMemWord (recordPa 1) 0x2000000000000000 with launches := [launch0] }
theorem witness_dispatch : dp0.yardRuns 1 = true ∧ c0.yardRuns 1 = false ∧ launch0.open = true ∧ dp0.combAt 1 1 = some comb0 ∧
    dp0.mayLeave launch0 { task0 with launch := some 4 } = true ∧ dp0.placing comb0 { task0 with launch := some 4 } = .tile 0 := by decide +kernel
theorem test_dispatch : nextWith (exec (.taskDispatch 1) dp0) (fun t => (t.tile 0).ready == [{ task0 with launch := some 4 }] && t.launches.all (fun l => l.queue == [] && l.running == [0])) = true ∧
    nextWith (exec (.taskDispatch 1) { dp0 with mem := [] }) (fun t => (t.tile 0).ready == []) = true := by decide +kernel
def rd0 : State := dp0.modTile 0 (fun x => { x with ready := [task0] })
theorem witness_helperStart : rd0.startWaits 0 = false ∧ (rd0.tile 0).move = none ∧ rd0.yardRuns (rd0.yardOf 0) = true ∧
    ((List.range 4).all (fun i => (rd0.core i).requeue.isEmpty)) = true ∧ rd0.startPlace (rd0.freestCore 0) = some (1, 0) ∧ rd0.frameOff 0 0 % 4096 = 0 := by decide +kernel
theorem test_helperStart : nextWith (exec (.helperTaskStart 0) rd0) (fun t => (t.ctx 1).live && (t.ctx 1).pc == 0x400 && (t.ctx 1).greg 31 == 0xF000000000002000 &&
    (t.tile 0).frames == [0] && (t.tile 0).ready == []) = true := by decide +kernel
theorem test_aging : nextWith (exec (.launchAging 1 1 4) { dp0 with cal := 65536 }) (fun t => t.launches.all (fun l => l.prio == 1 && l.since == 65536)) = true ∧
    nextWith (exec (.launchAging 1 1 4) { dp0 with cal := 65535 }) (fun t => t.launches == [launch0]) = true := by decide +kernel
theorem test_successor : nextWith (exec (.successorDispatchable 1) { dp0 with launches := [{ launch0 with dispatchable := false }], cal := 9 })
    (fun t => t.launches.all (fun l => l.dispatchable && l.since == 9)) = true := by decide +kernel

/-- CommitsValidateAndPublish: a halting task with a byte to publish; one whose read set is stale. -/
def committing (h : Helper) : State := ({ (c0.setBytes 0x200 [1, 2]) with cur := 1, combs := [{ comb0 with yard := 0 }], launches := [{ launch0 with yard := 0, queue := [], running := [0] }] } : State).setCtx 1 { (c0.ctx 0) with helper := some h }
def hs0 : Helper := { helper0 with halting := some true, task := { task0 with yard := 0 }, dirty := [(0x201, some 0xEE)] }
def hs1 : Helper := { helper0 with halting := some false, task := { task0 with yard := 0, launch := some 4 }, reads := [{ line := 4, ver := 77, failed := false }] }
theorem witness_commit : (committing hs0).drained 1 = true ∧ (committing hs0).turnToCommit hs0.task = true ∧ (committing hs0).homeOpen 0 (4 * 128) (some 1) = true ∧
    (committing hs0).readsHold hs0 = true ∧ hs0.deferred = [] ∧ hs0.task.launch = none ∧ (committing hs0).isDead ((committing hs0).tagOf 1) = false ∧
    (hs0.dirty.map (fun (p : Nat × Option Byte) => p.1)).Nodup ∧ (committing hs0).l2RoomAll hs0.dirtyLines = true ∧ hs0.amos = [] ∧ (committing hs1).l2RoomAll hs1.dirtyLines = true ∧ (committing hs1).readsHold hs1 = false ∧ hs1.task.solo = false ∧ (committing hs1).drained 1 = true ∧
    (committing hs1).homeOpen 0 (4 * 128) (some 1) = true ∧ (committing hs1).turnToCommit hs1.task = true ∧
    ((committing hs1).launchAt 0 1 4).isSome = true ∧ helper0.halting = none := by decide +kernel
/-- What holds a commit back: work under way, and a line that another command owns. -/
theorem witness_commitHeld : ((committing hs0).modCore 0 (fun k => { k with vq := [{ entry (.vmov 1 2 0 0) 0 0 with cid := 1 }] })).drained 1 = false ∧
    4 ∈ hs0.dirtyLines ++ hs0.reads.map (fun e => e.line) ∧
    ((committing hs0).setL2 4 { (committing hs0).l2line 4 with engine := some 9 }).homeOpen 0 (4 * 128) (some 1) = false := by decide +kernel
theorem test_commit : nextWith (exec (.taskCommit 1) (committing hs0)) (fun t => !(t.ctx 1).live && t.byte 0x201 == 0xEE && t.byte 0x200 == 1 && ((t.core 0).endedOf 1) == 1) = true ∧
    nextWith (exec (.taskCommit 1) (committing hs1)) (fun t => !(t.ctx 1).live && t.launches.all (fun l => l.queue.map (fun a => a.aborts) == [1] && l.running == [])) = true ∧
    nextWith (exec (.taskCommit 1) (committing helper0)) (fun t => (t.ctx 1).live) = true := by decide +kernel

/-- BoundaryCausesAreTaken: a late cause, a step and a record are due, at U with vectors set. -/
def late0 : Late := { seq := 5, ord := 5, cause := .operandFormat, member := 2, elem := 3, tval := 9 }
def bc0 (l : List Late) (st : Bool) (r : List TaskFault) : State := u0.modMe (fun x => { x with late := l, stepPend := st, records := r })
def rec0 : TaskFault := { cause := .userTrap, launch := 4, index := 7, toH := false }
theorem witness_boundary : (bc0 [late0] false []).lateDue 0 = true ∧ u0.lateDue 0 = false ∧ (bc0 [] true []).stepDue 0 = true ∧ u0.stepDue 0 = false ∧
    (bc0 [] false [rec0]).recordDue 0 = true ∧ u0.recordDue 0 = false ∧ u0.windowsReady 0 = true ∧ u0.me.sreg 0x441 ≠ 0 := by decide
/-- A step whose command its engine has not accepted. -/
theorem witness_accepting : ((bc0 [] true []).modCore 0 (fun k => { k with vq := [entry (.cpTm 1 2) 0 0] })).accepting 0 = true ∧ (bc0 [] true []).accepting 0 = false := by
  decide
theorem test_boundary : nextWith (exec (.lateCauseReport 0) (bc0 [late0] false [])) (fun t => t.me.pc == 0x100 && t.me.priv == .s && t.me.late == [] && t.me.sreg 0x450 == 5 &&
      t.me.sreg 0x443 == BitVec.ofNat 64 (2 ^ 63 + 2 * 2 ^ 40 + 3 * 2 ^ 32 + Cause.operandFormat.code) && t.me.sreg 0x444 == 9) = true ∧
    nextWith (exec (.singleStepTrap 0) (bc0 [] true [])) (fun t => t.me.pc == 0x100 && t.me.sreg 0x443 == 0x086 && !t.me.stepPend) = true ∧
    nextWith (exec (.taskFaultRecord 0) (bc0 [] false [rec0])) (fun t => t.me.pc == 0x100 && t.me.sreg 0x443 == BitVec.ofNat 64 (2 ^ 62 + Cause.userTrap.code) &&
      t.me.sreg 0x444 == 0x0400000000000007 && t.me.records == []) = true := by decide +kernel

/-- UpcallsSlicesBudgetsAndTileErrors. -/
def ud0 (loss : Bool) : State := (srs u0 [(0x112, 0x300)]).modMe (fun x => { x with lossDue := loss, gains := [0x77], pc := 0x44 })
def ob0 (snap : Word) : State := srs m0 [(0x44A, 5), (0x44B, 6), (0x44C, snap)]
def sl0 (live : Bool) : State := { (if live then c0 else { c0 with ctxs := [] }).modCore 0 (fun k => { k with sr := [(0x446, 0x700), (0x449, 10)] }) with cal := 8 }
theorem witness_upcall : (ud0 true).upcallDue 0 = true ∧ u0.upcallDue 0 = false ∧ (ud0 true).windowsReady 0 = true ∧ (ob0 0).overBudget 0 = true ∧ c0.overBudget 0 = false ∧
    (ob0 0).me.sreg 0x44C = 0 ∧ ((ob0 0x200).agentPa 0 0x200 64 .write).1 = .ok 0x200 { memSide := false, key := some 1 } ∧ (ob0 0x200).isDead 0x10000 = false ∧ (sl0 true).sliceOver 0 = true ∧ ((sl0 true).core 0).handler = false ∧ c0.sliceOver 0 = false := by
  decide +kernel
theorem test_upcall : nextWith (exec (.upcallEntry 0) (ud0 true)) (fun t => t.me.pc == 0x300 && t.me.sreg 0x113 == 0x44 && t.me.sreg 0x114 == 6 && !t.me.lossDue) = true ∧
    nextWith (exec (.upcallEntry 0) (ud0 false)) (fun t => t.me.sreg 0x114 == 5) = true := by decide +kernel
theorem test_budget : nextWith (exec (.budgetExceeded 0) (ob0 0)) (fun t => t.me.saveReq == 2) = true ∧
    nextWith (exec (.budgetExceeded 0) (ob0 0x200)) (fun t => t.me.saveReq == 2 && leNat (t.bytes 0x220 8) == 6) = true := by decide +kernel
theorem test_slice : nextWith (exec (.sliceExpiry 0) (sl0 true)) (fun t => (t.ctx 0).saveReq == 1 && (t.core 0).sliceStart == 10) = true ∧
    nextWith (exec (.sliceExpiry 0) (sl0 false)) (fun t => (t.ctx 11).live && (t.ctx 11).pc == 0x700) = true := by decide +kernel
theorem test_tileError : nextWith (exec (.uncorrectableTileError 0) { t0 with cur := 0 }) (fun t => (t.ctx 0).late.map (fun l => l.cause) == [.tileError] && !(t.ctx 1).live) = true := by
  decide +kernel

/-- ClocksCalendarsAndBordersChange. -/
def ck0 : State := { c0.modTile 0 (fun x => { x with pinDue := some 9, leaving := some 9, cede := some 5 }) with calSince := [(2, 6)] }
def bd0 : State := { (c0.setMemWord (recordPa 1) 0x2000000000000000).modTile 0 (fun x => { x with busy := 64, ready := [task0] }) with
  combs := [{ comb0 with hold := true, holdWas := true }] }
def bd1 : State := { bd0.modTile 32 (fun x => { x with press := 100 }) with
  cal := 8192
  combs := [{ comb0 with tiles := [0, 1, 33] }, { comb0 with job := 2, tiles := [32] }] }
theorem witness_clocks : (ck0.tile 0).pinDue = some 9 ∧ (ck0.tile 0).leaving = some 9 ∧ SMap.get (fun _ => 0) ck0.calSince 2 = 5 + 1 ∧ (ck0.tile 0).cede = some 5 ∧
    bd0.yardRuns 1 = true ∧ bd0.combOf 0 = some { comb0 with hold := true, holdWas := true } ∧ ({ comb0 with hold := true, holdWas := true } : Comb).holdFor 0 = true ∧
    bd1.borderDecision 0 = some { tile := 0, job := 2, via := 32 } ∧ (c0.modTile 1 (fun x => { x with pinned := true })).remotes = [] := by decide +kernel
theorem test_clocks : nextWith (exec (.pinSwitchComplete 0) { ck0 with cal := 9 }) (fun t => (t.tile 0).pinned) = true ∧
    nextWith (exec (.pinSwitchComplete 0) { ck0 with cal := 8 }) (fun t => !(t.tile 0).pinned) = true ∧
    nextWith (exec (.elasticReturnComplete 0) { ck0 with cal := 9 }) (fun t => (t.tile 0).leaving.isNone) = true ∧
    nextWith (exec (.droopStretch 0 2) c0) (fun t => (t.tile 0).clkStretched == 1) = true ∧
    nextWith (exec (.cedeRequestExpiry 0) { ck0 with cal := 65541 }) (fun t => (t.tile 0).cede.isNone) = true ∧
    nextWith (exec (.cedeRequestExpiry 0) { ck0 with cal := 65540 }) (fun t => (t.tile 0).cede.isSome) = true := by decide +kernel
theorem test_calendar : nextWith (exec (.calendarApply 2) { ck0.setByte (configPa 130) 7 with cal := 128 }) (fun t => SMap.get (fun _ => (0 : Byte)) t.calApplied 130 == 7) = true ∧
    nextWith (exec (.calendarApply 2) { ck0.setByte (configPa 130) 7 with cal := 127 }) (fun t => t.calApplied == []) = true := by decide +kernel
theorem test_route : nextWith (exec (.routeEntryApply 3) (c0.setMemWord (configPa 0x130018) 0x5)) (fun t => t.route 3 == 5) = true := by decide +kernel
/-- R39: of 100 tile cycles at four cores 64 issued, so 16 × 0.16 load units, beside one ready task. -/
theorem test_waggle : nextWith (exec .waggleBoundary { bd0 with cal := 80 }) (fun t => (t.tile 0).load == 56 && (t.tile 0).busy == 0) = true := by decide +kernel

/-- TilesAndJobsChangeHands: a move that begins, one whose contexts are gone and one that has drained; rectangles. -/
def loser : Comb := { comb0 with desc := 0xF000000000000000 }
def gainer : Comb := { loser with job := 2, tiles := [32] }
def mv1 (step : Nat) (live : Bool) : State := ({ c0.setMemWord (recordPa 1) 0x2000000000000000 with combs := [loser, gainer], ctxs := if live then c0.ctxs else [] } : State).modTile 0 (fun x => { x with move := some { toJob := 2, via := 32, step := step, since := 0 } })
theorem witness_handover : (mv1 2 true).recState 1 = 2 ∧ ((mv1 2 false).setMemWord (recordPa 1) 0x3000000000000000).recState 1 ≠ 2 ∧
    connected (sortNat (gainer.tiles ++ [0] ++ [])).eraseDups = true ∧
    ((List.range 1024).filter (fun v => ((mv1 3 false).tile v).retired && (mv1 3 false).countsIn gainer v)) = [] ∧ (mv1 2 true).hasContexts 0 = true ∧ (mv1 2 false).hasContexts 0 = false ∧ (mv1 3 false).tileDrained 0 = true ∧
    (mv1 3 false).combAt 1 1 = some loser ∧ (mv1 3 false).combAt 1 2 = some gainer ∧
    ((mv1 3 false).descPa loser).1 ≠ .wait ∧ (((mv1 3 false).descPa loser).2.descPa gainer).1 ≠ .wait ∧
    (((mv1 3 false).descPa loser).2.descPa gainer).2.descFree ((mv1 3 false).descPa loser).1 = true ∧
    (((mv1 3 false).descPa loser).2.descPa gainer).2.descFree (((mv1 3 false).descPa loser).2.descPa gainer).1 = true ∧
    ((mv1 3 false).modCore 0 (fun k => { k with vq := [entry (.vmov 1 2 0 0) 0 0] })).tileDrained 0 = false := by decide +kernel
theorem test_handover : nextWith (exec (.lossGraceExpiry 0) { mv1 2 true with cal := 65536 }) (fun t => (t.ctx 0).saveReq == 4) = true ∧
    nextWith (exec (.handoverDrainComplete 0) (mv1 2 false)) (fun t => (t.tile 0).move.any (fun m => m.step == 3)) = true ∧
    nextWith (exec (.handoverDrainComplete 0) (mv1 3 false)) (fun t => (t.tile 0).move.isNone && t.combs.map (fun b => b.tiles) == [[1], [0, 32]] && t.combs.map (fun b => b.gen) == [2, 2]) = true := by
  decide +kernel
/-- A line that L2 holds. -/
def inL2 : L2Line := { present := true, ver := 9, tenant := 0, way := 0, used := 0, engine := none, solo := none }
def jb0 (rect : Word) : State := { ((c0.setMemWord (c0.jobEntry 1 5 + 8) rect).setMemWord (recordPa 1) 0x2000000000000000).setL2 (lineOf (c0.jobEntry 1 5)) inL2 |>.setL2 (lineOf (c0.jobEntry 1 1)) inL2 with combs := [{ comb0 with tiles := [0, 1, 32, 33] }] }
theorem witness_job : (jb0 0).yardRuns 1 = true ∧ ((jb0 0).setMemWord (recordPa 1) 0x3000000000000000).yardRuns 1 = false ∧
    ((jb0 0).setMemWord (recordPa 1) 0x3000000000000000).recState 1 ≠ 0 ∧ ((jb0 0).setMemWord (recordPa 1) 0).yardRuns 1 = false ∧ ((jb0 0).setMemWord (recordPa 1) 0).recState 1 = 0 ∧
    (jb0 0).combAt 1 5 = none ∧ (jb0 0).combAt 1 1 = some { comb0 with tiles := [0, 1, 32, 33] } ∧ rectTiles 0 = [0] ∧
    rectTiles 0x02020202 = [66] ∧ rectTiles 0x01010000 = [0, 1, 32, 33] ∧ connected [1, 32, 33] = true ∧ (jb0 0).reserved 0 = false ∧
    ((mv1 2 false).combsBeside 1 1 [0, 1]).map (fun c => c.job) = [2] ∧ ((jb0 0).combsBeside 1 1 [0, 1, 32, 33]).map (fun c => c.job) = [] := by decide +kernel
theorem test_job : nextWith (exec (.jobGo 1 5) (jb0 0)) (fun t => (t.tile 0).move.any (fun m => m.toJob == 5) && t.combs.length == 2) = true ∧
    nextWith (exec (.jobGo 1 5) (jb0 0x02020202)) (fun t => leNat (t.bytes (c0.jobEntry 1 5 + 4) 2) == 1) = true ∧
    nextWith (exec (.jobGo 1 5) (jb0 0x01010000)) (fun t => leNat (t.bytes (c0.jobEntry 1 5 + 4) 2) == 2) = true ∧
    nextWith (exec (.jobGo 1 1) (jb0 0)) (fun t => leNat (t.bytes (c0.jobEntry 1 1 + 4) 2) == 3) = true := by decide +kernel
theorem test_jobEnd : nextWith (exec (.jobEnd 1 1) (jb0 0)) (fun t => leNat (t.bytes (c0.jobEntry 1 1 + 4) 2) == 3) = true ∧
    nextWith (exec (.jobEnd 1 1) { mv1 2 true with tiles := [] }) (fun t => !(t.ctx 0).live && (t.tile 1).move.any (fun m => m.toJob == 2)) = true := by decide +kernel

/-- HomesAndPortsServeTheirTraffic. -/
def hm0 : State := { h0.setBytes 0x200 [1, 2, 3, 4] with dead := [(7, 1)] }
def wc0 : State := hm0.modTile 0 (fun x => { x with wcb := [(0x201, some { byte := 0xEE, core := 0, tag := 0, pg := Pg.plain, ptr := 0x201, pc := 0 })] })
def ev1 : State := hm0.setL2 4 { present := true, ver := 9, tenant := 0, way := 0, used := 0, engine := none, solo := none }
theorem witness_home : paSpace 0x200 = 0 ∧ hm0.lineFree 0x200 none = true ∧ hm0.isDead 0 = false ∧ hm0.isDead 7 = true ∧ hm0.tagInFlight 7 = false ∧
    ev1.evictable 4 = true ∧ hm0.evictable 4 = false ∧ ((hm0.tile 0).roLine 4).present = false ∧ ((hm0.tile 0).line 4).dirty = [] ∧ ((m3.tile 0).line 4).dirty ≠ [] ∧
    ((m3.tile 0).roLine 4).present = false ∧ wc0.homeOpen 0 0x201 none = true ∧ m3.homeOpen 0 (4 * 128) none = true ∧ wc0.isDead 0x10000 = false ∧
    wc0.channelDead (lineOf 0x201 * 128) = false ∧ hm0.memBad 0x201 = false ∧ ({ hm0 with badLines := [4] } : State).memBad 0x201 = true ∧
    ((wc0.tile 0).wcb.map (fun (p : Nat × Option DirtyByte) => p.1)).Nodup := by decide +kernel
/-- A line that cannot reach home in this slot, and a write-combining buffer whose line can. -/
theorem witness_homeShut : ({ m3 with calApplied := [(7 * 0x40, 5)] } : State).homeOpen 0 (4 * 128) none = false ∧
    (∀ p ∈ (wc0.tile 0).wcb, wc0.homeOpen 0 p.1 none = true) ∧ hm0.keyClash 0x200 Pg.plain = false := by decide +kernel
theorem test_home : nextWith (exec (.homeAccess { dev := 3, tag := 0, pa := 0x201, memSide := false, op := .read 2 }) hm0) (fun t => t.out == [.milay 3 [2, 3]]) = true ∧
    nextWith (exec (.homeAccess { dev := 3, tag := 0, pa := 0x201, memSide := false, op := .write [9] }) hm0) (fun t => t.bytes 0x200 4 == [1, 9, 3, 4] && t.verOf 0x200 == 2 && t.out == [.milay 3 []]) = true ∧
    nextWith (exec (.l1Writeback 0 4) m3) (fun t => t.byte 0x201 == 0xEE) = true ∧
    nextWith (exec (.l2Eviction 4) ev1) (fun t => t.floorOf 0x200 == 9 && t.verOf 0x200 == 10) = true ∧
    nextWith (exec (.l1LineEviction 0 4) m1) (fun t => !((t.tile 0).line 4).present) = true ∧
    nextWith (exec (.l1LineEviction 0 4) m3) (fun t => ((t.tile 0).line 4).present) = true ∧
    nextWith (exec (.writeCombineDrain 0) wc0) (fun t => t.byte 0x201 == 0xEE && (t.tile 0).wcb == []) = true ∧
    nextWith (exec (.tagDrainComplete 7) hm0) (fun t => t.dead == []) = true := by decide +kernel
def win0 : LandWin := { armed := true, tile := 0, view := 0, off := 0x100, len := 8, fill := 0xF000000000000200, cid := 0, tag := 0, seq := 5 }
def pw (off : Nat) (bytes : List Byte) : PcieWrite := { peer := false, requester := 0, fn := 2, bar := 2, addr := 2 * 2 ^ 20 + off, bytes := bytes, poisoned := false, relaxed := false, seq := 0 }
def pt0 : State := { (c0.setMemWord (recordPa 1) 0x2000000000000000).setFill 0 0 0x200 { target := 8, count := 2, gen := 3, flags := 1 } with wins := [(66, win0)] }
theorem witness_port : pt0.window (pw 2 [5, 6]) = win0 ∧ pt0.yardRuns 1 = true ∧ (c0.window (pw 2 [5, 6])).armed = false ∧
    pt0.admitted 1 0 = false ∧ c0.memWord (configPa 0x132008) ≠ BitVec.allOnes 64 := by decide +kernel
theorem test_port : nextWith (exec (.pciePostedWrite (pw 2 [5, 6])) pt0) (fun t => t.tmBytes 0 0 0x102 2 == [5, 6] && (t.fillAt 0 0 0x200).count == 4) = true ∧
    nextWith (exec (.pciePostedWrite (pw 7 [5, 6])) pt0) (fun t => (t.fillAt 0 0 0x200).over && t.tmByte 0 0 0x107 == 0) = true ∧
    nextWith (exec (.pciePostedWrite (pw 2 [5, 6])) c0) (fun t => t.memWord (configPa 0x132008) == 1) = true ∧
    nextWith (exec (.pcieUnsupportedRequest true 5) c0) (fun t => t.out == [.unsupported true 5]) = true ∧
    nextWith (exec (.msixPost 0x8000000000000203) c0) (fun t => t.out == [.msix true 3 2]) = true ∧
    nextWith (exec (.milayPortDown 4) c0) (fun t => t.byte (linkPa 4) == 0) = true ∧
    nextWith (exec (.milayPortTrained 4) c0) (fun t => t.byte (linkPa 4) == 2) = true := by decide +kernel
def rem0 (pcie wr late : Bool) : Remote := { id := 1, cid := 0, tag := 0, pcie := pcie, isWrite := wr, pa := 0x300, size := 2, bytes := [7, 8], acked := false, isLate := late, tv := 0x340, fill := none, pc := 0x40, sent := 0, failed := false, cmd := none, count := none }
/-- Device 0 behind port 0, which is up. -/
def dev0 (rs : List Remote) : State := { c0.setByte (linkPa 0) 2 with routes := [(0, 1)], remotes := rs }
theorem witness_remote : ({ c0 with remotes := [rem0 false false true] } : State).routeDead (deviceOf 0x300) = true ∧ c0.me.live = true ∧ c0.tagOf 0 = 0 ∧ cidSlot 0 = 0 ∧
    (dev0 []).routeDead (deviceOf 0x300) = false ∧ (dev0 []).livePorts (deviceOf 0x300) = [0] := by decide +kernel
/-- A request to a device with a live port is answered; a second one to the same line waits for the first. -/
theorem witness_milayOpen : (dev0 [rem0 false true false]).milayOpen (rem0 false true false) = true ∧
    (dev0 [rem0 false true false, { rem0 false true false with id := 2 }]).milayOpen { rem0 false true false with id := 2 } = false := by
  have e (rs : List Remote) : (dev0 rs).livePorts (deviceOf 0x300) = [0] := by show (dev0 []).livePorts (deviceOf 0x300) = [0]; decide +kernel
  constructor
  · simp only [State.milayOpen, State.portFor, rem0, e, List.length_singleton, Nat.mod_one]
    decide
  · simp only [State.milayOpen, rem0]
    rw [Bool.and_eq_false_iff]
    exact .inr (by decide)
/-- An access that is over: 1 ms has passed with its route dead, or it has failed before; one that is not. -/
theorem witness_over : (rem0 false true false).sent + 1000000 ≤ ({ c0 with cal := 1000000 } : State).cal ∧ ({ c0 with cal := 1000000 } : State).routeDead (deviceOf 0x300) = true ∧
    ¬(rem0 false true false).sent + 1000000 ≤ ({ c0 with cal := 999999 } : State).cal ∧ ({ rem0 false false false with failed := true } : Remote).failed = true := by decide +kernel
/-- A write whose context has a window that cannot close yet; one that can raise its cause; the OR of a companion word. -/
def openWin : State := c0.modMe (fun x => { x with windows := [{ last := 0, seq := some 3, ready := false, replay := false, writes := [] }] })
theorem witness_canRaise : openWin.canRaise (rem0 false true false) = false ∧ c0.canRaise (rem0 false true false) = true ∧ openWin.canRaise (rem0 false true true) = true ∧
    ({ rem0 false true true with tag := 0x10000 } : Remote).isCompanion = true ∧ (rem0 false true false).isCompanion = false := by decide +kernel
/-- A write of an engine's command. -/
def wr0 : Remote := { rem0 false true true with cmd := some (entry (.cpGo 1 2 0) 0 0) }
theorem witness_writeError : wr0.cmd = some (entry (.cpGo 1 2 0) 0 0) ∧ (entry (.cpGo 1 2 0) 0 0).rel = none ∧ c0.owner (entry (.cpGo 1 2 0) 0 0) = some 0 ∧
    isHelperSlot (cidSlot 0) = false := by decide +kernel
/-- A route entry with an access that is not acknowledged. -/
def far0 : Remote := { rem0 false true false with pa := 0xA * 2 ^ 52 }
theorem witness_routeHeld : (∃ r ∈ ({ c0 with remotes := [far0] } : State).remotes, r.pcie = false ∧ paSpace r.pa = 0xA ∧ deviceOf r.pa = deviceOf far0.pa ∧ r.acked = false) ∧
    c0.remotes = [] := ⟨⟨_, .head _, rfl, by decide, rfl, rfl⟩, rfl⟩
/-- A line that PREF awaits. -/
theorem witness_remoteFill : ({ rem0 false false false with fill := some Pg.plain } : Remote).fill ≠ none ∧
    ({ c0 with remotes := [rem0 true false false] } : State).remotes = [] ++ rem0 true false false :: [] ∧ (rem0 true false false).acked = false := by decide +kernel
theorem test_port_malformed : nextWith (exec (.pciePostedWrite (pw 2 [5, 6])) { pt0.setFill 0 0 0x200 { target := 8, count := 2, gen := 3, flags := 0x200 } with wins := [(66, win0)] })
    (fun t => (t.ctx 0).late.map (fun l => l.cause) == [.fillFormat]) = true := by decide +kernel
theorem test_remote : nextWith (exec (.pcieCompletion 1) { c0 with remotes := [rem0 true true false] }) (fun t => t.remotes == [] && t.bytes 0x300 2 == [7, 8]) = true ∧
    nextWith (exec (.milayAccessTimeout 1) { c0 with remotes := [rem0 false false true], cal := 1000000 }) (fun t => t.remotes.map (fun r => (r.acked, r.failed)) == [(true, true)]) = true ∧
    nextWith (exec (.milayAccessTimeout 1) { c0 with remotes := [wr0], cal := 1000000 }) (fun t => t.remotes == [] && t.me.late.map (fun l => (l.cause, l.tval)) == [(.memError, 0x340)]) = true ∧
    nextWith (exec (.milayAccessTimeout 1) { c0 with remotes := [wr0], cal := 999999 }) (fun t => t.remotes == [wr0]) = true := by
  decide +kernel
/-- R390: without relaxed ordering a write waits for the earlier ones of its requester; none is applied twice. -/
theorem witness_mayApply : pt0.mayApply (pw 2 [5]) = true ∧ ({ pt0 with posts := [(false, 0, 0)] } : State).mayApply (pw 2 [5]) = false ∧
    pt0.mayApply { pw 2 [5] with seq := 1 } = false ∧ pt0.mayApply { pw 2 [5] with seq := 1, relaxed := true } = true := by decide +kernel
/-- R388, R394: the doorbell and the command buffer of port A. -/
theorem test_portA : nextWith (exec (.pciePostedWrite { pw 0 [7, 8] with fn := 0, bar := 0, addr := 0x1000 }) c0) (fun t => t.mgmt.cmdA.take 2 == [7, 8] && !t.mgmt.busyA) = true ∧
    nextWith (exec (.pciePostedWrite { pw 0 (leBytes 8 1) with fn := 0, bar := 0, addr := 8 }) c0) (fun t => t.mgmt.busyA) = true ∧
    nextWith (exec (.pciePostedWrite { pw 0 [7] with fn := 3, bar := 0, addr := 0x1000 }) c0) (fun t => t.mgmt == c0.mgmt) = true := by decide +kernel

/-- TenantCommandsTakeEffect: a record in each state, and one with another command in progress. -/
def tn (st : Nat) : State := ({ State.reset with calSince := [] }).setMemWord (recordPa 1) (BitVec.ofNat 64 (st * 2 ^ 60))
def busy (st : Nat) : State := (tn st).modTenant 1 (fun x => { x with cmd := 2 })
theorem witness_tenant : ([0, 1, 2, 4].all (fun n => (tn n).recState 1 == n && ((tn n).tenant 1).cmd == 0)) = true ∧ ((busy 0).tenant 1).cmd = 2 ∧
    (((tn 2).modTenant 1 (fun x => { x with cmd := 6 })).tenant 1).cmd = 6 := by decide +kernel
theorem witness_create : (tn 0).createFails 1 = none ∧ (tn 0).calendarWaits 1 = false ∧ ((tn 0).setMemWord (recordPa 1 + 8) 0x1).createFails 1 = some 3 := by decide +kernel
theorem witness_rest : ((tn 2).beginYardSave 1 3).yardAtRest 1 = true ∧ (((tn 2).setCtx 0 { Ctx.reset with live := true }).beginYardSave 1 3).yardAtRest 1 = false ∧
    (tn 4).resumeFails 1 = some 9 ∧ (tn 1).saved = [] ∧ (tn 1).dead = [] := by decide +kernel
/-- A saved yard whose image is there; a record whose device belongs to a group; a record with dead tags. -/
def rs0 : State :=
  let s := tn 4
  { (s.setMemWord (s.imageBase 1) (imageMagic 1)).setMemWord (s.imageBase 1 + 8) (s.recField 1 8) with images := [s.yardImage 1] }
theorem witness_tenantResume : rs0.resumeFails 1 = none ∧ (rs0.imageAt 1).isSome = true ∧ ((rs0.imageAt 1).map (fun i => i.todo)) = some [] ∧ rs0.recState 1 = 4 := by decide +kernel
theorem witness_migrate : (((tn 4).setMemWord (recordPa 1 + 0x38) 1).recField 1 0x38).getLsbD 0 = true ∧ ((tn 4).recField 1 0x38).getLsbD 0 = false ∧
    (({ tn 0 with tickets := [List.replicate 64 0] } : State).bytes (recordPa 1 + 0xC0) 64) ∈ [List.replicate 64 (0 : Byte)] ∧
    (∃ d ∈ ({ tn 1 with dead := [(3, 1)] } : State).dead, d.2 = 1) ∧ (tn 1).yardTiles 1 = [0] ∧
    ([0].all (fun t => (tileCids t).all (fun c => !((tn 1).ctx c).live))) = true := by
  refine ⟨?_, ?_, ?_, ⟨(3, 1), .head _, rfl⟩, ?_, ?_⟩ <;> decide +kernel
theorem test_tenant_refused : nextWith (exec (.tenantStart 1) (tn 2)) (fun t => t.memWord (recordPa 1) == 0x2002000000000000) = true ∧
    nextWith (exec (.tenantSave 1) (busy 2)) (fun t => t.memWord (recordPa 1) == 0x2001000000000000) = true ∧
    nextWith (exec (.tenantReservedCommand 1 12) (tn 2)) (fun t => t.memWord (recordPa 1) == 0x200C000000000000) = true ∧
    nextWith (exec (.tenantCreate 1) ((tn 0).setMemWord (recordPa 1 + 8) 0x1)) (fun t => t.memWord (recordPa 1) == 0x0003000000000000) = true := by decide +kernel
theorem test_tenant_commands : nextWith (exec (.tenantCreate 1) (tn 0)) (fun t => t.recState 1 == 1 && t.combs.map (fun b => (b.tiles, b.floor)) == [([0], 1)]) = true ∧
    nextWith (exec (.tenantStart 1) (tn 1)) (fun t => t.recState 1 == 2) = true ∧
    nextWith (exec (.tenantSave 1) ((tn 2).setCtx 0 { Ctx.reset with live := true })) (fun t => t.recState 1 == 3 && (t.ctx 0).saveReq == 6) = true ∧
    nextWith (exec (.tenantResume 1) (tn 4)) (fun t => t.memWord (recordPa 1) == 0x4009000000000000) = true ∧
    nextWith (exec (.tenantMigrateOut 1) (tn 4)) (fun t => t.memWord (recordPa 1) == 0x400D000000000000) = true ∧
    nextWith (exec (.tenantMigrateIn 1) (tn 0)) (fun t => t.memWord (recordPa 1) == 0x000D000000000000) = true ∧
    nextWith (exec (.migrationDone 1 false) ((tn 7).modTenant 1 (fun x => { x with cmd := 6 }))) (fun t => t.memWord (recordPa 1) == 0x400A000000000000) = true := by decide +kernel
def st0 (n : Nat) (done : Bool) : StepCopy := { yard := 1, step := n, complete := done, image := (tn 2).yardImage 1, spans := [], cells := [], pages := [] }
def ck1 : State := { tn 2 with steps := [st0 3 true, st0 4 true, st0 5 false] }
theorem witness_step : (st0 5 false) ∈ ck1.steps ∧ ck1.steps.all (fun d => d.complete || d.step == 5) = true ∧ (tn 2).steps = [] := ⟨by simp [ck1], rfl, rfl⟩
/-- A device that holds, of a complete step, one copy more than a free value says: that value finds one of them. -/
def holding (s : State) (c : StepCopy) : State := { s with steps := List.replicate (s.draw.1.toNat + 1) c }
theorem holding_finds (s : State) (c : StepCopy) (h : (c.yard == 1 && c.complete) = true) :
    ((holding s c).steps.filter (fun c => c.yard == 1 && c.complete))[(holding s c).draw.1.toNat %
      (((holding s c).steps.filter (fun c => c.yard == 1 && c.complete)).length + 1)]? = some c := by
  have e : (holding s c).steps.filter (fun c => c.yard == 1 && c.complete) = List.replicate (s.draw.1.toNat + 1) c :=
    List.filter_eq_self.mpr (fun x hx => by rw [List.eq_of_mem_replicate hx]; exact h)
  have d : (holding s c).draw.1 = s.draw.1 := rfl
  rw [e, d, List.length_replicate, Nat.mod_eq_of_lt (by omega), List.getElem?_replicate, if_pos (by omega)]
theorem holding_record (s : State) (c : StepCopy) : (holding s c).tenant 1 = s.tenant 1 ∧ (holding s c).recState 1 = s.recState 1 := ⟨rfl, rfl⟩
theorem witness_rollBack : ((holding (tn 2) (st0 3 true)).tenant 1).cmd = 0 ∧ (holding (tn 2) (st0 3 true)).recState 1 = 2 ∧
    ∃ c, ((holding (tn 2) (st0 3 true)).steps.filter (fun c => c.yard == 1 && c.complete))[(holding (tn 2) (st0 3 true)).draw.1.toNat %
      (((holding (tn 2) (st0 3 true)).steps.filter (fun c => c.yard == 1 && c.complete)).length + 1)]? = some c := by
  refine ⟨?_, ?_, _, holding_finds _ _ rfl⟩
  · rw [(holding_record _ _).1]; decide +kernel
  · rw [(holding_record _ _).2]; decide +kernel
theorem test_step : nextWith (exec (.checkpointStepComplete 1) ck1) (fun t => t.recField 1 0x58 == 5 && t.steps.map (fun c => (c.step, c.complete)) == [(4, true), (5, true)]) = true := by
  decide +kernel
theorem test_checkpoint : nextWith (exec (.tenantCheckpoint 1) ((tn 2).setCtx 0 { Ctx.reset with live := true })) (fun t => t.recState 1 == 3 && (t.tenant 1).cmd == 8) = true := by
  decide +kernel

/-- ManagementCommandsAndEvents and ResetsBootTheDevice. -/
def mg (holder : Nat) : State := { State.reset with mgmt := { Mgmt.reset with holder := holder, blobs := [(0, [0]), (1, [1, 1, 1])], evA := [[5]] }, cal := 1000000000 }
theorem witness_mgmt : (mg 1).mgmt.holder = portNum .a ∧ (mg 0).mgmt.tieLoser = 0 ∧ (mg 1).mgmt.heard + 1000000000 ≤ (mg 1).cal ∧ (mg 1).mgmt.cur ≤ 1 ∧
    ((mg 1).tile 0).retired = false ∧ (mg 1).mgmt.powered = true ∧ (mg 1).recState 0 = 0 ∧ (tn 2).recState 1 ≠ 0 := by decide +kernel
theorem test_semaphore : nextWith (exec (.semRead .b false) (mg 0)) (fun t => t.mgmt.holder == 2 && t.out == [.reply .b [2, 0, 0, 0, 0, 0, 0, 0]]) = true ∧
    nextWith (exec (.semRead .b true) (mg 0)) (fun t => t.mgmt.holder == 1 && t.mgmt.tieLoser == 2) = true ∧
    nextWith (exec (.semRead .b false) (mg 1)) (fun t => t.mgmt.holder == 1) = true ∧ nextWith (exec (.semRelease .a) (mg 1)) (fun t => t.mgmt.holder == 0) = true ∧
    nextWith (exec .semTimeout (mg 1)) (fun t => t.mgmt.holder == 0) = true := by decide +kernel
theorem test_mgmt : nextWith (exec (.stageBlob .b 7 1 [9]) (mg 1)) (fun t => t.out == [.reply .b [3, 7, 0, 2, 0, 0, 0, 0]] && t.mgmt.blobs == (mg 1).mgmt.blobs) = true ∧
    nextWith (exec (.stageBlob .a 7 1 [9]) (mg 1)) (fun t => t.mgmt.blob 1 == [1, 9, 1] && t.mgmt.replyA == [3, 7, 0, 0, 0, 0, 0, 0]) = true ∧
    nextWith (exec (.eventQueueRead .a) (mg 1)) (fun t => t.mgmt.evA == [] && t.out == [.reply .a [5]]) = true ∧
    nextWith (exec (.eventPost [1]) (mg 1)) (fun t => t.mgmt.evA.map (fun e => e.take 2) == [[5], [1, 0]] && t.mgmt.evB.length == 1) = true ∧
    nextWith (exec (.eventPost [5, 0, 1, 0, 0, 0, 0, 0x80]) (mg 1)) (fun t => t.mgmt.evA == [[5]]) = true ∧
    nextWith (exec (.flrPf0) (mg 1)) (fun t => t.mgmt.holder == 0) = true ∧ nextWith (exec (.flrVf 0) (mg 1)) (fun t => t.mgmt.evA.length == 2) = true ∧
    nextWith (exec .thermalTrip { c0 with mgmt := (mg 1).mgmt }) (fun t => t.ctxs == [] && !t.mgmt.powered) = true := by decide +kernel
theorem test_retire : nextWith (exec (.retire .a 0 (.tile 0)) { c0 with mgmt := (mg 1).mgmt }) (fun t => (t.tile 0).retired && !(t.ctx 0).live && t.mgmt.log == [.tile 0]) = true := by
  decide +kernel
/-- R394: a command stands in port A's buffer while the doorbell's command is in progress; none does. -/
def rung (v : Nat) : State := (mg 1).modMgmt (fun m => { m with busyA := true, cmdA := overlay m.cmdA 0 (leBytes 8 (v + 7 * 256)) })
theorem witness_serveA : (rung 1).mgmt.busyA = true ∧ numAt (rung 1).mgmt.cmdA 0 8 = 1 + 7 % 65536 * 256 + 0 * 2 ^ 32 ∧ (mg 1).mgmt.busyA = false ∧
    numAt (rung 9).mgmt.cmdA 0 8 = 9 + 7 % 65536 * 256 + 0 * 2 ^ 32 := by decide +kernel

end Sys2Proof.Tests
end

section
/-! PROOFS. A special register whose write acts beside it: %upc.vec (R48, R51). -/

namespace Sys2Proof.Machine

/-- Whether the outcome leaves the context whose turn it is with a loss that is still to be told to it (R48). -/
def lossStillDue : Host.Outcome State Fault Refusal → Bool
  | .next t => t.me.lossDue
  | _ => false

/-- A device whose context 0 runs with an upcall handler at 0x1000 and a loss that it has not been told of yet. -/
def lossPending : State :=
  State.reset.setCtx 0 { Ctx.reset with live := true, lossDue := true, sr := [(0x112, 0x1000)] }

/-- The model takes an MTS of 0 to %upc.vec while a loss is still to be told as the end of the handler: nothing is left to be told. -/
theorem lossStillDue_mts_upcVec : lossStillDue (exec (.mts 0 0x112) lossPending) = false := by decide

/-- Refutes O35: %upc.vec (0x112) has a behaviour of its own that the statement does not leave out. A write of 0 to it while a loss is
still to be told turns that loss into a forced save (R48), so the state is not the one in which the register alone is set. -/
theorem not_specialRegistersReadAndWrite : ¬ Obligations.SpecialRegistersReadAndWrite := by
  unfold Obligations.SpecialRegistersReadAndWrite
  intro h
  obtain ⟨-, -, hmts⟩ := h lossPending 0 0 0x112 ⟨rfl, rfl⟩
  obtain ⟨-, -, hstored⟩ := hmts ⟨by decide, by decide⟩ rfl
  obtain ⟨hnext, -, -⟩ := hstored (srRw (allBits - 3)) rfl rfl (by decide) (by decide) (by decide)
  have hacts := lossStillDue_mts_upcVec
  rw [hnext] at hacts
  exact absurd hacts (by decide)

end Sys2Proof.Machine
end

section
/-! PROOFS. What the checks of an instruction answer, and what reading a register leaves as it was. -/

namespace Sys2Proof

/-- What a value made step by step from a list has, when it has it at first and each step keeps it. -/
theorem foldl_keeps {α β : Type} (P : β → Prop) (l : List α) {f : β → α → β} (hf : ∀ b x, P b → P (f b x)) {b : β} (h : P b) :
    P (l.foldl f b) := by
  induction l generalizing b with
  | nil => exact h
  | cons x l ih => exact ih (hf b x h)

/-! Entries of a map. -/

/-- An entry of a map after a write is the one written or one that stood in the map at another key. -/
theorem SMap.mem_of_mem_set {α : Type} [DecidableEq α] {d : Nat → α} {m : SMap α} {k : Nat} {a : α} {p : Nat × α}
    (h : p ∈ SMap.set d m k a) : p = (k, a) ∨ (p ∈ m ∧ p.1 ≠ k) := by
  have herase : p ∈ m.erase k → p ∈ m ∧ p.1 ≠ k := fun hp => by simpa [SMap.erase] using hp
  unfold SMap.set at h
  split at h
  · exact .inr (herase h)
  · exact (SMap.mem_insert.mp h).imp_right herase

/-- What a map reads at a key is an entry of it or the default there. -/
theorem SMap.get_mem_or_default {α : Type} (d : Nat → α) (m : SMap α) (k : Nat) : (k, SMap.get d m k) ∈ m ∨ SMap.get d m k = d k := by
  induction m with
  | nil => exact .inr rfl
  | cons p m ih =>
    obtain ⟨j, a⟩ := p
    by_cases h : j = k
    · subst h; simp [SMap.get]
    · simpa [SMap.get, h, Ne.symm h] using ih

end Sys2Proof

namespace Sys2Proof.Machine

/-! The checks of MFS and MTS (R150, R206). -/

theorem srCheck_ok {n : Nat} {i : SrInfo} {s : State} (hi : srInfo n = some i) (hp : srPriv n s.me.priv = true) :
    srCheck n s = .ok i s := by
  simp [srCheck, hi, hp]

theorem keepCheck_ok {n : Nat} {i : SrInfo} {x : Word} {s : State} (h : x &&& BitVec.ofNat 64 i.keep = x) :
    keepCheck n i x s = .ok () s := by
  have hland : Nat.land x.toNat i.keep = x.toNat := by
    have hx := congrArg BitVec.toNat h
    rw [BitVec.toNat_and, BitVec.toNat_ofNat] at hx
    have hmod : x.toNat &&& i.keep % 2 ^ 64 = (x.toNat &&& i.keep) % 2 ^ 64 := by
      rw [Nat.and_mod_two_pow, Nat.mod_eq_of_lt x.isLt]
    rw [hmod, Nat.mod_eq_of_lt (Nat.lt_of_le_of_lt Nat.and_le_left x.isLt)] at hx
    exact hx
  unfold keepCheck
  rw [hland, bne_self_eq_false]
  rfl

/-- Queues that let an instruction issue let one that tests its destination later issue as well (R136). -/
theorem State.operandsReady_later {s : State} {pops pushes : List Reg} (h : s.operandsReady pops pushes true) :
    s.operandsReady pops pushes false := by
  have hnone (l : List Reg) : l.find? (fun _ => false) = none := List.find?_eq_none.mpr (by simp)
  unfold State.operandsReady gate at *
  dsimp only at *
  split at h
  · cases h
  · next hlink =>
    rw [if_neg hlink]
    split at h
    · cases h
    · next hgroup =>
      rw [if_neg hgroup]
      split at h
      · cases h
      · next hpop =>
        simp only [Bool.false_and, hnone]
        split at h
        · cases h
        · split at h
          · cases h
          · exact h

theorem drain_ok {s : State} (hd : s.drained s.cur = true) (hl : s.me.late = []) : drain s = .ok () s := by
  simp [drain, hd, hl]

/-! Reading a register (R136). -/

theorem State.read_cal (s : State) (r : Reg) : (s.read r).2.cal = s.cal := by
  unfold State.read
  split
  · rw [State.pop_state]
    split
    · rfl
    · split <;> rfl
  · rfl

/-- Reading a register changes nothing of a tile but its queue and its event lines. -/
theorem State.tile_read (s : State) (r : Reg) (t : Nat) : ∃ q e, (s.read r).2.tile t = { s.tile t with qk := q, ev := e } := by
  have hsame (f : Tile → Tile) (hf : ∀ x, ∃ q e, f x = { x with qk := q, ev := e }) :
      ∃ q e, (s.modTile s.myTile f).tile t = { s.tile t with qk := q, ev := e } := by
    by_cases ht : t = s.myTile
    · subst ht; simpa using hf (s.tile s.myTile)
    · rw [State.tile_modTile_ne _ _ ht]; exact ⟨_, _, rfl⟩
  unfold State.read
  split
  · rw [State.pop_state]
    split
    · exact hsame _ (fun x => ⟨_, x.ev, rfl⟩)
    · split
      · exact hsame _ (fun x => ⟨x.qk, _, rfl⟩)
      · exact ⟨_, _, rfl⟩
  · exact ⟨_, _, rfl⟩

/-! The drain (R214, R312): the coprocessor work that a context waits for. -/

theorem State.copBusy_modMe {s : State} {c : Nat} {f : Ctx → Ctx} (hf : (f s.me).sr = s.me.sr) (h : s.copBusy c = false) :
    (s.modMe f).copBusy c = false := by
  have htag : (s.modMe f).tagOf c = s.tagOf c := by
    by_cases hc : c = s.cur
    · subst hc
      have hme : (s.modMe f).ctx s.cur = f s.me := State.me_modMe s f
      simp [State.tagOf, hme, Ctx.sreg, hf]
    · simp [State.tagOf, State.ctx_modMe_ne s f hc]
  simpa [State.copBusy, htag] using h

theorem State.copBusy_modCore {s : State} {c k : Nat} {f : Core → Core} (hf : ∀ x, (f x).vq = x.vq ∧ (f x).held = x.held)
    (h : s.copBusy c = false) : (s.modCore k f).copBusy c = false := by
  have hcore : ((s.modCore k f).core (cidCore c)).vq = (s.core (cidCore c)).vq ∧
      ((s.modCore k f).core (cidCore c)).held = (s.core (cidCore c)).held := by
    by_cases hc : cidCore c = k
    · subst hc; simpa using hf (s.core (cidCore c))
    · rw [State.core_modCore_ne _ _ hc]; exact ⟨rfl, rfl⟩
  unfold State.copBusy at h ⊢
  rw [hcore.1, hcore.2]
  exact h

/-- The work of a tile that a drain waits for. -/
def Tile.sameWork (x y : Tile) : Prop :=
  y.mq = x.mq ∧ y.mrun = x.mrun ∧ y.wq = x.wq ∧ y.streams = x.streams ∧ y.eng = x.eng

theorem State.copBusy_modTile {s : State} {c t : Nat} {f : Tile → Tile} (hf : ∀ x : Tile, x.sameWork (f x))
    (h : s.copBusy c = false) : (s.modTile t f).copBusy c = false := by
  have htile : (s.tile (cidTile c)).sameWork ((s.modTile t f).tile (cidTile c)) := by
    by_cases hc : cidTile c = t
    · subst hc; simpa using hf (s.tile (cidTile c))
    · rw [State.tile_modTile_ne _ _ hc]; exact ⟨rfl, rfl, rfl, rfl, rfl⟩
  obtain ⟨hmq, hmrun, hwq, hstreams, -⟩ := htile
  unfold State.copBusy at h ⊢
  simp only [Bool.or_eq_false_iff] at h ⊢
  obtain ⟨hrest, heng⟩ := h
  refine ⟨by rw [hmq, hmrun, hwq, hstreams]; exact hrest, ?_⟩
  rw [List.any_eq_false] at heng ⊢
  intro p hp
  have hset : p ∈ SMap.set (fun _ => Tile.reset) s.tiles t (f (s.tile t)) := hp
  rcases SMap.mem_of_mem_set hset with rfl | ⟨hp, -⟩
  · obtain ⟨-, -, -, -, he⟩ := hf (s.tile t)
    dsimp only
    rw [he]
    rcases SMap.get_mem_or_default (fun _ => Tile.reset) s.tiles t with hm | hd
    · exact heng _ hm
    · have hreset : s.tile t = Tile.reset := hd
      simp [hreset, Tile.reset]
  · exact heng p hp

theorem State.drained_read {s : State} (r : Reg) (h : s.drained s.cur = true) : (s.read r).2.drained (s.read r).2.cur = true := by
  have hbusy : s.copBusy s.cur = false := by simpa [State.drained] using h
  rw [State.read_cur]
  suffices hread : (s.read r).2.copBusy s.cur = false by simp [State.drained, hread]
  unfold State.read
  split
  · rw [State.pop_state]
    split
    · exact State.copBusy_modTile (fun _ => ⟨rfl, rfl, rfl, rfl, rfl⟩) hbusy
    · split
      · exact State.copBusy_modMe (s := s.modTile s.myTile _) rfl (State.copBusy_modTile (fun _ => ⟨rfl, rfl, rfl, rfl, rfl⟩) hbusy)
      · exact State.copBusy_modCore (fun _ => ⟨Core.setQueue_vq _ _ _, Core.setQueue_held _ _ _⟩) hbusy
  · exact hbusy

theorem State.late_read (s : State) (r : Reg) : (s.read r).2.me.late = s.me.late := by
  obtain ⟨g, hg⟩ := State.me_read s r
  rw [hg]

end Sys2Proof.Machine
end

section
/-! PROOFS. The special registers whose reads and writes act (R4, R29, R74, R99, R214, R246, R302, R304, R322, R361). -/

namespace Sys2Proof.Machine

/-! How a sequence runs, as a step of a proof about its end. -/

theorem bind_run {α β : Type} {m : M α} {f : α → M β} {s t : State} {a : α} {r : EStateM.Result Exit State β} (h : m s = .ok a t)
    (hf : f a t = r) : (m >>= f) s = r := (bind_ok h).trans hf

theorem ite_run_pos {α : Type} {c : Prop} [Decidable c] {m k : M α} {s : State} {r : EStateM.Result Exit State α} (hc : c)
    (h : m s = r) : (if c then m else k) s = r := by
  rw [if_pos hc]; exact h

theorem ite_run_neg {α : Type} {c : Prop} [Decidable c] {m k : M α} {s : State} {r : EStateM.Result Exit State α} (hc : ¬c)
    (h : k s = r) : (if c then m else k) s = r := by
  rw [if_neg hc]; exact h

/-! Reads: %trap.supp and %st.fflags. -/

theorem srPriv_supervisor {n : Nat} {p : Priv} (hn : n < 0x800) (hp : p ≠ .u) : srPriv n p = true := by
  unfold srPriv
  split
  · rfl
  · simpa [hn] using hp

theorem takeSupp_ok (s : State) : takeSupp s = .ok (s.me.sreg 0x451) (s.modMe (fun x => x.setSreg 0x451 0)) := rfl

theorem getSr_fflags (s : State) : getSr 0x020 s = .ok (s.me.sreg 0x020) s := rfl

section
variable {s : State} {d : Reg}

/-- R302: %trap.supp is returned and cleared, by either of the two rows of its word. -/
theorem exec_trapSupp (h : s.canExecute) (hp : s.me.priv ≠ .u) (hg : s.operandsReady [] [d] true) :
    exec (.trapSuppRead d) s = .next (((s.modMe (fun y => y.setSreg 0x451 0)).write d (s.me.sreg 0x451)).goOn) ∧
    exec (.mfs d 0x451) s = .next (((s.modMe (fun y => y.setSreg 0x451 0)).write d (s.me.sreg 0x451)).goOn) := by
  have hcheck : srCheck 0x451 s = .ok srRo s := srCheck_ok rfl (srPriv_supervisor (by decide) hp)
  have htake : (do let x ← takeSupp; writeG d x; next) s =
      .ok () (((s.modMe (fun y => y.setSreg 0x451 0)).write d (s.me.sreg 0x451)).goOn) :=
    bind_run (takeSupp_ok s) (bind_run (writeG_ok d _ _) (next_ok _))
  exact ⟨run_ok h.1 (bind_run (noPrefix_ok h.2) (bind_run hcheck (bind_run hg htake))),
    run_ok h.1 (bind_run (noPrefix_ok h.2) (bind_run hcheck (bind_run hg
      (ite_run_neg (by decide) (ite_run_pos rfl htake)))))⟩

/-- R214: a read of %st.fflags waits for the drain, by either of the two rows of its word. -/
theorem exec_fflagsRead (h : s.canExecute) (hg : s.operandsReady [] [d] true) (hd : s.drained s.cur = true) (hl : s.me.late = []) :
    exec (.fflagsAccess false d) s = .next ((s.write d (s.me.sreg 0x020)).goOn) ∧
    exec (.mfs d 0x020) s = .next ((s.write d (s.me.sreg 0x020)).goOn) := by
  have hlater := State.operandsReady_later hg
  have hpush : gatePush d s = .ok () s := hg
  have hcheck : srCheck (0x020 : BitVec 12).toNat s = .ok (srRw allBits) s := srCheck_ok rfl rfl
  have hread : (do let x ← getSr 0x020; writeG d x; next) s = .ok () ((s.write d (s.me.sreg 0x020)).goOn) :=
    bind_run (getSr_fflags s) (bind_run (writeG_ok d _ _) (next_ok _))
  exact ⟨run_ok h.1 (bind_run (noPrefix_ok h.2) (bind_run hlater (bind_run (drain_ok hd hl)
      (ite_run_neg (by decide) (bind_run hpush hread))))),
    run_ok h.1 (bind_run (noPrefix_ok h.2) (bind_run hcheck (bind_run hlater
      (ite_run_pos rfl (bind_run (drain_ok hd hl) (bind_run hpush (ite_run_neg (by decide) hread)))))))⟩

end

/-! Writes. -/

section
variable {s : State} {a : Reg}

/-- R4, R74, R214: a write of %st.fflags waits for the drain and takes bits [4:0], by either of the two rows of its word. -/
theorem exec_fflagsWrite (h : s.canExecute) (hg : s.operandsReady [a] [] true) (hd : s.drained s.cur = true) (hl : s.me.late = []) :
    exec (.fflagsAccess true a) s =
      .next (((s.read a).2.modMe (fun y => y.setSreg 0x020 ((s.read a).1 &&& 0x1F))).goOn) ∧
    exec (.mts a 0x020) s = .next (((s.read a).2.modMe (fun y => y.setSreg 0x020 ((s.read a).1 &&& 0x1F))).goOn) := by
  have hcheck : srCheck (0x020 : BitVec 12).toNat s = .ok (srRw allBits) s := srCheck_ok rfl rfl
  have hkeep : keepCheck (0x020 : BitVec 12).toNat (srRw allBits) (s.read a).1 (s.read a).2 = .ok () (s.read a).2 :=
    keepCheck_ok BitVec.and_allOnes
  have hdrain := drain_ok (State.drained_read a hd) ((State.late_read s a).trans hl)
  exact ⟨run_ok h.1 (bind_run (noPrefix_ok h.2) (bind_run (State.operandsReady_later hg) (bind_run (drain_ok hd hl)
      (ite_run_pos rfl (bind_run (readG_ok a s) rfl))))),
    run_ok h.1 (bind_run (noPrefix_ok h.2) (bind_run hcheck (bind_run hg (bind_run (readG_ok a s)
      (ite_run_pos rfl (bind_run hkeep (bind_run trapIf_false
        (ite_run_neg (by decide) (ite_run_pos rfl (bind_run hdrain rfl))))))))))⟩

/-! %ctx.ft (R29, R361). -/

@[simp] theorem State.myTile_modMe (s : State) (f : Ctx → Ctx) : (s.modMe f).myTile = s.myTile := rfl

theorem exec_ctxFtWrite_ok {x : Word} {t : State} (h : s.canExecute) (hg : s.operandsReady [a] [] true) (hx : (s.read a).1 = x)
    (hk : x &&& BitVec.ofNat 64 1 = x) (hw : writeFt x (s.read a).2 = .ok () t) : exec (.ctxFtWrite a) s = .next t.goOn := by
  subst hx
  exact run_ok h.1 (bind_run (noPrefix_ok h.2) (bind_run hg (bind_run (readG_ok a s) (bind_run (keepCheck_ok hk)
    (bind_run hw (next_ok t))))))

theorem writeFt_zero (u : State) : writeFt 0 u = .ok () ((u.modMe (fun y => y.setSreg 0x010 0)).unpin u.myTile) := rfl

theorem writeFt_pinned {u : State} (hl : u.losing u.myTile = false) (hp : (u.tile u.myTile).pinned = true) :
    writeFt 1 u = .ok () (u.modMe (fun y => y.setSreg 0x010 1)) := by
  simp [writeFt, hl, hp]

theorem writeFt_wait {u : State} (hl : u.losing u.myTile = false) (hp : (u.tile u.myTile).pinned = false) :
    writeFt 1 u = .error (.wait .pin 0) ((u.modMe (fun y => y.setSreg 0x010 1)).beginPin u.myTile) := by
  simp [writeFt, hl, hp]

/-- R361: the switch is set for a multiple of 64, at least 16 cycles later and before the next one. -/
theorem pinCycle_bounds (c : Nat) : pinCycle c % 64 = 0 ∧ c + 16 ≤ pinCycle c ∧ pinCycle c < c + 80 := by
  unfold pinCycle; omega

theorem State.pinDue_beginPin {u : State} {t : Nat} (hp : (u.tile t).pinned = false) (hd : (u.tile t).pinDue = none)
    (hl : (u.tile t).leaving = none) : ((u.beginPin t).tile t).pinDue = some (pinCycle u.cal) := by
  simp [State.beginPin, hp, hd, hl]

theorem State.me_beginPin (u : State) (t : Nat) : (u.beginPin t).me = u.me := by
  unfold State.beginPin; dsimp only; split <;> rfl

theorem State.me_unpop (t s : State) : (t.unpop s).me = { t.me with got := s.me.got } := by
  simp [State.unpop]

theorem State.pinDue_unpop (t s : State) (k : Nat) : ((t.unpop s).tile k).pinDue = (t.tile k).pinDue := by
  by_cases hk : k = s.myTile
  · subst hk; simp [State.unpop]
  · simp [State.unpop, State.tile_modTile_ne _ _ hk]

/-- An instruction that waits is charged with its wait, where it stands (R35). -/
theorem exec_ctxFtWrite_wait {x : Word} {t : State} (h : s.canExecute) (hg : s.operandsReady [a] [] true) (hx : (s.read a).1 = x)
    (hk : x &&& BitVec.ofNat 64 1 = x) (hw : writeFt x (s.read a).2 = .error (.wait .pin 0) t) :
    exec (.ctxFtWrite a) s = .next ((t.unpop s).beginWait .pin 0) := by
  subst hx
  exact run_wait h.1 (bind_run (noPrefix_ok h.2) (bind_run hg (bind_run (readG_ok a s) (bind_run (keepCheck_ok hk)
    (bind_error hw)))))

/-- R29, R361: on an elastic tile the write of 1 waits, and the tile is due to be pinned at the next exchange of the calendar. -/
theorem exec_ctxFtWrite_pin (h : s.canExecute) (hg : s.operandsReady [a] [] true) (hx : (s.read a).1 = 1)
    (hl : (s.read a).2.losing (s.read a).2.myTile = false) (hp : ((s.read a).2.tile (s.read a).2.myTile).pinned = false)
    (hd : ((s.read a).2.tile (s.read a).2.myTile).pinDue = none) (hv : ((s.read a).2.tile (s.read a).2.myTile).leaving = none) :
    ∃ t, exec (.ctxFtWrite a) s = .next t ∧ t.me.wait = .pin ∧ t.me.pc = s.me.pc ∧ t.me.sreg 0x010 = 1 ∧
      (t.tile s.myTile).pinDue = some (pinCycle s.cal) := by
  have hrun := exec_ctxFtWrite_wait h hg hx rfl (writeFt_wait hl hp)
  obtain ⟨g, hme⟩ := State.me_read s a
  have hcal := State.read_cal s a
  have htile : (s.read a).2.myTile = s.myTile := by simp [State.myTile]
  generalize (s.read a).2 = u at *
  have hdue := State.pinDue_beginPin (u := u.modMe (fun y => y.setSreg 0x010 1)) hp hd hv
  refine ⟨_, hrun, ?_, ?_, ?_, ?_⟩
  · simp [State.beginWait]
  · simp [State.beginWait, State.me_unpop, State.me_beginPin, Ctx.setSreg, hme]
  · simp [State.beginWait, State.me_unpop, State.me_beginPin, Ctx.sreg, Ctx.setSreg]
  · rw [htile] at hdue
    simpa [State.beginWait, State.pinDue_unpop, htile, hcal] using hdue

/-! The ring registers and %mgrp (R99, R246). -/

theorem isTileSr_ring {n : Nat} (hlo : 0x200 ≤ n) (hhi : n < 0x240) : isTileSr n = true := by
  simp [isTileSr, hlo, hhi]

theorem setSr_ring {u : State} {n : Nat} (hlo : 0x200 ≤ n) (hhi : n < 0x240) (x : Word) :
    u.setSr u.cur n x = u.modTile u.myTile (fun y => y.setSreg n x) := by
  rw [State.setSr, if_pos (isTileSr_ring hlo hhi)]; rfl

/-- Whether an instruction in flight is another context's and names ring k (R99). -/
def State.foreignUse (u : State) (k : Nat) (q : QEntry) : Prop :=
  (q.cid ≠ u.cur ∨ q.tag ≠ u.tagOf u.cur) ∧ u.usesRing u.myTile k q = true

theorem foreignUse_any {u : State} {k : Nat} : (u.inFlight u.myTile).any (fun q =>
    (q.cid != u.cur || q.tag != u.tagOf u.cur) && u.usesRing u.myTile k q) = true ↔ ∃ q ∈ u.inFlight u.myTile, u.foreignUse k q := by
  simp [State.foreignUse]

theorem writeRing_ok {u : State} {n : Nat} {x : Word} (hlo : 0x200 ≤ n) (hhi : n < 0x240) (hd : u.drained u.cur = true)
    (hfree : 3 ≤ n % 8 ∨ ∀ q ∈ u.inFlight u.myTile, ¬u.foreignUse ((n - 0x200) / 8) q) :
    writeRing n x u = .ok () (u.modTile u.myTile (fun y => y.setSreg n x)) := by
  have hbusy : ¬(n % 8 < 3 ∧ (u.inFlight u.myTile).any (fun q =>
      (q.cid != u.cur || q.tag != u.tagOf u.cur) && u.usesRing u.myTile ((n - 0x200) / 8) q) = true) := by
    rw [foreignUse_any]
    rintro ⟨hlow, q, hq, huse⟩
    rcases hfree with hhigh | hnone
    · omega
    · exact hnone q hq huse
  rw [writeRing, if_neg (by simp [hd]), if_neg hbusy, setSr_ring hlo hhi]

theorem writeRing_busy {u : State} {n : Nat} {x : Word} (hd : u.drained u.cur = true) (hlow : n % 8 < 3)
    (huse : ∃ q ∈ u.inFlight u.myTile, u.foreignUse ((n - 0x200) / 8) q) : writeRing n x u = .error (.trap .ringBusy 0) u := by
  rw [writeRing, if_neg (by simp [hd]), if_pos ⟨hlow, foreignUse_any.mpr huse⟩]

section
variable {n : BitVec 12} {i : SrInfo}

/-- A ring register write that passes its checks comes to writeRing. -/
theorem ringRegisterWrite_run {r : EStateM.Result Exit State Unit} (h : s.canExecute) (hhi : n.toNat < 0x240)
    (hi : srInfo n.toNat = some i) (hg : s.operandsReady [a] [] true) (hk : (s.read a).1 &&& BitVec.ofNat 64 i.keep = (s.read a).1)
    (hw : (writeRing n.toNat (s.read a).1 >>= fun _ => next) (s.read a).2 = r) :
    (do noPrefix
        let i ← srCheck n.toNat
        gate [a] [] true
        let x ← readG a
        keepCheck n.toNat i x
        writeRing n.toNat x
        next) s = r :=
  have hp : srPriv n.toNat s.me.priv = true := if_pos (by omega)
  bind_run (noPrefix_ok h.2) (bind_run (srCheck_ok hi hp) (bind_run hg (bind_run (readG_ok a s) (bind_run (keepCheck_ok hk) hw))))

/-- R99: a ring register takes the write when the tile's other work does not use the ring. -/
theorem exec_ringRegisterWrite_ok (h : s.canExecute) (hlo : 0x200 ≤ n.toNat) (hhi : n.toNat < 0x240)
    (hi : srInfo n.toNat = some i) (hg : s.operandsReady [a] [] true) (hk : (s.read a).1 &&& BitVec.ofNat 64 i.keep = (s.read a).1)
    (hd : (s.read a).2.drained (s.read a).2.cur = true)
    (hfree : 3 ≤ n.toNat % 8 ∨ ∀ q ∈ (s.read a).2.inFlight (s.read a).2.myTile, ¬(s.read a).2.foreignUse ((n.toNat - 0x200) / 8) q) :
    exec (.ringRegisterWrite a n) s =
      .next (((s.read a).2.modTile (s.read a).2.myTile (fun y => y.setSreg n.toNat (s.read a).1)).goOn) :=
  run_ok h.1 (ringRegisterWrite_run h hhi hi hg hk (bind_run (writeRing_ok hlo hhi hd hfree) (next_ok _)))

/-- R99: the base, size and cursor of a ring that another context's command uses are busy. -/
theorem exec_ringRegisterWrite_busy (h : s.canExecute) (hhi : n.toNat < 0x240)
    (hi : srInfo n.toNat = some i) (hg : s.operandsReady [a] [] true) (hk : (s.read a).1 &&& BitVec.ofNat 64 i.keep = (s.read a).1)
    (hd : (s.read a).2.drained (s.read a).2.cur = true) (hlow : n.toNat % 8 < 3)
    (huse : ∃ q ∈ (s.read a).2.inFlight (s.read a).2.myTile, (s.read a).2.foreignUse ((n.toNat - 0x200) / 8) q)
    (hc : (s.read a).2.canClose) :
    exec (.ringRegisterWrite a n) s = .next (s.raised (s.read a).2 .ringBusy 0) :=
  run_trap h.1 (ringRegisterWrite_run h hhi hi hg hk (bind_error (writeRing_busy hd hlow huse))) hc

end

/-- R246: %mgrp takes the write when no matrix command of the tile is in flight. -/
theorem exec_mgrpWrite_ok (h : s.canExecute) (hg : s.operandsReady [a] [] true)
    (hk : (s.read a).1 &&& 0x800003FF00000003 = (s.read a).1)
    (hfree : ∀ q ∈ (s.read a).2.inFlight (s.read a).2.myTile, isMatrix q.inst = false) :
    exec (.mgrpWrite a) s = .next (((s.read a).2.modTile (s.read a).2.myTile (fun y => y.setSreg 0x241 (s.read a).1)).goOn) := by
  have hnone : (((s.read a).2.inFlight (s.read a).2.myTile).any (fun q => isMatrix q.inst)) = false := by simpa using hfree
  have hw : writeMgrp (s.read a).1 (s.read a).2 =
      .ok () ((s.read a).2.modTile (s.read a).2.myTile (fun y => y.setSreg 0x241 (s.read a).1)) := by
    rw [writeMgrp, if_neg (by simp [hnone])]; rfl
  exact run_ok h.1 (bind_run (noPrefix_ok h.2) (bind_run hg (bind_run (readG_ok a s) (bind_run (keepCheck_ok hk)
    (bind_run hw (next_ok _))))))

/-! %s.kill and %hv.tag (R304, R322). -/

theorem exec_sKillWrite_ok (h : s.canExecute) (hp : s.me.priv ≠ .u) (hg : s.operandsReady [a] [] true) :
    exec (.sKillWrite a) s =
      .next (((s.read a).2.killSaved ((s.read a).2.yardOf (s.read a).2.myTile) ((s.read a).1.toNat % 65536)).goOn) := by
  have hcheck : srCheck 0x44F s = .ok { acc := .wo, keep := allBits } s := srCheck_ok rfl (srPriv_supervisor (by decide) hp)
  exact run_ok h.1 (bind_run (noPrefix_ok h.2) (bind_run hcheck (bind_run hg (bind_run (readG_ok a s) rfl))))

theorem exec_hvTagWrite_ok (h : s.canExecute) (hp : s.me.priv = .h) (hg : s.operandsReady [a] [] true)
    (hx : (s.read a).1.toNat < 65536) (hd : (s.read a).2.isDead (s.read a).1.toNat = false) :
    exec (.hvTagWrite a) s = .next (((s.read a).2.modMe (fun y => y.setSreg 0x808 (s.read a).1)).goOn) := by
  have hcheck : srCheck 0x808 s = .ok (srRw 0xFFFF) s := srCheck_ok rfl (by rw [hp]; rfl)
  have hk : (s.read a).1 &&& BitVec.ofNat 64 (srRw 0xFFFF).keep = (s.read a).1 := by
    apply BitVec.eq_of_toNat_eq
    rw [BitVec.toNat_and]
    exact (Nat.and_two_pow_sub_one_eq_mod _ 16).trans (Nat.mod_eq_of_lt hx)
  have hw : writeTag (s.read a).1 (s.read a).2 = .ok () ((s.read a).2.modMe (fun y => y.setSreg 0x808 (s.read a).1)) := by
    rw [writeTag, hd]; rfl
  exact run_ok h.1 (bind_run (noPrefix_ok h.2) (bind_run hcheck (bind_run hg (bind_run (readG_ok a s) (bind_run (keepCheck_ok hk)
    (bind_run hw (next_ok _)))))))

end

/-! A killed tag is dead (R322). -/

theorem State.isDead_markDead (s : State) (tag yard : Nat) : (s.markDead tag yard).isDead tag = true := by
  unfold State.markDead
  split
  · assumption
  · simp [State.isDead]

theorem State.dead_disown (s : State) (ls : List Nat) : (s.disown ls).dead = s.dead := by
  unfold State.disown
  refine foldl_keeps (fun v : State => v.dead = s.dead) ls (fun _ _ h => ?_) rfl
  exact h

theorem State.dead_stopCommands (s : State) (tag : Nat) : (s.stopCommands tag).dead = s.dead := by
  refine foldl_keeps (fun v : State => v.dead = s.dead) _ (fun v p h => ?_) rfl
  dsimp only
  split
  · exact h
  · exact (v.dead_disown _).trans h

theorem State.isDead_killSaved {s : State} {yard tag job : Nat} (h : (tag, yard, job) ∈ s.saved) :
    (s.killSaved yard tag).isDead tag = true := by
  have hmine : s.saved.any (fun x => x.1 == tag && x.2.1 == yard) = true := List.any_eq_true.mpr ⟨_, h, by simp⟩
  unfold State.killSaved
  dsimp only
  rw [if_pos hmine]
  unfold State.isDead
  dsimp only
  rw [State.dead_stopCommands]
  exact State.isDead_markDead s tag yard

/-- Settles O37: each register's row is run once, through the checks it makes, and the shared facts say what reading the source leaves. -/
theorem specialRegistersWithEffects : Obligations.SpecialRegistersWithEffects := by
  unfold Obligations.SpecialRegistersWithEffects
  intro s d a n h x u
  refine ⟨fun hp hg => exec_trapSupp h hp hg, fun hg hd hl => exec_fflagsRead h hg hd hl, fun hg => ?_⟩
  refine ⟨fun hd hl => exec_fflagsWrite h hg hd hl, ?ft0, ?ftPinned, ?ftElastic, ?ring, ?mgrp, ?kill, ?tag⟩
  case ft0 => exact fun hx => exec_ctxFtWrite_ok h hg hx rfl (writeFt_zero u)
  case ftPinned => exact fun hx hl hp => exec_ctxFtWrite_ok h hg hx rfl (writeFt_pinned hl hp)
  case ftElastic =>
    intro hx hl hp hd hv
    obtain ⟨t, hrun, hwait, hpc, hft, hdue⟩ := exec_ctxFtWrite_pin h hg hx hl hp hd hv
    obtain ⟨hmod, hlo, hhi⟩ := pinCycle_bounds s.cal
    exact ⟨t, _, hrun, hwait, hpc, hft, hdue, hmod, hlo, hhi⟩
  case ring =>
    rintro hlo hhi ⟨i, hi, hk⟩ hd
    exact ⟨fun hfree => exec_ringRegisterWrite_ok h hlo hhi hi hg hk hd hfree,
      fun hlow huse hc => exec_ringRegisterWrite_busy h hhi hi hg hk hd hlow huse hc⟩
  case mgrp => exact fun hk hfree => exec_mgrpWrite_ok h hg hk hfree
  case kill => exact fun hp => ⟨exec_sKillWrite_ok h hp hg, fun j hj => State.isDead_killSaved hj⟩
  case tag => exact fun hp hx hd => exec_hvTagWrite_ok h hp hg hx hd

end Sys2Proof.Machine
end

section
/-! PROOFS. What an access at home leaves as it was, and the version of its line (R103, R104, R368, R369). -/

namespace Sys2Proof.Machine

/-! The frame of L2. -/

/-- At most the lines of L2, their uses and the granules' floors differ. -/
def State.sameButL2 (s t : State) : Prop := ∃ l u f, t = { s with l2 := l, l2Use := u, floors := f }

theorem State.sameButL2_refl (s : State) : s.sameButL2 s := ⟨s.l2, s.l2Use, s.floors, rfl⟩

theorem State.sameButL2_trans {s t u : State} (h : s.sameButL2 t) (k : t.sameButL2 u) : s.sameButL2 u := by
  obtain ⟨l, n, f, rfl⟩ := h
  obtain ⟨l', n', f', rfl⟩ := k
  exact ⟨l', n', f', rfl⟩

theorem State.sameButL2_setL2 (s : State) (l : Nat) (x : L2Line) : s.sameButL2 (s.setL2 l x) := ⟨_, _, _, rfl⟩

theorem State.sameButL2_useL2 (s : State) (l : Nat) : s.sameButL2 (s.useL2 l) := ⟨_, _, _, rfl⟩

theorem State.sameButL2_evictL2 (s : State) (l : Nat) : s.sameButL2 (s.evictL2 l) := by
  unfold State.evictL2
  split
  · exact s.sameButL2_refl
  · exact ⟨_, _, _, rfl⟩

/-- Put line l into a way of its set for a tenant, as placeL2 does once it has found the way. -/
def State.putL2 (s : State) (l t w : Nat) : State :=
  (s.setL2 l { s.l2line l with present := true, tenant := t, way := w }).useL2 l

theorem State.sameButL2_putL2 (s : State) (l t w : Nat) : s.sameButL2 (s.putL2 l t w) := ⟨_, _, _, rfl⟩

/-- What placing a line can do (R368): it takes a free way; it takes the way of an evictable line, which leaves; or its set has no way for it. -/
theorem State.placeL2_cases (s : State) (l t : Nat) :
    (∃ w, s.placeL2 l t = s.putL2 l t w) ∨ (∃ w k, s.wayFor l t = some (w, some k) ∧ s.placeL2 l t = (s.evictL2 k).putL2 l t w) ∨
    (s.wayFor l t = none ∧ s.placeL2 l t = s.setL2 l L2Line.absent) := by
  unfold State.placeL2
  dsimp only
  split
  · exact .inl ⟨_, rfl⟩
  · split
    · exact .inl ⟨_, rfl⟩
    · split
      · next hnone => exact .inr (.inr ⟨hnone, rfl⟩)
      · exact .inl ⟨_, rfl⟩
      · next w k hsome => exact .inr (.inl ⟨w, k, hsome, rfl⟩)

theorem State.sameButL2_placeL2 (s : State) (l t : Nat) : s.sameButL2 (s.placeL2 l t) := by
  obtain ⟨w, h⟩ | ⟨w, k, -, h⟩ | ⟨-, h⟩ := s.placeL2_cases l t <;> rw [h]
  · exact s.sameButL2_putL2 l t w
  · exact State.sameButL2_trans (s.sameButL2_evictL2 k) (State.sameButL2_putL2 _ l t w)
  · exact s.sameButL2_setL2 l _

theorem State.sameButL2_fillL2 (s : State) (pa y : Nat) : s.sameButL2 (s.fillL2 pa y) := by
  unfold State.fillL2
  dsimp only
  split
  · exact s.sameButL2_useL2 _
  · exact State.sameButL2_trans (s.sameButL2_setL2 _ _) (State.sameButL2_placeL2 _ _ _)

/-- What a write's move of its line can do (R369): nothing, where the line is absent or its way is not another tenant's; its way is charged to
the writer; or it is placed among the writer's ways, where there is one. -/
theorem State.moveL2_cases (s : State) (l y : Nat) :
    s.moveL2 l y = s ∨
    ((s.l2line l).present = true ∧ s.moveL2 l y = s.setL2 l { s.l2line l with tenant := y }) ∨
    ((s.l2line l).present = true ∧ ((s.setL2 l { s.l2line l with present := false }).wayFor l y).isSome = true ∧
      s.moveL2 l y = (s.setL2 l { s.l2line l with present := false }).placeL2 l y) := by
  unfold State.moveL2
  split
  · next h => exact .inr (.inl ⟨by simp only [Bool.and_eq_true] at h; exact h.1, rfl⟩)
  · split
    · exact .inl rfl
    · next h =>
      dsimp only
      split
      · exact .inl rfl
      · next hway =>
        refine .inr (.inr ⟨?_, ?_, rfl⟩)
        · by_contra hp; exact h (.inl (by simpa using hp))
        · simpa [Option.isNone_iff_eq_none, Option.isSome_iff_ne_none] using hway

theorem State.sameButL2_moveL2 (s : State) (l y : Nat) : s.sameButL2 (s.moveL2 l y) := by
  obtain h | ⟨-, h⟩ | ⟨-, -, h⟩ := s.moveL2_cases l y <;> rw [h]
  · exact s.sameButL2_refl
  · exact s.sameButL2_setL2 _ _
  · exact State.sameButL2_trans (s.sameButL2_setL2 _ _) (State.sameButL2_placeL2 _ _ _)

theorem State.sameButL2_bumpVer (s : State) (pa y : Nat) : s.sameButL2 (s.bumpVer pa y) := by
  have h := State.sameButL2_trans (s.sameButL2_fillL2 pa y) (State.sameButL2_moveL2 _ (lineOf pa) y)
  unfold State.bumpVer
  dsimp only
  split
  · exact State.sameButL2_trans h (State.sameButL2_setL2 _ _ _)
  · exact State.sameButL2_trans h ⟨_, _, _, rfl⟩

/-! The line of L2 that an access is at. -/

theorem leastBy_mem {f : Nat → Nat} {ls : List Nat} {k : Nat} (h : leastBy f ls = some k) : k ∈ ls := by
  induction ls generalizing k with
  | nil => cases h
  | cons t ts ih =>
    unfold leastBy at h
    split at h
    · next u hu =>
      cases h
      split
      · exact List.mem_cons_of_mem _ (ih hu)
      · exact List.mem_cons_self
    · cases h; exact List.mem_cons_self

/-- A line that gives way to another one lies in its set of L2 (R368). -/
theorem State.mem_l2Set_of_wayFor {s : State} {l t w k : Nat} (h : s.wayFor l t = some (w, some k)) : k ∈ s.l2Set l := by
  unfold State.wayFor at h
  dsimp only at h
  obtain ⟨r, -, hr⟩ := List.exists_of_findSome?_eq_some h
  split at hr
  · cases hr
  · obtain ⟨k', hleast, heq⟩ := Option.map_eq_some_iff.mp hr
    cases heq
    exact List.mem_of_mem_filter (leastBy_mem hleast)

/-- A line that has been put down as absent is in no set of L2. -/
theorem State.notMem_l2Set_setL2 {s : State} {l : Nat} {x : L2Line} (hx : x.present = false) : l ∉ (s.setL2 l x).l2Set l := by
  intro hmem
  obtain ⟨⟨k, y⟩, hp, rfl⟩ := List.mem_map.mp hmem
  obtain ⟨hin, hcond⟩ := List.mem_filter.mp hp
  have hset : (k, y) ∈ SMap.set (fun _ => L2Line.absent) s.l2 k x := hin
  rcases SMap.mem_of_mem_set hset with heq | ⟨-, hne⟩
  · cases heq
    simp [hx] at hcond
  · exact hne rfl

theorem State.l2line_evictL2_ne {s : State} {l k : Nat} (h : l ≠ k) : (s.evictL2 k).l2line l = s.l2line l := by
  unfold State.evictL2
  split
  · rfl
  · exact State.l2line_setL2_ne _ _ h

theorem State.l2line_putL2 (s : State) (l t w : Nat) :
    ((s.putL2 l t w).l2line l).present = true ∧ ((s.putL2 l t w).l2line l).ver = (s.l2line l).ver := by
  have hline : (s.putL2 l t w).l2line l =
      { s.l2line l with present := true, tenant := t, way := w, used := s.l2Use + 1 } := by
    show ((s.setL2 l _).setL2 l { (s.setL2 l _).l2line l with used := s.l2Use + 1 }).l2line l = _
    simp only [State.l2line_setL2_self]
  rw [hline]
  exact ⟨rfl, rfl⟩

/-- A line that is not in L2 comes into it with the version it is given, or its set has no way for it and nothing else changes. -/
theorem State.l2line_placeL2 {s : State} {l : Nat} (t : Nat) {x : L2Line} (hx : x.present = false) :
    let p := (s.setL2 l x).placeL2 l t
    ((p.l2line l).present = true ∧ (p.l2line l).ver = x.ver) ∨
    ((s.setL2 l x).wayFor l t = none ∧ (p.l2line l).present = false ∧ p.floors = s.floors) := by
  dsimp only
  obtain ⟨w, h⟩ | ⟨w, k, hway, h⟩ | ⟨hway, h⟩ := (s.setL2 l x).placeL2_cases l t <;> rw [h]
  · left
    simpa using (s.setL2 l x).l2line_putL2 l t w
  · left
    have hne : l ≠ k := fun heq => State.notMem_l2Set_setL2 hx (heq ▸ State.mem_l2Set_of_wayFor hway)
    simpa [State.l2line_evictL2_ne hne] using ((s.setL2 l x).evictL2 k).l2line_putL2 l t w
  · right
    exact ⟨hway, by rw [State.l2line_setL2_self]; rfl, rfl⟩

/-- A line that L2 holds stays there with its version when it moves to the writer's ways (R369). -/
theorem State.l2line_moveL2 (s : State) (l y : Nat) :
    ((s.moveL2 l y).l2line l).present = (s.l2line l).present ∧ ((s.moveL2 l y).l2line l).ver = (s.l2line l).ver := by
  obtain h | ⟨-, h⟩ | ⟨hp, hway, h⟩ := s.moveL2_cases l y <;> rw [h]
  · exact ⟨rfl, rfl⟩
  · simp
  · rcases State.l2line_placeL2 (s := s) (l := l) y (x := { s.l2line l with present := false }) rfl with hin | hout
    · exact ⟨hin.1.trans hp.symm, hin.2⟩
    · simp [hout.1] at hway

theorem State.moveL2_of_absent {s : State} {l : Nat} (h : (s.l2line l).present = false) (y : Nat) : s.moveL2 l y = s := by
  simp [State.moveL2, h]

/-! The version of a line (R103, R104). -/

theorem State.verOf_of_present {s : State} {pa : Nat} (h : (s.l2line (lineOf pa)).present = true) :
    s.verOf pa = (s.l2line (lineOf pa)).ver := by
  simp [State.verOf, h]

theorem State.verOf_of_absent {s : State} {pa : Nat} (h : (s.l2line (lineOf pa)).present = false) : s.verOf pa = s.floorOf pa + 1 := by
  simp [State.verOf, h]

theorem State.floorOf_congr {s t : State} (h : t.floors = s.floors) (pa : Nat) : t.floorOf pa = s.floorOf pa := by
  unfold State.floorOf; rw [h]

/-- A fill does not change the version that a line reads as. -/
theorem State.verOf_fillL2 (s : State) (pa y : Nat) : (s.fillL2 pa y).verOf pa = s.verOf pa := by
  unfold State.fillL2
  dsimp only
  split
  · next hp =>
    have hline : (s.useL2 (lineOf pa)).l2line (lineOf pa) = { s.l2line (lineOf pa) with used := s.l2Use + 1 } :=
      State.l2line_setL2_self _ _ _
    rw [State.verOf_of_present hp, State.verOf_of_present (by rw [hline]; exact hp), hline]
  · next hp =>
    have habs : (s.l2line (lineOf pa)).present = false := by simpa using hp
    rw [State.verOf_of_absent habs]
    rcases State.l2line_placeL2 (s := s) (l := lineOf pa) y (x := { s.l2line (lineOf pa) with ver := s.floorOf pa + 1 }) habs
      with ⟨hin, hver⟩ | ⟨-, hout, hfloors⟩
    · rw [State.verOf_of_present hin, hver]
    · rw [State.verOf_of_absent hout]
      rw [State.floorOf_congr hfloors pa]

/-- A write at home advances its line's version by exactly 1. -/
theorem State.verOf_bumpVer (s : State) (pa y : Nat) : (s.bumpVer pa y).verOf pa = s.verOf pa + 1 := by
  rw [← s.verOf_fillL2 pa y]
  unfold State.bumpVer
  dsimp only
  generalize s.fillL2 pa y = t
  obtain ⟨hpres, hver⟩ := t.l2line_moveL2 (lineOf pa) y
  split
  · next hp =>
    have hline := State.l2line_setL2_self (t.moveL2 (lineOf pa) y) (lineOf pa)
      { (t.moveL2 (lineOf pa) y).l2line (lineOf pa) with ver := ((t.moveL2 (lineOf pa) y).l2line (lineOf pa)).ver + 1 }
    rw [State.verOf_of_present (by rw [hline]; exact hp), hline, State.verOf_of_present (hpres ▸ hp), ← hver]
  · next hp =>
    have habs : (t.l2line (lineOf pa)).present = false := by rw [← hpres]; simpa using hp
    rw [State.moveL2_of_absent habs, State.verOf_of_absent habs]
    refine (State.verOf_of_absent (s := { t with floors := SMap.set (fun _ => 0) t.floors (pa / 65536) (t.floorOf pa + 1) })
      habs).trans ?_
    simp [State.floorOf]

end Sys2Proof.Machine
end

section
/-! PROOFS. Bytes that are written at home: where they are read back, and what else a write there changes (R103, R105, R107, R183, R367). -/

namespace Sys2Proof.Machine

/-! Runs of bytes. -/

theorem State.bytes_eq {s : State} {pa : Nat} {bs : List Byte} (h : ∀ i (hi : i < bs.length), s.byte (pa + i) = bs[i]) :
    s.bytes pa bs.length = bs := by
  induction bs generalizing pa with
  | nil => rfl
  | cons b bs ih =>
    have hb : s.byte pa = b := h 0 (by simp)
    have hbs : s.bytes (pa + 1) bs.length = bs := ih (fun i hi => by
      have hi' := h (i + 1) (by simpa using hi)
      rwa [show pa + (i + 1) = pa + 1 + i by omega, List.getElem_cons_succ] at hi')
    show s.byte pa :: s.bytes (pa + 1) bs.length = b :: bs
    rw [hb, hbs]

theorem State.bytes_setBytes (s : State) (pa : Nat) (bs : List Byte) : (s.setBytes pa bs).bytes pa bs.length = bs :=
  State.bytes_eq (fun i hi => State.byte_setBytes_in s pa i bs hi)

/-- A doubleword of memory is read back. -/
theorem State.memWord_setMemWord (s : State) (pa : Nat) (w : Word) : (s.setMemWord pa w).memWord pa = w := by
  have hbytes : (s.setMemWord pa w).bytes pa 8 = leBytes 8 w.toNat := by
    simpa [State.setMemWord] using s.bytes_setBytes pa (leBytes 8 w.toNat)
  apply BitVec.eq_of_toNat_eq
  rw [State.memWord, hbytes, leNat_leBytes, BitVec.toNat_ofNat, show (256 : Nat) ^ 8 = 2 ^ 64 by norm_num,
    Nat.mod_mod, Nat.mod_eq_of_lt w.isLt]

/-! Bytes stored one by one with their addresses. -/

theorem State.putBytes_eq (bs : List (Nat × Byte)) (s : State) : ∃ m e, s.putBytes bs = { s with mem := m, sums := e } := by
  induction bs generalizing s with
  | nil => exact ⟨_, _, rfl⟩
  | cons p bs ih =>
    obtain ⟨a, b⟩ := p
    obtain ⟨m, e, h⟩ := ih ((s.setByte a b).setSum (a / 4) SumEnt.none)
    exact ⟨m, e, h⟩

theorem State.byte_putBytes_out {bs : List (Nat × Byte)} {s : State} {a : Nat} (h : ∀ p ∈ bs, p.1 ≠ a) :
    (s.putBytes bs).byte a = s.byte a := by
  induction bs generalizing s with
  | nil => rfl
  | cons p bs ih =>
    obtain ⟨k, b⟩ := p
    obtain ⟨hk, hbs⟩ := List.forall_mem_cons.mp h
    rw [State.putBytes, ih hbs, State.byte_setSum, State.byte_setByte_ne _ _ (Ne.symm hk)]

theorem State.byte_putBytes_in {bs : List (Nat × Byte)} {s : State} {a : Nat} {b : Byte} (hmem : (a, b) ∈ bs)
    (hnodup : (bs.map (fun p => p.1)).Nodup) : (s.putBytes bs).byte a = b := by
  induction bs generalizing s with
  | nil => cases hmem
  | cons p bs ih =>
    obtain ⟨k, c⟩ := p
    obtain ⟨hk, hbs⟩ := List.nodup_cons.mp hnodup
    rcases List.mem_cons.mp hmem with heq | hmem
    · cases heq
      have hout : ∀ p ∈ bs, p.1 ≠ a := fun p hp heq => hk (heq ▸ List.mem_map_of_mem (f := fun p => p.1) hp)
      rw [State.putBytes, State.byte_putBytes_out hout, State.byte_setSum, State.byte_setByte_self]
    · exact ih hmem hbs

/-! The frame of a write at home. -/

/-- At most bytes of memory, exact-sum entries, the keys of lines, and lines and floors of L2 differ. -/
def State.sameButHome (s t : State) : Prop :=
  ∃ m e k l u f, t = { s with mem := m, sums := e, lineKeys := k, l2 := l, l2Use := u, floors := f }

theorem State.sameButHome_refl (s : State) : s.sameButHome s := ⟨s.mem, s.sums, s.lineKeys, s.l2, s.l2Use, s.floors, rfl⟩

theorem State.sameButHome_trans {s t u : State} (h : s.sameButHome t) (k : t.sameButHome u) : s.sameButHome u := by
  obtain ⟨_, _, _, _, _, _, rfl⟩ := h
  obtain ⟨_, _, _, _, _, _, rfl⟩ := k
  exact ⟨_, _, _, _, _, _, rfl⟩

theorem State.sameButHome_of_sameButL2 {s t : State} (h : s.sameButL2 t) : s.sameButHome t := by
  obtain ⟨_, _, _, rfl⟩ := h
  exact ⟨_, _, _, _, _, _, rfl⟩

theorem State.byte_of_sameButL2 {s t : State} (h : s.sameButL2 t) (a : Nat) : t.byte a = s.byte a := by
  obtain ⟨_, _, _, rfl⟩ := h
  rfl

theorem State.sameButHome_putBytes (s : State) (bs : List (Nat × Byte)) : s.sameButHome (s.putBytes bs) := by
  obtain ⟨m, e, h⟩ := State.putBytes_eq bs s
  rw [h]
  exact ⟨_, _, _, _, _, _, rfl⟩

theorem State.sameButHome_takeKey (s : State) (pa : Nat) (pg : Pg) : s.sameButHome (s.takeKey pa pg) := by
  unfold State.takeKey
  split
  · exact s.sameButHome_refl
  · dsimp only
    split
    · exact State.sameButHome_trans (s.sameButHome_putBytes _) ⟨_, _, _, _, _, _, rfl⟩
    · exact ⟨_, _, _, _, _, _, rfl⟩

/-- The bytes of a list with their addresses from a base on lie at that base and after it. -/
theorem mem_placedAt {bs : List Byte} {base : Nat} {p : Nat × Byte} (h : p ∈ bs.zipIdx.map (fun q => (base + q.2, q.1))) :
    base ≤ p.1 ∧ p.1 < base + bs.length := by
  obtain ⟨⟨b, i⟩, hi, rfl⟩ := List.mem_map.mp h
  have hlt : i < bs.length := (List.mem_zipIdx' hi).1
  dsimp only
  omega

theorem State.homeBytes_length (s : State) (pa n : Nat) : (s.homeBytes pa n).length = n := by
  induction n generalizing pa with
  | zero => rfl
  | succ n ih => simp [State.homeBytes, ih]

theorem State.garbledBytes_length (s : State) (pa n : Nat) (pg : Pg) : (s.garbledBytes pa n pg).length = n := by
  simp [State.garbledBytes, State.homeBytes_length]

/-- The bytes that a line holds after it has taken a page's key: what another key had put there is lost (R367). -/
theorem State.byte_takeKey_some {s : State} {pa : Nat} {pg : Pg} {k : Nat} (hk : pg.key = some k) (a : Nat) :
    (s.takeKey pa pg).byte a =
      (if s.keyClash pa pg then s.putBytes ((s.garbledBytes (lineOf pa * 128) 128 pg).zipIdx.map (fun p => (lineOf pa * 128 + p.2, p.1)))
        else s).byte a := by
  unfold State.takeKey
  rw [hk]
  rfl

/-- A line that takes a page's key changes no byte of another line. -/
theorem State.byte_takeKey {s : State} {pa a : Nat} (pg : Pg) (h : lineOf a ≠ lineOf pa) : (s.takeKey pa pg).byte a = s.byte a := by
  cases hk : pg.key with
  | none => simp [State.takeKey, hk]
  | some k =>
    rw [State.byte_takeKey_some hk]
    split
    · refine State.byte_putBytes_out (fun p hp heq => h ?_)
      obtain ⟨hlo, hhi⟩ := mem_placedAt hp
      rw [State.garbledBytes_length] at hhi
      rw [← heq]
      unfold lineOf at *
      omega
    · rfl

/-- A write at home of a tag that is not dead, as the steps it is made of. -/
theorem State.homeWrite_cons {s : State} {tag : Nat} (hd : s.isDead tag = false) (y : Nat) (pg : Pg) (a : Nat) (b : Byte)
    (bs : List (Nat × Byte)) :
    s.homeWrite tag y pg ((a, b) :: bs) =
      if versioned a pg then ((s.takeKey a pg).putBytes ((a, b) :: bs)).bumpVer a y else (s.takeKey a pg).putBytes ((a, b) :: bs) := by
  simp [State.homeWrite, hd]

theorem State.sameButHome_homeWrite (s : State) (tag y : Nat) (pg : Pg) (bs : List (Nat × Byte)) :
    s.sameButHome (s.homeWrite tag y pg bs) := by
  cases bs with
  | nil => exact s.sameButHome_refl
  | cons p bs =>
    obtain ⟨a, b⟩ := p
    cases hd : s.isDead tag with
    | true => simpa [State.homeWrite, hd] using s.sameButHome_refl
    | false =>
      have h := State.sameButHome_trans (s.sameButHome_takeKey a pg) (State.sameButHome_putBytes _ ((a, b) :: bs))
      rw [State.homeWrite_cons hd]
      split
      · exact State.sameButHome_trans h (State.sameButHome_of_sameButL2 (State.sameButL2_bumpVer _ _ _))
      · exact h

/-- The bytes after a write at home are those after its key and its own bytes. -/
theorem State.byte_homeWrite_cons {s : State} {tag : Nat} (hd : s.isDead tag = false) (y : Nat) (pg : Pg) (a : Nat) (b : Byte)
    (bs : List (Nat × Byte)) (q : Nat) :
    (s.homeWrite tag y pg ((a, b) :: bs)).byte q = ((s.takeKey a pg).putBytes ((a, b) :: bs)).byte q := by
  rw [State.homeWrite_cons hd]
  split
  · exact State.byte_of_sameButL2 (State.sameButL2_bumpVer _ _ _) q
  · rfl

/-- A write at home of bytes of one line changes no byte of another line. -/
theorem State.byte_homeWrite_otherLine {s : State} {bs : List (Nat × Byte)} {a l : Nat} (tag y : Nat) (pg : Pg)
    (hbs : ∀ p ∈ bs, lineOf p.1 = l) (ha : lineOf a ≠ l) : (s.homeWrite tag y pg bs).byte a = s.byte a := by
  cases bs with
  | nil => rfl
  | cons p bs =>
    obtain ⟨k, b⟩ := p
    cases hd : s.isDead tag with
    | true => simp [State.homeWrite, hd]
    | false =>
      have hk : lineOf k = l := hbs (k, b) List.mem_cons_self
      rw [State.byte_homeWrite_cons hd, State.byte_putBytes_out (fun p hp heq => ha ((congrArg lineOf heq).symm.trans (hbs p hp))),
        State.byte_takeKey pg (hk ▸ ha)]

/-- A byte that is written at home is there. -/
theorem State.byte_homeWrite_in {s : State} {bs : List (Nat × Byte)} {a tag : Nat} {b : Byte} (y : Nat) (pg : Pg)
    (hd : s.isDead tag = false) (hmem : (a, b) ∈ bs) (hnodup : (bs.map (fun p => p.1)).Nodup) :
    (s.homeWrite tag y pg bs).byte a = b := by
  cases bs with
  | nil => cases hmem
  | cons p bs =>
    obtain ⟨k, c⟩ := p
    rw [State.byte_homeWrite_cons hd]
    exact State.byte_putBytes_in hmem hnodup

end Sys2Proof.Machine
end

section
/-! PROOFS. What leaves a tile for home: written-back lines, the write-combining buffer, evictions, and the end of a dead tag
(R104, R108, R110, R111, R183, R323, R382). -/

namespace Sys2Proof.Machine

/-! Requests that leave, and the write at home beside them. -/

theorem State.isDead_congr {s t : State} (h : t.dead = s.dead) (tag : Nat) : t.isDead tag = s.isDead tag := by
  unfold State.isDead; rw [h]

/-- At most requests have been sent. -/
def State.sameButSent (s t : State) : Prop := ∃ n r, t = { s with nextReq := n, remotes := s.remotes ++ r }

theorem State.sameButSent_refl (s : State) : s.sameButSent s := ⟨s.nextReq, [], by simp⟩

theorem State.sameButSent_trans {s t u : State} (h : s.sameButSent t) (k : t.sameButSent u) : s.sameButSent u := by
  obtain ⟨n, r, rfl⟩ := h
  obtain ⟨n', r', rfl⟩ := k
  exact ⟨n', r ++ r', by simp⟩

theorem State.sameButSent_sendLine (s : State) (l core tag : Nat) (tv pc : Word) : s.sameButSent (s.sendLine l core tag tv pc) :=
  ⟨_, [_], rfl⟩

/-- The cells whose tags are not dead (R323). -/
def State.liveCells (s : State) (cells : List (Nat × DirtyByte)) : List (Nat × DirtyByte) := cells.filter (fun c => !s.isDead c.2.tag)

/-- Dirty bytes that leave a tile: requests may be sent, and unless the line's pseudo-channel has been retired the live bytes are written at
home. -/
theorem State.sendHome_cons (s : State) (t l a : Nat) (d : DirtyByte) (cs : List (Nat × DirtyByte)) :
    ∃ u, s.sameButSent u ∧ s.sendHome t l ((a, d) :: cs) = if s.channelDead (l * 128) then u
      else u.homeWrite 0x10000 (u.yardOf t) d.pg ((s.liveCells ((a, d) :: cs)).map (fun c => (c.1, c.2.byte))) := by
  unfold State.sendHome
  dsimp only
  split
  · generalize hu : List.foldl _ s _ = u
    have hsent : s.sameButSent u := by
      rw [← hu]
      exact foldl_keeps (fun v => s.sameButSent v) _ (fun v k hv => State.sameButSent_trans hv (v.sameButSent_sendLine _ _ _ _ _))
        s.sameButSent_refl
    have hchannel : u.channelDead (l * 128) = s.channelDead (l * 128) := by
      obtain ⟨n, r, rfl⟩ := hsent; rfl
    exact ⟨u, hsent, by rw [hchannel]; rfl⟩
  · exact ⟨s, s.sameButSent_refl, rfl⟩

/-- At most memory, L2 and the requests sent differ. -/
def State.sameButHomeSent (s t : State) : Prop := ∃ u, s.sameButSent u ∧ u.sameButHome t

theorem State.sameButHomeSent_sendHome (s : State) (t l : Nat) (cells : List (Nat × DirtyByte)) :
    s.sameButHomeSent (s.sendHome t l cells) := by
  cases cells with
  | nil => exact ⟨s, s.sameButSent_refl, s.sameButHome_refl⟩
  | cons c cs =>
    obtain ⟨a, d⟩ := c
    obtain ⟨u, hsent, h⟩ := s.sendHome_cons t l a d cs
    rw [h]
    split
    · exact ⟨u, hsent, u.sameButHome_refl⟩
    · exact ⟨u, hsent, State.sameButHome_homeWrite _ _ _ _ _⟩

theorem State.dead_sendHome (s : State) (t l : Nat) (cells : List (Nat × DirtyByte)) : (s.sendHome t l cells).dead = s.dead := by
  obtain ⟨u, ⟨n, r, rfl⟩, m, e, k, l2, us, f, h⟩ := s.sameButHomeSent_sendHome t l cells
  rw [h]

theorem State.channelDead_sendHome (s : State) (t l : Nat) (cells : List (Nat × DirtyByte)) (pa : Nat) :
    (s.sendHome t l cells).channelDead pa = s.channelDead pa := by
  obtain ⟨u, ⟨n, r, rfl⟩, m, e, k, l2, us, f, h⟩ := s.sameButHomeSent_sendHome t l cells
  rw [h]; rfl

theorem State.tile_sendHome (s : State) (t l : Nat) (cells : List (Nat × DirtyByte)) (k : Nat) :
    (s.sendHome t l cells).tile k = s.tile k := by
  obtain ⟨u, ⟨n, r, rfl⟩, m, e, k, l2, us, f, h⟩ := s.sameButHomeSent_sendHome t l cells
  rw [h]; rfl

theorem State.mem_remotes_sendHome {s : State} {q : Remote} (t l : Nat) (cells : List (Nat × DirtyByte)) (hq : q ∈ s.remotes) :
    q ∈ (s.sendHome t l cells).remotes := by
  obtain ⟨u, ⟨n, r, rfl⟩, m, e, k, l2, us, f, h⟩ := s.sameButHomeSent_sendHome t l cells
  rw [h]
  exact List.mem_append_left r hq

/-- Bytes of one line that leave a tile change no byte of another line. -/
theorem State.byte_sendHome_otherLine {s : State} {l a : Nat} {cells : List (Nat × DirtyByte)} (t : Nat) (hcells : ∀ c ∈ cells, lineOf c.1 = l)
    (ha : lineOf a ≠ l) : (s.sendHome t l cells).byte a = s.byte a := by
  cases cells with
  | nil => rfl
  | cons c cs =>
    obtain ⟨k, d⟩ := c
    obtain ⟨u, hsent, h⟩ := s.sendHome_cons t l k d cs
    have hbyte : u.byte a = s.byte a := by obtain ⟨n, r, rfl⟩ := hsent; rfl
    rw [h]
    split
    · exact hbyte
    · refine (State.byte_homeWrite_otherLine _ _ _ (fun p hp => ?_) ha).trans hbyte
      obtain ⟨c, hc, rfl⟩ := List.mem_map.mp hp
      exact hcells c (List.mem_of_mem_filter hc)

/-- A dirty byte that leaves a tile is at home, unless its tag is dead or its pseudo-channel has been retired. -/
theorem State.byte_sendHome_in {s : State} {l a : Nat} {d : DirtyByte} {cells : List (Nat × DirtyByte)} (t : Nat)
    (hmem : (a, d) ∈ cells) (hnodup : (cells.map (fun c => c.1)).Nodup) (htag : s.isDead d.tag = false) (hplain : s.isDead 0x10000 = false)
    (hchannel : s.channelDead (l * 128) = false) : (s.sendHome t l cells).byte a = d.byte := by
  cases cells with
  | nil => cases hmem
  | cons c cs =>
    obtain ⟨k, e⟩ := c
    obtain ⟨u, hsent, h⟩ := s.sendHome_cons t l k e cs
    have hdead : u.isDead 0x10000 = false := by obtain ⟨n, r, rfl⟩ := hsent; exact hplain
    rw [h, if_neg (by simp [hchannel])]
    refine State.byte_homeWrite_in _ _ hdead (List.mem_map.mpr ⟨(a, d), List.mem_filter.mpr ⟨hmem, by simp [htag]⟩, rfl⟩) ?_
    rw [List.map_map]
    exact hnodup.sublist (List.filter_sublist.map _)

/-! The write-combining buffer (R183). -/

/-- The bytes of a tile's write-combining buffer that can leave now. -/
def State.leaving (s : State) (t : Nat) : List (Nat × DirtyByte) := (s.tile t).combined.filter (fun c => s.homeOpen t c.1 none)

/-- The state after the lines ls of such bytes have left. -/
def State.sendLines (s : State) (t : Nat) (cells : List (Nat × DirtyByte)) (ls : List Nat) : State :=
  ls.foldl (fun s l => s.sendHome t l (cells.filter (fun c => lineOf c.1 == l))) s

theorem State.drainWcb_eq (s : State) (t : Nat) :
    s.drainWcb t = (s.sendLines t (s.leaving t) (((s.leaving t).map (fun c => lineOf c.1)).eraseDups)).modTile t
      (fun x => { x with wcb := (s.tile t).wcb.filter (fun p => !(s.homeOpen t p.1 none)) }) := rfl

/-- Each byte of the lines that have left is at home, whichever of them left last. -/
theorem State.byte_sendLines {s : State} {a : Nat} {d : DirtyByte} {cells : List (Nat × DirtyByte)} {ls : List Nat} (t : Nat)
    (hmem : (a, d) ∈ cells) (hnodup : (cells.map (fun c => c.1)).Nodup) (htag : s.isDead d.tag = false) (hplain : s.isDead 0x10000 = false)
    (hchannel : s.channelDead (lineOf a * 128) = false) (hline : lineOf a ∈ ls ∨ s.byte a = d.byte) :
    (s.sendLines t cells ls).byte a = d.byte := by
  induction ls generalizing s with
  | nil => show s.byte a = d.byte; simpa using hline
  | cons l ls ih =>
    have hcells : ∀ c ∈ cells.filter (fun c => lineOf c.1 == l), lineOf c.1 = l := fun c hc => by
      simpa using (List.mem_filter.mp hc).2
    refine ih (by rwa [State.isDead_congr (s.dead_sendHome _ _ _)]) (by rwa [State.isDead_congr (s.dead_sendHome _ _ _)])
      (by rwa [State.channelDead_sendHome]) ?_
    by_cases hl : lineOf a = l
    · subst hl
      exact .inr (State.byte_sendHome_in t (List.mem_filter.mpr ⟨hmem, by simp⟩) (hnodup.sublist (List.filter_sublist.map _))
        htag hplain hchannel)
    · rw [State.byte_sendHome_otherLine t hcells hl]
      exact hline.imp_left (fun h => (List.mem_cons.mp h).resolve_left hl)

theorem Tile.mem_combined {x : Tile} {a : Nat} {d : DirtyByte} (h : (a, some d) ∈ x.wcb) : (a, d) ∈ x.combined :=
  List.mem_filterMap.mpr ⟨(a, some d), h, rfl⟩

theorem Tile.combined_sublist (x : Tile) : (x.combined.map (fun c => c.1)).Sublist (x.wcb.map (fun p => p.1)) := by
  unfold Tile.combined
  generalize x.wcb = m
  induction m with
  | nil => exact .slnil
  | cons p m ih =>
    obtain ⟨a, od⟩ := p
    cases od with
    | none => exact ih.cons a
    | some d => exact ih.cons_cons a

/-- A write-combining buffer whose bytes can all leave is emptied, and its live bytes are at home. -/
theorem State.drainWcb_all {s : State} {t : Nat} (hopen : ∀ p ∈ (s.tile t).wcb, s.homeOpen t p.1 none = true)
    (hnodup : ((s.tile t).wcb.map (fun (p : Nat × Option DirtyByte) => p.1)).Nodup) (hplain : s.isDead 0x10000 = false) :
    ((s.drainWcb t).tile t).wcb = [] ∧ ∀ a d, (a, some d) ∈ (s.tile t).wcb → s.isDead d.tag = false →
      s.channelDead (lineOf a * 128) = false → (s.drainWcb t).byte a = d.byte := by
  rw [State.drainWcb_eq]
  refine ⟨?_, fun a d hmem htag hchannel => ?_⟩
  · rw [State.tile_modTile_self]
    exact List.filter_eq_nil_iff.mpr (fun p hp => by simp [hopen p hp])
  · have hleaving : (a, d) ∈ s.leaving t := List.mem_filter.mpr ⟨Tile.mem_combined hmem, hopen _ hmem⟩
    have hkeys : ((s.leaving t).map (fun c => c.1)).Nodup :=
      hnodup.sublist ((List.filter_sublist.map _).trans (s.tile t).combined_sublist)
    rw [State.byte_modTile]
    exact State.byte_sendLines t hleaving hkeys htag hplain hchannel
      (.inl (List.mem_eraseDups.mpr (List.mem_map.mpr ⟨(a, d), hleaving, rfl⟩)))

end Sys2Proof.Machine
end

section
/-! PROOFS. Requests of other devices, evictions and the end of a dead tag, one lemma per row (R103, R104, R107, R110, R126, R323). -/

namespace Sys2Proof.Machine

/-! HOME_ACCESS (R107). -/

/-- The condition on which a request of another device does nothing yet. -/
theorem State.homeAccess_reaches {s : State} {r : HomeReq} (hs : paSpace r.pa = 0) (h0 : 0 < homeSize r.op)
    (hfit : r.pa % 128 + homeSize r.op ≤ 128) (hfree : s.lineFree r.pa none = true) :
    ¬(paSpace r.pa ≠ 0 ∨ homeSize r.op = 0 ∨ 128 < r.pa % 128 + homeSize r.op ∨ (!(s.lineFree r.pa none)) = true) := by
  rw [hfree]
  rintro (h | h | h | h)
  · exact h hs
  · omega
  · omega
  · cases h

/-- An access that meets an uncorrectable memory error is answered with an error (R310, R382). -/
theorem State.homeAccess_bad {s : State} {r : HomeReq} (hs : paSpace r.pa = 0) (h0 : 0 < homeSize r.op)
    (hfit : r.pa % 128 + homeSize r.op ≤ 128) (hfree : s.lineFree r.pa none = true) (hbad : s.memBad r.pa = true) :
    s.homeAccess r = { s with out := s.out ++ [.milayError r.dev] } := by
  unfold State.homeAccess
  rw [if_neg (State.homeAccess_reaches hs h0 hfit hfree), if_pos hbad]

section
variable {s : State} {dev pa tag : Nat} {m : Bool}

/-- The page of a request of another device: no key of this device's (R105). -/
theorem State.homeRead_unkeyed (hd : s.isDead tag = false) (n : Nat) :
    s.homeRead tag pa n { Pg.plain with memSide := m } = s.homeBytes pa n := by
  simp [State.homeRead, hd, State.keyClash, Pg.plain]

/-- A read answers what the line holds, and changes no byte. -/
theorem State.homeAccess_read {n : Nat} (hs : paSpace pa = 0) (hfree : s.lineFree pa none = true) (hd : s.isDead tag = false)
    (h0 : 0 < n) (hfit : pa % 128 + n ≤ 128) (hgood : s.memBad pa = false) :
    (s.homeAccess { dev := dev, tag := tag, pa := pa, memSide := m, op := .read n }).out = s.out ++ [.milay dev (s.homeBytes pa n)] ∧
    ∀ a, (s.homeAccess { dev := dev, tag := tag, pa := pa, memSide := m, op := .read n }).byte a = s.byte a := by
  have hreaches := State.homeAccess_reaches (r := { dev := dev, tag := tag, pa := pa, memSide := m, op := .read n }) hs h0 hfit hfree
  unfold State.homeAccess
  rw [if_neg hreaches, if_neg (by simp [hgood])]
  simp only [hd, Bool.false_eq_true, if_false, State.homeRead_unkeyed hd]
  cases m with
  | true => exact ⟨rfl, fun _ => rfl⟩
  | false =>
    obtain ⟨l, u, f, h⟩ := s.sameButL2_fillL2 pa (s.yardOfTag tag)
    simp only [Bool.false_eq_true, if_false, h]
    exact ⟨trivial, fun _ => rfl⟩

/-- A write at home of a request's bytes: they are stored, and the line's version advances unless its page is a memory-side one. -/
theorem State.homeWrite_unkeyed {bs : List Byte} (hs : paSpace pa = 0) (hd : s.isDead tag = false) (h0 : 0 < bs.length) (y : Nat) :
    s.homeWrite tag y { Pg.plain with memSide := m } (bs.zipIdx.map (fun p => (pa + p.2, p.1))) =
      if m then s.putBytes (bs.zipIdx.map (fun p => (pa + p.2, p.1)))
      else (s.putBytes (bs.zipIdx.map (fun p => (pa + p.2, p.1)))).bumpVer pa y := by
  cases bs with
  | nil => simp at h0
  | cons b bs =>
    have htake : s.takeKey pa { Pg.plain with memSide := m } = s := rfl
    simp only [List.zipIdx_cons, List.map_cons, Nat.add_zero]
    rw [State.homeWrite_cons hd, htake]
    cases m <;> simp [versioned, hs]

theorem placedAt_nodup (pa : Nat) (bs : List Byte) : ((bs.zipIdx.map (fun p => (pa + p.2, p.1))).map (fun p => p.1)).Nodup := by
  have hkeys : (bs.zipIdx.map (fun p => (pa + p.2, p.1))).map (fun p => p.1) = (List.range bs.length).map (fun i => pa + i) := by
    apply List.ext_getElem <;> simp
  rw [hkeys]
  exact List.nodup_range.map (fun i j h => Nat.add_left_cancel h)

/-- Bytes stored with their addresses from pa on are read back there. -/
theorem State.byte_putBytes_placed {bs : List Byte} {i : Nat} (hi : i < bs.length) :
    (s.putBytes (bs.zipIdx.map (fun p => (pa + p.2, p.1)))).byte (pa + i) = bs[i] := by
  refine State.byte_putBytes_in (List.mem_map.mpr ⟨(bs[i], i), ?_, rfl⟩) (placedAt_nodup pa bs)
  exact List.mem_zipIdx_iff_getElem?.mpr (by simp [hi])

theorem State.verOf_putBytes (bs : List (Nat × Byte)) : (s.putBytes bs).verOf pa = s.verOf pa := by
  obtain ⟨n, e, h⟩ := State.putBytes_eq bs s
  rw [h]; rfl

/-- A write puts its bytes there, changes no other byte, and advances the line's version by 1 unless its page is a memory-side one. -/
theorem State.homeAccess_write {bs : List Byte} (hs : paSpace pa = 0) (hfree : s.lineFree pa none = true) (hd : s.isDead tag = false)
    (h0 : 0 < bs.length) (hfit : pa % 128 + bs.length ≤ 128) (hgood : s.memBad pa = false) :
    let u := s.homeAccess { dev := dev, tag := tag, pa := pa, memSide := m, op := .write bs }
    u.out = s.out ++ [.milay dev []] ∧ u.bytes pa bs.length = bs ∧ (∀ a, a < pa ∨ pa + bs.length ≤ a → u.byte a = s.byte a) ∧
      u.verOf pa = if m then s.verOf pa else s.verOf pa + 1 := by
  have hrun : s.homeAccess { dev := dev, tag := tag, pa := pa, memSide := m, op := .write bs } =
      (let w := s.homeWrite tag (s.yardOfTag tag) { Pg.plain with memSide := m } (bs.zipIdx.map (fun p => (pa + p.2, p.1)))
       { w with out := w.out ++ [.milay dev []] }) := by
    have hreaches := State.homeAccess_reaches (r := { dev := dev, tag := tag, pa := pa, memSide := m, op := .write bs }) hs h0 hfit hfree
    unfold State.homeAccess
    rw [if_neg hreaches, if_neg (by simp [hgood])]
  have hbyte (a : Nat) : (s.homeWrite tag (s.yardOfTag tag) { Pg.plain with memSide := m }
      (bs.zipIdx.map (fun p => (pa + p.2, p.1)))).byte a = (s.putBytes (bs.zipIdx.map (fun p => (pa + p.2, p.1)))).byte a := by
    rw [State.homeWrite_unkeyed hs hd h0]
    split
    · rfl
    · exact State.byte_of_sameButL2 (State.sameButL2_bumpVer _ _ _) a
  have hver : (s.homeWrite tag (s.yardOfTag tag) { Pg.plain with memSide := m }
      (bs.zipIdx.map (fun p => (pa + p.2, p.1)))).verOf pa = if m then s.verOf pa else s.verOf pa + 1 := by
    rw [State.homeWrite_unkeyed hs hd h0]
    split
    · exact State.verOf_putBytes _
    · rw [State.verOf_bumpVer, State.verOf_putBytes]
  obtain ⟨mem, e, k, l, us, f, hout⟩ := s.sameButHome_homeWrite tag (s.yardOfTag tag) { Pg.plain with memSide := m }
    (bs.zipIdx.map (fun p => (pa + p.2, p.1)))
  dsimp only
  rw [hrun]
  refine ⟨?_, State.bytes_eq (fun i hi => (hbyte _).trans (State.byte_putBytes_placed hi)), fun a ha => (hbyte a).trans ?_, hver⟩
  · dsimp only
    rw [hout]
  · refine State.byte_putBytes_out (fun p hp heq => ?_)
    obtain ⟨hlo, hhi⟩ := mem_placedAt hp
    omega

end

/-! Evictions (R104, R110, R126). -/

/-- An eviction raises its granule's floor to the line's version, and the line takes floor + 1 when it is filled again. -/
theorem State.evictL2_evictable {s : State} {l : Nat} (h : s.evictable l = true) :
    ((s.evictL2 l).l2line l).present = false ∧
    (s.evictL2 l).floorOf (l * 128) =
      (if s.floorOf (l * 128) < (s.l2line l).ver then (s.l2line l).ver else s.floorOf (l * 128)) ∧
    (s.evictL2 l).verOf (l * 128) = (s.evictL2 l).floorOf (l * 128) + 1 := by
  have hline : lineOf (l * 128) = l := by unfold lineOf; omega
  have habs : ((s.evictL2 l).l2line l).present = false := by
    unfold State.evictL2
    rw [if_neg (by simp [h]), State.l2line_setL2_self]
    rfl
  refine ⟨habs, ?_, State.verOf_of_absent (by rw [hline]; exact habs)⟩
  unfold State.evictL2
  rw [if_neg (by simp [h])]
  exact SMap.get_set_self _ _ _

theorem State.sameStore_of_sameButL2 {s t : State} (h : s.sameButL2 t) : s.sameStore t := by
  obtain ⟨l, u, f, rfl⟩ := h
  exact s.sameStore_refl

theorem Tile.line_setLine_self (x : Tile) (l : Nat) (y : CacheLine) : (x.setLine l y).line l = y := SMap.get_set_self _ _ _

theorem Tile.roLine_setLine (x : Tile) (l k : Nat) (y : CacheLine) : (x.setLine l y).roLine k = x.roLine k := rfl

/-- With no line in the read-only cache, an eviction from L1 takes a clean line and leaves a dirty one. -/
theorem State.evictL1_eq {s : State} {t l : Nat} (hro : ((s.tile t).roLine l).present = false) :
    s.evictL1 t l = if ((s.tile t).line l).dirty.isEmpty then s.modTile t (fun x => x.setLine l CacheLine.absent) else s := by
  unfold State.evictL1
  dsimp only
  split
  · have hro' : (((s.modTile t (fun x => x.setLine l CacheLine.absent)).tile t).roLine l).present = false := by
      rw [State.tile_modTile_self, Tile.roLine_setLine]; exact hro
    rw [if_pos (by rw [hro']; rfl)]
  · rw [if_pos (by rw [hro]; rfl)]

/-! TAG_DRAIN_COMPLETE (R323). -/

/-- The mark of a dead tag that no request bears is removed; no other mark and no byte changes. -/
theorem State.tagDrained_done {s : State} {tag : Nat} (hd : s.isDead tag = true) (hf : s.tagInFlight tag = false) :
    (s.tagDrained tag).isDead tag = false ∧ (∀ g, g ≠ tag → (s.tagDrained tag).isDead g = s.isDead g) ∧
    ∀ a, (s.tagDrained tag).byte a = s.byte a := by
  unfold State.tagDrained
  rw [if_neg (by simp [hd, hf])]
  dsimp only
  generalize hu : List.foldl _ s _ = u
  have hkeeps : u.dead = s.dead ∧ u.mem = s.mem := by
    rw [← hu]
    refine foldl_keeps (fun v : State => v.dead = s.dead ∧ v.mem = s.mem) _ (fun v p hv => ?_) ⟨rfl, rfl⟩
    split <;> exact hv
  obtain ⟨hdead, hmem⟩ := hkeeps
  refine ⟨?_, fun g hg => ?_, fun a => ?_⟩
  · simp [State.isDead]
  · simp only [State.isDead, hdead, List.any_filter]
    refine congrArg (fun f => s.dead.any f) (funext fun d => ?_)
    by_cases hdg : d.1 = g
    · subst hdg; simp [hg]
    · simp [hdg]
  · simp only [State.byte, hmem]

end Sys2Proof.Machine
end

section
/-! PROOFS. The ports: posted writes and answers of PCIe, and what comes of a request over Milay or PCIe (R102, R123, R385-R393). -/

namespace Sys2Proof.Machine

/-! Posted writes (R388-R391). -/

/-- R390: a posted write is applied once, and without relaxed ordering only after every earlier one of its requester on its port. -/
theorem State.mayApply_iff (s : State) (w : PcieWrite) :
    s.mayApply w = true ↔
      (w.peer, w.requester, w.seq) ∉ s.posts ∧ (w.relaxed = true ∨ ∀ n, n < w.seq → (w.peer, w.requester, n) ∈ s.posts) := by
  simp [State.mayApply]

/-- Where a write to BAR2 lands: the tenant, the window and the offset that its address names (R388). -/
theorem post_place {w : PcieWrite} {v n o : Nat} (hv : v < 32) (hn : n < 64) (ho : o < 2 ^ 20) (hbar : w.bar = 2)
    (haddr : w.addr = (if w.peer then v * 2 ^ 26 else 0) + n * 2 ^ 20 + o) (hfn : w.peer = false → w.fn = v + 1) :
    postLands w = true ∧ postTenant w = v ∧ postWindow w = n ∧ postOffset w = o := by
  unfold postLands postTenant postWindow postOffset
  cases hp : w.peer with
  | true =>
    simp only [hp, if_true] at haddr ⊢
    refine ⟨?_, ?_, ?_, ?_⟩
    · simp only [hbar, beq_self_eq_true, Bool.true_and, decide_eq_true_eq]; omega
    · omega
    · omega
    · omega
  | false =>
    have hfn' := hfn hp
    simp only [hp, Bool.false_eq_true, if_false] at haddr ⊢
    refine ⟨?_, ?_, ?_, ?_⟩
    · simp only [hbar, beq_self_eq_true, Bool.true_and, Bool.and_eq_true, decide_eq_true_eq]; omega
    · omega
    · omega
    · omega

section
variable {s : State} {w : PcieWrite}

theorem State.applyPost_held (h : s.mayApply w = false) : s.applyPost w = s := by
  simp [State.applyPost, h]

theorem State.applyPost_lands (h : s.mayApply w = true) (hl : postLands w = true) : s.applyPost w = (s.notePost w).postedWrite w := by
  simp [State.applyPost, h, hl]

/-- R102, R386, R389, R391: what a posted write to a window does. -/
theorem State.postedWrite_dropped
    (h : (w.peer = true ∧ s.admitted (postTenant w) w.requester = false) ∨ (s.window w).armed = false ∨ s.yardRuns (postTenant w) = false) :
    s.postedWrite w = s.countDrop (postTenant w) := by
  unfold State.postedWrite
  dsimp only
  split
  · rfl
  · next hadm =>
    rw [if_pos]
    rcases h with ⟨hp, ha⟩ | h | h
    · exact absurd ⟨hp, by simp [ha]⟩ hadm
    · exact .inl (by simp [h])
    · exact .inr (by simp [h])

theorem State.postedWrite_taken (harm : (s.window w).armed = true) (hrun : s.yardRuns (postTenant w) = true)
    (hadm : w.peer = true → s.admitted (postTenant w) w.requester = true) :
    s.postedWrite w =
      if w.poisoned ∨ (s.window w).len < postOffset w + w.bytes.length then s.overflowWindow (s.window w)
      else
        let x := s.window w
        let r := (s.setTmBytes x.tile x.view (x.off + postOffset w) w.bytes).fillArrive x.tile (ptrView x.fill) (ptrOff x.fill) w.bytes.length
        if r.2 then r.1.raiseLate x.command .fillFormat 0 0 0 else r.1 := by
  unfold State.postedWrite
  dsimp only
  have hno : ¬(w.peer = true ∧ (!(s.admitted (postTenant w) w.requester)) = true) := by
    rintro ⟨hp, ha⟩
    rw [hadm hp] at ha
    cases ha
  rw [if_neg hno, if_neg (by simp [harm, hrun])]

/-- R102, R386, R391: a write is dropped where its window is not armed, its tenant does not run, or its requester is refused. -/
theorem exec_post_dropped (h : s.mayApply w = true) (hl : postLands w = true)
    (hdrop : (w.peer = true ∧ s.admitted (postTenant w) w.requester = false) ∨ (s.window w).armed = false ∨ s.yardRuns (postTenant w) = false) :
    exec (.pciePostedWrite w) s = .next ((s.notePost w).countDrop (postTenant w)) :=
  congrArg Host.Outcome.next ((State.applyPost_lands h hl).trans (State.postedWrite_dropped (s := s.notePost w) hdrop))

section
variable (h : s.mayApply w = true) (hl : postLands w = true) (harm : (s.window w).armed = true) (hrun : s.yardRuns (postTenant w) = true)
  (hadm : w.peer = true → s.admitted (postTenant w) w.requester = true)
include h hl harm hrun hadm

/-- R102, R389: one that does not fit or is poisoned sets the overflow bit of the window's fill word. -/
theorem exec_post_overflow (hover : w.poisoned = true ∨ (s.window w).len < postOffset w + w.bytes.length) :
    exec (.pciePostedWrite w) s = .next ((s.notePost w).overflowWindow (s.window w)) :=
  congrArg Host.Outcome.next ((State.applyPost_lands h hl).trans
    ((State.postedWrite_taken (s := s.notePost w) harm hrun hadm).trans (if_pos hover)))

/-- R100, R102: the bytes of any other one land and are counted. -/
theorem exec_post_landed (hp : w.poisoned = false) (hfit : postOffset w + w.bytes.length ≤ (s.window w).len) :
    let x := s.window w
    let r := ((s.notePost w).setTmBytes x.tile x.view (x.off + postOffset w) w.bytes).fillArrive x.tile (ptrView x.fill) (ptrOff x.fill)
      w.bytes.length
    exec (.pciePostedWrite w) s = .next (if r.2 then r.1.raiseLate x.command .fillFormat 0 0 0 else r.1) := by
  have hfits : ¬(w.poisoned = true ∨ (s.window w).len < postOffset w + w.bytes.length) := by
    simp [hp, hfit]
  exact congrArg Host.Outcome.next ((State.applyPost_lands h hl).trans
    ((State.postedWrite_taken (s := s.notePost w) harm hrun hadm).trans (if_neg hfits)))

end

/-- R388: host writes to PF0's BAR0 are port A's. -/
theorem State.applyPost_portA (h : s.mayApply w = true) (hp : w.peer = false) (hf : w.fn = 0) (hb : w.bar = 0) (hc : w.poisoned = false) :
    s.applyPost w = (s.notePost w).portAWrite w.addr w.bytes := by
  simp [State.applyPost, h, postLands, hp, hf, hb, hc]

theorem State.applyPost_other (h : s.mayApply w = true) (hb : w.bar ≠ 2)
    (ho : w.peer = true ∨ w.fn ≠ 0 ∨ w.bar ≠ 0 ∨ w.poisoned = true) : s.applyPost w = s.notePost w := by
  have hl : postLands w = false := by simp [postLands, hb]
  have hA : ¬((!w.peer) = true ∧ w.fn = 0 ∧ w.bar = 0 ∧ (!w.poisoned) = true) := by
    rintro ⟨hp, hf, hb0, hc⟩
    rcases ho with ho | ho | ho | ho
    · rw [ho] at hp; cases hp
    · exact ho hf
    · exact ho hb0
    · rw [ho] at hc; cases hc
  simp only [State.applyPost, h, hl]
  exact if_neg hA

end

/-- R386: a tenant's drop counter rises by one and saturates. -/
theorem State.memWord_countDrop (s : State) (v : Nat) :
    (s.countDrop v).memWord (configPa (0x132000 + 8 * v)) =
      if s.memWord (configPa (0x132000 + 8 * v)) = BitVec.allOnes 64 then BitVec.allOnes 64
      else s.memWord (configPa (0x132000 + 8 * v)) + 1 := by
  unfold State.countDrop
  dsimp only
  split
  · assumption
  · exact State.memWord_setMemWord _ _ _

/-- The fields of an interrupt message as numbers (R386). -/
theorem msix_fields (w : Word) : (w.extractLsb' 0 5).toNat = w.toNat % 32 ∧ (w.extractLsb' 8 3).toNat = w.toNat / 256 % 8 := by
  simp [BitVec.extractLsb'_toNat, Nat.shiftRight_eq_div_pow]

/-! The list of requests that are out (R111, R130, R385). -/

section
variable {r : Remote} {ps qs : List Remote}

theorem find?_remote (hids : ∀ q ∈ ps ++ qs, q.id ≠ r.id) {f : Remote → Bool} (hf : ∀ q, f q = true → q.id = r.id) :
    (ps ++ r :: qs).find? f = if f r then some r else none := by
  have hnone (l : List Remote) (hl : ∀ q ∈ l, q ∈ ps ++ qs) : l.find? f = none :=
    List.find?_eq_none.mpr (fun q hq hfq => hids q (hl q hq) (hf q hfq))
  rw [List.find?_append, hnone ps (fun q hq => List.mem_append_left _ hq), List.find?_cons]
  split
  · next h => simp [h]
  · next h => simp [h, hnone qs (fun q hq => List.mem_append_right _ hq)]

theorem filter_remote (hids : ∀ q ∈ ps ++ qs, q.id ≠ r.id) : (ps ++ r :: qs).filter (fun q => q.id != r.id) = ps ++ qs := by
  have hkeep : (ps ++ qs).filter (fun q => q.id != r.id) = ps ++ qs := List.filter_eq_self.mpr (fun q hq => by simpa using hids q hq)
  rw [List.filter_append] at hkeep ⊢
  simpa using hkeep

theorem map_remote (hids : ∀ q ∈ ps ++ qs, q.id ≠ r.id) (g : Remote → Remote) :
    (ps ++ r :: qs).map (fun q => if q.id = r.id then g q else q) = ps ++ g r :: qs := by
  have hkeep (l : List Remote) (hl : ∀ q ∈ l, q ∈ ps ++ qs) : l.map (fun q => if q.id = r.id then g q else q) = l := by
    refine (List.map_congr_left (fun q hq => if_neg (hids q (hl q hq)))).trans (List.map_id' l)
  rw [List.map_append, List.map_cons, if_pos rfl, hkeep ps (fun q hq => List.mem_append_left _ hq),
    hkeep qs (fun q hq => List.mem_append_right _ hq)]

end

/-! What an answer changes of that list. -/

theorem State.setBytes_eq (bs : List Byte) (s : State) (pa : Nat) : ∃ m, s.setBytes pa bs = { s with mem := m } := by
  induction bs generalizing s pa with
  | nil => exact ⟨_, rfl⟩
  | cons b bs ih =>
    obtain ⟨m, h⟩ := ih (s.setByte pa b) (pa + 1)
    exact ⟨m, h⟩

theorem State.remotes_setBytes (s : State) (pa : Nat) (bs : List Byte) : (s.setBytes pa bs).remotes = s.remotes := by
  obtain ⟨m, h⟩ := State.setBytes_eq bs s pa
  rw [h]

theorem State.remotes_drawBytes (s : State) (n : Nat) : (s.drawBytes n).2.remotes = s.remotes := by
  induction n generalizing s with
  | zero => rfl
  | succ n ih => exact ih s.draw.2

theorem State.remotes_of_sameButL2 {s t : State} (h : s.sameButL2 t) : t.remotes = s.remotes := by
  obtain ⟨_, _, _, rfl⟩ := h
  rfl

/-- What other devices have written to their bytes changes no request. -/
theorem State.remotes_elsewhere (s : State) (pa n : Nat) : (s.elsewhere pa n).remotes = s.remotes := by
  unfold State.elsewhere
  dsimp only
  split
  · rw [State.setL2_remotes, State.remotes_of_sameButL2 (State.sameButL2_fillL2 _ _ _), State.remotes_setBytes,
      State.remotes_drawBytes]
    rfl
  · rfl

section
variable {s : State} {r : Remote} {ps qs : List Remote}

theorem State.answered_write (hs : s.remotes = ps ++ r :: qs) (hids : ∀ q ∈ ps ++ qs, q.id ≠ r.id) (hw : r.isWrite = true) :
    s.answered r = ({ s with remotes := ps ++ qs } : State).countAcked r := by
  rw [State.answered, if_pos hw, hs, filter_remote hids]

theorem State.remotes_answered_read (hs : s.remotes = ps ++ r :: qs) (hids : ∀ q ∈ ps ++ qs, q.id ≠ r.id) (hw : r.isWrite = false) :
    (s.answered r).remotes = ps ++ { r with acked := true } :: qs := by
  rw [State.answered, if_neg (by simp [hw])]
  exact (congrArg _ hs).trans (map_remote hids (fun q => { q with acked := true }))

/-! PCIE_COMPLETION (R123, R385). -/

theorem State.pcieDone_none (hs : s.remotes = ps ++ r :: qs) (hids : ∀ q ∈ ps ++ qs, q.id ≠ r.id) (hp : r.pcie = false) :
    s.pcieDone r.id = s := by
  have hfind : s.remotes.find? (fun q => q.id == r.id && q.pcie && !q.acked) = none := by
    rw [hs, find?_remote hids (fun q hq => by simp at hq; exact hq.1.1)]
    simp [hp]
  simp only [State.pcieDone, hfind]

theorem State.pcieDone_some (hs : s.remotes = ps ++ r :: qs) (hids : ∀ q ∈ ps ++ qs, q.id ≠ r.id) (ha : r.acked = false)
    (hp : r.pcie = true) :
    s.pcieDone r.id = if r.isWrite then (s.setBytes r.pa r.bytes).answered r
      else ((s.drawBytes r.size).2.setBytes r.pa (s.drawBytes r.size).1).answered r := by
  have hfind : s.remotes.find? (fun q => q.id == r.id && q.pcie && !q.acked) = some r := by
    rw [hs, find?_remote hids (fun q hq => by simp at hq; exact hq.1.1)]
    simp [hp, ha]
  simp only [State.pcieDone, hfind]

/-! MILAY_ACKNOWLEDGEMENT (R111, R130, R392). -/

theorem State.milayDone_none (hs : s.remotes = ps ++ r :: qs) (hids : ∀ q ∈ ps ++ qs, q.id ≠ r.id)
    (hopen : ¬(r.failed = false ∧ s.milayOpen r = true)) : s.milayDone r.id = s := by
  have hfind : s.remotes.find? (fun q => q.id == r.id && !q.pcie && !q.acked && !q.failed && s.milayOpen q) = none := by
    rw [hs, find?_remote hids (fun q hq => by simp at hq; exact hq.1.1.1.1)]
    refine if_neg (fun h => hopen ?_)
    simp only [Bool.and_eq_true, Bool.not_eq_true'] at h
    exact ⟨h.1.2, h.2⟩
  simp only [State.milayDone, hfind]

section
variable (hs : s.remotes = ps ++ r :: qs) (hids : ∀ q ∈ ps ++ qs, q.id ≠ r.id) (ha : r.acked = false)
  (hp : r.pcie = false) (hf : r.failed = false) (ho : s.milayOpen r = true)
include hs hids ha hp hf ho

theorem find?_acknowledged :
    s.remotes.find? (fun q => q.id == r.id && !q.pcie && !q.acked && !q.failed && s.milayOpen q) = some r := by
  rw [hs, find?_remote hids (fun q hq => by simp at hq; exact hq.1.1.1.1)]
  simp [hp, ha, hf, ho]

theorem State.milayDone_write (hw : r.isWrite = true) : s.milayDone r.id = s.answered r := by
  simp only [State.milayDone, find?_acknowledged hs hids ha hp hf ho, hw, if_true]

theorem State.milayDone_read (hw : r.isWrite = false) (hfill : r.fill = none) :
    s.milayDone r.id = (s.elsewhere r.pa r.size).answered r := by
  simp only [State.milayDone, find?_acknowledged hs hids ha hp hf ho, hw, hfill, Bool.false_eq_true, if_false]

/-- A read for PREF is done with; its line comes into L1, or waits for room there (R185). -/
theorem State.milayDone_fill {pg : Pg} (hw : r.isWrite = false) (hfill : r.fill = some pg) :
    let t : State := { s.elsewhere r.pa r.size with remotes := (s.elsewhere r.pa r.size).remotes.filter (fun q => q.id != r.id) }
    s.milayDone r.id = if t.fillable (cidTile r.cid) r.pa then t.fillL1 r.cid (cidTile r.cid) r.pa pg
      else t.modTile (cidTile r.cid) (fun x => { x with ahead := x.ahead ++ [(r.cid, r.pa, pg)] }) := by
  simp only [State.milayDone, find?_acknowledged hs hids ha hp hf ho, hw, hfill, Bool.false_eq_true, if_false]

end

end

end Sys2Proof.Machine
end

section
/-! PROOFS. Accesses over Milay that bring lines or are given up, and the statement of homes and ports (R185, R310, R312, R392, R393). -/

namespace Sys2Proof.Machine

/-! The route of a request (R392). -/

/-- A request can be answered where a port of its route is up, and of one line's requests in the order of issue. -/
theorem State.milayOpen_iff (s : State) (r : Remote) :
    s.milayOpen r = true ↔ s.routeDead (deviceOf r.pa) = false ∧
      ∀ q ∈ s.remotes, q.id < r.id → q.pcie = false → q.acked = false → q.failed = false → lineOf q.pa ≠ lineOf r.pa := by
  have hport : (s.portFor r.pa).isSome = true ↔ s.routeDead (deviceOf r.pa) = false := by
    unfold State.portFor State.routeDead
    generalize s.livePorts (deviceOf r.pa) = ports
    cases ports with
    | nil => simp
    | cons p ports =>
      have hlt := Nat.mod_lt (Config.portHash (lineOf r.pa)) (Nat.succ_pos ports.length)
      simp [hlt]
  simp [State.milayOpen, hport]

/-! A line that a read brings into L1 (R185): no request is lost. -/

section
variable {s : State} {q : Remote} (hq : q ∈ s.remotes)
include hq

theorem State.mem_remotes_writeBack (t l : Nat) : q ∈ (s.writeBack t l).remotes := by
  unfold State.writeBack
  dsimp only
  split
  · exact hq
  · exact State.mem_remotes_sendHome t l _ hq

theorem State.mem_remotes_drainWcb (t : Nat) : q ∈ (s.drainWcb t).remotes := by
  rw [State.drainWcb_eq]
  exact foldl_keeps (fun v : State => q ∈ v.remotes) _ (fun v l hv => State.mem_remotes_sendHome t l _ hv) hq

theorem State.mem_remotes_settleWcb (t : Nat) : q ∈ (s.settleWcb t).remotes := by
  unfold State.settleWcb
  split
  · exact hq
  · exact State.mem_remotes_drainWcb hq t

theorem State.mem_remotes_roomL1 (t : Nat) : q ∈ (s.roomL1 t).remotes := by
  unfold State.roomL1
  split
  · exact hq
  · exact State.mem_remotes_writeBack (s := s.draw.2) hq t _

theorem State.mem_remotes_fillL2 (pa y : Nat) : q ∈ (s.fillL2 pa y).remotes := by
  rw [State.remotes_of_sameButL2 (State.sameButL2_fillL2 _ _ _)]; exact hq

theorem State.mem_remotes_fillL1 (c t pa : Nat) (pg : Pg) : q ∈ (s.fillL1 c t pa pg).remotes := by
  have hsettle := State.mem_remotes_settleWcb hq t
  have hroom : q ∈ (if ((s.tile t).line (lineOf pa)).present then s.settleWcb t else (s.settleWcb t).roomL1 t).remotes := by
    split
    · exact hsettle
    · exact State.mem_remotes_roomL1 hsettle t
  unfold State.fillL1
  dsimp only
  split
  · exact hq
  · rw [State.modTile_remotes]
    generalize (if ((s.tile t).line (lineOf pa)).present then s.settleWcb t else (s.settleWcb t).roomL1 t) = u at hroom ⊢
    split
    · exact State.mem_remotes_fillL2 hroom pa _
    · exact hroom

end

section
variable {s : State} {r : Remote} {ps qs : List Remote}

/-- A read that brings a line of PREF: it is done with, and the other requests stay. -/
theorem State.mem_remotes_milayDone_fill (hs : s.remotes = ps ++ r :: qs) (hids : ∀ q ∈ ps ++ qs, q.id ≠ r.id) (ha : r.acked = false)
    (hp : r.pcie = false) (hf : r.failed = false) (ho : s.milayOpen r = true) (hw : r.isWrite = false) (hfill : r.fill ≠ none) :
    ∀ q ∈ ps ++ qs, q ∈ (s.milayDone r.id).remotes := by
  intro q hq
  obtain ⟨pg, hpg⟩ := Option.ne_none_iff_exists'.mp hfill
  rw [State.milayDone_fill hs hids ha hp hf ho hw hpg]
  have hleft : (s.elsewhere r.pa r.size).remotes.filter (fun q => q.id != r.id) = ps ++ qs := by
    rw [State.remotes_elsewhere, hs, filter_remote hids]
  dsimp only
  rw [hleft]
  split
  · exact State.mem_remotes_fillL1 hq _ _ _ _
  · exact hq

/-! MILAY_ACCESS_TIMEOUT (R393). -/

theorem State.expired_iff (ha : r.acked = false) (hp : r.pcie = false) :
    s.expired r = true ↔ r.failed = true ∨ (r.sent + 1000000 ≤ s.cal ∧ s.routeDead (deviceOf r.pa) = true) := by
  simp [State.expired, ha, hp]

theorem find?_expired (hs : s.remotes = ps ++ r :: qs) (hids : ∀ q ∈ ps ++ qs, q.id ≠ r.id) :
    s.remotes.find? (fun q => q.id == r.id && s.expired q) = if s.expired r then some r else none := by
  rw [hs, find?_remote hids (fun q hq => by simp at hq; exact hq.1)]
  simp

theorem State.milayTimeout_stays (hs : s.remotes = ps ++ r :: qs) (hids : ∀ q ∈ ps ++ qs, q.id ≠ r.id)
    (h : s.expired r = false ∨ s.canRaise r = false) : s.milayTimeout r.id = s := by
  unfold State.milayTimeout
  rw [find?_expired hs hids]
  cases he : s.expired r with
  | false => rfl
  | true =>
    have hc : s.canRaise r = false := h.resolve_left (by simp [he])
    simp [hc]

/-- What is done with an access that is given up, by its kind. -/
theorem State.milayTimeout_gone (hs : s.remotes = ps ++ r :: qs) (hids : ∀ q ∈ ps ++ qs, q.id ≠ r.id)
    (he : s.expired r = true) (hc : s.canRaise r = true) :
    s.milayTimeout r.id =
      if r.isCompanion then ({ s with remotes := ps ++ qs } : State).dropCompanion r.pa
      else if r.isWrite then ({ s with remotes := ps ++ qs } : State).writeError r
      else if r.fill.isSome then { s with remotes := ps ++ qs }
      else { s with remotes := ps ++ { r with acked := true, failed := true } :: qs } := by
  have hgone : s.remotes.filter (fun q => q.id != r.id) = ps ++ qs := by rw [hs, filter_remote hids]
  have hfailed : s.remotes.map (fun q => if q.id = r.id then { q with acked := true, failed := true } else q) =
      ps ++ { r with acked := true, failed := true } :: qs := by
    rw [hs]; exact map_remote hids (fun q => { q with acked := true, failed := true })
  unfold State.milayTimeout
  rw [find?_expired hs hids, if_pos he]
  simp only [hc, hgone, hfailed, Bool.not_true, Bool.false_eq_true, if_false]

end

/-! A late cause (R215, R312). -/

theorem State.noteLate_eq (s : State) (q : QEntry) (e : Cause) : ∃ ts, s.noteLate q e = { s with tiles := ts } := by
  unfold State.noteLate
  split
  · exact ⟨_, rfl⟩
  · exact ⟨_, rfl⟩

/-- A late cause of a control context's command stays with its context until the drain. -/
theorem State.late_raiseLate {s : State} {q : QEntry} {c : Nat} (e : Cause) (m k : Nat) (tv : Word) (hrel : q.rel = none)
    (howner : s.owner q = some c) (hslot : isHelperSlot (cidSlot c) = false) :
    ((s.raiseLate q e m k tv).ctx c).late =
      (s.ctx c).late ++ [{ seq := q.seq, ord := q.ord, cause := e, member := m, elem := k, tval := tv }] := by
  obtain ⟨ts, hnote⟩ := s.noteLate_eq q e
  have howner' : (s.noteLate q e).owner q = some c := by rw [hnote]; exact howner
  have hctx : (s.noteLate q e).ctx c = s.ctx c := by rw [hnote]; rfl
  simp only [State.raiseLate, howner', hrel, hslot, Bool.false_eq_true, if_false, State.ctx_modCtx_self, hctx]

/-! The rows of an answer. -/

section
variable {s : State} {r : Remote} {ps qs : List Remote} (hs : s.remotes = ps ++ r :: qs) (hids : ∀ q ∈ ps ++ qs, q.id ≠ r.id)
include hs hids

/-- The row of a request's answer does nothing where the request cannot be answered. -/
theorem answer_closed (hclosed : ¬(r.pcie = true ∨ (r.failed = false ∧ s.milayOpen r = true))) :
    exec (if r.pcie then .pcieCompletion r.id else .milayAcknowledgement r.id) s = .next s := by
  obtain ⟨hp, hopen⟩ := not_or.mp hclosed
  rw [if_neg hp]
  exact congrArg Host.Outcome.next (State.milayDone_none hs hids hopen)

/-- An answered write is in place, counted and done with. -/
theorem answer_write (ha : r.acked = false) (hopen : r.pcie = true ∨ (r.failed = false ∧ s.milayOpen r = true)) (hw : r.isWrite = true) :
    exec (if r.pcie then .pcieCompletion r.id else .milayAcknowledgement r.id) s =
      .next (({ (if r.pcie then s.setBytes r.pa r.bytes else s) with remotes := ps ++ qs } : State).countAcked r) := by
  by_cases hp : r.pcie = true
  · rw [if_pos hp, if_pos hp]
    refine congrArg Host.Outcome.next ((State.pcieDone_some hs hids ha hp).trans ?_)
    rw [if_pos hw]
    exact State.answered_write ((s.remotes_setBytes _ _).trans hs) hids hw
  · rw [if_neg hp, if_neg hp]
    obtain ⟨hf, ho⟩ := hopen.resolve_left hp
    exact congrArg Host.Outcome.next ((State.milayDone_write hs hids ha (by simpa using hp) hf ho hw).trans (State.answered_write hs hids hw))

/-- An answered read waits for its context to take it. -/
theorem answer_read (ha : r.acked = false) (hopen : r.pcie = true ∨ (r.failed = false ∧ s.milayOpen r = true)) (hw : r.isWrite = false)
    (hread : r.pcie = true ∨ r.fill = none) :
    ∃ u, exec (if r.pcie then .pcieCompletion r.id else .milayAcknowledgement r.id) s = .next u ∧
      u.remotes = ps ++ { r with acked := true } :: qs := by
  by_cases hp : r.pcie = true
  · rw [if_pos hp]
    have hrun : s.pcieDone r.id = ((s.drawBytes r.size).2.setBytes r.pa (s.drawBytes r.size).1).answered r := by
      rw [State.pcieDone_some hs hids ha hp, if_neg (by simp [hw])]
    exact ⟨_, congrArg Host.Outcome.next hrun,
      State.remotes_answered_read (((State.remotes_setBytes _ _ _).trans (s.remotes_drawBytes _)).trans hs) hids hw⟩
  · rw [if_neg hp]
    obtain ⟨hf, ho⟩ := hopen.resolve_left hp
    have hrun := State.milayDone_read hs hids ha (by simpa using hp) hf ho hw (hread.resolve_left hp)
    exact ⟨_, congrArg Host.Outcome.next hrun, State.remotes_answered_read ((s.remotes_elsewhere _ _).trans hs) hids hw⟩

end

/-! The statement. -/

/-- Settles O57: each row's effect is one of the lemmas above, under the conditions that the statement gives it. -/
theorem homesAndPortsServeTheirTraffic : Obligations.HomesAndPortsServeTheirTraffic := by
  unfold Obligations.HomesAndPortsServeTheirTraffic
  refine ⟨⟨?requests, ?caches, ?tags⟩, ?posts, ?drops, ?messages, ?remotes, ?ports⟩
  case requests =>
    intro s dev pa tag m hs hfree hd
    refine ⟨fun op h0 hfit hbad => ?_, fun n h0 hfit hgood => ?_, fun bs h0 hfit hgood => ?_⟩
    · exact congrArg Host.Outcome.next
        (State.homeAccess_bad (r := { dev := dev, tag := tag, pa := pa, memSide := m, op := op }) hs h0 hfit hfree hbad)
    · exact ⟨_, rfl, State.homeAccess_read hs hfree hd h0 hfit hgood⟩
    · exact ⟨_, rfl, State.homeAccess_write hs hfree hd h0 hfit hgood⟩
  case caches =>
    intro s t l
    refine ⟨fun ho => congrArg Host.Outcome.next (if_pos ho), fun ho => congrArg Host.Outcome.next (if_neg (by simp [ho])), fun he => ?_,
      fun he => congrArg Host.Outcome.next (if_pos (by simp [he])), fun hro => ⟨fun hclean => ?_, fun hdirty => ?_⟩, fun ho hn hplain => ?_⟩
    · obtain ⟨habs, hfloor, hver⟩ := State.evictL2_evictable he
      exact ⟨_, rfl, habs, hfloor, hver, State.sameStore_of_sameButL2 (s.sameButL2_evictL2 l)⟩
    · refine ⟨_, congrArg Host.Outcome.next ((State.evictL1_eq hro).trans (if_pos (by simp [hclean]))), ?_, fun a => rfl⟩
      rw [State.tile_modTile_self, Tile.line_setLine_self]
    · exact congrArg Host.Outcome.next ((State.evictL1_eq hro).trans (if_neg (by simpa using hdirty)))
    · exact ⟨_, rfl, State.drainWcb_all ho hn hplain⟩
  case tags =>
    intro s tag
    refine ⟨fun h => congrArg Host.Outcome.next (if_pos ?_), fun hd hf => ⟨_, rfl, State.tagDrained_done hd hf⟩⟩
    exact h.imp_left (fun hd => by simp [hd])
  case posts =>
    intro s w
    refine ⟨s.mayApply_iff w, List.mem_append_right _ List.mem_cons_self, fun h => congrArg Host.Outcome.next (State.applyPost_held h),
      fun h => ⟨fun v n o hv hn ho hbar haddr hfn => ?_, fun hp hf hb hc => congrArg Host.Outcome.next (State.applyPost_portA h hp hf hb hc),
        fun hb ho => congrArg Host.Outcome.next (State.applyPost_other h hb ho)⟩⟩
    obtain ⟨hlands, rfl, rfl, rfl⟩ := post_place hv hn ho hbar haddr hfn
    exact ⟨fun hdrop => exec_post_dropped h hlands hdrop, fun harm hrun hadm =>
      ⟨fun hover => exec_post_overflow h hlands harm hrun hadm hover, fun hp hfit => exec_post_landed h hlands harm hrun hadm hp hfit⟩⟩
  case drops =>
    intro s v _ u hu
    rw [hu]
    exact s.memWord_countDrop v
  case messages =>
    intro s peer tag w
    obtain ⟨hvf, hvector⟩ := msix_fields w
    exact ⟨_, rfl, rfl, rfl, rfl, _, rfl, by rw [← hvf, ← hvector], rfl, rfl⟩
  case remotes =>
    intro s r ps qs hs hids ha
    refine ⟨s.milayOpen_iff r, fun hclosed => ?_, fun hopen => ⟨fun hw => ?_, fun hw hread => ?_, fun hw hp hfill => ?_⟩, fun hp => ?_⟩
    · exact answer_closed hs hids hclosed
    · exact answer_write hs hids ha hopen hw
    · exact answer_read hs hids ha hopen hw hread
    · obtain ⟨hf, ho⟩ := hopen.resolve_left (by simp [hp])
      rw [if_neg (by simp [hp])]
      exact ⟨_, rfl, State.mem_remotes_milayDone_fill hs hids ha hp hf ho hw hfill⟩
    · have hexpired := State.expired_iff (s := s) ha hp
      refine ⟨fun h => congrArg Host.Outcome.next (State.milayTimeout_stays hs hids (h.imp_left fun h => ?_)), fun he hc => ?_⟩
      · simpa using fun he => h (hexpired.mp he)
      · have hgone : exec (.milayAccessTimeout r.id) s = _ := congrArg Host.Outcome.next (State.milayTimeout_gone hs hids (hexpired.mpr he) hc)
        refine ⟨fun hw hfill => hgone.trans ?_, fun hw hfill => hgone.trans ?_, fun hcomp => hgone.trans ?_, fun hw hcomp =>
          ⟨hgone.trans ?_, fun q c hcmd hrel howner hslot => ?_⟩⟩
        · have hcomp : r.isCompanion = false := by simp [Remote.isCompanion, hw]
          simp [hcomp, hw, hfill]
        · have hcomp : r.isCompanion = false := by simp [Remote.isCompanion, hw]
          simp [hcomp, hw, Option.isSome_iff_ne_none.mpr hfill]
        · rw [if_pos hcomp]
        · simp [hcomp, hw]
        · refine ⟨{ seq := q.seq, ord := q.ord, cause := .memError, member := 0, elem := 0, tval := r.tv }, ?_, rfl, rfl, rfl, rfl⟩
          simp only [State.writeError, hcmd]
          exact State.late_raiseLate .memError 0 0 r.tv hrel howner hslot
  case ports =>
    intro s p hp
    refine ⟨fun h => ?_, fun h => ⟨?_, ?_⟩⟩
    · have hgo : ¬(18 ≤ p ∨ s.byte (linkPa p) = 3) := by rintro (h18 | h3); exacts [by omega, h h3]
      exact ⟨_, _, congrArg Host.Outcome.next (if_neg hgo), State.byte_setByte_self _ _ _, congrArg Host.Outcome.next (if_neg hgo),
        State.byte_setByte_self _ _ _⟩
    · exact congrArg Host.Outcome.next (if_pos (.inr h))
    · exact congrArg Host.Outcome.next (if_pos (.inr h))

end Sys2Proof.Machine
end

section
/-! PROOFS. What a step carries out, and what comes of the context that a core looks at (R9, R35). -/

namespace Sys2Proof.Machine

/-! The choice of a step. -/

theorem State.tick_mem_choices {s : State} (h : s.dueCores = []) : Choice.tick ∈ s.choices := by
  simp [State.choices, h]

theorem State.turn_mem_choices {s : State} {k : Nat} (h : k ∈ s.dueCores) : Choice.turn k ∈ s.choices := by
  have hne : s.dueCores.isEmpty = false := by
    rw [List.isEmpty_eq_false_iff]
    exact List.ne_nil_of_mem h
  simp [State.choices, hne, h]

theorem step_of_one_choice {s : State} {x : Choice} (h : s.running) (hx : s.choices = [x]) : step s = (s.carryOut x).outcome := by
  obtain ⟨hpower, hboot, hagenda, htimed⟩ := h
  simp [step, State.plan, hpower, hboot, hagenda, htimed, hx]

theorem step_of_choices {s : State} (h : s.running) (h2 : 2 ≤ s.choices.length) :
    ∃ x, x ∈ s.choices ∧ step s = (s.draw.2.carryOut x).outcome := by
  obtain ⟨hpower, hboot, hagenda, htimed⟩ := h
  match hc : s.choices with
  | [] => simp [hc] at h2
  | [x] => simp [hc] at h2
  | x :: y :: xs =>
    have hlt : s.draw.1.toNat % ((y :: xs).length + 1) < (x :: y :: xs).length := Nat.mod_lt _ (Nat.succ_pos _)
    refine ⟨_, List.getElem_mem hlt, ?_⟩
    rw [← List.getD_eq_getElem _ x hlt]
    simp [step, State.plan, hpower, hboot, hagenda, htimed, hc]

theorem step_of_timed_row {s : State} {i : Instr} (hpower : s.mgmt.powered = true) (hboot : s.mgmt.boot = 6)
    (hagenda : s.agenda.head? ≠ some .waggleBoundary) (htimed : s.timed = some (.row i)) :
    step s = exec i { s with agenda := s.agenda.erase i } := by
  simp only [step, State.plan, hpower, hboot, hagenda, htimed]
  rfl

/-! A context in a core's tile cycle. -/

theorem State.resume_issued {s v : State} {c : Nat} {i : Instr} (howed : (s.ctx c).owed = none) (hissued : (s.ctx c).issued = some i)
    (hb : s.boundary c = none) (hv : exec i { s with cur := c } = .next v) : s.resume c = v := by
  simp [State.resume, howed, hissued, hb, hv]

/-- An attempt of a context at whose boundary nothing is due is the attempt of the instruction that its word decodes to. -/
theorem State.attempt_decoded {u t : State} {c : Nat} {w : IWord} {i : Instr} (howed : (u.ctx c).owed = none)
    (hissued : (u.ctx c).issued = none) (hstall : ({ u with cur := c } : State).stalled c = false)
    (hb : ({ u with cur := c } : State).boundary c = none) (hp : prologue { u with cur := c } = .ok w t) (hd : decode w = .ok i) :
    u.attempt c = (Plan.run i t).attempt c := by
  have howed' : (({ u with cur := c } : State).ctx c).owed = none := howed
  have hissued' : (({ u with cur := c } : State).ctx c).issued = none := hissued
  simp [State.attempt, howed', hissued', hstall, hb, State.issue, hp, hd]

section
variable {t v : State} {c : Nat} {i : Instr}

theorem Plan.attempt_waits (hv : exec i t = .next v) (hw : (v.ctx c).wait ≠ .none) (hi : (v.ctx c).wait.issued = false) :
    (Plan.run i t).attempt c = .waits v := by
  simp [Plan.attempt, Plan.outcome, hv, hw, hi]

theorem Plan.attempt_begins (hv : exec i t = .next v) (hw : (v.ctx c).wait ≠ .none) (hi : (v.ctx c).wait.issued = true) :
    (Plan.run i t).attempt c = .begins (v.modCtx c (fun x => { x with issued := some i })) := by
  simp [Plan.attempt, Plan.outcome, hv, hw, hi]

theorem Plan.attempt_issues (h : ∀ v, exec i t = .next v → (v.ctx c).wait = .none) :
    (Plan.run i t).attempt c = .issues (.run i t) := by
  unfold Plan.attempt
  split
  · next v hv => rw [if_pos (h v hv)]
  · rfl

end

/-- Settles O2: the choice is taken apart by how many there are, the turn by what comes of the context that is looked at. -/
theorem stepRunsTheDecodedInstruction : Obligations.StepRunsTheDecodedInstruction := by
  unfold Obligations.StepRunsTheDecodedInstruction
  refine ⟨fun s => ⟨State.tick_mem_choices, fun k => State.turn_mem_choices⟩, fun s x => step_of_one_choice, fun s => step_of_choices,
    fun s i => step_of_timed_row, fun s k => rfl, fun s v c i => State.resume_issued, ?turn⟩
  intro u c cs w t i a howed hissued hstall hb hp hd
  have hattempt := State.attempt_decoded howed hissued hstall hb hp hd
  refine ⟨fun v hv hw hi => ?waits, fun v hv hw hi => ?begins, fun h => ?issues⟩
  case waits => rw [State.firstReady, hattempt, Plan.attempt_waits hv hw hi]
  case begins => rw [State.firstReady, hattempt, Plan.attempt_begins hv hw hi]; rfl
  case issues => rw [State.firstReady, hattempt, Plan.attempt_issues h]; rfl

end Sys2Proof.Machine
end

section
/-! PROOFS. Link queues and qk: what a pop takes, what a reader of an empty queue waits for, and how a value crosses a link (R35, R36, R66, R136,
R137, R299, R355). -/

namespace Sys2Proof

/-- A map whose every entry is changed reads, at each key, as the changed entry there, where the change keeps what an unlisted key reads as. -/
theorem SMap.get_map {α : Type} {d : Nat → α} (g : Nat → α → α) (m : SMap α) {k : Nat} (hd : g k (d k) = d k) :
    SMap.get d (m.map (fun p => (p.1, g p.1 p.2))) k = g k (SMap.get d m k) := by
  induction m with
  | nil => exact hd.symm
  | cons p m ih =>
    obtain ⟨j, a⟩ := p
    by_cases h : j = k
    · subst h; simp [SMap.get]
    · simpa [SMap.get, h] using ih

end Sys2Proof

namespace Sys2Proof.Machine

/-! The registers that name queues (R135, R136). -/

section
variable {r : Reg}

theorem isQueue_link (hlo : 24 ≤ r.toNat) (hhi : r.toNat ≤ 27) : isQueue r = true := by
  simp only [isQueue, Bool.and_eq_true, decide_eq_true_eq]; omega

theorem ne_of_link (hhi : r.toNat ≤ 27) : r ≠ 28 ∧ r ≠ 29 := by
  constructor <;> rintro rfl <;> simp at hhi

theorem link_or_shared {p : Reg} (hlo : 24 ≤ p.toNat) (hhi : p.toNat ≤ 29) : p.toNat ≤ 27 ∨ p = 28 ∨ p = 29 := by
  bv_omega

theorem linkDir_ne {p : Reg} (hlo : 24 ≤ r.toNat) (hhi : r.toNat ≤ 27) (hplo : 24 ≤ p.toNat) (hphi : p.toNat ≤ 27) (h : p ≠ r) :
    linkDir p ≠ linkDir r := by
  revert r p
  decide

end

/-! What a pop takes. -/

section
variable {s : State} {r : Reg} {q : QVal} {qs : List QVal}

theorem State.peek_link (hhi : r.toNat ≤ 27) : s.peek r = (s.core s.myCore).queue (linkDir r) := by
  obtain ⟨h28, h29⟩ := ne_of_link hhi
  rw [State.peek, if_neg h28, if_neg h29]

theorem State.read_queue (hr : isQueue r = true) : s.read r = s.pop r := if_pos hr

theorem State.read_register (hr : isQueue r = false) : s.read r = (s.me.greg r, s) := if_neg (by simp [hr])

/-- A pop answers the oldest value. -/
theorem State.read_value (hr : isQueue r = true) (h29 : r ≠ 29) (hq : s.peek r = q :: qs) : (s.read r).1 = q.val := by
  rw [State.read_queue hr, State.pop, hq]
  dsimp only
  split
  · rfl
  · rfl

theorem State.read_link_state (hlo : 24 ≤ r.toNat) (hhi : r.toNat ≤ 27) :
    (s.read r).2 = s.modCore s.myCore (fun k => k.setQueue (linkDir r) ((k.queue (linkDir r)).drop 1)) := by
  obtain ⟨h28, h29⟩ := ne_of_link hhi
  rw [State.read_queue (isQueue_link hlo hhi), State.pop_state, if_neg h28, if_neg h29]

theorem State.read_qk_state : (s.read 28).2 = s.modTile s.myTile (fun t => { t with qk := t.qk.drop 1 }) := by
  rw [State.read_queue (by decide), State.pop_state, if_pos rfl]

/-- The oldest value of a link queue leaves it. -/
theorem State.peek_read_link (hlo : 24 ≤ r.toNat) (hhi : r.toNat ≤ 27) (hq : s.peek r = q :: qs) : (s.read r).2.peek r = qs := by
  rw [State.peek_link hhi] at hq ⊢
  rw [State.read_link_state hlo hhi]
  show ((s.modCore s.myCore _).core s.myCore).queue (linkDir r) = qs
  simp [hq]

/-- Every other queue stays as it was. -/
theorem State.peek_read_other {p : Reg} (hlo : 24 ≤ r.toNat) (hhi : r.toNat ≤ 27) (hplo : 24 ≤ p.toNat) (hphi : p.toNat ≤ 29) (h : p ≠ r) :
    (s.read r).2.peek p = s.peek p := by
  rw [State.read_link_state hlo hhi]
  rcases link_or_shared hplo hphi with hlink | rfl | rfl
  · rw [State.peek_link hlink, State.peek_link hlink]
    show ((s.modCore s.myCore _).core s.myCore).queue (linkDir p) = _
    rw [State.core_modCore_self, Core.queue_setQueue_ne _ _ (linkDir_ne hlo hhi hplo hlink h)]
  · rfl
  · rfl

end

/-! A reader of an empty queue waits (R35, R36). -/

section
variable {s : State}

theorem State.sameStore_unpop (t s : State) : t.sameStore (t.unpop s) :=
  State.sameStore_modTile t s.myTile (fun x => { x with qk := (s.tile s.myTile).qk, ev := (s.tile s.myTile).ev }) (fun _ => ⟨rfl, rfl, rfl⟩)

/-- What a waiting context notes of its wait. -/
theorem State.me_wait (t s : State) (k : WaitKind) (op : Word) :
    ((t.unpop s).beginWait k op).me = { t.me with got := s.me.got, wait := k, waitOp := op } := by
  rw [State.beginWait, State.me_modMe, State.me_unpop]

theorem State.sameOthers_wait (t s : State) (k : WaitKind) (op : Word) : t.sameOthers ((t.unpop s).beginWait k op) :=
  ⟨rfl, fun _ hc => (State.ctx_modMe_ne (t.unpop s) _ hc).trans (State.ctx_modMe_ne _ _ hc)⟩

/-- A wait in which nothing was popped leaves every queue as it was. -/
theorem State.peek_wait (s : State) (k : WaitKind) (op : Word) (p : Reg) : ((s.unpop s).beginWait k op).peek p = s.peek p := by
  have hcore : ((s.unpop s).beginWait k op).core s.myCore = s.core s.myCore := 
    State.core_modCore_self s s.myCore (fun x => { x with qn := (s.core s.myCore).qn, qe := (s.core s.myCore).qe,
                                                          qs := (s.core s.myCore).qs, qw := (s.core s.myCore).qw })
  have htile : ((s.unpop s).beginWait k op).tile s.myTile = s.tile s.myTile :=
    State.tile_modTile_self s s.myTile (fun x => { x with qk := (s.tile s.myTile).qk, ev := (s.tile s.myTile).ev })
  have hcur : ((s.unpop s).beginWait k op).cur = s.cur := rfl
  simp only [State.peek, State.me_wait, State.myCore, State.myTile, hcur]
  simp only [State.myCore, State.myTile] at hcore htile
  rw [hcore, htile]
  rfl

/-- The gate of an instruction that pops an empty queue first, and pushes none. -/
theorem gate_empty {r b d : Reg} (hr : isQueue r = true) (hd : isQueue d = false) (hp : s.peek r = []) :
    gate [r, b] [d] true s = .error (.wait .pop (r.setWidth 64)) s := by
  have h28 : 28#5 ≠ d := by rintro rfl; cases hd
  have hfind : ([r, b].filter isQueue).find? (fun x => decide ((s.peek x).length < countOf x ([r, b].filter isQueue))) = some r := by
    simp [hr, hp, countOf]
  simp [gate, hd, h28, hfind]

/-- The gate of an instruction that pops a value of another top-code bit, and pushes none (R66). -/
theorem gate_topCode {r d : Reg} {q : QVal} {qs : List QVal} (hr : isQueue r = true) (hd : isQueue d = false) (hp : s.peek r = q :: qs)
    (htc : q.tc ≠ s.me.tc) : gate [r, 0] [d] true s = .error (.trap .topCode 0) s := by
  have h28 : 28#5 ≠ d := by rintro rfl; cases hd
  have hpops : [r, 0].filter isQueue = [r] := by
    rw [List.filter_cons_of_pos hr]
    rfl
  unfold gate
  dsimp only
  rw [hpops]
  simp [hd, h28, h28.symm, hp, countOf, htc]

theorem exec_add_empty {r b d : Reg} (h : s.canExecute) (hr : isQueue r = true) (hd : isQueue d = false) (hp : s.peek r = []) :
    exec (.add d r b) s = .next ((s.unpop s).beginWait .pop (r.setWidth 64)) :=
  run_wait h.1 ((bind_ok (noPrefix_ok h.2)).trans (bind_error (gate_empty hr hd hp)))

theorem exec_add_topCode {r d : Reg} {q : QVal} {qs : List QVal} (h : s.canExecute) (hw : s.canClose) (hr : isQueue r = true)
    (hd : isQueue d = false) (hp : s.peek r = q :: qs) (htc : q.tc ≠ s.me.tc) :
    exec (.add d r 0) s = .next (s.raised s .topCode 0) :=
  run_trap h.1 ((bind_ok (noPrefix_ok h.2)).trans (bind_error (gate_topCode hr hd hp htc))) hw

end

/-! Values in flight (R299, R355). -/

/-- The way back over a link leads to the tile that it left. -/
theorem neighbour_dirOpp {t u : Nat} {d : Dir} (h : neighbour t d = some u) : neighbour u (dirOpp d) = some t := by
  cases d <;> simp only [neighbour, dirOpp, Option.ite_none_left_eq_some, Option.some.injEq] at h ⊢ <;>
    simp only [tileX, tileY] at h ⊢ <;> omega

theorem dirOpp_dirOpp (d : Dir) : dirOpp (dirOpp d) = d := by cases d <;> rfl

theorem State.flitDue_of_neighbour {s : State} {k u : Nat} {d : Dir} (h : neighbour (coreTile k) d = some u) :
    s.flitDue k d = if s.mayLeaveIn (s.yardOf u) u (dirNum (dirOpp d)) then
      some (s.cal + if (s.tile u).pinned = true ∧ (s.tile (coreTile k)).pinned = true then 1 else 3) else none := by
  simp [State.flitDue, h]

theorem State.flight_pushLink {s : State} {k j : Nat} {d : Dir} (v : QVal) (h : pushCore k d = some j) :
    ((s.pushLink k d v).core j).flight = (s.core j).flight ++
      [{ dir := dirOpp d, val := v,
         due := if s.mayLeaveIn (s.yardOf (coreTile k)) (coreTile k) (dirNum d) then
             some (s.cal + if (s.tile (coreTile k)).pinned = true ∧ (s.tile (coreTile j)).pinned = true then 1 else 3)
           else none }] := by
  obtain ⟨t, ht, hj⟩ := Option.map_eq_some_iff.mp h
  have htile : coreTile j = t := by subst hj; unfold coreTile; omega
  have hback : neighbour (coreTile j) (dirOpp d) = some (coreTile k) := by rw [htile]; exact neighbour_dirOpp ht
  simp only [State.pushLink, h, State.core_modCore_self, State.flitDue_of_neighbour hback, dirOpp_dirOpp]

/-- When its slot comes a flit leaves; one that has left keeps its time (R299, R354). -/
theorem State.flight_sendFlits (s : State) (k : Nat) :
    (s.sendFlits.core k).flight = (s.core k).flight.map (fun f => if f.due.isNone then { f with due := s.flitDue k f.dir } else f) := by
  have h := SMap.get_map (d := fun _ => Core.reset)
    (fun k (x : Core) => { x with flight := x.flight.map (fun f => if f.due.isNone then { f with due := s.flitDue k f.dir } else f) })
    s.cores (k := k) rfl
  exact congrArg Core.flight h

/-- A flit that waits for its slot, at the next calendar cycle. -/
theorem State.flight_tick {s : State} {k : Nat} {dir : Dir} {v : QVal} (h : { dir := dir, val := v, due := none } ∈ (s.core k).flight) :
    { dir := dir, val := v, due := ({ s with cal := s.cal + 1 } : State).flitDue k dir } ∈ (s.tick.core k).flight := by
  rw [State.tick, State.flight_sendFlits]
  exact List.mem_map.mpr ⟨_, h, rfl⟩

/-! Arrival (R299). -/

section
variable {s : State} {k : Nat} {dir : Dir} {v : QVal} {due : Option Nat} {f g : List Flight}

/-- The oldest value in flight from a direction. -/
theorem find?_oldest (hfirst : ∀ p ∈ f, p.dir ≠ dir) :
    (f ++ { dir := dir, val := v, due := due } :: g).find? (fun p => p.dir == dir) = some { dir := dir, val := v, due := due } := by
  have hnone : f.find? (fun p => p.dir == dir) = none := List.find?_eq_none.mpr (fun p hp => by simpa using hfirst p hp)
  simp [List.find?_append, hnone]

theorem erase_oldest (hfirst : ∀ p ∈ f, p.dir ≠ dir) :
    (f ++ { dir := dir, val := v, due := due } :: g).erase { dir := dir, val := v, due := due } = f ++ g := by
  rw [List.erase_append_right _ (fun hmem => hfirst _ hmem rfl), List.erase_cons_head]

variable (hspill : (s.core k).spill = none) (hflight : (s.core k).flight = f ++ { dir := dir, val := v, due := due } :: g)
  (hfirst : ∀ p ∈ f, p.dir ≠ dir)
include hflight hfirst

theorem exec_arrival_notLeft (hdue : due = none) : exec (.linkValueArrival k dir) s = .next s := by
  subst hdue
  show Host.Outcome.next (s.linkArrive k dir) = _
  simp only [State.linkArrive, hflight, find?_oldest hfirst]

theorem exec_arrival_early {n : Nat} (hdue : due = some n) (hn : s.cal < n) : exec (.linkValueArrival k dir) s = .next s := by
  subst hdue
  show Host.Outcome.next (s.linkArrive k dir) = _
  simp only [State.linkArrive, hflight, find?_oldest hfirst, if_pos hn]

include hspill

theorem exec_arrival_full (hfull : 32 ≤ ((s.core k).queue dir).length) : exec (.linkValueArrival k dir) s = .next s := by
  show Host.Outcome.next (s.linkArrive k dir) = _
  simp only [State.linkArrive, hflight, find?_oldest hfirst, State.landValue, hspill, if_pos hfull]
  split
  · rfl
  · simp

theorem exec_arrival_lands {n : Nat} (hdue : due = some n) (hn : n ≤ s.cal) (hroom : ((s.core k).queue dir).length < 32) :
    exec (.linkValueArrival k dir) s = .next ((s.modCore k (fun x => { x with flight := f ++ g })).modCore k
      (fun x => x.setQueue dir (x.queue dir ++ [v]))) := by
  subst hdue
  show Host.Outcome.next (s.linkArrive k dir) = _
  simp only [State.linkArrive, hflight, find?_oldest hfirst, State.landValue, hspill, if_neg (Nat.not_lt.mpr hn),
    if_neg (Nat.not_le.mpr hroom), State.modCore, erase_oldest hfirst]

end

/-- What a value that lands leaves of its core: it stands behind the values of its queue, and the other queues are as they were. -/
theorem Core.queue_landed (x : Core) (fl : List Flight) (dir : Dir) (v : QVal) :
    let y := ({ x with flight := fl } : Core)
    (y.setQueue dir (y.queue dir ++ [v])).queue dir = x.queue dir ++ [v] ∧
    ∀ d, d ≠ dir → (y.setQueue dir (y.queue dir ++ [v])).queue d = x.queue d := by
  have hqueue (d : Dir) : ({ x with flight := fl } : Core).queue d = x.queue d := by cases d <;> rfl
  dsimp only
  refine ⟨?_, fun d hd => ?_⟩
  · rw [Core.queue_setQueue_self, hqueue]
  · rw [Core.queue_setQueue_ne _ _ hd, hqueue]

/-- Settles O19: pops by the kind of register, waits and causes by what the gate answers, and a value's way by its push, its slot and its arrival. -/
theorem queuesDeliverInOrder : Obligations.QueuesDeliverInOrder := by
  unfold Obligations.QueuesDeliverInOrder
  refine ⟨fun s r => ⟨?link, ?qk, State.read_register, ?empty, ?topCode⟩, fun s k j d v h => State.flight_pushLink v h, ?slot, ?arrival⟩
  case link =>
    intro q qs hlo hhi hq
    refine ⟨State.read_value (isQueue_link hlo hhi) (ne_of_link hhi).2 hq, State.peek_read_link hlo hhi hq, ?_, s.sameStore_read r,
      fun p hplo hphi hne => State.peek_read_other hlo hhi hplo hphi hne⟩
    rw [State.read_link_state hlo hhi]
    rfl
  case qk =>
    intro q qs hq
    have hpeek : s.peek 28 = q :: qs := hq
    refine ⟨State.read_value (by decide) (by decide) hpeek, ?_, ?_, s.sameStore_read 28⟩
    · rw [State.read_qk_state, State.tile_modTile_self, hq]
      rfl
    · rw [State.read_qk_state]
      rfl
  case empty =>
    intro d b h hr hd hp
    refine ⟨_, exec_add_empty h hr hd hp, ?_, ?_, ?_, ?_, State.sameStore_trans (s.sameStore_unpop s) (State.sameStore_modCtx _ _ _),
      s.sameOthers_wait s _ _, s.peek_wait _ _⟩
    all_goals rw [State.me_wait]
    exact ⟨fun _ _ => rfl, fun _ _ => rfl, fun _ => rfl, fun _ => rfl, rfl⟩
  case topCode => exact fun d q qs h hw hr hd hp htc => exec_add_topCode h hw hr hd hp htc
  case slot =>
    intro s k u dir v hu hmem c
    have hnext : { dir := dir, val := v, due := c.flitDue k dir } ∈ (s.tick.core k).flight := State.flight_tick hmem
    refine ⟨fun hopen => ?_, fun hclosed => ?_⟩
    · rwa [(State.flitDue_of_neighbour hu).trans (if_pos hopen)] at hnext
    · rwa [(State.flitDue_of_neighbour hu).trans (if_neg (Bool.eq_false_iff.mp hclosed))] at hnext
  case arrival =>
    intro s k dir v due f g hspill hflight hfirst
    refine ⟨fun n hdue hn hroom => ?_, exec_arrival_full hspill hflight hfirst, fun n => exec_arrival_early hflight hfirst,
      exec_arrival_notLeft hflight hfirst⟩
    obtain ⟨hqueue, hothers⟩ := Core.queue_landed (s.core k) (f ++ g) dir v
    refine ⟨_, exec_arrival_lands hspill hflight hfirst hdue hn hroom, ?_, ?_, fun d hd => ?_, fun j hj => ?_, fun _ => rfl,
      s.sameStore_refl⟩
    · simpa using hqueue
    · simp
    · simpa using hothers d hd
    · rw [State.core_modCore_ne _ _ hj, State.core_modCore_ne _ _ hj]

end Sys2Proof.Machine
end

section
/-! PROOFS. The frame of a task's end: what freeing a helper, dropping its frame and counting its launch down leave as it was (R16, R20, R28,
R343, R345). -/

namespace Sys2Proof.Machine

/-- At most tile memory, cores, tiles, the owners of lines of L2, and launches with their graphs and phases differ. -/
def State.sameButWork (s t : State) : Prop :=
  ∃ m cs ts l ls gs ps, t = { s with tm := m, cores := cs, tiles := ts, l2 := l, launches := ls, graphs := gs, phases := ps }

theorem State.sameButWork_refl (s : State) : s.sameButWork s := ⟨s.tm, s.cores, s.tiles, s.l2, s.launches, s.graphs, s.phases, rfl⟩

theorem State.sameButWork_trans {s t u : State} (h : s.sameButWork t) (k : t.sameButWork u) : s.sameButWork u := by
  obtain ⟨_, _, _, _, _, _, _, rfl⟩ := h
  obtain ⟨_, _, _, _, _, _, _, rfl⟩ := k
  exact ⟨_, _, _, _, _, _, _, rfl⟩

/-- A change step by step of what work changes is such a change. -/
theorem State.sameButWork_foldl {α : Type} (l : List α) {f : State → α → State} (hf : ∀ (s : State) (x : α), s.sameButWork (f s x)) (s : State) :
    s.sameButWork (l.foldl f s) :=
  foldl_keeps (fun v => s.sameButWork v) l (fun v x hv => State.sameButWork_trans hv (hf v x)) s.sameButWork_refl

section
variable (s : State)

theorem State.sameButWork_modCore (k : Nat) (f : Core → Core) : s.sameButWork (s.modCore k f) := ⟨_, _, _, _, _, _, _, rfl⟩
theorem State.sameButWork_modTile (t : Nat) (f : Tile → Tile) : s.sameButWork (s.modTile t f) := ⟨_, _, _, _, _, _, _, rfl⟩
theorem State.sameButWork_setL2 (l : Nat) (x : L2Line) : s.sameButWork (s.setL2 l x) := ⟨_, _, _, _, _, _, _, rfl⟩
theorem State.sameButWork_modLaunch (y j i : Nat) (f : Launch → Launch) : s.sameButWork (s.modLaunch y j i f) :=
  ⟨_, _, _, _, _, _, _, rfl⟩
theorem State.sameButWork_setTmBytes (t v o : Nat) (bs : List Byte) : s.sameButWork (s.setTmBytes t v o bs) := by
  induction bs generalizing s o with
  | nil => exact s.sameButWork_refl
  | cons b bs ih => exact State.sameButWork_trans (t := s.setTmByte t v o b) ⟨_, _, _, _, _, _, _, rfl⟩ (ih _ _)

theorem State.sameButWork_releaseSolo (c : Nat) : s.sameButWork (s.releaseSolo c) :=
  State.sameButWork_trans (State.sameButWork_foldl _ (fun v _ => v.sameButWork_setL2 _ _) s) ⟨_, _, _, _, _, _, _, rfl⟩

theorem State.sameButWork_disown (ls : List Nat) : s.sameButWork (s.disown ls) :=
  State.sameButWork_foldl _ (fun v _ => v.sameButWork_setL2 _ _) s

theorem State.sameButWork_dropCommands (c : Nat) : s.sameButWork (s.dropCommands c) := by
  unfold State.dropCommands
  exact State.sameButWork_trans (s.sameButWork_disown _)
    (State.sameButWork_trans (State.sameButWork_modCore _ _ _) (State.sameButWork_modTile _ _ _))

theorem State.sameButWork_stopCommands (tag : Nat) : s.sameButWork (s.stopCommands tag) := by
  refine State.sameButWork_foldl _ (fun v p => ?_) s
  dsimp only
  split
  · exact v.sameButWork_refl
  · exact State.sameButWork_trans (v.sameButWork_disown _) (State.sameButWork_modTile _ _ _)

theorem State.sameButWork_unpin (t : Nat) : s.sameButWork (s.unpin t) := by
  unfold State.unpin
  split
  · exact s.sameButWork_refl
  · split
    · exact s.sameButWork_modTile _ _
    · exact s.sameButWork_modTile _ _

theorem State.sameButWork_dropFrame (t f : Nat) : s.sameButWork (s.dropFrame t f) :=
  State.sameButWork_trans (t := s.clearFrame t (s.frameOff t f)) ⟨_, _, _, _, _, _, _, rfl⟩ (State.sameButWork_modTile _ _ _)

theorem State.sameButWork_graphStep (y j i : Nat) : s.sameButWork (s.graphStep y j i) := by
  unfold State.graphStep
  split
  · exact s.sameButWork_refl
  · split <;> extract_lets g' t <;> split <;> exact ⟨_, _, _, _, _, _, _, rfl⟩

theorem State.sameButWork_dropRetained (y j : Nat) : s.sameButWork (s.dropRetained y j) := by
  unfold State.dropRetained
  split
  · exact s.sameButWork_refl
  · refine State.sameButWork_foldl _ (fun v t => State.sameButWork_foldl _ (fun v n => ?_) v) s
    refine State.sameButWork_trans (State.sameButWork_foldl _ (fun v e => ?_) v) (State.sameButWork_modCore _ _ _)
    split
    · exact v.sameButWork_refl
    · exact v.sameButWork_dropFrame _ _

theorem State.sameButWork_launchDone (y j i : Nat) : s.sameButWork (s.launchDone y j i) := by
  have h := s.sameButWork_graphStep y j i
  unfold State.launchDone
  dsimp only
  split
  · exact State.sameButWork_trans h (State.sameButWork_dropRetained _ _ _)
  · exact h

theorem State.sameButWork_taskEnded (y j : Nat) (launch : Option Nat) : s.sameButWork (s.taskEnded y j launch) := by
  unfold State.taskEnded
  split
  · exact s.sameButWork_refl
  · next i =>
    split
    · exact s.sameButWork_refl
    · split
      · exact s.sameButWork_refl
      · have h := s.sameButWork_modLaunch y j i (fun l => { l with count := l.count - 1 })
        dsimp only
        split
        · exact State.sameButWork_trans h (State.sameButWork_launchDone _ _ _ _)
        · exact h

theorem State.sameButWork_requeue (k : Nat) (t : Task) : s.sameButWork (s.requeue k t) := by
  unfold State.requeue
  split
  · exact s.sameButWork_modCore _ _
  · exact s.sameButWork_modLaunch _ _ _ _

/-- The helper of a context is gone, and beside it only work has changed. -/
theorem State.sameButWork_freeHelper (c : Nat) : (s.setCtx c Ctx.reset).sameButWork (s.freeHelper c) := by
  have hgone : (s.setCtx c Ctx.reset).sameButWork (((s.releaseSolo c).dropCommands c).setCtx c Ctx.reset) := by
    obtain ⟨m, cs, ts, l, ls, gs, ps, h⟩ := State.sameButWork_trans (s.sameButWork_releaseSolo c) (State.sameButWork_dropCommands _ c)
    rw [h]
    exact ⟨_, _, _, _, _, _, _, rfl⟩
  exact State.sameButWork_trans hgone (State.sameButWork_trans
    (State.sameButWork_foldl _ (fun v _ => v.sameButWork_modTile _ _) _) (State.sameButWork_unpin _ _))

end

/-- So too when its task has ended uncommitted (R28). -/
theorem State.sameButWork_endTask {s : State} {c : Nat} {h : Helper} (hh : (s.ctx c).helper = some h) :
    (s.setCtx c Ctx.reset).sameButWork (s.endTask c) := by
  have hfree := State.sameButWork_trans (s.sameButWork_freeHelper c) (State.sameButWork_dropFrame _ (cidTile c) h.frame)
  have hnoted := State.sameButWork_trans hfree
    (State.sameButWork_modCore _ (cidCore c) (fun k => k.noteEnd { start := cidSlot h.task.slot, slot := cidSlot c, frame := 0 }))
  unfold State.endTask
  rw [hh]
  dsimp only
  refine State.sameButWork_trans ?_ (State.sameButWork_taskEnded _ _ _ _)
  split
  · exact hnoted
  · exact State.sameButWork_trans hnoted (State.sameButWork_modLaunch _ _ _ _ _)

theorem State.endTask_none {s : State} {c : Nat} (hh : (s.ctx c).helper = none) : s.endTask c = s := by
  simp [State.endTask, hh]

/-! What such a change leaves. -/

section
variable {s t : State} (h : s.sameButWork t)
include h

theorem State.ctx_of_sameButWork (c : Nat) : t.ctx c = s.ctx c := by obtain ⟨_, _, _, _, _, _, _, rfl⟩ := h; rfl
theorem State.dead_of_sameButWork : t.dead = s.dead := by obtain ⟨_, _, _, _, _, _, _, rfl⟩ := h; rfl
theorem State.byte_of_sameButWork (a : Nat) : t.byte a = s.byte a := by obtain ⟨_, _, _, _, _, _, _, rfl⟩ := h; rfl
theorem State.tagOf_of_sameButWork (c : Nat) : t.tagOf c = s.tagOf c := by obtain ⟨_, _, _, _, _, _, _, rfl⟩ := h; rfl

end

theorem State.dead_endTask (s : State) (c : Nat) : (s.endTask c).dead = s.dead := by
  cases hh : (s.ctx c).helper with
  | none => rw [State.endTask_none hh]
  | some h => exact (State.dead_of_sameButWork (State.sameButWork_endTask hh)).trans rfl

end Sys2Proof.Machine
end

section
/-! PROOFS. Where a cause goes: its level, a double trap, a fatal end, or a task-fault record (R28, R305, R310, R314). -/

namespace Sys2Proof.Machine

/-! The level of a cause. -/

theorem Ctx.goesToH_eq (x : Ctx) (cause : Cause) :
    x.goesToH cause =
      (cause.code / 64 == 7 || x.priv == .h || cause == .stage2 || !(x.sreg 0x806).getLsbD (cause.code / 64)) := rfl

/-! A double trap. -/

/-- The cause register of a cause of an instruction is its code (R303). -/
theorem causeWord_now (code : Nat) : causeWord How.now code = BitVec.ofNat 64 code := by
  simp [causeWord, How.now]

theorem State.takeTrap_double {s : State} {c : Nat} {cause : Cause} {epc tval : Word}
    (hs : (s.ctx c).goesToH cause = false) (ht : (s.ctx c).inTrap false = true) (hh : (s.ctx c).inTrap true = false)
    (hv : (s.ctx c).sreg 0x801 ≠ 0) :
    s.takeTrap c How.now cause epc tval = s.setCtx c ((s.ctx c).enter true How.now Cause.doubleTrap.code epc 0) := by
  have hfirst : (How.now.precise && (s.ctx c).inTrap ((s.ctx c).goesToH cause)) = true := by simp [How.now, hs, ht]
  have hgo : ¬((s.ctx c).goesToH cause || (s.ctx c).inTrap true || (s.ctx c).sreg 0x801 == 0) = true := by
    simp only [hs, hh, beq_false_of_ne hv]; decide
  exact (if_pos hfirst).trans (if_neg hgo)

/-- What entry to H leaves in the registers that say where and why (R306). -/
theorem Ctx.enter_toH (x : Ctx) (code : Nat) (epc tval : Word) :
    let y := x.enter true How.now code epc tval
    y.pc = x.sreg 0x801 ∧ y.priv = .h ∧ y.sreg 0x803 = BitVec.ofNat 64 code ∧ y.sreg 0x802 = epc := by
  refine ⟨rfl, rfl, ?_, ?_⟩
  · simp [Ctx.enter, trapBase, pfxReg, causeWord_now, Ctx.sreg_setSreg]
  · simp [Ctx.enter, trapBase, pfxReg, Ctx.sreg_setSreg]

/-! A fatal end. -/

theorem State.takeTrap_fatal {s : State} {c : Nat} {cause : Cause} {epc tval : Word}
    (h : ((s.ctx c).goesToH cause = true ∧ (s.ctx c).inTrap true = true) ∨ ((s.ctx c).inTrap ((s.ctx c).goesToH cause) = false ∧
      (s.ctx c).sreg (trapBase ((s.ctx c).goesToH cause) + 1) = 0)) :
    s.takeTrap c How.now cause epc tval =
      s.fatal c (if (s.ctx c).inTrap ((s.ctx c).goesToH cause) then .doubleTrap else cause) := by
  obtain ⟨hH, ht⟩ | ⟨ht, hv⟩ := h
  · simp [State.takeTrap, hH, ht, How.now]
  · simp [State.takeTrap, ht, hv]

/-- A core that is told that its resident handler has gone differs in that alone. -/
def State.handlerGone (s : State) (c : Nat) : State :=
  if cidSlot c = 11 then s.modCore (cidCore c) (fun k => { k with handler := false }) else s

theorem State.ctx_handlerGone (s : State) (c d : Nat) : (s.handlerGone c).ctx d = s.ctx d := by
  unfold State.handlerGone
  split <;> rfl

theorem State.dead_handlerGone (s : State) (c : Nat) : (s.handlerGone c).dead = s.dead := by
  unfold State.handlerGone
  split <;> rfl

/-- The state in which a context is killed: its tag is dead and its helpers have ended (R322). -/
def State.killBegun (s : State) (c : Nat) : State :=
  let v := s.markDead (s.tagOf c) (s.yardOf (cidTile c))
  if cidSlot c = 0 then (v.helpersOf (cidCore c)).foldl (fun s h => s.endTask h) v else v

theorem State.killCtx_eq (s : State) (c : Nat) :
    s.killCtx c = (((((((s.killBegun c).dropShoots c).dropCommands c).stopCommands (s.tagOf c)).setCtx c Ctx.reset).unpin
      (cidTile c))).handlerGone c := rfl

/-- A killed context is gone. -/
theorem State.ctx_killCtx (s : State) (c : Nat) : (s.killCtx c).ctx c = Ctx.reset := by
  rw [State.killCtx_eq, State.ctx_handlerGone, State.ctx_of_sameButWork (State.sameButWork_unpin _ _), State.ctx_setCtx_self]

theorem State.dead_killBegun (s : State) (c : Nat) : (s.killBegun c).dead = (s.markDead (s.tagOf c) (s.yardOf (cidTile c))).dead := by
  unfold State.killBegun
  dsimp only
  split
  · exact foldl_keeps (fun u : State => u.dead = _) _ (fun u h hu => (u.dead_endTask h).trans hu) rfl
  · rfl

/-- The dead tags that killing a context leaves are those that marking its tag does. -/
theorem State.dead_killCtx (s : State) (c : Nat) : (s.killCtx c).dead = (s.markDead (s.tagOf c) (s.yardOf (cidTile c))).dead :=
  calc
    (s.killCtx c).dead = ((((s.killBegun c).dropShoots c).dropCommands c).stopCommands (s.tagOf c)).dead := by
      rw [State.killCtx_eq, State.dead_handlerGone, State.dead_of_sameButWork (State.sameButWork_unpin _ _)]
      rfl
    _ = (((s.killBegun c).dropShoots c).dropCommands c).dead := State.dead_stopCommands _ _
    _ = ((s.killBegun c).dropShoots c).dead := State.dead_of_sameButWork (State.sameButWork_dropCommands _ c)
    _ = (s.killBegun c).dead := rfl
    _ = _ := s.dead_killBegun c

theorem State.isDead_killCtx (s : State) (c : Nat) : (s.killCtx c).isDead (s.tagOf c) = true := by
  rw [State.isDead_congr (s.dead_killCtx c)]
  exact s.isDead_markDead _ _

/-! Entry to the resident handler (R320). -/

section
variable (s : State) (k reason : Nat) (frame : Word) (tag : Nat)

theorem State.ctx_enterHandler_ne {d : Nat} (h : d ≠ coreCid k 11) : (s.enterHandler k reason frame tag).ctx d = s.ctx d := by
  unfold State.enterHandler
  dsimp only
  rw [State.ctx_modCore, State.ctx_setCtx_ne _ _ h]

theorem State.sreg_enterHandler (n : Nat) :
    ((s.enterHandler k reason frame tag).ctx (coreCid k 11)).sreg n = (s.ctx (coreCid k 11)).sreg n := by
  unfold State.enterHandler
  dsimp only
  rw [State.ctx_modCore, State.ctx_setCtx_self]
  exact (Ctx.sreg_setGreg _ _ _ _).trans ((Ctx.sreg_setGreg _ _ _ _).trans (Ctx.sreg_setGreg _ _ _ _))

theorem State.handler_enterHandler : ((s.enterHandler k reason frame tag).core k).handler = true := by
  unfold State.enterHandler
  dsimp only
  rw [State.core_modCore_self]

theorem State.dead_enterHandler : (s.enterHandler k reason frame tag).dead = s.dead := rfl

end

/-- A fatal cause of a control context kills it and its core's resident handler finds the cause (R305). -/
theorem State.fatal_control {c : Nat} (hc : cidSlot c = 0) (ht : isTsc c = false) (s : State) (cause : Cause) :
    let t := s.fatal c cause
    (t.ctx c).live = false ∧ t.isDead (s.tagOf c) = true ∧ (t.core (cidCore c)).handler = true ∧
    (t.ctx (coreCid (cidCore c) 11)).sreg 0x803 = BitVec.ofNat 64 cause.code := by
  have hwhich : cidSlot c = 0 ∧ (!isTsc c) = true := ⟨hc, by simp [ht]⟩
  have hne : c ≠ coreCid (cidCore c) 11 := by unfold cidSlot at hc; unfold coreCid cidCore; omega
  have hframe := s.sameButWork_setTmBytes (cidTile c) 0 ((framePtr (s.ctx c)).extractLsb' 0 20).toNat (s.frameBytes c 7 none)
  have htag := State.tagOf_of_sameButWork hframe c
  dsimp only [State.fatal]
  rw [if_pos hwhich, if_pos hwhich]
  refine ⟨?gone, ?dead, State.handler_enterHandler _ _ _ _ _, ?told⟩
  case gone =>
    rw [State.ctx_enterHandler_ne _ _ _ _ _ hne, State.ctx_modCtx_ne _ _ hne, State.ctx_killCtx]
    rfl
  case dead =>
    rw [← htag]
    exact State.isDead_killCtx _ c
  case told =>
    rw [State.sreg_enterHandler, State.ctx_modCtx_self, Ctx.sreg_setSreg_self]
    simp [causeWord, How.now]

/-! The record of a task's cause (R314). -/

section
variable (s : State) (c : Nat) (r : TaskFault)

theorem State.records_addRecord (hl : (s.ctx c).live = true) (hn : (s.ctx c).records.length < 8) :
    ((s.addRecord c r).ctx c).records = (s.ctx c).records ++ [r] := by
  simp [State.addRecord, hl, hn]

theorem State.suppressed_addRecord (hl : (s.ctx c).live = true) (hn : 8 ≤ (s.ctx c).records.length) :
    ((s.addRecord c r).ctx c).records = (s.ctx c).records ∧ ((s.addRecord c r).ctx c).sreg 0x451 =
      if (s.ctx c).sreg 0x451 = 0xFFFFFFFF then 0xFFFFFFFF else (s.ctx c).sreg 0x451 + 1 := by
  have hfull : ¬(s.ctx c).records.length < 8 := by omega
  unfold State.addRecord
  rw [if_pos hl, State.ctx_modCtx_self, if_neg hfull]
  exact ⟨rfl, Ctx.sreg_setSreg_self _ _ _⟩

theorem State.ctx_framePut (yard : Nat) (p : FramePlace) (off n d : Nat) : (s.framePut yard p off n).ctx d = s.ctx d := by
  cases p with
  | tm t o => exact State.ctx_of_sameButWork (s.sameButWork_setTmBytes t 0 (o + off) _) d
  | mem pa pg =>
    obtain ⟨_, _, _, _, _, _, h⟩ := s.sameButHome_homeWrite 0x10000 yard pg ((leBytes 8 n).zipIdx.map (fun q => (pa + off + q.2, q.1)))
    unfold State.framePut
    dsimp only
    rw [h]
    rfl

theorem State.ctx_frameRecord (yard : Nat) (p : FramePlace) (d : Nat) : (s.frameRecord yard p r).ctx d = s.ctx d := by
  unfold State.frameRecord
  dsimp only
  split
  · rw [State.ctx_framePut, State.ctx_framePut]
  · exact s.ctx_framePut _ _ _ _ _

theorem State.ctx_addRecord_ne {d : Nat} (h : d ≠ c) : (s.addRecord c r).ctx d = s.ctx d := by
  unfold State.addRecord
  split
  · exact State.ctx_modCtx_ne _ _ h
  · split
    · split
      · exact s.ctx_frameRecord _ _ _ _
      · rfl
    · rfl

theorem State.addRecord_frame {k : Kept} {p : FramePlace} (hl : (s.ctx c).live = false)
    (hs : s.saved.contains (s.tagOf c, s.yardOf (cidTile c), s.jobOf (cidTile c)) = true) (hk : s.keptOf (s.tagOf c) = some k)
    (hp : k.place = some p) : s.addRecord c r = s.frameRecord (s.yardOf (cidTile c)) p r := by
  unfold State.addRecord
  rw [if_neg (by simp [hl]), if_pos hs, hk]
  simp [hp]

end

/-! Runs of tile memory through view 0. -/

/-- View 0 leaves the bank of an offset (R95). -/
theorem tmPlace_zero (off : Nat) : tmPlace 0 off = off := by
  dsimp only [tmPlace]
  rw [if_neg (by decide), if_neg (by decide), if_neg (by decide)]
  omega

/-- Offsets that a tile's memory tells apart are at different places. -/
theorem mod_eq_of_tmKey_eq {t o u : Nat} (h : tmKey t 0 o = tmKey t 0 u) : o % 2 ^ 18 = u % 2 ^ 18 := by
  unfold tmKey at h
  split at h
  · omega
  · rw [tmPlace_zero, tmPlace_zero] at h
    omega

theorem State.tmByte_setTmBytes_out (s : State) {t o u : Nat} {bs : List Byte}
    (h : ∀ i, i < bs.length → (o + i) % 2 ^ 18 ≠ u % 2 ^ 18) : (s.setTmBytes t 0 o bs).tmByte t 0 u = s.tmByte t 0 u := by
  induction bs generalizing s o with
  | nil => rfl
  | cons b bs ih =>
    have hfirst : tmKey t 0 u ≠ tmKey t 0 o := fun e => h 0 (by simp) (mod_eq_of_tmKey_eq e.symm)
    have hrest : ∀ i, i < bs.length → (o + 1 + i) % 2 ^ 18 ≠ u % 2 ^ 18 := fun i hi => by
      rw [Nat.add_assoc, Nat.add_comm 1 i]
      exact h (i + 1) (by simpa using hi)
    rw [State.setTmBytes, ih _ hrest, State.tmByte_setTmByte_ne _ _ hfirst]

theorem State.tmBytes_setTmBytes_out (s : State) {t o u n : Nat} {bs : List Byte}
    (h : ∀ i j, i < bs.length → j < n → (o + i) % 2 ^ 18 ≠ (u + j) % 2 ^ 18) :
    (s.setTmBytes t 0 o bs).tmBytes t 0 u n = s.tmBytes t 0 u n := by
  induction n generalizing u with
  | zero => rfl
  | succ n ih =>
    have hrest : ∀ i j, i < bs.length → j < n → (o + i) % 2 ^ 18 ≠ (u + 1 + j) % 2 ^ 18 := fun i j hi hj => by
      rw [Nat.add_assoc u, Nat.add_comm 1 j]
      exact h i (j + 1) hi (by omega)
    have hfirst : ∀ i, i < bs.length → (o + i) % 2 ^ 18 ≠ u % 2 ^ 18 := fun i hi => h i 0 hi (by omega)
    rw [State.tmBytes, State.tmBytes, ih hrest, State.tmByte_setTmBytes_out s hfirst]

theorem State.tmBytes_setTmBytes_self (s : State) {t o : Nat} {bs : List Byte} (h : bs.length ≤ 2 ^ 18) :
    (s.setTmBytes t 0 o bs).tmBytes t 0 o bs.length = bs := by
  induction bs generalizing s o with
  | nil => rfl
  | cons b bs ih =>
    simp only [List.length_cons] at h
    have hfirst : ∀ i, i < bs.length → (o + 1 + i) % 2 ^ 18 ≠ o % 2 ^ 18 := fun i hi => by omega
    rw [List.length_cons, State.tmBytes, State.setTmBytes, State.tmByte_setTmBytes_out _ hfirst, State.tmByte_setTmByte_self,
      ih _ (by omega)]

/-! A doubleword of a frame in tile memory. -/

theorem State.frameGet_framePut_self (s : State) (yard t o off n : Nat) (h : n < 2 ^ 64) :
    (s.framePut yard (.tm t o) off n).frameGet (.tm t o) off = n := by
  have hread := s.tmBytes_setTmBytes_self (t := t) (o := o + off) (bs := leBytes 8 n) (by simp)
  rw [leBytes_length] at hread
  simp only [State.frameGet, State.framePut, hread, leNat_leBytes]
  omega

theorem State.frameGet_framePut_out (s : State) (yard t o n : Nat) {off at' : Nat} (h : off + 8 ≤ at') (hlt : at' + 8 ≤ off + 2 ^ 18) :
    (s.framePut yard (.tm t o) at' n).frameGet (.tm t o) off = s.frameGet (.tm t o) off := by
  refine congrArg leNat (s.tmBytes_setTmBytes_out (fun i j hi hj => ?_))
  rw [leBytes_length] at hi
  omega

theorem leNat_lt (bs : List Byte) : leNat bs < 256 ^ bs.length := by
  induction bs with
  | nil => simp [leNat]
  | cons b bs ih =>
    have hb := b.isLt
    rw [leNat, List.length_cons, pow_succ]
    omega

theorem State.tmBytes_length (s : State) (t v o n : Nat) : (s.tmBytes t v o n).length = n := by
  induction n generalizing o with
  | zero => rfl
  | succ n ih => rw [State.tmBytes, List.length_cons, ih]

theorem State.frameGet_lt (s : State) (t o off : Nat) : s.frameGet (.tm t o) off < 2 ^ 64 := by
  have h := leNat_lt (s.tmBytes t 0 (o + off) 8)
  rwa [State.tmBytes_length] at h

/-- A record in a frame of tile memory: the header counts it, and it stands at its place. -/
theorem State.frameRecord_tm {s : State} {t o : Nat} (yard : Nat) (r : TaskFault) (h : s.frameGet (.tm t o) 0 / 2 ^ 52 % 16 < 8) :
    (s.frameRecord yard (.tm t o) r).frameGet (.tm t o) 0 = s.frameGet (.tm t o) 0 + 2 ^ 52 ∧
    (s.frameRecord yard (.tm t o) r).frameGet (.tm t o) (0x2C0 + 8 * (s.frameGet (.tm t o) 0 / 2 ^ 52 % 16)) = r.word.toNat := by
  have hlt := s.frameGet_lt t o 0
  unfold State.frameRecord
  dsimp only
  rw [if_pos h]
  constructor
  · rw [State.frameGet_framePut_out _ _ _ _ _ (by omega) (by omega), State.frameGet_framePut_self _ _ _ _ _ _ (by omega)]
  · exact State.frameGet_framePut_self _ _ _ _ _ _ r.word.isLt

/-- The ninth record of a frame only counts. -/
theorem State.frameRecord_tm_full {s : State} {t o : Nat} (yard : Nat) (r : TaskFault) (h : 8 ≤ s.frameGet (.tm t o) 0 / 2 ^ 52 % 16) :
    (s.frameRecord yard (.tm t o) r).frameGet (.tm t o) 0x2B8 = Nat.min (s.frameGet (.tm t o) 0x2B8 + 1) 0xFFFFFFFF := by
  have hle := Nat.min_le_right (s.frameGet (.tm t o) 0x2B8 + 1) 0xFFFFFFFF
  unfold State.frameRecord
  dsimp only
  rw [if_neg (by omega)]
  exact State.frameGet_framePut_self _ _ _ _ _ _ (Nat.lt_of_le_of_lt hle (by decide))

/-! A helper's cause. -/

theorem boss_ne {c : Nat} (hslot : isHelperSlot (cidSlot c) = true) : coreCid (cidCore c) 0 ≠ c := by
  have hpos : 1 ≤ c % 16 := by
    simp only [isHelperSlot, Bool.and_eq_true, decide_eq_true_iff] at hslot
    exact hslot.1
  unfold coreCid cidCore
  omega

/-- A helper's cause ends its task and is a record of its core's control context (R28, R314). -/
theorem State.deliver_helper {s : State} {c : Nat} {h : Helper} (hh : (s.ctx c).helper = some h) (hslot : isHelperSlot (cidSlot c) = true)
    (how : How) (cause : Cause) (epc tval : Word) :
    s.deliver c how cause epc tval = (s.endTask c).addRecord (coreCid (cidCore c) 0)
      { cause := cause, launch := h.task.launch.getD 0, index := h.task.index, toH := cause == .stage2 } := by
  unfold State.deliver State.taskFault
  rw [if_pos hslot, hh]

theorem State.ctx_endTask_ne {s : State} {c d : Nat} {h : Helper} (hh : (s.ctx c).helper = some h) (hd : d ≠ c) :
    (s.endTask c).ctx d = s.ctx d :=
  (State.ctx_of_sameButWork (State.sameButWork_endTask hh) d).trans (State.ctx_setCtx_ne _ _ hd)

theorem State.ctx_endTask_self {s : State} {c : Nat} {h : Helper} (hh : (s.ctx c).helper = some h) : (s.endTask c).ctx c = Ctx.reset :=
  (State.ctx_of_sameButWork (State.sameButWork_endTask hh) c).trans (State.ctx_setCtx_self _ _ _)

/-- Settles O10: the level of a cause is its definition; a double trap enters H, a fatal end is that of the context, and a helper's
cause is a record of its core's control context. -/
theorem causesGoToTheirLevelOrTask : Obligations.CausesGoToTheirLevelOrTask := by
  unfold Obligations.CausesGoToTheirLevelOrTask
  refine ⟨fun x cause => ?level, fun s c cause epc tval hslot => ⟨fun hS ht hH hv => ?double, fun hc htsc h => ?fatal⟩,
    fun s c h cause epc tval hh hslot => ?task⟩
  case level =>
    rw [Ctx.goesToH_eq]
    refine ⟨fun h => by simp [h], fun h => by simp [h], fun h => by simp [h], fun h7 hp hs => ?_⟩
    rw [beq_false_of_ne h7, beq_false_of_ne hp, beq_false_of_ne hs]
    rfl
  case double =>
    unfold State.deliver
    rw [if_neg (by simp [hslot]), State.takeTrap_double hS ht hH hv, State.ctx_setCtx_self]
    exact Ctx.enter_toH _ _ _ _
  case fatal =>
    unfold State.deliver
    rw [if_neg (by simp [hslot]), State.takeTrap_fatal h]
    obtain ⟨hgone, hdead, hentered, htold⟩ :=
      s.fatal_control hc htsc (if (s.ctx c).inTrap ((s.ctx c).goesToH cause) then .doubleTrap else cause)
    refine ⟨hgone, hdead, hentered, htold.trans ?_⟩
    split <;> rfl
  case task =>
    have hne := boss_ne hslot
    have hboss := State.ctx_endTask_ne hh hne
    have htag : (s.endTask c).tagOf (coreCid (cidCore c) 0) = s.tagOf (coreCid (cidCore c) 0) := by rw [State.tagOf, State.tagOf, hboss]
    dsimp only
    rw [State.deliver_helper hh hslot, ← hboss]
    refine ⟨?_, State.records_addRecord _ _ _, State.suppressed_addRecord _ _ _, fun k u o hl hsaved hk hp => ?_⟩
    · rw [State.ctx_addRecord_ne _ _ _ hne.symm, State.ctx_endTask_self hh]
      rfl
    · rw [← htag] at hsaved hk
      obtain ⟨m, cs, ts, l, ls, gs, ps, hend⟩ := State.sameButWork_endTask hh
      have hsaved' : (s.endTask c).saved.contains ((s.endTask c).tagOf (coreCid (cidCore c) 0),
          (s.endTask c).yardOf (cidTile (coreCid (cidCore c) 0)), (s.endTask c).jobOf (cidTile (coreCid (cidCore c) 0))) = true := by
        rw [hend] at hsaved ⊢
        exact hsaved
      have hk' : (s.endTask c).keptOf ((s.endTask c).tagOf (coreCid (cidCore c) 0)) = some k := by
        rw [hend] at hk ⊢
        exact hk
      rw [State.addRecord_frame _ _ _ hl hsaved' hk' hp]
      exact ⟨State.frameRecord_tm _ _, State.frameRecord_tm_full _ _⟩

end Sys2Proof.Machine
end

section
/-! PROOFS. The frame of the caches: what reading a line in, writing it back and writing at home leave as they were (R104, R108, R183). -/

namespace Sys2Proof.Machine

/-- What each step of a fold leaves, the fold leaves. -/
theorem foldl_leaves {σ α β : Type} {f : σ → α → σ} {g : σ → β} (hf : ∀ s x, g (f s x) = g s) (l : List α) (s : σ) :
    g (l.foldl f s) = g s :=
  foldl_keeps (fun v => g v = g s) l (fun v x hv => (hf v x).trans hv) rfl

/-- At most memory and L2, the tiles with their L1, the requests that have left, and free values differ. -/
def State.sameButCache (s t : State) : Prop :=
  ∃ m e k l u f n r ts w, t = { s with mem := m, sums := e, lineKeys := k, l2 := l, l2Use := u, floors := f, nextReq := n, remotes := r,
                                       tiles := ts, free := w }

theorem State.sameButCache_refl (s : State) : s.sameButCache s :=
  ⟨s.mem, s.sums, s.lineKeys, s.l2, s.l2Use, s.floors, s.nextReq, s.remotes, s.tiles, s.free, rfl⟩

theorem State.sameButCache_trans {s t u : State} (h : s.sameButCache t) (k : t.sameButCache u) : s.sameButCache u := by
  obtain ⟨_, _, _, _, _, _, _, _, _, _, rfl⟩ := h
  obtain ⟨_, _, _, _, _, _, _, _, _, _, rfl⟩ := k
  exact ⟨_, _, _, _, _, _, _, _, _, _, rfl⟩

theorem State.sameButCache_of_sameButHome {s t : State} (h : s.sameButHome t) : s.sameButCache t := by
  obtain ⟨_, _, _, _, _, _, rfl⟩ := h
  exact ⟨_, _, _, _, _, _, _, _, _, _, rfl⟩

theorem State.sameButCache_foldl {α : Type} (l : List α) {f : State → α → State} (hf : ∀ (s : State) (x : α), s.sameButCache (f s x))
    (s : State) : s.sameButCache (l.foldl f s) :=
  foldl_keeps (fun v => s.sameButCache v) l (fun v x hv => State.sameButCache_trans hv (hf v x)) s.sameButCache_refl

section
variable (s : State)

theorem State.sameButCache_modTile (t : Nat) (f : Tile → Tile) : s.sameButCache (s.modTile t f) :=
  ⟨_, _, _, _, _, _, _, _, _, _, rfl⟩

theorem State.sameButCache_draw : s.sameButCache s.draw.2 := ⟨_, _, _, _, _, _, _, _, _, _, rfl⟩

theorem State.sameButCache_sendHome (t l : Nat) (cells : List (Nat × DirtyByte)) : s.sameButCache (s.sendHome t l cells) := by
  obtain ⟨u, ⟨n, r, rfl⟩, h⟩ := s.sameButHomeSent_sendHome t l cells
  exact State.sameButCache_trans ⟨_, _, _, _, _, _, _, _, _, _, rfl⟩ (State.sameButCache_of_sameButHome h)

theorem State.sameButCache_writeBack (t l : Nat) : s.sameButCache (s.writeBack t l) := by
  unfold State.writeBack
  dsimp only
  split
  · exact s.sameButCache_refl
  · exact State.sameButCache_trans (s.sameButCache_sendHome t l _) (State.sameButCache_modTile _ _ _)

theorem State.sameButCache_drainWcb (t : Nat) : s.sameButCache (s.drainWcb t) := by
  rw [State.drainWcb_eq]
  exact State.sameButCache_trans (State.sameButCache_foldl _ (fun v l => v.sameButCache_sendHome t l _) s) (State.sameButCache_modTile _ _ _)

theorem State.sameButCache_cleanLine (t l : Nat) : s.sameButCache (s.cleanLine t l) :=
  State.sameButCache_trans (s.sameButCache_writeBack t l) (State.sameButCache_drainWcb _ t)

theorem State.sameButCache_settleWcb (t : Nat) : s.sameButCache (s.settleWcb t) := by
  unfold State.settleWcb
  split
  · exact s.sameButCache_refl
  · exact s.sameButCache_drainWcb t

theorem State.sameButCache_roomL1 (t : Nat) : s.sameButCache (s.roomL1 t) := by
  unfold State.roomL1
  split
  · exact s.sameButCache_refl
  · exact State.sameButCache_trans s.sameButCache_draw
      (State.sameButCache_trans (State.sameButCache_writeBack _ _ _) (State.sameButCache_modTile _ _ _))

theorem State.sameButCache_fillL2 (pa y : Nat) : s.sameButCache (s.fillL2 pa y) :=
  State.sameButCache_of_sameButHome (State.sameButHome_of_sameButL2 (s.sameButL2_fillL2 pa y))

theorem State.sameButCache_fillL1 (c t pa : Nat) (pg : Pg) : s.sameButCache (s.fillL1 c t pa pg) := by
  have hroom : s.sameButCache (if ((s.tile t).line (lineOf pa)).present then s.settleWcb t else (s.settleWcb t).roomL1 t) := by
    split
    · exact s.sameButCache_settleWcb t
    · exact State.sameButCache_trans (s.sameButCache_settleWcb t) (State.sameButCache_roomL1 _ t)
  unfold State.fillL1
  dsimp only
  split
  · exact s.sameButCache_refl
  · generalize (if ((s.tile t).line (lineOf pa)).present then s.settleWcb t else (s.settleWcb t).roomL1 t) = u at hroom ⊢
    refine State.sameButCache_trans hroom (State.sameButCache_trans ?_ (State.sameButCache_modTile _ _ _))
    split
    · exact u.sameButCache_fillL2 pa _
    · exact u.sameButCache_refl

end

/-! What such a change leaves. -/

section
variable {s t : State} (h : s.sameButCache t)
include h

theorem State.ctxs_of_sameButCache : t.ctxs = s.ctxs := by obtain ⟨_, _, _, _, _, _, _, _, _, _, rfl⟩ := h; rfl
theorem State.ctx_of_sameButCache (c : Nat) : t.ctx c = s.ctx c := by obtain ⟨_, _, _, _, _, _, _, _, _, _, rfl⟩ := h; rfl
theorem State.cur_of_sameButCache : t.cur = s.cur := by obtain ⟨_, _, _, _, _, _, _, _, _, _, rfl⟩ := h; rfl
theorem State.launches_of_sameButCache : t.launches = s.launches := by obtain ⟨_, _, _, _, _, _, _, _, _, _, rfl⟩ := h; rfl
theorem State.isDead_of_sameButCache (tag : Nat) : t.isDead tag = s.isDead tag := by
  obtain ⟨_, _, _, _, _, _, _, _, _, _, rfl⟩ := h; rfl

end

end Sys2Proof.Machine
end

section
/-! PROOFS. A task's commit: its read set, its publication and its end (R24, R25, R114, R134, R178). -/

namespace Sys2Proof.Machine

theorem exec_taskCommit (c : Nat) (s : State) : exec (.taskCommit c) s = .next (s.commit c) := rfl

/-! The launch of a task that goes back to it. -/

/-- Changing launches in ways that leave which they are, changes the one that is looked for. -/
theorem State.launchAt_map {s t : State} {f : Launch → Launch} (h : t.launches = s.launches.map f)
    (hf : ∀ l y j i, (f l).is y j i = l.is y j i) (y j i : Nat) : t.launchAt y j i = (s.launchAt y j i).map f := by
  unfold State.launchAt
  rw [h, List.find?_map]
  exact congrArg (fun p => (s.launches.find? p).map f) (funext fun l => hf l y j i)

/-- A solo task that ends gives its launch's token back (R26). -/
def Launch.soloGone (c : Nat) (l : Launch) : Launch := if l.solo == some c then { l with solo := none } else l

theorem Launch.is_soloGone (c : Nat) (l : Launch) (y j i : Nat) : (l.soloGone c).is y j i = l.is y j i := by
  unfold Launch.soloGone
  split <;> rfl

theorem Launch.queue_soloGone (c : Nat) (l : Launch) : (l.soloGone c).queue = l.queue := by
  unfold Launch.soloGone
  split <;> rfl

theorem State.launches_disown (s : State) (ls : List Nat) : (s.disown ls).launches = s.launches :=
  foldl_leaves (g := State.launches) (fun _ _ => by rfl) ls s

theorem State.launches_dropCommands (s : State) (c : Nat) : (s.dropCommands c).launches = s.launches :=
  (State.launches_disown s _ :)

theorem State.launches_unpin (s : State) (t : Nat) : (s.unpin t).launches = s.launches := by
  unfold State.unpin
  split
  · rfl
  · split <;> rfl

theorem State.launches_releaseSolo (s : State) (c : Nat) : (s.releaseSolo c).launches = s.launches.map (Launch.soloGone c) :=
  congrArg (List.map (Launch.soloGone c))
    (foldl_leaves (g := State.launches) (fun _ _ => by rfl) ((s.l2.filter (fun p => p.2.solo == some c)).map (fun p => p.1)) s)

theorem State.launches_freeHelper (s : State) (c : Nat) : (s.freeHelper c).launches = s.launches.map (Launch.soloGone c) := by
  unfold State.freeHelper
  dsimp only
  rw [State.launches_unpin]
  refine (foldl_leaves (g := State.launches) (fun _ _ => by rfl) _ _).trans ?_
  exact (State.launches_dropCommands _ c).trans (s.launches_releaseSolo c)

/-- A task that goes back to its launch is the first of its queue. -/
theorem State.launchAt_requeue {s : State} {k : Nat} {t : Task} {i : Nat} {l : Launch} (ht : t.launch = some i)
    (hl : s.launchAt t.yard t.job i = some l) : (s.requeue k t).launchAt t.yard t.job i =
      some { l with queue := t :: l.queue, running := l.running.filter (· != t.index) } := by
  have his : l.is t.yard t.job i = true := by
    have hfound := List.find?_some hl
    exact hfound
  unfold State.requeue
  rw [ht]
  refine (State.launchAt_map (s := s) rfl (fun l y j k => ?_) _ _ _).trans ?_
  · split <;> rfl
  · rw [hl, Option.map_some, if_pos his]

/-- A task that aborts leaves its slot and is first in its launch's queue again (R24). -/
theorem State.abortTask_launch {s : State} {c : Nat} {h : Helper} {i : Nat} {l : Launch} (hh : (s.ctx c).helper = some h)
    (hi : h.task.launch = some i) (hl : s.launchAt h.task.yard h.task.job i = some l) :
    ∃ m a, (s.abortTask c true false).launchAt h.task.yard h.task.job i = some m ∧ m.queue = a :: l.queue ∧
      a.index = h.task.index ∧ a.data = h.task.data ∧ a.aborts = h.task.aborts + 1 ∧
      a.solo = (h.task.solo || decide (8 ≤ h.task.aborts + 1)) := by
  have hfreed : ((s.freeHelper c).dropFrame (cidTile c) h.frame).launchAt h.task.yard h.task.job i = some (l.soloGone c) := by
    refine (State.launchAt_map (s := s) (s.launches_freeHelper c) (Launch.is_soloGone c) _ _ _).trans ?_
    rw [hl]
    rfl
  unfold State.abortTask
  rw [hh]
  refine ⟨_, _, State.launchAt_requeue hi hfreed, congrArg _ (Launch.queue_soloGone c l), rfl, rfl, rfl, ?_⟩
  rfl

theorem State.ctx_abortTask {s : State} {c : Nat} {h : Helper} (hh : (s.ctx c).helper = some h) (counted solo : Bool) :
    (s.abortTask c counted solo).ctx c = Ctx.reset := by
  unfold State.abortTask
  rw [hh]
  refine (State.ctx_of_sameButWork (State.sameButWork_requeue _ _ _) c).trans ?_
  refine (State.ctx_of_sameButWork (State.sameButWork_dropFrame _ _ _) c).trans ?_
  exact (State.ctx_of_sameButWork (s.sameButWork_freeHelper c) c).trans (State.ctx_setCtx_self _ _ _)

/-! Publication. -/

/-- The byte of a line that an entry of a task's write set stands for. -/
def dirtyIn (l : Nat) (p : Nat × Option Byte) : Option (Nat × Byte) := if lineOf p.1 = l then p.2.map (fun b => (p.1, b)) else none

theorem dirtyIn_eq_some {l : Nat} {p : Nat × Option Byte} {q : Nat × Byte} : dirtyIn l p = some q ↔ p = (q.1, some q.2) ∧ lineOf q.1 = l := by
  obtain ⟨a, v⟩ := p
  obtain ⟨k, b⟩ := q
  unfold dirtyIn
  cases v with
  | none => simp
  | some d =>
    by_cases hl : lineOf a = l
    · simp only [hl, if_true, Option.map_some, Option.some.injEq, Prod.mk.injEq]
      constructor
      · rintro ⟨rfl, rfl⟩
        exact ⟨⟨rfl, rfl⟩, hl⟩
      · exact fun h => h.1
    · simp only [hl, if_false, reduceCtorEq, false_iff]
      rintro ⟨e, hk⟩
      obtain ⟨rfl, -⟩ := Prod.mk.inj e
      exact hl hk

/-- The bytes of a line that a task has written. -/
def Helper.lineBytes (h : Helper) (l : Nat) : List (Nat × Byte) := h.dirty.filterMap (dirtyIn l)

theorem Helper.mem_lineBytes {h : Helper} {l : Nat} {q : Nat × Byte} :
    q ∈ h.lineBytes l ↔ (q.1, some q.2) ∈ h.dirty ∧ lineOf q.1 = l := by
  unfold Helper.lineBytes
  rw [List.mem_filterMap]
  constructor
  · rintro ⟨p, hp, he⟩
    obtain ⟨rfl, hl⟩ := dirtyIn_eq_some.mp he
    exact ⟨hp, hl⟩
  · exact fun ⟨hp, hl⟩ => ⟨_, hp, dirtyIn_eq_some.mpr ⟨rfl, hl⟩⟩

theorem Helper.nodup_lineBytes {h : Helper} (hn : (h.dirty.map (fun (p : Nat × Option Byte) => p.1)).Nodup) (l : Nat) :
    ((h.lineBytes l).map (fun p => p.1)).Nodup := by
  unfold Helper.lineBytes
  rw [List.Nodup, List.pairwise_map] at hn ⊢
  rw [List.pairwise_filterMap]
  refine hn.imp (fun {p q} hne b hb d hd => ?_)
  obtain ⟨rfl, -⟩ := dirtyIn_eq_some.mp hb
  obtain ⟨rfl, -⟩ := dirtyIn_eq_some.mp hd
  exact hne

theorem Helper.mem_dirtyLines {h : Helper} {a : Nat} {v : Option Byte} (hm : (a, v) ∈ h.dirty) : lineOf a ∈ h.dirtyLines :=
  List.mem_eraseDups.mpr (List.mem_map.mpr ⟨_, hm, rfl⟩)

/-- One line of a task's bytes is written at home, and the tile's copies change. -/
def State.publishLine (s : State) (c : Nat) (h : Helper) (l : Nat) (f : Tile → Tile) : State :=
  (s.homeWrite (s.tagOf c) (s.yardOf (cidTile c)) ((SMap.get (fun _ => none) h.pages l).getD Pg.plain) (h.lineBytes l)).modTile (cidTile c) f

theorem State.publish_eq (s : State) (c : Nat) (h : Helper) :
    ∃ f : State → Nat → Tile → Tile, s.publish c h = h.dirtyLines.foldl (fun s l => s.publishLine c h l (f s l)) s ∧
      ∀ v l x, (f v l x).move = x.move := by
  refine ⟨_, rfl, fun v l x => ?_⟩
  dsimp only
  split <;> rfl

section
variable {s : State} {c : Nat} {h : Helper}

theorem State.sameButCache_publishLine (l : Nat) (f : Tile → Tile) : s.sameButCache (s.publishLine c h l f) :=
  State.sameButCache_trans (State.sameButCache_of_sameButHome (s.sameButHome_homeWrite _ _ _ _)) (State.sameButCache_modTile _ _ _)

theorem State.byte_publishLine_out {a l : Nat} (f : Tile → Tile) (ha : lineOf a ≠ l) : (s.publishLine c h l f).byte a = s.byte a :=
  State.byte_homeWrite_otherLine _ _ _ (fun _ hp => (Helper.mem_lineBytes.mp hp).2) ha

theorem State.byte_publishLine_in {a : Nat} {b : Byte} (f : Tile → Tile) (hd : s.isDead (s.tagOf c) = false)
    (hn : (h.dirty.map (fun (p : Nat × Option Byte) => p.1)).Nodup) (hm : (a, some b) ∈ h.dirty) :
    (s.publishLine c h (lineOf a) f).byte a = b :=
  State.byte_homeWrite_in _ _ hd (Helper.mem_lineBytes.mpr ⟨hm, rfl⟩) (Helper.nodup_lineBytes hn _)

theorem State.byte_publishLines_out {a : Nat} {ls : List Nat} (f : State → Nat → Tile → Tile) (ha : lineOf a ∉ ls) (s : State) :
    (ls.foldl (fun s l => s.publishLine c h l (f s l)) s).byte a = s.byte a := by
  induction ls generalizing s with
  | nil => rfl
  | cons l ls ih =>
    obtain ⟨hne, hrest⟩ := List.ne_and_not_mem_of_not_mem_cons ha
    rw [List.foldl_cons, ih hrest, State.byte_publishLine_out _ hne]

theorem State.byte_publishLines_in {a : Nat} {b : Byte} {ls : List Nat} (f : State → Nat → Tile → Tile)
    (hn : (h.dirty.map (fun (p : Nat × Option Byte) => p.1)).Nodup) (hm : (a, some b) ∈ h.dirty) (ha : lineOf a ∈ ls) {s : State}
    (hd : s.isDead (s.tagOf c) = false) : (ls.foldl (fun s l => s.publishLine c h l (f s l)) s).byte a = b := by
  induction ls generalizing s with
  | nil => cases ha
  | cons l ls ih =>
    rw [List.foldl_cons]
    by_cases hrest : lineOf a ∈ ls
    · have hsame := s.sameButCache_publishLine (c := c) (h := h) l (f s l)
      refine ih hrest ?_
      rw [State.isDead_of_sameButCache hsame, State.tagOf, State.ctx_of_sameButCache hsame]
      exact hd
    · obtain rfl : lineOf a = l := (List.mem_cons.mp ha).resolve_right hrest
      rw [State.byte_publishLines_out f hrest, State.byte_publishLine_in _ hd hn hm]

theorem State.losing_publishLine (s : State) {f : Tile → Tile} (hf : ∀ x, (f x).move = x.move) {l : Nat} (t : Nat) :
    (s.publishLine c h l f).losing t = s.losing t := by
  obtain ⟨_, _, _, _, _, _, hw⟩ := s.sameButHome_homeWrite (s.tagOf c) (s.yardOf (cidTile c)) ((SMap.get (fun _ => none) h.pages l).getD Pg.plain)
    (h.lineBytes l)
  unfold State.publishLine State.losing
  rw [hw]
  by_cases ht : t = cidTile c
  · subst ht
    rw [State.tile_modTile_self, hf]
    rfl
  · rw [State.tile_modTile_ne _ _ ht]
    rfl

theorem State.sameButCache_publish (s : State) (c : Nat) (h : Helper) : s.sameButCache (s.publish c h) := by
  obtain ⟨f, hf, -⟩ := s.publish_eq c h
  rw [hf]
  exact State.sameButCache_foldl _ (fun v l => v.sameButCache_publishLine l _) s

theorem State.losing_publish (s : State) (c : Nat) (h : Helper) (t : Nat) : (s.publish c h).losing t = s.losing t := by
  obtain ⟨f, hf, hmove⟩ := s.publish_eq c h
  rw [hf]
  exact foldl_leaves (g := fun v : State => v.losing t) (fun v l => v.losing_publishLine (hmove v l) t) _ s

end

/-! The end of a committed task. -/

/-- The newest end is what both of its numbers name (R134). -/
theorem Core.endedOf_noteEnd (k : Core) (e : Ended) {n : Nat} (hn : n ∈ [e.start, e.slot]) : (k.noteEnd e).endedOf n = e.frame := by
  have hnamed : e.named n = true := by
    obtain rfl | rfl : n = e.start ∨ n = e.slot := by simpa using hn
    · simp [Ended.named]
    · simp [Ended.named]
  simp [Core.endedOf, Core.noteEnd, hnamed]

/-- A committed task of START is gone: its slot is free, and both its numbers name its frame when it is kept (R16, R134). -/
theorem State.endCommitted_start {s : State} {c : Nat} {h : Helper} (hl : h.task.launch = none) (keep : Bool) :
    (s.setCtx c Ctx.reset).sameButWork (s.endCommitted c h keep) ∧
    ∀ n ∈ [cidSlot h.task.slot, cidSlot c],
      ((s.endCommitted c h keep).core (cidCore c)).endedOf n = if keep then h.frame + 1 else 0 := by
  have hend : s.endCommitted c h keep =
      (if keep then s.freeHelper c else (s.freeHelper c).dropFrame (cidTile c) h.frame).modCore (cidCore c)
        (fun x => x.noteEnd { start := cidSlot h.task.slot, slot := cidSlot c, frame := if keep then h.frame + 1 else 0 }) := by
    unfold State.endCommitted State.taskEnded
    simp only [hl]
  rw [hend]
  constructor
  · refine State.sameButWork_trans ?_ (State.sameButWork_modCore _ _ _)
    split
    · exact s.sameButWork_freeHelper c
    · exact State.sameButWork_trans (s.sameButWork_freeHelper c) (State.sameButWork_dropFrame _ _ _)
  · intro n hn
    rw [State.core_modCore_self, Core.endedOf_noteEnd _ _ hn]

/-! The commit, by what it finds. -/

section
variable {s : State} {c : Nat} {h : Helper} {retain : Bool} (hh : (s.ctx c).helper = some h)
include hh

theorem State.commit_running (hr : h.halting = none) : s.commit c = s := by
  unfold State.commit
  simp only [hh, hr]

variable (hr : h.halting = some retain)
include hr

/-- A commit that must wait for its coprocessor work, its turn, its lines or L2 changes nothing. -/
theorem State.commit_waits (hw : s.drained c = false ∨ s.turnToCommit h.task = false ∨
    (∃ l ∈ h.dirtyLines ++ h.reads.map (fun e => e.line), s.homeOpen (cidTile c) (l * 128) (some c) = false) ∨
    (h.deferred = [] ∧ s.l2RoomAll h.dirtyLines = false)) : s.commit c = s := by
  unfold State.commit
  simp only [hh, hr]
  obtain hd | ht | ⟨l, hl, hc⟩ | ⟨hdef, hroom⟩ := hw
  · simp [hd]
  · simp [ht]
  · have hfree : (h.dirtyLines ++ h.reads.map (fun e => e.line)).all (fun l => s.homeOpen (cidTile c) (l * 128) (some c)) = false :=
      List.all_eq_false.mpr ⟨l, hl, by simp [hc]⟩
    simp [hfree]
  · simp only [hdef, State.deferReady, hroom]
    split <;> rfl

variable (hd : s.drained c = true) (ht : s.turnToCommit h.task = true)
  (hfree : ∀ l ∈ h.dirtyLines ++ h.reads.map (fun e => e.line), s.homeOpen (cidTile c) (l * 128) (some c) = true)
  (hdef : h.deferred = []) (hroom : s.l2RoomAll h.dirtyLines = true)
include hd ht hfree hdef hroom

theorem State.commit_abort (hsolo : h.task.solo = false) (hbad : s.readsHold h = false) :
    ∃ u, s.sameButCache u ∧ s.commit c = u.abortTask c true false := by
  have hall : (h.dirtyLines ++ h.reads.map (fun e => e.line)).all (fun l => s.homeOpen (cidTile c) (l * 128) (some c)) = true :=
    List.all_eq_true.mpr hfree
  have hready : s.deferReady c h.dirtyLines [] = .ready s := if_pos hroom
  refine ⟨_, State.sameButCache_foldl ((h.reads.filter (fun e => e.failed || s.verOf (e.line * 128) != e.ver)).map (fun e => e.line))
    (fun v l => State.sameButCache_trans (v.sameButCache_cleanLine (cidTile c) l)
      (State.sameButCache_modTile _ (cidTile c) (fun x => x.setLine l CacheLine.absent))) s, ?_⟩
  unfold State.commit
  simp only [hh, hr, hd, ht, hall, hdef, hready, hsolo, hbad]
  rfl

theorem State.commit_publish (hgood : s.readsHold h = true) (hamos : h.amos = []) (hl : h.task.launch = none) :
    ∃ f, s.commit c = ((s.publish c h).modComb h.task.yard h.task.job f).endCommitted c h (retain && !(s.losing (cidTile c))) := by
  have hall : (h.dirtyLines ++ h.reads.map (fun e => e.line)).all (fun l => s.homeOpen (cidTile c) (l * 128) (some c)) = true :=
    List.all_eq_true.mpr hfree
  have hready : s.deferReady c h.dirtyLines [] = .ready s := if_pos hroom
  have hflags (v : State) (fl : Flags) : v.keepFlags h.task.yard h.task.job none fl =
      v.modComb h.task.yard h.task.job (fun b => { b with flags := b.flags ||| fl }) := rfl
  have hlast (v : State) : v.orderAborts h = v := by unfold State.orderAborts; rw [hl]
  refine ⟨fun b => { b with flags := b.flags ||| (((s.publish c h).ctx c).sreg 0x020).setWidth 5 }, ?_⟩
  unfold State.commit
  simp only [hh, hr, hd, ht, hall, hdef, hready, hgood, hamos, hl, hflags, hlast, Bool.not_true, Bool.and_false,
    Bool.or_false, Bool.false_eq_true, if_false, List.foldl_nil]
  rw [← s.losing_publish c h]
  rfl

end

/-- Settles O52: a commit waits, or aborts, or publishes line by line; the frames of each say what it leaves. -/
theorem commitsValidateAndPublish : Obligations.CommitsValidateAndPublish := by
  unfold Obligations.CommitsValidateAndPublish
  intro s c h retain hh
  refine ⟨fun hr => by rw [exec_taskCommit, State.commit_running hh hr], fun hr => ⟨fun hw => ?waits, fun hd ht hfree hdef hroom =>
    ⟨fun hsolo hbad => ?aborts, fun hgood hamos hl hdead hn => ?commits⟩⟩⟩
  case waits => rw [exec_taskCommit, State.commit_waits hh hr hw]
  case aborts =>
    obtain ⟨u, hsame, hcommit⟩ := State.commit_abort hh hr hd ht hfree hdef hroom hsolo hbad
    have hu : (u.ctx c).helper = some h := by rw [State.ctx_of_sameButCache hsame, hh]
    refine ⟨u.abortTask c true false, congrArg Host.Outcome.next hcommit, congrArg Ctx.live (State.ctx_abortTask hu true false), fun i l hi hl => ?_⟩
    rw [State.launchAt, ← State.launches_of_sameButCache hsame] at hl
    obtain ⟨m, a, hm, hq, hindex, hdata, haborts, hasolo⟩ := State.abortTask_launch hu hi hl
    rw [hsolo, Bool.false_or] at hasolo
    exact ⟨m, a, hm, hq, hindex, hdata, haborts, hasolo⟩
  case commits =>
    obtain ⟨f, hcommit⟩ := State.commit_publish hh hr hd ht hfree hdef hroom hgood hamos hl
    obtain ⟨hend, hframe⟩ := State.endCommitted_start (s := (s.publish c h).modComb h.task.yard h.task.job f) (c := c) hl
      (retain && !(s.losing (cidTile c)))
    have hctx := (State.ctx_of_sameButWork hend c).trans (State.ctx_setCtx_self _ _ _)
    have hbyte (a : Nat) : (s.commit c).byte a = (s.publish c h).byte a := by
      rw [hcommit, State.byte_of_sameButWork hend]
      rfl
    obtain ⟨g, hg, -⟩ := s.publish_eq c h
    refine ⟨_, rfl, ?_, ?_, fun a b hm => ?_, fun a ha => ?_, ?_⟩
    · rw [hcommit, hctx]; rfl
    · rw [hcommit, hctx]; rfl
    · rw [hbyte, hg]
      exact State.byte_publishLines_in g hn hm (Helper.mem_dirtyLines hm) hdead
    · rw [hbyte, hg]
      exact State.byte_publishLines_out g ha s
    · rw [hcommit]
      exact hframe

end Sys2Proof.Machine
end

section
/-! PROOFS. Clock modes, calendars, routes and comb borders at their times (R29, R39-R43, R60, R356, R360, R361, R392). -/

namespace Sys2Proof.Machine

/-! Clocks (R29, R360, R361). -/

theorem exec_pinSwitchComplete (t : Nat) (s : State) : exec (.pinSwitchComplete t) s = .next (s.pinDone t) := rfl
theorem exec_cedeRequestExpiry (t : Nat) (s : State) : exec (.cedeRequestExpiry t) s = .next (s.expireCede t) := rfl
theorem exec_calendarApply (p : Nat) (s : State) : exec (.calendarApply p) s = .next (s.applyCalendar p) := rfl
theorem exec_routeEntryApply (d : Nat) (s : State) : exec (.routeEntryApply d) s = .next (s.applyRoute d) := rfl
theorem exec_waggleBoundary (s : State) : exec .waggleBoundary s = .next s.waggle := rfl

section
variable {s : State} {t n : Nat}

theorem State.pinDone_early (h : (s.tile t).pinDue = some n) (hn : s.cal < n) : s.pinDone t = s := by
  simp [State.pinDone, h, hn]

theorem State.pinDone_due (h : (s.tile t).pinDue = some n) (hn : n ≤ s.cal) :
    s.pinDone t = s.modTile t (fun x => { x.retime true (10 * s.cal) with pinDue := none, leaving := none }) := by
  simp [State.pinDone, h, Nat.not_lt.mpr hn]

theorem exec_elasticReturnComplete_early (h : (s.tile t).leaving = some n) (hn : s.cal < n) : exec (.elasticReturnComplete t) s = .next s := by
  show Host.Outcome.next _ = _
  rw [h]
  exact congrArg _ (if_neg (Nat.not_le.mpr hn))

theorem exec_elasticReturnComplete_due (h : (s.tile t).leaving = some n) (hn : n ≤ s.cal) :
    exec (.elasticReturnComplete t) s = .next (s.modTile t (fun x => { x with leaving := none })) := by
  show Host.Outcome.next _ = _
  rw [h]
  exact congrArg _ (if_pos hn)

theorem exec_droopStretch_pinned (d : Nat) (h : (s.tile t).pinned = true) : exec (.droopStretch t d) s = .next s :=
  congrArg Host.Outcome.next (if_pos (.inl h))

theorem exec_droopStretch_elastic {d : Nat} (h : (s.tile t).pinned = false) (hd : d ≠ 0) :
    exec (.droopStretch t d) s = .next (s.modTile t (fun x =>
      { x.retime false (s.freshEdge t) with clkFrom := s.freshEdge t + Nat.min d 4, clkStretched := x.clkStretched + 1 })) :=
  congrArg Host.Outcome.next (if_neg (by simp [h, hd]))

theorem State.expireCede_early (h : (s.tile t).cede = some n) (hn : s.cal < n + 65536) : s.expireCede t = s := by
  simp [State.expireCede, h, Nat.not_le.mpr hn]

theorem State.expireCede_due (h : (s.tile t).cede = some n) (hn : n + 65536 ≤ s.cal) :
    s.expireCede t = s.modTile t (fun x => { x with cede := none }) := by
  simp [State.expireCede, h, hn]

end

/-! Calendars (R356) and routes (R392). -/

/-- A map that takes a run of n keys from base on holds the run's values there and what it held elsewhere. -/
theorem SMap.get_setRun {α : Type} [DecidableEq α] (d : Nat → α) (m : SMap α) (base : Nat) (f : Nat → α) (n a : Nat) :
    SMap.get d ((List.range n).foldl (fun m i => SMap.set d m (base + i) (f i)) m) a =
      if base ≤ a ∧ a < base + n then f (a - base) else SMap.get d m a := by
  induction n with
  | zero => simp
  | succ n ih =>
    rw [List.range_succ, List.foldl_append, List.foldl_cons, List.foldl_nil, SMap.get_set, ih]
    by_cases ha : a = base + n
    · subst ha
      rw [if_pos rfl, if_pos (by omega), Nat.add_sub_cancel_left]
    · rw [if_neg ha]
      refine if_congr ?_ rfl rfl
      omega

theorem State.applyCalendar_early {s : State} {p n : Nat} (h : SMap.get (fun _ => 0) s.calSince p = n + 1) (hn : s.cal < (n + 127) / 64 * 64) :
    s.applyCalendar p = s := by
  unfold State.applyCalendar
  rw [h]
  exact if_pos hn

theorem State.calApplied_applyCalendar {s : State} {p n : Nat} (h : SMap.get (fun _ => 0) s.calSince p = n + 1)
    (hn : (n + 127) / 64 * 64 ≤ s.cal) (a : Nat) :
    SMap.get (fun _ => (0 : Byte)) (s.applyCalendar p).calApplied a =
      if p * 64 ≤ a ∧ a < p * 64 + 64 then s.byte (configPa (p * 64 + (a - p * 64))) else SMap.get (fun _ => (0 : Byte)) s.calApplied a := by
  have happly : (s.applyCalendar p).calApplied = (List.range 64).foldl (fun (m : SMap Byte) i =>
      SMap.set (fun _ => (0 : Byte)) m (p * 64 + i) (s.byte (configPa (p * 64 + i)))) s.calApplied := by
    unfold State.applyCalendar
    rw [h]
    exact congrArg State.calApplied (if_neg (Nat.not_lt.mpr hn))
  rw [happly]
  exact SMap.get_setRun _ _ _ (fun i => s.byte (configPa (p * 64 + i))) _ _

theorem State.applyRoute_waits {s : State} {d : Nat} {r : Remote} (hr : r ∈ s.remotes) (hp : r.pcie = false) (hs : paSpace r.pa = 0xA)
    (hd : deviceOf r.pa = d) (ha : r.acked = false) : s.applyRoute d = s :=
  if_pos (.inr (List.any_eq_true.mpr ⟨r, hr, by simp [hp, hs, hd, ha]⟩))

theorem State.route_applyRoute {s : State} {d : Nat}
    (h : ∀ r ∈ s.remotes, r.pcie = false → paSpace r.pa = 0xA → deviceOf r.pa = d → r.acked = true) :
    (s.applyRoute d).route d = s.routeStored d := by
  have hdone : s.remotes.any (fun r => !r.pcie && paSpace r.pa == 0xA && deviceOf r.pa == d && !r.acked) = false := by
    rw [List.any_eq_false]
    intro r hr hopen
    simp only [Bool.and_eq_true, Bool.not_eq_true', beq_iff_eq] at hopen
    obtain ⟨⟨⟨hp, hs⟩, hd⟩, ha⟩ := hopen
    rw [h r hr hp hs hd] at ha
    cases ha
  unfold State.applyRoute
  rw [hdone]
  by_cases hsame : s.route d = s.routeStored d
  · rw [if_pos (.inl hsame), hsame]
  · rw [if_neg (by simp [hsame])]
    exact SMap.get_set_self _ _ _

/-! The waggle (R39-R43). -/

theorem mem_putRising {t u : Nat} {l : List Nat} : u ∈ putRising t l ↔ u = t ∨ u ∈ l := by
  induction l with
  | nil => simp [putRising]
  | cons x xs ih =>
    unfold putRising
    split
    · simp
    · rw [List.mem_cons, ih, List.mem_cons]
      exact or_left_comm

theorem mem_sortNat {u : Nat} {l : List Nat} : u ∈ sortNat l ↔ u ∈ l := by
  have hfold (l m : List Nat) : u ∈ l.foldl (fun m t => putRising t m) m ↔ u ∈ l ∨ u ∈ m := by
    induction l generalizing m with
    | nil => simp
    | cons x xs ih =>
      rw [List.foldl_cons, ih, mem_putRising, List.mem_cons]
      tauto
  exact (hfold l []).trans (by simp)

/-- What a change of tiles one by one leaves of every tile, it leaves. -/
theorem State.tile_foldl_modTile {β : Type} {g : Tile → β} {f : Nat → Tile → Tile} (hf : ∀ t x, g (f t x) = g x) (ts : List Nat) (s : State)
    (u : Nat) : g ((ts.foldl (fun r t => r.modTile t (f t)) s).tile u) = g (s.tile u) := by
  refine foldl_leaves (g := fun v : State => g (v.tile u)) (fun v t => ?_) ts s
  by_cases hu : u = t
  · subst hu
    rw [State.tile_modTile_self, hf]
  · rw [State.tile_modTile_ne _ _ hu]

/-- What a change of tiles one by one brings about in every tile it changes, stands in each of them. -/
theorem State.tile_foldl_modTile_mem {β : Type} {g : Tile → β} {f : Nat → Tile → Tile} {v : Nat → β} (hf : ∀ t x, g (f t x) = v t)
    {ts : List Nat} {u : Nat} (hu : u ∈ ts) (s : State) : g ((ts.foldl (fun r t => r.modTile t (f t)) s).tile u) = v u := by
  induction ts generalizing s with
  | nil => cases hu
  | cons t ts ih =>
    rw [List.foldl_cons]
    by_cases hrest : u ∈ ts
    · exact ih hrest _
    · obtain rfl : u = t := (List.mem_cons.mp hu).resolve_right hrest
      refine foldl_keeps (fun w : State => g (w.tile u) = v u) ts (fun w t hw => ?_) ?_
      · by_cases htu : u = t
        · subst htu
          rw [State.tile_modTile_self, hf]
        · rw [State.tile_modTile_ne _ _ htu, hw]
      · rw [State.tile_modTile_self, hf]

theorem State.combs_foldl_modTile (f : Nat → Tile → Tile) (ts : List Nat) (s : State) :
    (ts.foldl (fun r t => r.modTile t (f t)) s).combs = s.combs :=
  foldl_leaves (g := State.combs) (fun _ _ => by rfl) ts s

theorem State.cal_foldl_modTile (f : Nat → Tile → Tile) (ts : List Nat) (s : State) :
    (ts.foldl (fun r t => r.modTile t (f t)) s).cal = s.cal :=
  foldl_leaves (g := State.cal) (fun _ _ => by rfl) ts s

/-! What a move that begins leaves of the tiles. -/

theorem State.tile_requeue (s : State) (k : Nat) (t : Task) (u : Nat) : (s.requeue k t).tile u = s.tile u := by
  unfold State.requeue
  split <;> rfl

theorem State.tile_tellLoss (s : State) (c u : Nat) : (s.tellLoss c).tile u = s.tile u := by
  unfold State.tellLoss
  split
  · rfl
  · split <;> rfl

/-- Tasks that go back leave everything of a tile but the tasks placed on it. -/
theorem State.tile_handBack {β : Type} {g : Tile → β} (hg : ∀ x, g { x with ready := [] } = g x) (s : State) (t u : Nat) :
    g ((s.handBack t).tile u) = g (s.tile u) := by
  have hback (v : State) : g ((v.modTile t (fun x => { x with ready := [] })).tile u) = g (v.tile u) :=
    State.tile_foldl_modTile (f := fun _ x => { x with ready := [] }) (fun _ => hg) [t] v u
  unfold State.handBack
  dsimp only
  rw [hback]
  refine congrArg g (foldl_leaves (g := fun v : State => v.tile u) (fun v a => ?_) _ s)
  split
  · exact v.tile_requeue _ _ _
  · exact v.tile_requeue _ _ _

/-- A move that begins leaves everything of the tiles but its own tile's request, move and placed tasks. -/
theorem State.tile_beginMove {β : Type} {g : Tile → β} (hready : ∀ x, g { x with ready := [] } = g x) (s : State) (d : Decision) {u : Nat}
    (hmove : u = d.tile → ∀ x m, g { x with cede := none, move := m } = g x) : g ((s.beginMove d).tile u) = g (s.tile u) := by
  unfold State.beginMove
  dsimp only
  rw [foldl_leaves (g := fun v : State => v.tile u) (fun v c => v.tile_tellLoss c u), ← State.tile_handBack hready s d.tile u]
  by_cases hu : u = d.tile
  · subst hu
    rw [State.tile_modTile_self]
    exact hmove rfl _ _
  · rw [State.tile_modTile_ne _ _ hu]

/-! The decision of a border agent (R41). -/

theorem State.hottest_mem {s : State} {l : List Nat} {u : Nat} (h : s.hottest l = some u) : u ∈ l := by
  induction l generalizing u with
  | nil => cases h
  | cons t ts ih =>
    unfold State.hottest at h
    cases hts : s.hottest ts with
    | none =>
      rw [hts] at h
      obtain rfl := Option.some.inj h
      exact List.mem_cons_self
    | some w =>
      rw [hts] at h
      obtain rfl := Option.some.inj h
      split
      · exact List.mem_cons_of_mem _ (ih hts)
      · exact List.mem_cons_self

theorem bestSuitor_mem {l : List Suitor} {x : Suitor} (h : bestSuitor l = some x) : x ∈ l := by
  induction l generalizing x with
  | nil => cases h
  | cons y ys ih =>
    unfold bestSuitor at h
    cases hys : bestSuitor ys with
    | none =>
      rw [hys] at h
      obtain rfl := Option.some.inj h
      exact List.mem_cons_self
    | some w =>
      rw [hys] at h
      obtain rfl := Option.some.inj h
      split
      · exact List.mem_cons_self
      · exact List.mem_cons_of_mem _ (ih hys)

/-- A suitor is an unheld comb of the yard beside the tile, with one of its tiles there. -/
theorem State.mem_suitors {s : State} {b : Comb} {t : Nat} {c : Suitor} (h : c ∈ s.suitors b t) :
    ∃ x ∈ s.combs, x.yard = b.yard ∧ x.job = c.job ∧ x.job ≠ b.job ∧ x.holdFor s.cal = false ∧ c.via ∈ x.tiles ∧ c.via ∈ neighbours t := by
  obtain ⟨x, hx, hc⟩ := List.mem_filterMap.mp h
  obtain ⟨hmem, hx⟩ := List.mem_filter.mp hx
  obtain ⟨u, hu, rfl⟩ := Option.map_eq_some_iff.mp hc
  simp only [Bool.and_eq_true, beq_iff_eq, bne_iff_ne, Bool.not_eq_true'] at hx
  obtain ⟨⟨hyard, hjob⟩, hhold⟩ := hx
  obtain ⟨hnear, hin⟩ := List.mem_filter.mp (mem_sortNat.mp (State.hottest_mem hu))
  exact ⟨x, hmem, hyard, rfl, hjob, hhold, List.contains_iff_mem.mp hin, hnear⟩

/-- A border agent decides for its own tile, of a comb that may lose it, and for the comb of a suitor. -/
theorem State.borderDecision_some {s : State} {t : Nat} {d : Decision} (h : s.borderDecision t = some d) :
    d.tile = t ∧ ∃ y c, s.combOf t = some y ∧ c ∈ s.suitors y t ∧ d.job = c.job ∧ d.via = c.via ∧ y.holdFor s.cal = false ∧
      y.floorFor s.cal < y.tiles.length ∧ s.wantsPin t = false ∧ s.retains t = false ∧ s.simplePoint y t = true ∧ s.reserved t = false := by
  unfold State.borderDecision at h
  dsimp only at h
  split at h
  · cases h
  · next y hy =>
    split at h
    · cases h
    · next hmay =>
      split at h
      · cases h
      · next c hc =>
        split at h
        · obtain rfl := Option.some.inj h
          simp only [Bool.or_eq_true, not_or, Bool.not_eq_true, decide_eq_false_iff_not, Bool.not_eq_false', Nat.not_le] at hmay
          obtain ⟨⟨⟨⟨⟨⟨hhold, hfloor⟩, hpin⟩, hretains⟩, hpoint⟩, -⟩, hreserved⟩ := hmay
          exact ⟨rfl, y, c, hy, bestSuitor_mem hc, rfl, rfl, hhold, hfloor, hpin, hretains, hpoint, hreserved⟩
        · cases h

theorem State.combOf_mem {s : State} {t : Nat} {b : Comb} (h : s.combOf t = some b) : b ∈ s.combs ∧ t ∈ b.tiles :=
  ⟨List.mem_of_find?_eq_some h, List.contains_iff_mem.mp (List.find?_some (p := fun b : Comb => b.tiles.contains t) h)⟩

/-! The boundary, in its two rounds. -/

/-- The tiles of the combs, in the order in which they take part. -/
def State.combTiles (s : State) : List Nat := sortNat (s.combs.flatMap (fun b => b.tiles))

/-- The round in which every tile takes its load, and that in which it takes its estimate (R39, R40). -/
def State.takeLoads (s : State) : State :=
  s.combTiles.foldl (fun (r : State) t => r.modTile t (fun x => { x with load := s.loadOf t, busy := 0, loadFrom := s.tileCycles t })) s
def State.takePress (s r : State) : State :=
  s.combTiles.foldl (fun (r' : State) t => r'.modTile t (fun x => { x with press := r.pressOf t })) r

/-- The moves that begin at a boundary are decisions of border agents by the loads and estimates taken. -/
theorem State.waggle_eq (s : State) : ∃ go : List Decision, s.waggle = go.foldl (fun s d => s.beginMove d) (s.takePress s.takeLoads) ∧
    ∀ d ∈ go, ∃ t, (s.takePress s.takeLoads).borderDecision t = some d := by
  refine ⟨_, rfl, fun d hd => ?_⟩
  obtain ⟨t, -, ht⟩ := List.mem_filterMap.mp (List.mem_of_mem_filter hd)
  exact ⟨t, ht⟩

/-- Every tile of a comb has taken its load when the boundary has passed, and counts its busy cycles anew. -/
theorem State.loads_waggle {s : State} {t : Nat} (ht : t ∈ s.combTiles) : (s.waggle.tile t).load = s.loadOf t ∧ (s.waggle.tile t).busy = 0 := by
  obtain ⟨go, hgo, -⟩ := s.waggle_eq
  have hmoved : ((s.waggle.tile t).load, (s.waggle.tile t).busy) =
      (((s.takePress s.takeLoads).tile t).load, ((s.takePress s.takeLoads).tile t).busy) := by
    rw [hgo]
    exact foldl_leaves (g := fun v : State => ((v.tile t).load, (v.tile t).busy))
      (fun v d => State.tile_beginMove (g := fun x => (x.load, x.busy)) (fun _ => rfl) v d (fun _ _ _ => rfl)) go _
  have hpress := State.tile_foldl_modTile (g := fun x => (x.load, x.busy)) (f := fun t x => { x with press := s.takeLoads.pressOf t })
    (fun _ _ => rfl) s.combTiles s.takeLoads t
  have hload := State.tile_foldl_modTile_mem (g := fun x => (x.load, x.busy))
    (f := fun t x => { x with load := s.loadOf t, busy := 0, loadFrom := s.tileCycles t }) (v := fun t => (s.loadOf t, 0)) (fun _ _ => rfl) ht s
  exact Prod.mk.inj (hmoved.trans (hpress.trans hload))

/-- The two rounds change neither combs nor the time, and no move. -/
theorem State.combOf_takePress (s : State) (t : Nat) : (s.takePress s.takeLoads).combOf t = s.combOf t := by
  have hcombs : (s.takePress s.takeLoads).combs = s.combs :=
    (State.combs_foldl_modTile _ _ _).trans (State.combs_foldl_modTile _ _ s)
  unfold State.combOf
  rw [hcombs]

theorem State.cal_takePress (s : State) : (s.takePress s.takeLoads).cal = s.cal :=
  (State.cal_foldl_modTile _ _ _).trans (State.cal_foldl_modTile _ _ s)

theorem State.move_takePress (s : State) (t : Nat) : ((s.takePress s.takeLoads).tile t).move = (s.tile t).move :=
  (State.tile_foldl_modTile (g := Tile.move) (f := fun t x => { x with press := s.takeLoads.pressOf t }) (fun _ _ => rfl) _ _ t).trans
    (State.tile_foldl_modTile (g := Tile.move) (f := fun t x => { x with load := s.loadOf t, busy := 0, loadFrom := s.tileCycles t })
      (fun _ _ => rfl) _ s t)

/-- No tile of a comb that holds its border begins to move. -/
theorem State.move_waggle {s : State} {t : Nat} {b : Comb} (hb : s.combOf t = some b) (hheld : b.holdFor s.cal = true) :
    (s.waggle.tile t).move = (s.tile t).move := by
  obtain ⟨go, hgo, hdecided⟩ := s.waggle_eq
  have hother : ∀ d ∈ go, t ≠ d.tile := by
    rintro d hd rfl
    obtain ⟨u, hu⟩ := hdecided d hd
    obtain ⟨rfl, y, c, hy, -, -, -, hfree, -⟩ := State.borderDecision_some hu
    rw [State.combOf_takePress, hb] at hy
    obtain rfl := Option.some.inj hy
    rw [State.cal_takePress, hheld] at hfree
    cases hfree
  have hmoved (ds : List Decision) (hds : ∀ d ∈ ds, t ≠ d.tile) (v : State) :
      ((ds.foldl (fun s d => s.beginMove d) v).tile t).move = (v.tile t).move := by
    induction ds generalizing v with
    | nil => rfl
    | cons d ds ih =>
      rw [List.foldl_cons, ih (fun e he => hds e (List.mem_cons_of_mem _ he))]
      exact State.tile_beginMove (g := Tile.move) (fun _ => rfl) v d (fun h => absurd h (hds d List.mem_cons_self))
  rw [hgo, hmoved go hother, State.move_takePress]

/-- Settles O55: each event is early or due; at a waggle boundary the rounds and the moves leave what they do not change, and a decision
is read off its conditions. -/
theorem clocksCalendarsAndBordersChange : Obligations.ClocksCalendarsAndBordersChange := by
  unfold Obligations.ClocksCalendarsAndBordersChange
  refine ⟨fun s t d => ⟨fun n hn => ⟨fun hlt => ?pinEarly, fun hle => ?pinDue⟩, fun n hn => ⟨fun hlt => ?leaveEarly, fun hle => ?leaveDue⟩,
    exec_droopStretch_pinned d, fun hp hd => ?droop, fun n hn => ⟨fun hlt => ?calEarly, fun hle => ?calDue⟩, ?routeWaits, fun h => ?routeApplies⟩,
    fun s => ?waggle, fun s t d hd => ?decision, fun s t a ha => ⟨fun hlt => ?cedeEarly, fun hle => ?cedeDue⟩⟩
  case pinEarly => rw [exec_pinSwitchComplete, State.pinDone_early hn hlt]
  case pinDue =>
    refine ⟨_, (exec_pinSwitchComplete t s).trans (congrArg _ (State.pinDone_due hn hle)), ?_, ?_, ?_,
      State.sameStore_modTile _ _ _ (fun _ => ⟨rfl, rfl, rfl⟩), fun _ => rfl⟩
    · rw [State.tile_modTile_self]; rfl
    · rw [State.tile_modTile_self]
    · rw [State.tile_modTile_self]
  case leaveEarly => exact exec_elasticReturnComplete_early hn hlt
  case leaveDue =>
    exact ⟨_, exec_elasticReturnComplete_due hn hle, by rw [State.tile_modTile_self], State.sameStore_modTile _ _ _ (fun _ => ⟨rfl, rfl, rfl⟩)⟩
  case droop =>
    exact ⟨_, exec_droopStretch_elastic hp hd, by rw [State.tile_modTile_self], State.sameStore_modTile _ _ _ (fun _ => ⟨rfl, rfl, rfl⟩)⟩
  case calEarly => rw [exec_calendarApply, State.applyCalendar_early hn hlt]
  case calDue =>
    refine ⟨_, exec_calendarApply t s, fun i hi => ?_, fun a ha => ?_⟩
    · rw [State.calApplied_applyCalendar hn hle, if_pos (by omega), Nat.add_sub_cancel_left]
    · rw [State.calApplied_applyCalendar hn hle, if_neg (by omega)]
  case routeWaits =>
    rintro ⟨r, hr, hp, hs, hd, ha⟩
    rw [exec_routeEntryApply, State.applyRoute_waits hr hp hs hd ha]
  case routeApplies => exact ⟨_, exec_routeEntryApply d s, State.route_applyRoute h⟩
  case waggle =>
    refine ⟨_, exec_waggleBoundary s, fun b hb t ht => State.loads_waggle ?_, fun t b hb hheld => State.move_waggle hb hheld⟩
    exact mem_sortNat.mpr (List.mem_flatMap.mpr ⟨b, hb, ht⟩)
  case decision =>
    obtain ⟨htile, y, c, hy, hc, hjob, hvia, hhold, hfloor, hpin, hretains, hpoint, hreserved⟩ := State.borderDecision_some hd
    obtain ⟨x, hx, hyard, hxjob, hne, hxhold, hin, hnear⟩ := State.mem_suitors hc
    obtain ⟨hmem, htmem⟩ := State.combOf_mem hy
    rw [hjob, hvia]
    exact ⟨htile, y, hmem, htmem, hhold, hfloor, hpin, hretains, hpoint, hreserved, x, hx, hyard, hxjob, hne, hxhold, hin, hnear⟩
  case cedeEarly => rw [exec_cedeRequestExpiry, State.expireCede_early ha hlt]
  case cedeDue =>
    exact ⟨_, (exec_cedeRequestExpiry t s).trans (congrArg _ (State.expireCede_due ha hle)), by rw [State.tile_modTile_self],
      State.sameStore_modTile _ _ _ (fun _ => ⟨rfl, rfl, rfl⟩)⟩

end Sys2Proof.Machine
end

section
/-! PROOFS. The registers of a context that a completed instruction leaves (R152, R174). -/

namespace Sys2Proof.Machine

theorem Ctx.sameBut_refl (x : Ctx) : x.sameBut x [] [] := ⟨fun _ _ => rfl, fun _ _ => rfl, fun _ => rfl, fun _ => rfl, rfl⟩

theorem Ctx.sameBut_trans {x y z : Ctx} {gs hs : List Reg} {ns ms : List Nat} (h : x.sameBut y gs ns) (k : y.sameBut z hs ms) :
    x.sameBut z (gs ++ hs) (ns ++ ms) := by
  obtain ⟨hg, hn, hv, hm, hp⟩ := h
  obtain ⟨kg, kn, kv, km, kp⟩ := k
  refine ⟨fun r hr => ?_, fun n hn' => ?_, fun i => (kv i).trans (hv i), fun i => (km i).trans (hm i), kp.trans hp⟩
  · rw [List.mem_append, not_or] at hr
    exact (kg r hr.2).trans (hg r hr.1)
  · rw [List.mem_append, not_or] at hn'
    exact (kn n hn'.2).trans (hn n hn'.1)

theorem Ctx.sameBut_mono {x y : Ctx} {gs hs : List Reg} {ns ms : List Nat} (h : x.sameBut y gs ns) (hg : gs ⊆ hs) (hn : ns ⊆ ms) :
    x.sameBut y hs ms := by
  obtain ⟨kg, kn, kv, km, kp⟩ := h
  exact ⟨fun r hr => kg r (fun hin => hr (hg hin)), fun n hns => kn n (fun hin => hns (hn hin)), kv, km, kp⟩

theorem Ctx.sameBut_setSreg (x : Ctx) (n : Nat) (w : Word) : x.sameBut (x.setSreg n w) [] [n] :=
  ⟨fun _ _ => rfl, fun _ hk => Ctx.sreg_setSreg_ne _ _ (by simpa using hk), fun _ => rfl, fun _ => rfl, rfl⟩

theorem Ctx.sameBut_setGreg (x : Ctx) (r : Reg) (w : Word) : x.sameBut (x.setGreg r w) [r] [] :=
  ⟨fun k hk => Ctx.greg_setGreg_ne _ _ (by simpa using hk), fun n _ => Ctx.sreg_setGreg _ _ _ n, fun _ => by simp, fun _ => by simp, by simp⟩

/-- A change of what is no register and no privilege. -/
theorem Ctx.sameBut_of_regs {x y : Ctx} (hg : y.g = x.g) (hs : y.sr = x.sr) (hv : y.v = x.v) (hm : y.m = x.m) (hp : y.priv = x.priv) :
    x.sameBut y [] [] := by
  refine ⟨fun r _ => ?_, fun n _ => ?_, fun k => ?_, fun k => ?_, hp⟩
  · simp only [Ctx.greg, hg]
  · simp only [Ctx.sreg, hs]
  · simp only [Ctx.vreg, hv]
  · simp only [Ctx.mreg, hm]

theorem Ctx.sameBut_congr_right {x y z : Ctx} {gs : List Reg} {ns : List Nat} (h : x.sameBut y gs ns) (hg : z.g = y.g) (hs : z.sr = y.sr)
    (hv : z.v = y.v) (hm : z.m = y.m) (hp : z.priv = y.priv) : x.sameBut z gs ns := by
  have hz := Ctx.sameBut_trans h (Ctx.sameBut_of_regs hg hs hv hm hp)
  rwa [List.append_nil, List.append_nil] at hz

theorem Ctx.loopRegs_congr {x y : Ctx} (hpc : y.pc = x.pc) (hstart : y.sreg 0x030 = x.sreg 0x030) (hctl : y.sreg 0x031 = x.sreg 0x031) :
    y.loopRegs = x.loopRegs := by
  have hloop : y.looping = x.looping := by unfold Ctx.looping; rw [hctl]
  have hend : y.loopEnd = x.loopEnd := by unfold Ctx.loopEnd; rw [hstart, hctl]
  unfold Ctx.loopRegs
  rw [hloop, hend, hpc, hctl]

/-- The step over an instruction changes no register but a loop's count and, where it ends the loop, its control. -/
theorem Ctx.sameBut_advance (x : Ctx) (n : Nat) : x.sameBut (x.advance n) x.loopRegs [0x031] := by
  have hdone : x.sameBut (x.completed n) [] [] := Ctx.sameBut_of_regs rfl rfl rfl rfl rfl
  have hpc (y : Ctx) (p : Word) : y.sameBut { y with pc := p } [] [] := Ctx.sameBut_of_regs rfl rfl rfl rfl rfl
  unfold Ctx.advance Ctx.loopRegs
  dsimp only
  by_cases hend : (x.looping && x.pc + 4 == x.loopEnd) = true
  · have hend' : ((x.completed n).looping && (x.completed n).pc + 4 == (x.completed n).loopEnd) = true := hend
    rw [if_pos hend', if_pos hend]
    split
    · exact Ctx.sameBut_trans hdone (Ctx.sameBut_trans (Ctx.sameBut_setGreg _ _ _) (Ctx.sameBut_trans (Ctx.sameBut_setSreg _ _ _) (hpc _ _)))
    · exact Ctx.sameBut_mono (Ctx.sameBut_trans hdone (Ctx.sameBut_trans (Ctx.sameBut_setGreg _ _ _) (hpc _ _))) (List.Subset.refl _)
        (List.nil_subset _)
  · have hend' : ¬((x.completed n).looping && (x.completed n).pc + 4 == (x.completed n).loopEnd) = true := hend
    rw [if_neg hend', if_neg hend]
    exact Ctx.sameBut_mono (Ctx.sameBut_trans hdone (hpc _ _)) (List.nil_subset _) (List.nil_subset _)

theorem Ctx.windows_setGreg (x : Ctx) (r : Reg) (w : Word) : (x.setGreg r w).windows = x.windows := by
  unfold Ctx.setGreg
  split <;> rfl

theorem Ctx.windows_advance (x : Ctx) (n : Nat) : (x.advance n).windows = x.windows := by
  unfold Ctx.advance
  dsimp only
  split
  · split
    · exact Ctx.windows_setGreg _ _ _
    · exact Ctx.windows_setGreg _ _ _
  · rfl

/-- Outside a loop the next instruction is the one after it. -/
theorem Ctx.pc_advance {x : Ctx} (h : x.looping = false) (n : Nat) : (x.advance n).pc = x.pc + 4 := by
  have hin : ¬((x.completed n).looping && (x.completed n).pc + 4 == (x.completed n).loopEnd) = true := by
    have hc : (x.completed n).looping = false := h
    simp [hc]
  unfold Ctx.advance
  dsimp only
  rw [if_neg hin]
  rfl

theorem State.me_goOn (s : State) : s.goOn.me = s.me.advance (cidSlot s.cur) := State.me_modMe _ _

theorem State.sameOthers_modMe (s : State) (f : Ctx → Ctx) : s.sameOthers (s.modMe f) := ⟨rfl, fun _ hc => State.ctx_modMe_ne s f hc⟩

theorem State.sameOthers_trans {s t u : State} (h : s.sameOthers t) (k : t.sameOthers u) : s.sameOthers u :=
  ⟨k.1.trans h.1, fun c hc => (k.2 c (h.1 ▸ hc)).trans (h.2 c hc)⟩

end Sys2Proof.Machine
end

section
/-! PROOFS. The issue of vector operations and FMT (R10, R157, R209, R210, R216, R298, R311). -/

namespace Sys2Proof.Machine

/-! The windows that can close do not depend on the pending FMT word (R154, R157). -/

/-- Two states with the same context but for what no close of a window looks at: they differ in contexts alone, and context c carries
the same top-code bit in both. -/
def State.closesAlike (s t : State) (c : Nat) : Prop := (∃ x, t = { s with ctxs := x }) ∧ (t.ctx c).tc = (s.ctx c).tc

theorem State.closesAlike_modCtx {s t : State} {c : Nat} (h : s.closesAlike t c) {f : Ctx → Ctx} (hf : ∀ x, (f x).tc = x.tc) :
    (s.modCtx c f).closesAlike (t.modCtx c f) c := by
  obtain ⟨⟨x, rfl⟩, htc⟩ := h
  refine ⟨⟨_, rfl⟩, ?_⟩
  rw [State.ctx_modCtx_self, State.ctx_modCtx_self, hf, hf, htc]

theorem State.refuses_of_closesAlike {s t : State} {c : Nat} (h : s.closesAlike t c) (w : RegWrite) : t.refuses c w = s.refuses c w := by
  obtain ⟨⟨x, rfl⟩, -⟩ := h
  rfl

theorem State.windowReady_of_closesAlike {s t : State} {c : Nat} (h : s.closesAlike t c) (w : Window) :
    t.windowReady c w = s.windowReady c w := by
  obtain ⟨⟨x, rfl⟩, -⟩ := h
  rfl

theorem State.closesAlike_applyWrite {s t : State} {c : Nat} (h : s.closesAlike t c) (w : RegWrite) :
    (s.applyWrite c w).closesAlike (t.applyWrite c w) c := by
  cases w with
  | g r x =>
    unfold State.applyWrite
    dsimp only
    split
    · obtain ⟨⟨y, rfl⟩, htc⟩ := h
      rw [htc]
      exact ⟨⟨y, rfl⟩, htc⟩
    · split
      · obtain ⟨⟨y, rfl⟩, htc⟩ := h
        rw [htc]
        unfold State.pushLink
        split
        · exact ⟨⟨y, rfl⟩, htc⟩
        · exact ⟨⟨y, rfl⟩, htc⟩
      · exact State.closesAlike_modCtx h (fun y => congrArg (·.getLsbD 0) (Ctx.sreg_setGreg y r x 0x023))
  | v r mask x =>
    refine State.closesAlike_modCtx h (f := fun y => y.setVreg r ((y.vreg r &&& ~~~mask) ||| (x &&& mask))) (fun y => ?_)
    exact congrArg (·.getLsbD 0) (Ctx.sreg_setVreg y r _ 0x023)
  | m r mask x =>
    refine State.closesAlike_modCtx h (f := fun y => y.setMreg r ((y.mreg r &&& ~~~mask) ||| (x &&& mask))) (fun y => ?_)
    exact congrArg (·.getLsbD 0) (Ctx.sreg_setMreg y r _ 0x023)

theorem State.closesAlike_closeWindow {s t : State} {c : Nat} (h : s.closesAlike t c) (w : Window) :
    (s.closeWindow c w).closesAlike (t.closeWindow c w) c := by
  have hwrites (l : List RegWrite) {u v : State} (huv : u.closesAlike v c) :
      (l.foldl (fun s x => s.applyWrite c x) u).closesAlike (l.foldl (fun s x => s.applyWrite c x) v) c := by
    induction l generalizing u v with
    | nil => exact huv
    | cons x l ih => exact ih (State.closesAlike_applyWrite huv x)
  unfold State.closeWindow
  simp only [State.refuses_of_closesAlike h]
  exact State.closesAlike_modCtx (hwrites _ h) (fun _ => rfl)

theorem State.closeList_of_closesAlike {s t : State} {c : Nat} (h : s.closesAlike t c) (ws : List Window) :
    (t.closeList c ws).2 = (s.closeList c ws).2 := by
  induction ws generalizing s t with
  | nil => rfl
  | cons w ws ih =>
    unfold State.closeList
    rw [State.windowReady_of_closesAlike h]
    split
    · exact ih (State.closesAlike_closeWindow h w)
    · rfl

/-- A pending FMT word that is discarded lets the same windows close. -/
theorem State.canClose_dropPrefix {s : State} (h : s.canClose) : (s.modMe (fun x => x.setSreg 0x024 0)).canClose := by
  have hme : (s.modMe (fun x => x.setSreg 0x024 0)).ctx s.cur = s.me.setSreg 0x024 0 := State.me_modMe _ _
  have halike : s.closesAlike (s.modMe (fun x => x.setSreg 0x024 0)) s.cur := by
    refine ⟨⟨_, rfl⟩, ?_⟩
    rw [hme]
    exact congrArg (·.getLsbD 0) (Ctx.sreg_setSreg_ne s.me (n := 0x024) (k := 0x023) 0 (by decide))
  refine Eq.trans ?_ h
  show (State.closeList _ s.cur (Ctx.closing (State.ctx _ s.cur) _)).2 = _
  rw [hme]
  exact State.closeList_of_closesAlike halike _

/-! The steps of an issue. -/

theorem takePfx_ok {s : State} {u : PfxUse} (h : s.pfxFits u) : takePfx u s = .ok s.pfx s := by
  unfold takePfx State.pfx
  dsimp only
  cases hp : (s.me.sreg 0x024).getLsbD 63 with
  | false => rfl
  | true =>
    have hfit := h hp
    rw [State.pfx, if_pos hp] at hfit
    rw [hfit]
    rfl

theorem takePfx_trap {s : State} {u : PfxUse} (h : ¬s.pfxFits u) :
    takePfx u s = .error (.trap .reserved 0) (s.modMe (fun x => x.setSreg 0x024 0)) := by
  obtain ⟨hp, hbad⟩ := Classical.not_imp.mp h
  rw [State.pfx, if_pos hp] at hbad
  unfold takePfx
  dsimp only
  rw [hp, if_neg (by decide), if_neg hbad]

theorem readOpt_ok (r : Option Reg) (s : State) : readOpt r s = .ok (s.readOpt r).1 (s.readOpt r).2 := by
  cases r with
  | none => rfl
  | some r => exact readG_ok r s

theorem State.me_readOpt (s : State) (r : Option Reg) : ∃ g, (s.readOpt r).2.me = { s.me with got := g } := by
  cases r with
  | none => exact ⟨s.me.got, rfl⟩
  | some r => exact s.me_read r

theorem State.sameStore_readOpt (s : State) (r : Option Reg) : s.sameStore (s.readOpt r).2 := by
  cases r with
  | none => exact s.sameStore_refl
  | some r => exact s.sameStore_read r

section
variable {s : State} {i : Instr}

theorem formSlot_ok {a : Word} (h : s.pushBlocked = true ∨ (sharedForm i a && s.me.issued.isNone && s.slotRefused s.cur) = false) :
    formSlot i a s = .ok () s := by
  unfold formSlot
  split
  · next hcheck =>
    rw [Bool.and_eq_true, Bool.not_eq_true'] at hcheck
    obtain hb | hr := h
    · rw [hb] at hcheck
      cases hcheck.2
    · rw [hcheck.1, Bool.true_and] at hr
      unfold sharedSlot
      rw [hr]
      rfl
  · rfl

theorem formSlot_trap {a : Word} (hb : s.pushBlocked = false)
    (h : (sharedForm i a && s.me.issued.isNone && s.slotRefused s.cur) = true) :
    formSlot i a s = .error (.trap .slotFault (s.slotTval 0xF)) s := by
  rw [Bool.and_assoc, Bool.and_eq_true] at h
  unfold formSlot sharedSlot
  rw [h.1, hb, h.2]
  rfl

theorem pushCop_blocked (h : s.pushBlocked = true) (pfx : IWord) (a b qkw : Word) (win : Option (BitVec 4)) (rec : Bool) :
    pushCop i pfx a b qkw win rec s = .error (.wait .fullQueue 0) s := if_pos h

/-- A push that is not blocked, and the step over its instruction. -/
theorem pushCop_next (h : s.pushBlocked = false) (pfx : IWord) (a b qkw : Word) (win : Option (BitVec 4)) (rec : Bool) :
    (pushCop i pfx a b qkw win rec >>= fun _ => next) s = .ok () (s.pushed i pfx a b qkw win rec) := by
  have hpush : pushCop i pfx a b qkw win rec s = _ := if_neg (by rw [h]; decide)
  exact bind_run hpush rfl

/-! The issue of a vector operation, by what it meets. -/

variable {d : VInfo} (hd : vInfo i = some d)
include hd

theorem vIssue_reserved (hp : ¬s.pfxFits d.use) :
    vIssue i s = .error (.trap .reserved 0) (s.modMe (fun x => x.setSreg 0x024 0)) := by
  unfold vIssue
  rw [hd]
  exact bind_error (takePfx_trap hp)

variable (hp : s.pfxFits d.use)
include hp

theorem vIssue_extent (hb : d.blocks.all (fun q => blockOk q d.ext) = false) : vIssue i s = .error (.trap .blockExtent 0) s := by
  unfold vIssue
  rw [hd]
  refine bind_run (takePfx_ok hp) ?_
  dsimp only
  rw [hb]
  exact bind_error rfl

variable (hb : d.blocks.all (fun q => blockOk q d.ext) = true) (he : vExtra i (pfxOf d.dflt s.pfx) = none)
  (hg : s.operandsReady (d.sa.toList ++ d.sb.toList) d.push false)
include hb he hg

/-- An operation whose checks pass reads its sources, has its slot checked and is pushed. -/
theorem vIssue_reads : vIssue i s =
    (formSlot i (s.readOpt d.sa).1 >>= fun _ =>
      pushCop i s.pfx (s.readOpt d.sa).1 ((s.readOpt d.sa).2.readOpt d.sb).1 0 d.win true >>= fun _ => next)
      ((s.readOpt d.sa).2.readOpt d.sb).2 := by
  unfold vIssue
  rw [hd]
  refine bind_run (takePfx_ok hp) ?_
  dsimp only
  rw [hb, he]
  exact bind_run rfl (bind_run hg (bind_run (readOpt_ok _ _) (bind_run (readOpt_ok _ _) rfl)))

end

/-! What a push leaves (R209, R311). -/

section
variable (s : State) (i : Instr) (pfx : IWord) (a b qkw : Word) (win : Option (BitVec 4)) (rec : Bool)

/-- The entry at the end of the queue. -/
def State.pushedEntry : QEntry :=
  { s.capture s.cur i pfx a b qkw with seq := (s.core s.myCore).seq, ord := s.pushes, since := s.cal }

/-- The context that has issued a push: a window for its results, no pending FMT word, and its recording. -/
def State.pushedCtx : Ctx :=
  { (s.me.setSreg 0x024 0 : Ctx) with
    windows := s.me.windows ++ (match win with
      | some la => [{ last := s.me.pos + la.toNat, seq := some (s.core s.myCore).seq, ready := false, replay := false, writes := [] }]
      | none => []),
    rep := if rec then s.me.rep.record ((encode i).getD 0) pfx else s.me.rep }

theorem State.me_pushed : (s.pushed i pfx a b qkw win rec).me = (s.pushedCtx i pfx win rec).advance (cidSlot s.cur) := by
  have hgo (u : State) (f : Ctx → Ctx) : (u.modMe f).goOn.me = (f u.me).advance (cidSlot u.cur) := by
    rw [State.me_goOn, State.me_modMe]
    rfl
  cases win with
  | none =>
    refine (hgo _ _).trans (congrArg (fun x : Ctx => x.advance (cidSlot s.cur)) ?_)
    unfold State.pushedCtx
    dsimp only
    rw [List.append_nil]
    rfl
  | some la =>
    have hopen : ((s.enqueue s.myCore (s.capture s.cur i pfx a b qkw)).openWindow s.cur (s.me.pos + la.toNat) (s.core s.myCore).seq false).me =
        { s.me with windows := s.me.windows ++
          [{ last := s.me.pos + la.toNat, seq := some (s.core s.myCore).seq, ready := false, replay := false, writes := [] }] } :=
      State.ctx_modCtx_self _ _ _
    refine (hgo _ _).trans (congrArg (fun x : Ctx => x.advance (cidSlot s.cur)) ?_)
    dsimp only
    rw [hopen]
    rfl

theorem State.core_countPush (s : State) (k : Nat) : s.countPush.core k = s.core k := rfl

theorem State.core_pushed : ∃ ring, (s.pushed i pfx a b qkw win rec).core s.myCore =
    { s.core s.myCore with
      ring := ring, vq := (s.core s.myCore).vq ++ [s.pushedEntry i pfx a b qkw], seq := ((s.core s.myCore).seq + 1) % 65536 } := by
  have hcore : (s.pushed i pfx a b qkw win rec).core s.myCore = (s.enqueue s.myCore (s.capture s.cur i pfx a b qkw)).core s.myCore := by
    cases win <;> rfl
  rw [hcore]
  unfold State.enqueue
  dsimp only
  rw [State.core_countPush, State.core_modCore_self]
  exact ⟨_, rfl⟩

theorem State.core_pushed_ne {k : Nat} (h : k ≠ s.myCore) : (s.pushed i pfx a b qkw win rec).core k = s.core k := by
  have hcore : (s.pushed i pfx a b qkw win rec).core k = (s.enqueue s.myCore (s.capture s.cur i pfx a b qkw)).core k := by
    cases win <;> rfl
  rw [hcore]
  unfold State.enqueue
  dsimp only
  rw [State.core_countPush, State.core_modCore_ne _ _ h]

/-- At most contexts and cores differ, and the count of pushes. -/
theorem State.pushed_eq : ∃ x k p, s.pushed i pfx a b qkw win rec = { s with ctxs := x, cores := k, pushes := p } := by
  obtain ⟨k, p, hq⟩ : ∃ k p, s.enqueue s.myCore (s.capture s.cur i pfx a b qkw) = { s with cores := k, pushes := p } := ⟨_, _, rfl⟩
  unfold State.pushed
  dsimp only
  rw [hq]
  cases win <;> exact ⟨_, k, p, rfl⟩

theorem State.sameStore_pushed : s.sameStore (s.pushed i pfx a b qkw win rec) := by
  obtain ⟨x, k, p, h⟩ := s.pushed_eq i pfx a b qkw win rec
  rw [h]
  exact s.sameStore_refl

theorem State.sameSpecials_pushed : s.sameSpecials (s.pushed i pfx a b qkw win rec) := by
  constructor
  · obtain ⟨x, k, p, h⟩ := s.pushed_eq i pfx a b qkw win rec
    rw [h]
    exact fun _ _ => rfl
  · intro k n
    by_cases hk : k = s.myCore
    · obtain ⟨ring, h⟩ := s.core_pushed i pfx a b qkw win rec
      rw [hk, h]
      rfl
    · rw [State.core_pushed_ne _ _ _ _ _ _ _ _ hk]

theorem State.sameOthers_pushed : s.sameOthers (s.pushed i pfx a b qkw win rec) := by
  have hqueue : s.sameOthers (s.enqueue s.myCore (s.capture s.cur i pfx a b qkw)) := ⟨rfl, fun _ _ => rfl⟩
  have hgo (u : State) (f : Ctx → Ctx) : u.sameOthers (u.modMe f).goOn :=
    State.sameOthers_trans (State.sameOthers_modMe u f) (State.sameOthers_modMe _ _)
  cases win with
  | none => exact State.sameOthers_trans hqueue (hgo _ _)
  | some la =>
    have hopen (u : State) (f : Ctx → Ctx) : u.sameOthers (u.modCtx u.cur f) := State.sameOthers_modMe u f
    exact State.sameOthers_trans hqueue (State.sameOthers_trans (hopen _ _) (hgo _ _))

/-- The registers of the context stay, but for the pending FMT word and a loop. -/
theorem State.sameBut_pushed : s.me.sameBut (s.pushed i pfx a b qkw win rec).me s.me.loopRegs [0x024, 0x031] := by
  have hctx : s.me.sameBut (s.pushedCtx i pfx win rec) [] [0x024] :=
    Ctx.sameBut_trans (Ctx.sameBut_setSreg s.me 0x024 0) (Ctx.sameBut_of_regs rfl rfl rfl rfl rfl)
  have hloop : (s.pushedCtx i pfx win rec).loopRegs = s.me.loopRegs :=
    Ctx.loopRegs_congr rfl (hctx.2.1 0x030 (by decide)) (hctx.2.1 0x031 (by decide))
  rw [State.me_pushed, ← hloop]
  exact Ctx.sameBut_trans hctx (Ctx.sameBut_advance _ _)

theorem State.pfxReg_pushed : (s.pushed i pfx a b qkw win rec).me.sreg 0x024 = 0 := by
  obtain ⟨-, hs, -⟩ := (s.pushedCtx i pfx win rec).sameBut_advance (cidSlot s.cur)
  rw [State.me_pushed, hs 0x024 (by decide)]
  exact Ctx.sreg_setSreg_self s.me 0x024 0

theorem State.windows_pushed (la : BitVec 4) : (s.pushed i pfx a b qkw (some la) rec).me.windows = s.me.windows ++
    [{ last := s.me.pos + la.toNat, seq := some (s.core s.myCore).seq, ready := false, replay := false, writes := [] }] := by
  rw [State.me_pushed, Ctx.windows_advance]
  rfl

end

/-! FMT (R216). -/

theorem pendingWord_eq (w : IWord) : ((1 : Word) <<< 63 ||| w.setWidth 64) = BitVec.ofNat 64 (2 ^ 63 + w.toNat) := by
  have hw := w.isLt
  apply BitVec.eq_of_toNat_eq
  rw [BitVec.toNat_or, BitVec.toNat_ofNat]
  have h1 : ((1 : Word) <<< 63).toNat = 2 ^ 63 := by decide
  have h2 : (w.setWidth 64).toNat = w.toNat := by
    rw [BitVec.toNat_setWidth]
    omega
  have hor := Nat.two_pow_add_eq_or_of_lt (i := 63) (by omega : w.toNat < 2 ^ 63) 1
  rw [Nat.mul_one] at hor
  rw [h1, h2, ← hor]
  omega

theorem exec_fmt {s : State} {f g : BitVec 5} {r : BitVec 3} {t : BitVec 1} {m : BitVec 3} {k : BitVec 2} {w : IWord} (h : s.canExecute)
    (hw : encode (.fmt f g r t m k) = some w) :
    exec (.fmt f g r t m k) s = .next (s.modMe (fun x =>
      { (x.setSreg 0x024 (BitVec.ofNat 64 (2 ^ 63 + w.toNat))).advance (cidSlot s.cur) with pos := x.pos, stepPend := x.stepPend })) := by
  refine run_ok h.1 (bind_run (noPrefix_ok h.2) ?_)
  rw [hw, Option.getD_some, pendingWord_eq]
  rfl

/-- Settles O44: the issue of every form is the same run, taken by what it meets; a push and FMT leave what their frames say. -/
theorem vectorOperationsJoinTheirQueue : Obligations.VectorOperationsJoinTheirQueue := by
  unfold Obligations.VectorOperationsJoinTheirQueue
  refine ⟨⟨fun s v a b ext la cc m p i hi hl => ?issue, fun s i pfx a b qkw win rec => ?pushed⟩, fun s f g r t m k w h hw => ?fmt⟩
  case issue =>
    have hexec : exec i s = run (vIssue i) s :=
      List.map_inj_left (f := fun i => exec i s) (g := fun i => run (vIssue i) s) |>.mp (by rfl) i hi
    have hinfo : (vInfo i).isSome = true := List.all_eq_true (p := fun i => (vInfo i).isSome) |>.mp (by rfl) i hi
    obtain ⟨d, hd⟩ := Option.isSome_iff_exists.mp hinfo
    rw [hexec]
    refine ⟨d, hd, fun hp hb he hg => ?_, fun hp hb hw => run_trap hl (vIssue_extent hd hp hb) hw,
      fun hp hw => run_trap hl (vIssue_reserved hd hp) (State.canClose_dropPrefix hw)⟩
    have hissue := vIssue_reads hd hp hb he hg
    refine ⟨fun hfree hslot => ?_, fun hfree hslot hw => ?_, fun hfull => ?_⟩
    · exact run_ok hl (hissue.trans (bind_run (formSlot_ok (.inr hslot)) (pushCop_next hfree _ _ _ _ _ _)))
    · exact run_trap hl (hissue.trans (bind_error (formSlot_trap hfree hslot))) hw
    · obtain ⟨g, hg1⟩ := s.me_readOpt d.sa
      obtain ⟨g', hg2⟩ := (s.readOpt d.sa).2.me_readOpt d.sb
      have hwait := run_wait hl (hissue.trans (bind_run (formSlot_ok (.inl hfull)) (bind_error (pushCop_blocked hfull _ _ _ _ _ _))))
      refine ⟨_, hwait, ?_, ?_, ?_, ?_⟩
      · rw [State.me_wait]
      · rw [State.me_wait, hg2, hg1]
      · have hread := State.sameStore_trans (s.sameStore_readOpt d.sa) ((s.readOpt d.sa).2.sameStore_readOpt d.sb)
        exact State.sameStore_trans hread (State.sameStore_trans (State.sameStore_unpop _ s) (State.sameStore_modCtx _ _ _))
      · rw [State.me_wait, hg2, hg1]
        exact Ctx.sameBut_mono (Ctx.sameBut_of_regs rfl rfl rfl rfl rfl) (List.Subset.refl _) (List.nil_subset _)
  case pushed =>
    obtain ⟨ring, hcore⟩ := s.core_pushed i pfx a b qkw win rec
    refine ⟨⟨s.pushedEntry i pfx a b qkw, ?_, rfl, rfl, rfl, rfl, rfl, rfl, rfl, rfl, rfl, rfl, rfl⟩, ?_, ?_, s.sameStore_pushed _ _ _ _ _ _ _,
      s.sameOthers_pushed _ _ _ _ _ _ _, s.sameSpecials_pushed _ _ _ _ _ _ _, s.sameBut_pushed _ _ _ _ _ _ _, s.pfxReg_pushed _ _ _ _ _ _ _⟩
    · rw [hcore]
    · rw [hcore]
    · rintro la rfl
      exact s.windows_pushed _ _ _ _ _ _ _
  case fmt =>
    have hset := s.me.sameBut_setSreg 0x024 (BitVec.ofNat 64 (2 ^ 63 + w.toNat))
    have hadvance := Ctx.sameBut_advance (s.me.setSreg 0x024 (BitVec.ofNat 64 (2 ^ 63 + w.toNat))) (cidSlot s.cur)
    refine ⟨_, exec_fmt h hw, ?_, ?_, fun hloop => ?_, State.sameStore_modCtx _ _ _, State.sameOthers_modMe _ _, ?_⟩
    · rw [State.me_modMe]
      exact (hadvance.2.1 0x024 (by decide)).trans (Ctx.sreg_setSreg_self _ _ _)
    · rw [State.me_modMe]
    · rw [State.me_modMe]
      refine Ctx.pc_advance (x := s.me.setSreg 0x024 _) ?_ _
      unfold Ctx.looping
      rw [Ctx.sreg_setSreg_ne _ _ (by decide)]
      exact hloop
    · rw [State.me_modMe, ← Ctx.loopRegs_congr (x := s.me) (y := s.me.setSreg 0x024 (BitVec.ofNat 64 (2 ^ 63 + w.toNat))) rfl
        (hset.2.1 0x030 (by decide)) (hset.2.1 0x031 (by decide))]
      exact Ctx.sameBut_trans hset (Ctx.sameBut_congr_right hadvance rfl rfl rfl rfl rfl)

end Sys2Proof.Machine
end

section
/-! PROOFS. Shared stores: the address, the check, and the bytes in an L1 line or a task's buffer (R23, R92, R110, R183). -/

namespace Sys2Proof.Machine

/-! The bytes of a store. -/

/-- A map that takes the values of a list of bytes at a base holds them there and what it held elsewhere. -/
theorem SMap.get_setBytes {α : Type} [DecidableEq α] (d : Nat → α) (g : Byte → α) (bs : List Byte) (m : SMap α) (base k a : Nat) :
    SMap.get d ((bs.zipIdx k).foldl (fun m p => SMap.set d m (base + p.2) (g p.1)) m) a =
      if base + k ≤ a ∧ a < base + k + bs.length then g (bs.getD (a - (base + k)) 0) else SMap.get d m a := by
  induction bs generalizing m k with
  | nil => simp
  | cons b bs ih =>
    rw [List.zipIdx_cons, List.foldl_cons, ih, SMap.get_set, List.length_cons]
    dsimp only
    by_cases ha : a = base + k
    · subst ha
      rw [if_neg (by omega), if_pos rfl, if_pos (by omega), Nat.sub_self, List.getD_cons_zero]
    · rw [if_neg ha]
      by_cases hin : base + (k + 1) ≤ a ∧ a < base + (k + 1) + bs.length
      · rw [if_pos hin, if_pos (by omega), show a - (base + k) = a - (base + (k + 1)) + 1 by omega, List.getD_cons_succ]
      · rw [if_neg hin, if_neg (by omega)]

theorem leBytes_getD {n i : Nat} (x : Nat) (h : i < n) : (leBytes n x).getD i 0 = BitVec.ofNat 8 (x / 256 ^ i) := by
  induction n generalizing i x with
  | zero => omega
  | succ n ih =>
    rw [leBytes]
    cases i with
    | zero => simp
    | succ i => rw [List.getD_cons_succ, ih _ (by omega), Nat.div_div_eq_div_mul, pow_succ, Nat.mul_comm]

/-! The address (R181). -/

theorem memAddr_eq (x : Word) (off : BitVec 9) (n : Nat) : memAddr x off n = BitVec.ofInt 64 (x.toNat + off.toInt * n) := by
  rw [BitVec.ofInt_add, BitVec.ofInt_mul, BitVec.ofInt_natCast, BitVec.ofInt_natCast, BitVec.ofNat_toNat, BitVec.setWidth_eq]
  rfl

/-! The check of an access (R92): what it leaves, and where its leaf lies. -/

theorem State.sameButCache_setMemWord (s : State) (pa : Nat) (w : Word) : s.sameButCache (s.setMemWord pa w) := by
  obtain ⟨m, h⟩ := State.setBytes_eq (leBytes 8 w.toNat) s pa
  unfold State.setMemWord
  rw [h]
  exact ⟨_, _, _, _, _, _, _, _, _, _, rfl⟩

theorem State.sameButCache_sendOut (s : State) (r : Remote) : s.sameButCache (s.sendOut r) := ⟨_, _, _, _, _, _, _, _, _, _, rfl⟩

theorem State.sameButCache_setCompanion (s : State) (t : Nat) (e : TlbE) (use : Nat) : s.sameButCache (s.setCompanion t e use) := by
  unfold State.setCompanion
  split
  · split
    · exact s.sameButCache_sendOut _
    · exact s.sameButCache_refl
  · exact s.sameButCache_setMemWord _ _

theorem State.sameButCache_useTlb (s : State) (t : Nat) (e : TlbE) (fromHive write : Bool) : s.sameButCache (s.useTlb t e fromHive write) := by
  have hfill : s.sameButCache (if fromHive then s.fillTile t e else s) := by
    split
    · exact s.sameButCache_modTile _ _
    · exact s.sameButCache_refl
  unfold State.useTlb
  dsimp only
  split
  · exact State.sameButCache_trans hfill (State.sameButCache_setCompanion _ _ _ _)
  · exact hfill

theorem State.findTlb_covers {s : State} {t vf va : Nat} {e : TlbE} {b : Bool} (h : s.findTlb t vf va = some (e, b)) : e.covers vf va = true := by
  unfold State.findTlb at h
  split at h
  · next e' he =>
    obtain ⟨rfl, -⟩ := Prod.mk.inj (Option.some.inj h)
    exact List.find?_some (p := fun e : TlbE => e.covers vf va) he
  · split at h
    · next e' he =>
      obtain ⟨rfl, -⟩ := Prod.mk.inj (Option.some.inj h)
      exact List.find?_some (p := fun e : TlbE => e.covers vf va) he
    · cases h

/-- A translated access changes nothing but the memory system, and its leaf lies in its page as the address does (R331). -/
theorem State.translate_leaf {s v : State} {c g va kind : Nat} {who : Option Nat} {k : AKind} {l : Leaf}
    (h : s.translate c g va kind who k = .leaf l v) : s.sameButCache v ∧ l.pa % 65536 = va % 65536 := by
  unfold State.translate at h
  dsimp only at h
  split at h
  · split at h
    · cases h
    · obtain ⟨rfl, rfl⟩ := Trans.leaf.inj h
      exact ⟨s.sameButCache_refl, rfl⟩
  · split at h
    · split at h
      · cases h
      · split at h <;> cases h
    · split at h
      · cases h
      · split at h
        · next e b he =>
          have hcovers := State.findTlb_covers he
          split at h
          · cases h
          · split at h
            · cases h
            · split at h
              · cases h
              · split at h
                · cases h
                · obtain ⟨rfl, rfl⟩ := Trans.leaf.inj h
                  refine ⟨State.sameButCache_useTlb _ _ _ _ _, ?_⟩
                  unfold TlbE.covers at hcovers
                  simp only [Bool.and_eq_true, decide_eq_true_eq] at hcovers
                  obtain ⟨⟨-, hlo⟩, -⟩ := hcovers
                  show (e.ppage + (va - e.vpage)) % 65536 = va % 65536
                  unfold TlbE.ppage TlbE.vpage at *
                  omega
        · cases h

theorem State.check_of_atShared {s v : State} {p : Word} {n : Nat} {k : AKind} {l : Leaf} (h : s.atShared p n k l v) :
    s.check s.cur p n k k.code none = .shared l v := by
  unfold State.atShared checkM checkBy at h
  dsimp only at h
  split at h
  · split at h <;> cases h
  · next l' v' hc =>
    split at h
    · cases h
    · cases h
      exact hc
  · cases h
  · cases h
  · split at h <;> cases h

/-- The parts of a check that passes for shared memory. -/
theorem State.check_shared {s v : State} {c : Nat} {p : Word} {n : Nat} {k : AKind} {mk : Nat} {who : Option Nat} {l : Leaf}
    (h : s.check c p n k mk who = .shared l v) :
    checkPtr s c p n k = none ∧ s.translate c (ptrTag p) (ptrAddr p) mk who k = .leaf l v := by
  unfold State.check at h
  split at h
  · cases h
  · next hptr =>
    refine ⟨hptr, ?_⟩
    split at h
    · cases h
    · split at h
      · cases h
      · split at h
        · cases h
        · cases h
        · cases h
        · next l' v' ht =>
          split at h
          · cases h
          · cases h
            exact ht

theorem checkPtr_aligned {s : State} {c : Nat} {p : Word} {n : Nat} {k : AKind} (h : checkPtr s c p n k = none) : ptrAddr p % n = 0 := by
  by_contra hmis
  unfold checkPtr at h
  dsimp only at h
  rw [if_pos hmis] at h
  repeat' split at h
  all_goals cases h

/-- A checked access to shared memory changes nothing but the memory system, and its leaf is aligned as the access is. -/
theorem State.atShared_leaf {s v : State} {p : Word} {n : Nat} {k : AKind} {l : Leaf} (h : s.atShared p n k l v) (hn : n ∣ 65536) :
    s.sameButCache v ∧ l.pa % n = 0 := by
  obtain ⟨hptr, hleaf⟩ := State.check_shared (State.check_of_atShared h)
  obtain ⟨hsame, hpage⟩ := State.translate_leaf hleaf
  refine ⟨hsame, ?_⟩
  rw [← Nat.mod_mod_of_dvd l.pa hn, hpage, Nat.mod_mod_of_dvd _ hn]
  exact checkPtr_aligned hptr

/-! The context after a store. -/

theorem Ctx.helper_setGreg (x : Ctx) (r : Reg) (w : Word) : (x.setGreg r w).helper = x.helper := by
  unfold Ctx.setGreg
  split <;> rfl

theorem Ctx.helper_advance (x : Ctx) (n : Nat) : (x.advance n).helper = x.helper := by
  unfold Ctx.advance
  dsimp only
  split
  · split
    · exact Ctx.helper_setGreg _ _ _
    · exact Ctx.helper_setGreg _ _ _
  · rfl

/-- The step over an instruction from a context with the registers of x. -/
theorem Ctx.sameBut_advance_of {x y : Ctx} (n : Nat) (hg : y.g = x.g) (hs : y.sr = x.sr) (hv : y.v = x.v) (hm : y.m = x.m)
    (hp : y.priv = x.priv) (hpc : y.pc = x.pc) : x.sameBut (y.advance n) x.loopRegs [0x031] := by
  have hregs := Ctx.sameBut_of_regs hg hs hv hm hp
  have hstep := Ctx.sameBut_trans hregs (Ctx.sameBut_advance y n)
  rwa [List.nil_append, List.nil_append, Ctx.loopRegs_congr hpc (hregs.2.1 0x030 (by decide)) (hregs.2.1 0x031 (by decide))] at hstep

theorem State.sameOthers_read (s : State) (r : Reg) : s.sameOthers (s.read r).2 := by
  unfold State.read
  split
  · rw [State.pop_state]
    split
    · exact ⟨rfl, fun _ _ => rfl⟩
    · split
      · exact ⟨rfl, fun _ hc => State.ctx_modMe_ne _ _ hc⟩
      · exact ⟨rfl, fun _ _ => rfl⟩
  · exact ⟨rfl, fun _ _ => rfl⟩

theorem State.sameOthers_of_sameButCache {s t : State} (h : s.sameButCache t) : s.sameOthers t :=
  ⟨State.cur_of_sameButCache h, fun c _ => State.ctx_of_sameButCache h c⟩

/-- What is left of a context and of the others when its operands have been read and its access has been checked. -/
theorem State.me_of_checked {s v : State} {a b : Reg} (h : ((s.read a).2.read b).2.sameButCache v) :
    (∃ g, v.me = { s.me with got := g }) ∧ s.sameOthers v := by
  obtain ⟨g, hg⟩ := s.me_read a
  obtain ⟨g', hg'⟩ := (s.read a).2.me_read b
  have hme : v.me = ((s.read a).2.read b).2.me := by
    rw [State.me, State.cur_of_sameButCache h, State.ctx_of_sameButCache h]
    rfl
  refine ⟨⟨g', ?_⟩, State.sameOthers_trans (State.sameOthers_trans (s.sameOthers_read a) (State.sameOthers_read _ b))
    (State.sameOthers_of_sameButCache h)⟩
  rw [hme, hg', hg]

/-! The run of a store. -/

/-- A store whose checks pass has read its address and its value, and goes on with the shared store. -/
theorem run_store {s t v : State} {b a : Reg} {off : BitVec 9} {n : Nat} {l : Leaf} (h : s.canExecute) (hg : s.operandsReady [a, b] [] true)
    (hl : ((s.read a).2.read b).2.atShared (BitVec.ofInt 64 ((s.read a).1.toNat + off.toInt * n)) n .write l v)
    (hstore : storeShared l (leBytes n ((s.read a).2.read b).1.toNat) v = .ok () t) : run (store b a off n) s = .next t.goOn := by
  refine run_ok h.1 (bind_run (noPrefix_ok h.2) (bind_run hg (bind_run (readG_ok a s) (bind_run (readG_ok b _) (bind_run (a := ()) (t := t) ?_
    (next_ok t))))))
  unfold storeMem
  rw [memAddr_eq]
  exact bind_run hl hstore

/-! A control context's store (R110, R183). -/

/-- The line of L1 that a store of a context dirties. -/
def State.dirtied (s : State) (c : Nat) (l : Leaf) (bs : List Byte) (x : CacheLine) : CacheLine :=
  { x with dirty := (bs.zipIdx).foldl (fun d p => SMap.set (fun _ => none) d (l.pa % 128 + p.2)
      (some { byte := p.1, core := cidCore c, tag := s.tagOf c, pg := l.pg, ptr := l.ptr, pc := (s.ctx c).pc })) x.dirty }

section
variable (s : State) (c t : Nat) (l : Leaf) (bs : List Byte)

theorem State.dirtyBytes_eq : s.dirtyBytes c t l bs =
    s.modTile t (fun x => x.setLine (lineOf l.pa) (s.dirtied c l bs (x.line (lineOf l.pa)))) := rfl

theorem State.byteAt_dirtied (x : CacheLine) (j : Nat) : (s.dirtied c l bs x).byteAt j =
    if l.pa % 128 ≤ j ∧ j < l.pa % 128 + bs.length then bs.getD (j - l.pa % 128) 0 else x.byteAt j := by
  have hget := SMap.get_setBytes (fun _ => none)
    (fun b => some ({ byte := b, core := cidCore c, tag := s.tagOf c, pg := l.pg, ptr := l.ptr, pc := (s.ctx c).pc } : DirtyByte)) bs x.dirty
    (l.pa % 128) 0 j
  rw [Nat.add_zero] at hget
  unfold CacheLine.byteAt State.dirtied
  dsimp only
  rw [hget]
  by_cases hin : l.pa % 128 ≤ j ∧ j < l.pa % 128 + bs.length
  · rw [if_pos hin, if_pos hin]
  · rw [if_neg hin, if_neg hin]
    rfl

theorem State.line_dirtyBytes_self : ((s.dirtyBytes c t l bs).tile t).line (lineOf l.pa) = s.dirtied c l bs ((s.tile t).line (lineOf l.pa)) := by
  rw [State.dirtyBytes_eq, State.tile_modTile_self, Tile.line_setLine_self]

theorem State.line_dirtyBytes_ne {u k : Nat} (h : u ≠ t ∨ k ≠ lineOf l.pa) : ((s.dirtyBytes c t l bs).tile u).line k = (s.tile u).line k := by
  rw [State.dirtyBytes_eq]
  by_cases hu : u = t
  · subst hu
    rw [State.tile_modTile_self]
    exact SMap.get_set_ne _ _ (h.resolve_left (fun hne => hne rfl))
  · rw [State.tile_modTile_ne _ _ hu]

end

/-- The shared store of a control context dirties a line that L1 holds, or that it reads in first. -/
theorem storeShared_control {v : State} {l : Leaf} (hc : v.controlAt l)
    (hline : ((v.tile v.myTile).line (lineOf l.pa)).present = true ∨ v.canFill l.pa) (bs : List Byte) :
    storeShared l bs v = .ok () ((if ((v.tile v.myTile).line (lineOf l.pa)).present then v else v.fillL1 v.cur v.myTile l.pa l.pg).dirtyBytes
      v.cur v.myTile l bs) := by
  obtain ⟨htask, htsc, hspace⟩ := hc
  have hpcie : l.pcie = false := by simp [Leaf.pcie, hspace]
  unfold storeShared storeControl
  rw [htask, hpcie, htsc]
  cases hp : ((v.tile v.myTile).line (lineOf l.pa)).present with
  | true => rfl
  | false =>
    have hfill : v.fillable v.myTile l.pa = true := hline.resolve_left (by simp [hp])
    have hlocal : remoteLine l = pure () := if_neg (by simp [hspace])
    rw [hfill, hlocal]
    rfl

/-! A task's store (R23). -/

/-- A task that has buffered the bytes of a store. -/
def Helper.bufferBytes (h : Helper) (l : Leaf) (bs : List Byte) : Helper :=
  { h with dirty := bs.zipIdx.foldl (fun d (p : Byte × Nat) => SMap.set (fun _ => none) d (l.pa + p.2) (some p.1)) h.dirty,
           pages := SMap.set (fun _ => none) h.pages (lineOf l.pa) (some l.pg) }

theorem Helper.buffered_bufferBytes (h : Helper) (l : Leaf) (bs : List Byte) (q : Nat) : (h.bufferBytes l bs).buffered q =
    if l.pa ≤ q ∧ q < l.pa + bs.length then some (bs.getD (q - l.pa) 0) else h.buffered q := by
  have hget := SMap.get_setBytes (fun _ => none) (fun b : Byte => some b) bs h.dirty l.pa 0 q
  rwa [Nat.add_zero] at hget

theorem nodup_eraseDups (l : List Nat) : l.eraseDups.Nodup := by
  induction hn : l.length using Nat.strong_induction_on generalizing l with
  | _ n ih =>
    subst hn
    cases l with
    | nil => simp
    | cons a as =>
      rw [List.eraseDups_cons, List.nodup_cons]
      have hlen : (as.filter (fun b => !b == a)).length < (a :: as).length :=
        Nat.lt_succ_of_le (List.length_filter_le _ _)
      exact ⟨fun hmem => by simpa using List.mem_filter.mp (List.mem_eraseDups.mp hmem), ih _ hlen _ rfl⟩

/-- Bytes of one line add at most that line to those a task has written. -/
theorem Helper.dirtyLines_bufferBytes {h : Helper} {l : Leaf} {bs : List Byte} (hline : ∀ i, i < bs.length → lineOf (l.pa + i) = lineOf l.pa) :
    (h.bufferBytes l bs).dirtyLines.length ≤ h.dirtyLines.length + 1 := by
  have hmem : ∀ p ∈ (h.bufferBytes l bs).dirty, lineOf p.1 ∈ lineOf l.pa :: h.dirtyLines := by
    refine List.foldlRecOn (motive := fun d : SMap (Option Byte) => ∀ p ∈ d, lineOf p.1 ∈ lineOf l.pa :: h.dirtyLines) bs.zipIdx _
      (fun p hp => List.mem_cons_of_mem _ (Helper.mem_dirtyLines hp)) (fun d hd e he p hp => ?_)
    obtain rfl | ⟨hold, -⟩ := SMap.mem_of_mem_set hp
    · rw [hline _ (List.mem_zipIdx' he).1]
      exact List.mem_cons_self
    · exact hd p hold
  refine (List.Nodup.length_le_of_subset (nodup_eraseDups _) (fun q hq => ?_)).trans (List.length_cons (a := lineOf l.pa) (as := h.dirtyLines)).le
  obtain ⟨p, hp, rfl⟩ := List.mem_map.mp (List.mem_eraseDups.mp hq)
  exact hmem p hp

/-- An aligned access lies in one line. -/
theorem lineOf_aligned {n pa i : Nat} (hn : n ∣ 128) (ha : pa % n = 0) (hi : i < n) : lineOf (pa + i) = lineOf pa := by
  have hoff : n ∣ pa % 128 := Nat.dvd_of_mod_eq_zero ((Nat.mod_mod_of_dvd _ hn).trans ha)
  obtain ⟨m, hm⟩ := hn
  obtain ⟨q, hq⟩ := hoff
  have hlt : n * q < n * m := by omega
  have hle : n * (q + 1) ≤ n * m := Nat.mul_le_mul_left n (Nat.lt_of_mul_lt_mul_left hlt)
  rw [Nat.mul_add, Nat.mul_one] at hle
  unfold lineOf
  omega

/-- The shared store of a task that does not run solo is buffered while the task's lines are not too many. -/
theorem storeShared_task {v : State} {l : Leaf} {h : Helper} {bs : List Byte} (ht : v.inTask = true) (hh : v.me.helper = some h)
    (hsolo : h.task.solo = false) (hspace : paSpace l.pa = 0) (hroom : (h.bufferBytes l bs).dirtyLines.length ≤ 64) :
    storeShared l bs v = .ok () (v.modHelper v.cur (fun _ => h.bufferBytes l bs)) := by
  have hfew : ¬64 < (h.bufferBytes l bs).dirtyLines.length := Nat.not_lt.mpr hroom
  unfold storeShared storeTask
  rw [ht, if_pos rfl, hh]
  dsimp only
  rw [if_neg (by simp [hspace]), if_neg (by simp [hsolo])]
  exact if_neg hfew

/-! The obligation. -/

section
variable {s v : State} {b a : Reg} {off : BitVec 9} {n : Nat} {l : Leaf} (h : s.canExecute) (hg : s.operandsReady [a, b] [] true)
  (hl : ((s.read a).2.read b).2.atShared (BitVec.ofInt 64 ((s.read a).1.toNat + off.toInt * n)) n .write l v)
include h hg hl

theorem run_store_control (hn : n ∣ 65536) (hc : v.controlAt l) (hline : ((v.tile v.myTile).line (lineOf l.pa)).present = true ∨ v.canFill l.pa) :
    let y := ((s.read a).2.read b).1
    let w := if ((v.tile v.myTile).line (lineOf l.pa)).present then v else v.fillL1 v.cur v.myTile l.pa l.pg
    ∃ t, run (store b a off n) s = .next t ∧ (∀ q, t.byte q = w.byte q ∧ t.sumEnt q = w.sumEnt q) ∧
      (∀ x e o, t.tmByte x e o = w.tmByte x e o) ∧
      (∀ i, i < n → ((t.tile v.myTile).line (lineOf l.pa)).byteAt (l.pa % 128 + i) = BitVec.ofNat 8 (y.toNat / 256 ^ i)) ∧
      (∀ j, j < l.pa % 128 ∨ l.pa % 128 + n ≤ j →
        ((t.tile v.myTile).line (lineOf l.pa)).byteAt j = ((w.tile v.myTile).line (lineOf l.pa)).byteAt j) ∧
      (∀ x k, (x ≠ v.myTile ∨ k ≠ lineOf l.pa) → (t.tile x).line k = (w.tile x).line k) ∧
      s.me.sameBut t.me s.me.loopRegs [0x031] ∧ s.sameOthers t := by
  intro y w
  have hfill : v.sameButCache w := by
    simp only [w]
    split
    · exact v.sameButCache_refl
    · exact v.sameButCache_fillL1 _ _ _ _
  have hchecked := State.sameButCache_trans (State.atShared_leaf hl hn).1 hfill
  have hdirty : w.sameButCache (w.dirtyBytes v.cur v.myTile l (leBytes n y.toNat)) := by
    rw [State.dirtyBytes_eq]
    exact State.sameButCache_modTile _ _ _
  obtain ⟨⟨g, hme⟩, hothers⟩ := State.me_of_checked (State.sameButCache_trans hchecked hdirty)
  refine ⟨_, run_store h hg hl (storeShared_control hc hline _), fun q => ⟨rfl, rfl⟩, fun x e o => rfl, fun i hi => ?_, fun j hj => ?_,
    fun x k hx => State.line_dirtyBytes_ne _ _ _ _ _ hx, ?_, State.sameOthers_trans hothers (State.sameOthers_modMe _ _)⟩
  · refine (congrArg (CacheLine.byteAt · _) (State.line_dirtyBytes_self w v.cur v.myTile l _)).trans ?_
    rw [State.byteAt_dirtied, leBytes_length, if_pos (by omega), Nat.add_sub_cancel_left, leBytes_getD _ hi]
  · refine (congrArg (CacheLine.byteAt · _) (State.line_dirtyBytes_self w v.cur v.myTile l _)).trans ?_
    rw [State.byteAt_dirtied, leBytes_length, if_neg (by omega)]
  · rw [State.me_goOn, hme]
    exact Ctx.sameBut_advance_of _ rfl rfl rfl rfl rfl rfl

theorem run_store_task (hn : n ∣ 128) {k : Helper} (ht : v.inTask = true) (hk : v.me.helper = some k) (hsolo : k.task.solo = false)
    (hspace : paSpace l.pa = 0) (hroom : k.dirtyLines.length < 64) :
    let y := ((s.read a).2.read b).1
    ∃ t k', run (store b a off n) s = .next t ∧ v.sameStore t ∧ t.me.helper = some k' ∧
      (∀ i, i < n → k'.buffered (l.pa + i) = some (BitVec.ofNat 8 (y.toNat / 256 ^ i))) ∧
      (∀ q, q < l.pa ∨ l.pa + n ≤ q → k'.buffered q = k.buffered q) ∧ s.me.sameBut t.me s.me.loopRegs [0x031] := by
  intro y
  obtain ⟨hsame, halign⟩ := State.atShared_leaf hl (hn.trans (by decide))
  obtain ⟨⟨g, hme⟩, -⟩ := State.me_of_checked hsame
  have hline : ∀ i, i < (leBytes n y.toNat).length → lineOf (l.pa + i) = lineOf l.pa := by
    intro i hi
    rw [leBytes_length] at hi
    exact lineOf_aligned hn halign hi
  have hfit : (k.bufferBytes l (leBytes n y.toNat)).dirtyLines.length ≤ 64 := by
    have := Helper.dirtyLines_bufferBytes (h := k) hline
    omega
  have hbuffer : (v.modHelper v.cur (fun _ => k.bufferBytes l (leBytes n y.toNat))).me =
      { v.me with helper := some (k.bufferBytes l (leBytes n y.toNat)) } := by
    have hhelper : (v.ctx v.cur).helper = some k := hk
    refine (State.ctx_modCtx_self _ _ _).trans ?_
    dsimp only
    rw [hhelper]
    rfl
  refine ⟨_, k.bufferBytes l (leBytes n y.toNat), run_store h hg hl (storeShared_task ht hk hsolo hspace hfit),
    State.sameStore_trans (State.sameStore_modCtx v _ _) (State.sameStore_goOn _), ?_, fun i hi => ?_, fun q hq => ?_, ?_⟩
  · rw [State.me_goOn, Ctx.helper_advance, hbuffer]
  · rw [Helper.buffered_bufferBytes, leBytes_length, if_pos (by omega), Nat.add_sub_cancel_left, leBytes_getD _ hi]
  · rw [Helper.buffered_bufferBytes, leBytes_length, if_neg (by omega)]
  · rw [State.me_goOn, hbuffer, hme]
    exact Ctx.sameBut_advance_of _ rfl rfl rfl rfl rfl rfl

end

/-- Settles O28: the four sizes are one store, which dirties a line of L1 or is buffered by its task. -/
theorem sharedStoresDirtyTheirLine : Obligations.SharedStoresDirtyTheirLine := by
  unfold Obligations.SharedStoresDirtyTheirLine
  intro s b a off h hg f hf n p y u l v hl
  have hrun : exec f.1 s = run (store b a off f.2) s :=
    List.map_inj_left (f := fun f : Instr × Nat => exec f.1 s) (g := fun f => run (store b a off f.2) s) |>.mp (by rfl) f hf
  have hmem : f.2 ∈ [1, 2, 4, 8] := List.mem_map_of_mem (f := fun f : Instr × Nat => f.2) hf
  have hsize : f.2 ∣ 128 := (by decide : ∀ k ∈ [1, 2, 4, 8], k ∣ 128) f.2 hmem
  rw [hrun]
  exact ⟨run_store_control h hg hl (hsize.trans (by decide)), fun k ht hk hsolo hspace hroom => run_store_task h hg hl hsize ht hk hsolo hspace hroom⟩

end Sys2Proof.Machine
end

section
/-! PROOFS. What the windows of a context change as they close, and how an instruction that closes them first ends (R152-R156, R306). -/

namespace Sys2Proof.Machine

/-! What closing windows leaves as it was. -/

/-- At most registers and windows of a context, and the queues of tiles and cores, differ. -/
def State.sameButClosing (s : State) (c : Nat) (t : State) : Prop :=
  (∃ xs cs ts, t = { s with ctxs := xs, cores := cs, tiles := ts }) ∧ (∀ d, d ≠ c → t.ctx d = s.ctx d) ∧
    ∃ g v m w, t.ctx c = { s.ctx c with g := g, v := v, m := m, windows := w }

theorem State.sameButClosing_refl (s : State) (c : Nat) : s.sameButClosing c s :=
  ⟨⟨s.ctxs, s.cores, s.tiles, rfl⟩, fun _ _ => rfl, (s.ctx c).g, (s.ctx c).v, (s.ctx c).m, (s.ctx c).windows, rfl⟩

theorem State.sameButClosing_trans {s t u : State} {c : Nat} (h : s.sameButClosing c t) (k : t.sameButClosing c u) : s.sameButClosing c u := by
  obtain ⟨⟨xs, cs, ts, ht⟩, hothers, g, v, m, w, hc⟩ := h
  obtain ⟨⟨xs', cs', ts', hu⟩, hothers', g', v', m', w', hc'⟩ := k
  refine ⟨⟨xs', cs', ts', ?_⟩, fun d hd => (hothers' d hd).trans (hothers d hd), g', v', m', w', ?_⟩
  · rw [hu, ht]
  · rw [hc', hc]

theorem State.sameButClosing_modCtx (s : State) (c : Nat) {f : Ctx → Ctx}
    (hf : ∀ x, ∃ g v m w, f x = { x with g := g, v := v, m := m, windows := w }) : s.sameButClosing c (s.modCtx c f) := by
  obtain ⟨g, v, m, w, h⟩ := hf (s.ctx c)
  exact ⟨⟨_, _, _, rfl⟩, fun _ hd => State.ctx_modCtx_ne s f hd, g, v, m, w, (State.ctx_modCtx_self s c f).trans h⟩

theorem State.sameButClosing_modTile (s : State) (c t : Nat) (f : Tile → Tile) : s.sameButClosing c (s.modTile t f) :=
  ⟨⟨_, _, _, rfl⟩, fun _ _ => rfl, (s.ctx c).g, (s.ctx c).v, (s.ctx c).m, (s.ctx c).windows, rfl⟩

theorem State.sameButClosing_pushLink (s : State) (c k : Nat) (d : Dir) (v : QVal) : s.sameButClosing c (s.pushLink k d v) := by
  unfold State.pushLink
  split
  · exact s.sameButClosing_refl c
  · exact ⟨⟨_, _, _, rfl⟩, fun _ _ => rfl, (s.ctx c).g, (s.ctx c).v, (s.ctx c).m, (s.ctx c).windows, rfl⟩

theorem State.sameButClosing_applyWrite (s : State) (c : Nat) (w : RegWrite) : s.sameButClosing c (s.applyWrite c w) := by
  cases w <;> dsimp only [State.applyWrite]
  case g r x =>
    split
    · exact s.sameButClosing_modTile c _ _
    · split
      · exact s.sameButClosing_pushLink c _ _ _
      · refine s.sameButClosing_modCtx c (fun y => ?_)
        unfold Ctx.setGreg
        split
        · exact ⟨y.g, y.v, y.m, y.windows, rfl⟩
        · exact ⟨_, y.v, y.m, y.windows, rfl⟩
  case v r mask x => exact s.sameButClosing_modCtx c (fun y => ⟨y.g, _, y.m, y.windows, rfl⟩)
  case m r mask x =>
    refine s.sameButClosing_modCtx c (fun y => ?_)
    unfold Ctx.setMreg
    split
    · exact ⟨y.g, y.v, y.m, y.windows, rfl⟩
    · exact ⟨y.g, y.v, _, y.windows, rfl⟩

theorem State.sameButClosing_closeWindow (s : State) (c : Nat) (w : Window) : s.sameButClosing c (s.closeWindow c w) := by
  have hwrites : s.sameButClosing c ((w.writes.filter (fun x => (s.refuses c x).isNone)).foldl (fun s x => s.applyWrite c x) s) :=
    foldl_keeps (fun u => s.sameButClosing c u) _ (fun u x hu => State.sameButClosing_trans hu (u.sameButClosing_applyWrite c x))
      (s.sameButClosing_refl c)
  exact State.sameButClosing_trans hwrites
    (State.sameButClosing_modCtx _ c (f := fun x => { x with windows := x.windows.erase w }) (fun x => ⟨x.g, x.v, x.m, _, rfl⟩))

theorem State.sameButClosing_closeWindows (s : State) (c : Nat) (p : Window → Bool) : s.sameButClosing c (s.closeWindows c p) :=
  foldl_keeps (fun u => s.sameButClosing c u) _ (fun u w hu => State.sameButClosing_trans hu (u.sameButClosing_closeWindow c w))
    (s.sameButClosing_refl c)

theorem State.cur_of_sameButClosing {s t : State} {c : Nat} (h : s.sameButClosing c t) : t.cur = s.cur := by
  obtain ⟨⟨_, _, _, rfl⟩, -, -⟩ := h
  rfl

/-! An instruction that closes the windows first (R154). -/

@[simp] theorem State.closed_cur (s : State) : s.closed.cur = s.cur :=
  State.cur_of_sameButClosing (s.sameButClosing_closeWindows s.cur (fun _ => true))

theorem State.sameOthers_closed (s : State) : s.sameOthers s.closed := by
  obtain ⟨-, hothers, -⟩ := s.sameButClosing_closeWindows s.cur (fun _ => true)
  exact ⟨s.closed_cur, hothers⟩

theorem State.me_closed (s : State) : ∃ g v m w, s.closed.me = { s.me with g := g, v := v, m := m, windows := w } := by
  obtain ⟨-, -, hme⟩ := s.sameButClosing_closeWindows s.cur (fun _ => true)
  unfold State.me
  rw [State.closed_cur]
  exact hme

/-- A precise cause that an instruction raises once the windows have closed is delivered with the instruction's address (R156, R306). -/
theorem runClose_trap {m : M Unit} {s t : State} {c : Cause} {tv : Word} (hl : s.me.live = true) (hc : s.canClose) (hr : s.closesClean)
    (h : m s.closed = .error (.trap c tv) t) (hw : t.canClose) : runClose m s = .next (s.raised t c tv) := by
  have hwindows : t.windowsReady t.cur = true := hw
  unfold runClose runRaw
  rw [bind_ok (closeAll_ok hc hr)]
  simp [keepQueues, h, hl, hwindows, State.raised]

end Sys2Proof.Machine
end

section
/-! PROOFS. HALT, UPRET and YIELD: the end of a task, of an upcall and of a slice (R48, R57, R143, R174, R178, R179, R180). -/

namespace Sys2Proof.Machine

/-! HALT (R178). -/

/-- A task is to commit: its helper executes nothing more and notes whether its frame is kept. -/
def State.halted (s : State) (retain : Bool) : State :=
  (s.modHelper s.cur (fun h => { h with halting := some retain })).modMe (fun y => { y with wait := .none, waitOp := 0, issued := none })

theorem State.me_halted (s : State) (retain : Bool) : (s.halted retain).me =
    { s.me with helper := s.me.helper.map (fun h => { h with halting := some retain }), wait := .none, waitOp := 0, issued := none } := by
  unfold State.halted
  rw [State.me_modMe]
  exact congrArg (fun y : Ctx => { y with wait := .none, waitOp := 0, issued := none }) (State.ctx_modCtx_self s s.cur _)

theorem State.sameOthers_halted (s : State) (retain : Bool) : s.sameOthers (s.halted retain) :=
  State.sameOthers_trans (t := s.modHelper s.cur (fun h => { h with halting := some retain }))
    (State.sameOthers_modMe s _) (State.sameOthers_modMe _ _)

section
variable {s : State} {a : Reg} (h : s.canExecuteClosed)
include h

theorem exec_halt_task (hg : s.closed.operandsReady [a] [] true) (ht : s.closed.inTask = true) :
    exec (.halt a) s = .next ((s.closed.read a).2.halted ((s.closed.read a).1.getLsbD 0)) := by
  obtain ⟨hl, hc, hr, hp⟩ := h
  refine runClose_ok hl hc hr (bind_run (noPrefix_ok hp) (bind_run (t := s.closed) (a := s.closed) rfl ?_))
  rw [ht]
  exact bind_run trapIf_false (bind_run hg (bind_run (readG_ok a _) rfl))

theorem exec_halt_control (ht : s.closed.inTask = false) (hw : s.closed.canClose) :
    exec (.halt a) s = .next (s.raised s.closed .contextKind 0) := by
  obtain ⟨hl, hc, hr, hp⟩ := h
  refine runClose_trap hl hc hr (bind_run (noPrefix_ok hp) (bind_run (t := s.closed) (a := s.closed) rfl ?_)) hw
  rw [ht]
  exact bind_error trapIf_true

end

/-! UPRET (R57, R143, R180). -/

/-- A context whose upcall has ended, where it goes on. -/
def Ctx.upcallLeft (x : Ctx) : Ctx := (x.completed 0).resumeUpcall.endUpcall.goTo (x.sreg 0x113)

/-- A context whose upcall has ended and that vacates its tile (R48). -/
def Ctx.vacating (x : Ctx) : Ctx := { (x.completed 0).endUpcall with pc := x.pc + 4, saveReq := 5 }

/-- The state after UPRET has read its operand (R180). -/
def State.upcallEnded (u : State) (vacate : Bool) : State :=
  if vacate && u.losing u.myTile then (u.modMe (fun y => { (y.completed 0).endUpcall with pc := y.pc + 4 })).askVacate u.cur
  else u.modMe Ctx.upcallLeft

theorem exec_upret {s : State} {a : Reg} (h : s.canExecuteClosed) (hg : s.closed.operandsReady [a] [] true) (hc : cidSlot s.cur = 0) :
    let t := (s.closed.read a).2.upcallEnded ((s.closed.read a).1.getLsbD 0)
    exec (.upret a) s = .next t ∧ exec (.upretVacate a) s = .next t := by
  obtain ⟨hl, hw, hr, hp⟩ := h
  have hrun : upret a s.closed = .ok () ((s.closed.read a).2.upcallEnded ((s.closed.read a).1.getLsbD 0)) := by
    refine bind_run (noPrefix_ok hp) (bind_run (t := s.closed) (a := s.closed) rfl ?_)
    rw [show (cidSlot s.closed.cur != 0) = false by simp [hc]]
    refine bind_run trapIf_false (bind_run hg (bind_run (readG_ok a _) (bind_run (t := (s.closed.read a).2) (a := (s.closed.read a).2) rfl ?_)))
    unfold State.upcallEnded
    split <;> rfl
  exact ⟨runClose_ok hl hw hr hrun, runClose_ok hl hw hr hrun⟩

section
variable {u : State} {vacate : Bool}

theorem State.me_upcallEnded_left (h : vacate = false ∨ u.losing u.myTile = false) : (u.upcallEnded vacate).me = u.me.upcallLeft := by
  unfold State.upcallEnded
  rw [if_neg (by simpa [Classical.or_iff_not_imp_left] using h), State.me_modMe]

theorem State.me_upcallEnded_vacates (hv : vacate = true) (hl : u.losing u.myTile = true) : (u.upcallEnded vacate).me = u.me.vacating := by
  unfold State.upcallEnded
  rw [if_pos (by simp [hv, hl])]
  exact (State.me_modMe _ _).trans (congrArg (fun y : Ctx => { y with saveReq := 5 }) (State.me_modMe u _))

theorem State.sameOthers_upcallEnded : u.sameOthers (u.upcallEnded vacate) := by
  unfold State.upcallEnded
  split
  · exact State.sameOthers_trans (State.sameOthers_modMe u _) (State.sameOthers_modMe _ _)
  · exact State.sameOthers_modMe u _

end

/-! The parts of a context whose upcall has ended. -/

section
variable (x : Ctx)

/-- A jump leaves everything but the program counter and the activity of the loop. -/
theorem Ctx.goTo_eq (t : Word) : ∃ m, x.goTo t = { x with pc := t, sr := m } ∧
    (∀ n, n ≠ 0x031 → SMap.get srReset m n = x.sreg n) ∧
    SMap.get srReset m 0x031 = if x.looping && !(x.sreg 0x030 ≤ t && t < x.loopEnd) then x.sreg 0x031 &&& ~~~((1 : Word) <<< 63)
      else x.sreg 0x031 := by
  unfold Ctx.goTo
  split
  · exact ⟨_, rfl, fun n hn => Ctx.sreg_setSreg_ne x _ hn, Ctx.sreg_setSreg_self x _ _⟩
  · exact ⟨x.sr, rfl, fun _ _ => rfl, rfl⟩

/-- The loop that comes back changes no other special register and nothing else but what is set aside. -/
theorem Ctx.resumeUpcall_eq : ∃ m p, x.resumeUpcall = { x with sr := m, susp := p } := by
  unfold Ctx.resumeUpcall
  split
  · exact ⟨_, _, rfl⟩
  · exact ⟨_, _, rfl⟩

theorem Ctx.sreg_endUpcall (n : Nat) : x.endUpcall.sreg n = if n = 0x114 then 0 else x.sreg n := Ctx.sreg_setSreg x 0x114 n 0

theorem Ctx.upcallLeft_frame : x.upcallLeft.pc = x.sreg 0x113 ∧ x.upcallLeft.sreg 0x114 = 0 ∧
    x.upcallLeft.gains = (if x.gainTaken then x.gains.drop 1 else x.gains) ∧ x.upcallLeft.gainOvf = false ∧
    ∀ r, x.upcallLeft.greg r = x.greg r := by
  obtain ⟨m, hgo, hother, -⟩ := (x.completed 0).resumeUpcall.endUpcall.goTo_eq (x.sreg 0x113)
  obtain ⟨m', p, hresume⟩ := (x.completed 0).resumeUpcall_eq
  have hcause : SMap.get srReset m 0x114 = 0 := (hother 0x114 (by decide)).trans (Ctx.sreg_endUpcall _ _)
  unfold Ctx.upcallLeft
  rw [hgo, hresume]
  exact ⟨rfl, hcause, rfl, rfl, fun r => rfl⟩

/-- The loop that the upcall had set aside is the context's again, and ends where the context goes on outside its body (R174). -/
theorem Ctx.loop_upcallLeft (h : (x.sreg 0x114).getLsbD 2 = true) :
    let lp : Word := SMap.get (fun _ => 0) x.susp 4
    let lc : Word := SMap.get (fun _ => 0) x.susp 5
    x.upcallLeft.sreg 0x030 = lp ∧ x.upcallLeft.sreg 0x031 = if lc.getLsbD 63 ∧
      ¬(lp ≤ x.sreg 0x113 ∧ x.sreg 0x113 < lp + 4 * (lc.extractLsb' 0 16).setWidth 64)
    then lc &&& ~~~(1#64 <<< 63) else lc := by
  have hresume : (x.completed 0).resumeUpcall = (x.completed 0).resumeLoop 4 := if_pos (by
    rw [show (x.completed 0).sreg 0x114 = x.sreg 0x114 from rfl, h, Bool.true_or])
  have hstart : (x.completed 0).resumeUpcall.endUpcall.sreg 0x030 = SMap.get (fun _ => 0) x.susp 4 := by
    rw [hresume, Ctx.sreg_endUpcall, if_neg (by decide)]
    exact (Ctx.sreg_setSreg_ne _ _ (by decide)).trans (Ctx.sreg_setSreg_self _ _ _)
  have hctl : (x.completed 0).resumeUpcall.endUpcall.sreg 0x031 = SMap.get (fun _ => 0) x.susp 5 := by
    rw [hresume, Ctx.sreg_endUpcall, if_neg (by decide)]
    exact Ctx.sreg_setSreg_self _ _ _
  obtain ⟨m, hgo, hother, hloop⟩ := (x.completed 0).resumeUpcall.endUpcall.goTo_eq (x.sreg 0x113)
  unfold Ctx.looping Ctx.loopEnd at hloop
  rw [hctl, hstart] at hloop
  unfold Ctx.upcallLeft
  rw [hgo]
  refine ⟨(hother 0x030 (by decide)).trans hstart, hloop.trans (if_congr ?_ rfl rfl)⟩
  rw [← Bool.decide_and, Bool.and_eq_true, Bool.not_eq_true', decide_eq_false_iff_not]

end

/-! YIELD (R179). -/

section
variable {s : State} {d : Reg} (h : s.canExecuteClosed) (hg : s.closed.operandsReady [] [d] true)
include h hg

theorem exec_yield_elsewhere (hc : cidSlot s.cur ≠ 0 ∨ isTsc s.cur = true) :
    exec (.yield d) s = .next ((s.closed.write d 0).goOn) := by
  obtain ⟨hl, hw, hr, hp⟩ := h
  refine runClose_ok hl hw hr (bind_run (noPrefix_ok hp) (bind_run hg (bind_run (t := s.closed) (a := s.closed) rfl ?_)))
  exact ite_run_pos (by simpa using hc) rfl

/-- In a control context a free value says whether another one is ready (log 5). -/
theorem exec_yield_control (hc : cidSlot s.cur = 0) (ht : isTsc s.cur = false) :
    let ready := (Config.freeValue s.closed.free).getLsbD 0
    let v := (s.closed.draw.2.write d (if ready then 1 else 0)).goOn
    exec (.yield d) s = .next (if ready then v.askSave v.cur 3 else v) := by
  obtain ⟨hl, hw, hr, hp⟩ := h
  refine runClose_ok hl hw hr (bind_run (noPrefix_ok hp) (bind_run hg (bind_run (t := s.closed) (a := s.closed) rfl ?_)))
  exact ite_run_neg (by simp [hc, ht]) rfl

end

/-- A save is asked for where none has been. -/
theorem State.saveReq_askSave {s : State} {c : Nat} (reason : Nat) (hl : (s.ctx c).live = true) (hr : (s.ctx c).saveReq = 0) :
    ((s.askSave c reason).ctx c).saveReq = reason := by
  simp [State.askSave, hl, hr]

theorem State.askSave_cur (s : State) (c reason : Nat) : (s.askSave c reason).cur = s.cur := by
  unfold State.askSave
  split <;> rfl

theorem Ctx.live_advance (x : Ctx) (n : Nat) : (x.advance n).live = x.live ∧ (x.advance n).saveReq = x.saveReq := by
  unfold Ctx.advance
  dsimp only
  split
  · split
    · exact ⟨Ctx.setGreg_live _ _ _, Ctx.setGreg_saveReq _ _ _⟩
    · exact ⟨Ctx.setGreg_live _ _ _, Ctx.setGreg_saveReq _ _ _⟩
  · exact ⟨rfl, rfl⟩

/-- A register result leaves the context live or not as it was, and its request for a save. -/
theorem State.live_write (s : State) (r : Reg) (x : Word) :
    (s.write r x).cur = s.cur ∧ (s.write r x).me.live = s.me.live ∧ (s.write r x).me.saveReq = s.me.saveReq := by
  have hwrite := s.sameButClosing_applyWrite s.cur (.g r x)
  have hcur : (s.write r x).cur = s.cur := State.cur_of_sameButClosing hwrite
  obtain ⟨-, -, g, v, m, w, hc⟩ := hwrite
  have hme : (s.write r x).me = { s.me with g := g, v := v, m := m, windows := w } := by
    unfold State.me
    rw [hcur]
    exact hc
  rw [hme]
  exact ⟨hcur, rfl, rfl⟩

/-- A context that has gone on asks for its save. -/
theorem State.saveReq_yielded {s : State} (d : Reg) (x : Word) (reason : Nat) (hl : s.me.live = true) (hr : s.me.saveReq = 0) :
    (((s.write d x).goOn).askSave ((s.write d x).goOn).cur reason).me.saveReq = reason := by
  obtain ⟨-, hlive, hreq⟩ := s.live_write d x
  obtain ⟨hlive', hreq'⟩ := (s.write d x).me.live_advance (cidSlot (s.write d x).cur)
  rw [← State.me_goOn] at hlive' hreq'
  unfold State.me
  rw [State.askSave_cur]
  exact State.saveReq_askSave reason (hlive'.trans (hlive.trans hl)) (hreq'.trans (hreq.trans hr))

/-- Settles O39: HALT, UPRET and YIELD are each one run, by what the instruction finds, and the parts of the context that each leaves. -/
theorem helpersUpcallsAndSlicesEnd : Obligations.HelpersUpcallsAndSlicesEnd := by
  unfold Obligations.HelpersUpcallsAndSlicesEnd
  refine ⟨fun s a h hg => ?_, fun s d h hg => ?_⟩
  · have hothers : s.sameOthers (s.closed.read a).2 := State.sameOthers_trans s.sameOthers_closed (State.sameOthers_read _ a)
    refine ⟨fun k ht hk => ?task, exec_halt_control h, fun hc hx => ?resumes, fun hc hx hl => ?vacates⟩
    case task =>
      refine ⟨_, exec_halt_task h hg ht, ?_⟩
      rw [State.me_halted, hk]
      exact ⟨rfl, rfl, rfl, State.sameOthers_trans hothers (State.sameOthers_halted _ _)⟩
    case resumes =>
      obtain ⟨hexec, hvacate⟩ := exec_upret h hg hc
      obtain ⟨hpc, hcause, hgains, hovf, hgreg⟩ := (s.closed.read a).2.me.upcallLeft_frame
      refine ⟨_, hexec, hvacate, ?_⟩
      rw [State.me_upcallEnded_left hx]
      exact ⟨hpc, hcause, hgains, hovf, hgreg, State.sameOthers_trans hothers State.sameOthers_upcallEnded, Ctx.loop_upcallLeft _⟩
    case vacates =>
      obtain ⟨hexec, hvacate⟩ := exec_upret h hg hc
      refine ⟨_, hexec, hvacate, ?_⟩
      rw [State.me_upcallEnded_vacates hx hl]
      exact ⟨rfl, Ctx.sreg_endUpcall _ _, rfl, fun _ => rfl, State.sameOthers_trans hothers State.sameOthers_upcallEnded⟩
  · refine ⟨exec_yield_elsewhere h hg, fun hc ht => ⟨fun hready => ?alone, fun hready => ?ready⟩⟩
    case alone =>
      have hexec := exec_yield_control h hg hc ht
      simp only [hready, Bool.false_eq_true, ↓reduceIte] at hexec
      exact hexec
    case ready =>
      have hexec := exec_yield_control h hg hc ht
      simp only [hready, ↓reduceIte] at hexec
      have hcur : (s.closed.draw.2.write d 1).goOn.cur = s.closed.cur := (State.live_write s.closed.draw.2 d 1).1
      have hlive : s.closed.me.live = true := by
        obtain ⟨_, _, _, _, hme⟩ := s.me_closed
        rw [hme]
        exact h.1
      exact ⟨_, hexec, congrArg (State.askSave _ · 3) hcur, State.saveReq_yielded (s := s.closed.draw.2) d 1 3 hlive⟩

end Sys2Proof.Machine
end

section
/-! PROOFS. The comb's four instructions (R58-R60): the run that they share, and what each answers and sets. -/

namespace Sys2Proof.Machine

/-! The run of the four instructions. -/

section
variable {s : State} {d a : Reg} {f : Word → State → Word × State}

/-- Outside a task G[d] takes what the instruction answers. -/
theorem territory_run (h : s.canExecute) (hg : s.operandsReady [a] [d] true) (ht : s.inTask = false) :
    run (territory d a f) s =
      .next ((((f (s.read a).1 (s.read a).2).2).write d (f (s.read a).1 (s.read a).2).1).goOn) := by
  refine run_ok h.1 (bind_run (noPrefix_ok h.2) (bind_run (t := s) (a := s) rfl ?_))
  rw [ht]
  exact bind_run trapIf_false (bind_run hg (bind_run (readG_ok a s) (bind_run (t := (s.read a).2) (a := (s.read a).2) rfl rfl)))

theorem territory_trap (h : s.canExecute) (ht : s.inTask = true) (hw : s.canClose) :
    run (territory d a f) s = .next (s.raised s .combContext 0) := by
  refine run_trap h.1 (bind_run (noPrefix_ok h.2) (bind_run (t := s) (a := s) rfl ?_)) hw
  rw [ht]
  exact bind_error trapIf_true

end

/-! The combs after a register has been read, and the result after it has been written. -/

theorem State.combs_read (s : State) (r : Reg) : (s.read r).2.combs = s.combs := by
  unfold State.read
  split
  · rw [State.pop_state]
    split
    · rfl
    · split <;> rfl
  · rfl

theorem State.combOf_congr {s t : State} (h : t.combs = s.combs) (u : Nat) : t.combOf u = s.combOf u := by
  unfold State.combOf
  rw [h]

theorem State.write_register {r : Reg} (h : isQueue r = false) (s : State) (x : Word) : s.write r x = s.modMe (fun y => y.setGreg r x) := by
  have h28 : r ≠ 28 := fun h28 => by subst h28; exact absurd h (by decide)
  unfold State.write State.applyWrite
  dsimp only
  rw [if_neg h28, if_neg (by simp [h])]
  rfl

theorem Ctx.advance_eq {x : Ctx} (h : x.looping = false) (n : Nat) : x.advance n = { x.completed n with pc := x.pc + 4 } := by
  have hloop : (x.completed n).looping = false := h
  unfold Ctx.advance
  dsimp only
  rw [if_neg (by simp [hloop])]
  rfl

/-- The result of an instruction that has gone on outside a loop. -/
theorem State.greg_result {s : State} {d : Reg} (hq : isQueue d = false) (hd : d ≠ 0) (hl : s.me.looping = false) (x : Word) :
    ((s.write d x).goOn).me.greg d = x := by
  have hloop : (s.me.setGreg d x).looping = false := by
    unfold Ctx.looping
    rwa [Ctx.sreg_setGreg]
  rw [State.me_goOn, State.write_register hq, State.me_modMe, Ctx.advance_eq hloop]
  exact Ctx.greg_setGreg_self _ _ hd

section
variable {s : State} {d : Reg} (hq : isQueue d = false) (x : Word)
include hq

theorem State.combs_result : ((s.write d x).goOn).combs = s.combs := by
  rw [State.write_register hq]
  rfl

theorem State.tile_result (t : Nat) : ((s.write d x).goOn).tile t = s.tile t := by
  rw [State.write_register hq]
  rfl

end

/-! A setting of a comb. -/

/-- A change of a comb that keeps its yard, its job and its tiles is the change of the comb of each of its tiles. -/
theorem State.combOf_modComb {s : State} {t : Nat} {c : Comb} (hc : s.combOf t = some c) {f : Comb → Comb} (hf : ∀ b, (f b).tiles = b.tiles) :
    (s.modComb c.yard c.job f).combOf t = some (f c) := by
  have hsame : ((fun b : Comb => b.tiles.contains t) ∘ fun b => if b.yard == c.yard && b.job == c.job then f b else b) =
      fun b : Comb => b.tiles.contains t := by
    funext b
    dsimp only [Function.comp]
    split
    · rw [hf]
    · rfl
  unfold State.combOf State.modComb
  rw [List.find?_map, hsame]
  unfold State.combOf at hc
  rw [hc]
  simp

section
variable {s : State} {c : Comb} (hc : s.combOf s.myTile = some c) (x : Word)
include hc

theorem State.chold_eq : s.chold x = (if c.hold then 1 else 0, s.modComb c.yard c.job (fun b => b.setHold s.cal (x.getLsbD 0))) := by
  unfold State.chold
  rw [hc]

theorem State.cfloor_eq : s.cfloor x =
    (BitVec.ofNat 64 c.floor, s.modComb c.yard c.job (fun b => b.setFloor s.cal (Nat.min (Nat.max x.toNat 1) 1024))) := by
  unfold State.cfloor
  rw [hc]

end

/-! CCEDE (R60). -/

/-- What CCEDE answers: the number of the first test that fails, or 0. -/
theorem State.ccede_code {s : State} {c : Comb} (hc : s.combOf s.myTile = some c) (x : Word) :
    (s.ccede x).1 = if 1024 ≤ x.toNat ∨ x.toNat ∉ c.tiles then 1 else if c.hold then 2 else if c.tiles.length ≤ c.floor then 3
      else if (∀ u ∈ neighbours x.toNat, ∀ b, s.combOf u = some b → b.yard = c.yard → b.job = c.job) then 4
      else if (∃ r, (s.tile x.toNat).cede = some r ∧ s.cal < r + 65536) then 5 else 0 := by
  unfold State.ccede
  rw [hc]
  dsimp only
  simp only [apply_ite Prod.fst]
  refine if_congr (by simp) rfl (if_congr Iff.rfl rfl (if_congr Iff.rfl rfl (if_congr ?beside rfl (if_congr ?pending rfl rfl))))
  case beside =>
    rw [Bool.not_eq_true', List.any_eq_false]
    refine forall_congr' fun u => imp_congr_right fun _ => ?_
    cases s.combOf u with
    | none => simp
    | some b => simp
  case pending =>
    cases (s.tile x.toNat).cede with
    | none => simp
    | some r => simp

/-- A request is noted at the tile where the answer is 0, and otherwise nothing changes. -/
theorem State.ccede_state {s : State} {c : Comb} (hc : s.combOf s.myTile = some c) (x : Word) :
    ((s.ccede x).1 = 0 ∧ (s.ccede x).2 = s.modTile x.toNat (fun y => { y with cede := some s.cal })) ∨
      ((s.ccede x).1 ≠ 0 ∧ (s.ccede x).2 = s) := by
  unfold State.ccede
  rw [hc]
  dsimp only
  split_ifs
  on_goal 6 => exact .inl ⟨rfl, rfl⟩
  all_goals exact .inr ⟨by dsimp only; decide, rfl⟩

theorem State.combs_ccede {s : State} {c : Comb} (hc : s.combOf s.myTile = some c) (x : Word) : (s.ccede x).2.combs = s.combs := by
  obtain ⟨-, h⟩ | ⟨-, h⟩ := State.ccede_state hc x
  · rw [h]
    rfl
  · rw [h]

/-! The obligation. -/

section
variable {s : State} {d a : Reg} (h : s.canExecute) (hg : s.operandsReady [a] [d] true) (hq : isQueue d = false) (hd : d ≠ 0)
  (hl : s.me.looping = false) (ht : s.inTask = false)
include h hg hq hd hl ht

/-- The end of one of the four instructions: G[d] holds its answer, and it leaves the tiles and combs that it has set. -/
theorem territory_result (f : Word → State → Word × State) (hf : ∀ x u, (f x u).2.me.looping = u.me.looping) :
    ∃ t, run (territory d a f) s = .next t ∧ t.combs = (f (s.read a).1 (s.read a).2).2.combs ∧
      (∀ k, t.tile k = (f (s.read a).1 (s.read a).2).2.tile k) ∧ t.me.greg d = (f (s.read a).1 (s.read a).2).1 := by
  have hloop : (f (s.read a).1 (s.read a).2).2.me.looping = false := by
    obtain ⟨g, hme⟩ := s.me_read a
    rw [hf, hme]
    exact hl
  exact ⟨_, territory_run h hg ht, State.combs_result hq _, State.tile_result hq _, State.greg_result hq hd hloop _⟩

end

theorem State.looping_ccede (x : Word) (u : State) : (u.ccede x).2.me.looping = u.me.looping := by
  unfold State.ccede
  split
  · rfl
  · dsimp only
    split_ifs <;> rfl

theorem clampedFloor (n : Nat) : Nat.min (Nat.max n 1) 1024 = if n = 0 then 1 else if 1024 < n then 1024 else n := by
  show min (max n 1) 1024 = _
  split_ifs <;> omega

theorem clampedAdjustment (v : Int) : max (-1024) (min 1024 v) = if v < -1024 then -1024 else if 1024 < v then 1024 else v := by
  split_ifs <;> omega

/-- Settles O43: the four instructions are one run, by what each of them answers and sets. -/
theorem combSettingsAndRequests : Obligations.CombSettingsAndRequests := by
  unfold Obligations.CombSettingsAndRequests
  intro s d a c h hg hq hd hl
  refine ⟨fun ht hw i hi => ?task, fun ht hc => ?settings⟩
  case task =>
    simp only [List.mem_cons, List.not_mem_nil, or_false] at hi
    obtain rfl | rfl | rfl | rfl := hi <;> exact territory_trap h ht hw
  case settings =>
    have hcombs := s.combs_read a
    have hmine : (s.read a).2.myTile = s.myTile := congrArg cidTile (s.read_cur a)
    have hadj (k : Nat) : ((s.read a).2.tile k).adj = (s.tile k).adj := by
      obtain ⟨_, _, hk⟩ := s.tile_read a k
      rw [hk]
    have hcede (k : Nat) : ((s.read a).2.tile k).cede = (s.tile k).cede := by
      obtain ⟨_, _, hk⟩ := s.tile_read a k
      rw [hk]
    have hread : (s.read a).2.combOf (s.read a).2.myTile = some c := by
      rw [State.combOf_congr hcombs, hmine]
      exact hc
    have hexec := fun f hf => territory_result h hg hq hd hl ht f hf
    refine ⟨?hold, ?floor, ?load, ?cede⟩
    case hold =>
      obtain ⟨t, hnext, htcombs, -, hgreg⟩ := hexec (fun x s => s.chold x) (fun x u => by unfold State.chold; split <;> rfl)
      rw [State.chold_eq hread] at htcombs hgreg
      exact ⟨t, _, hnext, (State.combOf_congr htcombs _).trans (State.combOf_modComb ((State.combOf_congr hcombs _).trans hc) (fun _ => rfl)),
        rfl, rfl, rfl, hgreg⟩
    case floor =>
      obtain ⟨t, hnext, htcombs, -, hgreg⟩ := hexec (fun x s => s.cfloor x) (fun x u => by unfold State.cfloor; split <;> rfl)
      rw [State.cfloor_eq hread] at htcombs hgreg
      exact ⟨t, _, hnext, (State.combOf_congr htcombs _).trans (State.combOf_modComb ((State.combOf_congr hcombs _).trans hc) (fun _ => rfl)),
        clampedFloor _, rfl, rfl, hgreg⟩
    case load =>
      obtain ⟨t, hnext, htcombs, htile, hgreg⟩ := hexec (fun x s => s.cload x) (fun _ _ => rfl)
      refine ⟨t, hnext, htcombs.trans hcombs, ?_, hgreg.trans ?_⟩
      · rw [htile, ← hmine]
        exact (congrArg Tile.adj (State.tile_modTile_self _ _ _)).trans (clampedAdjustment _)
      · show BitVec.ofInt 64 ((s.read a).2.tile (s.read a).2.myTile).adj = _
        rw [hadj, hmine]
    case cede =>
      obtain ⟨t, hnext, htcombs, htile, hgreg⟩ := hexec (fun x s => s.ccede x) State.looping_ccede
      refine ⟨t, hnext, htcombs.trans ((State.combs_ccede hread _).trans hcombs), ?_, fun hzero => ?_⟩
      · rw [hgreg, State.ccede_code hread]
        simp only [State.combOf_congr hcombs, hcede, s.read_cal a]
      · obtain ⟨-, hset⟩ | ⟨hcode, -⟩ := State.ccede_state hread (s.read a).1
        · rw [htile]
          exact (congrArg (fun v : State => (v.tile _).cede) hset).trans
            ((congrArg Tile.cede (State.tile_modTile_self _ _ _)).trans (congrArg some (s.read_cal a)))
        · exact absurd (hgreg.symm.trans hzero) hcode

end Sys2Proof.Machine
end

section
/-! PROOFS. Two ways in which a step of a fold brings something about that stands at its end. -/

namespace Sys2Proof.Machine

/-- What the step at an element brings about from what holds until then, and every step keeps, holds at the end. -/
theorem foldl_reaches {σ α : Type} {P Q : σ → Prop} {f : σ → α → σ} {a : α} {l : List α} (ha : a ∈ l)
    (hbefore : ∀ s x, x ≠ a → P s → P (f s x)) (hstep : ∀ s, P s → Q (f s a)) (hafter : ∀ s x, Q s → Q (f s x)) {s : σ} (h : P s) :
    Q (l.foldl f s) := by
  induction l generalizing s with
  | nil => cases ha
  | cons x l ih =>
    rw [List.foldl_cons]
    by_cases hx : x = a
    · subst hx
      exact foldl_keeps Q l hafter (hstep s h)
    · exact ih ((List.mem_cons.mp ha).resolve_left (Ne.symm hx)) (hbefore s x hx h)

/-- What the steps at the other elements leave is, at the end, what the one step at an element makes of it. -/
theorem foldl_once {σ α β : Type} {f : σ → α → σ} {g : σ → β} {a : α} {l : List α} (ha : a ∈ l) (hn : l.Nodup)
    (hothers : ∀ s x, x ≠ a → g (f s x) = g s) (s : σ) : ∃ u, g u = g s ∧ g (l.foldl f s) = g (f u a) := by
  induction l generalizing s with
  | nil => cases ha
  | cons x l ih =>
    obtain ⟨hx, hl⟩ := List.nodup_cons.mp hn
    rw [List.foldl_cons]
    by_cases hxa : x = a
    · subst hxa
      exact ⟨s, rfl, List.foldlRecOn (motive := fun v => g v = g (f s x)) l f rfl
        (fun v hv y hy => (hothers v y (fun heq => hx (heq ▸ hy))).trans hv)⟩
    · obtain ⟨u, hu, hend⟩ := ih ((List.mem_cons.mp ha).resolve_left (Ne.symm hxa)) hl (f s x)
      exact ⟨u, hu.trans (hothers s x hxa), hend⟩

end Sys2Proof.Machine
end

section
/-! PROOFS. Bytes that an agent writes at home line by line (R105, R325). -/

namespace Sys2Proof.Machine

theorem State.sameButHome_writeAgent (s : State) (yard : Nat) (pg : Pg) (fuel pa : Nat) (bs : List Byte) :
    s.sameButHome (s.writeAgent yard pg fuel pa bs) := by
  induction fuel generalizing s pa bs with
  | zero => exact s.sameButHome_refl
  | succ fuel ih =>
    unfold State.writeAgent
    split
    · exact s.sameButHome_refl
    · exact State.sameButHome_trans (s.sameButHome_homeWrite _ _ _ _) (ih _ _ _)

theorem State.sameButHome_writeBlock (s : State) (yard pa : Nat) (pg : Pg) (bs : List Byte) : s.sameButHome (s.writeBlock yard pa pg bs) :=
  s.sameButHome_writeAgent _ _ _ _ _

theorem State.isDead_of_sameButHome {s t : State} (h : s.sameButHome t) (tag : Nat) : t.isDead tag = s.isDead tag := by
  obtain ⟨_, _, _, _, _, _, rfl⟩ := h
  rfl

/-- The first bytes of a block lie in the line of its address. -/
theorem lineOf_chunk {bs : List Byte} {pa : Nat} {p : Nat × Byte} (h : p ∈ (bs.take (128 - pa % 128)).zipIdx.map (fun q => (pa + q.2, q.1))) :
    lineOf p.1 = lineOf pa := by
  obtain ⟨hlo, hhi⟩ := mem_placedAt h
  have hlen : (bs.take (128 - pa % 128)).length ≤ 128 - pa % 128 := List.length_take_le _ _
  unfold lineOf
  omega

/-- Nothing is written into a line before the first one of a block. -/
theorem State.byte_writeAgent_before (s : State) (yard : Nat) (pg : Pg) (fuel : Nat) {pa a : Nat} (bs : List Byte) (h : lineOf a < lineOf pa) :
    (s.writeAgent yard pg fuel pa bs).byte a = s.byte a := by
  induction fuel generalizing s pa bs with
  | zero => rfl
  | succ fuel ih =>
    unfold State.writeAgent
    dsimp only
    split
    · rfl
    · rw [ih _ _ (by unfold lineOf at *; omega)]
      exact State.byte_homeWrite_otherLine _ _ _ (fun p hp => lineOf_chunk hp) (Nat.ne_of_lt h)

theorem mem_placed {bs : List Byte} {i : Nat} (pa : Nat) (hi : i < bs.length) : (pa + i, bs[i]) ∈ bs.zipIdx.map (fun q => (pa + q.2, q.1)) :=
  List.mem_map.mpr ⟨(bs[i], i), List.mem_zipIdx_iff_getElem?.mpr (List.getElem?_eq_getElem hi), rfl⟩

/-- A byte of a block that an agent writes is there. -/
theorem State.byte_writeAgent (s : State) (yard : Nat) (pg : Pg) {fuel pa i : Nat} {bs : List Byte} (hd : s.isDead 0x10000 = false)
    (hfuel : bs.length < fuel) (hi : i < bs.length) : (s.writeAgent yard pg fuel pa bs).byte (pa + i) = bs[i] := by
  induction fuel generalizing s pa i bs with
  | zero => omega
  | succ fuel ih =>
    have hne : bs.isEmpty = false := by
      cases bs with
      | nil => cases hi
      | cons b bs => rfl
    unfold State.writeAgent
    dsimp only
    rw [if_neg (by simp [hne])]
    by_cases hin : i < 128 - pa % 128
    · have htake : i < (bs.take (128 - pa % 128)).length := by rw [List.length_take]; omega
      rw [State.byte_writeAgent_before _ _ _ _ _ (by unfold lineOf; omega),
        State.byte_homeWrite_in _ _ hd (mem_placed pa htake) (placedAt_nodup pa _), List.getElem_take]
    · have hdrop : i - (128 - pa % 128) < (bs.drop (128 - pa % 128)).length := by rw [List.length_drop]; omega
      rw [show pa + i = pa + (128 - pa % 128) + (i - (128 - pa % 128)) by omega,
        ih _ (by rwa [State.isDead_of_sameButHome (s.sameButHome_homeWrite _ _ _ _)]) (by rw [List.length_drop]; omega) hdrop, List.getElem_drop]
      congr 1
      omega

theorem State.bytes_writeBlock {s : State} (yard pa : Nat) (pg : Pg) (bs : List Byte) (hd : s.isDead 0x10000 = false) :
    (s.writeBlock yard pa pg bs).bytes pa bs.length = bs :=
  State.bytes_eq (fun _ hi => s.byte_writeAgent yard pg hd (Nat.lt_succ_self _) hi)

end Sys2Proof.Machine
end

section
/-! PROOFS. Upcalls, slices, budgets and tile errors when they are due (R55, R56, R310, R316, R320, R324, R325). -/

namespace Sys2Proof.Machine

/-! The entry of an upcall (R55). -/

theorem State.ctx_unwait (s : State) (c : Nat) : (s.unwait c).ctx c =
    { (s.ctx c).dropAnswers with got := 0, wait := .none, waitOp := 0, issued := none } := State.ctx_modCtx_self _ c _

theorem State.ctx_unwait_ne (s : State) {c d : Nat} (h : d ≠ c) : (s.unwait c).ctx d = s.ctx d := State.ctx_modCtx_ne _ _ h

/-- A context that is at an upcall's handler: a loss is told before a gain (log 30). -/
def Ctx.inUpcall (x : Ctx) : Ctx :=
  let y := (x.suspendLoop 4).setSreg 0x113 x.pc
  if y.lossDue then { y.setSreg 0x114 6 with lossDue := false, pc := y.sreg 0x112 }
  else { y.setSreg 0x114 5 with gainTaken := true, pc := y.sreg 0x112 }

theorem Ctx.sreg_suspendLoop_ne (x : Ctx) (k : Nat) {n : Nat} (h : n ≠ 0x031) : (x.suspendLoop k).sreg n = x.sreg n :=
  Ctx.sreg_setSreg_ne x 0 h

theorem Ctx.inUpcall_parts (x : Ctx) : x.inUpcall.pc = x.sreg 0x112 ∧ x.inUpcall.sreg 0x113 = x.pc ∧
    x.inUpcall.sreg 0x114 = (if x.lossDue then 6 else 5) ∧ x.inUpcall.lossDue = false ∧ x.inUpcall.priv = x.priv := by
  have hvec : ((x.suspendLoop 4).setSreg 0x113 x.pc).sreg 0x112 = x.sreg 0x112 :=
    (Ctx.sreg_setSreg_ne _ _ (by decide)).trans (x.sreg_suspendLoop_ne 4 (by decide))
  have hepc (w : Word) : (((x.suspendLoop 4).setSreg 0x113 x.pc).setSreg 0x114 w).sreg 0x113 = x.pc :=
    (Ctx.sreg_setSreg_ne _ _ (by decide)).trans (Ctx.sreg_setSreg_self _ _ _)
  have hcause (w : Word) : (((x.suspendLoop 4).setSreg 0x113 x.pc).setSreg 0x114 w).sreg 0x114 = w := Ctx.sreg_setSreg_self _ _ _
  unfold Ctx.inUpcall
  cases hloss : x.lossDue with
  | true =>
    rw [if_pos (show ((x.suspendLoop 4).setSreg 0x113 x.pc).lossDue = true from hloss)]
    exact ⟨hvec, hepc 6, hcause 6, rfl, rfl⟩
  | false =>
    rw [if_neg (show ¬ ((x.suspendLoop 4).setSreg 0x113 x.pc).lossDue = true from fun h => Bool.noConfusion (hloss.symm.trans h))]
    exact ⟨hvec, hepc 5, hcause 5, hloss, rfl⟩

/-- An upcall that is due is entered from the context as its closing windows and the wait that it leaves make it. -/
theorem State.enterUpcall_due {s : State} {c : Nat} (hd : s.upcallDue c = true) (hw : s.windowsReady c = true) :
    s.enterUpcall c = ((s.closeWindows c (fun _ => true)).unwait c).modCtx c Ctx.inUpcall := by
  unfold State.enterUpcall
  rw [if_neg (by simp [hd, hw])]
  rfl

theorem State.enterUpcall_early {s : State} {c : Nat} (hd : s.upcallDue c = false) : s.enterUpcall c = s := if_pos (by simp [hd])

theorem State.ctx_enterUpcall {s : State} {c : Nat} (hd : s.upcallDue c = true) (hw : s.windowsReady c = true) :
    ((s.enterUpcall c).ctx c).pc = (s.ctx c).sreg 0x112 ∧ ((s.enterUpcall c).ctx c).sreg 0x113 = (s.ctx c).pc ∧
    ((s.enterUpcall c).ctx c).sreg 0x114 = (if (s.ctx c).lossDue then 6 else 5) ∧ ((s.enterUpcall c).ctx c).lossDue = false ∧
    ((s.enterUpcall c).ctx c).priv = (s.ctx c).priv ∧ ∀ m, m ≠ c → (s.enterUpcall c).ctx m = s.ctx m := by
  obtain ⟨-, hothers, g, v, m, w, hclosed⟩ := s.sameButClosing_closeWindows c (fun _ => true)
  rw [State.enterUpcall_due hd hw, State.ctx_modCtx_self, State.ctx_unwait, hclosed]
  obtain ⟨hpc, hepc, hcause, hloss, hpriv⟩ := Ctx.inUpcall_parts
    { ({ s.ctx c with g := g, v := v, m := m, windows := w } : Ctx).dropAnswers with got := 0, wait := .none, waitOp := 0, issued := none }
  exact ⟨hpc, hepc, hcause, hloss, hpriv, fun d hdc =>
    (State.ctx_modCtx_ne _ _ hdc).trans ((State.ctx_unwait_ne _ hdc).trans (hothers d hdc))⟩

/-! The budget (R324, R325). -/

theorem State.overBudget_asks {s : State} {c : Nat} (h : s.overBudget c = true) : (s.ctx c).live = true ∧ (s.ctx c).saveReq = 0 := by
  unfold State.overBudget at h
  simp only [Bool.and_eq_true, beq_iff_eq] at h
  obtain ⟨⟨⟨⟨⟨hlive, -⟩, -⟩, hreq⟩, -⟩, -⟩ := h
  exact ⟨hlive, hreq⟩

theorem State.sameStore_askSave (s : State) (c reason : Nat) : s.sameStore (s.askSave c reason) := by
  unfold State.askSave
  split
  · exact s.sameStore_modCtx c _
  · exact s.sameStore_refl

theorem State.byte_askSave (s : State) (c reason a : Nat) : (s.askSave c reason).byte a = s.byte a := (s.sameStore_askSave c reason).1 a

theorem State.bytes_congr {s t : State} (h : ∀ a, t.byte a = s.byte a) (pa n : Nat) : t.bytes pa n = s.bytes pa n := by
  induction n generalizing pa with
  | zero => rfl
  | succ n ih => unfold State.bytes; rw [h, ih]

/-- An address that an agent finds for a context has changed nothing but the memory system. -/
theorem State.agentPa_ok {s t : State} {c size pa : Nat} {p : Word} {k : AKind} {pg : Pg} (h : s.agentPa c p size k = (.ok pa pg, t)) :
    s.sameButCache t := by
  unfold State.agentPa at h
  split at h
  · cases h
  · split at h
    · cases h
    · cases h
    · cases h
    · next l v hleaf =>
      obtain ⟨hsame, -⟩ := State.translate_leaf hleaf
      split at h
      · cases h
      · split at h
        · cases h
          exact hsame
        · cases h

theorem State.syncSnapshot_length (s : State) (c : Nat) : (s.syncSnapshot c).length = 64 := by simp [State.syncSnapshot]

section
variable {s : State} {c : Nat}

theorem State.exceedBudget_within (h : s.overBudget c = false) : s.exceedBudget c = s := if_pos (by simp [h])

theorem State.exceedBudget_noSnapshot (h : s.overBudget c = true) (hp : (s.ctx c).sreg 0x44C = 0) : s.exceedBudget c = s.askSave c 2 := by
  have hnone : s.agentPa c ((s.ctx c).sreg 0x44C) 64 .write = (.bad, s) := if_pos (.inl hp)
  unfold State.exceedBudget
  rw [if_neg (by simp [h]), hnone]

theorem State.exceedBudget_snapshot {pa : Nat} {pg : Pg} {t : State} (h : s.overBudget c = true)
    (hp : s.agentPa c ((s.ctx c).sreg 0x44C) 64 .write = (.ok pa pg, t)) :
    s.exceedBudget c = (t.writeBlock (t.yardOf (cidTile c)) pa pg (t.syncSnapshot c)).askSave c 2 := by
  unfold State.exceedBudget
  rw [if_neg (by simp [h]), hp]

theorem State.snapshot_exceedBudget {pa : Nat} {pg : Pg} {t : State} (h : s.overBudget c = true)
    (hp : s.agentPa c ((s.ctx c).sreg 0x44C) 64 .write = (.ok pa pg, t)) (hd : s.isDead 0x10000 = false) :
    ((s.exceedBudget c).ctx c).saveReq = 2 ∧ (s.exceedBudget c).bytes pa 64 = t.syncSnapshot c := by
  obtain ⟨hlive, hreq⟩ := State.overBudget_asks h
  have hagent := State.agentPa_ok hp
  have hctx : (t.writeBlock (t.yardOf (cidTile c)) pa pg (t.syncSnapshot c)).ctx c = s.ctx c :=
    (State.ctx_of_sameButCache (State.sameButCache_of_sameButHome (t.sameButHome_writeBlock _ _ _ _)) c).trans
      (State.ctx_of_sameButCache hagent c)
  have hdead : t.isDead 0x10000 = false := (State.isDead_of_sameButCache hagent _).trans hd
  have hbytes := State.bytes_writeBlock (t.yardOf (cidTile c)) pa pg (t.syncSnapshot c) hdead
  rw [State.syncSnapshot_length] at hbytes
  rw [State.exceedBudget_snapshot h hp]
  refine ⟨State.saveReq_askSave 2 (by rw [hctx, hlive]) (by rw [hctx, hreq]), ?_⟩
  rw [State.bytes_congr (fun a => State.byte_askSave _ c 2 a), hbytes]

end

/-! The slice (R316, R320). -/

section
variable (s : State) (k reason : Nat) (frame : Word) (tag : Nat)

theorem State.core_enterHandler : (s.enterHandler k reason frame tag).core k = { s.core k with handler := true } :=
  State.core_modCore_self _ k _

/-- The resident handler is live at S at its address, with the reason in g1. -/
theorem State.ctx_enterHandler_self : let x := (s.enterHandler k reason frame tag).ctx (coreCid k 11)
    x.live = true ∧ x.priv = .s ∧ x.pc = (s.core k).sreg 0x446 ∧ x.greg 1 = BitVec.ofNat 64 reason := by
  have hx : (s.enterHandler k reason frame tag).ctx (coreCid k 11) =
      { (((s.ctx (coreCid k 11)).setGreg 1 (BitVec.ofNat 64 reason)).setGreg 2 frame).setGreg 3 (BitVec.ofNat 64 tag) with
        live := true, priv := .s, pc := (s.core k).sreg 0x446, wait := .none, issued := none } := by
    unfold State.enterHandler
    rw [State.ctx_modCore, State.ctx_setCtx_self]
  rw [hx]
  refine ⟨rfl, rfl, rfl, ?_⟩
  exact (Ctx.greg_setGreg_ne _ _ (by decide)).trans ((Ctx.greg_setGreg_ne _ _ (by decide)).trans (Ctx.greg_setGreg_self _ _ (by decide)))

end

section
variable {s : State} {k : Nat}

theorem State.expireSlice_within (h : s.sliceOver k = false ∨ (s.core k).handler = true) : s.expireSlice k = s := by
  refine if_pos ?_
  obtain h | h := h
  · simp [h]
  · simp [h]

/-- The next slice of a core begins. -/
def State.sliceBegun (s : State) (k : Nat) : State := s.modCore k (fun x => { x with sliceStart := s.tileCycles (coreTile k) })

variable (ho : s.sliceOver k = true) (hh : (s.core k).handler = false)
include ho hh

theorem State.expireSlice_live (hl : (s.ctx (coreCid k 0)).live = true) :
    s.expireSlice k = (s.sliceBegun k).askSave (coreCid k 0) 1 := by
  unfold State.expireSlice
  rw [if_neg (by simp [ho, hh])]
  exact if_pos hl

theorem State.expireSlice_empty (hl : (s.ctx (coreCid k 0)).live = false) : ∃ (u : State) (f q : Word), u.ctxs = s.ctxs ∧ u.core k = (s.sliceBegun k).core k ∧
    s.expireSlice k = (u.enterHandler k 0 f 0).modCtx (coreCid k 11) (fun x => x.setGreg 3 q) := by
  unfold State.expireSlice
  rw [if_neg (by simp [ho, hh])]
  exact ⟨(s.sliceBegun k).draw.2.draw.2, (s.sliceBegun k).draw.1, (s.sliceBegun k).draw.2.draw.1, rfl, rfl,
    if_neg (show ¬ (s.ctx (coreCid k 0)).live = true by simp [hl])⟩

end

/-- A save for an expired slice gives way to any that has been asked for. -/
theorem State.saveReq_askSave_slice {s : State} {c : Nat} (hl : (s.ctx c).live = true) :
    ((s.askSave c 1).ctx c).saveReq = if (s.ctx c).saveReq = 0 then 1 else (s.ctx c).saveReq := by
  unfold State.askSave
  rw [if_pos hl, State.ctx_modCtx_self]
  by_cases hr : (s.ctx c).saveReq = 0
  · rw [if_pos (.inl hr), if_pos hr]
  · rw [if_neg (by simp [hr]), if_neg hr]

theorem State.core_askSave (s : State) (c reason k : Nat) : (s.askSave c reason).core k = s.core k := by
  unfold State.askSave
  split <;> rfl

theorem State.slice_expired {s : State} {k : Nat} (ho : s.sliceOver k = true) (hh : (s.core k).handler = false) :
    let u := s.expireSlice k
    (u.core k).sliceStart = s.tileCycles (coreTile k) ∧
    ((s.ctx (coreCid k 0)).live = true → (u.ctx (coreCid k 0)).saveReq =
      if (s.ctx (coreCid k 0)).saveReq = 0 then 1 else (s.ctx (coreCid k 0)).saveReq) ∧
    ((s.ctx (coreCid k 0)).live = false → (u.core k).handler = true ∧ (u.ctx (coreCid k 11)).live = true ∧
      (u.ctx (coreCid k 11)).priv = .s ∧ (u.ctx (coreCid k 11)).pc = (s.core k).sreg 0x446 ∧ (u.ctx (coreCid k 11)).greg 1 = 0) := by
  have hbegun : (s.sliceBegun k).core k = { s.core k with sliceStart := s.tileCycles (coreTile k) } := State.core_modCore_self s k _
  dsimp only
  cases hl : (s.ctx (coreCid k 0)).live with
  | true =>
    rw [State.expireSlice_live ho hh hl]
    refine ⟨?_, fun _ => ?_, nofun⟩
    · rw [State.core_askSave, hbegun]
    · exact State.saveReq_askSave_slice hl
  | false =>
    obtain ⟨u, f, q, hctxs, hcore, hexpired⟩ := State.expireSlice_empty ho hh hl
    obtain ⟨hlive, hpriv, hpc, hg1⟩ := u.ctx_enterHandler_self k 0 f 0
    rw [hexpired, State.core_modCtx, State.core_enterHandler, hcore, hbegun, State.ctx_modCtx_self]
    refine ⟨rfl, nofun, fun _ => ⟨rfl, ?_, ?_, ?_, ?_⟩⟩
    · rw [Ctx.setGreg_live, hlive]
    · rw [Ctx.setGreg_priv, hpriv]
    · rw [Ctx.setGreg_pc, hpc, hcore, hbegun]
      rfl
    · rw [Ctx.greg_setGreg_ne _ _ (by decide), hg1]
      rfl

/-! An uncorrectable error of a tile (R310). -/

section
variable {s : State} {c : Nat} (hslot : isHelperSlot (cidSlot c) = true) (cause : Cause) (toH : Bool)

theorem State.taskFault_none (h : (s.ctx c).helper = none) : s.taskFault c cause toH = s := by
  simp [State.taskFault, h]

include hslot

theorem State.ctx_taskFault_self {h : Helper} (hh : (s.ctx c).helper = some h) : (s.taskFault c cause toH).ctx c = Ctx.reset := by
  unfold State.taskFault
  rw [hh]
  exact (State.ctx_addRecord_ne _ _ _ (boss_ne hslot).symm).trans (State.ctx_endTask_self hh)

end

theorem State.late_addRecord (s : State) (c d : Nat) (r : TaskFault) : ((s.addRecord c r).ctx d).late = (s.ctx d).late := by
  by_cases hd : d = c
  · subst hd
    unfold State.addRecord
    split
    · rw [State.ctx_modCtx_self]
      split <;> rfl
    · split
      · split
        · rw [State.ctx_frameRecord]
        · rfl
      · rfl
  · rw [State.ctx_addRecord_ne _ _ _ hd]

section
variable (s : State) {c d : Nat} (hd : d ≠ c) (cause : Cause) (toH : Bool)
include hd

/-- A task's cause leaves every context but its own and that which takes the record. -/
theorem State.ctx_taskFault_ne (hboss : d ≠ coreCid (cidCore c) 0) : (s.taskFault c cause toH).ctx d = s.ctx d := by
  cases hh : (s.ctx c).helper with
  | none => rw [State.taskFault_none cause toH hh]
  | some h =>
    unfold State.taskFault
    rw [hh]
    exact (State.ctx_addRecord_ne _ _ _ hboss).trans (State.ctx_endTask_ne hh hd)

theorem State.late_taskFault : ((s.taskFault c cause toH).ctx d).late = (s.ctx d).late := by
  cases hh : (s.ctx c).helper with
  | none => rw [State.taskFault_none cause toH hh]
  | some h =>
    unfold State.taskFault
    rw [hh]
    exact (State.late_addRecord _ _ _ _).trans (congrArg Ctx.late (State.ctx_endTask_ne hh hd))

end

/-- The error at one context of the tile: a task ends, and any other context has a late cause. -/
def State.errorAt (s : State) (c : Nat) : State :=
  if isHelperSlot (cidSlot c) then s.taskFault c .tileError false
  else s.modCtx c (fun x => { x with late := x.late ++
    [{ seq := ((s.core (cidCore c)).seq + 65535) % 65536, ord := s.pushes, cause := .tileError, member := 0, elem := 0, tval := 0 }] })

theorem State.tileError_eq (s : State) (t : Nat) :
    s.tileError t = ((tileCids t).filter (fun c => (s.ctx c).live)).foldl State.errorAt s := rfl

theorem tileCids_nodup (t : Nat) : (tileCids t).Nodup :=
  List.nodup_range.map (fun i j (h : (t * 4 + i / 12) * 16 + i % 12 = (t * 4 + j / 12) * 16 + j % 12) => by omega)

theorem State.late_errorAt_ne (s : State) {c d : Nat} (h : c ≠ d) : ((s.errorAt c).ctx d).late = (s.ctx d).late := by
  unfold State.errorAt
  split
  · exact s.late_taskFault h.symm _ _
  · rw [State.ctx_modCtx_ne _ _ h.symm]

theorem State.late_errorAt_self (s : State) {c : Nat} (h : isHelperSlot (cidSlot c) = false) :
    ∃ l, ((s.errorAt c).ctx c).late = (s.ctx c).late ++ [l] ∧ l.cause = .tileError := by
  unfold State.errorAt
  rw [if_neg (by simp [h]), State.ctx_modCtx_self]
  exact ⟨_, rfl, rfl⟩

section
variable {s : State} {c : Nat} (hslot : isHelperSlot (cidSlot c) = true)
include hslot

theorem State.ctx_errorAt_ne {d : Nat} (h : d ≠ c) : (s.errorAt d).ctx c = s.ctx c := by
  unfold State.errorAt
  split
  · refine s.ctx_taskFault_ne h.symm _ _ (fun heq => ?_)
    rw [heq, cidSlot, coreCid, Nat.add_zero, Nat.mul_mod_left] at hslot
    cases hslot
  · rw [State.ctx_modCtx_ne _ _ h.symm]

theorem State.ctx_errorAt_self {h : Helper} (hh : (s.ctx c).helper = some h) : (s.errorAt c).ctx c = Ctx.reset :=
  (congrArg (State.ctx · c) (if_pos hslot)).trans (State.ctx_taskFault_self hslot _ _ hh)

theorem State.ctx_errorAt_gone {d : Nat} (h : s.ctx c = Ctx.reset) : (s.errorAt d).ctx c = Ctx.reset := by
  by_cases hd : d = c
  · subst hd
    unfold State.errorAt
    rw [if_pos hslot, State.taskFault_none _ _ (by rw [h]; rfl), h]
  · rw [State.ctx_errorAt_ne hslot hd, h]

end

/-- Every live context of the tile meets the error once. -/
theorem State.ctx_tileError {s : State} {t c : Nat} (hc : c ∈ tileCids t) (hl : (s.ctx c).live = true) :
    (isHelperSlot (cidSlot c) = false → ∃ l, ((s.tileError t).ctx c).late = (s.ctx c).late ++ [l] ∧ l.cause = .tileError) ∧
    (isHelperSlot (cidSlot c) = true → (s.ctx c).helper.isSome = true → ((s.tileError t).ctx c).live = false) := by
  have hmem : c ∈ (tileCids t).filter (fun c => (s.ctx c).live) := List.mem_filter.mpr ⟨hc, hl⟩
  rw [State.tileError_eq]
  refine ⟨fun hslot => ?_, fun hslot hh => ?_⟩
  · obtain ⟨u, hu, hend⟩ := foldl_once (g := fun v : State => (v.ctx c).late) hmem ((tileCids_nodup t).filter _)
      (fun v x hx => v.late_errorAt_ne hx) s
    rw [hend, ← hu]
    exact u.late_errorAt_self hslot
  · obtain ⟨h, hh⟩ := Option.isSome_iff_exists.mp hh
    have hgone := foldl_reaches (f := State.errorAt) (P := fun v : State => v.ctx c = s.ctx c) (Q := fun v : State => v.ctx c = Ctx.reset) hmem
      (fun v x hx hv => (State.ctx_errorAt_ne hslot hx).trans hv)
      (fun v hv => State.ctx_errorAt_self hslot (h := h) (by rw [hv, hh])) (fun v x hv => State.ctx_errorAt_gone hslot hv) (s := s) rfl
    rw [hgone]
    rfl

/-- Settles O54: each event is early or due, and what is due takes the effect that the lemmas above state. -/
theorem upcallsSlicesBudgetsAndTileErrors : Obligations.UpcallsSlicesBudgetsAndTileErrors := by
  unfold Obligations.UpcallsSlicesBudgetsAndTileErrors
  refine ⟨fun s c => ?_, fun s k => ?_, fun s t => ⟨s.tileError t, rfl, fun c hc hl => State.ctx_tileError hc hl⟩⟩
  · refine ⟨fun h => congrArg Host.Outcome.next (State.enterUpcall_early h), fun hd hw => ⟨s.enterUpcall c, rfl, State.ctx_enterUpcall hd hw⟩,
      fun h => congrArg Host.Outcome.next (State.exceedBudget_within h), fun h hp => ⟨s.exceedBudget c, rfl, ?_⟩,
      fun pa pg t h hp hd => ⟨s.exceedBudget c, rfl, State.snapshot_exceedBudget h hp hd⟩⟩
    obtain ⟨hlive, hreq⟩ := State.overBudget_asks h
    rw [State.exceedBudget_noSnapshot h hp]
    exact ⟨State.saveReq_askSave 2 hlive hreq, s.sameStore_askSave c 2⟩
  · exact ⟨fun h => congrArg Host.Outcome.next (State.expireSlice_within h), fun ho hh => ⟨s.expireSlice k, rfl, State.slice_expired ho hh⟩⟩

end Sys2Proof.Machine
end

section
/-! PROOFS. A job's end does not wait for its yard's dispatcher (R365, R372, R373). -/

namespace Sys2Proof.Machine

/-- A comb of yard 1 that holds one tile. -/
def combOfTile (job t : Nat) : Comb :=
  { yard := 1, job := job, tiles := [t], gen := 1, floor := 1, floorWas := 1, floorAt := 0, hold := false, holdWas := false, holdAt := 0,
    bsp := false, desc := 0, homeTile := t, homeCore := 0, frames := 0, poolBase := 0, sstep := 0, flags := 0, gains := [], gainOvf := false }

/-- Yard 1 in state 4 of its tenant record, saved, with jobs 1 and 2 on the tiles 0 and 1 beside each other. -/
def savedYard : State :=
  { State.reset.setMemWord (recordPa 1) 0x4000000000000000 with combs := [combOfTile 1 0, combOfTile 2 1] }

theorem savedYard_waits : savedYard.yardRuns 1 = false ∧ savedYard.recState 1 ≠ 0 := by decide

/-- The end of a job is carried out in whatever state its yard is; a job's beginning goes through `State.request`. -/
theorem exec_jobEnd (v j : Nat) (s : State) : exec (.jobEnd v j) s = .next (s.jobEnd v j) := rfl

/-- Job 1 ends at once: its tile is on its way to job 2. -/
theorem savedYard_jobEnd_moves : ((savedYard.jobEnd 1 1).tile 0).move.map Move.toJob = some 2 := by decide +kernel

theorem savedYard_later_moves : ((savedYard.later (.jobEnd 1 1)).tile 0).move.map Move.toJob = none := by decide

/-- Refutes O56: in a yard whose record says that it is saved, JOB_END of job 1 moves the tile of the job at once, where the statement has the
request wait (R373: no new move starts); only JOB_GO waits for the dispatcher. -/
theorem not_tilesAndJobsChangeHands : ¬ Obligations.TilesAndJobsChangeHands := by
  unfold Obligations.TilesAndJobsChangeHands
  rintro ⟨-, hjobs⟩
  obtain ⟨hidle, hrecord⟩ := savedYard_waits
  obtain ⟨hwaits, -⟩ := hjobs savedYard 1 1
  obtain ⟨-, hheld⟩ := hwaits hidle
  obtain ⟨-, hend⟩ := hheld hrecord
  have hstate : savedYard.jobEnd 1 1 = savedYard.later (.jobEnd 1 1) := Host.Outcome.next.inj ((exec_jobEnd 1 1 savedYard).symm.trans hend)
  have hmoves := savedYard_jobEnd_moves
  rw [hstate, savedYard_later_moves] at hmoves
  cases hmoves

end Sys2Proof.Machine
end

section
/-! PROOFS. When the queues that an instruction names let it issue (R66, R136, R137, R246, R297). -/

namespace Sys2Proof.Machine

/-- A queue that an instruction pops is popped as often as it stands among the popped queues. -/
theorem countOf_filter_isQueue {r : Reg} (h : isQueue r = true) (pops : List Reg) : countOf r (pops.filter isQueue) = countOf r pops := by
  unfold countOf
  rw [List.filter_filter]
  refine congrArg List.length (List.filter_congr fun p _ => ?_)
  cases hp : p == r with
  | false => rfl
  | true => rw [eq_of_beq hp, h]; rfl

section
variable (s : State) (pops pushes : List Reg) (now : Bool)

/-- The gate opens where none of its six checks finds a register that holds the instruction up, in the order in which it makes them. -/
theorem State.operandsReady_iff_checks : s.operandsReady pops pushes now ↔
    (pushes.filter (fun r => isQueue r && r != 28)).any (fun r => s.linkClosed s.myCore (linkDir r)) = false ∧
    (pushes.contains 28 && decide (((s.tile s.myTile).sreg 0x241).extractLsb' 0 2 ≠ BitVec.ofNat 2 s.myCore)) = false ∧
    (pops.filter isQueue).find? (fun r => decide ((s.peek r).length < countOf r (pops.filter isQueue))) = none ∧
    pushes.find? (fun r => now && (if r = 28 then decide (8 ≤ (s.tile s.myTile).qk.length) else isQueue r && s.linkFull s.myCore (linkDir r))) = none ∧
    (pushes.filter (fun r => isQueue r && r != 28)).find? (fun r => now && s.bulkSync s.myTile && !(s.slotOk s.myTile (dirNum (linkDir r)))) = none ∧
    (pops.filter isQueue).any (fun r => ((s.peek r).take (countOf r (pops.filter isQueue))).any (fun v => v.tc != s.me.tc)) = false := by
  unfold State.operandsReady gate
  dsimp only
  split
  case isTrue h => exact iff_of_false nofun (fun k => absurd (h.symm.trans k.1) nofun)
  case isFalse hcomb =>
    split
    case isTrue h => exact iff_of_false nofun (fun k => absurd (h.symm.trans k.2.1) nofun)
    case isFalse hgroup =>
      split
      case h_1 h => exact iff_of_false nofun (fun k => absurd (h.symm.trans k.2.2.1) nofun)
      case h_2 hheld =>
        split
        case h_1 h => exact iff_of_false nofun (fun k => absurd (h.symm.trans k.2.2.2.1) nofun)
        case h_2 hroom =>
          split
          case h_1 h => exact iff_of_false nofun (fun k => absurd (h.symm.trans k.2.2.2.2.1) nofun)
          case h_2 hslot =>
            split
            case isTrue h => exact iff_of_false nofun (fun k => absurd (h.symm.trans k.2.2.2.2.2) nofun)
            case isFalse hcode =>
              exact iff_of_true rfl ⟨eq_false_of_ne_true hcomb, eq_false_of_ne_true hgroup, hheld, hroom, hslot, eq_false_of_ne_true hcode⟩

/-! What each check says of the registers. -/

theorem linkChecks_pass {b : Reg → Bool} : (pushes.filter (fun r => isQueue r && r != 28)).any b = false ↔
    ∀ r ∈ pushes, isQueue r = true → r ≠ 28 → b r = false := by
  simp only [List.any_eq_false, List.mem_filter, Bool.and_eq_true, bne_iff_ne, Bool.not_eq_true, and_imp]

theorem matrixGroupCheck_passes {p : Prop} [Decidable p] : (pushes.contains 28 && decide (¬p)) = false ↔ (28 ∈ pushes → p) := by
  simp

theorem popChecks_pass : (pops.filter isQueue).find? (fun r => decide ((s.peek r).length < countOf r (pops.filter isQueue))) = none ↔
    ∀ r ∈ pops, isQueue r = true → countOf r pops ≤ (s.peek r).length := by
  rw [List.find?_eq_none]
  simp only [List.mem_filter, decide_eq_true_eq, Nat.not_lt, and_imp]
  exact forall₃_congr fun r _ hq => by rw [countOf_filter_isQueue hq]

theorem roomChecks_pass : pushes.find? (fun r => now && (if r = 28 then decide (8 ≤ (s.tile s.myTile).qk.length)
      else isQueue r && s.linkFull s.myCore (linkDir r))) = none ↔
    (now = true → (28 ∈ pushes → (s.tile s.myTile).qk.length < 8) ∧
      ∀ r ∈ pushes, isQueue r = true → r ≠ 28 → s.linkFull s.myCore (linkDir r) = false) := by
  rw [List.find?_eq_none]
  cases now with
  | false => simp
  | true =>
    simp only [Bool.true_and, true_imp_iff]
    constructor
    · exact fun h => ⟨fun hk => by simpa using h 28 hk, fun r hr hq hne => by simpa only [if_neg hne, hq, Bool.true_and, Bool.not_eq_true] using h r hr⟩
    · intro ⟨hk, hl⟩ r hr
      by_cases h28 : r = 28
      · subst h28
        simpa using hk hr
      · simpa only [if_neg h28, Bool.and_eq_true, not_and, Bool.not_eq_true] using fun hq => hl r hr hq h28

theorem slotChecks_pass : (pushes.filter (fun r => isQueue r && r != 28)).find?
      (fun r => now && s.bulkSync s.myTile && !(s.slotOk s.myTile (dirNum (linkDir r)))) = none ↔
    ∀ r ∈ pushes, isQueue r = true → r ≠ 28 → now = true → s.bulkSync s.myTile = true → s.slotOk s.myTile (dirNum (linkDir r)) = true := by
  rw [List.find?_eq_none]
  simp only [List.mem_filter, Bool.and_eq_true, bne_iff_ne, Bool.not_eq_true', not_and, Bool.not_eq_false, and_imp]

theorem topCodeChecks_pass : (pops.filter isQueue).any
      (fun r => ((s.peek r).take (countOf r (pops.filter isQueue))).any (fun v => v.tc != s.me.tc)) = false ↔
    ∀ r ∈ pops, isQueue r = true → ∀ v ∈ (s.peek r).take (countOf r pops), v.tc = s.me.tc := by
  simp only [List.any_eq_false, List.mem_filter, Bool.not_eq_true, List.any_eq_false, bne_iff_ne, not_not, and_imp]
  exact forall₃_congr fun r _ hq => by rw [countOf_filter_isQueue hq]

end

/-- Settles O18: the gate opens where its six checks pass, and each of them says one of the six conditions. -/
theorem queuesLetAnInstructionIssue : Obligations.QueuesLetAnInstructionIssue := by
  unfold Obligations.QueuesLetAnInstructionIssue
  intro s pops pushes now
  rw [State.operandsReady_iff_checks, linkChecks_pass, matrixGroupCheck_passes, popChecks_pass, roomChecks_pass, slotChecks_pass, topCodeChecks_pass]
  constructor
  · exact fun ⟨hcomb, hgroup, hheld, hroom, hslot, hcode⟩ => ⟨hcomb, hgroup, hslot, hheld, hroom, hcode⟩
  · exact fun ⟨hcomb, hgroup, hslot, hheld, hroom, hcode⟩ => ⟨hcomb, hgroup, hheld, hroom, hslot, hcode⟩

end Sys2Proof.Machine
end

section
/-! PROOFS. AMO.XADD at the home of its word (R85, R86, R103, R192). -/

namespace Sys2Proof.Machine

/-- An instruction that names no queue can issue. -/
theorem State.operandsReady_registers {s : State} {pops pushes : List Reg} (hpop : ∀ r ∈ pops, isQueue r = false)
    (hpush : ∀ r ∈ pushes, isQueue r = false) (now : Bool) : s.operandsReady pops pushes now := by
  have hpopped {p : Reg → Prop} : ∀ r ∈ pops, isQueue r = true → p r := fun r hr hq => absurd ((hpop r hr).symm.trans hq) nofun
  have hpushed {p : Reg → Prop} : ∀ r ∈ pushes, isQueue r = true → p r := fun r hr hq => absurd ((hpush r hr).symm.trans hq) nofun
  have hqk {p : Prop} : 28 ∈ pushes → p := fun hk => absurd (hpush 28 hk) (by decide)
  exact (queuesLetAnInstructionIssue s pops pushes now).mpr ⟨hpushed, hqk, hpushed, hpopped, fun _ => ⟨hqk, hpushed⟩, hpopped⟩

theorem readG_register {r : Reg} (h : isQueue r = false) (s : State) : readG r s = .ok (s.me.greg r) s := by
  unfold readG
  rw [h]
  rfl

/-- A control context reaches a line of this device at home with the tile's own bytes of it written back (R120, R186). -/
theorem atHome_control {u : State} {l : Leaf} (hc : u.controlAt l) (h : u.reachesHome l.pa) (size : Nat) :
    atHome l size u = .ok () (u.cleanLine u.myTile (lineOf l.pa)) := by
  obtain ⟨-, htsc, hspace⟩ := hc
  have hopen : u.homeOpen u.myTile l.pa none = true := h
  refine (if_neg (by rw [hopen]; decide)).trans (ite_run_neg (by rw [hspace]; decide) ?_)
  show EStateM.Result.ok () (if isTsc u.cur then u else u.cleanLine u.myTile (lineOf l.pa)) = _
  rw [htsc]
  rfl

theorem raiseFlags_none (s : State) : raiseFlags Flags.none s = .ok () s := by
  have hcause (m : Flags) : enabledCause Flags.none m = none := by simp [enabledCause, Flags.none]
  unfold raiseFlags
  dsimp only
  rw [hcause]
  rfl

/-- A line that takes the key of a page that does not clash with it changes in nothing but its key (R367). -/
theorem State.takeKey_noClash {s : State} {pa : Nat} {pg : Pg} (h : s.keyClash pa pg = false) :
    ∃ k, s.takeKey pa pg = { s with lineKeys := k } := by
  unfold State.takeKey
  split
  · exact ⟨s.lineKeys, rfl⟩
  · dsimp only
    rw [h]
    exact ⟨_, rfl⟩

/-- An addition at home: the word's entry takes the value, and its line's version advances (R86, R103). -/
def State.sumAdded (s : State) (yard pa : Nat) (pg : Pg) (x : Nat) : State :=
  ((s.takeKey pa pg).setSum (pa / 4) (((s.takeKey pa pg).sumStart (pa / 4)).add x)).bumpVer pa yard

theorem State.xadd_some {s : State} {tag pa : Nat} (hd : s.isDead tag = false)
    (hroom : (s.sumEnt (pa / 4)).live = true ∨ s.sumCount (hiveOfPa pa) < 16384) (yard : Nat) (pg : Pg) (x : Nat) :
    s.xadd tag yard pa pg x = some (s.sumAdded yard pa pg x) := by
  have hfull : (!(s.sumEnt (pa / 4)).live && decide (16384 ≤ s.sumCount (hiveOfPa pa))) = false := by
    rcases hroom with hlive | hcount
    · rw [hlive]; rfl
    · rw [decide_eq_false (Nat.not_le.mpr hcount), Bool.and_false]
  unfold State.xadd
  rw [hd, hfull]
  rfl

theorem State.sumEnt_of_sameButL2 {s t : State} (h : s.sameButL2 t) (w : Nat) : t.sumEnt w = s.sumEnt w := by
  obtain ⟨_, _, _, rfl⟩ := h
  rfl

theorem State.verOf_congr {s t : State} (hl : t.l2 = s.l2) (hf : t.floors = s.floors) (pa : Nat) : t.verOf pa = s.verOf pa := by
  unfold State.verOf State.l2line State.floorOf
  rw [hl, hf]

section
variable {s : State} {pa : Nat} {pg : Pg} (hkey : s.keyClash pa pg = false) (yard x : Nat)
include hkey

theorem State.sumEnt_sumAdded_self : (s.sumAdded yard pa pg x).sumEnt (pa / 4) = (s.sumStart (pa / 4)).add x := by
  obtain ⟨k, hk⟩ := State.takeKey_noClash hkey
  unfold State.sumAdded
  rw [State.sumEnt_of_sameButL2 (State.sameButL2_bumpVer _ _ _), State.sumEnt_setSum_self, hk]
  rfl

theorem State.sumEnt_sumAdded_ne {w : Nat} (hw : w ≠ pa / 4) : (s.sumAdded yard pa pg x).sumEnt w = s.sumEnt w := by
  obtain ⟨k, hk⟩ := State.takeKey_noClash hkey
  unfold State.sumAdded
  rw [State.sumEnt_of_sameButL2 (State.sameButL2_bumpVer _ _ _), State.sumEnt_setSum_ne _ _ hw, hk]
  rfl

theorem State.byte_sumAdded (q : Nat) : (s.sumAdded yard pa pg x).byte q = s.byte q := by
  obtain ⟨k, hk⟩ := State.takeKey_noClash hkey
  unfold State.sumAdded
  rw [State.byte_of_sameButL2 (State.sameButL2_bumpVer _ _ _), hk]
  rfl

theorem State.verOf_sumAdded : (s.sumAdded yard pa pg x).verOf pa = s.verOf pa + 1 := by
  obtain ⟨k, hk⟩ := State.takeKey_noClash hkey
  unfold State.sumAdded
  rw [State.verOf_bumpVer, hk]
  rfl

theorem State.sameButHome_sumAdded : s.sameButHome (s.sumAdded yard pa pg x) := by
  obtain ⟨k, hk⟩ := State.takeKey_noClash hkey
  refine State.sameButHome_trans ?_ (State.sameButHome_of_sameButL2 (State.sameButL2_bumpVer _ _ _))
  rw [hk]
  exact ⟨_, _, _, _, _, _, rfl⟩

end

/-- At most the tiles with their L1 differ after a copy is discarded. -/
theorem State.dropCopy_eq (s : State) (pa : Nat) : ∃ ts, s.dropCopy pa = { s with tiles := ts } := by
  unfold State.dropCopy
  split
  · exact ⟨_, rfl⟩
  · exact ⟨_, rfl⟩

/-- The state after an AMO.XADD of a control context that reaches home in v. -/
def State.xaddDone (v : State) (d : Reg) (la : BitVec 4) (l : Leaf) (x : Nat) : State :=
  (((v.sumAdded (v.payer v.cur) l.pa l.pg x).dropCopy l.pa).modMe (fun c =>
    { c with windows := c.windows ++ [c.laWindow la [.g d (BitVec.ofNat 64 (v.sumBefore l.pa l.pg).1)]] })).goOn

/-- Beside the addition it changes at most contexts, and the tiles with their L1. -/
theorem State.xaddDone_eq (v : State) (d : Reg) (la : BitVec 4) (l : Leaf) (x : Nat) :
    ∃ c ts, v.xaddDone d la l x = { v.sumAdded (v.payer v.cur) l.pa l.pg x with ctxs := c, tiles := ts } := by
  obtain ⟨ts, h⟩ := (v.sumAdded (v.payer v.cur) l.pa l.pg x).dropCopy_eq l.pa
  unfold State.xaddDone
  rw [h]
  exact ⟨_, _, rfl⟩

theorem State.windows_xaddDone {v : State} {l : Leaf} (hkey : v.keyClash l.pa l.pg = false) (d : Reg) (la : BitVec 4) (x : Nat) :
    (v.xaddDone d la l x).me.windows = v.me.windows ++ [v.me.laWindow la [.g d (BitVec.ofNat 64 (v.sumBefore l.pa l.pg).1)]] := by
  obtain ⟨_, _, _, _, _, _, hadded⟩ := State.sameButHome_sumAdded hkey (v.payer v.cur) x
  obtain ⟨ts, hdrop⟩ := (v.sumAdded (v.payer v.cur) l.pa l.pg x).dropCopy_eq l.pa
  unfold State.xaddDone
  rw [State.me_goOn, Ctx.windows_advance, State.me_modMe, hdrop, hadded]
  rfl

theorem exec_amoXadd_home {s u : State} {d a b : Reg} {la : BitVec 4} {l : Leaf} (h : s.canExecute) (hd : isQueue d = false)
    (ha : isQueue a = false) (hb : isQueue b = false) (hs : s.atShared (s.me.greg a) 4 .atomic l u) (hc : u.controlAt l)
    (hsum : l.exactSum = true) (hhelper : u.me.helper = none) (hhome : u.reachesHome l.pa) (hdead : u.isDead (u.tagOf u.cur) = false)
    (hroom : ((u.cleanLine u.myTile (lineOf l.pa)).sumEnt (l.pa / 4)).live = true ∨
      (u.cleanLine u.myTile (lineOf l.pa)).sumCount (hiveOfPa l.pa) < 16384)
    (hfl : d = 0 ∨ ((u.cleanLine u.myTile (lineOf l.pa)).sumBefore l.pa l.pg).2 = Flags.none) :
    exec (.amoXadd d a b 0 la) s = .next ((u.cleanLine u.myTile (lineOf l.pa)).xaddDone d la l ((s.me.greg b).toNat % 2 ^ 32)) := by
  have hgate : s.operandsReady [a, b] [d] false := State.operandsReady_registers (by simp [ha, hb]) (by simp [hd]) false
  have hpcie : l.pcie = false := by simp [Leaf.pcie, hc.2.2]
  have hclean := u.sameButCache_cleanLine u.myTile (lineOf l.pa)
  have htag : (u.cleanLine u.myTile (lineOf l.pa)).isDead
      ((u.cleanLine u.myTile (lineOf l.pa)).tagOf (u.cleanLine u.myTile (lineOf l.pa)).cur) = false := by
    unfold State.tagOf
    rw [State.isDead_of_sameButCache hclean, State.cur_of_sameButCache hclean, State.ctx_of_sameButCache hclean]
    exact hdead
  have hy : ((s.me.greg b).setWidth 32).toNat = (s.me.greg b).toNat % 2 ^ 32 := BitVec.toNat_setWidth _ _
  refine run_ok h.1 (bind_run (noPrefix_ok h.2) (bind_run hgate (bind_run (readG_register ha s) (bind_run (readG_register hb s)
    (bind_run hs ?_)))))
  dsimp only
  rw [hsum, hpcie]
  refine bind_run rfl (bind_run rfl (bind_run rfl ?_))
  rw [hhelper]
  refine ite_run_neg (fun hsc => hsc rfl) (bind_run (atHome_control hc hhome 4) (bind_run rfl ?_))
  generalize u.cleanLine u.myTile (lineOf l.pa) = v at *
  rw [hy, State.xadd_some htag hroom]
  refine bind_run rfl (ite_run_neg (fun hsc => hsc rfl) ?_)
  by_cases hd0 : d = 0
  · exact ite_run_neg (fun hne => hne hd0) (bind_run rfl rfl)
  · refine ite_run_pos hd0 (bind_run (a := ()) ?_ (bind_run rfl rfl))
    rw [hfl.resolve_left hd0]
    exact raiseFlags_none _

/-- Settles O34: the form runs to the addition at home, and the registers of its context stay as the tile writes the line back. -/
theorem exactSumsAddAtHome : Obligations.ExactSumsAddAtHome := by
  unfold Obligations.ExactSumsAddAtHome
  intro s d a b la l u h hd ha hb hs hc hsum hme hhelper hhome hdead v w hkey hroom hfl
  have hclean : u.sameButCache v := u.sameButCache_cleanLine u.myTile (lineOf l.pa)
  have hvme : v.me = s.me := ((congrArg v.ctx (State.cur_of_sameButCache hclean)).trans (State.ctx_of_sameButCache hclean u.cur)).trans hme
  refine ⟨_, exec_amoXadd_home h hd ha hb hs hc hsum hhelper hhome hdead hroom hfl, ?_⟩
  have hwin := State.windows_xaddDone hkey d la ((s.me.greg b).toNat % 2 ^ 32)
  obtain ⟨c, ts, hdone⟩ := v.xaddDone_eq d la l ((s.me.greg b).toNat % 2 ^ 32)
  rw [hvme] at hwin
  rw [hdone] at hwin ⊢
  exact ⟨State.sumEnt_sumAdded_self hkey _ _, fun x hx => State.sumEnt_sumAdded_ne hkey _ _ hx, State.byte_sumAdded hkey _ _,
    (State.verOf_congr rfl rfl _).trans (State.verOf_sumAdded hkey _ _), hwin⟩

end Sys2Proof.Machine
end

section
/-! PROOFS. A failed wax load and the order in which the state lists its contexts (R215, R279, R317). -/

namespace Sys2Proof.Machine

/-- A wax load from an address that holds no image, issued in a context that is live no longer. -/
def orphanLoad : QEntry :=
  { seq := 7, ord := 0, cid := 32, tag := 0, pc := 0, inst := .wxld 1 2, pfx := 0, a := 1, b := 0, qkw := 1, sr := [], vf := [], mf := [],
    since := 0, rel := none, replay := false, binds := [] }

/-- A device that lists context 16 before context 0, both live with the tag of the load that waits at tile 0. -/
def listedBackwards : State :=
  { State.reset with ctxs := [(16, { Ctx.reset with live := true }), (0, { Ctx.reset with live := true })],
                     tiles := [(0, { Tile.reset with wq := [orphanLoad] })] }

/-- The numbers of the late causes that a context holds after an outcome. -/
def lateAfter (c : Nat) : Host.Outcome State Fault Refusal → List Nat
  | .next t => (t.ctx c).late.map (fun l => l.seq)
  | _ => []

theorem listedBackwards_not_canonical : SMap.wf (fun _ => Ctx.reset) listedBackwards.ctxs = false := by decide +kernel

/-- Context 16 owns the load before it ends: the first live context of its tag in the list. -/
theorem owner_listedBackwards : listedBackwards.owner orphanLoad = some 16 := by decide +kernel

theorem readImage_listedBackwards : listedBackwards.readImage orphanLoad orphanLoad.a = .got [] listedBackwards := by rfl

/-- The end of the load writes the bindings of context 16, which stands behind context 0 in the list from then on: context 0 takes the cause. -/
theorem lateAfter_waxLoadComplete : lateAfter 16 (exec (.waxLoadComplete 0) listedBackwards) = [] ∧
    lateAfter 0 (exec (.waxLoadComplete 0) listedBackwards) = [7] := by decide +kernel

/-- Refutes O50: the statement takes every state, one whose contexts are not listed in rising order too. In such a state a load whose
context is gone from where it was issued belongs to the first live context of its tag in the list; its failure settles the bindings of that
context's core before it raises the cause, which puts the context back at its place in rising order, and the cause goes to another context of the
same tag. In the canonical form of the list that place is the one it had. -/
theorem not_waxLoadsStreamsAndReplays : ¬ Obligations.WaxLoadsStreamsAndReplays := by
  unfold Obligations.WaxLoadsStreamsAndReplays
  rintro ⟨hload, -⟩
  obtain ⟨-, -, hinvalid, -⟩ := hload listedBackwards listedBackwards 0 16 orphanLoad [] 1 2 rfl rfl owner_listedBackwards rfl rfl rfl
    (by decide +kernel)
  obtain ⟨u, hend, -, hlate, -⟩ := hinvalid readImage_listedBackwards rfl
  obtain ⟨hnone, -⟩ := lateAfter_waxLoadComplete
  have hsome : (u.ctx 16).late.map (fun l => l.seq) = [7] := by rw [hlate]; decide +kernel
  rw [hend] at hnone
  exact absurd (hsome.symm.trans hnone) (by decide)

end Sys2Proof.Machine
end

section
/-! PROOFS. Commands pass from a core's queue to their engines (R242, R248, R279, R406). -/

namespace Sys2Proof.Machine

/-- Nothing is pushed where nothing waits to be. -/
theorem State.feed_none {s : State} {k : Nat} (h : (s.core k).held = []) (n : Nat) : s.feed k n = s := by
  cases n with
  | zero => rfl
  | succ n => unfold State.feed; rw [h]

/-- A core's queue without its head. -/
def State.popHead (s : State) (k : Nat) : State := s.modCore k (fun x => { x with vq := x.vq.drop 1 })

theorem State.held_popHead (s : State) (k : Nat) : ((s.popHead k).core k).held = (s.core k).held := by
  unfold State.popHead
  rw [State.core_modCore_self]

theorem State.sameStore_popHead (s : State) (k : Nat) : s.sameStore (s.popHead k) := State.sameStore_modCore s k _

/-- Where nothing waits to be pushed, an acceptance is all that its row does. -/
theorem exec_engineAccept {s u : State} {k : Nat} (h : s.accept k = u) (hheld : (u.core k).held = []) : exec (.engineAccept k) s = .next u :=
  congrArg Host.Outcome.next ((congrArg (fun v : State => v.feed k 16) h).trans (State.feed_none hheld 16))

section
variable {s : State} {k : Nat} {q : QEntry} {qs : List QEntry} (hq : (s.core k).vq = q :: qs)
include hq

theorem State.vq_popHead : ((s.popHead k).core k).vq = qs := by
  unfold State.popHead
  rw [State.core_modCore_self, hq]
  rfl

/-- A matrix command passes to its engine's input while that holds fewer than sixteen (R406). -/
theorem State.accept_matrix (he : engineOf q.inst = some 3) : s.accept k =
    if (s.tile (coreTile k)).mq.length < 16 then (s.popHead k).modTile (coreTile k) (fun x => { x with mq := x.mq ++ [q] }) else s := by
  unfold State.accept
  rw [hq]
  dsimp only
  split
  case h_1 hwax => rw [hwax] at he; cases he
  case h_2 => rfl
  case h_3 hw _ => rw [he] at hw; cases hw
  case h_4 h3 _ hw _ => rw [he] at hw; cases hw; exact absurd rfl h3
  case h_5 hw _ => rw [he] at hw; cases hw

/-- A command of another engine than the matrix engine and the Glalin array passes to its engine, where that takes it (R242). -/
theorem State.accept_engine {n : Nat} (he : engineOf q.inst = some n) (hn : n ∉ [3, 6]) : s.accept k =
    match s.acceptCmd q n with | (some t, _) => t.popHead k | (none, t) => t := by
  unfold State.accept
  rw [hq]
  dsimp only
  split
  case h_1 hwax => rw [hwax] at he; cases he; exact absurd hn (by decide)
  case h_2 hw _ => rw [he] at hw; cases hw; exact absurd hn (by decide)
  case h_3 hw _ => rw [he] at hw; cases hw; exact absurd hn (by decide)
  case h_4 hw _ => rw [he] at hw; cases hw; rfl
  case h_5 hw _ => rw [he] at hw; cases hw

/-- A wax load joins the commands of its tile's array (R279). -/
theorem State.accept_waxLoad {a b : Reg} (hi : q.inst = .wxld a b) : s.accept k =
    ((s.popHead k).modTile (coreTile k) (fun x => { x with wq := x.wq ++ [q] })).waxRun (coreTile k) := by
  unfold State.accept
  rw [hq]
  dsimp only
  rw [hi]
  rfl

end

/-- Where the one command of a tile's array waits, nothing runs there (R286). -/
theorem State.waxRun_waits {s : State} {t : Nat} {q : QEntry} (h : (s.tile t).wq = [q]) (hq : q.waxNow = false) : s.waxRun t = s := by
  have hfirst : (waxHeads [q]).find? (fun q => q.waxNow) = none := by simp [waxHeads, hq]
  have hrun : s.waxRun t = s.waxDrain t 1 := by unfold State.waxRun; rw [h]; rfl
  rw [hrun]
  unfold State.waxDrain
  rw [h, hfirst]

/-- The command that an engine holds from its acceptance on, with the lines that its issue has taken (R242). -/
def State.accepted (s : State) (q : QEntry) (n : Nat) : State :=
  s.modTile (cidTile q.cid) (fun x => { x with eng := x.eng ++
    [{ id := q.qkw.toNat, eng := n, q := q, owned := (s.l2.filter (fun p => p.2.engine == some q.qkw.toNat)).map (fun p => p.1), moved := 0, src := [] }] })

theorem State.acceptCmd_owned (s : State) {q : QEntry} (h : q.qkw ≠ 0) (n : Nat) : s.acceptCmd q n = (some (s.accepted q n), s.accepted q n) :=
  if_pos h

theorem State.eng_accepted (s : State) (q : QEntry) (n : Nat) : ∃ o, ((s.accepted q n).tile (cidTile q.cid)).eng =
    (s.tile (cidTile q.cid)).eng ++ [{ id := q.qkw.toNat, eng := n, q := q, owned := o, moved := 0, src := [] }] := by
  unfold State.accepted
  rw [State.tile_modTile_self]
  exact ⟨_, rfl⟩

theorem State.sameStore_accepted (s : State) (q : QEntry) (n : Nat) : s.sameStore (s.accepted q n) :=
  State.sameStore_modTile s _ _ (fun _ => ⟨rfl, rfl, rfl⟩)

section
variable {s : State} {k : Nat} {q : QEntry} {qs : List QEntry} (hq : (s.core k).vq = q :: qs) (hheld : (s.core k).held = [])
include hq hheld

theorem engineAccept_matrix (he : engineOf q.inst = some 3) (hroom : (s.tile (coreTile k)).mq.length < 16) :
    ∃ u, exec (.engineAccept k) s = .next u ∧ (u.core k).vq = qs ∧
      (u.tile (coreTile k)).mq = (s.tile (coreTile k)).mq ++ [q] ∧ s.sameStore u := by
  refine ⟨_, exec_engineAccept ((State.accept_matrix hq he).trans (if_pos hroom)) ((s.held_popHead k).trans hheld),
    State.vq_popHead hq, ?_, State.sameStore_trans (s.sameStore_popHead k) (State.sameStore_modTile _ _ _ (fun _ => ⟨rfl, rfl, rfl⟩))⟩
  rw [State.tile_modTile_self]
  rfl

theorem engineAccept_full (he : engineOf q.inst = some 3) (hfull : 16 ≤ (s.tile (coreTile k)).mq.length) :
    exec (.engineAccept k) s = .next s :=
  exec_engineAccept ((State.accept_matrix hq he).trans (if_neg (Nat.not_lt.mpr hfull))) hheld

theorem engineAccept_engine {n : Nat} (he : engineOf q.inst = some n) (hn : n ∉ [3, 6]) (hkw : q.qkw ≠ 0) :
    ∃ u o, exec (.engineAccept k) s = .next u ∧ (u.core k).vq = qs ∧ (u.tile (cidTile q.cid)).eng =
      (s.tile (cidTile q.cid)).eng ++ [{ id := q.qkw.toNat, eng := n, q := q, owned := o, moved := 0, src := [] }] ∧ s.sameStore u := by
  have haccept : s.accept k = (s.accepted q n).popHead k := by
    rw [State.accept_engine hq he hn, s.acceptCmd_owned hkw]
  obtain ⟨o, ho⟩ := s.eng_accepted q n
  exact ⟨_, o, exec_engineAccept haccept ((State.held_popHead _ k).trans hheld), State.vq_popHead (s := s.accepted q n) hq, ho,
    State.sameStore_trans (s.sameStore_accepted q n) (State.sameStore_popHead _ k)⟩

theorem engineAccept_waxLoad {a b : Reg} (hi : q.inst = .wxld a b) (hfree : (s.tile (coreTile k)).wq = []) :
    ∃ u, exec (.engineAccept k) s = .next u ∧ (u.core k).vq = qs ∧ (u.tile (coreTile k)).wq = [q] := by
  have hwq : (((s.popHead k).modTile (coreTile k) (fun x => { x with wq := x.wq ++ [q] })).tile (coreTile k)).wq = [q] := by
    rw [State.tile_modTile_self]
    exact congrArg (· ++ [q]) hfree
  have hwaits : q.waxNow = false := by unfold QEntry.waxNow; rw [hi]
  exact ⟨_, exec_engineAccept ((State.accept_waxLoad hq hi).trans (State.waxRun_waits hwq hwaits)) ((s.held_popHead k).trans hheld),
    State.vq_popHead hq, hwq⟩

end

end Sys2Proof.Machine
end

section
/-! PROOFS. The accumulator store: words that are set or zeroed, and the blocks of integer commands (R82, R248). -/

namespace Sys2Proof

/-- What a map reads after its entries at some keys have gone. -/
theorem SMap.get_filter {α : Type} (d : Nat → α) (p : Nat → Bool) (m : SMap α) (k : Nat) :
    SMap.get d (m.filter (fun e => p e.1)) k = if p k then SMap.get d m k else d k := by
  induction m with
  | nil => simp [SMap.get]
  | cons e m ih =>
    obtain ⟨j, a⟩ := e
    cases hj : p j with
    | true =>
      rw [List.filter_cons_of_pos (p := fun e : Nat × α => p e.1) hj]
      by_cases hk : j = k
      · subst hk; simp [SMap.get, hj]
      · simpa [SMap.get, hk] using ih
    | false =>
      rw [List.filter_cons_of_neg (p := fun e : Nat × α => p e.1) (by simp [hj])]
      by_cases hk : j = k
      · subst hk; simpa [hj] using ih
      · simpa [SMap.get, hk] using ih

end Sys2Proof

namespace Sys2Proof.Machine

/-! One word of the store. -/

/-- The place of a word in the accumulator store. -/
def accKey (t row col : Nat) : Nat := (t * 128 + row) * 256 + col

theorem accKey_parts {t r c : Nat} (hr : r < 128) (hc : c < 256) :
    accKey t r c / 32768 = t ∧ accKey t r c / 256 % 128 = r ∧ accKey t r c % 256 = c := by
  unfold accKey
  omega

theorem State.accWord_setAcc_self (s : State) (t r c : Nat) (x : BitVec 32) : (s.setAcc t r c x).accWord t r c = x := SMap.get_set_self _ _ _

theorem State.accWord_setAcc_ne (s : State) {t r c i j : Nat} (x : BitVec 32) (hr : r < 128) (hc : c < 256) (hi : i < 128) (hj : j < 256)
    (h : ¬(i = r ∧ j = c)) : (s.setAcc t r c x).accWord t i j = s.accWord t i j := by
  refine SMap.get_set_ne _ _ (k := accKey t r c) (j := accKey t i j) (fun heq => h ?_)
  obtain ⟨-, hrow, hcol⟩ := accKey_parts (t := t) hr hc
  obtain ⟨-, hrow', hcol'⟩ := accKey_parts (t := t) hi hj
  rw [heq] at hrow' hcol'
  exact ⟨hrow'.symm.trans hrow, hcol'.symm.trans hcol⟩

/-- The words of some rows and columns are zero, and every other one stays. -/
theorem State.accWord_zeroAcc (s : State) {t i j : Nat} (hi : i < 128) (hj : j < 256) (row0 rows col0 cols : Nat) :
    (s.zeroAcc t row0 rows col0 cols).accWord t i j =
      if row0 ≤ i ∧ i < row0 + rows ∧ col0 ≤ j ∧ j < col0 + cols then 0 else s.accWord t i j := by
  obtain ⟨htile, hrow, hcol⟩ := accKey_parts (t := t) hi hj
  have hget := SMap.get_filter (fun _ => (0 : BitVec 32)) (fun k => !(k / 32768 == t && decide (row0 ≤ k / 256 % 128) &&
    decide (k / 256 % 128 < row0 + rows) && decide (col0 ≤ k % 256) && decide (k % 256 < col0 + cols))) s.acc (accKey t i j)
  refine hget.trans ?_
  rw [htile, hrow, hcol]
  by_cases h : row0 ≤ i ∧ i < row0 + rows ∧ col0 ≤ j ∧ j < col0 + cols
  · obtain ⟨h1, h2, h3, h4⟩ := h
    simp [h1, h2, h3, h4]
  · rw [if_neg h, if_pos]
    · rfl
    · simp only [beq_self_eq_true, Bool.true_and, Bool.not_eq_true', Bool.and_eq_false_iff, decide_eq_false_iff_not]
      omega

/-! The elements of a block, one after the other (R82-R84). -/

/-- A block's element: a row of the first tile and its number, and one of the second. -/
abbrev MmCell := (List Nat × Nat) × (List Nat × Nat)

/-- The update of one element. -/
def State.mmCell (s : State) (t row0 col0 : Nat) (p : Pfx) (tc : Bool) (scale : Option Word) (x : MmCell) : State :=
  s.setAcc t (row0 + x.1.2) (col0 + x.2.2)
    (BitVec.ofNat 32 (mmElem p tc scale (s.accWord t (row0 + x.1.2) (col0 + x.2.2)).toNat x.1.1 x.2.1).1)

/-- The elements of a block in the order of its update. -/
def mmCells (arows brows : List (List Nat)) : List MmCell := arows.zipIdx ×ˢ brows.zipIdx

theorem mem_mmCells {arows brows : List (List Nat)} {x : MmCell} : x ∈ mmCells arows brows ↔
    arows[x.1.2]? = some x.1.1 ∧ brows[x.2.2]? = some x.2.1 := by
  obtain ⟨⟨xs, i⟩, ys, j⟩ := x
  simp [mmCells, List.mk_mem_zipIdx_iff_getElem?]

theorem mmCells_nodup (arows brows : List (List Nat)) : (mmCells arows brows).Nodup :=
  (List.Nodup.of_map _ (List.nodup_zipIdx_map_snd arows)).product (List.Nodup.of_map _ (List.nodup_zipIdx_map_snd brows))

section
variable (s : State) (t row0 col0 : Nat) (p : Pfx) (tc : Bool) (scale : Option Word) (arows brows : List (List Nat))

theorem State.mmBlock_state : (s.mmBlock t row0 col0 p tc scale arows brows).1 =
    (mmCells arows brows).foldl (fun u x => u.mmCell t row0 col0 p tc scale x) s :=
  (List.foldl_hom Prod.fst (fun _ _ => rfl)).symm

/-- A block's update changes the accumulator store alone. -/
theorem State.mmBlock_eq : ∃ acc, (s.mmBlock t row0 col0 p tc scale arows brows).1 = { s with acc := acc } := by
  rw [State.mmBlock_state]
  refine foldl_keeps (fun u => ∃ acc, u = { s with acc := acc }) _ ?_ ⟨s.acc, rfl⟩
  rintro u x ⟨acc, rfl⟩
  exact ⟨_, rfl⟩

variable {arows brows} (hrows : row0 + arows.length ≤ 128) (hcols : col0 + brows.length ≤ 256)
include hrows hcols

theorem mmCells_place {x : MmCell} (hx : x ∈ mmCells arows brows) : row0 + x.1.2 < 128 ∧ col0 + x.2.2 < 256 := by
  obtain ⟨hr, hc⟩ := mem_mmCells.mp hx
  have h1 := (List.getElem?_eq_some_iff.mp hr).1
  have h2 := (List.getElem?_eq_some_iff.mp hc).1
  omega

/-- An element's update leaves the words of every other element of the block. -/
theorem State.accWord_mmCell_ne {x y : MmCell} (hx : x ∈ mmCells arows brows) (hy : y ∈ mmCells arows brows) (h : x ≠ y) :
    (s.mmCell t row0 col0 p tc scale x).accWord t (row0 + y.1.2) (col0 + y.2.2) = s.accWord t (row0 + y.1.2) (col0 + y.2.2) := by
  obtain ⟨hxr, hxc⟩ := mmCells_place row0 col0 hrows hcols hx
  obtain ⟨hyr, hyc⟩ := mmCells_place row0 col0 hrows hcols hy
  refine State.accWord_setAcc_ne _ _ hxr hxc hyr hyc (fun ⟨hrow, hcol⟩ => h ?_)
  obtain ⟨⟨xs, i⟩, ys, j⟩ := x
  obtain ⟨⟨xs', i'⟩, ys', j'⟩ := y
  obtain ⟨hxa, hxb⟩ := mem_mmCells.mp hx
  obtain ⟨hya, hyb⟩ := mem_mmCells.mp hy
  obtain rfl : i' = i := by simpa using hrow
  obtain rfl : j' = j := by simpa using hcol
  obtain rfl : xs = xs' := Option.some.inj (hxa.symm.trans hya)
  obtain rfl : ys = ys' := Option.some.inj (hxb.symm.trans hyb)
  rfl

/-- Every word of a block becomes what its element makes of it. -/
theorem State.accWord_mmBlock_in {x : MmCell} (hx : x ∈ mmCells arows brows) :
    (s.mmBlock t row0 col0 p tc scale arows brows).1.accWord t (row0 + x.1.2) (col0 + x.2.2) =
      BitVec.ofNat 32 (mmElem p tc scale (s.accWord t (row0 + x.1.2) (col0 + x.2.2)).toNat x.1.1 x.2.1).1 := by
  rw [State.mmBlock_state, ← List.foldl_attach]
  obtain ⟨u, hu, hend⟩ := foldl_once (f := fun (u : State) (y : { y // y ∈ mmCells arows brows }) => u.mmCell t row0 col0 p tc scale y.1)
    (g := fun u => u.accWord t (row0 + x.1.2) (col0 + x.2.2)) (List.mem_attach _ ⟨x, hx⟩) (List.nodup_attach.mpr (mmCells_nodup arows brows))
    (fun u y hy => u.accWord_mmCell_ne t row0 col0 p tc scale hrows hcols y.2 hx (fun heq => hy (Subtype.ext heq))) s
  exact hend.trans ((State.accWord_setAcc_self _ _ _ _ _).trans (by rw [hu]))

/-- Every word outside the block stays. -/
theorem State.accWord_mmBlock_out {i j : Nat} (hi : i < 128) (hj : j < 256)
    (h : ¬(row0 ≤ i ∧ i < row0 + arows.length ∧ col0 ≤ j ∧ j < col0 + brows.length)) :
    (s.mmBlock t row0 col0 p tc scale arows brows).1.accWord t i j = s.accWord t i j := by
  rw [State.mmBlock_state]
  refine List.foldlRecOn (motive := fun u : State => u.accWord t i j = s.accWord t i j) _ _ rfl (fun u hu x hx => Eq.trans ?_ hu)
  obtain ⟨hxr, hxc⟩ := mmCells_place row0 col0 hrows hcols hx
  obtain ⟨hr, hc⟩ := mem_mmCells.mp hx
  have h1 := (List.getElem?_eq_some_iff.mp hr).1
  have h2 := (List.getElem?_eq_some_iff.mp hc).1
  exact State.accWord_setAcc_ne _ _ hxr hxc hi hj (by omega)

end

end Sys2Proof.Machine
end

section
/-! PROOFS. Integer blocks: rows of operand tiles and the sum of an element's products (R82, R247). -/

namespace Sys2Proof.Machine

/-- The k-th piece of a list starts behind k pieces. -/
theorem pieces_eq {α : Type} (n k : Nat) (xs : List α) : pieces n k xs = (List.range k).map (fun i => (xs.drop (n * i)).take n) := by
  induction k generalizing xs with
  | zero => rfl
  | succ k ih =>
    rw [pieces, ih, List.range_succ_eq_map, List.map_cons, List.map_map]
    refine congrArg₂ List.cons rfl (List.map_congr_left fun i _ => ?_)
    show ((xs.drop n).drop (n * i)).take n = (xs.drop (n * (i + 1))).take n
    rw [List.drop_drop, Nat.mul_succ, Nat.add_comm]

/-- Row r of an operand tile of bytes. -/
def byteRow (bs : List Byte) (r : Nat) : List Nat := (List.range 128).map (fun n => (bs.getD (128 * r + n) 0).toNat)

/-- The rows of a tile of an 8-bit integer format (R247). -/
theorem tileRows_int8 {f : Fmt} (hf : f ∈ [Fmt.i8, Fmt.z8]) {bs : List Byte} (hlen : bs.length = 4096) :
    tileRows f bs = (List.range 32).map (byteRow bs) := by
  have hrow : rowBytes f = 128 ∧ ∀ l : List Byte, rowCodes f l = l.map (fun b => b.toNat) := by
    simp only [List.mem_cons, List.not_mem_nil, or_false] at hf
    rcases hf with rfl | rfl <;> exact ⟨rfl, fun _ => rfl⟩
  obtain ⟨hbytes, hcodes⟩ := hrow
  unfold tileRows
  rw [hbytes, pieces_eq, List.map_map]
  refine List.map_congr_left fun r hr => ?_
  have hr32 : r < 32 := List.mem_range.mp hr
  show rowCodes f _ = byteRow bs r
  rw [hcodes]
  refine List.ext_getElem ?_ (fun n hn _ => ?_)
  · simp [byteRow]; omega
  · have hn128 : n < 128 := by simp at hn; omega
    have hin : 128 * r + n < bs.length := by omega
    simp [byteRow, List.getElem?_eq_getElem hin]

/-- The value of a 32-bit word as an integer. -/
theorem intValue_i32 (x : BitVec 32) : Fmt.intValue .i32 x.toNat = x.toInt := by
  have hx := x.isLt
  have hdef : Fmt.intValue .i32 x.toNat =
      if 2 ^ 31 ≤ x.toNat % 2 ^ 32 then ((x.toNat % 2 ^ 32 : Nat) : Int) - 2 ^ 32 else ((x.toNat % 2 ^ 32 : Nat) : Int) := by
    simp [Fmt.intValue, Fmt.isSigned, Fmt.width]
  rw [hdef, Nat.mod_eq_of_lt hx, BitVec.toInt_eq_toNat_cond]
  by_cases hneg : 2 ^ 31 ≤ x.toNat
  · rw [if_pos hneg, if_neg (by omega)]
    rfl
  · rw [if_neg hneg, if_pos (by omega)]

theorem ofNat_wrapTo (i : Int) : BitVec.ofNat 32 (wrapTo 32 i) = BitVec.ofInt 32 i := by
  apply BitVec.eq_of_toNat_eq
  rw [BitVec.toNat_ofNat, BitVec.toNat_ofInt]
  unfold wrapTo
  omega

/-- An element of integer operands that wraps is the accumulator plus the sum of the products (R82). -/
theorem ofNat_mmElemInt (fa fb : Fmt) (acc : BitVec 32) (as bs : List Byte) (a b : Nat) :
    BitVec.ofNat 32 (mmElemInt fa fb false acc.toNat (byteRow as a) (byteRow bs b)) =
      BitVec.ofInt 32 (acc.toInt + ((List.range 128).map (fun n =>
        fa.intValue (as.getD (128 * a + n) 0).toNat * fb.intValue (bs.getD (128 * b + n) 0).toNat)).sum) := by
  unfold mmElemInt
  rw [intValue_i32]
  refine (ofNat_wrapTo _).trans (congrArg (fun i => BitVec.ofInt 32 (acc.toInt + i)) ?_)
  unfold byteRow
  rw [List.zip_map', List.foldl_map, List.sum_eq_foldl, List.foldl_map]

theorem mmElem_int {p : Pfx} (hint : p.fa.isInt = true) (tc : Bool) (acc : Nat) (xs ys : List Nat) :
    mmElem p tc none acc xs ys = (mmElemInt p.fa p.fb p.sat acc xs ys, Flags.none) := by
  unfold mmElem
  dsimp only
  rw [if_pos hint]

/-- Integer operands raise no flag. -/
theorem State.mmBlock_flags {p : Pfx} (hint : p.fa.isInt = true) (s : State) (t row0 col0 : Nat) (tc : Bool) (arows brows : List (List Nat)) :
    ∀ f ∈ (s.mmBlock t row0 col0 p tc none arows brows).2, f.2 = Flags.none := by
  unfold State.mmBlock
  refine foldl_keeps (fun (r : State × List (Nat × Flags)) => ∀ f ∈ r.2, f.2 = Flags.none) _ (fun r x hr f hf => ?_) (by simp)
  rcases List.mem_cons.mp hf with rfl | hf
  · dsimp only
    rw [mmElem_int hint]
  · exact hr f hf

end Sys2Proof.Machine
end

section
/-! PROOFS. A matrix command retires: its block, its pops and its count (R82, R98, R248, R273). -/

namespace Sys2Proof.Machine

/-! What the count of a completed command changes (R273). -/

theorem State.tile_countDone (s : State) (q : QEntry) (t : Nat) : ∃ d, (s.countDone q).tile t = { s.tile t with doneCnt := d } := by
  unfold State.countDone State.countOn
  split
  · exact ⟨_, rfl⟩
  · by_cases ht : t = cidTile q.cid
    · subst ht
      rw [State.tile_modTile_self]
      exact ⟨_, rfl⟩
    · rw [State.tile_modTile_ne _ _ ht]
      exact ⟨_, rfl⟩

theorem State.countDone_eq (s : State) (q : QEntry) : ∃ ts, s.countDone q = { s with tiles := ts } := by
  unfold State.countDone State.countOn
  split
  · exact ⟨_, rfl⟩
  · exact ⟨_, rfl⟩

/-! Elements without flags (R76). -/

theorem firstCause_none {fls : List (Nat × Flags)} (h : ∀ f ∈ fls, f.2 = Flags.none) (m : Flags) : firstCause fls m = none := by
  have hfilter : fls.filter (fun p => p.2 != Flags.none) = [] := by
    rw [List.filter_eq_nil_iff]
    intro f hf
    simp [h f hf]
  unfold firstCause
  dsimp only
  rw [hfilter]
  rfl

theorem State.raiseFirst_none {fls : List (Nat × Flags)} (h : ∀ f ∈ fls, f.2 = Flags.none) (s : State) (q : QEntry) :
    s.raiseFirst q fls = s := by
  have hor : fls.foldl (fun (f : Flags) p => f ||| p.2) Flags.none = 0 :=
    List.foldlRecOn (motive := fun f => f = 0) _ _ rfl (fun f hf p hp => by rw [hf, h p hp]; rfl)
  have hcause : (fun x : Word => firstCause fls (x.setWidth 5)) = fun _ => none := funext fun x => firstCause_none h _
  unfold State.raiseFirst State.raiseOr
  dsimp only
  rw [hor, hcause]
  have hflags : s.orFlagsOf q 0 = s := if_pos rfl
  rw [hflags, Option.bind_fun_none]

/-! The pops of a ring (R98). -/

theorem State.ring_congr {s u : State} {t : Nat} (h : (u.tile t).sr = (s.tile t).sr) (k : Nat) : u.ring t k = s.ring t k := by
  unfold State.ring Tile.sreg
  rw [h]

theorem Ring.modulus_le (r : Ring) : r.modulus ≤ 2 ^ 32 := Nat.mul_div_le _ _

/-- A pop advances its ring's head. -/
theorem State.head_ringHead {s : State} {t k : Nat} (h : (s.ring t k).valid = true) (n : Nat) :
    ((s.ringHead t k n).ring t k).head = ((s.ring t k).head + n) % (s.ring t k).modulus := by
  have hhead : (s.ring t k).head < (s.ring t k).modulus := by
    unfold Ring.valid at h
    simp only [Bool.and_eq_true, decide_eq_true_eq] at h
    omega
  have hle := (s.ring t k).modulus_le
  have hlt : ((s.ring t k).head + n) % (s.ring t k).modulus < (s.ring t k).modulus := Nat.mod_lt _ (by omega)
  have hreg : ((s.ringHead t k n).tile t).sreg (0x200 + 8 * k + 3) = BitVec.ofNat 64 (((s.ring t k).head + n) % (s.ring t k).modulus) := by
    unfold State.ringHead
    rw [State.tile_modTile_self, show 0x200 + 8 * k + 3 = 0x203 + 8 * k by omega]
    exact SMap.get_set_self _ _ _
  show ((((s.ringHead t k n).tile t).sreg (0x200 + 8 * k + 3)).extractLsb' 0 32).toNat = _
  rw [hreg]
  simp only [BitVec.extractLsb'_toNat, BitVec.toNat_ofNat, Nat.shiftRight_zero]
  omega

/-- Beside the special registers of its tile an advance of a head changes nothing. -/
theorem State.tile_ringHead (s : State) (t k n : Nat) : ∃ m, (s.ringHead t k n).tile t = { s.tile t with sr := m } := by
  unfold State.ringHead
  rw [State.tile_modTile_self]
  exact ⟨_, rfl⟩

/-! The oldest command. -/

/-- A tile whose oldest command has written its block and left. -/
def State.blockDone (s : State) (t : Nat) (r : MRun) (rs : List MRun) : State :=
  (s.mmBlock t (r.q.b.toNat % 128) (r.q.b.toNat / 256 % 256) r.q.mmPfx r.tc r.q.scale (tileRows r.q.mmPfx.fa r.abyte)
    (tileRows r.q.mmPfx.fb r.bbyte)).1.modTile t (fun x => { x with mrun := rs })

/-- The same after its pops and its count. -/
def State.retired (s : State) (t : Nat) (r : MRun) (rs : List MRun) : State :=
  (r.pops.foldl (fun u k => u.ringHead t k 1) (s.blockDone t r rs)).countDone r.q

section
variable {s : State} {t : Nat} {r : MRun} {rs : List MRun} (hrun : (s.tile t).mrun = r :: rs)

include hrun in
theorem exec_matrixRetire_open (hopen : r.paired = false) : exec (.matrixCommandRetire t) s = .next s := by
  refine congrArg Host.Outcome.next (?_ : s.matrixRetire t = s)
  unfold State.matrixRetire
  rw [hrun]
  exact if_pos (by simp [MRun.open, hopen])

include hrun in
theorem exec_matrixRetire_int (hpaired : r.paired = true) (hscale : r.q.scale = none) (hint : r.q.mmPfx.fa.isInt = true) :
    exec (.matrixCommandRetire t) s = .next (s.retired t r rs) := by
  refine congrArg Host.Outcome.next (?_ : s.matrixRetire t = s.retired t r rs)
  have hflags := s.mmBlock_flags hint t (r.q.b.toNat % 128) (r.q.b.toNat / 256 % 256) r.tc (tileRows r.q.mmPfx.fa r.abyte)
    (tileRows r.q.mmPfx.fb r.bbyte)
  unfold State.matrixRetire State.retired State.blockDone
  rw [hrun]
  refine (if_neg (by simp [MRun.open, hpaired])).trans ?_
  dsimp only
  rw [hscale]
  exact State.raiseFirst_none hflags _ _

/-- A fold of pops leaves everything but special registers of its tile. -/
theorem State.mrun_pops (u : State) (ks : List Nat) : ((ks.foldl (fun u k => u.ringHead t k 1) u).tile t).mrun = (u.tile t).mrun :=
  foldl_leaves (g := fun u : State => (u.tile t).mrun) (fun u k => by obtain ⟨m, h⟩ := u.tile_ringHead t k 1; rw [h]) ks u

theorem State.mrun_retired : ((s.retired t r rs).tile t).mrun = rs := by
  obtain ⟨d, h⟩ := (r.pops.foldl (fun u k => u.ringHead t k 1) (s.blockDone t r rs)).tile_countDone r.q t
  unfold State.retired
  rw [h]
  refine (State.mrun_pops _ _).trans ?_
  unfold State.blockDone
  rw [State.tile_modTile_self]

theorem State.ring_blockDone (k : Nat) : (s.blockDone t r rs).ring t k = s.ring t k := by
  refine State.ring_congr ?_ k
  obtain ⟨acc, h⟩ := s.mmBlock_eq t (r.q.b.toNat % 128) (r.q.b.toNat / 256 % 256) r.q.mmPfx r.tc r.q.scale (tileRows r.q.mmPfx.fa r.abyte)
    (tileRows r.q.mmPfx.fb r.bbyte)
  unfold State.blockDone
  rw [h, State.tile_modTile_self]
  rfl

/-- R98: the one pop of a command advances its ring. -/
theorem State.head_retired {k : Nat} (hpop : r.pops = [k]) (hvalid : (s.ring t k).valid = true) :
    ((s.retired t r rs).ring t k).head = ((s.ring t k).head + 1) % (s.ring t k).modulus := by
  have hring := s.ring_blockDone (t := t) (r := r) (rs := rs) k
  have hcount : (s.retired t r rs).ring t k = ((s.blockDone t r rs).ringHead t k 1).ring t k := by
    unfold State.retired
    rw [hpop]
    obtain ⟨d, h⟩ := ((s.blockDone t r rs).ringHead t k 1).tile_countDone r.q t
    exact State.ring_congr (congrArg Tile.sr h :) k
  rw [hcount, State.head_ringHead (by rw [hring]; exact hvalid), hring]

theorem State.accWord_retired (i j : Nat) : (s.retired t r rs).accWord t i j =
    (s.mmBlock t (r.q.b.toNat % 128) (r.q.b.toNat / 256 % 256) r.q.mmPfx r.tc r.q.scale (tileRows r.q.mmPfx.fa r.abyte)
      (tileRows r.q.mmPfx.fb r.bbyte)).1.accWord t i j := by
  obtain ⟨ts, h⟩ := (r.pops.foldl (fun u k => u.ringHead t k 1) (s.blockDone t r rs)).countDone_eq r.q
  unfold State.retired
  rw [h]
  exact (foldl_leaves (f := fun u k => u.ringHead t k 1) (g := fun u : State => u.accWord t i j) (fun _ _ => rfl) r.pops (s.blockDone t r rs)).trans
    (State.accWord_modTile _ _ _ _ _ _)

end

/-- An origin that passes the check of its command is that of a block inside the store (R248). -/
theorem originOk_block {b : Word} {tag : Bool} (h : originOk b tag = true) :
    b.toNat % 128 + 32 ≤ 128 ∧ b.toNat / 256 % 256 + 32 ≤ 256 := by
  unfold originOk at h
  simp only [Bool.and_eq_true, decide_eq_true_eq] at h
  omega

/-- R82: with integer operands that wrap, each element of the block is the accumulator plus the sum of 128 products. -/
theorem State.accWord_retired_int {s : State} {t : Nat} {r : MRun} (rs : List MRun) (hscale : r.q.scale = none)
    (hblock : originOk r.q.b false = true) (ha : r.q.mmPfx.fa ∈ [Fmt.i8, Fmt.z8]) (hb : r.q.mmPfx.fb ∈ [Fmt.i8, Fmt.z8])
    (hsat : r.q.mmPfx.sat = false) (hint : r.q.mmPfx.fa.isInt = true) (halen : r.abyte.length = 4096) (hblen : r.bbyte.length = 4096)
    {i j : Nat} (hi : i < 128) (hj : j < 256) : (s.retired t r rs).accWord t i j =
      if r.q.b.toNat % 128 ≤ i ∧ i < r.q.b.toNat % 128 + 32 ∧ r.q.b.toNat / 256 % 256 ≤ j ∧ j < r.q.b.toNat / 256 % 256 + 32 then
        BitVec.ofInt 32 ((s.accWord t i j).toInt + ((List.range 128).map (fun n =>
          r.q.mmPfx.fa.intValue (r.abyte.getD (128 * (i - r.q.b.toNat % 128) + n) 0).toNat *
          r.q.mmPfx.fb.intValue (r.bbyte.getD (128 * (j - r.q.b.toNat / 256 % 256) + n) 0).toNat)).sum)
      else s.accWord t i j := by
  obtain ⟨hrows, hcols⟩ := originOk_block hblock
  have hlen (bs : List Byte) : ((List.range 32).map (byteRow bs)).length = 32 := by simp
  rw [State.accWord_retired, tileRows_int8 ha halen, tileRows_int8 hb hblen, hscale]
  generalize r.q.b.toNat % 128 = row at *
  generalize r.q.b.toNat / 256 % 256 = col at *
  by_cases hin : row ≤ i ∧ i < row + 32 ∧ col ≤ j ∧ j < col + 32
  · obtain ⟨a, rfl⟩ := Nat.exists_eq_add_of_le hin.1
    obtain ⟨b, rfl⟩ := Nat.exists_eq_add_of_le hin.2.2.1
    have hcell : ((byteRow r.abyte a, a), (byteRow r.bbyte b, b)) ∈
        mmCells ((List.range 32).map (byteRow r.abyte)) ((List.range 32).map (byteRow r.bbyte)) := by
      have ha32 : a < 32 := by omega
      have hb32 : b < 32 := by omega
      simp [mem_mmCells, ha32, hb32]
    rw [if_pos hin, Nat.add_sub_cancel_left, Nat.add_sub_cancel_left]
    refine (State.accWord_mmBlock_in s t row col _ _ _ (by rw [hlen]; exact hrows) (by rw [hlen]; exact hcols) hcell).trans ?_
    rw [mmElem_int hint, hsat]
    exact ofNat_mmElemInt _ _ _ _ _ _ _
  · rw [if_neg hin]
    exact State.accWord_mmBlock_out s t row col _ _ _ (by rw [hlen]; exact hrows) (by rw [hlen]; exact hcols) hi hj (by rw [hlen, hlen]; exact hin)

end Sys2Proof.Machine
end

section
/-! PROOFS. A late cause leaves the matrix engines' commands where they are (R215, R312). -/

namespace Sys2Proof.Machine

/-- Whether two states hold the same commands in their matrix engines, and the same halves in their pair buffers. -/
def State.sameMatrix (s u : State) : Prop :=
  ∀ t, (u.tile t).mq = (s.tile t).mq ∧ (u.tile t).mrun = (s.tile t).mrun ∧ (u.tile t).half = (s.tile t).half

theorem State.sameMatrix_trans {s u v : State} (h : s.sameMatrix u) (k : u.sameMatrix v) : s.sameMatrix v := fun t =>
  ⟨(k t).1.trans (h t).1, (k t).2.1.trans (h t).2.1, (k t).2.2.trans (h t).2.2⟩

theorem State.sameMatrix_of_tiles {s u : State} (h : u.tiles = s.tiles) : s.sameMatrix u := fun t => by
  have htile : u.tile t = s.tile t := by
    unfold State.tile
    rw [h]
  rw [htile]
  exact ⟨rfl, rfl, rfl⟩

theorem State.sameMatrix_modTile (s : State) {t : Nat} {f : Tile → Tile}
    (hf : ∀ x : Tile, (f x).mq = x.mq ∧ (f x).mrun = x.mrun ∧ (f x).half = x.half) : s.sameMatrix (s.modTile t f) := fun u => by
  by_cases hu : u = t
  · subst hu
    rw [State.tile_modTile_self]
    exact hf _
  · rw [State.tile_modTile_ne _ _ hu]
    exact ⟨rfl, rfl, rfl⟩

theorem State.sameMatrix_countDone (s : State) (q : QEntry) : s.sameMatrix (s.countDone q) := fun t => by
  obtain ⟨d, h⟩ := s.tile_countDone q t
  rw [h]
  exact ⟨rfl, rfl, rfl⟩

theorem State.sameMatrix_noteLate (s : State) (q : QEntry) (e : Cause) : s.sameMatrix (s.noteLate q e) := by
  unfold State.noteLate
  split
  · exact State.sameMatrix_of_tiles rfl
  · exact s.sameMatrix_modTile (fun _ => ⟨rfl, rfl, rfl⟩)

theorem State.tiles_setTmBytes (s : State) (t v o : Nat) (bs : List Byte) : (s.setTmBytes t v o bs).tiles = s.tiles := by
  induction bs generalizing s o with
  | nil => rfl
  | cons b bs ih => exact ih (s.setTmByte t v o b) (o + 1)

theorem State.tiles_framePut (s : State) (yard : Nat) (p : FramePlace) (off n : Nat) : (s.framePut yard p off n).tiles = s.tiles := by
  cases p with
  | tm t o => exact s.tiles_setTmBytes t 0 (o + off) _
  | mem pa pg =>
    obtain ⟨_, _, _, _, _, _, h⟩ := s.sameButHome_homeWrite 0x10000 yard pg ((leBytes 8 n).zipIdx.map (fun q => (pa + off + q.2, q.1)))
    unfold State.framePut
    dsimp only
    rw [h]

theorem State.tiles_addRecord (s : State) (c : Nat) (r : TaskFault) : (s.addRecord c r).tiles = s.tiles := by
  unfold State.addRecord
  split
  · rfl
  · split
    · split
      · unfold State.frameRecord
        dsimp only
        split
        · rw [State.tiles_framePut, State.tiles_framePut]
        · exact s.tiles_framePut _ _ _ _
      · rfl
    · rfl

/-- The owner of a command of no helper is none: the context that issued it, or a control context of its task. -/
theorem State.owner_control {s : State} {q : QEntry} (hq : isHelperSlot (cidSlot q.cid) = false) {c : Nat} (h : s.owner q = some c) :
    isHelperSlot (cidSlot c) = false := by
  unfold State.owner at h
  dsimp only at h
  split at h
  · cases h
    exact hq
  · rw [hq] at h
    have hfound := List.find?_some h
    simp only [Bool.and_eq_true, beq_iff_eq] at hfound
    rw [hfound.2]
    rfl

section
variable {s : State} {q : QEntry} (hq : ∀ c, s.owner q = some c → isHelperSlot (cidSlot c) = false) (e : Cause) (m k : Nat) (tv : Word)
include hq

/-- R305, R314: the late cause of a command that is no helper's ends no task. -/
theorem State.tiles_raiseLate : (s.raiseLate q e m k tv).tiles = (s.noteLate q e).tiles := by
  obtain ⟨ts, hnote⟩ := s.noteLate_eq q e
  have howner : (s.noteLate q e).owner q = s.owner q := by rw [hnote]; rfl
  unfold State.raiseLate
  dsimp only
  rw [howner]
  cases ho : s.owner q with
  | some c =>
    cases q.rel with
    | some rel => exact State.tiles_addRecord _ _ _
    | none =>
      dsimp only
      rw [hq c ho]
      rfl
  | none =>
    cases q.rel with
    | some rel =>
      dsimp only
      split
      · exact State.tiles_addRecord _ _ _
      · rfl
    | none =>
      dsimp only
      split <;> rfl

theorem State.sameMatrix_raiseLate : s.sameMatrix (s.raiseLate q e m k tv) :=
  State.sameMatrix_trans (s.sameMatrix_noteLate q e) (State.sameMatrix_of_tiles (State.tiles_raiseLate hq e m k tv))

/-- A cause that waits for its context's drain still waits after another one of no helper. -/
theorem State.late_mem_raiseLate {c : Nat} {l : Late} (hl : l ∈ (s.ctx c).late) : l ∈ ((s.raiseLate q e m k tv).ctx c).late := by
  obtain ⟨ts, hnote⟩ := s.noteLate_eq q e
  have howner : (s.noteLate q e).owner q = s.owner q := by rw [hnote]; rfl
  have hl' : l ∈ ((s.noteLate q e).ctx c).late := by rw [hnote]; exact hl
  unfold State.raiseLate
  dsimp only
  rw [howner]
  cases ho : s.owner q with
  | some d =>
    cases q.rel with
    | some rel =>
      dsimp only
      rw [State.late_addRecord]
      exact hl'
    | none =>
      dsimp only
      rw [hq d ho, if_neg Bool.false_ne_true]
      by_cases hd : c = d
      · subst hd
        rw [State.ctx_modCtx_self]
        exact List.mem_append_left _ hl'
      · rw [State.ctx_modCtx_ne _ _ hd]
        exact hl'
  | none =>
    cases q.rel with
    | some rel =>
      dsimp only
      split
      · rw [State.late_addRecord]
        exact hl'
      · exact hl'
    | none =>
      dsimp only
      split <;> exact hl'

end
end Sys2Proof.Machine
end

section
/-! PROOFS. The command at the front of the matrix engine waits, starts, or fails (R98, R124, R248, R251, R254). -/

namespace Sys2Proof.Machine

/-- A tile whose matrix engine's front command has left its input. -/
def State.mqDropped (s : State) (t : Nat) (qs : List QEntry) : State := s.modTile t (fun x => { x with mq := qs })

theorem State.tile_mqDropped (s : State) (t : Nat) (qs : List QEntry) : (s.mqDropped t qs).tile t = { s.tile t with mq := qs } :=
  State.tile_modTile_self _ _ _

/-- A command that is done as it starts counts; one that reads operand rings counts as it retires (R273). -/
def State.started (u : State) (t : Nat) (q : QEntry) (qs : List QEntry) : State :=
  if q.rings.length = 2 then u.mqDropped t qs else (u.mqDropped t qs).countDone q

theorem State.started_frame (u : State) (t : Nat) (q : QEntry) (qs : List QEntry) :
    ((u.started t q qs).tile t).mq = qs ∧ ((u.started t q qs).tile t).mrun = (u.tile t).mrun ∧
      ∀ r c, (u.started t q qs).accWord t r c = u.accWord t r c := by
  unfold State.started
  split
  · rw [State.tile_mqDropped]
    exact ⟨rfl, rfl, fun _ _ => rfl⟩
  · obtain ⟨d, htile⟩ := (u.mqDropped t qs).tile_countDone q t
    obtain ⟨ts, hall⟩ := (u.mqDropped t qs).countDone_eq q
    rw [htile, State.tile_mqDropped, hall]
    exact ⟨rfl, rfl, fun _ _ => rfl⟩

section
variable {s u : State} {t : Nat} {q : QEntry} {qs : List QEntry} (hmq : (s.tile t).mq = q :: qs)
include hmq

theorem exec_matrixStart_wait (h : s.startMatrix t q = .wait u) : exec (.matrixCommandStart t) s = .next u := by
  refine congrArg Host.Outcome.next (?_ : s.matrixStart t = u)
  unfold State.matrixStart
  rw [hmq]
  dsimp only
  rw [h]

theorem exec_matrixStart_ok (h : s.startMatrix t q = .ok u) : exec (.matrixCommandStart t) s = .next (u.started t q qs) := by
  refine congrArg Host.Outcome.next (?_ : s.matrixStart t = u.started t q qs)
  unfold State.matrixStart
  rw [hmq]
  dsimp only
  rw [h]
  rfl

theorem exec_matrixStart_bad {a b : Reg} (hi : q.inst = .mm a b) {c : Cause} {tv : Word} (h : s.startMatrix t q = .bad c tv) :
    exec (.matrixCommandStart t) s = .next (((s.mqDropped t qs).countDone q).raiseLate q c 0 0 tv) := by
  refine congrArg Host.Outcome.next (?_ : s.matrixStart t = _)
  unfold State.matrixStart
  rw [hmq]
  dsimp only
  rw [h, hi]
  rfl

end

/-! The attempt to start. -/

theorem startMatrix_held {s : State} {t : Nat} {q : QEntry} (h : s.accHeld t q = true ∨ s.overtakes q 0 = true) :
    s.startMatrix t q = .wait s := if_pos (by simpa using h)

section
variable {s : State} {t : Nat} {q : QEntry} (hheld : s.accHeld t q = false) (hover : s.overtakes q 0 = false)
include hheld hover

theorem startMatrix_mzero {a : Reg} (hi : q.inst = .mzero a) (hrun : (s.tile t).mrun = []) :
    s.startMatrix t q = .ok (s.zeroAcc t (q.a.toNat % 128) 32 (q.a.toNat / 256 % 256) 32) := by
  unfold State.startMatrix
  dsimp only
  rw [if_neg (by simp [hheld, hover]), hi, hrun]
  rfl

theorem startMatrix_mm {a b : Reg} (hi : q.inst = .mm a b) : ∃ tc, s.startMatrix t q = s.startMm t q tc := by
  unfold State.startMatrix
  dsimp only
  rw [if_neg (by simp [hheld, hover]), hi]
  exact ⟨_, rfl⟩

end

/-- How far behind its ring's head the second operand of an MM lies: a slot behind the first one's, where both name one ring (R98). -/
def QEntry.secondSlot (q : QEntry) : Nat := if q.a.toNat % 8 = q.a.toNat / 16 % 8 then 1 else 0

/-- The command that an MM starts while no other is started, with its operand tiles from the heads of its rings. -/
def State.mmRun (s : State) (t : Nat) (q : QEntry) (tc : Bool) : MRun :=
  { q := q, tc := tc, pops := mmPops q.a, paired := true, partner := s.partnerOf t,
    abyte := s.tmBytes t (s.ring t (q.a.toNat % 8)).view ((s.ring t (q.a.toNat % 8)).slotOff (s.ring t (q.a.toNat % 8)).head)
      (tileBytes q.mmPfx.fa),
    bbyte := s.tmBytes t (s.ring t (q.a.toNat / 16 % 8)).view
      ((s.ring t (q.a.toNat / 16 % 8)).slotOff ((s.ring t (q.a.toNat / 16 % 8)).head + q.secondSlot)) (tileBytes q.mmPfx.fb) }

theorem startMm_format {s : State} {t : Nat} {q : QEntry} (hpair : pairOk q.mmPfx.fa q.mmPfx.fb = false) (tc : Bool) :
    s.startMm t q tc = .bad .operandFormat 0 := if_pos (by simp [hpair])

/-- An MM whose rings are sound starts where both hold its operands, and waits otherwise. -/
theorem startMm_mm {s : State} {t : Nat} {q : QEntry} {a b : Reg} (hi : q.inst = .mm a b) (hrun : (s.tile t).mrun = [])
    (hpair : pairOk q.mmPfx.fa q.mmPfx.fb = true) (ha : (s.ring t (q.a.toNat % 8)).valid = true)
    (hb : (s.ring t (q.a.toNat / 16 % 8)).valid = true) (hsa : tileBytes q.mmPfx.fa ≤ (s.ring t (q.a.toNat % 8)).tileBytes)
    (hsb : tileBytes q.mmPfx.fb ≤ (s.ring t (q.a.toNat / 16 % 8)).tileBytes) (tc : Bool) : s.startMm t q tc =
      if (s.ring t (q.a.toNat % 8)).held ≤ 0 ∨ (s.ring t (q.a.toNat / 16 % 8)).held ≤ q.secondSlot then .wait s
      else .ok (s.modTile t (fun x => { x with mrun := x.mrun ++ [s.mmRun t q tc] })) := by
  have hscale : q.scale = none := by unfold QEntry.scale; rw [hi]
  have hpend (k : Nat) : s.pendingPops t k = 0 := by unfold State.pendingPops; rw [hrun]; rfl
  unfold State.startMm mmRings
  dsimp only
  rw [hi, hscale, hpend, hpend, hpair, ha, hb, if_neg (by simp), if_neg (by simp; omega), Nat.zero_add, Nat.add_zero]
  rfl

section
variable {s : State} {t : Nat} {q : QEntry} {qs : List QEntry} (hmq : (s.tile t).mq = q :: qs) (hheld : s.accHeld t q = false)
  (hover : s.overtakes q 0 = false) (hrun : (s.tile t).mrun = [])
include hmq hheld hover hrun

theorem matrixStart_mzero {a : Reg} (hi : q.inst = .mzero a) : ∃ u, exec (.matrixCommandStart t) s = .next u ∧ (u.tile t).mq = qs ∧
    ∀ r c, r < 128 → c < 256 → u.accWord t r c =
      if q.a.toNat % 128 ≤ r ∧ r < q.a.toNat % 128 + 32 ∧ q.a.toNat / 256 % 256 ≤ c ∧ c < q.a.toNat / 256 % 256 + 32 then 0
      else s.accWord t r c := by
  obtain ⟨hq, -, hacc⟩ := (s.zeroAcc t (q.a.toNat % 128) 32 (q.a.toNat / 256 % 256) 32).started_frame t q qs
  refine ⟨_, exec_matrixStart_ok hmq (startMatrix_mzero hheld hover hi hrun), hq, fun r c hr hc => ?_⟩
  rw [hacc, State.accWord_zeroAcc s hr hc]

theorem matrixStart_format {a b : Reg} (hi : q.inst = .mm a b) (hpair : pairOk q.mmPfx.fa q.mmPfx.fb = false) {c : Nat}
    (howner : s.owner q = some c) (hslot : isHelperSlot (cidSlot c) = false) (hrel : q.rel = none) :
    ∃ u, exec (.matrixCommandStart t) s = .next u ∧ (u.tile t).mq = qs ∧ (u.tile t).mrun = [] ∧
      (u.ctx c).late = (s.ctx c).late ++ [{ seq := q.seq, ord := q.ord, cause := .operandFormat, member := 0, elem := 0, tval := 0 }] := by
  obtain ⟨tc, hstart⟩ := startMatrix_mm hheld hover (t := t) hi
  obtain ⟨d, htile⟩ := (s.mqDropped t qs).tile_countDone q t
  obtain ⟨ts, hall⟩ := (s.mqDropped t qs).countDone_eq q
  have howner' : ((s.mqDropped t qs).countDone q).owner q = some c := by rw [hall]; exact howner
  have hcontrol : ∀ d, ((s.mqDropped t qs).countDone q).owner q = some d → isHelperSlot (cidSlot d) = false := fun d hd => by
    rw [howner'] at hd
    cases hd
    exact hslot
  obtain ⟨hmq', hrun', -⟩ := State.sameMatrix_raiseLate hcontrol .operandFormat 0 0 0 t
  rw [htile, State.tile_mqDropped] at hmq' hrun'
  refine ⟨_, exec_matrixStart_bad hmq hi (hstart.trans (startMm_format hpair tc)), hmq', hrun'.trans hrun, ?_⟩
  rw [State.late_raiseLate _ _ _ _ hrel howner' hslot, hall]
  rfl

section
variable {a b : Reg} (hi : q.inst = .mm a b) (hpair : pairOk q.mmPfx.fa q.mmPfx.fb = true)
  (ha : (s.ring t (q.a.toNat % 8)).valid = true) (hb : (s.ring t (q.a.toNat / 16 % 8)).valid = true)
  (hsa : tileBytes q.mmPfx.fa ≤ (s.ring t (q.a.toNat % 8)).tileBytes)
  (hsb : tileBytes q.mmPfx.fb ≤ (s.ring t (q.a.toNat / 16 % 8)).tileBytes)
include hi hpair ha hb hsa hsb

/-- R98: an MM takes its operand tiles from the heads of its rings. -/
theorem matrixStart_mm (hheldA : 0 < (s.ring t (q.a.toNat % 8)).held) (hheldB : q.secondSlot < (s.ring t (q.a.toNat / 16 % 8)).held) :
    ∃ u tc, exec (.matrixCommandStart t) s = .next u ∧ (u.tile t).mq = qs ∧ (u.tile t).mrun = [s.mmRun t q tc] := by
  obtain ⟨tc, hstart⟩ := startMatrix_mm hheld hover (t := t) hi
  have hok := (startMm_mm hi hrun hpair ha hb hsa hsb tc).trans (if_neg (by omega))
  obtain ⟨hmq', hrun', -⟩ := (s.modTile t (fun x => { x with mrun := x.mrun ++ [s.mmRun t q tc] })).started_frame t q qs
  refine ⟨_, tc, exec_matrixStart_ok hmq (hstart.trans hok), hmq', hrun'.trans ?_⟩
  rw [State.tile_modTile_self, hrun]
  rfl

/-- R98: an MM waits for its operand tiles. -/
theorem matrixStart_mm_wait (h : (s.ring t (q.a.toNat % 8)).held = 0 ∨ (s.ring t (q.a.toNat / 16 % 8)).held ≤ q.secondSlot) :
    exec (.matrixCommandStart t) s = .next s := by
  obtain ⟨tc, hstart⟩ := startMatrix_mm hheld hover (t := t) hi
  exact exec_matrixStart_wait hmq (hstart.trans ((startMm_mm hi hrun hpair ha hb hsa hsb tc).trans (if_pos (by omega))))

end
end
end Sys2Proof.Machine
end

section
/-! PROOFS. The pairs of the matrix engines commit, abort and time out (R249). -/

namespace Sys2Proof.Machine

/-! The abort of an MMP. -/

/-- An MMP that has left its engine, with the half that it sent, and counts as done. -/
def State.mmpLeft (s : State) (t : Nat) (r : MRun) : State :=
  ((s.modTile t (fun x => { x with mrun := x.mrun.erase r })).modTile r.partner
    (fun x => if x.half.any (fun h => h.from_ == t) then { x with half := none } else x)).countDone r.q

theorem State.abortMmp_eq (s : State) (t : Nat) (r : MRun) : s.abortMmp t r = (s.mmpLeft t r).raiseLate r.q .pairAbort 0 0 0 := rfl

/-- Only tiles change as an MMP leaves its engine. -/
theorem State.mmpLeft_eq (s : State) (t : Nat) (r : MRun) : ∃ ts, s.mmpLeft t r = { s with tiles := ts } := by
  obtain ⟨ts, h⟩ := ((s.modTile t (fun x => { x with mrun := x.mrun.erase r })).modTile r.partner
    (fun x => if x.half.any (fun h => h.from_ == t) then { x with half := none } else x)).countDone_eq r.q
  exact ⟨ts, h⟩

theorem State.owner_mmpLeft (s : State) (t : Nat) (r : MRun) (q : QEntry) : (s.mmpLeft t r).owner q = s.owner q := by
  obtain ⟨ts, h⟩ := s.mmpLeft_eq t r
  rw [h]
  rfl

theorem State.ctx_mmpLeft (s : State) (t : Nat) (r : MRun) (c : Nat) : (s.mmpLeft t r).ctx c = s.ctx c := by
  obtain ⟨ts, h⟩ := s.mmpLeft_eq t r
  rw [h]
  rfl

theorem State.mrun_mmpLeft (s : State) (t u : Nat) (r : MRun) : ((s.mmpLeft t r).tile u).mrun =
    if u = t then (s.tile u).mrun.erase r else (s.tile u).mrun := by
  have hhalf (v : State) (p w : Nat) : ((v.modTile p (fun x => if x.half.any (fun h => h.from_ == t) then { x with half := none } else x)).tile
      w).mrun = (v.tile w).mrun := by
    by_cases hw : w = p
    · subst hw
      rw [State.tile_modTile_self]
      split <;> rfl
    · rw [State.tile_modTile_ne _ _ hw]
  unfold State.mmpLeft
  refine (State.sameMatrix_countDone _ r.q u).2.1.trans ((hhalf _ _ _).trans ?_)
  split
  case isTrue hu =>
    subst hu
    rw [State.tile_modTile_self]
  case isFalse hu => rw [State.tile_modTile_ne _ _ hu]

section
variable {r : MRun} (hr : isHelperSlot (cidSlot r.q.cid) = false) (s : State) (t : Nat)
include hr

theorem State.mmpLeft_control (c : Nat) (h : (s.mmpLeft t r).owner r.q = some c) : isHelperSlot (cidSlot c) = false := by
  rw [State.owner_mmpLeft] at h
  exact State.owner_control hr h

/-- R249: an abort takes its MMP from its own engine and no command from another one. -/
theorem State.mrun_abortMmp (u : Nat) : ((s.abortMmp t r).tile u).mrun = if u = t then (s.tile u).mrun.erase r else (s.tile u).mrun := by
  rw [State.abortMmp_eq]
  exact (State.sameMatrix_raiseLate (State.mmpLeft_control hr s t) .pairAbort 0 0 0 u).2.1.trans (s.mrun_mmpLeft t u r)

theorem State.late_mem_abortMmp {c : Nat} {l : Late} (hl : l ∈ (s.ctx c).late) : l ∈ ((s.abortMmp t r).ctx c).late := by
  rw [State.abortMmp_eq]
  exact State.late_mem_raiseLate (State.mmpLeft_control hr s t) .pairAbort 0 0 0 (by rw [State.ctx_mmpLeft]; exact hl)

/-- R249: the context of an MMP that aborts has its pair abort. -/
theorem State.pairAbort_abortMmp {c : Nat} (howner : s.owner r.q = some c) (hrel : r.q.rel = none) :
    ∃ l ∈ ((s.abortMmp t r).ctx c).late, l.seq = r.q.seq ∧ l.cause = .pairAbort := by
  have hlate := State.late_raiseLate .pairAbort 0 0 0 hrel ((s.owner_mmpLeft t r r.q).trans howner) (State.owner_control hr howner)
  rw [State.abortMmp_eq, hlate]
  exact ⟨_, List.mem_append_right _ (List.mem_singleton_self _), rfl, rfl⟩

end

/-! The commit. -/

/-- What the two halves of a pair have to agree in. -/
def MRun.agrees (r r' : MRun) (tag : Nat) : Prop :=
  r.q.b.toNat / 65536 % 256 = tag ∧ r.q.mmPfx.fa = r'.q.mmPfx.fa ∧ r.q.mmPfx.fb = r'.q.mmPfx.fb ∧ r.q.mmPfx.sat = r'.q.mmPfx.sat

/-- A side of a pair that has committed: its MMP multiplies with its partner's tile. -/
def Tile.paired (x : Tile) (r : MRun) (bs : List Byte) : Tile :=
  { x with half := none, mrun := x.mrun.map (fun m => if m = r then { m with paired := true, bbyte := bs } else m) }

section
variable {s : State} {t u : Nat} {r r' : MRun} {h h' : PairHalf} (htu : t ≠ u) (hhalf : (s.tile t).half = some h) (hfrom : h.from_ = u)
  (hhalf' : (s.tile u).half = some h') (hfrom' : h'.from_ = t) (hopen : s.openMmp t = some r) (hopen' : s.openMmp u = some r')

section
include hhalf hfrom hhalf' hfrom' hopen hopen'

theorem exec_pairCommit_agrees (hsame : r.agrees r' h.tag) : exec (.mmpPairCommit t) s =
    .next ((s.modTile t (fun x => x.paired r h.bytes)).modTile u (fun x => x.paired r' h'.bytes)) := by
  refine congrArg Host.Outcome.next (?_ : s.pairCommit t = _)
  obtain ⟨htag, hfa, hfb, hsat⟩ := hsame
  subst hfrom
  unfold State.pairCommit
  rw [hhalf]
  dsimp only
  rw [hopen, hopen', hhalf']
  dsimp only
  rw [if_neg (fun hne => hne hfrom'), if_neg (by simp [htag, hfa, hfb, hsat])]
  rfl

theorem exec_pairCommit_differs (hdiff : ¬r.agrees r' h.tag) : exec (.mmpPairCommit t) s = .next ((s.abortMmp t r).abortMmp u r') := by
  refine congrArg Host.Outcome.next (?_ : s.pairCommit t = _)
  subst hfrom
  unfold State.pairCommit
  rw [hhalf]
  dsimp only
  rw [hopen, hopen', hhalf']
  dsimp only
  rw [if_neg (fun hne => hne hfrom')]
  exact if_pos (by simpa [MRun.agrees, -not_and, not_and_or, or_assoc] using hdiff)

end
include htu hhalf hfrom hhalf' hfrom' hopen hopen'

theorem pairCommit_agrees (hsame : r.agrees r' h.tag) : ∃ w, exec (.mmpPairCommit t) s = .next w ∧ (w.tile t).half = none ∧
    (w.tile u).half = none ∧ s.sameStore w ∧
    (w.tile t).mrun = (s.tile t).mrun.map (fun m => if m = r then { m with paired := true, bbyte := h.bytes } else m) ∧
    (w.tile u).mrun = (s.tile u).mrun.map (fun m => if m = r' then { m with paired := true, bbyte := h'.bytes } else m) := by
  refine ⟨_, exec_pairCommit_agrees hhalf hfrom hhalf' hfrom' hopen hopen' hsame, ?_⟩
  rw [State.tile_modTile_self, State.tile_modTile_ne _ _ htu, State.tile_modTile_self, State.tile_modTile_ne _ _ htu.symm]
  exact ⟨rfl, rfl, State.sameStore_trans (s.sameStore_modTile t (fun x => x.paired r h.bytes) (fun _ => ⟨rfl, rfl, rfl⟩))
    (State.sameStore_modTile _ u (fun x => x.paired r' h'.bytes) (fun _ => ⟨rfl, rfl, rfl⟩)), rfl, rfl⟩

theorem pairCommit_differs (hdiff : ¬r.agrees r' h.tag) (hr : isHelperSlot (cidSlot r.q.cid) = false)
    (hr' : isHelperSlot (cidSlot r'.q.cid) = false) : ∃ w, exec (.mmpPairCommit t) s = .next w ∧
      (w.tile t).mrun = (s.tile t).mrun.erase r ∧ (w.tile u).mrun = (s.tile u).mrun.erase r' ∧
      ∀ c, s.owner r.q = some c → r.q.rel = none → ∃ l ∈ (w.ctx c).late, l.seq = r.q.seq ∧ l.cause = .pairAbort := by
  refine ⟨_, exec_pairCommit_differs hhalf hfrom hhalf' hfrom' hopen hopen' hdiff, ?_, ?_, fun c howner hrel => ?_⟩
  · rw [State.mrun_abortMmp hr', if_neg htu, State.mrun_abortMmp hr, if_pos rfl]
  · rw [State.mrun_abortMmp hr', if_pos rfl, State.mrun_abortMmp hr, if_neg htu.symm]
  · obtain ⟨l, hl, hwhat⟩ := State.pairAbort_abortMmp hr s t howner hrel
    exact ⟨l, State.late_mem_abortMmp hr' _ u hl, hwhat⟩

end

/-! The timeout. -/

section
variable {s : State} {t : Nat} {h : PairHalf} (hhalf : (s.tile t).half = some h)
include hhalf

theorem exec_pairTimeout_waits (hwait : s.cal < h.since + 1024 ∨ s.pairStarted t h.from_ = true) :
    exec (.mmpPairTimeout t) s = .next s := by
  refine congrArg Host.Outcome.next (?_ : s.pairTimeout t = s)
  unfold State.pairTimeout
  rw [hhalf]
  exact if_pos hwait

theorem exec_pairTimeout_due (hdue : h.since + 1024 ≤ s.cal) (hstart : s.pairStarted t h.from_ = false) :
    exec (.mmpPairTimeout t) s = .next (s.abortHalf t h) := by
  refine congrArg Host.Outcome.next (?_ : s.pairTimeout t = s.abortHalf t h)
  unfold State.pairTimeout
  rw [hhalf]
  exact if_neg (by simp only [hstart, Bool.false_eq_true, or_false]; omega)

theorem pairTimeout_sender (hdue : h.since + 1024 ≤ s.cal) (hstart : s.pairStarted t h.from_ = false) {r : MRun}
    (hopen : s.openMmp h.from_ = some r) (hr : isHelperSlot (cidSlot r.q.cid) = false) :
    ∃ w, exec (.mmpPairTimeout t) s = .next w ∧ (w.tile h.from_).mrun = (s.tile h.from_).mrun.erase r := by
  refine ⟨_, exec_pairTimeout_due hhalf hdue hstart, ?_⟩
  unfold State.abortHalf
  rw [hopen]
  dsimp only
  rw [State.mrun_abortMmp hr, if_pos rfl]

theorem pairTimeout_noSender (hdue : h.since + 1024 ≤ s.cal) (hstart : s.pairStarted t h.from_ = false)
    (hopen : s.openMmp h.from_ = none) : ∃ w, exec (.mmpPairTimeout t) s = .next w ∧ (w.tile t).half = none := by
  refine ⟨_, exec_pairTimeout_due hhalf hdue hstart, ?_⟩
  unfold State.abortHalf
  rw [hopen]
  dsimp only
  rw [State.tile_modTile_self]

end

/-! The four clauses together. -/

theorem isInt_of_mem {f : Fmt} (h : f ∈ [Fmt.i8, Fmt.z8]) : f.isInt = true := by
  simp only [List.mem_cons, List.not_mem_nil, or_false] at h
  rcases h with rfl | rfl <;> rfl

/-- Settles O48: a command is accepted where its engine has room; the matrix engine's front command waits, starts or fails by the
rules of `startMatrix`; the oldest one retires with its block, whose integer elements are sums modulo 2^32; and the two sides of a pair
commit, abort or time out together. -/
theorem enginesStartAndRetireTheirCommands : Obligations.EnginesStartAndRetireTheirCommands := by
  unfold Obligations.EnginesStartAndRetireTheirCommands
  refine ⟨⟨fun s k q qs hq hheld => ?accept, fun s t q qs a b hmq => ?start⟩, fun s t r rs hrun => ?retire, ?commit, ?timeout⟩
  case accept =>
    exact ⟨engineAccept_matrix hq hheld, engineAccept_full hq hheld, fun n => engineAccept_engine hq hheld,
      fun a b => engineAccept_waxLoad hq hheld⟩
  case start =>
    refine ⟨fun h => exec_matrixStart_wait hmq (startMatrix_held h), fun hheld hover hrun =>
      ⟨matrixStart_mzero hmq hheld hover hrun, fun hi => ⟨fun hpair ha hb hsa hsb => ⟨fun hheldA hheldB => ?_,
        matrixStart_mm_wait hmq hheld hover hrun hi hpair ha hb hsa hsb⟩,
        fun hpair c => matrixStart_format hmq hheld hover hrun hi hpair⟩⟩⟩
    obtain ⟨u, tc, hexec, hqs, hrun'⟩ := matrixStart_mm hmq hheld hover hrun hi hpair ha hb hsa hsb hheldA hheldB
    exact ⟨u, s.mmRun t q tc, hexec, hqs, hrun', rfl, rfl, rfl, rfl⟩
  case retire =>
    refine ⟨exec_matrixRetire_open hrun, fun hpaired hscale hblock ha hb hsat halen hblen => ?_⟩
    have hint := isInt_of_mem ha
    exact ⟨_, exec_matrixRetire_int hrun hpaired hscale hint, State.mrun_retired, fun k hpop _ => State.head_retired hpop,
      fun i j => State.accWord_retired_int rs hscale hblock ha hb hsat hint halen hblen⟩
  case commit =>
    exact fun s t u r r' h h' htu hhalf hfrom hhalf' hfrom' hopen hopen' =>
      ⟨pairCommit_agrees htu hhalf hfrom hhalf' hfrom' hopen hopen', pairCommit_differs htu hhalf hfrom hhalf' hfrom' hopen hopen'⟩
  case timeout =>
    exact fun s t h hhalf => ⟨fun hearly => exec_pairTimeout_waits hhalf (.inl hearly), fun hstart => exec_pairTimeout_waits hhalf (.inr hstart),
      fun hdue hstart => ⟨fun r => pairTimeout_sender hhalf hdue hstart, pairTimeout_noSender hhalf hdue hstart⟩⟩

end Sys2Proof.Machine
end

section
/-! PROOFS. The forms in which memory and tile memory stand, kept by every operation of the model (R90, R385; the form is the model's, log 1).
One lemma per definition: `keeps` of a meaning, `memoryOk` of what a function of the state leaves, `outcomeOk` of a row's outcome. -/

namespace Sys2Proof.Machine

/-! What keeping the form means for a meaning, an outcome and the answers of the model's searches. -/

/-- The state in which an instruction's meaning ends. -/
def endState {α : Type} : EStateM.Result Exit State α → State
  | .ok _ t => t
  | .error _ t => t

/-- A meaning keeps memory in its form, however it ends. -/
def keeps {α : Type} (m : M α) : Prop := ∀ s : State, s.memoryOk → (endState (m s)).memoryOk

/-- An outcome whose next state, if it has one, has its memory in the form. -/
def outcomeOk : Host.Outcome State Fault Refusal → Prop
  | .next t => t.memoryOk
  | .fault _ => True
  | .refused _ => True

section
variable {α β : Type} {s t : State}

theorem State.memoryOk.congr (h : s.memoryOk) (hm : t.mem = s.mem := by rfl) (ht : t.tm = s.tm := by rfl) : t.memoryOk :=
  State.memoryOk_of_eq hm ht h

theorem State.memoryOk.ite {c : Prop} [Decidable c] (hs : s.memoryOk) (ht : t.memoryOk) : (if c then s else t).memoryOk := by
  split
  · exact hs
  · exact ht

theorem State.memoryOk.subst {f : α → State} {x y : α} (h : (f x).memoryOk) (e : x = y) : (f y).memoryOk := e ▸ h

theorem State.memoryOk.foldl {l : List α} {f : State → α → State} (h : s.memoryOk) (hf : ∀ t x, t.memoryOk → (f t x).memoryOk) :
    (l.foldl f s).memoryOk := State.memoryOk_foldl l hf h

theorem keeps_pure {a : α} : keeps (pure a : M α) := fun _ h => h

theorem keeps_bind {m : M α} {f : α → M β} (hm : keeps m) (hf : ∀ a, keeps (f a)) : keeps (m >>= f) := by
  intro s h
  have ht := hm s h
  cases hr : m s with
  | ok a t => rw [show (m >>= f) s = f a t from bind_ok hr]; exact hf a t (hr ▸ ht : (endState
      (.ok a t : EStateM.Result Exit State α)).memoryOk)
  | error e t => rw [show (m >>= f) s = .error e t from bind_error hr]; exact (hr ▸ ht : (endState
      (.error e t : EStateM.Result Exit State α)).memoryOk)

theorem keeps_get {f : State → M β} (hf : ∀ s, s.memoryOk → keeps (f s)) : keeps ((get : M State) >>= f) :=
  fun s h => hf s h s h

theorem keeps_run {m : M α} (hm : keeps m) (h : s.memoryOk) : (endState (m s)).memoryOk := hm s h

theorem keeps_ok {m : M α} {a : α} (hm : keeps m) (h : s.memoryOk) (e : m s = .ok a t) : t.memoryOk :=
  (e ▸ hm s h : (endState (.ok a t : EStateM.Result Exit State α)).memoryOk)

theorem keeps_error {m : M α} {e : Exit} (hm : keeps m) (h : s.memoryOk) (he : m s = .error e t) : t.memoryOk :=
  (he ▸ hm s h : (endState (.error e t : EStateM.Result Exit State α)).memoryOk)

theorem keeps_set (h : t.memoryOk) : keeps (set t : M PUnit) := fun _ _ => h
theorem keeps_modify {f : State → State} (hf : ∀ s, s.memoryOk → (f s).memoryOk) : keeps (modify f : M PUnit) := hf
theorem keeps_goOn {f : State → State} {g : State → α} (hf : ∀ s, s.memoryOk → (f s).memoryOk) : keeps (fun s => .ok (g s)
    (f s) : M α) := hf
theorem keeps_stop {f : State → State} {g : State → Exit} (hf : ∀ s, s.memoryOk → (f s).memoryOk) : keeps (fun s => .error (g s)
    (f s) : M α) := hf
theorem keeps_ite {c : Prop} [Decidable c] {m k : M α} (hm : keeps m) (hk : keeps k) : keeps (if c then m else k) := by
  split
  · exact hm
  · exact hk
theorem keeps_trap {c : Cause} {tv : Word} : keeps (trap c tv : M α) := fun _ h => h
theorem keeps_waitFor {k : WaitKind} {op : Word} : keeps (waitFor k op : M α) := fun _ h => h
theorem keeps_leaveNow : keeps (leaveNow : M α) := fun _ h => h
end


/-- Memory stands in its form in whatever state a translation leaves. -/
def Trans.memoryOk : Trans → Prop
  | .leaf _ s | .fault _ s | .parked s | .miss s => s.memoryOk
def Checked.memoryOk : Checked → Prop
  | .tm s | .shared _ s | .bad _ _ s | .parked s | .miss s => s.memoryOk
def Found.memoryOk : Found → Prop
  | .ok _ s | .bad _ _ s | .wait s => s.memoryOk
def EStep.memoryOk : EStep → Prop
  | .done s | .wait s | .shared s | .go s _ | .bad _ _ s => s.memoryOk
def DeferEnd.memoryOk : DeferEnd → Prop
  | .ready s | .wait s | .fault _ s | .parked _ s => s.memoryOk
def Here.memoryOk : Here → Prop
  | .yes s | .no s | .lost _ s => s.memoryOk
def Started.memoryOk : Started → Prop
  | .wait s | .ok s => s.memoryOk
  | .bad _ _ => True
def SMove.memoryOk : SMove → Prop
  | .wait s | .go s _ => s.memoryOk
  | .idle => True
def ImageRead.memoryOk : ImageRead → Prop
  | .got _ s | .bad _ _ s | .wait s => s.memoryOk

theorem Trans.memoryOk.of_eq {x y : Trans} (h : x.memoryOk) (e : x = y) : y.memoryOk := e ▸ h
theorem Checked.memoryOk.of_eq {x y : Checked} (h : x.memoryOk) (e : x = y) : y.memoryOk := e ▸ h
theorem Found.memoryOk.of_eq {x y : Found} (h : x.memoryOk) (e : x = y) : y.memoryOk := e ▸ h
theorem EStep.memoryOk.of_eq {x y : EStep} (h : x.memoryOk) (e : x = y) : y.memoryOk := e ▸ h
theorem DeferEnd.memoryOk.of_eq {x y : DeferEnd} (h : x.memoryOk) (e : x = y) : y.memoryOk := e ▸ h
theorem Here.memoryOk.of_eq {x y : Here} (h : x.memoryOk) (e : x = y) : y.memoryOk := e ▸ h
theorem Started.memoryOk.of_eq {x y : Started} (h : x.memoryOk) (e : x = y) : y.memoryOk := e ▸ h
theorem SMove.memoryOk.of_eq {x y : SMove} (h : x.memoryOk) (e : x = y) : y.memoryOk := e ▸ h
theorem ImageRead.memoryOk.of_eq {x y : ImageRead} (h : x.memoryOk) (e : x = y) : y.memoryOk := e ▸ h

theorem State.memoryOk.ite_fst {α : Type} {c : Prop} [Decidable c] {x y : State × α} (hx : x.1.memoryOk) (hy : y.1.memoryOk) :
    (if c then x else y).1.memoryOk := by
  split
  · exact hx
  · exact hy

theorem State.memoryOk.ite_snd {α : Type} {c : Prop} [Decidable c] {x y : α × State} (hx : x.2.memoryOk) (hy : y.2.memoryOk) :
    (if c then x else y).2.memoryOk := by
  split
  · exact hx
  · exact hy

end Sys2Proof.Machine
end

section
set_option Elab.async false
/-! PROOFS. Memory keeps its form: the state's small operations. -/

namespace Sys2Proof.Machine

theorem State.memoryOk.setCtx {s : State} {c : Nat} {x : Ctx} (h : s.memoryOk) : (s.setCtx c x).memoryOk :=
  h

theorem State.memoryOk.modCtx {s : State} {c : Nat} {f : Ctx → Ctx} (h : s.memoryOk) : (s.modCtx c f).memoryOk :=
  h

theorem State.memoryOk.modCore {s : State} {k : Nat} {f : Core → Core} (h : s.memoryOk) : (s.modCore k f).memoryOk :=
  h

theorem State.memoryOk.modTile {s : State} {t : Nat} {f : Tile → Tile} (h : s.memoryOk) : (s.modTile t f).memoryOk :=
  h

theorem State.memoryOk.modHive {s : State} {h : Nat} {f : Hive → Hive} (hs : s.memoryOk) : (s.modHive h f).memoryOk :=
  hs

theorem State.memoryOk.setL2 {s : State} {l : Nat} {x : L2Line} (h : s.memoryOk) : (s.setL2 l x).memoryOk :=
  h

theorem State.memoryOk.setSum {s : State} {w : Nat} {x : SumEnt} (h : s.memoryOk) : (s.setSum w x).memoryOk :=
  h

theorem State.memoryOk.modTenant {s : State} {v : Nat} {f : Tenant → Tenant} (h : s.memoryOk) : (s.modTenant v f).memoryOk :=
  h

theorem State.memoryOk.modMe {s : State} {f : Ctx → Ctx} (h : s.memoryOk) : (s.modMe f).memoryOk :=
  h

theorem State.memoryOk.setSr {s : State} {c n : Nat} {w : Word} (h : s.memoryOk) : (s.setSr c n w).memoryOk :=
  h.modTile.ite (h.modCore.ite h.modCtx)

theorem State.memoryOk.setMemWord {s : State} {pa : Nat} {w : Word} (h : s.memoryOk) : (s.setMemWord pa w).memoryOk :=
  State.memoryOk_setBytes _ _ h

theorem State.memoryOk.setAcc {s : State} {t row col : Nat} {x : BitVec 32} (h : s.memoryOk) : (s.setAcc t row col x).memoryOk :=
  h

theorem State.memoryOk.modComb {s : State} {yard job : Nat} {f : Comb → Comb} (h : s.memoryOk) : (s.modComb yard job f).memoryOk :=
  h

theorem State.memoryOk.draw {s : State} (h : s.memoryOk) : s.draw.2.memoryOk :=
  h

theorem State.memoryOk.drawBytes {n : Nat} {s : State} (h : s.memoryOk) : (s.drawBytes n).2.memoryOk := by
  induction n generalizing s with
  | zero => exact h
  | succ n ih => exact ih h.draw

theorem State.memoryOk.later {s : State} {i : Instr} (h : s.memoryOk) : (s.later i).memoryOk :=
  h

theorem State.memoryOk.modLaunch {s : State} {y j i : Nat} {f : Launch → Launch} (h : s.memoryOk) : (s.modLaunch y j i f).memoryOk :=
  h

theorem State.memoryOk.keepFlags {s : State} {y j : Nat} {launch : Option Nat} {fl : Flags} (h : s.memoryOk) :
    (s.keepFlags y j launch fl).memoryOk := by
  unfold State.keepFlags
  extract_lets -underBinder u
  have hu : u.memoryOk := h.modComb
  clear_value u
  split
  · exact hu
  next i =>
    extract_lets -underBinder v
    have hv : v.memoryOk := hu.modLaunch
    clear_value v
    split
    · exact hv
    · exact hv

theorem State.memoryOk.sendOut {s : State} {r : Remote} (h : s.memoryOk) : (s.sendOut r).memoryOk :=
  h

theorem State.memoryOk.sendLine {s : State} {l core tag : Nat} {tv pc : Word} (h : s.memoryOk) : (s.sendLine l core tag tv pc).memoryOk :=
  h

theorem State.memoryOk.settleWcb {s : State} {t : Nat} (h : s.memoryOk) : (s.settleWcb t).memoryOk :=
  h.ite (State.memoryOk_drainWcb _ h)

theorem State.memoryOk.dropFrame {s : State} {t f : Nat} (h : s.memoryOk) : (s.dropFrame t f).memoryOk :=
  (State.memoryOk_clearFrame _ _ h).modTile

theorem State.memoryOk.disown {s : State} {lines : List Nat} (h : s.memoryOk) : (s.disown lines).memoryOk :=
  h.foldl fun _ _ ht => ht.setL2

theorem State.memoryOk.disownAll {s : State} {qs : List QEntry} (h : s.memoryOk) : (s.disownAll qs).memoryOk :=
  h.disown

theorem State.memoryOk.stopCommands {s : State} {tag : Nat} (h : s.memoryOk) : (s.stopCommands tag).memoryOk :=
  h.foldl fun _ _ ht => ht.ite ht.disown.modTile

theorem State.memoryOk.dropShoots {s : State} {c : Nat} (h : s.memoryOk) : (s.dropShoots c).memoryOk :=
  h

theorem State.memoryOk.dropCommands {s : State} {c : Nat} (h : s.memoryOk) : (s.dropCommands c).memoryOk :=
  h.disownAll.modCore.modTile

theorem State.memoryOk.unpin {s : State} {t : Nat} (h : s.memoryOk) : (s.unpin t).memoryOk :=
  h.ite (h.modTile.ite h.modTile)

theorem State.memoryOk.releaseSolo {s : State} {c : Nat} (h : s.memoryOk) : (s.releaseSolo c).memoryOk :=
  (h.foldl fun _ _ ht => ht.setL2).congr

theorem State.memoryOk.freeHelper {s : State} {c : Nat} (h : s.memoryOk) : (s.freeHelper c).memoryOk :=
  (h.releaseSolo.dropCommands.setCtx.foldl fun _ _ ht => ht.modTile).unpin

theorem State.memoryOk.graphStep {s : State} {y j i : Nat} (h : s.memoryOk) : (s.graphStep y j i).memoryOk := by
  unfold State.graphStep
  split
  · exact h
  · refine State.memoryOk.ite h ?_
    split
    · exact h
    · exact h.congr

theorem State.memoryOk.dropRetained {s : State} {y j : Nat} (h : s.memoryOk) : (s.dropRetained y j).memoryOk := by
  unfold State.dropRetained
  split
  · exact h
  · exact h.foldl fun _ _ ht => ht.foldl fun _ _ ht' => (ht'.foldl fun _ _ ht'' => ht''.ite ht''.dropFrame).modCore

theorem State.memoryOk.launchDone {s : State} {y j i : Nat} (h : s.memoryOk) : (s.launchDone y j i).memoryOk :=
  h.graphStep.dropRetained.ite h.graphStep

theorem State.memoryOk.taskEnded {s : State} {y j : Nat} {launch : Option Nat} (h : s.memoryOk) : (s.taskEnded y j launch).memoryOk := by
  unfold State.taskEnded
  split
  · exact h
  · split
    · exact h
    · exact h.ite (h.modLaunch.launchDone.ite h.modLaunch)

end Sys2Proof.Machine
end

section
set_option Elab.async false
/-! PROOFS. Memory keeps its form: tasks, traps and faults. -/

namespace Sys2Proof.Machine

theorem State.memoryOk.requeue {s : State} {k : Nat} {t : Task} (h : s.memoryOk) : (s.requeue k t).memoryOk := by
  unfold State.requeue
  split
  · exact h.modCore
  · exact h.modLaunch

theorem State.memoryOk.abortTask {s : State} {c : Nat} {counted solo : Bool} (h : s.memoryOk) : (s.abortTask c counted solo).memoryOk := by
  unfold State.abortTask
  split
  · exact h
  · exact h.freeHelper.dropFrame.requeue

theorem State.memoryOk.parkTask {s : State} {c : Nat} {p : Word} (h : s.memoryOk) : (s.parkTask c p).memoryOk :=
  h.modCtx.abortTask

theorem State.memoryOk.endTask {s : State} {c : Nat} (h : s.memoryOk) : (s.endTask c).memoryOk := by
  unfold State.endTask
  split
  · exact h
  · refine State.memoryOk.taskEnded ?_
    split
    · exact h.freeHelper.dropFrame.modCore
    · exact h.freeHelper.dropFrame.modCore.modLaunch

theorem State.memoryOk.framePut {s : State} {yard : Nat} {p : FramePlace} {off n : Nat} (h : s.memoryOk) :
    (s.framePut yard p off n).memoryOk := by
  unfold State.framePut
  split
  · exact State.memoryOk_setTmBytes _ _ _ _ h
  · exact State.memoryOk_homeWrite _ _ _ _ h

theorem State.memoryOk.frameRecord {s : State} {yard : Nat} {p : FramePlace} {r : TaskFault} (h : s.memoryOk) :
    (s.frameRecord yard p r).memoryOk :=
  h.framePut.framePut.ite h.framePut

theorem State.memoryOk.addRecord {s : State} {c : Nat} {r : TaskFault} (h : s.memoryOk) : (s.addRecord c r).memoryOk := by
  unfold State.addRecord
  refine State.memoryOk.ite h.modCtx ?_
  refine State.memoryOk.ite ?_ h
  split
  · exact h.frameRecord
  · exact h

theorem State.memoryOk.taskFault {s : State} {c : Nat} {cause : Cause} {toH : Bool} (h : s.memoryOk) :
    (s.taskFault c cause toH).memoryOk := by
  unfold State.taskFault
  split
  · exact h
  · exact h.endTask.addRecord

theorem State.memoryOk.enterHandler {s : State} {k reason : Nat} {frame : Word} {tag : Nat} (h : s.memoryOk) :
    (s.enterHandler k reason frame tag).memoryOk :=
  h

theorem State.memoryOk.markDead {s : State} {tag yard : Nat} (h : s.memoryOk) : (s.markDead tag yard).memoryOk :=
  h.ite h

theorem State.memoryOk.killCtx {s : State} {c : Nat} (h : s.memoryOk) : (s.killCtx c).memoryOk :=
  ((h.markDead.foldl fun _ _ ht => ht.endTask).ite h.markDead).dropShoots.dropCommands.stopCommands.setCtx.unpin.modCore.ite
      (((h.markDead.foldl fun _ _ ht => ht.endTask).ite h.markDead).dropShoots.dropCommands.stopCommands.setCtx.unpin)

theorem State.memoryOk.fatal {s : State} {c : Nat} {cause : Cause} (h : s.memoryOk) : (s.fatal c cause).memoryOk :=
  ((State.memoryOk_setTmBytes _ _ _ _ h).ite h).killCtx.modCtx.enterHandler.ite
      (((State.memoryOk_setTmBytes _ _ _ _ h).ite h).killCtx.modCtx)

theorem State.memoryOk.takeTrap {s : State} {c : Nat} {h : How} {cause : Cause} {epc tval : Word} (hs : s.memoryOk) :
    (s.takeTrap c h cause epc tval).memoryOk :=
  (hs.fatal.ite hs.setCtx).ite (hs.fatal.ite hs.setCtx)

theorem State.memoryOk.deliver {s : State} {c : Nat} {h : How} {cause : Cause} {epc tval : Word} (hs : s.memoryOk) :
    (s.deliver c h cause epc tval).memoryOk :=
  hs.taskFault.ite hs.takeTrap

end Sys2Proof.Machine
end

section
set_option Elab.async false
/-! PROOFS. Memory keeps its form: running an instruction: windows, queues and the gate. -/

namespace Sys2Proof.Machine

theorem keeps_trapIf {b : Bool} {c : Cause} {tval : Word} : keeps (trapIf b c tval) := by
  unfold trapIf
  exact keeps_ite keeps_trap keeps_pure

theorem keeps_waitUntil {p : State → Bool} {k : WaitKind} {op : Word} : keeps (waitUntil p k op) := by
  unfold waitUntil
  intro s hs
  beta_reduce
  split
  · exact hs
  · exact hs

theorem State.memoryOk.beginWait {s : State} {k : WaitKind} {op : Word} (h : s.memoryOk) : (s.beginWait k op).memoryOk :=
  h

theorem State.memoryOk.pushLink {s : State} {k : Nat} {d : Dir} {v : QVal} (h : s.memoryOk) : (s.pushLink k d v).memoryOk := by
  unfold State.pushLink
  split
  · exact h
  · exact h.modCore

theorem State.memoryOk.applyWrite {s : State} {c : Nat} {w : RegWrite} (h : s.memoryOk) : (s.applyWrite c w).memoryOk := by
  unfold State.applyWrite
  split
  · exact h.modTile.ite (h.pushLink.ite h.modCtx)
  · exact h.modCtx
  · exact h.modCtx

theorem State.memoryOk.closeWindow {s : State} {c : Nat} {w : Window} (h : s.memoryOk) : (s.closeWindow c w).memoryOk :=
  (h.foldl fun _ _ ht => ht.applyWrite).modCtx

theorem State.memoryOk.closeList {c : Nat} {ws : List Window} {s : State} (h : s.memoryOk) : (s.closeList c ws).1.memoryOk := by
  induction ws generalizing s with
  | nil => exact h
  | cons w ws ih =>
    unfold State.closeList
    exact State.memoryOk.ite_fst (ih h.closeWindow) h

theorem State.memoryOk.closeWindows {s : State} {c : Nat} {p : Window → Bool} (h : s.memoryOk) : (s.closeWindows c p).memoryOk :=
  h.foldl fun _ _ ht => ht.closeWindow

theorem keeps_closeThese {p : Window → Bool} : keeps (closeThese p) := by
  unfold closeThese
  intro s hs
  beta_reduce
  have hc : (s.closeList s.cur (s.me.closing p)).1.memoryOk := hs.closeList
  split
  · exact hs
  next t heq =>
    rw [heq] at hc
    split
    · exact hc
    · exact hc

theorem keeps_closeAll : keeps closeAll := by
  unfold closeAll
  exact keeps_closeThese

theorem State.memoryOk.raise {s : State} {pc : Word} {cause : Cause} {tval : Word} (h : s.memoryOk) : (s.raise pc cause tval).memoryOk :=
  h.closeWindows.deliver

theorem State.memoryOk.unpop {t s : State} (h : t.memoryOk) : (t.unpop s).memoryOk :=
  h

theorem keeps_keepQueues {α : Type} {m : M α} (hm : keeps m) : keeps (keepQueues m) := by
  unfold keepQueues
  intro s hs
  beta_reduce
  split
  next t heq => exact (keeps_error hm hs heq).unpop
  · exact keeps_run hm hs

theorem State.memoryOk.owe {s : State} {c : Cause} {tv : Word} (h : s.memoryOk) : (s.owe c tv).memoryOk :=
  h

theorem outcomeOk_runRaw {s : State} {m : M Unit} (hm : keeps m) (h : s.memoryOk) : outcomeOk (runRaw m s) := by
  unfold runRaw
  split
  · split
    next heq => exact keeps_ok hm h heq
    next heq => exact keeps_error hm h heq
    · trivial
    next heq => exact (keeps_error hm h heq).beginWait
    next t heq =>
      split
      · exact (keeps_error hm h heq).raise
      · exact h.owe
  · trivial

theorem outcomeOk_run {s : State} {m : M Unit} (hm : keeps m) (h : s.memoryOk) : outcomeOk (run m s) :=
  outcomeOk_runRaw (keeps_keepQueues hm) h

theorem outcomeOk_runClose {s : State} {m : M Unit} (hm : keeps m) (h : s.memoryOk) : outcomeOk (runClose m s) :=
  outcomeOk_runRaw (keeps_bind keeps_closeAll fun _ => keeps_keepQueues hm) h

theorem keeps_noPrefix : keeps noPrefix := by
  unfold noPrefix
  intro s hs
  beta_reduce
  split
  · exact hs.modMe
  · exact hs

theorem keeps_next : keeps next := by
  unfold next
  exact keeps_goOn fun _ hs => hs.modMe

theorem keeps_jump {t : Word} : keeps (jump t) := by
  unfold jump
  exact keeps_goOn fun _ hs => hs.modMe

theorem State.memoryOk.takeLines {s : State} {ls : BitVec 32} (h : s.memoryOk) : (s.takeLines ls).memoryOk :=
  h

theorem keeps_gate {pops pushes : List Reg} {now : Bool} : keeps (gate pops pushes now) := by
  unfold gate
  intro s hs
  beta_reduce
  split
  · dsimp only
    split
    · exact hs
    · exact hs
  · split
    · dsimp only
      split
      · exact hs
      · split
        · exact hs
        · exact hs
    · dsimp only
      split
      · exact hs
      · split
        · exact hs
        · split
          · exact hs
          · split
            · exact hs
            · exact hs

theorem keeps_gatePush {d : Reg} : keeps (gatePush d) := by
  unfold gatePush
  exact keeps_gate

theorem State.memoryOk.pop {s : State} {r : Reg} (h : s.memoryOk) : (s.pop r).2.memoryOk :=
  State.memoryOk.ite_snd h.modTile (State.memoryOk.ite_snd h.takeLines h.modCore)

theorem keeps_readG {r : Reg} : keeps (readG r) := by
  unfold readG
  intro s hs
  beta_reduce
  split
  · exact hs.pop
  · exact hs

theorem keeps_writeG {r : Reg} {x : Word} : keeps (writeG r x) := by
  unfold writeG
  exact keeps_goOn fun _ hs => hs.applyWrite

theorem keeps_writeLa {la : BitVec 4} {ws : List RegWrite} : keeps (writeLa la ws) := by
  unfold writeLa
  exact keeps_goOn fun _ hs => hs.modMe

theorem keeps_raiseFlags {fl : Flags} : keeps (raiseFlags fl) := by
  unfold raiseFlags
  intro s hs
  beta_reduce
  split
  · split
    · exact hs
    · exact hs
  · split
    · exact hs.modMe
    · exact hs.modMe

end Sys2Proof.Machine
end

section
set_option Elab.async false
/-! PROOFS. Memory keeps its form: translation, the checks of an access, and reads and writes in memory. -/

namespace Sys2Proof.Machine

theorem State.memoryOk.fillTile {s : State} {t : Nat} {e : TlbE} (h : s.memoryOk) : (s.fillTile t e).memoryOk :=
  h

theorem State.memoryOk.setCompanion {s : State} {t : Nat} {e : TlbE} {use : Nat} (h : s.memoryOk) : (s.setCompanion t e use).memoryOk :=
  (h.sendOut.ite h).ite h.setMemWord

theorem State.memoryOk.useTlb {s : State} {t : Nat} {e : TlbE} {fromHive write : Bool} (h : s.memoryOk) :
    (s.useTlb t e fromHive write).memoryOk :=
  (h.fillTile.ite h).setCompanion.ite (h.fillTile.ite h)

theorem State.memoryOk.addMiss {s : State} {c kind : Nat} {who : Option Nat} {addr : Word} (h : s.memoryOk) :
    (s.addMiss c kind who addr).memoryOk :=
  h

theorem State.memoryOk.translate {s : State} {c g va kind : Nat} {who : Option Nat} {k : AKind} (h : s.memoryOk) :
    (s.translate c g va kind who k).memoryOk := by
  unfold State.translate
  split
  · split
    · exact h
    · exact h
  · dsimp only
    split
    · split
      · exact h.modCtx
      · split
        · exact h.modCtx
        · exact h
    · split
      · exact h
      · split
        · split
          · exact h
          · split
            · exact h
            · split
              · exact h
              · split
                · exact h
                · exact h.useTlb
        · exact h.addMiss

theorem keeps_sharedSlot : keeps sharedSlot := by
  unfold sharedSlot
  intro s hs
  beta_reduce
  split
  · exact hs
  · exact hs

theorem State.memoryOk.check {s : State} {c : Nat} {p : Word} {size : Nat} {k : AKind} {mk : Nat} {who : Option Nat} (h : s.memoryOk) :
    (s.check c p size k mk who).memoryOk := by
  unfold State.check
  split
  · exact h
  · split
    · exact h
    · split
      · exact h
      · split
        next t heq =>
          have ht : t.memoryOk := h.translate.of_eq heq
          refine State.memoryOk.congr ?_
          exact ht
        next t heq =>
          have ht : t.memoryOk := h.translate.of_eq heq
          refine State.memoryOk.congr ?_
          exact ht
        next t heq =>
          have ht : t.memoryOk := h.translate.of_eq heq
          refine State.memoryOk.congr ?_
          exact ht
        next t heq =>
          have ht : t.memoryOk := h.translate.of_eq heq
          split
          · refine State.memoryOk.congr ?_
            exact ht
          · refine State.memoryOk.congr ?_
            exact ht

theorem keeps_checkBy {who : Option Nat} {p : Word} {size : Nat} {k : AKind} : keeps (checkBy who p size k) := by
  unfold checkBy
  intro s hs
  beta_reduce
  split
  next t heq =>
    have ht : t.memoryOk := hs.check.of_eq heq
    dsimp only
    split
    · refine State.memoryOk.congr ?_
      exact hs
    · refine State.memoryOk.congr ?_
      exact ht
  next t heq =>
    have ht : t.memoryOk := hs.check.of_eq heq
    dsimp only
    split
    · refine State.memoryOk.congr ?_
      exact hs
    · refine State.memoryOk.congr ?_
      exact ht
  next t heq =>
    have ht : t.memoryOk := hs.check.of_eq heq
    refine State.memoryOk.congr ?_
    exact ht
  next t heq =>
    have ht : t.memoryOk := hs.check.of_eq heq
    refine State.memoryOk.congr ?_
    exact ht
  next t heq =>
    have ht : t.memoryOk := hs.check.of_eq heq
    split
    · refine State.memoryOk.congr ?_
      exact ht.parkTask
    · refine State.memoryOk.congr ?_
      exact ht

theorem keeps_checkM {p : Word} {size : Nat} {k : AKind} : keeps (checkM p size k) := by
  unfold checkM
  exact keeps_checkBy

theorem keeps_defer {i : Instr} {a b : Word} : keeps (defer i a b) := by
  unfold defer
  exact keeps_goOn fun _ hs => hs.modCtx

theorem keeps_soloAbort {α : Type} : keeps (soloAbort : M α) := fun _ hs => hs.abortTask

theorem State.memoryOk.fillL1 {s : State} {c t pa : Nat} {pg : Pg} (h : s.memoryOk) : (s.fillL1 c t pa pg).memoryOk :=
  h.ite (((State.memoryOk_fillL2 _ _ (h.settleWcb.ite (State.memoryOk_roomL1 _ h.settleWcb))).ite (h.settleWcb.ite
      (State.memoryOk_roomL1 _ h.settleWcb))).modTile)

theorem keeps_remoteRead {l : Leaf} {pa n : Nat} : keeps (remoteRead l pa n) := by
  unfold remoteRead
  intro s hs
  beta_reduce
  split
  · split
    · exact hs
    · split
      · exact hs
      · exact hs
  · exact hs.sendOut

theorem keeps_remoteLine {l : Leaf} : keeps (remoteLine l) := by
  unfold remoteLine
  exact keeps_ite keeps_remoteRead keeps_pure

theorem keeps_pcieRead {l : Leaf} {n : Nat} : keeps (pcieRead l n) := by
  unfold pcieRead
  intro s hs
  beta_reduce
  split
  · exact hs
  · exact keeps_run keeps_remoteRead hs

theorem State.memoryOk.postWrite {s : State} {c : Nat} {l : Leaf} {bs : List Byte} (h : s.memoryOk) : (s.postWrite c l bs).memoryOk :=
  h

theorem State.memoryOk.modHelper {s : State} {c : Nat} {f : Helper → Helper} (h : s.memoryOk) : (s.modHelper c f).memoryOk :=
  h

theorem State.memoryOk.soloTake {s t : State} {c pa : Nat} {pg : Pg} (h : s.memoryOk) (e : s.soloTake c pa pg = some t) : t.memoryOk := by
  unfold State.soloTake at e
  split at e
  · cases e
    exact (State.memoryOk.ite (State.memoryOk_fillL2 _ _ (State.memoryOk_cleanLine _ _ h)) (State.memoryOk_cleanLine _ _ h)).setL2
  · cases e

theorem keeps_homeLoad {l : Leaf} {n : Nat} : keeps (homeLoad l n) := by
  unfold homeLoad
  intro s hs
  beta_reduce
  split
  · exact hs
  · split
    · split
      · exact keeps_run (keeps_bind keeps_remoteRead fun _ => keeps_get fun _ hs => keeps_bind keeps_raiseFlags fun _ => keeps_bind
            (keeps_modify fun _ hs' => State.memoryOk_fillL2 _ _ hs') fun _ => keeps_get fun _ hs' => keeps_pure) hs
      · exact keeps_run (keeps_get fun _ hs => keeps_bind keeps_raiseFlags fun _ => keeps_bind (keeps_modify
            fun _ hs' => State.memoryOk_fillL2 _ _ hs') fun _ => keeps_get fun _ hs' => keeps_pure) hs
    · split
      · exact keeps_run (keeps_bind keeps_remoteRead fun _ => keeps_get fun _ hs => keeps_bind keeps_raiseFlags fun _ => keeps_bind
            (keeps_modify fun _ hs' => hs') fun _ => keeps_get fun _ hs' => keeps_pure) hs
      · exact keeps_run (keeps_get fun _ hs => keeps_bind keeps_raiseFlags fun _ => keeps_bind (keeps_modify fun _ hs' => hs') fun _ =>
            keeps_get fun _ hs' => keeps_pure) hs

theorem keeps_loadControl {l : Leaf} {n : Nat} : keeps (loadControl l n) := by
  unfold loadControl
  intro s hs
  beta_reduce
  split
  · refine keeps_run ?_ hs
    refine keeps_bind keeps_pcieRead fun x => ?_
    exact keeps_goOn fun _ hs => hs
  · split
    · exact keeps_run keeps_homeLoad hs
    · split
      · split
        · refine keeps_run ?_ hs
          refine keeps_bind keeps_remoteLine fun x => ?_
          refine keeps_bind (keeps_modify fun _ hs => hs.settleWcb) fun x' => ?_
          refine keeps_get fun x' hx' => ?_
          refine keeps_bind (keeps_modify fun _ hs => hs.fillL1) fun x' => ?_
          refine keeps_bind keeps_raiseFlags fun x' => ?_
          exact keeps_goOn fun _ hs => hs
        · exact hs
      · exact hs

theorem keeps_loadTask {l : Leaf} {n : Nat} : keeps (loadTask l n) := by
  unfold loadTask
  intro s hs
  beta_reduce
  split
  · exact hs
  · split
    · exact hs
    · extract_lets -underBinder own x clean u fl v bs ver h' w
      have hu : u.memoryOk := State.memoryOk.ite hs (State.memoryOk.modTile (State.memoryOk_cleanLine _ _ hs))
      have hv : v.memoryOk := hu.fillL1
      have hw : w.memoryOk := hv.modHelper
      clear_value w h' bs v
      split
      · exact hs
      · split
        · split
          · exact hs
          next u heq =>
            have hu : u.memoryOk := State.memoryOk.soloTake hs heq
            exact keeps_run (keeps_bind keeps_raiseFlags fun _ => keeps_pure) hu
        · split
          · exact hs
          · split
            · exact hv.abortTask
            · exact keeps_run (keeps_bind keeps_raiseFlags fun _ => keeps_pure) hw

theorem keeps_loadShared {l : Leaf} {n : Nat} : keeps (loadShared l n) := by
  unfold loadShared
  intro s hs
  beta_reduce
  split
  · exact keeps_run keeps_loadTask hs
  · exact keeps_run keeps_loadControl hs

theorem State.memoryOk.dirtyBytes {s : State} {c t : Nat} {l : Leaf} {bs : List Byte} (h : s.memoryOk) : (s.dirtyBytes c t l bs).memoryOk :=
  h

theorem State.memoryOk.configWrite {s : State} {pa : Nat} {bs : List Byte} (h : s.memoryOk) : (s.configWrite pa bs).memoryOk := by
  unfold State.configWrite
  refine State.memoryOk.ite ?_ (h.later.ite (h.ite ((State.memoryOk_setBytes _ _ h).later.ite ((State.memoryOk_setBytes _ _ h).congr.ite
      (State.memoryOk_setBytes _ _ h)))))
  refine State.memoryOk.ite (State.memoryOk_setByte _ _ h) ?_
  refine State.memoryOk.ite ?_ h
  split
  · exact h.later
  · exact h

theorem State.memoryOk.configStore {s : State} {pa : Nat} {bs : List Byte} (h : s.memoryOk) : (s.configStore pa bs).memoryOk :=
  h.configWrite.ite h

theorem State.memoryOk.homeStore {s : State} {l : Leaf} {bs : List Byte} (h : s.memoryOk) : (s.homeStore l bs).memoryOk :=
  State.memoryOk_homeWrite _ _ _ _ (h.sendLine.ite h)

theorem keeps_storeControl {l : Leaf} {bs : List Byte} : keeps (storeControl l bs) := by
  unfold storeControl
  intro s hs
  beta_reduce
  split
  · exact hs.postWrite
  · split
    · split
      · exact hs.configStore
      · split
        · exact hs.homeStore
        · exact hs
    · split
      · exact hs.dirtyBytes
      · split
        · refine keeps_run ?_ hs
          refine keeps_bind keeps_remoteLine fun x => ?_
          exact keeps_goOn fun _ hs => hs.fillL1.dirtyBytes
        · exact hs

theorem keeps_storeTask {l : Leaf} {bs : List Byte} : keeps (storeTask l bs) := by
  unfold storeTask
  intro s hs
  beta_reduce
  split
  · exact hs
  · split
    · exact hs
    · split
      · split
        · exact hs
        next t heq =>
          have ht : t.memoryOk := State.memoryOk.soloTake hs heq
          refine State.memoryOk.congr ?_
          exact ht.modHelper
      · dsimp only
        split
        · exact hs.abortTask
        · exact hs.modHelper

theorem keeps_storeShared {l : Leaf} {bs : List Byte} : keeps (storeShared l bs) := by
  unfold storeShared
  intro s hs
  beta_reduce
  split
  · exact keeps_run keeps_storeTask hs
  · exact keeps_run keeps_storeControl hs

theorem keeps_loadMem {who : Option Nat} {p : Word} {n : Nat} : keeps (loadMem who p n) := by
  unfold loadMem
  refine keeps_bind keeps_checkBy fun x => ?_
  split
  · exact keeps_goOn fun _ hs => hs
  · exact keeps_bind keeps_loadShared fun _ => keeps_pure

theorem keeps_storeMem {who : Option Nat} {p : Word} {n x : Nat} : keeps (storeMem who p n x) := by
  unfold storeMem
  refine keeps_bind keeps_checkBy fun x' => ?_
  split
  · exact keeps_goOn fun _ hs => State.memoryOk_setTmBytes _ _ _ _ hs
  · exact keeps_storeShared

theorem keeps_scopeCheck {sc : Nat} : keeps (scopeCheck sc) := by
  unfold scopeCheck
  intro s hs
  beta_reduce
  split
  · exact hs
  · exact hs

theorem keeps_release {sc : Nat} : keeps (release sc) := by
  unfold release
  intro s hs
  beta_reduce
  split
  · exact hs
  · split
    · exact hs
    · split
      · exact hs
      · dsimp only
        split
        · exact State.memoryOk_releaseCore _ _ hs
        · exact State.memoryOk_releaseCore _ _ hs

theorem keeps_acquire {sc : Nat} : keeps (acquire sc) := by
  unfold acquire
  exact keeps_goOn fun _ hs => State.memoryOk_acquireTile _ _ hs

end Sys2Proof.Machine
end

section
set_option Elab.async false
/-! PROOFS. Memory keeps its form: the scalar instructions. -/

namespace Sys2Proof.Machine

theorem keeps_opRR {d a b : Reg} {f : Word → Word → Word} : keeps (opRR d a b f) := by
  unfold opRR
  exact keeps_bind keeps_noPrefix fun _ => keeps_bind keeps_gate fun _ => keeps_bind keeps_readG fun _ => keeps_bind keeps_readG fun _ =>
      keeps_bind keeps_writeG fun _ => keeps_next

theorem keeps_opLong {d a b : Reg} {la : BitVec 4} {f : Word → Word → Word} : keeps (opLong d a b la f) := by
  unfold opLong
  exact keeps_bind keeps_noPrefix fun _ => keeps_bind keeps_gate fun _ => keeps_bind keeps_readG fun _ => keeps_bind keeps_readG fun _ =>
      keeps_bind keeps_writeLa fun _ => keeps_next

theorem keeps_opR {d a : Reg} {f : Word → Word} : keeps (opR d a f) := by
  unfold opR
  exact keeps_bind keeps_noPrefix fun _ => keeps_bind keeps_gate fun _ => keeps_bind keeps_readG fun _ => keeps_bind keeps_writeG fun _ =>
      keeps_next

theorem keeps_opDRR {d a b : Reg} {f : Word → Word → Word → Word} : keeps (opDRR d a b f) := by
  unfold opDRR
  exact keeps_bind keeps_noPrefix fun _ => keeps_bind keeps_gate fun _ => keeps_bind keeps_readG fun _ => keeps_bind keeps_readG fun _ =>
      keeps_bind keeps_readG fun _ => keeps_bind keeps_writeG fun _ => keeps_next

theorem keeps_opPc {d : Reg} {f : Word → Word} : keeps (opPc d f) := by
  unfold opPc
  exact keeps_bind keeps_noPrefix fun _ => keeps_bind keeps_gate fun _ => keeps_get fun _ hs => keeps_bind keeps_writeG fun _ => keeps_next

theorem outcomeOk_execAdd {s : State} {d a b : Reg} (h : s.memoryOk) : outcomeOk (execAdd d a b s) :=
  outcomeOk_run keeps_opRR h

theorem outcomeOk_execSub {s : State} {d a b : Reg} (h : s.memoryOk) : outcomeOk (execSub d a b s) :=
  outcomeOk_run keeps_opRR h

theorem outcomeOk_execAnd {s : State} {d a b : Reg} (h : s.memoryOk) : outcomeOk (execAnd d a b s) :=
  outcomeOk_run keeps_opRR h

theorem outcomeOk_execOr {s : State} {d a b : Reg} (h : s.memoryOk) : outcomeOk (execOr d a b s) :=
  outcomeOk_run keeps_opRR h

theorem outcomeOk_execXor {s : State} {d a b : Reg} (h : s.memoryOk) : outcomeOk (execXor d a b s) :=
  outcomeOk_run keeps_opRR h

theorem outcomeOk_execSll {s : State} {d a b : Reg} (h : s.memoryOk) : outcomeOk (execSll d a b s) :=
  outcomeOk_run keeps_opRR h

theorem outcomeOk_execSrl {s : State} {d a b : Reg} (h : s.memoryOk) : outcomeOk (execSrl d a b s) :=
  outcomeOk_run keeps_opRR h

theorem outcomeOk_execSra {s : State} {d a b : Reg} (h : s.memoryOk) : outcomeOk (execSra d a b s) :=
  outcomeOk_run keeps_opRR h

theorem outcomeOk_execSlt {s : State} {d a b : Reg} (h : s.memoryOk) : outcomeOk (execSlt d a b s) :=
  outcomeOk_run keeps_opRR h

theorem outcomeOk_execSlo {s : State} {d a b : Reg} (h : s.memoryOk) : outcomeOk (execSlo d a b s) :=
  outcomeOk_run keeps_opRR h

theorem outcomeOk_execMul {s : State} {d a b : Reg} {la : BitVec 4} (h : s.memoryOk) : outcomeOk (execMul d a b la s) :=
  outcomeOk_run keeps_opLong h

theorem outcomeOk_execMulh {s : State} {d a b : Reg} {la : BitVec 4} (h : s.memoryOk) : outcomeOk (execMulh d a b la s) :=
  outcomeOk_run keeps_opLong h

theorem outcomeOk_execMulhz {s : State} {d a b : Reg} {la : BitVec 4} (h : s.memoryOk) : outcomeOk (execMulhz d a b la s) :=
  outcomeOk_run keeps_opLong h

theorem outcomeOk_execDiv {s : State} {d a b : Reg} {la : BitVec 4} (h : s.memoryOk) : outcomeOk (execDiv d a b la s) :=
  outcomeOk_run keeps_opLong h

theorem outcomeOk_execDivz {s : State} {d a b : Reg} {la : BitVec 4} (h : s.memoryOk) : outcomeOk (execDivz d a b la s) :=
  outcomeOk_run keeps_opLong h

theorem outcomeOk_execRem {s : State} {d a b : Reg} {la : BitVec 4} (h : s.memoryOk) : outcomeOk (execRem d a b la s) :=
  outcomeOk_run keeps_opLong h

theorem outcomeOk_execRemz {s : State} {d a b : Reg} {la : BitVec 4} (h : s.memoryOk) : outcomeOk (execRemz d a b la s) :=
  outcomeOk_run keeps_opLong h

theorem outcomeOk_execMin {s : State} {d a b : Reg} (h : s.memoryOk) : outcomeOk (execMin d a b s) :=
  outcomeOk_run keeps_opRR h

theorem outcomeOk_execMax {s : State} {d a b : Reg} (h : s.memoryOk) : outcomeOk (execMax d a b s) :=
  outcomeOk_run keeps_opRR h

theorem outcomeOk_execMinz {s : State} {d a b : Reg} (h : s.memoryOk) : outcomeOk (execMinz d a b s) :=
  outcomeOk_run keeps_opRR h

theorem outcomeOk_execMaxz {s : State} {d a b : Reg} (h : s.memoryOk) : outcomeOk (execMaxz d a b s) :=
  outcomeOk_run keeps_opRR h

theorem outcomeOk_execClz {s : State} {d a : Reg} (h : s.memoryOk) : outcomeOk (execClz d a s) :=
  outcomeOk_run keeps_opR h

theorem outcomeOk_execPopc {s : State} {d a : Reg} (h : s.memoryOk) : outcomeOk (execPopc d a s) :=
  outcomeOk_run keeps_opR h

theorem outcomeOk_execBfx {s : State} {d a b : Reg} (h : s.memoryOk) : outcomeOk (execBfx d a b s) :=
  outcomeOk_run keeps_opRR h

theorem outcomeOk_execBfi {s : State} {d a b : Reg} (h : s.memoryOk) : outcomeOk (execBfi d a b s) :=
  outcomeOk_run keeps_opDRR h

theorem outcomeOk_execSel {s : State} {d a b : Reg} (h : s.memoryOk) : outcomeOk (execSel d a b s) :=
  outcomeOk_run keeps_opDRR h

theorem outcomeOk_execAddi {s : State} {d a : Reg} {imm : BitVec 16} (h : s.memoryOk) : outcomeOk (execAddi d a imm s) :=
  outcomeOk_run keeps_opR h

theorem outcomeOk_execAndi {s : State} {d a : Reg} {imm : BitVec 16} (h : s.memoryOk) : outcomeOk (execAndi d a imm s) :=
  outcomeOk_run keeps_opR h

theorem outcomeOk_execOri {s : State} {d a : Reg} {imm : BitVec 16} (h : s.memoryOk) : outcomeOk (execOri d a imm s) :=
  outcomeOk_run keeps_opR h

theorem outcomeOk_execXori {s : State} {d a : Reg} {imm : BitVec 16} (h : s.memoryOk) : outcomeOk (execXori d a imm s) :=
  outcomeOk_run keeps_opR h

theorem outcomeOk_execSlti {s : State} {d a : Reg} {imm : BitVec 16} (h : s.memoryOk) : outcomeOk (execSlti d a imm s) :=
  outcomeOk_run keeps_opR h

theorem outcomeOk_execSlli {s : State} {d a : Reg} {n : BitVec 6} (h : s.memoryOk) : outcomeOk (execSlli d a n s) :=
  outcomeOk_run keeps_opR h

theorem outcomeOk_execSrli {s : State} {d a : Reg} {n : BitVec 6} (h : s.memoryOk) : outcomeOk (execSrli d a n s) :=
  outcomeOk_run keeps_opR h

theorem outcomeOk_execSrai {s : State} {d a : Reg} {n : BitVec 6} (h : s.memoryOk) : outcomeOk (execSrai d a n s) :=
  outcomeOk_run keeps_opR h

theorem outcomeOk_execLui {s : State} {d : Reg} {imm : BitVec 21} (h : s.memoryOk) : outcomeOk (execLui d imm s) :=
  outcomeOk_run keeps_opPc h

theorem outcomeOk_execAuipc {s : State} {d : Reg} {imm : BitVec 21} (h : s.memoryOk) : outcomeOk (execAuipc d imm s) :=
  outcomeOk_run keeps_opPc h

end Sys2Proof.Machine
end

section
set_option Elab.async false
/-! PROOFS. Memory keeps its form: the memory instructions. -/

namespace Sys2Proof.Machine

theorem keeps_load {d a : Reg} {off : BitVec 9} {la : BitVec 4} {size : Nat} {f : Nat → Word} : keeps (load d a off la size f) := by
  unfold load
  exact keeps_bind keeps_noPrefix fun _ => keeps_bind keeps_gate fun _ => keeps_bind keeps_readG fun _ => keeps_bind keeps_loadMem fun _ =>
      keeps_bind keeps_writeLa fun _ => keeps_next

theorem outcomeOk_execLdB {s : State} {d a : Reg} {off : BitVec 9} {la : BitVec 4} (h : s.memoryOk) : outcomeOk (execLdB d a off la s) :=
  outcomeOk_run keeps_load h

theorem outcomeOk_execLdBz {s : State} {d a : Reg} {off : BitVec 9} {la : BitVec 4} (h : s.memoryOk) : outcomeOk (execLdBz d a off la s) :=
  outcomeOk_run keeps_load h

theorem outcomeOk_execLdH {s : State} {d a : Reg} {off : BitVec 9} {la : BitVec 4} (h : s.memoryOk) : outcomeOk (execLdH d a off la s) :=
  outcomeOk_run keeps_load h

theorem outcomeOk_execLdHz {s : State} {d a : Reg} {off : BitVec 9} {la : BitVec 4} (h : s.memoryOk) : outcomeOk (execLdHz d a off la s) :=
  outcomeOk_run keeps_load h

theorem outcomeOk_execLdW {s : State} {d a : Reg} {off : BitVec 9} {la : BitVec 4} (h : s.memoryOk) : outcomeOk (execLdW d a off la s) :=
  outcomeOk_run keeps_load h

theorem outcomeOk_execLdWz {s : State} {d a : Reg} {off : BitVec 9} {la : BitVec 4} (h : s.memoryOk) : outcomeOk (execLdWz d a off la s) :=
  outcomeOk_run keeps_load h

theorem outcomeOk_execLdD {s : State} {d a : Reg} {off : BitVec 9} {la : BitVec 4} (h : s.memoryOk) : outcomeOk (execLdD d a off la s) :=
  outcomeOk_run keeps_load h

theorem State.memoryOk.fillRo {s : State} {c t pa : Nat} {pg : Pg} (h : s.memoryOk) : (s.fillRo c t pa pg).memoryOk :=
  h.ite ((State.memoryOk_fillL2 _ _ (State.memoryOk_roomRo _ h)).modTile)

theorem keeps_loadRo {l : Leaf} : keeps (loadRo l) := by
  unfold loadRo
  intro s hs
  beta_reduce
  split
  · exact hs
  · split
    · refine keeps_run ?_ hs
      refine keeps_bind keeps_pcieRead fun x => ?_
      exact keeps_goOn fun _ hs => hs
    · split
      · exact keeps_run (keeps_bind keeps_homeLoad fun _ => keeps_pure) hs
      · split
        · exact hs
        · split
          · exact hs
          · refine keeps_run ?_ hs
            refine keeps_bind keeps_remoteLine fun x => ?_
            exact keeps_goOn fun _ hs => hs.fillRo

theorem outcomeOk_execLdRo {s : State} {d a : Reg} {off : BitVec 9} {la : BitVec 4} (h : s.memoryOk) : outcomeOk
    (execLdRo d a off la s) := by
  unfold execLdRo
  refine outcomeOk_run ?_ h
  refine keeps_bind keeps_noPrefix fun x => ?_
  refine keeps_bind keeps_gate fun x' => ?_
  refine keeps_bind keeps_readG fun x' => ?_
  refine keeps_bind keeps_checkM fun x' => ?_
  split
  · exact keeps_trap
  · exact keeps_bind keeps_trapIf fun _ => keeps_bind keeps_loadRo fun _ => keeps_bind keeps_writeLa fun _ => keeps_next

theorem keeps_store {b a : Reg} {off : BitVec 9} {size : Nat} : keeps (store b a off size) := by
  unfold store
  exact keeps_bind keeps_noPrefix fun _ => keeps_bind keeps_gate fun _ => keeps_bind keeps_readG fun _ => keeps_bind keeps_readG fun _ =>
      keeps_bind keeps_storeMem fun _ => keeps_next

theorem outcomeOk_execStB {s : State} {b a : Reg} {off : BitVec 9} (h : s.memoryOk) : outcomeOk (execStB b a off s) :=
  outcomeOk_run keeps_store h

theorem outcomeOk_execStH {s : State} {b a : Reg} {off : BitVec 9} (h : s.memoryOk) : outcomeOk (execStH b a off s) :=
  outcomeOk_run keeps_store h

theorem outcomeOk_execStW {s : State} {b a : Reg} {off : BitVec 9} (h : s.memoryOk) : outcomeOk (execStW b a off s) :=
  outcomeOk_run keeps_store h

theorem outcomeOk_execStD {s : State} {b a : Reg} {off : BitVec 9} (h : s.memoryOk) : outcomeOk (execStD b a off s) :=
  outcomeOk_run keeps_store h

theorem State.memoryOk.combine {s : State} {c t : Nat} {l : Leaf} {bs : List Byte} (h : s.memoryOk) : (s.combine c t l bs).memoryOk :=
  (State.memoryOk_drainWcb _ h.modTile).ite h.modTile

theorem keeps_storeNt {l : Leaf} {bs : List Byte} : keeps (storeNt l bs) := by
  unfold storeNt
  intro s hs
  beta_reduce
  split
  · exact keeps_run keeps_storeShared hs
  · split
    · exact (State.memoryOk_writeBack _ _ hs.dirtyBytes).ite hs.dirtyBytes
    · exact hs.combine

theorem outcomeOk_execStNt {s : State} {b a : Reg} {off : BitVec 9} (h : s.memoryOk) : outcomeOk (execStNt b a off s) := by
  unfold execStNt
  refine outcomeOk_run ?_ h
  refine keeps_bind keeps_noPrefix fun x => ?_
  refine keeps_bind keeps_gate fun x' => ?_
  refine keeps_bind keeps_readG fun x' => ?_
  refine keeps_bind keeps_readG fun y => ?_
  refine keeps_bind keeps_checkM fun x' => ?_
  split
  · exact keeps_bind (keeps_modify fun _ hs => State.memoryOk_setTmBytes _ _ _ _ hs) fun _ => keeps_next
  · exact keeps_bind keeps_storeNt fun _ => keeps_next

theorem State.memoryOk.fetchAhead {s : State} {l : Leaf} (h : s.memoryOk) : (s.fetchAhead l).memoryOk :=
  h.ite h.sendOut

theorem State.memoryOk.prefetch {s : State} {p : Word} (h : s.memoryOk) : (s.prefetch p).memoryOk := by
  unfold State.prefetch
  split
  next t heq =>
    have ht : t.memoryOk := h.check.of_eq heq
    split
    · refine State.memoryOk.congr ?_
      exact ht
    · split
      · split
        · refine State.memoryOk.congr ?_
          exact h
        · refine State.memoryOk.congr ?_
          exact ht.fetchAhead
      · split
        · refine State.memoryOk.congr ?_
          exact ht.fillL1
        · refine State.memoryOk.congr ?_
          exact ht.modTile
  · exact h

theorem outcomeOk_execPref {s : State} {a : Reg} (h : s.memoryOk) : outcomeOk (execPref a s) :=
  outcomeOk_run (keeps_bind keeps_noPrefix fun _ => keeps_bind keeps_gate fun _ => keeps_bind keeps_readG fun _ => keeps_bind (keeps_modify
      fun _ hs => hs.prefetch) fun _ => keeps_next) h

theorem keeps_flushLine {l : Leaf} {sc : Nat} {drop : Bool} : keeps (flushLine l sc drop) := by
  unfold flushLine
  intro s hs
  have hc : (if isTsc s.cur then s else s.cleanLine s.myTile (lineOf l.pa)).memoryOk := hs.ite (State.memoryOk_cleanLine _ _ hs)
  beta_reduce
  split
  · exact hs
  · split
    · exact hs
    · extract_lets u
      split
      · exact hc
      · exact keeps_run keeps_raiseFlags (State.memoryOk.ite_fst hc (State.memoryOk_flushSums _ _ hc))

theorem State.memoryOk.dropLine {s : State} {t l : Nat} (h : s.memoryOk) : (s.dropLine t l).memoryOk :=
  h

theorem keeps_lineOp {i : Instr} {cc : BitVec 2} {a : Reg} {drop : Bool} : keeps (lineOp i cc a drop) := by
  unfold lineOp
  refine keeps_bind keeps_noPrefix fun x => ?_
  refine keeps_bind keeps_gate fun x' => ?_
  refine keeps_bind keeps_readG fun p => ?_
  refine keeps_bind keeps_checkM fun x' => ?_
  split
  · exact keeps_bind keeps_scopeCheck fun _ => keeps_next
  · exact keeps_bind keeps_scopeCheck fun _ => keeps_get fun _ hs => keeps_ite (keeps_bind keeps_trapIf fun _ => keeps_bind keeps_defer
        fun _ => keeps_next) (keeps_bind keeps_flushLine fun _ => keeps_ite (keeps_bind (keeps_modify fun _ hs' => hs'.dropLine) fun _ =>
        keeps_next) keeps_next)

theorem outcomeOk_execFlush {s : State} {cc : BitVec 2} {a : Reg} (h : s.memoryOk) : outcomeOk (execFlush cc a s) :=
  outcomeOk_run keeps_lineOp h

theorem outcomeOk_execInval {s : State} {cc : BitVec 2} {a : Reg} (h : s.memoryOk) : outcomeOk (execInval cc a s) :=
  outcomeOk_run keeps_lineOp h

theorem keeps_atHome {l : Leaf} {size : Nat} : keeps (atHome l size) := by
  intro s hs
  unfold atHome
  split
  · exact hs
  · split
    · exact keeps_run (keeps_bind keeps_remoteRead fun _ _ ht => ht.ite (State.memoryOk_cleanLine _ _ ht)) hs
    · exact hs.ite (State.memoryOk_cleanLine _ _ hs)

theorem keeps_ownLine {l : Leaf} : keeps (ownLine l) := by
  unfold ownLine
  intro s hs
  beta_reduce
  split
  · exact hs
  next t heq =>
    have ht : t.memoryOk := State.memoryOk.soloTake hs heq
    refine State.memoryOk.congr ?_
    exact ht

theorem keeps_ldvTask {l : Leaf} {h : Helper} : keeps (ldvTask l h) := by
  unfold ldvTask
  exact keeps_ite (keeps_bind keeps_ownLine fun _ => keeps_get fun _ hs => keeps_ite keeps_waitFor (keeps_ite keeps_soloAbort (keeps_bind
      (keeps_set ((State.memoryOk_fillL2 _ _ (State.memoryOk_cleanLine _ _ hs)).modHelper)) fun _ => keeps_bind keeps_raiseFlags fun _ =>
      keeps_pure))) (keeps_get fun _ hs => keeps_ite keeps_waitFor (keeps_ite keeps_soloAbort (keeps_bind (keeps_set
      ((State.memoryOk_fillL2 _ _ (State.memoryOk_cleanLine _ _ hs)).modHelper)) fun _ => keeps_bind keeps_raiseFlags fun _ => keeps_pure)))

theorem outcomeOk_execLdv {s : State} {d a : Reg} {off : BitVec 9} {la : BitVec 4} (h : s.memoryOk) : outcomeOk (execLdv d a off la s) := by
  unfold execLdv
  refine outcomeOk_run ?_ h
  refine keeps_bind keeps_noPrefix fun x => ?_
  refine keeps_bind keeps_gate fun x' => ?_
  refine keeps_bind keeps_readG fun x' => ?_
  refine keeps_bind keeps_checkM fun x' => ?_
  split
  · exact keeps_trap
  · refine keeps_bind keeps_trapIf fun x' => ?_
    refine keeps_get fun s' hs' => ?_
    split
    · exact keeps_bind keeps_trapIf fun _ => keeps_bind keeps_ldvTask fun _ => keeps_bind keeps_writeLa fun _ => keeps_next
    · exact keeps_bind keeps_atHome fun _ => keeps_bind (keeps_modify fun _ hs => State.memoryOk_fillL2 _ _ hs) fun _ => keeps_get
          fun _ hs => keeps_bind keeps_raiseFlags fun _ => keeps_bind keeps_pure fun _ => keeps_bind keeps_writeLa fun _ => keeps_next

theorem outcomeOk_execVrec {s : State} {a b : Reg} (h : s.memoryOk) : outcomeOk (execVrec a b s) := by
  unfold execVrec
  refine outcomeOk_run (keeps_bind keeps_noPrefix fun _ => keeps_bind keeps_gate fun _ => keeps_bind keeps_readG fun p =>
    keeps_bind keeps_readG fun v => keeps_bind keeps_checkM fun r => ?_) h
  split
  · exact keeps_trap
  · refine keeps_bind keeps_trapIf fun _ => keeps_get fun u hu => ?_
    split
    · exact keeps_bind keeps_trap fun _ => keeps_next
    · exact keeps_bind (keeps_set (State.memoryOk.modMe hu)) fun _ => keeps_next

theorem outcomeOk_execValid {s : State} {d : Reg} {la : BitVec 4} (h : s.memoryOk) : outcomeOk (execValid d la s) := by
  unfold execValid
  refine outcomeOk_run (keeps_bind keeps_noPrefix fun _ => keeps_bind keeps_gate fun _ => keeps_bind keeps_sharedSlot fun _ =>
    keeps_get fun u hu => ?_) h
  extract_lets me
  split
  · exact keeps_waitFor
  · exact keeps_bind (keeps_set (State.memoryOk.modMe hu)) fun _ => keeps_bind keeps_writeLa fun _ => keeps_next

theorem outcomeOk_execVclr {s : State} (h : s.memoryOk) : outcomeOk (execVclr s) :=
  outcomeOk_run (keeps_bind keeps_noPrefix fun _ => keeps_bind (keeps_modify fun _ hs => hs.modMe) fun _ => keeps_next) h

end Sys2Proof.Machine
end

section
set_option Elab.async false
/-! PROOFS. Memory keeps its form: the atomic instructions. -/

namespace Sys2Proof.Machine

theorem State.memoryOk.dropCopy {s : State} {pa : Nat} (h : s.memoryOk) : (s.dropCopy pa).memoryOk :=
  h.ite h.modTile

theorem State.memoryOk.writeHome {s : State} {l : Leaf} {n x : Nat} (h : s.memoryOk) : (s.writeHome l n x).memoryOk :=
  h.configStore.ite ((State.memoryOk_homeWrite _ _ _ _ h).dropCopy)

theorem State.memoryOk.writeOwn {s : State} {l : Leaf} {n x : Nat} (h : s.memoryOk) : (s.writeOwn l n x).memoryOk :=
  h

theorem keeps_taskAtomic {i : Instr} {d : Reg} {l : Leaf} {n : Nat} {p b : Word} {f : State → Nat → Word × Option Nat} :
    keeps (taskAtomic i d l n p b f) := by
  intro s hs
  unfold taskAtomic
  split
  · exact hs
  · split
    · exact keeps_run (keeps_bind keeps_defer fun _ => keeps_pure) hs
    · split
      · exact keeps_run keeps_soloAbort hs
      · refine keeps_run (keeps_bind keeps_ownLine fun _ t ht => ?_) hs
        show State.memoryOk (match _ with | some x => t.writeOwn l n x | none => t)
        split
        · exact ht.writeOwn
        · exact ht

theorem keeps_homeAtomic {l : Leaf} {n sc : Nat} {f : State → Nat → Word × Option Nat} : keeps (homeAtomic l n sc f) := by
  unfold homeAtomic
  extract_lets -underBinder done
  have hd (r : PUnit) : keeps (done r) := by
    unfold done
    refine keeps_bind keeps_atHome fun _ => keeps_bind (keeps_modify fun u hu => (State.memoryOk_fillL2 _ _ hu).ite hu) fun _ =>
      keeps_get fun u hu => ?_
    extract_lets -underBinder r
    refine keeps_bind (keeps_set ?_) fun _ => ?_
    · split
      · exact hu.writeHome
      · exact hu
    · exact keeps_ite (keeps_bind keeps_acquire fun _ => keeps_pure) keeps_pure
  clear_value done
  exact keeps_ite (keeps_bind keeps_release hd) (hd ())

theorem keeps_condWrite {i : Instr} {d a b : Reg} {la : BitVec 4} {memSideToo : Bool}
    {f : Word → Word → Leaf → State → Nat → Word × Option Nat} : keeps (condWrite i d a b la memSideToo f) := by
  unfold condWrite
  refine keeps_bind keeps_noPrefix fun x => ?_
  refine keeps_bind keeps_gate fun x' => ?_
  refine keeps_bind keeps_readG fun p => ?_
  refine keeps_bind keeps_readG fun b' => ?_
  refine keeps_bind keeps_checkM fun x' => ?_
  split
  · exact keeps_trap
  · refine keeps_bind keeps_trapIf fun x' => ?_
    refine keeps_get fun s hs => ?_
    refine keeps_ite ?_ (keeps_bind keeps_homeAtomic fun _ => keeps_bind keeps_writeLa fun _ => keeps_next)
    refine keeps_bind keeps_trapIf fun x' => ?_
    refine keeps_bind keeps_taskAtomic fun x' => ?_
    split
    · exact keeps_bind keeps_writeLa fun _ => keeps_next
    · exact keeps_next

theorem outcomeOk_execCasv {s : State} {d a b : Reg} {la : BitVec 4} (h : s.memoryOk) : outcomeOk (execCasv d a b la s) :=
  outcomeOk_run keeps_condWrite h

theorem outcomeOk_execCas {s : State} {d a b : Reg} {la : BitVec 4} (h : s.memoryOk) : outcomeOk (execCas d a b la s) :=
  outcomeOk_run keeps_condWrite h

theorem State.memoryOk.jobRequest {s old : State} {yard j : Nat} (h : s.memoryOk) : (s.jobRequest old yard j).memoryOk :=
  (h.later.ite h).later.ite (h.later.ite h)

theorem State.memoryOk.jobRequests {s old : State} {pas : List Nat} (h : s.memoryOk) : (s.jobRequests old pas).memoryOk :=
  h.foldl fun _ _ ht => ht.jobRequest

theorem keeps_amo {i : Instr} {op : Nat → Nat → Nat → Nat} {d a b : Reg} {w : BitVec 1} {sc : BitVec 2} {la : BitVec 4} : keeps
    (amo i op d a b w sc la) := by
  unfold amo
  refine keeps_bind keeps_noPrefix fun x => ?_
  refine keeps_bind keeps_gate fun x' => ?_
  refine keeps_bind keeps_readG fun p => ?_
  refine keeps_bind keeps_readG fun y => ?_
  refine keeps_bind keeps_checkM fun x' => ?_
  split
  · exact keeps_trap
  · refine keeps_bind keeps_trapIf fun x' => ?_
    refine keeps_bind keeps_scopeCheck fun x' => ?_
    refine keeps_get fun s hs => ?_
    refine keeps_ite ?_ (keeps_get fun _ hs => keeps_bind keeps_homeAtomic fun _ => keeps_bind (keeps_modify fun _ hs' => hs'.jobRequests)
        fun _ => keeps_bind keeps_writeLa fun _ => keeps_next)
    refine keeps_bind keeps_trapIf fun x' => ?_
    refine keeps_bind keeps_taskAtomic fun x' => ?_
    split
    · exact keeps_bind (keeps_modify fun _ hs => hs.modHelper) fun _ => keeps_bind keeps_writeLa fun _ => keeps_next
    · exact keeps_next

theorem outcomeOk_execAmoAdd {s : State} {d a b : Reg} {w : BitVec 1} {sc : BitVec 2} {la : BitVec 4} (h : s.memoryOk) : outcomeOk
    (execAmoAdd d a b w sc la s) :=
  outcomeOk_run keeps_amo h

theorem outcomeOk_execAmoAnd {s : State} {d a b : Reg} {w : BitVec 1} {sc : BitVec 2} {la : BitVec 4} (h : s.memoryOk) : outcomeOk
    (execAmoAnd d a b w sc la s) :=
  outcomeOk_run keeps_amo h

theorem outcomeOk_execAmoOr {s : State} {d a b : Reg} {w : BitVec 1} {sc : BitVec 2} {la : BitVec 4} (h : s.memoryOk) : outcomeOk
    (execAmoOr d a b w sc la s) :=
  outcomeOk_run keeps_amo h

theorem outcomeOk_execAmoXor {s : State} {d a b : Reg} {w : BitVec 1} {sc : BitVec 2} {la : BitVec 4} (h : s.memoryOk) : outcomeOk
    (execAmoXor d a b w sc la s) :=
  outcomeOk_run keeps_amo h

theorem outcomeOk_execAmoMin {s : State} {d a b : Reg} {w : BitVec 1} {sc : BitVec 2} {la : BitVec 4} (h : s.memoryOk) : outcomeOk
    (execAmoMin d a b w sc la s) :=
  outcomeOk_run keeps_amo h

theorem outcomeOk_execAmoMax {s : State} {d a b : Reg} {w : BitVec 1} {sc : BitVec 2} {la : BitVec 4} (h : s.memoryOk) : outcomeOk
    (execAmoMax d a b w sc la s) :=
  outcomeOk_run keeps_amo h

theorem outcomeOk_execAmoSwap {s : State} {d a b : Reg} {w : BitVec 1} {sc : BitVec 2} {la : BitVec 4} (h : s.memoryOk) : outcomeOk
    (execAmoSwap d a b w sc la s) :=
  outcomeOk_run keeps_amo h

theorem State.memoryOk.xadd {s t : State} {tag yard pa : Nat} {pg : Pg} {x : Nat} (h : s.memoryOk)
    (e : s.xadd tag yard pa pg x = some t) : t.memoryOk := by
  unfold State.xadd at e
  split at e
  · cases e
    exact h
  · split at e
    · cases e
    · cases e
      exact State.memoryOk_bumpVer _ _ (State.memoryOk_takeKey _ _ h).setSum

theorem outcomeOk_execAmoXadd {s : State} {d a b : Reg} {sc : BitVec 2} {la : BitVec 4} (h : s.memoryOk) :
    outcomeOk (execAmoXadd d a b sc la s) := by
  unfold execAmoXadd
  refine outcomeOk_run (keeps_bind keeps_noPrefix fun _ => keeps_bind keeps_gate fun _ => keeps_bind keeps_readG fun p =>
    keeps_bind keeps_readG fun y => keeps_bind keeps_checkM fun r => ?_) h
  split
  · exact keeps_trap
  next l =>
    refine keeps_bind keeps_trapIf fun _ => keeps_bind keeps_scopeCheck fun _ => keeps_get fun u hu => ?_
    extract_lets -underBinder fin
    have hfin (r : PUnit) : keeps (fin r) := keeps_next
    clear_value fin
    split
    · exact keeps_bind keeps_trapIf fun _ => keeps_ite (keeps_bind keeps_defer hfin) (keeps_ite (keeps_bind keeps_soloAbort hfin)
        (keeps_bind keeps_ownLine fun _ => keeps_get fun v hv => keeps_bind keeps_defer fun _ => keeps_bind keeps_raiseFlags fun _ =>
          keeps_bind keeps_writeLa hfin))
    · extract_lets -underBinder add
      have hadd (r : PUnit) : keeps (add r) := by
        unfold add
        refine keeps_bind keeps_atHome fun _ => keeps_get fun v hv => ?_
        extract_lets -underBinder before out
        have hout (r : PUnit) : keeps (out r) := by
          unfold out
          have hla : keeps (writeLa la [RegWrite.g d (BitVec.ofNat 64 before.1)] >>= fun r => fin r) := keeps_bind keeps_writeLa hfin
          have hfl : keeps (if d ≠ 0 then raiseFlags before.2 >>= fun _ => (writeLa la [RegWrite.g d (BitVec.ofNat 64 before.1)] >>=
              fun r => fin r)
              else (writeLa la [RegWrite.g d (BitVec.ofNat 64 before.1)] >>= fun r => fin r)) :=
            keeps_ite (keeps_bind keeps_raiseFlags fun _ => hla) hla
          exact keeps_ite (keeps_bind keeps_acquire fun _ => hfl) hfl
        clear_value out
        split
        · exact keeps_bind keeps_trap hout
        next w heq =>
          have hw : w.memoryOk := hv.xadd heq
          exact keeps_bind (keeps_set hw.dropCopy) hout
      clear_value add
      exact keeps_ite (keeps_bind keeps_release hadd) (hadd ())

end Sys2Proof.Machine
end

section
set_option Elab.async false
/-! PROOFS. Memory keeps its form: fences, events, fill words, barriers and link values. -/

namespace Sys2Proof.Machine

theorem outcomeOk_execFenceRel {s : State} {sc : BitVec 2} (h : s.memoryOk) : outcomeOk (execFenceRel sc s) :=
  outcomeOk_runClose (keeps_bind keeps_noPrefix fun _ => keeps_bind keeps_scopeCheck fun _ => keeps_get fun _ hs => keeps_bind
      keeps_release fun _ => keeps_next) h

theorem outcomeOk_execFenceAcq {s : State} {sc : BitVec 2} (h : s.memoryOk) : outcomeOk (execFenceAcq sc s) :=
  outcomeOk_runClose (keeps_bind keeps_noPrefix fun _ => keeps_bind keeps_scopeCheck fun _ => keeps_get fun _ hs => keeps_bind
      keeps_acquire fun _ => keeps_next) h

theorem outcomeOk_execFenceAr {s : State} {sc : BitVec 2} (h : s.memoryOk) : outcomeOk (execFenceAr sc s) :=
  outcomeOk_runClose (keeps_bind keeps_noPrefix fun _ => keeps_bind keeps_scopeCheck fun _ => keeps_get fun _ hs => keeps_bind
      keeps_release fun _ => keeps_bind keeps_acquire fun _ => keeps_next) h

theorem State.memoryOk.receive {s : State} {c : Nat} {bit : BitVec 32} (h : s.memoryOk) : (s.receive c bit).memoryOk :=
  (h.ite h.modTile).modCtx.ite h.modCtx

theorem State.memoryOk.signal {s : State} {t line : Nat} (h : s.memoryOk) : (s.signal t line).memoryOk :=
  h.modTile.ite (h.foldl fun _ _ ht => ht.receive)

theorem outcomeOk_execEventArrival {s : State} {tile line : Nat} (h : s.memoryOk) : outcomeOk (execEventArrival tile line s) :=
  h.signal

theorem State.memoryOk.unwait {s : State} {c : Nat} (h : s.memoryOk) : (s.unwait c).memoryOk :=
  h

theorem outcomeOk_execEvw {s : State} {d a : Reg} (h : s.memoryOk) : outcomeOk (execEvw d a s) :=
  outcomeOk_runClose (keeps_bind keeps_noPrefix fun _ => keeps_bind keeps_gate fun _ => keeps_bind keeps_readG fun _ => keeps_bind
      keeps_trapIf fun _ => keeps_get fun _ hs => keeps_ite keeps_waitFor (keeps_bind keeps_gatePush fun _ => keeps_bind (keeps_modify
      fun _ hs' => hs'.takeLines) fun _ => keeps_bind keeps_writeG fun _ => keeps_next)) h

theorem State.memoryOk.sendSignal {s : State} {c : Nat} {a : Word} (h : s.memoryOk) : (s.sendSignal c a).memoryOk :=
  h

theorem outcomeOk_execEvs {s : State} {a : Reg} (h : s.memoryOk) : outcomeOk (execEvs a s) :=
  outcomeOk_run (keeps_bind keeps_noPrefix fun _ => keeps_bind keeps_gate fun _ => keeps_bind keeps_readG fun _ => keeps_bind keeps_trapIf
      fun _ => keeps_get fun _ hs => keeps_bind keeps_trapIf fun _ => keeps_ite (keeps_bind keeps_defer fun _ => keeps_next) (keeps_bind
      (keeps_set hs.sendSignal) fun _ => keeps_next)) h

theorem State.memoryOk.setFill {s : State} {t view off : Nat} {w : FillWord} (h : s.memoryOk) : (s.setFill t view off w).memoryOk :=
  State.memoryOk_setTmBytes _ _ _ _ h

theorem State.memoryOk.fillArrive {s : State} {t view off m : Nat} (h : s.memoryOk) : (s.fillArrive t view off m).1.memoryOk :=
  State.memoryOk.ite_fst h.setFill (h.setFill.signal.ite h.setFill)

theorem outcomeOk_execFillWordArrival {s : State} {tile view off m : Nat} (h : s.memoryOk) : outcomeOk
    (execFillWordArrival tile view off m s) :=
  h.fillArrive

theorem keeps_fillPtr {p : Word} {wr : Bool} : keeps (fillPtr p wr) := by
  unfold fillPtr
  intro s hs
  beta_reduce
  split
  · exact hs
  · split
    · exact hs
    · split
      · exact hs
      · split
        · exact hs
        · exact hs

theorem outcomeOk_execFillw {s : State} {d a b : Reg} (h : s.memoryOk) : outcomeOk (execFillw d a b s) :=
  outcomeOk_runClose (keeps_bind keeps_noPrefix fun _ => keeps_bind keeps_gate fun _ => keeps_get fun _ hs => keeps_bind keeps_trapIf
      fun _ => keeps_bind keeps_readG fun _ => keeps_bind keeps_readG fun _ => keeps_bind keeps_fillPtr fun _ => keeps_get fun _ hs' =>
      keeps_ite keeps_waitFor (keeps_bind keeps_gatePush fun _ => keeps_bind keeps_writeG fun _ => keeps_next)) h

theorem outcomeOk_execFillt {s : State} {d a : Reg} (h : s.memoryOk) : outcomeOk (execFillt d a s) :=
  outcomeOk_run (keeps_bind keeps_noPrefix fun _ => keeps_bind keeps_gate fun _ => keeps_bind keeps_readG fun _ => keeps_bind keeps_fillPtr
      fun _ => keeps_bind keeps_gatePush fun _ => keeps_get fun _ hs => keeps_bind keeps_writeG fun _ => keeps_next) h

theorem outcomeOk_execFilla {s : State} {d a b : Reg} (h : s.memoryOk) : outcomeOk (execFilla d a b s) :=
  outcomeOk_run (keeps_bind keeps_noPrefix fun _ => keeps_bind keeps_gate fun _ => keeps_bind keeps_readG fun _ => keeps_bind keeps_readG
      fun _ => keeps_bind keeps_fillPtr fun _ => keeps_bind keeps_gatePush fun _ => keeps_get fun _ hs => keeps_bind (keeps_set hs.setFill)
      fun _ => keeps_bind keeps_writeG fun _ => keeps_next) h

theorem State.memoryOk.leaveRound {s : State} {yard dom tag : Nat} (h : s.memoryOk) : (s.leaveRound yard dom tag).memoryOk :=
  h

theorem State.memoryOk.arrive {s : State} {c dom members : Nat} (h : s.memoryOk) : (s.arrive c dom members).memoryOk := by
  unfold State.arrive
  refine State.memoryOk.ite h ?_
  extract_lets -underBinder
  split
  · exact State.memoryOk.ite h.modCtx (h.modCtx (c := c) (f := fun x => { x with barTok := 0 }))
  · exact (h.modCtx (c := c) (f := fun x => { x with barTok := 0 }) :)

theorem outcomeOk_execBarrierArrival {s : State} {cid dom members : Nat} (h : s.memoryOk) : outcomeOk
    (execBarrierArrival cid dom members s) :=
  h.arrive

theorem keeps_barrier {k kind : Nat} {wk : WaitKind} {ready : M Unit} (hr : keeps ready) : keeps (barrier k kind wk ready) := by
  unfold barrier
  refine keeps_get fun s hs => ?_
  dsimp only
  refine keeps_bind keeps_trapIf fun _ => ?_
  refine keeps_ite (keeps_bind (keeps_set hs.modMe) fun _ => keeps_trap) (keeps_ite keeps_waitFor ?_)
  split
  · exact keeps_ite (keeps_bind hr fun _ => keeps_bind (keeps_set hs.leaveRound) fun _ => keeps_acquire) keeps_waitFor
  · exact keeps_bind keeps_release fun _ => keeps_bind (keeps_modify fun _ ht => ht.modMe.later) fun _ => keeps_waitFor

theorem outcomeOk_execBar {s : State} {a : Reg} (h : s.memoryOk) : outcomeOk (execBar a s) :=
  outcomeOk_runClose (keeps_bind keeps_noPrefix fun _ => keeps_get fun _ hs => keeps_bind keeps_trapIf fun _ => keeps_bind keeps_gate
      fun _ => keeps_bind keeps_readG fun _ => keeps_bind keeps_trapIf fun _ => keeps_bind (keeps_barrier keeps_pure) fun _ => keeps_next) h

theorem outcomeOk_execTsync {s : State} {d : Reg} (h : s.memoryOk) : outcomeOk (execTsync d s) :=
  outcomeOk_runClose (keeps_bind keeps_noPrefix fun _ => keeps_get fun _ hs => keeps_bind keeps_trapIf fun _ => keeps_bind keeps_trapIf
      fun _ => keeps_bind keeps_gate fun _ => keeps_bind keeps_waitUntil fun _ => keeps_bind (keeps_barrier keeps_gatePush) fun _ =>
      keeps_get fun _ hs' => keeps_bind keeps_writeG fun _ => keeps_next) h

theorem State.memoryOk.snapshot {s : State} {t : Nat} (h : s.memoryOk) : (s.snapshot t).memoryOk :=
  h

theorem State.memoryOk.superstep {s : State} {yard dom : Nat} (h : s.memoryOk) : (s.superstep yard dom).memoryOk := by
  unfold State.superstep
  split
  · exact h
  · extract_lets -underBinder u jobs v
    have hu : u.memoryOk := h
    clear_value u
    have hv : v.memoryOk := hu.foldl fun _ c hw => hw.foldl fun _ t hw => hw.snapshot
    clear_value v
    exact hv

theorem outcomeOk_execSuperstepBoundary {s : State} {yard dom : Nat} (h : s.memoryOk) : outcomeOk (execSuperstepBoundary yard dom s) :=
  h.superstep

theorem State.memoryOk.spillTo {s t : State} {pa r n tag : Nat} {pg : Pg} {v : QVal} (h : s.memoryOk)
    (e : s.spillTo pa r n tag pg v = some t) : t.memoryOk := by
  unfold State.spillTo at e
  split at e
  · cases e
  · dsimp only at e
    split at e
    · cases e
      exact State.memoryOk_homeWrite _ _ _ _ h
    · cases e

theorem State.memoryOk.landValue {s : State} {k : Nat} {d : Dir} {f : Flight} (h : s.memoryOk) : (s.landValue k d f).memoryOk := by
  unfold State.landValue
  split
  · split
    next t heq =>
      have ht : t.memoryOk := State.memoryOk.spillTo h heq
      refine State.memoryOk.congr ?_
      exact ht.modCore
    · exact h
  · exact h.ite h.modCore.modCore

theorem State.memoryOk.linkArrive {s : State} {k : Nat} {d : Dir} (h : s.memoryOk) : (s.linkArrive k d).memoryOk := by
  unfold State.linkArrive
  split
  · exact h
  · split
    · exact h
    · exact h.ite h.landValue

theorem State.memoryOk.landDue {s : State} {k : Nat} (h : s.memoryOk) : (s.landDue k).memoryOk := by
  unfold State.landDue
  refine State.memoryOk.foldl h fun u f hu => ?_
  split
  · exact State.memoryOk.ite hu.linkArrive hu
  · exact hu

theorem outcomeOk_execLinkValueArrival {s : State} {core : Nat} {dir : Dir} (h : s.memoryOk) : outcomeOk
    (execLinkValueArrival core dir s) :=
  h.linkArrive

end Sys2Proof.Machine
end

section
set_option Elab.async false
/-! PROOFS. Memory keeps its form: the special registers. -/

namespace Sys2Proof.Machine

theorem keeps_srCheck {n : Nat} : keeps (srCheck n) := by
  unfold srCheck
  intro s hs
  beta_reduce
  split
  · exact hs
  · split
    · exact hs
    · exact hs

theorem State.memoryOk.writeSr {s : State} {c n : Nat} {x : Word} (h : s.memoryOk) : (s.writeSr c n x).memoryOk :=
  h.setSr.congr.ite (h.setSr.modCtx.ite (h.setSr.modCore.ite h.setSr))

theorem keeps_keepCheck {n : Nat} {i : SrInfo} {x : Word} : keeps (keepCheck n i x) := by
  unfold keepCheck
  exact keeps_trapIf

theorem keeps_drain : keeps drain := by
  unfold drain
  intro s hs
  beta_reduce
  split
  · split
    · exact hs
    · exact hs
  · exact hs

theorem keeps_getSr {n : Nat} : keeps (getSr n) := by
  unfold getSr
  intro s hs
  beta_reduce
  split
  · exact hs.draw
  · exact hs

theorem keeps_takeSupp : keeps takeSupp := by
  unfold takeSupp
  exact keeps_goOn fun _ hs => hs.modMe

theorem outcomeOk_execMfs {s : State} {d : Reg} {n : BitVec 12} (h : s.memoryOk) : outcomeOk (execMfs d n s) :=
  outcomeOk_run (keeps_bind keeps_noPrefix fun _ => keeps_bind keeps_srCheck fun _ => keeps_bind keeps_gate fun _ => keeps_ite (keeps_bind
      keeps_drain fun _ => keeps_bind keeps_gatePush fun _ => keeps_ite (keeps_bind keeps_takeSupp fun _ => keeps_bind keeps_writeG
      fun _ => keeps_next) (keeps_bind keeps_getSr fun _ => keeps_bind keeps_writeG fun _ => keeps_next)) (keeps_ite (keeps_bind
      keeps_takeSupp fun _ => keeps_bind keeps_writeG fun _ => keeps_next) (keeps_bind keeps_getSr fun _ => keeps_bind keeps_writeG
      fun _ => keeps_next))) h

theorem outcomeOk_execTrapSuppRead {s : State} {d : Reg} (h : s.memoryOk) : outcomeOk (execTrapSuppRead d s) :=
  outcomeOk_run (keeps_bind keeps_noPrefix fun _ => keeps_bind keeps_srCheck fun _ => keeps_bind keeps_gate fun _ => keeps_bind
      keeps_takeSupp fun _ => keeps_bind keeps_writeG fun _ => keeps_next) h

theorem outcomeOk_execFflagsAccess {s : State} {wr : Bool} {r : Reg} (h : s.memoryOk) : outcomeOk (execFflagsAccess wr r s) :=
  outcomeOk_run (keeps_bind keeps_noPrefix fun _ => keeps_bind keeps_gate fun _ => keeps_bind keeps_drain fun _ => keeps_ite (keeps_bind
      keeps_readG fun _ => keeps_bind (keeps_modify fun _ hs => hs.setSr) fun _ => keeps_next) (keeps_bind keeps_gatePush fun _ =>
      keeps_bind keeps_getSr fun _ => keeps_bind keeps_writeG fun _ => keeps_next)) h

theorem State.memoryOk.beginPin {s : State} {t : Nat} (h : s.memoryOk) : (s.beginPin t).memoryOk :=
  h.ite h.modTile

theorem keeps_writeFt {x : Word} : keeps (writeFt x) := by
  unfold writeFt
  intro s hs
  beta_reduce
  split
  · exact hs.modMe.unpin
  · split
    · exact hs
    · dsimp only
      split
      · exact hs.modMe
      · exact hs.modMe.beginPin

theorem outcomeOk_execCtxFtWrite {s : State} {a : Reg} (h : s.memoryOk) : outcomeOk (execCtxFtWrite a s) :=
  outcomeOk_run (keeps_bind keeps_noPrefix fun _ => keeps_bind keeps_gate fun _ => keeps_bind keeps_readG fun _ => keeps_bind
      keeps_keepCheck fun _ => keeps_bind keeps_writeFt fun _ => keeps_next) h

theorem State.memoryOk.pinDone {s : State} {t : Nat} (h : s.memoryOk) : (s.pinDone t).memoryOk := by
  unfold State.pinDone
  split
  · exact h
  · exact h.ite h.modTile

theorem outcomeOk_execPinSwitchComplete {s : State} {tile : Nat} (h : s.memoryOk) : outcomeOk (execPinSwitchComplete tile s) :=
  h.pinDone

theorem outcomeOk_execElasticReturnComplete {s : State} {tile : Nat} (h : s.memoryOk) : outcomeOk (execElasticReturnComplete tile s) := by
  unfold execElasticReturnComplete
  split
  · exact h.modTile.ite h
  · exact h

theorem outcomeOk_execDroopStretch {s : State} {tile depth : Nat} (h : s.memoryOk) : outcomeOk (execDroopStretch tile depth s) :=
  h.ite h.modTile

theorem keeps_writeRing {n : Nat} {x : Word} : keeps (writeRing n x) := by
  unfold writeRing
  intro s hs
  beta_reduce
  split
  · exact hs
  · split
    · exact hs
    · exact hs.setSr

theorem outcomeOk_execRingRegisterWrite {s : State} {a : Reg} {n : BitVec 12} (h : s.memoryOk) : outcomeOk (execRingRegisterWrite a n s) :=
  outcomeOk_run (keeps_bind keeps_noPrefix fun _ => keeps_bind keeps_srCheck fun _ => keeps_bind keeps_gate fun _ => keeps_bind keeps_readG
      fun _ => keeps_bind keeps_keepCheck fun _ => keeps_bind keeps_writeRing fun _ => keeps_next) h

theorem keeps_writeMgrp {x : Word} : keeps (writeMgrp x) := by
  unfold writeMgrp
  intro s hs
  beta_reduce
  split
  · exact hs
  · exact hs.setSr

theorem outcomeOk_execMgrpWrite {s : State} {a : Reg} (h : s.memoryOk) : outcomeOk (execMgrpWrite a s) :=
  outcomeOk_run (keeps_bind keeps_noPrefix fun _ => keeps_bind keeps_gate fun _ => keeps_bind keeps_readG fun _ => keeps_bind
      keeps_keepCheck fun _ => keeps_bind keeps_writeMgrp fun _ => keeps_next) h

theorem State.memoryOk.killSaved {s : State} {yard tag : Nat} (h : s.memoryOk) : (s.killSaved yard tag).memoryOk :=
  h.markDead.stopCommands.congr.ite h

theorem outcomeOk_execSKillWrite {s : State} {a : Reg} (h : s.memoryOk) : outcomeOk (execSKillWrite a s) :=
  outcomeOk_run (keeps_bind keeps_noPrefix fun _ => keeps_bind keeps_srCheck fun _ => keeps_bind keeps_gate fun _ => keeps_bind keeps_readG
      fun _ => keeps_bind (keeps_modify fun _ hs => hs.killSaved) fun _ => keeps_next) h

theorem keeps_writeTag {x : Word} : keeps (writeTag x) := by
  unfold writeTag
  intro s hs
  beta_reduce
  split
  · exact hs
  · exact hs.setSr

theorem outcomeOk_execHvTagWrite {s : State} {a : Reg} (h : s.memoryOk) : outcomeOk (execHvTagWrite a s) :=
  outcomeOk_run (keeps_bind keeps_noPrefix fun _ => keeps_bind keeps_srCheck fun _ => keeps_bind keeps_gate fun _ => keeps_bind keeps_readG
      fun _ => keeps_bind keeps_keepCheck fun _ => keeps_bind keeps_writeTag fun _ => keeps_next) h

theorem outcomeOk_execMts {s : State} {a : Reg} {n : BitVec 12} (h : s.memoryOk) : outcomeOk (execMts a n s) :=
  outcomeOk_run (keeps_bind keeps_noPrefix fun _ => keeps_bind keeps_srCheck fun _ => keeps_bind keeps_gate fun _ => keeps_bind keeps_readG
      fun _ => keeps_ite (keeps_bind keeps_keepCheck fun _ => keeps_bind keeps_trapIf fun _ => keeps_ite (keeps_bind keeps_writeFt fun _ =>
      keeps_next) (keeps_ite (keeps_bind keeps_drain fun _ => keeps_bind (keeps_modify fun _ hs => hs.setSr) fun _ => keeps_next)
      (keeps_ite (keeps_bind keeps_writeRing fun _ => keeps_next) (keeps_ite (keeps_bind keeps_writeMgrp fun _ => keeps_next) (keeps_ite
      (keeps_bind keeps_writeTag fun _ => keeps_next) (keeps_bind (keeps_modify fun _ hs => hs.writeSr) fun _ => keeps_next))))))
      (keeps_ite (keeps_bind (keeps_modify fun _ hs => hs.killSaved) fun _ => keeps_next) keeps_next)) h

end Sys2Proof.Machine
end

section
set_option Elab.async false
/-! PROOFS. Memory keeps its form: the vector instructions. -/

namespace Sys2Proof.Machine

theorem keeps_takePfx {u : PfxUse} : keeps (takePfx u) := by
  unfold takePfx
  intro s hs
  beta_reduce
  dsimp only
  split
  · exact hs
  · split
    · exact hs
    · exact hs.modMe

theorem State.memoryOk.countPush {s : State} (h : s.memoryOk) : s.countPush.memoryOk :=
  h

theorem State.memoryOk.enqueue {s : State} {k : Nat} {q : QEntry} (h : s.memoryOk) : (s.enqueue k q).memoryOk :=
  h

theorem State.memoryOk.openWindow {s : State} {c last seq : Nat} {replay : Bool} (h : s.memoryOk) :
    (s.openWindow c last seq replay).memoryOk :=
  h

theorem keeps_pushCop {i : Instr} {pfx : IWord} {a b qkw : Word} {win : Option (BitVec 4)} {rec : Bool} :
    keeps (pushCop i pfx a b qkw win rec) := by
  intro s hs
  unfold pushCop
  split
  · exact hs
  · cases win with
    | none => exact hs.enqueue.modMe
    | some la => exact hs.enqueue.openWindow.modMe

theorem keeps_readOpt {r : Option Reg} : keeps (readOpt r) := by
  unfold readOpt
  split
  · exact keeps_readG
  · exact keeps_pure

theorem State.memoryOk.feed {k n : Nat} {s : State} (h : s.memoryOk) : (s.feed k n).memoryOk := by
  induction n generalizing s with
  | zero => exact h
  | succ n ih =>
    unfold State.feed
    split
    · exact h
    · split
      · exact h
      · exact ih (h.modCore.enqueue.openWindow.ite h.modCore.enqueue)

theorem State.memoryOk.hold {s : State} {k : Nat} {q : QEntry} (h : s.memoryOk) : (s.hold k q).memoryOk :=
  h.modCore.feed

theorem keeps_formSlot {i : Instr} {a : Word} : keeps (formSlot i a) := by
  unfold formSlot
  intro s hs
  beta_reduce
  split
  · exact keeps_run keeps_sharedSlot hs
  · exact hs

theorem keeps_vIssue {i : Instr} : keeps (vIssue i) := by
  unfold vIssue
  split
  · exact keeps_noPrefix
  · refine keeps_bind keeps_takePfx fun w => ?_
    refine keeps_bind keeps_trapIf fun x => ?_
    split
    · exact keeps_bind keeps_trap fun _ => keeps_bind keeps_gate fun _ => keeps_bind keeps_readOpt fun _ => keeps_bind keeps_readOpt
          fun _ => keeps_bind keeps_formSlot fun _ => keeps_bind keeps_pushCop fun _ => keeps_next
    · exact keeps_bind keeps_gate fun _ => keeps_bind keeps_readOpt fun _ => keeps_bind keeps_readOpt fun _ => keeps_bind keeps_formSlot
          fun _ => keeps_bind keeps_pushCop fun _ => keeps_next

theorem State.memoryOk.countOn {s : State} {cid tag : Nat} {i : Instr} (h : s.memoryOk) : (s.countOn cid tag i).memoryOk := by
  unfold State.countOn
  split
  · exact h
  · exact h.modTile

theorem State.memoryOk.countDone {s : State} {q : QEntry} (h : s.memoryOk) : (s.countDone q).memoryOk :=
  h.countOn

theorem State.memoryOk.noteLate {s : State} {q : QEntry} {cause : Cause} (h : s.memoryOk) : (s.noteLate q cause).memoryOk := by
  unfold State.noteLate
  split
  · exact h
  · exact h.modTile

theorem State.memoryOk.raiseLate {s : State} {q : QEntry} {cause : Cause} {member elem : Nat} {tval : Word} (h : s.memoryOk) :
    (s.raiseLate q cause member elem tval).memoryOk := by
  unfold State.raiseLate
  split
  · dsimp only
    split
    · exact h.noteLate.addRecord
    · exact h.noteLate.addRecord.ite h.noteLate
  · dsimp only
    split
    · exact h.noteLate.taskFault.ite h.noteLate.modCtx
    · exact h.noteLate.congr.ite h.noteLate

theorem State.memoryOk.applyReplay {s : State} {c : Nat} {ws : List RegWrite} (h : s.memoryOk) : (s.applyReplay c ws).memoryOk :=
  (h.foldl fun _ _ ht => ht.applyWrite).modCore

theorem State.memoryOk.deliverWrites {s : State} {q : QEntry} {ws : List RegWrite} (h : s.memoryOk) : (s.deliverWrites q ws).memoryOk := by
  unfold State.deliverWrites
  split
  · exact h
  · exact h.modCtx.applyReplay.ite h.modCtx

theorem State.memoryOk.orFlagsOf {s : State} {q : QEntry} {fl : Flags} (h : s.memoryOk) : (s.orFlagsOf q fl).memoryOk := by
  unfold State.orFlagsOf
  refine State.memoryOk.ite h ?_
  split
  · exact h.keepFlags
  · split
    · exact h
    · exact h.modCtx

theorem outcomeOk_execVadd {s : State} {v a b : Reg} {ext la : BitVec 4} (h : s.memoryOk) : outcomeOk (execVadd v a b ext la s) :=
  outcomeOk_run keeps_vIssue h

theorem outcomeOk_execVsub {s : State} {v a b : Reg} {ext la : BitVec 4} (h : s.memoryOk) : outcomeOk (execVsub v a b ext la s) :=
  outcomeOk_run keeps_vIssue h

theorem outcomeOk_execVmul {s : State} {v a b : Reg} {ext la : BitVec 4} (h : s.memoryOk) : outcomeOk (execVmul v a b ext la s) :=
  outcomeOk_run keeps_vIssue h

theorem outcomeOk_execVfma {s : State} {v a b : Reg} {ext la : BitVec 4} (h : s.memoryOk) : outcomeOk (execVfma v a b ext la s) :=
  outcomeOk_run keeps_vIssue h

theorem outcomeOk_execVfms {s : State} {v a b : Reg} {ext la : BitVec 4} (h : s.memoryOk) : outcomeOk (execVfms v a b ext la s) :=
  outcomeOk_run keeps_vIssue h

theorem outcomeOk_execVdiv {s : State} {v a b : Reg} {ext la : BitVec 4} (h : s.memoryOk) : outcomeOk (execVdiv v a b ext la s) :=
  outcomeOk_run keeps_vIssue h

theorem outcomeOk_execVsqrt {s : State} {v a : Reg} {ext la : BitVec 4} (h : s.memoryOk) : outcomeOk (execVsqrt v a ext la s) :=
  outcomeOk_run keeps_vIssue h

theorem outcomeOk_execVmin {s : State} {v a b : Reg} {ext la : BitVec 4} (h : s.memoryOk) : outcomeOk (execVmin v a b ext la s) :=
  outcomeOk_run keeps_vIssue h

theorem outcomeOk_execVmax {s : State} {v a b : Reg} {ext la : BitVec 4} (h : s.memoryOk) : outcomeOk (execVmax v a b ext la s) :=
  outcomeOk_run keeps_vIssue h

theorem outcomeOk_execVabs {s : State} {v a : Reg} {ext la : BitVec 4} (h : s.memoryOk) : outcomeOk (execVabs v a ext la s) :=
  outcomeOk_run keeps_vIssue h

theorem outcomeOk_execVneg {s : State} {v a : Reg} {ext la : BitVec 4} (h : s.memoryOk) : outcomeOk (execVneg v a ext la s) :=
  outcomeOk_run keeps_vIssue h

theorem outcomeOk_execVcmp {s : State} {cc : BitVec 2} {m : BitVec 3} {a b : Reg} {ext la : BitVec 4} (h : s.memoryOk) : outcomeOk
    (execVcmp cc m a b ext la s) :=
  outcomeOk_run keeps_vIssue h

theorem outcomeOk_execVand {s : State} {v a b : Reg} {ext la : BitVec 4} (h : s.memoryOk) : outcomeOk (execVand v a b ext la s) :=
  outcomeOk_run keeps_vIssue h

theorem outcomeOk_execVor {s : State} {v a b : Reg} {ext la : BitVec 4} (h : s.memoryOk) : outcomeOk (execVor v a b ext la s) :=
  outcomeOk_run keeps_vIssue h

theorem outcomeOk_execVxor {s : State} {v a b : Reg} {ext la : BitVec 4} (h : s.memoryOk) : outcomeOk (execVxor v a b ext la s) :=
  outcomeOk_run keeps_vIssue h

theorem outcomeOk_execVshl {s : State} {v a b : Reg} {ext la : BitVec 4} (h : s.memoryOk) : outcomeOk (execVshl v a b ext la s) :=
  outcomeOk_run keeps_vIssue h

theorem outcomeOk_execVshr {s : State} {v a b : Reg} {ext la : BitVec 4} (h : s.memoryOk) : outcomeOk (execVshr v a b ext la s) :=
  outcomeOk_run keeps_vIssue h

theorem outcomeOk_execVsra {s : State} {v a b : Reg} {ext la : BitVec 4} (h : s.memoryOk) : outcomeOk (execVsra v a b ext la s) :=
  outcomeOk_run keeps_vIssue h

theorem outcomeOk_execVmov {s : State} {v a : Reg} {ext la : BitVec 4} (h : s.memoryOk) : outcomeOk (execVmov v a ext la s) :=
  outcomeOk_run keeps_vIssue h

theorem outcomeOk_execVbcast {s : State} {v a : Reg} {ext la : BitVec 4} (h : s.memoryOk) : outcomeOk (execVbcast v a ext la s) :=
  outcomeOk_run keeps_vIssue h

theorem outcomeOk_execVsel {s : State} {v a b : Reg} {ext la : BitVec 4} (h : s.memoryOk) : outcomeOk (execVsel v a b ext la s) :=
  outcomeOk_run keeps_vIssue h

theorem outcomeOk_execVperm {s : State} {v a b : Reg} {ext la : BitVec 4} (h : s.memoryOk) : outcomeOk (execVperm v a b ext la s) :=
  outcomeOk_run keeps_vIssue h

theorem outcomeOk_execVswz {s : State} {v a : Reg} {p : BitVec 5} {ext la : BitVec 4} (h : s.memoryOk) : outcomeOk
    (execVswz v a p ext la s) :=
  outcomeOk_run keeps_vIssue h

theorem outcomeOk_execVext {s : State} {d a b : Reg} {la : BitVec 4} (h : s.memoryOk) : outcomeOk (execVext d a b la s) :=
  outcomeOk_run keeps_vIssue h

theorem outcomeOk_execVextMask {s : State} {d : Reg} {m : BitVec 3} {la : BitVec 4} (h : s.memoryOk) : outcomeOk (execVextMask d m la s) :=
  outcomeOk_run keeps_vIssue h

theorem outcomeOk_execVins {s : State} {v a b : Reg} {la : BitVec 4} (h : s.memoryOk) : outcomeOk (execVins v a b la s) :=
  outcomeOk_run keeps_vIssue h

theorem outcomeOk_execVinsMask {s : State} {m : BitVec 3} {a : Reg} {la : BitVec 4} (h : s.memoryOk) : outcomeOk (execVinsMask m a la s) :=
  outcomeOk_run keeps_vIssue h

theorem outcomeOk_execVld {s : State} {v a b : Reg} {ext la : BitVec 4} (h : s.memoryOk) : outcomeOk (execVld v a b ext la s) :=
  outcomeOk_run keeps_vIssue h

theorem outcomeOk_execVst {s : State} {v a b : Reg} {ext : BitVec 4} (h : s.memoryOk) : outcomeOk (execVst v a b ext s) :=
  outcomeOk_run keeps_vIssue h

theorem outcomeOk_execVldtm {s : State} {v a b : Reg} {ext la : BitVec 4} (h : s.memoryOk) : outcomeOk (execVldtm v a b ext la s) :=
  outcomeOk_run keeps_vIssue h

theorem outcomeOk_execVsttm {s : State} {v a b : Reg} {ext : BitVec 4} (h : s.memoryOk) : outcomeOk (execVsttm v a b ext s) :=
  outcomeOk_run keeps_vIssue h

theorem outcomeOk_execVgath {s : State} {v a b : Reg} {ext la : BitVec 4} (h : s.memoryOk) : outcomeOk (execVgath v a b ext la s) :=
  outcomeOk_run keeps_vIssue h

theorem outcomeOk_execVscat {s : State} {v a b : Reg} {ext : BitVec 4} (h : s.memoryOk) : outcomeOk (execVscat v a b ext s) :=
  outcomeOk_run keeps_vIssue h

theorem outcomeOk_execVcvt {s : State} {v a : Reg} {ext la : BitVec 4} (h : s.memoryOk) : outcomeOk (execVcvt v a ext la s) :=
  outcomeOk_run keeps_vIssue h

theorem outcomeOk_execVpack {s : State} {v a : Reg} {ext la : BitVec 4} (h : s.memoryOk) : outcomeOk (execVpack v a ext la s) :=
  outcomeOk_run keeps_vIssue h

theorem outcomeOk_execVunpk {s : State} {v a : Reg} {ext la : BitVec 4} (h : s.memoryOk) : outcomeOk (execVunpk v a ext la s) :=
  outcomeOk_run keeps_vIssue h

theorem outcomeOk_execVqnt {s : State} {v a b : Reg} {ext la : BitVec 4} (h : s.memoryOk) : outcomeOk (execVqnt v a b ext la s) :=
  outcomeOk_run keeps_vIssue h

theorem outcomeOk_execVred {s : State} {v a : Reg} {p : BitVec 5} {ext la : BitVec 4} (h : s.memoryOk) : outcomeOk
    (execVred v a p ext la s) :=
  outcomeOk_run keeps_vIssue h

theorem outcomeOk_execVdot {s : State} {v a b : Reg} {ext la : BitVec 4} (h : s.memoryOk) : outcomeOk (execVdot v a b ext la s) :=
  outcomeOk_run keeps_vIssue h

theorem outcomeOk_execVrng {s : State} {v : Reg} {ext la : BitVec 4} (h : s.memoryOk) : outcomeOk (execVrng v ext la s) :=
  outcomeOk_run keeps_vIssue h

theorem outcomeOk_execVcls {s : State} {m : BitVec 3} {a : Reg} {cset : BitVec 5} {ext la : BitVec 4} (h : s.memoryOk) : outcomeOk
    (execVcls m a cset ext la s) :=
  outcomeOk_run keeps_vIssue h

theorem outcomeOk_execVtbl {s : State} {v a b : Reg} {ext la : BitVec 4} (h : s.memoryOk) : outcomeOk (execVtbl v a b ext la s) :=
  outcomeOk_run keeps_vIssue h

theorem outcomeOk_execVbfly {s : State} {v a b : Reg} {ext la : BitVec 4} (h : s.memoryOk) : outcomeOk (execVbfly v a b ext la s) :=
  outcomeOk_run keeps_vIssue h

theorem outcomeOk_execVcnt {s : State} {v a : Reg} {p : BitVec 5} {ext la : BitVec 4} (h : s.memoryOk) : outcomeOk
    (execVcnt v a p ext la s) :=
  outcomeOk_run keeps_vIssue h

theorem outcomeOk_execVscan {s : State} {v a : Reg} {p : BitVec 5} {ext la : BitVec 4} (h : s.memoryOk) : outcomeOk
    (execVscan v a p ext la s) :=
  outcomeOk_run keeps_vIssue h

theorem outcomeOk_execFmt {s : State} {f g : BitVec 5} {r : BitVec 3} {t : BitVec 1} {m : BitVec 3} {k : BitVec 2} (h : s.memoryOk)
    : outcomeOk (execFmt f g r t m k s) :=
  outcomeOk_run (keeps_bind keeps_noPrefix fun _ => keeps_modify fun _ hs => hs.modMe) h

end Sys2Proof.Machine
end

section
set_option Elab.async false
/-! PROOFS. Memory keeps its form: the matrix unit. -/

namespace Sys2Proof.Machine

theorem keeps_keepOnTrap {α : Type} {m : M α} (hm : keeps m) : keeps (keepOnTrap m) := by
  unfold keepOnTrap
  intro s hs
  beta_reduce
  split
  next t heq => exact (keeps_error hm hs heq).unpop
  · exact keeps_run hm hs

theorem keeps_readChecked {sa sb : Option Reg} {chk : Check} : keeps (readChecked sa sb chk) := by
  unfold readChecked
  refine keeps_keepOnTrap ?_
  refine keeps_bind keeps_readOpt fun a => ?_
  refine keeps_bind keeps_readOpt fun b => ?_
  refine keeps_get fun s hs => ?_
  split
  · exact keeps_trap
  · exact keeps_pure

theorem keeps_cIssue {i : Instr} {sa sb : Option Reg} {chk : Check} {deferred : Bool} : keeps (cIssue i sa sb chk deferred) := by
  unfold cIssue
  exact keeps_bind keeps_noPrefix fun _ => keeps_bind keeps_gate fun _ => keeps_bind keeps_readChecked fun _ => keeps_get fun _ hs =>
      keeps_ite (keeps_bind keeps_defer fun _ => keeps_next) (keeps_bind keeps_pushCop fun _ => keeps_next)

theorem keeps_takeSeq {i : Instr} : keeps (takeSeq i) := by
  unfold takeSeq
  intro s hs
  beta_reduce
  split
  · exact hs
  · exact hs.modCore.countPush

theorem keeps_countMine {i : Instr} : keeps (countMine i) := by
  unfold countMine
  exact keeps_goOn fun _ hs => hs.countOn

theorem keeps_copGate : keeps copGate := by
  unfold copGate
  exact keeps_waitUntil

theorem State.memoryOk.ringHead {s : State} {t k n : Nat} (h : s.memoryOk) : (s.ringHead t k n).memoryOk :=
  h

theorem State.memoryOk.ringTail {s : State} {t k n : Nat} (h : s.memoryOk) : (s.ringTail t k n).memoryOk :=
  h

theorem State.memoryOk.mmBlock {s : State} {t row0 col0 : Nat} {p : Pfx} {tc : Bool} {scale : Option Word}
    {arows brows : List (List Nat)} (h : s.memoryOk) : (s.mmBlock t row0 col0 p tc scale arows brows).1.memoryOk := by
  unfold State.mmBlock
  extract_lets one cells
  exact foldl_keeps (fun r : State × List (Nat × Flags) => r.1.memoryOk) cells (f := one) (b := (s, []))
      (fun _ _ hr => State.memoryOk.setAcc hr) h

theorem keeps_mmIssue {i : Instr} {a b : Reg} {scaled tag : Bool} : keeps (mmIssue i a b scaled tag) := by
  unfold mmIssue
  exact keeps_bind keeps_takePfx fun _ => keeps_bind keeps_gate fun _ => keeps_bind keeps_readChecked fun _ => keeps_ite (keeps_bind
      keeps_readG fun _ => keeps_bind keeps_pushCop fun _ => keeps_next) (keeps_bind keeps_pure fun _ => keeps_bind keeps_pushCop fun _ =>
      keeps_next)

theorem outcomeOk_execMm {s : State} {a b : Reg} (h : s.memoryOk) : outcomeOk (execMm a b s) :=
  outcomeOk_run keeps_mmIssue h

theorem outcomeOk_execMms {s : State} {a b : Reg} (h : s.memoryOk) : outcomeOk (execMms a b s) :=
  outcomeOk_run keeps_mmIssue h

theorem outcomeOk_execMmp {s : State} {a b : Reg} (h : s.memoryOk) : outcomeOk (execMmp a b s) :=
  outcomeOk_run keeps_mmIssue h

theorem outcomeOk_execMzero {s : State} {a : Reg} (h : s.memoryOk) : outcomeOk (execMzero a s) :=
  outcomeOk_run keeps_cIssue h

theorem outcomeOk_execMacr {s : State} {v b : Reg} {la : BitVec 4} (h : s.memoryOk) : outcomeOk (execMacr v b la s) :=
  outcomeOk_run (keeps_bind keeps_noPrefix fun _ => keeps_bind keeps_gate fun _ => keeps_bind keeps_readChecked fun _ => keeps_bind
      keeps_pushCop fun _ => keeps_next) h

theorem outcomeOk_execMacw {s : State} {v b : Reg} (h : s.memoryOk) : outcomeOk (execMacw v b s) :=
  outcomeOk_run keeps_cIssue h

theorem outcomeOk_execMacst {s : State} {a b : Reg} (h : s.memoryOk) : outcomeOk (execMacst a b s) :=
  outcomeOk_run keeps_cIssue h

theorem outcomeOk_execMcmdCheck {s : State} {a : Reg} (h : s.memoryOk) : outcomeOk (execMcmdCheck a s) :=
  outcomeOk_run keeps_cIssue h

theorem outcomeOk_execMcmdZall {s : State} {a : Reg} (h : s.memoryOk) : outcomeOk (execMcmdZall a s) :=
  outcomeOk_run keeps_cIssue h

theorem outcomeOk_execMcmdPcancel {s : State} {a : Reg} (h : s.memoryOk) : outcomeOk (execMcmdPcancel a s) :=
  outcomeOk_run keeps_cIssue h

theorem outcomeOk_execMringPop {s : State} {a b : Reg} (h : s.memoryOk) : outcomeOk (execMringPop a b s) :=
  outcomeOk_run keeps_cIssue h

theorem outcomeOk_execMringPush {s : State} {a b : Reg} (h : s.memoryOk) : outcomeOk (execMringPush a b s) :=
  outcomeOk_run keeps_cIssue h

theorem outcomeOk_execMringReset {s : State} {a b : Reg} (h : s.memoryOk) : outcomeOk (execMringReset a b s) :=
  outcomeOk_run keeps_cIssue h

theorem outcomeOk_execMwait {s : State} (h : s.memoryOk) : outcomeOk (execMwait s) :=
  outcomeOk_run (keeps_bind keeps_noPrefix fun _ => keeps_bind keeps_drain fun _ => keeps_bind keeps_takeSeq fun _ => keeps_bind
      keeps_countMine fun _ => keeps_next) h

theorem State.memoryOk.startMm {s : State} {t : Nat} {q : QEntry} {tc : Bool} (h : s.memoryOk) : (s.startMm t q tc).memoryOk := by
  unfold State.startMm
  split
  · split
    · split
      · dsimp only
        split
        · exact trivial
        · split
          · exact trivial
          · split
            · exact h
            · split
              · exact h.modTile
              · split
                · exact trivial
                · split
                  · exact h
                  · exact h.modTile.modTile
      · dsimp only
        split
        · exact trivial
        · split
          · exact trivial
          · split
            · exact h
            · split
              · exact h.modTile
              · split
                · exact trivial
                · split
                  · exact h
                  · exact h.modTile.modTile
    · split
      · dsimp only
        split
        · exact trivial
        · split
          · exact trivial
          · split
            · exact h
            · split
              · exact h.modTile
              · split
                · exact trivial
                · split
                  · exact h
                  · exact h.modTile.modTile
      · dsimp only
        split
        · exact trivial
        · split
          · exact trivial
          · split
            · exact h
            · split
              · exact h.modTile
              · split
                · exact trivial
                · split
                  · exact h
                  · exact h.modTile.modTile

theorem State.memoryOk.zeroAcc {s : State} {t row0 rows col0 cols : Nat} (h : s.memoryOk) : (s.zeroAcc t row0 rows col0 cols).memoryOk :=
  h

theorem State.memoryOk.macr {s : State} {t : Nat} {q : QEntry} {v : Reg} (h : s.memoryOk) : (s.macr t q v).memoryOk :=
  (h.deliverWrites.foldl fun _ _ ht => ht.zeroAcc).ite h.deliverWrites

theorem State.memoryOk.macw {s : State} {t : Nat} {q : QEntry} {v : Reg} (h : s.memoryOk) : (s.macw t q v).memoryOk :=
  h.foldl fun _ _ ht => ht.foldl fun _ _ ht' => ht'.setAcc

theorem State.memoryOk.raiseOr {s : State} {q : QEntry} {fls : List (Nat × Flags)} {ended : Option (Nat × Cause × Word)} (h : s.memoryOk) :
    (s.raiseOr q fls ended).memoryOk := by
  unfold State.raiseOr
  split
  · split
    · dsimp only
      split
      · exact h.orFlagsOf.raiseLate
      · exact h.orFlagsOf.raiseLate
      · exact h.orFlagsOf
    · dsimp only
      split
      · exact h.orFlagsOf.raiseLate
      · exact h.orFlagsOf.raiseLate
      · exact h.orFlagsOf
  · split
    · dsimp only
      split
      · exact h.orFlagsOf.raiseLate
      · exact h.orFlagsOf.raiseLate
      · exact h.orFlagsOf
    · dsimp only
      split
      · exact h.orFlagsOf.raiseLate
      · exact h.orFlagsOf.raiseLate
      · exact h.orFlagsOf

theorem State.memoryOk.raiseFirst {s : State} {q : QEntry} {fls : List (Nat × Flags)} (h : s.memoryOk) : (s.raiseFirst q fls).memoryOk :=
  h.raiseOr

theorem State.memoryOk.macst {s : State} {t : Nat} {q : QEntry} {tc : Bool} (h : s.memoryOk) : (s.macst t q tc).memoryOk := by
  unfold State.macst
  dsimp only
  split
  · exact trivial
  · split
    · exact trivial
    · split
      · split
        · exact trivial
        · exact ((State.memoryOk_setTmBytes _ _ _ _ h).zeroAcc.ite (State.memoryOk_setTmBytes _ _ _ _ h)).raiseFirst
      · split
        · exact trivial
        · exact ((State.memoryOk_setTmBytes _ _ _ _ h).zeroAcc.ite (State.memoryOk_setTmBytes _ _ _ _ h)).raiseFirst

theorem State.memoryOk.mring {s : State} {t : Nat} {q : QEntry} (h : s.memoryOk) : (s.mring t q).memoryOk := by
  unfold State.mring
  dsimp only
  split
  · split
    · exact h
    · exact h.modTile
  · split
    · exact trivial
    · split
      · split
        · exact h
        · exact h.ringHead
      · split
        · exact trivial
        · split
          · exact h
          · exact h.ringTail

theorem State.memoryOk.abortMmp {s : State} {t : Nat} {r : MRun} (h : s.memoryOk) : (s.abortMmp t r).memoryOk :=
  h.modTile.modTile.countDone.raiseLate

theorem State.memoryOk.abortHalf {s : State} {t : Nat} {h : PairHalf} (hs : s.memoryOk) : (s.abortHalf t h).memoryOk := by
  unfold State.abortHalf
  split
  · exact hs.abortMmp
  · exact hs.modTile

theorem State.memoryOk.abortPartner {s : State} {t partner : Nat} (h : s.memoryOk) : (s.abortPartner t partner).memoryOk := by
  unfold State.abortPartner
  split
  · exact h
  · exact h.abortHalf.ite h

theorem State.memoryOk.abortPair {s : State} {t : Nat} {r : MRun} (h : s.memoryOk) : (s.abortPair t r).memoryOk :=
  h.abortPartner.abortMmp

theorem State.memoryOk.cancelPairs {s : State} {t cid : Nat} (h : s.memoryOk) : (s.cancelPairs t cid).memoryOk :=
  h.foldl fun _ _ ht => ht.abortPair

theorem State.memoryOk.mcmd {s : State} {t : Nat} {q : QEntry} (h : s.memoryOk) : (s.mcmd t q).memoryOk := by
  unfold State.mcmd
  split
  · split
    · exact h.zeroAcc
    · exact h
  · split
    · exact h.cancelPairs
    · exact h

theorem State.memoryOk.matrixRetire {s : State} {t : Nat} (h : s.memoryOk) : (s.matrixRetire t).memoryOk := by
  unfold State.matrixRetire
  split
  · exact h
  next r rest _ =>
    extract_lets p b
    split
    · exact h
    · split
      next u fl heq =>
        have hu : u.memoryOk := State.memoryOk.subst (f := Prod.fst) h.mmBlock heq
        exact (State.memoryOk.foldl hu.modTile fun _ _ hv => hv.ringHead).countDone.raiseFirst

theorem outcomeOk_execMatrixCommandRetire {s : State} {tile : Nat} (h : s.memoryOk) : outcomeOk (execMatrixCommandRetire tile s) :=
  h.matrixRetire

theorem State.memoryOk.pairCommit {s : State} {t : Nat} (h : s.memoryOk) : (s.pairCommit t).memoryOk := by
  unfold State.pairCommit
  split
  · exact h
  · dsimp only
    split
    · exact h.ite (h.abortMmp.abortMmp.ite h.modTile.modTile)
    · exact h

theorem outcomeOk_execMmpPairCommit {s : State} {tile : Nat} (h : s.memoryOk) : outcomeOk (execMmpPairCommit tile s) :=
  h.pairCommit

theorem State.memoryOk.pairTimeout {s : State} {t : Nat} (h : s.memoryOk) : (s.pairTimeout t).memoryOk := by
  unfold State.pairTimeout
  split
  · exact h
  · exact h.ite h.abortHalf

theorem outcomeOk_execMmpPairTimeout {s : State} {tile : Nat} (h : s.memoryOk) : outcomeOk (execMmpPairTimeout tile s) :=
  h.pairTimeout

end Sys2Proof.Machine
end

section
set_option Elab.async false
/-! PROOFS. Memory keeps its form: the places of engine work, and wax. -/

namespace Sys2Proof.Machine

theorem State.memoryOk.asked {s t : State} (h : s.memoryOk) : (s.asked t).memoryOk :=
  (h.foldl fun _ _ ht => ht.setMemWord).congr

theorem State.memoryOk.withSr {s : State} {q : QEntry} (h : s.memoryOk) : (s.withSr q).memoryOk :=
  h

theorem State.memoryOk.unSr {s : State} {q : QEntry} {x : Ctx} (h : s.memoryOk) : (s.unSr q x).memoryOk :=
  h

theorem State.memoryOk.place {s : State} {q : QEntry} {sc : Nat} {p : Word} {d : Int} {n size : Nat} {k : AKind} (h : s.memoryOk) :
    (s.place q sc p d n size k).memoryOk := by
  unfold State.place
  split
  · split
    · dsimp only
      split
      · exact h
      · split
        · exact h
        · split
          · exact h
          · split
            · exact h
            · exact h
    · dsimp only
      split
      · exact h
      · split
        · exact h
        · split
          · exact h
          · split
            · exact h
            · exact h
  · split
    · dsimp only
      split
      · exact h
      · split
        next t heq =>
          have ht : t.memoryOk := h.withSr.translate.of_eq heq
          refine State.memoryOk.congr ?_
          exact ht.unSr
        next t heq =>
          have ht : t.memoryOk := h.withSr.translate.of_eq heq
          refine State.memoryOk.congr ?_
          exact ht.unSr
        next t heq =>
          have ht : t.memoryOk := h.withSr.translate.of_eq heq
          refine State.memoryOk.congr ?_
          exact ht.unSr
        next t heq =>
          have ht : t.memoryOk := h.withSr.translate.of_eq heq
          split
          · refine State.memoryOk.congr ?_
            exact ht.unSr
          · split
            · refine State.memoryOk.congr ?_
              exact ht.unSr
            · split
              · refine State.memoryOk.congr ?_
                exact ht.unSr
              · refine State.memoryOk.congr ?_
                exact ht.unSr
    · dsimp only
      split
      · exact h
      · split
        next t heq =>
          have ht : t.memoryOk := h.withSr.translate.of_eq heq
          refine State.memoryOk.congr ?_
          exact ht.unSr
        next t heq =>
          have ht : t.memoryOk := h.withSr.translate.of_eq heq
          refine State.memoryOk.congr ?_
          exact ht.unSr
        next t heq =>
          have ht : t.memoryOk := h.withSr.translate.of_eq heq
          refine State.memoryOk.congr ?_
          exact ht.unSr
        next t heq =>
          have ht : t.memoryOk := h.withSr.translate.of_eq heq
          split
          · refine State.memoryOk.congr ?_
            exact ht.unSr
          · split
            · refine State.memoryOk.congr ?_
              exact ht.unSr
            · split
              · refine State.memoryOk.congr ?_
                exact ht.unSr
              · refine State.memoryOk.congr ?_
                exact ht.unSr

theorem State.memoryOk.engineRead {s : State} {q : QEntry} {l : Leaf} {n : Nat} (h : s.memoryOk) : (s.engineRead q l n).memoryOk := by
  unfold State.engineRead
  split
  · exact h
  · split
    · split
      · exact h
      · split
        · exact h
        · exact h
    · exact h.sendOut

theorem State.memoryOk.placeHere {s : State} {q : QEntry} {pl : Place} {n : Nat} (h : s.memoryOk) : (s.placeHere q pl n).memoryOk := by
  unfold State.placeHere
  split
  · exact h
  · exact h.engineRead

theorem State.memoryOk.fillPlace {s : State} {q : QEntry} {pl : Place} (h : s.memoryOk) : (s.fillPlace q pl).memoryOk := by
  unfold State.fillPlace
  split
  · exact h
  · exact (State.memoryOk_fillL2 _ _ h).ite h

theorem State.memoryOk.freePlace {s : State} {pl : Place} (h : s.memoryOk) : (s.freePlace pl).memoryOk := by
  unfold State.freePlace
  split
  · exact h
  · exact h.setL2

theorem State.memoryOk.countFill {s : State} {q : QEntry} {f : FillOp} {n : Nat} (h : s.memoryOk) : (s.countFill q f n).memoryOk := by
  unfold State.countFill
  split
  · exact h.ite (h.fillArrive.raiseLate.ite h.fillArrive)
  · exact h

theorem State.memoryOk.writePlace {s : State} {q : QEntry} {f : FillOp} {pl : Place} {bs : List Byte} (h : s.memoryOk) :
    (s.writePlace q f pl bs).memoryOk := by
  unfold State.writePlace
  split
  · exact State.memoryOk_setTmBytes _ _ _ _ h
  · exact (h.sendOut.ite h).ite (State.memoryOk_homeWrite _ _ _ _ (h.sendOut.ite h))

theorem State.memoryOk.landAt {s : State} {q : QEntry} {f : FillOp} {pl : Place} {bs : List Byte} (h : s.memoryOk) :
    (s.landAt q f pl bs).memoryOk :=
  h.writePlace.ite h.writePlace.countFill

theorem keeps_waxUnbound {n : Nat} : keeps (waxUnbound n) := by
  unfold waxUnbound
  refine keeps_get fun s hs => ?_
  refine keeps_bind keeps_trapIf fun x => ?_
  refine keeps_bind keeps_closeAll fun x' => ?_
  exact keeps_stop fun _ hs => hs.modMe

theorem outcomeOk_execWax {s : State} {v a b : Reg} {ext : BitVec 4} {n : BitVec 3} {la : BitVec 4} (h : s.memoryOk) : outcomeOk
    (execWax v a b ext n la s) :=
  outcomeOk_run (keeps_bind keeps_takePfx fun _ => keeps_bind keeps_trapIf fun _ => keeps_get fun _ hs => keeps_ite (keeps_bind
      keeps_waxUnbound fun _ => keeps_bind keeps_trapIf fun _ => keeps_bind keeps_pushCop fun _ => keeps_next) (keeps_bind keeps_trapIf
      fun _ => keeps_bind keeps_pushCop fun _ => keeps_next)) h

theorem outcomeOk_execWxld {s : State} {a b : Reg} (h : s.memoryOk) : outcomeOk (execWxld a b s) :=
  outcomeOk_run (keeps_bind keeps_noPrefix fun _ => keeps_bind keeps_gate fun _ => keeps_bind keeps_readChecked fun _ => keeps_get
      fun _ hs => keeps_bind keeps_pushCop fun _ => keeps_bind (keeps_modify fun _ hs' => hs'.modMe) fun _ => keeps_next) h

theorem outcomeOk_execWxrel {s : State} {a : Reg} (h : s.memoryOk) : outcomeOk (execWxrel a s) :=
  outcomeOk_run (keeps_bind keeps_noPrefix fun _ => keeps_bind keeps_gate fun _ => keeps_bind keeps_readChecked fun _ => keeps_get
      fun _ hs => keeps_bind keeps_pushCop fun _ => keeps_bind (keeps_modify fun _ hs' => hs'.modMe) fun _ => keeps_next) h

theorem outcomeOk_execWxdet {s : State} {a : Reg} (h : s.memoryOk) : outcomeOk (execWxdet a s) :=
  outcomeOk_run keeps_cIssue h

theorem outcomeOk_execWxstm {s : State} {a b : Reg} (h : s.memoryOk) : outcomeOk (execWxstm a b s) :=
  outcomeOk_run (keeps_bind keeps_noPrefix fun _ => keeps_bind keeps_gate fun _ => keeps_bind keeps_readChecked fun _ => keeps_get
      fun _ hs => keeps_bind keeps_pushCop fun _ => keeps_next) h

theorem outcomeOk_execWxqry {s : State} {d b : Reg} {la : BitVec 4} (h : s.memoryOk) : outcomeOk (execWxqry d b la s) :=
  outcomeOk_run (keeps_bind keeps_noPrefix fun _ => keeps_bind keeps_gate fun _ => keeps_bind keeps_readChecked fun _ => keeps_get
      fun _ hs => keeps_bind keeps_pushCop fun _ => keeps_next) h

theorem State.memoryOk.settleLoad {s : State} {c key id : Nat} (h : s.memoryOk) : (s.settleLoad c key id).memoryOk :=
  (h.foldl fun _ _ ht => ht.modCtx).modCore.modTile

theorem State.memoryOk.imageBytes {q : QEntry} {p : Word} {n i : Nat} {bs : List Byte} {s : State} (h : s.memoryOk) :
    (s.imageBytes q p n i bs).memoryOk := by
  induction n generalizing s i bs with
  | zero => exact h
  | succ n ih =>
    unfold State.imageBytes
    split
    next heq => exact h.place.of_eq heq
    next heq => exact h.place.of_eq heq
    next t heq =>
      have ht : t.memoryOk := h.place.of_eq heq
      split
      · exact ht
      · split
        next heq => exact ht.placeHere.of_eq heq
        next heq => exact ht.placeHere.of_eq heq
        next u heq =>
          have hu : u.memoryOk := ht.placeHere.of_eq heq
          exact ih hu.fillPlace

theorem State.memoryOk.readImage {s : State} {q : QEntry} {p : Word} (h : s.memoryOk) : (s.readImage q p).memoryOk := by
  unfold State.readImage
  split
  · exact h
  · split
    next t heq =>
      have ht : t.memoryOk := h.imageBytes.of_eq heq
      dsimp only
      split
      · exact ht
      · split
        next u heq =>
          have hu : u.memoryOk := ht.imageBytes.of_eq heq
          split
          · exact hu
          · split
            · exact hu
            · exact hu
        · exact ht.imageBytes
    · exact h.imageBytes

/-- A wax load that ends or waits, with memory in its form in the state that it leaves. -/
def loadOk : Except State State → Prop
  | .ok s | .error s => s.memoryOk

theorem loadOk_ite {c : Prop} [Decidable c] {x y : Except State State} (hx : loadOk x) (hy : loadOk y) : loadOk (if c then x else y) := by
  split
  · exact hx
  · exact hy

theorem State.memoryOk.waxLoad {s : State} {t : Nat} {q : QEntry} (h : s.memoryOk) : loadOk (s.waxLoad t q) := by
  unfold State.waxLoad
  split
  · exact h
  · extract_lets slot key fail
    refine loadOk_ite h (loadOk_ite h.settleLoad.raiseLate ?_)
    split
    next u heq => exact State.memoryOk.asked h
    next heq => exact (h.readImage.of_eq heq : State.memoryOk _).settleLoad.raiseLate
    next heq => exact (h.readImage.of_eq heq : State.memoryOk _).settleLoad.raiseLate
    next heq => exact (h.readImage.of_eq heq : State.memoryOk _).modTile.settleLoad

theorem State.memoryOk.detach {s : State} {t c n : Nat} (h : s.memoryOk) : (s.detach t c n).memoryOk :=
  h

theorem State.memoryOk.waxRelease {s : State} {t : Nat} {q : QEntry} (h : s.memoryOk) : (s.waxRelease t q).memoryOk := by
  unfold State.waxRelease
  split
  · exact h
  · exact h.ite h.detach.modTile

theorem Started.memoryOk.ite {c : Prop} [Decidable c] {x y : Started} (hx : x.memoryOk) (hy : y.memoryOk) :
    (if c then x else y).memoryOk := by
  split
  · exact hx
  · exact hy

theorem State.memoryOk.startStream {s : State} {t : Nat} {q : QEntry} (h : s.memoryOk) : (s.startStream t q).memoryOk := by
  unfold State.startStream
  extract_lets
  refine Started.memoryOk.ite trivial (Started.memoryOk.ite h ?_)
  split
  · trivial
  · refine Started.memoryOk.ite trivial (Started.memoryOk.ite h ?_)
    split
    · exact State.memoryOk.asked h
    · trivial
    next u heq =>
      have hu : u.memoryOk := h.place.of_eq heq
      exact Started.memoryOk.ite trivial (Started.memoryOk.ite trivial (Started.memoryOk.ite trivial
        (Started.memoryOk.ite hu (Started.memoryOk.ite hu hu.modTile))))

/-- What the places of some elements come to, with memory in its form in the state that the search leaves. -/
def exceptOk {α β : Type} : Except (α × State) (β × State) → Prop
  | .ok p => p.2.memoryOk
  | .error p => p.2.memoryOk

theorem exceptOk_ok {α β : Type} {x : Except (α × State) (β × State)} {p : β × State} (h : exceptOk x) (e : x = .ok p) : p.2.memoryOk :=
  (e ▸ h : exceptOk (.ok p : Except (α × State) (β × State)))

theorem exceptOk_error {α β : Type} {x : Except (α × State) (β × State)} {p : α × State} (h : exceptOk x)
    (e : x = .error p) : p.2.memoryOk :=
  (e ▸ h : exceptOk (.error p : Except (α × State) (β × State)))

theorem State.memoryOk.places {q : QEntry} {p : Word} {k : AKind} {n d : Nat} {s : State} (h : s.memoryOk) :
    exceptOk (s.places q p d k n) := by
  induction n generalizing s d with
  | zero => exact h
  | succ n ih =>
    unfold State.places
    split
    next heq => exact (h.place.of_eq heq : State.memoryOk _)
    next heq => exact (h.place.of_eq heq : State.memoryOk _)
    next t heq =>
      have ht : t.memoryOk := h.place.of_eq heq
      split
      next heq => exact exceptOk_error (ih ht) heq
      next heq => exact (exceptOk_ok (ih ht) heq :)

theorem State.memoryOk.elemPlaces {s : State} {q : QEntry} {x : Port} {p : Word} {f : Fmt} {i : Nat} {k : AKind} (h : s.memoryOk) :
    exceptOk (s.elemPlaces q x p f i k) := by
  unfold State.elemPlaces
  split
  · split
    next heq => exact (exceptOk_error h.places heq :)
    next heq => exact (exceptOk_ok h.places heq :)
  · extract_lets n
    split
    next heq => exact (h.place.of_eq heq : State.memoryOk _)
    next heq => exact (h.place.of_eq heq : State.memoryOk _)
    next heq => exact (h.place.of_eq heq : State.memoryOk _)

theorem State.memoryOk.cleanPlace {s : State} {t : Nat} {pl : Place} {drop : Bool} (h : s.memoryOk) :
    (s.cleanPlace t pl drop).memoryOk := by
  unfold State.cleanPlace
  split
  · exact h
  · exact (State.memoryOk_cleanLine _ _ h).modTile.ite (State.memoryOk_cleanLine _ _ h)

theorem State.memoryOk.placesHere {q : QEntry} {ps : List (Place × Nat)} {s : State} (h : s.memoryOk) :
    (s.placesHere q ps).memoryOk := by
  induction ps generalizing s with
  | nil => exact h
  | cons p ps ih =>
    unfold State.placesHere
    split
    next heq => exact ih (h.placeHere.of_eq heq)
    · exact h.placeHere

theorem State.memoryOk.readElem {s : State} {t : Nat} {q : QEntry} {x : Port} {p : Word} {f : Fmt} {i : Nat} (h : s.memoryOk) :
    exceptOk (s.readElem t q x p f i) := by
  unfold State.readElem
  split
  next heq => exact exceptOk_error h.elemPlaces heq
  next ps u heq =>
    have hu : u.memoryOk := exceptOk_ok h.elemPlaces heq
    extract_lets v
    have hc : v.memoryOk := hu.foldl fun _ _ hv => hv.cleanPlace
    split
    · split
      next heq => exact (State.memoryOk.foldl (hc.placesHere.of_eq heq : State.memoryOk _) fun _ _ hv => hv.fillPlace : State.memoryOk _)
      next heq => exact State.memoryOk.asked hc
      next heq => exact (hc.placesHere.of_eq heq : State.memoryOk _)
    · exact hc

theorem SMove.memoryOk.ite {c : Prop} [Decidable c] {x y : SMove} (hx : x.memoryOk) (hy : y.memoryOk) : (if c then x else y).memoryOk := by
  split
  · exact hx
  · exact hy

theorem State.memoryOk.readPort {s : State} {t : Nat} {m : Stream} {p : Nat} {x : Port} (h : s.memoryOk) :
    (s.readPort t m p x).memoryOk := by
  unfold State.readPort
  extract_lets
  refine SMove.memoryOk.ite trivial (SMove.memoryOk.ite h (SMove.memoryOk.ite (SMove.memoryOk.ite h (SMove.memoryOk.ite h h.ringHead)) ?_))
  split
  next heq => exact exceptOk_error h.readElem heq
  next heq => exact exceptOk_error h.readElem heq
  next u heq =>
    have hu : u.memoryOk := exceptOk_ok h.readElem heq
    refine SMove.memoryOk.ite ?_ hu
    split
    next heq => exact exceptOk_error hu.readElem heq
    next heq => exact exceptOk_error hu.readElem heq
    next heq => exact exceptOk_ok hu.readElem heq

theorem State.memoryOk.writePlaces {q : QEntry} {f : FillOp} {ps : List (Place × Nat)} {bs : List Byte} {s : State} (h : s.memoryOk) :
    (s.writePlaces q f ps bs).memoryOk := by
  induction ps generalizing s bs with
  | nil => exact h
  | cons p ps ih => exact ih h.writePlace

theorem State.memoryOk.pushBytes {s u : State} {t : Nat} {q : QEntry} {x : Port} {b : Nat} {bs : List Byte} (h : s.memoryOk)
    (e : s.pushBytes t q x b bs = some u) : u.memoryOk := by
  unfold State.pushBytes at e
  extract_lets r tb last at e
  split at e
  · cases e
  · cases e
    exact (h.foldl fun _ _ hv => State.memoryOk_setTmByte _ _ _ _ hv).foldl fun _ _ hv => hv.ringTail.countFill

theorem State.memoryOk.landPort {s : State} {t : Nat} {m : Stream} {p : Nat} {x : Port} {out : List Nat} {done : Bool} (h : s.memoryOk) :
    (s.landPort t m p x out done).memoryOk := by
  unfold State.landPort
  extract_lets
  refine SMove.memoryOk.ite (SMove.memoryOk.ite ?_ trivial) (SMove.memoryOk.ite h (SMove.memoryOk.ite trivial
    (SMove.memoryOk.ite h.setAcc.countFill (SMove.memoryOk.ite (SMove.memoryOk.ite h ?_) ?_))))
  · split
    next heq => exact h.pushBytes heq
    · exact h
  · split
    next heq => exact h.pushBytes heq
    · exact h
  · split
    next heq => exact exceptOk_error h.elemPlaces heq
    next heq => exact exceptOk_error h.elemPlaces heq
    next ps u heq =>
      have hu : u.memoryOk := exceptOk_ok h.elemPlaces heq
      have hc : (ps.foldl (fun s pl => s.cleanPlace t pl.1 true) u).memoryOk := hu.foldl fun _ _ hv => hv.cleanPlace
      exact SMove.memoryOk.ite hc.writePlaces.countFill hc

theorem State.memoryOk.setStream {s : State} {t : Nat} {old new : Stream} (h : s.memoryOk) : (s.setStream t old new).memoryOk :=
  h

theorem firstMove_memoryOk {f : Nat × Port → SMove} (hf : ∀ p, (f p).memoryOk) (ps : List (Nat × Port)) : (firstMove f ps).memoryOk := by
  induction ps with
  | nil => trivial
  | cons p ps ih =>
    unfold firstMove
    split
    next heq => exact (hf p).of_eq heq
    next heq =>
      split
      · exact (hf p).of_eq heq
      · exact ih
    · exact ih

theorem State.memoryOk.endStream {s : State} {t : Nat} {m : Stream} {w : WOut} (h : s.memoryOk) : (s.endStream t m w).memoryOk :=
  h.modTile.countDone.raiseOr

theorem State.memoryOk.streamMove {s : State} {t : Nat} {m : Stream} {last : Bool} (h : s.memoryOk) : (s.streamMove t m last).memoryOk := by
  unfold State.streamMove
  split
  next im w _ =>
    extract_lets m' ps rd done land
    have hl : land.memoryOk := firstMove_memoryOk (fun _ => h.landPort) _
    generalize land = mv at hl ⊢
    cases mv with
    | go u m2 => exact h.ite (State.memoryOk.setStream hl)
    | wait u => exact h.ite (State.memoryOk.setStream hl)
    | idle =>
      refine State.memoryOk.ite (h.endStream.ite h.setStream) (h.ite ?_)
      split
      next heq => exact ((firstMove_memoryOk (fun _ => h.readPort) _).of_eq heq : State.memoryOk _).setStream
      next heq => exact ((firstMove_memoryOk (fun _ => h.readPort) _).of_eq heq : State.memoryOk _).setStream
      · exact h

theorem State.memoryOk.dropWax {s : State} {t : Nat} {q : QEntry} (h : s.memoryOk) : (s.dropWax t q).memoryOk :=
  h.modTile.countDone

theorem State.memoryOk.runWax {s : State} {t : Nat} {q : QEntry} (h : s.memoryOk) : (s.runWax t q).memoryOk := by
  unfold State.runWax
  split
  · exact h.waxRelease.dropWax
  · exact h.detach.dropWax
  · exact h.deliverWrites.dropWax
  · exact h

theorem State.memoryOk.waxDrain {t n : Nat} {s : State} (h : s.memoryOk) : (s.waxDrain t n).memoryOk := by
  induction n generalizing s with
  | zero => exact h
  | succ n ih =>
    unfold State.waxDrain
    split
    · exact ih h.runWax
    · exact h

theorem State.memoryOk.waxRun {s : State} {t : Nat} (h : s.memoryOk) : (s.waxRun t).memoryOk :=
  h.waxDrain

theorem State.memoryOk.waxLoaded {s : State} {t : Nat} (h : s.memoryOk) : (s.waxLoaded t).memoryOk := by
  unfold State.waxLoaded
  split
  · exact h
  next q _ =>
    have hl : loadOk (s.waxLoad t q) := h.waxLoad
    split
    next heq => exact (show State.memoryOk _ from (heq ▸ hl : loadOk (.ok _))).dropWax.waxRun
    next heq => exact (heq ▸ hl : loadOk (.error _))

theorem outcomeOk_execWaxLoadComplete {s : State} {tile : Nat} (h : s.memoryOk) : outcomeOk (execWaxLoadComplete tile s) :=
  h.waxLoaded

/-- What `State.streamStart` does with one stream that is to start. -/
def State.startOne (s : State) (t : Nat) (q : QEntry) : State :=
  match s.startStream t q with
  | .wait s => s
  | .bad c tv => ((s.dropWax t q).raiseLate q c 0 0 tv).waxRun t
  | .ok s' => (s'.modTile t fun x => { x with wq := x.wq.erase q }).waxRun t

theorem State.memoryOk.startOne {s : State} {t : Nat} {q : QEntry} (h : s.memoryOk) : (s.startOne t q).memoryOk := by
  unfold State.startOne
  split
  next heq => exact h.startStream.of_eq heq
  · exact h.dropWax.raiseLate.waxRun
  next u heq =>
    have hu : u.memoryOk := h.startStream.of_eq heq
    exact hu.modTile.waxRun

theorem State.memoryOk.streamStart {s : State} {t : Nat} (h : s.memoryOk) : (s.streamStart t).memoryOk := by
  unfold State.streamStart
  extract_lets -underBinder start u
  have hu : u.memoryOk := by
    refine State.memoryOk.foldl h fun v q hv => ?_
    split
    · exact hv.startOne
    · exact hv
  exact State.memoryOk.foldl hu fun _ _ hv => hv.streamMove

theorem outcomeOk_execStreamStart {s : State} {tile : Nat} (h : s.memoryOk) : outcomeOk (execStreamStart tile s) :=
  h.streamStart

theorem State.memoryOk.streamEnd {s : State} {t : Nat} (h : s.memoryOk) : (s.streamEnd t).memoryOk :=
  h.foldl fun _ _ ht => ht.streamMove

theorem outcomeOk_execStreamEnd {s : State} {tile : Nat} (h : s.memoryOk) : outcomeOk (execStreamEnd tile s) :=
  h.streamEnd

theorem State.memoryOk.startMatrix {s : State} {t : Nat} {q : QEntry} (h : s.memoryOk) : (s.startMatrix t q).memoryOk := by
  unfold State.startMatrix
  split
  · split
    · exact h
    · split
      · exact h.startMm
      · exact h.startMm
      · exact h.startMm
      · dsimp only
        split
        · exact h.zeroAcc
        · exact h
      · dsimp only
        split
        · exact h.macr
        · exact h
      · dsimp only
        split
        · exact h.macw
        · exact h
      · dsimp only
        split
        · exact h.macst
        · exact h
      · exact h.mcmd
      · exact h.mcmd
      · exact h.mcmd
      · exact h.mring
  · split
    · exact h
    · split
      · exact h.startMm
      · exact h.startMm
      · exact h.startMm
      · dsimp only
        split
        · exact h.zeroAcc
        · exact h
      · dsimp only
        split
        · exact h.macr
        · exact h
      · dsimp only
        split
        · exact h.macw
        · exact h
      · dsimp only
        split
        · exact h.macst
        · exact h
      · exact h.mcmd
      · exact h.mcmd
      · exact h.mcmd
      · exact h.mring

theorem State.memoryOk.matrixStart {s : State} {t : Nat} (h : s.memoryOk) : (s.matrixStart t).memoryOk := by
  unfold State.matrixStart
  split
  · exact h
  · split
    next t heq =>
      have ht : t.memoryOk := h.startMatrix.of_eq heq
      refine State.memoryOk.congr ?_
      exact ht
    next t heq =>
      have ht : t.memoryOk := h.startMatrix.of_eq heq
      split
      · refine State.memoryOk.congr ?_
        exact ht.modTile
      · refine State.memoryOk.congr ?_
        exact ht.modTile.countDone
    · refine State.memoryOk.raiseLate ?_
      beta_reduce
      split
      · exact h.modTile.countDone.abortPartner
      · exact h.modTile.countDone

theorem outcomeOk_execMatrixCommandStart {s : State} {tile : Nat} (h : s.memoryOk) : outcomeOk (execMatrixCommandStart tile s) :=
  h.matrixStart

end Sys2Proof.Machine
end

section
set_option Elab.async false
/-! PROOFS. Memory keeps its form: vector execution and replay. -/

namespace Sys2Proof.Machine

theorem State.memoryOk.freeLanes {s : State} {t : Nat} (h : s.memoryOk) : (s.freeLanes t).memoryOk :=
  h.foldl fun _ _ ht => ht.ite ht.modCore

theorem State.memoryOk.dealLanes {s : State} {t : Nat} (h : s.memoryOk) : (s.dealLanes t).memoryOk :=
  h.freeLanes.foldl fun _ _ ht => ht.ite ht.modCore

theorem State.memoryOk.takeLanes {s t : State} {k : Nat} (h : s.memoryOk) (e : s.takeLanes k = some t) : t.memoryOk := by
  obtain ⟨-, e⟩ := Option.ite_none_left_eq_some.mp e
  exact Option.some.inj e ▸ h.freeLanes.ite h.dealLanes

theorem State.memoryOk.giveBack {s : State} {k : Nat} (h : s.memoryOk) : (s.giveBack k).memoryOk :=
  h.modCore.freeLanes

theorem State.memoryOk.finishOp {s : State} {c : Nat} {q : QEntry} {r : VRes} {tval : Nat → Nat → Word} (h : s.memoryOk) :
    (s.finishOp c q r tval).memoryOk := by
  unfold State.finishOp
  dsimp only
  split
  · exact h.deliverWrites.orFlagsOf.raiseLate
  · exact h.deliverWrites.orFlagsOf

theorem State.memoryOk.failOp {s : State} {q : QEntry} {c : Cause} {m e : Nat} {tval : Word} (h : s.memoryOk) :
    (s.failOp q c m e tval).memoryOk :=
  h.deliverWrites.raiseLate

theorem keeps_tmElem {a : Word} {d : Int} {n : Nat} {wr : Bool} : keeps (tmElem a d n wr) := by
  unfold tmElem
  intro s hs
  beta_reduce
  split
  · exact hs
  · split
    · exact hs
    · split
      · dsimp only
        split
        · exact hs
        · split
          · exact hs
          · exact hs
      · split
        · dsimp only
          split
          · exact hs
          · split
            · exact hs
            · exact hs
        · dsimp only
          split
          · exact hs
          · split
            · exact hs
            · split
              · exact hs
              · exact hs

theorem keeps_loadElement {s0 : State} {who : Option Nat} {p : Word} {n : Nat} : keeps (loadElement s0 who p n) := by
  unfold loadElement
  refine keeps_bind keeps_checkBy fun x => ?_
  split
  · exact keeps_goOn fun _ hs => hs
  · exact keeps_get fun _ hs => keeps_bind keeps_loadShared fun _ => keeps_ite (keeps_get fun _ hs' => keeps_bind keeps_raiseFlags fun _ =>
        keeps_pure) keeps_pure

theorem keeps_QEntry.loadElem {q : QEntry} {s0 : State} {d : Int} {n : Nat} : keeps (q.loadElem s0 d n) := by
  unfold QEntry.loadElem
  exact keeps_ite (keeps_bind keeps_tmElem fun _ => keeps_get fun _ hs => keeps_pure) (keeps_bind keeps_trapIf fun _ => keeps_loadElement)

theorem keeps_QEntry.storeElem {q : QEntry} {d : Int} {n x : Nat} : keeps (q.storeElem d n x) := by
  unfold QEntry.storeElem
  exact keeps_ite (keeps_bind keeps_tmElem fun _ => keeps_modify fun _ hs => State.memoryOk_setTmBytes _ _ _ _ hs) (keeps_bind keeps_trapIf
      fun _ => keeps_storeMem)

theorem keeps_takeFlags : keeps takeFlags := by
  unfold takeFlags
  exact keeps_goOn fun _ hs => hs.modMe

theorem keeps_memElements {f : Nat × Nat × Nat → M Nat} (hf : ∀ x, keeps (f x)) {xs : List (Nat × Nat × Nat)}
    {acc : List (Nat × Nat × Flags)} : keeps (memElements f xs acc) := by
  induction xs generalizing acc with
  | nil => exact keeps_pure
  | cons x xs ih =>
    intro s hs
    unfold memElements
    split
    next heq => exact keeps_error (hf x) hs heq
    next heq => exact keeps_error (hf x) hs heq
    next t heq =>
      have ht : t.memoryOk := keeps_ok (hf x) hs heq
      split
      next heq => exact keeps_error keeps_takeFlags ht heq
      next heq => exact ih _ (keeps_ok keeps_takeFlags ht heq)

theorem keeps_QEntry.memRun {q : QEntry} {o : VOp} {v : Reg} {st : Bool} : keeps (q.memRun o v st) := by
  intro s hs
  unfold QEntry.memRun
  exact keeps_run (keeps_memElements fun _ => keeps_ite (keeps_bind keeps_QEntry.storeElem fun _ => keeps_pure) keeps_QEntry.loadElem) hs

theorem State.memoryOk.runMem {s : State} {k c : Nat} {q : QEntry} {o : VOp} {v : Reg} {st : Bool} (h : s.memoryOk) :
    (s.runMem k c q o v st).memoryOk := by
  have h1 (f : Core → Core) (g : Ctx → Ctx) : (({ s with cur := c }.modCore k f).modCtx c g).memoryOk := h
  unfold State.runMem
  extract_lets -underBinder rest x s1 back
  have hb (u : State) (hu : u.memoryOk) : (back u).memoryOk := hu
  split
  next r u heq =>
    have hu : u.memoryOk := keeps_ok keeps_QEntry.memRun (h1 _ _) heq
    extract_lets -underBinder f fl
    split
    · exact (hb u hu).finishOp
    · extract_lets v
      have hv : v.memoryOk := (hb u hu).orFlagsOf
      split
      · exact hv.failOp
      · exact hv.failOp
  · exact h.asked
  next u heq =>
    have hu : u.memoryOk := keeps_error keeps_QEntry.memRun (h1 _ _) heq
    exact State.memoryOk.modCore (State.memoryOk_of_eq rfl rfl hu)
  · exact h

theorem State.memoryOk.runVec {s : State} {k c : Nat} {q : QEntry} {d : VInfo} (h : s.memoryOk) : (s.runVec k c q d).memoryOk := by
  unfold State.runVec
  refine State.memoryOk.ite h.modCore.failOp ?_
  split
  · exact h.runMem
  · split
    · exact h.modCore.finishOp
    · exact h.modCore.failOp

theorem State.memoryOk.runWaxOp {s : State} {k c : Nat} {q : QEntry} {v a b : Reg} {ext : BitVec 4} {n : Nat} (h : s.memoryOk) :
    (s.runWaxOp k c q v a b ext n).memoryOk := by
  unfold State.runWaxOp
  refine State.memoryOk.ite h ?_
  refine State.memoryOk.ite h ?_
  split
  · exact h.modCore.countDone.failOp
  · exact h.modCore.countDone.failOp.ite h.modCore.countDone.finishOp

theorem State.memoryOk.vectorStep {s : State} {k : Nat} (h : s.memoryOk) : (s.vectorStep k).memoryOk := by
  unfold State.vectorStep
  split
  · exact h.freeLanes
  · split
    · exact h.modCore.freeLanes
    · split
      · exact h.runWaxOp
      · split
        · exact h
        · split
          · exact h
          next u heq =>
            have hu : u.memoryOk := h.takeLanes heq
            exact State.memoryOk.ite hu.runVec hu.runVec.giveBack

theorem outcomeOk_execVectorExecute {s : State} {core : Nat} (h : s.memoryOk) : outcomeOk (execVectorExecute core s) :=
  h.vectorStep.feed

theorem outcomeOk_execRpRec {s : State} {a : Reg} (h : s.memoryOk) : outcomeOk (execRpRec a s) :=
  outcomeOk_run (keeps_bind keeps_noPrefix fun _ => keeps_get fun _ hs => keeps_bind keeps_trapIf fun _ => keeps_bind keeps_gate fun _ =>
      keeps_bind keeps_readChecked fun _ => keeps_bind keeps_takeSeq fun _ => keeps_bind keeps_countMine fun _ => keeps_bind (keeps_modify
      fun _ hs' => hs'.modMe) fun _ => keeps_next) h

theorem outcomeOk_execRpRun {s : State} {a b : Reg} (h : s.memoryOk) : outcomeOk (execRpRun a b s) :=
  outcomeOk_run (keeps_bind keeps_noPrefix fun _ => keeps_get fun _ hs => keeps_bind keeps_trapIf fun _ => keeps_bind keeps_gate fun _ =>
      keeps_bind keeps_readChecked fun _ => keeps_bind keeps_takeSeq fun _ => keeps_bind (keeps_modify fun _ hs' => hs'.modMe) fun _ =>
      keeps_next) h

theorem keeps_replayReads {i : Instr} : keeps (replayReads i) := by
  unfold replayReads
  split
  · exact keeps_get fun _ hs => keeps_bind keeps_trapIf fun _ => keeps_pure
  · split
    · exact keeps_trap
    · exact keeps_bind keeps_gate fun _ => keeps_bind keeps_readOpt fun _ => keeps_bind keeps_readOpt fun _ => keeps_ite (keeps_bind
          keeps_sharedSlot fun _ => keeps_pure) keeps_pure

theorem State.memoryOk.replayOver {s : State} {c : Nat} (h : s.memoryOk) : (s.replayOver c).memoryOk :=
  h.countOn.ite h

theorem State.memoryOk.replayStop {s : State} {k : Nat} {i : Instr} {w pfx : IWord} {cause : Cause} {tval : Word} (h : s.memoryOk) :
    (s.replayStop k i w pfx cause tval).memoryOk :=
  h.modCore.countPush.modCtx.raiseLate.replayOver

theorem State.memoryOk.pushInstance {s : State} {k : Nat} {i : Instr} {w pfx : IWord} (h : s.memoryOk) :
    (s.pushInstance k i w pfx).memoryOk := by
  unfold State.pushInstance
  extract_lets -underBinder c
  split
  · exact h.replayStop
  · exact h
  next t heq =>
    have ht : t.memoryOk := keeps_ok keeps_replayReads (s := { s with cur := c }) h heq
    extract_lets -underBinder seq u q v w
    have hu : u.memoryOk := ht
    clear_value u
    have hv : v.memoryOk := hu.enqueue
    clear_value v
    have hw : w.memoryOk := State.memoryOk.ite hv.openWindow hv
    clear_value w
    exact hw.modCtx.replayOver

theorem State.memoryOk.replayPush {s : State} {k : Nat} (h : s.memoryOk) : (s.replayPush k).memoryOk := by
  unfold State.replayPush
  refine State.memoryOk.ite h ?_
  dsimp only
  split
  · exact h.replayStop
  · exact h.replayStop
  · split
    · exact h.replayStop
    · exact h.replayStop.ite h.pushInstance

theorem outcomeOk_execReplayPush {s : State} {core : Nat} (h : s.memoryOk) : outcomeOk (execReplayPush core s) :=
  h.replayPush

end Sys2Proof.Machine
end

section
set_option Elab.async false
/-! PROOFS. Memory keeps its form: engine commands and collectives. -/

namespace Sys2Proof.Machine

theorem State.memoryOk.destLines {q : QEntry} {fuel i : Nat} {acc : List Nat} {s : State} (h : s.memoryOk) :
    (s.destLines q fuel i acc).2.memoryOk := by
  induction fuel generalizing s i acc with
  | zero => exact h
  | succ fuel ih =>
    unfold State.destLines
    split
    · exact h
    · split
      · exact h
      · split
        next heq => exact h.place.of_eq heq
        next heq => exact h.place.of_eq heq
        next heq => exact ih (h.place.of_eq heq)
        next heq => exact ih (h.place.of_eq heq)

theorem State.memoryOk.collLines {q : QEntry} {n w fuel : Nat} {acc : List Nat} {s : State} (h : s.memoryOk) :
    (s.collLines q n w fuel acc).2.memoryOk := by
  induction fuel generalizing s acc with
  | zero => exact h
  | succ fuel ih =>
    unfold State.collLines
    split
    · exact h
    · split
      next heq => exact h.place.of_eq heq
      next heq => exact h.place.of_eq heq
      next heq => exact ih (h.place.of_eq heq)
      next heq => exact ih (h.place.of_eq heq)

theorem State.memoryOk.cmdLines {s : State} {q : QEntry} (h : s.memoryOk) : (s.cmdLines q).2.memoryOk := by
  unfold State.cmdLines
  split
  · exact h.destLines
  · exact h.destLines
  · exact h.destLines
  · exact h.collLines
  · exact h.collLines
  · exact h.collLines
  · exact h

/-- An attempt that may succeed, with memory in its form in the state that it leaves in either case. -/
def triedOk (r : Option State × State) : Prop := r.2.memoryOk ∧ ∀ t, r.1 = some t → t.memoryOk

theorem triedOk_none {t : State} (h : t.memoryOk) : triedOk (none, t) := ⟨h, fun _ e => by cases e⟩

theorem triedOk_some {t u : State} (ht : t.memoryOk) (hu : u.memoryOk) : triedOk (some t, u) :=
  ⟨hu, fun _ e => Option.some.inj e ▸ ht⟩

theorem triedOk.fst {r : Option State × State} {t u : State} (h : triedOk r) (e : r = (some t, u)) : t.memoryOk :=
  h.2 t (congrArg Prod.fst e)

theorem triedOk.snd {r : Option State × State} {o : Option State} {u : State} (h : triedOk r) (e : r = (o, u)) : u.memoryOk :=
  State.memoryOk.subst (f := Prod.snd) h.1 e

theorem State.memoryOk.ownLines {s : State} {q : QEntry} {id : Nat} (h : s.memoryOk) : triedOk (s.ownLines q id) := by
  unfold State.ownLines
  extract_lets r t u
  have hr : r.2.memoryOk := h.cmdLines
  split
  · exact triedOk_none hr
  · exact triedOk_some hr hr
  · split
    · exact triedOk_none hr
    · have hl := (State.memoryOk_releaseCore t (cidCore q.cid) hr).foldl (l := ‹List Nat›) (f := fun s l =>
          let s := (s.cleanLine t l).modTile t fun x => x.setLine l CacheLine.absent
          s.setL2 l { s.l2line l with engine := some id }) fun _ _ hu => (State.memoryOk_cleanLine _ _ hu).modTile.setL2
      exact triedOk_some hl hl

theorem keeps_moveIssue {i : Instr} {a b : Reg} {chk : Check} : keeps (moveIssue i a b chk) := by
  unfold moveIssue
  refine keeps_bind keeps_noPrefix fun _ => keeps_bind keeps_gate fun _ => keeps_bind keeps_readChecked fun x => ?_
  split
  refine keeps_get fun s hs => ?_
  refine keeps_ite (keeps_bind keeps_defer fun _ => keeps_next) ?_
  extract_lets -underBinder push
  have hp (r : PUnit) : keeps (push r) := by
    unfold push
    extract_lets -underBinder src q done
    have hd (r : PUnit) : keeps (done r) := keeps_bind keeps_pushCop fun _ => keeps_next
    split
    next heq => exact keeps_bind (keeps_set (hs.ownLines.snd heq)) fun _ => keeps_bind keeps_waitFor hd
    next t _ heq =>
      have ht : t.memoryOk := hs.ownLines.fst heq
      exact keeps_bind (keeps_set ht) hd
  clear_value push
  exact keeps_ite (keeps_bind keeps_waitFor hp) (hp ())

theorem outcomeOk_execCpGo {s : State} {a b : Reg} {sc : BitVec 2} (h : s.memoryOk) : outcomeOk (execCpGo a b sc s) :=
  outcomeOk_run keeps_moveIssue h

theorem outcomeOk_execCpLand {s : State} {a b : Reg} (h : s.memoryOk) : outcomeOk (execCpLand a b s) :=
  outcomeOk_run keeps_cIssue h

theorem outcomeOk_execCpTm {s : State} {a b : Reg} (h : s.memoryOk) : outcomeOk (execCpTm a b s) :=
  outcomeOk_run keeps_cIssue h

theorem outcomeOk_execGaGo {s : State} {a b : Reg} {sc : BitVec 2} (h : s.memoryOk) : outcomeOk (execGaGo a b sc s) :=
  outcomeOk_run keeps_moveIssue h

theorem outcomeOk_execScGo {s : State} {a b : Reg} {sc : BitVec 2} (h : s.memoryOk) : outcomeOk (execScGo a b sc s) :=
  outcomeOk_run keeps_moveIssue h

theorem outcomeOk_execCoRed {s : State} {a b : Reg} {sc : BitVec 2} (h : s.memoryOk) : outcomeOk (execCoRed a b sc s) :=
  outcomeOk_run keeps_moveIssue h

theorem outcomeOk_execCoBcast {s : State} {a b : Reg} {sc : BitVec 2} (h : s.memoryOk) : outcomeOk (execCoBcast a b sc s) :=
  outcomeOk_run keeps_moveIssue h

theorem outcomeOk_execCoAr {s : State} {a b : Reg} {sc : BitVec 2} (h : s.memoryOk) : outcomeOk (execCoAr a b sc s) :=
  outcomeOk_run keeps_moveIssue h

theorem State.memoryOk.acceptCmd {s : State} {q : QEntry} {e : Nat} (h : s.memoryOk) : triedOk (s.acceptCmd q e) := by
  unfold State.acceptCmd
  extract_lets add v id
  have hadd (u : State) (n : Nat) (hu : u.memoryOk) : (add u n).memoryOk := hu.modTile
  split
  · exact triedOk_some (hadd s _ h) (hadd s _ h)
  · split
    next heq => exact triedOk_none (h.ownLines.snd heq)
    next t _ heq =>
      have ht : t.memoryOk := h.ownLines.fst heq
      exact triedOk_some (hadd { t with nextReq := id + 1 } _ ht) (hadd { t with nextReq := id + 1 } _ ht)

theorem State.memoryOk.accept {s : State} {k : Nat} (h : s.memoryOk) : (s.accept k).memoryOk := by
  unfold State.accept
  split
  · exact h
  · extract_lets t drop
    have hdrop (u : State) (hu : u.memoryOk) : (drop u).memoryOk := hu.modCore
    split
    · exact h
    · exact (hdrop s h).modTile.ite h
    · exact (hdrop s h).modTile.waxRun
    · split
      next heq => exact hdrop _ (h.acceptCmd.fst heq)
      next heq => exact h.acceptCmd.snd heq
    · exact h

theorem outcomeOk_execEngineAccept {s : State} {core : Nat} (h : s.memoryOk) : outcomeOk (execEngineAccept core s) :=
  h.accept.feed

theorem State.memoryOk.readRun {q : QEntry} {id : Nat} {p : Word} {d : Int} {n size fuel : Nat} {acc : List Byte} {s : State}
    (h : s.memoryOk) : (s.readRun q id p d n size fuel acc).2.memoryOk := by
  induction fuel generalizing s acc with
  | zero => exact h
  | succ fuel ih =>
    unfold State.readRun
    split
    · exact h
    · extract_lets d' m
      split
      next heq => exact h.place.of_eq heq
      next heq => exact h.place.of_eq heq
      next t heq =>
        have ht : t.memoryOk := h.place.of_eq heq
        split
        · split
          next u heq =>
            have hu : u.memoryOk := ht.placeHere.of_eq heq
            exact ih hu.fillPlace
          next heq => exact ht.placeHere.of_eq heq
          next heq => exact ht.placeHere.of_eq heq
        · exact ht

theorem State.memoryOk.pieceDst {s : State} {q : QEntry} {p : Piece} (h : s.memoryOk) : (s.pieceDst q p).memoryOk := by
  unfold State.pieceDst
  split
  · exact h.place
  · dsimp only
    split
    · exact h
    · exact h

theorem State.memoryOk.ringLanded {s : State} {q : QEntry} {p : Piece} (h : s.memoryOk) : (s.ringLanded q p).memoryOk := by
  unfold State.ringLanded
  split
  · exact h
  · exact h.ringTail.ite h

theorem State.memoryOk.freeBytes {bs : List Byte} {ms : List Bool} {s : State} (h : s.memoryOk) : (s.freeBytes bs ms).2.memoryOk := by
  induction bs generalizing s ms with
  | nil => exact h
  | cons b bs ih =>
    cases ms with
    | nil => exact h
    | cons m ms =>
      unfold State.freeBytes
      split
      · exact ih h.draw
      · exact ih h

theorem State.memoryOk.landBytes {s : State} {q : QEntry} {p : Piece} {bs : List Byte} (h : s.memoryOk) :
    (s.landBytes q p bs).2.memoryOk := by
  unfold State.landBytes
  split
  · exact State.memoryOk.ite_snd h h.freeBytes
  · exact h

theorem EStep.memoryOk.ite {c : Prop} [Decidable c] {x y : EStep} (hx : x.memoryOk) (hy : y.memoryOk) : (if c then x else y).memoryOk := by
  split
  · exact hx
  · exact hy

theorem State.memoryOk.movePiece {s : State} {q : QEntry} {id i : Nat} {f : FillOp} {homeToo : Bool} {held : List Byte} (h : s.memoryOk) :
    (s.movePiece q id i f homeToo held).memoryOk := by
  unfold State.movePiece
  split
  · exact h
  · exact h
  next p _ _ =>
    split
    · exact State.memoryOk.asked h
    next heq => exact (h.pieceDst.of_eq heq : State.memoryOk _)
    next pl t heq =>
      have ht : t.memoryOk := h.pieceDst.of_eq heq
      refine EStep.memoryOk.ite h (EStep.memoryOk.ite (State.memoryOk.asked h) ?_)
      split
      · exact State.memoryOk.asked h
      next bs e u heq =>
        have hu : u.memoryOk := State.memoryOk.subst (f := Prod.snd) ht.readRun heq
        extract_lets r v w
        have hr : r.2.memoryOk := State.memoryOk.ite_snd hu hu.landBytes
        have hv : v.memoryOk := hr.ite hr.landAt
        have hw : w.memoryOk := hv.ite hv.freePlace
        split
        · exact hw
        · exact hw.ringLanded

theorem State.memoryOk.endCmd {s : State} {t : Nat} {e : ECmd} (h : s.memoryOk) : (s.endCmd t e).memoryOk :=
  h.disown.modTile.countDone

theorem State.memoryOk.setMoved {s : State} {t : Nat} {e : ECmd} {held : List Byte} {i : Nat} (h : s.memoryOk) :
    (s.setMoved t e held i).memoryOk :=
  h

theorem State.memoryOk.movePieces {q : QEntry} {id : Nat} {f : FillOp} {held : List Byte} {fuel i : Nat} {s : State} (h : s.memoryOk) :
    (s.movePieces q id f held fuel i).1.memoryOk := by
  induction fuel generalizing s i with
  | zero => exact h
  | succ fuel ih =>
    unfold State.movePieces
    split
    next heq => exact ih (h.movePiece.of_eq heq)
    · exact h.movePiece

theorem State.memoryOk.finishMove {s : State} {t : Nat} {e : ECmd} (h : s.memoryOk) : (s.finishMove t e).memoryOk := by
  unfold State.finishMove
  split
  · exact h
  · split
    · exact h.endCmd.raiseLate
    · extract_lets held r
      have hr : r.1.memoryOk := h.movePieces
      split
      next heq => exact (hr.of_eq heq : State.memoryOk _).endCmd
      next heq => exact (hr.of_eq heq : State.memoryOk _).setMoved
      next heq => exact (hr.of_eq heq : State.memoryOk _).setMoved
      next heq => exact (hr.of_eq heq : State.memoryOk _).setMoved
      next heq => exact (hr.of_eq heq : State.memoryOk _).endCmd.raiseLate

theorem State.memoryOk.engineHome {s : State} {t : Nat} (h : s.memoryOk) : (s.engineHome t).memoryOk := by
  unfold State.engineHome
  refine foldl_keeps (P := fun r : State × Bool => r.1.memoryOk) _ (fun r e hr => ?_) h
  split
  · exact hr
  · split
    next heq => exact (hr.movePiece.of_eq heq : State.memoryOk _).setMoved
    next heq => exact (hr.movePiece.of_eq heq : State.memoryOk _).endCmd.raiseLate
    next heq => exact hr.movePiece.of_eq heq
    · exact hr

theorem outcomeOk_execEngineWriteHome {s : State} {tile : Nat} (h : s.memoryOk) : outcomeOk (execEngineWriteHome tile s) :=
  h.engineHome

theorem State.memoryOk.land {s : State} {t : Nat} {e : ECmd} (h : s.memoryOk) : (s.land t e).memoryOk := by
  unfold State.land
  extract_lets -underBinder q b key set fail len
  have hset (u : State) (w : LandWin) (hu : u.memoryOk) : (set u w).memoryOk := hu
  have hfail (u : State) (c : Cause) (tv : Word) (hu : u.memoryOk) : (fail u c tv).memoryOk := hu.endCmd.raiseLate
  clear_value set fail
  refine State.memoryOk.ite (hset _ _ h).endCmd (State.memoryOk.ite (hfail _ _ _ h) ?_)
  split
  · exact hfail _ _ _ h
  · extract_lets -underBinder u
    refine State.memoryOk.ite (hfail _ _ _ (hset _ _ h)) ?_
    split
    · exact State.memoryOk.ite (hset _ _ h).endCmd (hfail _ _ _ h)
    · exact hfail _ _ _ h

theorem State.memoryOk.collRead {m : Member} {n w fuel : Nat} {acc : List Nat} {s : State} (h : s.memoryOk) :
    (s.collRead m n w fuel acc).2.memoryOk := by
  induction fuel generalizing s acc with
  | zero => exact h
  | succ fuel ih =>
    unfold State.collRead
    split
    · exact h
    · split
      next heq => exact h.place.of_eq heq
      next heq => exact h.place.of_eq heq
      next t heq =>
        have ht : t.memoryOk := h.place.of_eq heq
        split
        · split
          next u heq =>
            have hu : u.memoryOk := ht.placeHere.of_eq heq
            exact ih hu.fillPlace
          next heq => exact ht.placeHere.of_eq heq
          next heq => exact ht.placeHere.of_eq heq
        · exact ht

theorem State.memoryOk.collWrite {m : Member} {f : FillOp} {w i : Nat} {xs : List Nat} {s : State} (h : s.memoryOk) :
    (s.collWrite m f w i xs).2.memoryOk := by
  induction xs generalizing s i with
  | nil => exact h
  | cons x xs ih =>
    unfold State.collWrite
    split
    next heq => exact h.place.of_eq heq
    next heq => exact h.place.of_eq heq
    next t heq =>
      have ht : t.memoryOk := h.place.of_eq heq
      split
      · exact ih ht.landAt
      · exact ht

theorem State.memoryOk.collFail {s : State} {ms : List Member} {c : Nat → Cause} (h : s.memoryOk) : (s.collFail ms c).memoryOk :=
  h.foldl fun _ _ ht => ht.endCmd.raiseLate

theorem State.memoryOk.collReads {n w : Nat} {ms : List Member} {acc : List (List Nat × Option (Cause × Word))} {s : State}
    (h : s.memoryOk) : (s.collReads n w ms acc).2.memoryOk := by
  induction ms generalizing s acc with
  | nil => exact h
  | cons m ms ih =>
    unfold State.collReads
    have hr : (s.collRead m n w (n + 1) []).2.memoryOk := h.collRead
    split
    next heq => exact hr.subst heq
    next heq => exact ih (hr.subst heq)

theorem State.memoryOk.collDeliver {w : Nat} {xs : List Nat} {fl : List (Nat × Flags)} {ms : List Member} {s : State} (h : s.memoryOk) :
    (s.collDeliver w xs fl ms).2.memoryOk := by
  induction ms generalizing s with
  | nil => exact h
  | cons m ms ih =>
    unfold State.collDeliver
    have hr : (s.collWrite m (s.cmdFill m.2.q) w 0 xs).2.memoryOk := h.collWrite
    dsimp only
    split
    next heq => exact hr.subst heq
    next heq => exact ih (hr.subst heq : State.memoryOk _).endCmd.raiseOr

theorem State.memoryOk.collSend {s : State} {ms : List Member} (h : s.memoryOk) : (s.collSend ms).memoryOk :=
  h.foldl fun _ _ ht => ht.setMoved

theorem State.memoryOk.collective {s : State} {yard dom : Nat} (h : s.memoryOk) : (s.collective yard dom).memoryOk := by
  unfold State.collective
  extract_lets -underBinder ms
  clear_value ms
  split
  · exact h
  · extract_lets -underBinder
    refine State.memoryOk.ite h ?_
    extract_lets -underBinder root same
    split
    · refine State.memoryOk.ite h.collFail (State.memoryOk.ite h.collFail (State.memoryOk.ite h.collFail ?_))
      extract_lets -underBinder far u v srcs w
      have hu : u.memoryOk := h.collSend
      have hv : v.memoryOk := hu.foldl fun _ _ hx => State.memoryOk_releaseCore _ _ hx
      refine State.memoryOk.ite hu (State.memoryOk.ite hv ?_)
      clear_value v
      split
      · exact hv.asked
      next t heq =>
        have ht : t.memoryOk := State.memoryOk.subst (f := Prod.snd) hv.collReads heq
        split
        · exact ht.collFail
        · extract_lets
          split
          · exact ht.asked
          next heq => exact State.memoryOk.foldl (State.memoryOk.subst (f := Prod.snd) ht.collDeliver heq) fun _ _ hx => hx.endCmd
    · exact h.collFail
    · exact h.collFail

theorem outcomeOk_execCollectiveComplete {s : State} {yard dom : Nat} (h : s.memoryOk) : outcomeOk (execCollectiveComplete yard dom s) :=
  h.collective

end Sys2Proof.Machine
end

section
set_option Elab.async false
/-! PROOFS. Memory keeps its form: launches, graphs and phases. -/

namespace Sys2Proof.Machine

theorem outcomeOk_execEnStat {s : State} {d b : Reg} {la : BitVec 4} (h : s.memoryOk) : outcomeOk (execEnStat d b la s) :=
  outcomeOk_run (keeps_bind keeps_noPrefix fun _ => keeps_bind keeps_gate fun _ => keeps_bind keeps_copGate fun _ => keeps_bind
      keeps_readChecked fun _ => keeps_get fun _ hs => keeps_bind keeps_writeLa fun _ => keeps_bind keeps_countMine fun _ => keeps_next) h

theorem outcomeOk_execLnTask {s : State} {a b : Reg} (h : s.memoryOk) : outcomeOk (execLnTask a b s) :=
  outcomeOk_run (keeps_bind keeps_noPrefix fun _ => keeps_bind keeps_gate fun _ => keeps_bind keeps_readChecked fun _ => keeps_get
      fun _ hs => keeps_ite (keeps_bind keeps_defer fun _ => keeps_next) (keeps_bind keeps_pushCop fun _ => keeps_next)) h

theorem outcomeOk_execLnGraph {s : State} {a b : Reg} (h : s.memoryOk) : outcomeOk (execLnGraph a b s) :=
  outcomeOk_run keeps_cIssue h

theorem outcomeOk_execLnPhase {s : State} {a b : Reg} (h : s.memoryOk) : outcomeOk (execLnPhase a b s) :=
  outcomeOk_run keeps_cIssue h

theorem outcomeOk_execLnCancel {s : State} {a b : Reg} (h : s.memoryOk) : outcomeOk (execLnCancel a b s) :=
  outcomeOk_run keeps_cIssue h

theorem State.memoryOk.updateDispatch {s : State} {f : Launch → Bool} (h : s.memoryOk) : (s.updateDispatch f).memoryOk :=
  h

theorem outcomeOk_execSuccessorDispatchable {s : State} {yard : Nat} (h : s.memoryOk) : outcomeOk (execSuccessorDispatchable yard s) :=
  h

theorem State.memoryOk.readLn {s : State} {e : ECmd} {d n : Nat} (h : s.memoryOk) : (s.readLn e d n).2.memoryOk := by
  unfold State.readLn
  split
  next t heq =>
    have ht : t.memoryOk := h.readRun.subst heq
    refine State.memoryOk.congr ?_
    exact h.asked
  · exact h.readRun

theorem State.memoryOk.failCmd {s : State} {t : Nat} {e : ECmd} {c : Cause} {tv : Word} (h : s.memoryOk) : (s.failCmd t e c tv).memoryOk :=
  h.endCmd.raiseLate

theorem State.memoryOk.createLaunch {s : State} {y j : Nat} {q : QEntry} {b : Block} (h : s.memoryOk) : (s.createLaunch y j q b).memoryOk :=
  h

theorem State.memoryOk.lnTask {s : State} {t : Nat} {e : ECmd} (h : s.memoryOk) : (s.lnTask t e).memoryOk := by
  unfold State.lnTask
  extract_lets -underBinder y j
  split
  next heq => exact State.memoryOk.subst (f := Prod.snd) h.readLn heq
  next u heq =>
    have hu : u.memoryOk := State.memoryOk.subst (f := Prod.snd) h.readLn heq
    exact hu.failCmd
  next u heq =>
    have hu : u.memoryOk := State.memoryOk.subst (f := Prod.snd) h.readLn heq
    extract_lets -underBinder entry
    split
    · exact hu.failCmd
    · refine State.memoryOk.ite hu.failCmd ?_
      split
      next heq => exact State.memoryOk.subst (f := Prod.snd) hu.readLn heq
      next v heq =>
        have hv : v.memoryOk := State.memoryOk.subst (f := Prod.snd) hu.readLn heq
        exact hv.failCmd
      next v heq =>
        have hv : v.memoryOk := State.memoryOk.subst (f := Prod.snd) hu.readLn heq
        split
        · exact hv.failCmd
        · exact State.memoryOk.ite hv.failCmd hv.createLaunch.endCmd

theorem State.memoryOk.lnGraph {s : State} {t : Nat} {e : ECmd} (h : s.memoryOk) : (s.lnGraph t e).memoryOk := by
  unfold State.lnGraph
  extract_lets -underBinder y j i
  split
  next heq => exact State.memoryOk.subst (f := Prod.snd) h.readLn heq
  next u heq =>
    have hu : u.memoryOk := State.memoryOk.subst (f := Prod.snd) h.readLn heq
    exact hu.failCmd
  next u heq =>
    have hu : u.memoryOk := State.memoryOk.subst (f := Prod.snd) h.readLn heq
    extract_lets -underBinder n
    refine State.memoryOk.ite hu.failCmd ?_
    split
    next heq => exact State.memoryOk.subst (f := Prod.snd) hu.readLn heq
    next v heq =>
      have hv : v.memoryOk := State.memoryOk.subst (f := Prod.snd) hu.readLn heq
      exact hv.failCmd
    next v heq =>
      have hv : v.memoryOk := State.memoryOk.subst (f := Prod.snd) hu.readLn heq
      split
      · exact hv.failCmd
      · refine State.memoryOk.ite hv.failCmd ?_
        extract_lets -underBinder g w
        have hw : w.memoryOk := hv
        clear_value w
        exact hw.updateDispatch.endCmd

theorem State.memoryOk.lnPhase {s : State} {t : Nat} {e : ECmd} (h : s.memoryOk) : (s.lnPhase t e).memoryOk := by
  unfold State.lnPhase
  extract_lets -underBinder y j i gs free p u mine
  have hu : u.memoryOk := h
  clear_value u
  exact State.memoryOk.ite h.failCmd hu.updateDispatch.endCmd

theorem State.memoryOk.noteDropped {s : State} {a : Task} (h : s.memoryOk) : (s.noteDropped a).memoryOk :=
  h.ite h.modCore

theorem State.memoryOk.dropTasks {s : State} {y j : Nat} {launch : Option Nat} (h : s.memoryOk) : (s.dropTasks y j launch).memoryOk := by
  unfold State.dropTasks
  extract_lets -underBinder mine tiles
  refine State.memoryOk.foldl h fun u t hu => ?_
  extract_lets -underBinder gone v w
  have hv : v.memoryOk := State.memoryOk.foldl hu.modTile fun _ _ hx => hx.noteDropped
  clear_value v
  have hw : w.memoryOk := State.memoryOk.foldl hv fun x k hx => State.memoryOk.foldl hx.modCore fun _ _ hz => hz.noteDropped
  clear_value w
  refine State.memoryOk.foldl hw fun x c hx => ?_
  split
  · exact State.memoryOk.ite hx.endTask hx
  · exact hx

theorem State.memoryOk.cancelLaunch {s : State} {y j i : Nat} (h : s.memoryOk) : (s.cancelLaunch y j i).memoryOk :=
  (h.modLaunch.foldl fun _ _ ht => ht.noteDropped).dropTasks.launchDone.ite h

theorem State.memoryOk.cancelGraph {s : State} {y j i : Nat} (h : s.memoryOk) : (s.cancelGraph y j i).memoryOk := by
  unfold State.cancelGraph
  split
  · exact h
  · exact ((h.foldl fun _ _ ht => ht.ite ht.cancelLaunch).congr.dropRetained.ite ((h.foldl
        fun _ _ ht => ht.ite ht.cancelLaunch).congr)).ite (h.foldl fun _ _ ht => ht.ite ht.cancelLaunch)

theorem State.memoryOk.cancelPhase {s : State} {y j i : Nat} (h : s.memoryOk) : (s.cancelPhase y j i).memoryOk :=
  h.foldl fun _ _ ht => ht.cancelGraph

theorem State.memoryOk.cancelJob {s : State} {y j : Nat} (h : s.memoryOk) : (s.cancelJob y j).memoryOk :=
  ((h.foldl fun _ _ ht => ht.cancelLaunch).foldl fun _ _ ht => ht.cancelGraph).dropTasks

theorem State.memoryOk.lnCancel {s : State} {t : Nat} {e : ECmd} (h : s.memoryOk) : (s.lnCancel t e).memoryOk :=
  (h.cancelLaunch.ite (h.cancelGraph.ite (h.cancelPhase.ite h.cancelJob))).endCmd

theorem outcomeOk_execLnWait {s : State} {a b : Reg} (h : s.memoryOk) : outcomeOk (execLnWait a b s) :=
  outcomeOk_run (keeps_bind keeps_noPrefix fun _ => keeps_get fun _ hs => keeps_bind keeps_trapIf fun _ => keeps_bind keeps_gate fun _ =>
      keeps_bind keeps_copGate fun _ => keeps_bind keeps_readChecked fun _ => keeps_get fun _ hs' => keeps_ite (keeps_bind keeps_waitFor
      fun _ => keeps_bind (keeps_modify fun _ hs'' => hs''.modMe) fun _ => keeps_bind keeps_countMine fun _ => keeps_next) (keeps_bind
      (keeps_modify fun _ hs'' => hs''.modMe) fun _ => keeps_bind keeps_countMine fun _ => keeps_next)) h

theorem State.memoryOk.advanceCmd {s : State} {t : Nat} {e : ECmd} (h : s.memoryOk) : (s.advanceCmd t e).memoryOk := by
  unfold State.advanceCmd
  split
  · exact h.land
  · exact h.lnTask
  · exact h.lnGraph
  · exact h.lnPhase
  · exact h.lnCancel
  · exact h.collective
  · exact h.collective
  · exact h.collective
  · exact h.finishMove

theorem State.memoryOk.engineComplete {s : State} {t eng : Nat} (h : s.memoryOk) : (s.engineComplete t eng).memoryOk := by
  unfold State.engineComplete
  extract_lets es tried
  cases hf : tried.find? (fun u => u != s) with
  | none => exact h
  | some u =>
    obtain ⟨e, -, rfl⟩ := List.mem_map.1 (List.mem_of_find?_eq_some hf)
    exact h.advanceCmd

theorem outcomeOk_execEngineCommandComplete {s : State} {tile eng : Nat} (h : s.memoryOk) : outcomeOk
    (execEngineCommandComplete tile eng s) :=
  h.engineComplete

end Sys2Proof.Machine
end

section
set_option Elab.async false
/-! PROOFS. Memory keeps its form: saving and restoring a context. -/

namespace Sys2Proof.Machine

theorem State.memoryOk.agentPa {s : State} {c : Nat} {p : Word} {size : Nat} {k : AKind} (h : s.memoryOk) :
    (s.agentPa c p size k).2.memoryOk := by
  unfold State.agentPa
  split
  · exact h
  · split
    next t heq =>
      have ht : t.memoryOk := h.translate.of_eq heq
      refine State.memoryOk.congr ?_
      exact ht
    next t heq =>
      have ht : t.memoryOk := h.translate.of_eq heq
      refine State.memoryOk.congr ?_
      exact ht
    next t heq =>
      have ht : t.memoryOk := h.translate.of_eq heq
      refine State.memoryOk.congr ?_
      exact ht
    next t heq =>
      have ht : t.memoryOk := h.translate.of_eq heq
      split
      · refine State.memoryOk.congr ?_
        exact ht
      · split
        · refine State.memoryOk.congr ?_
          exact ht
        · refine State.memoryOk.congr ?_
          exact ht

theorem State.memoryOk.writeAgent {yard : Nat} {pg : Pg} {fuel pa : Nat} {bs : List Byte} {s : State} (h : s.memoryOk) :
    (s.writeAgent yard pg fuel pa bs).memoryOk := by
  induction fuel generalizing s pa bs with
  | zero => exact h
  | succ fuel ih =>
    unfold State.writeAgent
    split
    · exact h
    · exact ih (State.memoryOk_homeWrite _ _ _ _ h)

theorem State.memoryOk.writeBlock {s : State} {yard pa : Nat} {pg : Pg} {bs : List Byte} (h : s.memoryOk) :
    (s.writeBlock yard pa pg bs).memoryOk :=
  h.writeAgent

theorem State.memoryOk.withdraw {s : State} {c : Nat} (h : s.memoryOk) : (s.withdraw c).memoryOk :=
  h.ite h.disownAll.modCore.modTile.modCtx

theorem State.memoryOk.pushAgain {s : State} {c : Nat} {bs : List Byte} (h : s.memoryOk) : (s.pushAgain c bs).memoryOk := by
  unfold State.pushAgain
  dsimp only
  split
  · split
    · exact h.modCtx.countPush.hold
    · exact h.modCtx.hold
    · exact h.hold
  · exact h

theorem State.memoryOk.spillAll {pa r n tag : Nat} {pg : Pg} {vs : List QVal} {s : State} (h : s.memoryOk) :
    (s.spillAll pa r n tag pg vs).1.memoryOk := by
  induction vs generalizing s with
  | nil => exact h
  | cons v vs ih =>
    unfold State.spillAll
    split
    next heq => exact ih (h.spillTo heq)
    · exact h

theorem State.memoryOk.spillCore {s : State} {k pa tag : Nat} {pg : Pg} (h : s.memoryOk) : (s.spillCore k pa tag pg).memoryOk := by
  unfold State.spillCore
  extract_lets u t
  have hu : u.memoryOk := h.foldl fun _ _ hv => hv.spillAll.modCore
  split
  · exact hu.spillAll.modTile
  · exact hu

theorem State.memoryOk.unspill {s : State} {k pa yard : Nat} {pg : Pg} (h : s.memoryOk) : (s.unspill k pa yard pg).memoryOk :=
  (h.foldl fun _ _ ht => ht.modCore.foldl fun _ _ ht' => ht'.writeBlock).modTile.foldl fun _ _ ht => ht.writeBlock

theorem State.memoryOk.descPa {s : State} {b : Comb} (h : s.memoryOk) : (s.descPa b).2.memoryOk := by
  unfold State.descPa
  dsimp only
  split
  · exact h
  · split
    next t heq =>
      have ht : t.memoryOk := h.translate.of_eq heq
      refine State.memoryOk.congr ?_
      exact ht
    next t heq =>
      have ht : t.memoryOk := h.translate.of_eq heq
      refine State.memoryOk.congr ?_
      exact ht
    next t heq =>
      have ht : t.memoryOk := h.translate.of_eq heq
      refine State.memoryOk.congr ?_
      exact ht
    next t heq =>
      have ht : t.memoryOk := h.translate.of_eq heq
      split
      · refine State.memoryOk.congr ?_
        exact ht
      · refine State.memoryOk.congr ?_
        exact ht

theorem State.memoryOk.areaSlot {s : State} {b : Comb} (h : s.memoryOk) : (s.areaSlot b).2.memoryOk := by
  unfold State.areaSlot
  split
  next t heq =>
    have ht : t.memoryOk := h.descPa.subst heq
    refine State.memoryOk.congr ?_
    exact ht
  next t heq =>
    have ht : t.memoryOk := h.descPa.subst heq
    refine State.memoryOk.congr ?_
    exact ht
  next t heq =>
    have ht : t.memoryOk := h.descPa.subst heq
    dsimp only
    split
    · refine State.memoryOk.congr ?_
      exact ht
    · split
      · refine State.memoryOk.congr ?_
        exact ht
      · split
        next t heq =>
          have ht : t.memoryOk := ht.agentPa.subst heq
          refine State.memoryOk.congr ?_
          exact ht
        next t heq =>
          have ht : t.memoryOk := ht.agentPa.subst heq
          refine State.memoryOk.congr ?_
          exact ht
        next t heq =>
          have ht : t.memoryOk := ht.agentPa.subst heq
          refine State.memoryOk.congr ?_
          exact ht

theorem State.memoryOk.listSave {s : State} {c reason : Nat} {p : Word} {d : Nat} {dpg : Pg} {i : Nat} (h : s.memoryOk) :
    (s.listSave c reason p d dpg i).memoryOk :=
  h.writeBlock.writeBlock

theorem State.memoryOk.listFull {s : State} {y : Nat} {d : Option (Nat × Pg)} (h : s.memoryOk) : (s.listFull y d).memoryOk := by
  unfold State.listFull
  split
  · exact h
  · exact h.writeBlock

theorem State.memoryOk.finishSave {s : State} {c reason : Nat} {p : Word} {f : FramePlace} (h : s.memoryOk) :
    (s.finishSave c reason p f).memoryOk := by
  unfold State.finishSave
  extract_lets -underBinder tag u v w x
  have hu : u.memoryOk := h
  clear_value u
  have hv : v.memoryOk := hu.modCtx.unpin
  clear_value v
  have hw : w.memoryOk := State.memoryOk.ite hv.modTenant hv
  clear_value w
  have hx : x.memoryOk := hw
  clear_value x
  exact State.memoryOk.ite hx hx.enterHandler

theorem State.memoryOk.beginSave {s : State} {c : Nat} (h : s.memoryOk) : (s.beginSave c).memoryOk :=
  (h.foldl fun _ _ ht => ht.abortTask).unwait.withdraw.cancelPairs.foldl fun _ _ ht => ht.detach

theorem State.memoryOk.holdLate {s : State} {c : Nat} (h : s.memoryOk) : (s.holdLate c).2.memoryOk := by
  unfold State.holdLate
  split
  · exact h
  · exact h.modCtx

theorem State.memoryOk.bufferPa {s : State} {c : Nat} (h : s.memoryOk) : (s.bufferPa c).2.2.memoryOk := by
  unfold State.bufferPa
  extract_lets p a b
  have ha : a.2.memoryOk := State.memoryOk.agentPa h
  have hb : b.2.memoryOk := State.memoryOk.agentPa ha
  clear_value b
  split
  · exact h
  · exact hb

theorem State.memoryOk.fillBuffer {s : State} {c : Nat} {a b : AgentPa} (h : s.memoryOk) : (s.fillBuffer c a b).memoryOk := by
  unfold State.fillBuffer
  split
  · split
    · exact h.spillCore.modCore.writeBlock
    · exact h.spillCore.modCore
  · split
    · exact h.writeBlock
    · exact h

theorem State.memoryOk.trySave {s : State} {c : Nat} (h : s.memoryOk) : (s.trySave c).memoryOk := by
  unfold State.trySave
  extract_lets -underBinder reason u t k
  have hu : u.memoryOk := h.beginSave
  clear_value u
  split
  · exact h
  · split
    · exact hu
    · split
      next a b v heq =>
        have hv : v.memoryOk := State.memoryOk.subst (f := fun r => r.2.2) hu.bufferPa heq
        extract_lets -underBinder w1 w2 w3
        have h1 : w1.memoryOk := hv.closeWindows
        have h2 : w2.memoryOk := h1.modCtx
        have hw : w3.memoryOk := State.memoryOk_acquireTile _ _ (State.memoryOk_releaseCore _ _ h2)
        clear_value w3
        split
        · exact hv
        · split
          · split
            · exact hw
            · split
              next heq => exact State.memoryOk.subst (f := Prod.snd) hw.areaSlot heq
              next x heq =>
                have hx : x.memoryOk := State.memoryOk.subst (f := Prod.snd) hw.areaSlot heq
                exact hx.listFull.killCtx.enterHandler
              next x heq =>
                have hx : x.memoryOk := State.memoryOk.subst (f := Prod.snd) hw.areaSlot heq
                split
                next y heq =>
                  have hy : y.memoryOk := State.memoryOk.subst (f := Prod.snd) hx.holdLate heq
                  exact hy.fillBuffer.writeBlock.listSave.finishSave
          · split
            next y heq =>
              have hy : y.memoryOk := State.memoryOk.subst (f := Prod.snd) hw.holdLate heq
              exact State.memoryOk.finishSave (State.memoryOk_setTmBytes _ _ _ _ hy.fillBuffer)

theorem State.memoryOk.askSave {s : State} {c reason : Nat} (h : s.memoryOk) : (s.askSave c reason).memoryOk :=
  h.modCtx.ite h

theorem State.memoryOk.takeHeld {s : State} {c tag : Nat} (h : s.memoryOk) : (s.takeHeld c tag).memoryOk :=
  h

theorem State.memoryOk.pushWithdrawn {s : State} {c pa : Nat} (h : s.memoryOk) : (s.pushWithdrawn c pa).memoryOk :=
  h.foldl fun _ _ ht => ht.pushAgain

theorem State.memoryOk.takeGains {s : State} {c : Nat} (h : s.memoryOk) : (s.takeGains c).memoryOk := by
  unfold State.takeGains
  split
  · exact h
  · exact h.ite h.modCtx.modComb

theorem State.memoryOk.restore {s : State} {k : Nat} {bs : List Byte} (h : s.memoryOk) : triedOk (s.restore k bs) := by
  unfold State.restore
  extract_lets -underBinder c t tag fresh s1
  have h1 : s1.memoryOk := h.setCtx.modCore
  split
  next a b s2 heq =>
    have h2 : s2.memoryOk := State.memoryOk.subst (f := fun r => r.2.2) h1.bufferPa heq
    split
    · exact triedOk_none h
    · extract_lets -underBinder y s3 s4 s5 s6 s7
      have h3 : s3.memoryOk := h2
      have h4 : s4.memoryOk := by
        unfold s4
        split
        · exact h3.ite h3.unspill
        · exact h3
      have h5 : s5.memoryOk := by
        unfold s5
        split
        · exact h4.ite h4.pushWithdrawn
        · exact h4
      have h6 : s6.memoryOk := State.memoryOk_acquireTile _ _ h5.takeHeld.takeGains
      have h7 : s7.memoryOk := h6.snapshot.ite h6
      exact triedOk_some (h7.beginPin.ite h7) h

end Sys2Proof.Machine
end

section
set_option Elab.async false
/-! PROOFS. Memory keeps its form: tasks and their ends. -/

namespace Sys2Proof.Machine

theorem State.memoryOk.startHelper {s : State} {k slot frame : Nat} {fresh : Bool} {t : Task} (h : s.memoryOk) :
    (s.startHelper k slot frame fresh t).memoryOk := by
  unfold State.startHelper
  split
  · split
    · exact (State.memoryOk_clearFrame _ _ h).modTile.setCtx.modLaunch.ite ((State.memoryOk_clearFrame _ _ h).modTile.setCtx)
    · exact (State.memoryOk_clearFrame _ _ h).modTile.setCtx
  · split
    · exact h.modTile.setCtx.modLaunch.ite h.modTile.setCtx
    · exact h.modTile.setCtx

theorem State.memoryOk.askPlacement {s : State} {yard : Nat} {t : Task} (h : s.memoryOk) : (s.askPlacement yard t).memoryOk :=
  h

theorem State.memoryOk.dispatch {s : State} {yard : Nat} (h : s.memoryOk) : (s.dispatch yard).memoryOk := by
  unfold State.dispatch
  refine State.memoryOk.ite h ?_
  split
  · exact h
  · exact h
  · exact h.askPlacement.modLaunch
  next p l t u _ =>
    extract_lets -underBinder v w
    have hv : v.memoryOk := h.modLaunch
    clear_value v
    have hw : w.memoryOk := hv.modTile
    clear_value w
    exact hw

theorem outcomeOk_execTaskDispatch {s : State} {yard : Nat} (h : s.memoryOk) : outcomeOk (execTaskDispatch yard s) :=
  h.dispatch

theorem State.memoryOk.handBack {s : State} {t : Nat} (h : s.memoryOk) : (s.handBack t).memoryOk := by
  unfold State.handBack
  extract_lets -underBinder back
  refine State.memoryOk.modTile (State.memoryOk.foldl h fun u a hu => ?_)
  unfold back
  extract_lets -underBinder v
  have hv : v.memoryOk := hu.requeue
  clear_value v
  split
  · exact hv.modLaunch
  · exact hv

theorem outcomeOk_execLaunchAging {s : State} {yard job id : Nat} (h : s.memoryOk) : outcomeOk (execLaunchAging yard job id s) :=
  h

theorem State.memoryOk.startReady {s : State} {t : Nat} (h : s.memoryOk) : (s.startReady t).memoryOk := by
  unfold State.startReady
  refine State.memoryOk.ite h ?_
  split
  · split
    · exact h.modCore.startHelper
    · exact h
  · split
    · refine State.memoryOk.startHelper ?_
      split
      · exact h.modTile.modLaunch
      · exact h.modTile
    · exact h

theorem outcomeOk_execHelperTaskStart {s : State} {tile : Nat} (h : s.memoryOk) : outcomeOk (execHelperTaskStart tile s) :=
  h.startReady

theorem keeps_startTask {entry b : Word} {ready : M Unit} (hr : keeps ready) : keeps (startTask entry b ready) := by
  intro s hs
  unfold startTask
  extract_lets begin k wait task
  have hwait : (endState wait).memoryOk := hs
  have hbegin (n f : Nat) (zero : Bool) (u : State → State) (t : Task) (hu : ∀ v, v.memoryOk → (u v).memoryOk) :
      (endState (begin n f zero u t)).memoryOk := by
    show State.memoryOk (endState (match ready s with | .ok _ s => _ | .error e s => _))
    split
    next heq => exact (hu _ (keeps_ok hr hs heq)).startHelper
    next heq => exact keeps_error hr hs heq
  split
  · split
    · exact hbegin _ _ _ _ _ fun _ hv => hv
    · exact hwait
  · split
    · exact hs
    · split
      · exact hwait
      · split
        · exact hs
        · split
          · exact hwait
          · exact hbegin _ _ _ _ _ fun _ hv => hv.modCore

theorem outcomeOk_execStart {s : State} {d a b : Reg} (h : s.memoryOk) : outcomeOk (execStart d a b s) :=
  outcomeOk_runClose (keeps_bind keeps_noPrefix fun _ => keeps_get fun _ hs => keeps_bind keeps_trapIf fun _ => keeps_bind keeps_gate
      fun _ => keeps_bind keeps_readG fun _ => keeps_bind keeps_readG fun _ => keeps_bind keeps_trapIf fun _ => keeps_bind (keeps_startTask
      keeps_gatePush) fun _ => keeps_bind keeps_writeG fun _ => keeps_next) h

theorem outcomeOk_execHalt {s : State} {a : Reg} (h : s.memoryOk) : outcomeOk (execHalt a s) :=
  outcomeOk_runClose (keeps_bind keeps_noPrefix fun _ => keeps_get fun _ hs => keeps_bind keeps_trapIf fun _ => keeps_bind keeps_gate
      fun _ => keeps_bind keeps_readG fun _ => keeps_modify fun _ hs' => hs'.modHelper.modMe) h

theorem State.memoryOk.publish {s : State} {c : Nat} {h : Helper} (hs : s.memoryOk) : (s.publish c h).memoryOk :=
  hs.foldl fun _ _ ht => (State.memoryOk_homeWrite _ _ _ _ ht).modTile

theorem State.memoryOk.orderAborts {s : State} {h : Helper} (hs : s.memoryOk) : (s.orderAborts h).memoryOk := by
  unfold State.orderAborts
  split
  · exact hs
  · split
    · exact hs
    · exact hs.ite (hs.foldl fun _ _ ht => ht.abortTask)

theorem State.memoryOk.deferLeaf {s : State} {c : Nat} {q : QEntry} {k : AKind} (h : s.memoryOk) : (s.deferLeaf c q k).memoryOk :=
  h.translate

theorem State.memoryOk.deferReady {c : Nat} {qs : List QEntry} {ls : List Nat} {s : State} (h : s.memoryOk) :
    (s.deferReady c ls qs).memoryOk := by
  induction qs generalizing s ls with
  | nil =>
    unfold State.deferReady
    split
    · exact h
    · exact h
  | cons q qs ih =>
    unfold State.deferReady
    split
    · exact ih h
    · split
      next t heq =>
        have ht : t.memoryOk := h.deferLeaf.of_eq heq
        split
        · exact ih ht
        · exact ht
      next heq => exact h.deferLeaf.of_eq heq
      next heq => exact h.deferLeaf.of_eq heq
      next heq => exact h.deferLeaf.of_eq heq

theorem State.memoryOk.doAccess {s : State} {c boss : Nat} {h : Helper} {q : QEntry} {l : Leaf} (hs : s.memoryOk) :
    (s.doAccess c boss h q l).memoryOk := by
  unfold State.doAccess
  extract_lets -underBinder tag yard n write u v old sums
  have hwrite (w : State) (x : Nat) (hw : w.memoryOk) : (write w x).memoryOk := State.memoryOk_homeWrite _ _ _ _ hw
  have hsums (w : State) (hw : w.memoryOk) : (sums w).memoryOk := State.memoryOk.keepFlags (State.memoryOk_flushSums _ _ hw)
  have hu : u.memoryOk := State.memoryOk_cleanLine _ _ hs
  have hv : v.memoryOk := State.memoryOk.ite (State.memoryOk_fillL2 _ _ hu) hu
  clear_value write sums v
  split
  · exact hv.ite (hsums v hv)
  · exact State.memoryOk.dropLine (hv.ite (hsums v hv))
  · split
    · exact hwrite v _ hv
    · exact hv
  · split
    · exact hwrite v _ hv
    · exact hv
  · split
    next heq => exact hv.xadd heq
    · exact hv.addRecord
  · split
    · exact State.memoryOk.jobRequests (hwrite v _ hv)
    · exact hv

theorem State.memoryOk.releaseOne {s : State} {c : Nat} {h : Helper} {q : QEntry} (hs : s.memoryOk) : (s.releaseOne c h q).memoryOk := by
  unfold State.releaseOne
  split
  · exact hs.sendSignal.ite hs.addRecord
  · split
    · split
      next t heq =>
        have ht : t.memoryOk := hs.deferLeaf.of_eq heq
        refine State.memoryOk.congr ?_
        exact ht.doAccess
      next t heq =>
        have ht : t.memoryOk := hs.deferLeaf.of_eq heq
        refine State.memoryOk.congr ?_
        exact ht
      next t heq =>
        have ht : t.memoryOk := hs.deferLeaf.of_eq heq
        refine State.memoryOk.congr ?_
        exact ht
      next t heq =>
        have ht : t.memoryOk := hs.deferLeaf.of_eq heq
        refine State.memoryOk.congr ?_
        exact ht
    · exact hs.hold

theorem State.memoryOk.endCommitted {s : State} {c : Nat} {h : Helper} {keep : Bool} (hs : s.memoryOk) :
    (s.endCommitted c h keep).memoryOk := by
  unfold State.endCommitted
  refine State.memoryOk.taskEnded ?_
  split
  · exact (hs.freeHelper.ite hs.freeHelper.dropFrame).modCore
  · exact (hs.freeHelper.ite hs.freeHelper.dropFrame).modCore.modLaunch

theorem State.memoryOk.commit {s : State} {c : Nat} (h : s.memoryOk) : (s.commit c).memoryOk := by
  unfold State.commit
  split
  · exact h
  · split
    · exact h
    · extract_lets free
      split
      · exact h
      · split
        next heq => exact h.deferReady.of_eq heq
        next heq => exact (h.deferReady.of_eq heq : State.memoryOk _).taskFault
        next heq => exact (h.deferReady.of_eq heq : State.memoryOk _).parkTask
        next t heq =>
          have ht : t.memoryOk := h.deferReady.of_eq heq
          split
          · exact (ht.foldl fun _ _ hu => (State.memoryOk_cleanLine _ _ hu).modTile).abortTask
          · exact (ht.publish.jobRequests.keepFlags.foldl fun _ _ hu => hu.releaseOne).endCommitted.orderAborts

theorem outcomeOk_execTaskCommit {s : State} {cid : Nat} (h : s.memoryOk) : outcomeOk (execTaskCommit cid s) :=
  h.commit

theorem outcomeOk_execYield {s : State} {d : Reg} (h : s.memoryOk) : outcomeOk (execYield d s) :=
  outcomeOk_runClose (keeps_bind keeps_noPrefix fun _ => keeps_bind keeps_gate fun _ => keeps_get fun _ hs => keeps_ite (keeps_bind
      keeps_writeG fun _ => keeps_next) (keeps_bind (keeps_set hs.draw) fun _ => keeps_bind keeps_writeG fun _ => keeps_bind keeps_next
      fun _ => keeps_modify fun _ hs' => hs'.askSave.ite hs')) h

theorem State.memoryOk.askVacate {s : State} {c : Nat} (h : s.memoryOk) : (s.askVacate c).memoryOk :=
  h

theorem keeps_upret {a : Reg} : keeps (upret a) := by
  unfold upret
  exact keeps_bind keeps_noPrefix fun _ => keeps_get fun _ hs => keeps_bind keeps_trapIf fun _ => keeps_bind keeps_gate fun _ => keeps_bind
      keeps_readG fun _ => keeps_get fun _ hs' => keeps_ite (keeps_modify fun _ hs'' => hs''.modMe.askVacate) (keeps_modify
      fun _ hs'' => hs''.modMe)

theorem outcomeOk_execUpret {s : State} {a : Reg} (h : s.memoryOk) : outcomeOk (execUpret a s) :=
  outcomeOk_runClose keeps_upret h

theorem outcomeOk_execUpretVacate {s : State} {a : Reg} (h : s.memoryOk) : outcomeOk (execUpretVacate a s) :=
  outcomeOk_runClose keeps_upret h

theorem State.memoryOk.boundaryTrap {s : State} {c : Nat} {h : How} {cause : Cause} {tval : Word} (hs : s.memoryOk) :
    (s.boundaryTrap c h cause tval).memoryOk :=
  hs.closeWindows.unwait.takeTrap

theorem State.memoryOk.reportLate {s : State} {c : Nat} (h : s.memoryOk) : (s.reportLate c).memoryOk := by
  unfold State.reportLate
  refine State.memoryOk.ite h ?_
  split
  · exact h
  · exact h.modCtx.boundaryTrap

theorem outcomeOk_execLateCauseReport {s : State} {cid : Nat} (h : s.memoryOk) : outcomeOk (execLateCauseReport cid s) :=
  h.reportLate

theorem State.memoryOk.stepTrap {s : State} {c : Nat} (h : s.memoryOk) : (s.stepTrap c).memoryOk :=
  h.ite h.modCtx.boundaryTrap

theorem outcomeOk_execSingleStepTrap {s : State} {cid : Nat} (h : s.memoryOk) : outcomeOk (execSingleStepTrap cid s) :=
  h.stepTrap

theorem State.memoryOk.deliverRecord {s : State} {c : Nat} (h : s.memoryOk) : (s.deliverRecord c).memoryOk := by
  unfold State.deliverRecord
  split
  · exact h
  · exact h.ite h.modCtx.boundaryTrap

theorem outcomeOk_execTaskFaultRecord {s : State} {cid : Nat} (h : s.memoryOk) : outcomeOk (execTaskFaultRecord cid s) :=
  h.deliverRecord

theorem outcomeOk_execContextSave {s : State} {cid : Nat} (h : s.memoryOk) : outcomeOk (execContextSave cid s) :=
  h.trySave.ite h

theorem State.memoryOk.enterUpcall {s : State} {c : Nat} (h : s.memoryOk) : (s.enterUpcall c).memoryOk :=
  h.ite h.closeWindows.unwait.modCtx

theorem outcomeOk_execUpcallEntry {s : State} {cid : Nat} (h : s.memoryOk) : outcomeOk (execUpcallEntry cid s) :=
  h.enterUpcall

theorem State.memoryOk.expireSlice {s : State} {k : Nat} (h : s.memoryOk) : (s.expireSlice k).memoryOk :=
  h.ite (h.modCore.askSave.ite h.modCore.draw.draw.enterHandler.modCtx)

theorem outcomeOk_execSliceExpiry {s : State} {core : Nat} (h : s.memoryOk) : outcomeOk (execSliceExpiry core s) :=
  h.expireSlice

theorem State.memoryOk.exceedBudget {s : State} {c : Nat} (h : s.memoryOk) : (s.exceedBudget c).memoryOk := by
  unfold State.exceedBudget
  refine State.memoryOk.ite h ?_
  split
  next t heq =>
    have ht : t.memoryOk := h.agentPa.subst heq
    refine State.memoryOk.congr ?_
    exact ht
  next t heq =>
    have ht : t.memoryOk := h.agentPa.subst heq
    refine State.memoryOk.congr ?_
    exact ht.askSave
  next t heq =>
    have ht : t.memoryOk := h.agentPa.subst heq
    refine State.memoryOk.congr ?_
    exact ht.writeBlock.askSave

theorem outcomeOk_execBudgetExceeded {s : State} {cid : Nat} (h : s.memoryOk) : outcomeOk (execBudgetExceeded cid s) :=
  h.exceedBudget

theorem State.memoryOk.tileError {s : State} {t : Nat} (h : s.memoryOk) : (s.tileError t).memoryOk :=
  h.foldl fun _ _ ht => ht.taskFault.ite ht.modCtx

theorem outcomeOk_execUncorrectableTileError {s : State} {tile : Nat} (h : s.memoryOk) : outcomeOk (execUncorrectableTileError tile s) :=
  h.tileError

end Sys2Proof.Machine
end

section
set_option Elab.async false
/-! PROOFS. Memory keeps its form: branches, loops, traps and their returns. -/

namespace Sys2Proof.Machine

theorem keeps_branch {a b : Reg} {off : BitVec 16} {p : Word → Word → Bool} : keeps (branch a b off p) := by
  unfold branch
  exact keeps_bind keeps_noPrefix fun _ => keeps_bind keeps_gate fun _ => keeps_bind keeps_readG fun _ => keeps_bind keeps_readG fun _ =>
      keeps_get fun _ hs => keeps_ite keeps_jump keeps_next

theorem outcomeOk_execBeq {s : State} {a b : Reg} {off : BitVec 16} (h : s.memoryOk) : outcomeOk (execBeq a b off s) :=
  outcomeOk_run keeps_branch h

theorem outcomeOk_execBne {s : State} {a b : Reg} {off : BitVec 16} (h : s.memoryOk) : outcomeOk (execBne a b off s) :=
  outcomeOk_run keeps_branch h

theorem outcomeOk_execBlt {s : State} {a b : Reg} {off : BitVec 16} (h : s.memoryOk) : outcomeOk (execBlt a b off s) :=
  outcomeOk_run keeps_branch h

theorem outcomeOk_execBge {s : State} {a b : Reg} {off : BitVec 16} (h : s.memoryOk) : outcomeOk (execBge a b off s) :=
  outcomeOk_run keeps_branch h

theorem outcomeOk_execBlo {s : State} {a b : Reg} {off : BitVec 16} (h : s.memoryOk) : outcomeOk (execBlo a b off s) :=
  outcomeOk_run keeps_branch h

theorem outcomeOk_execBhs {s : State} {a b : Reg} {off : BitVec 16} (h : s.memoryOk) : outcomeOk (execBhs a b off s) :=
  outcomeOk_run keeps_branch h

theorem outcomeOk_execBqe {s : State} {a b : Reg} {off : BitVec 16} (h : s.memoryOk) : outcomeOk (execBqe a b off s) :=
  outcomeOk_run (keeps_bind keeps_noPrefix fun _ => keeps_get fun _ hs => keeps_ite keeps_jump keeps_next) h

theorem outcomeOk_execJal {s : State} {d : Reg} {off : BitVec 21} (h : s.memoryOk) : outcomeOk (execJal d off s) :=
  outcomeOk_run (keeps_bind keeps_noPrefix fun _ => keeps_bind keeps_gate fun _ => keeps_get fun _ hs => keeps_bind keeps_writeG fun _ =>
      keeps_jump) h

theorem outcomeOk_execJalr {s : State} {d a : Reg} {imm : BitVec 16} (h : s.memoryOk) : outcomeOk (execJalr d a imm s) :=
  outcomeOk_run (keeps_bind keeps_noPrefix fun _ => keeps_bind keeps_gate fun _ => keeps_bind keeps_readG fun _ => keeps_bind keeps_trapIf
      fun _ => keeps_get fun _ hs => keeps_bind keeps_writeG fun _ => keeps_jump) h

theorem State.memoryOk.startLoop {s : State} {d : Reg} {count : Word} {n : BitVec 16} (h : s.memoryOk) : (s.startLoop d count n).memoryOk :=
  h

theorem outcomeOk_execLoop {s : State} {d a : Reg} {imm : BitVec 16} (h : s.memoryOk) : outcomeOk (execLoop d a imm s) :=
  outcomeOk_run (keeps_bind keeps_noPrefix fun _ => keeps_bind keeps_trapIf fun _ => keeps_get fun _ hs => keeps_bind keeps_trapIf fun _ =>
      keeps_bind keeps_gate fun _ => keeps_bind keeps_readG fun _ => keeps_ite keeps_jump (keeps_bind (keeps_modify
      fun _ hs' => hs'.modMe.startLoop) fun _ => keeps_modify fun _ hs' => hs'.modMe)) h

theorem outcomeOk_execTrap {s : State} {a : Reg} (h : s.memoryOk) : outcomeOk (execTrap a s) :=
  outcomeOk_runClose (keeps_bind keeps_noPrefix fun _ => keeps_bind keeps_gate fun _ => keeps_bind keeps_readG fun _ => keeps_get
      fun _ hs => keeps_bind (keeps_set hs.modMe.deliver) fun _ => keeps_leaveNow) h

theorem State.memoryOk.endHandler {s : State} {k : Nat} (h : s.memoryOk) : (s.endHandler k).memoryOk :=
  h

theorem keeps_restoreAt {p : Word} : keeps (restoreAt p) := by
  intro s hs
  unfold restoreAt
  extract_lets k t bs
  split
  · exact hs
  · split
    · exact hs
    · split
      · exact hs
      · have hr : triedOk (s.restore k bs) := hs.restore
        split
        next heq =>
          rw [heq] at hr
          exact hr.1
        next u _ heq =>
          rw [heq] at hr
          exact (hr.2 u rfl).endHandler

theorem keeps_eret {a : Reg} : keeps (eret a) := by
  unfold eret
  exact keeps_bind keeps_noPrefix fun _ => keeps_get fun _ hs => keeps_bind keeps_trapIf fun _ => keeps_bind keeps_gate fun _ => keeps_bind
      keeps_readG fun _ => keeps_get fun _ hs' => keeps_ite (keeps_bind keeps_trapIf fun _ => keeps_restoreAt) (keeps_ite (keeps_modify
      fun _ hs'' => hs''.endHandler) (keeps_bind keeps_trapIf fun _ => keeps_modify fun _ hs'' => hs''.modMe))

theorem outcomeOk_execEret {s : State} {a : Reg} (h : s.memoryOk) : outcomeOk (execEret a s) :=
  outcomeOk_runClose keeps_eret h

theorem outcomeOk_execEretRestore {s : State} {a : Reg} (h : s.memoryOk) : outcomeOk (execEretRestore a s) :=
  outcomeOk_runClose keeps_eret h

end Sys2Proof.Machine
end

section
set_option Elab.async false
/-! PROOFS. Memory keeps its form: the TLBs. -/

namespace Sys2Proof.Machine

theorem State.memoryOk.dropTlb {s : State} {h : Nat} {p : TlbE → Bool} (hs : s.memoryOk) : (s.dropTlb h p).memoryOk :=
  hs.modHive.foldl fun _ _ ht => ht.modTile.ite ht

theorem State.memoryOk.install {s : State} {h : Nat} {e : TlbE} (hs : s.memoryOk) : (s.install h e).memoryOk := by
  unfold State.install
  extract_lets u v w
  have hv : v.memoryOk := hs.setCompanion.dropTlb
  have hw : w.memoryOk := by
    unfold w
    split
    · exact hv.dropTlb.ite hv
    · exact hv
  exact hw.modHive

theorem State.memoryOk.unpark {s : State} {e : TlbE} (h : s.memoryOk) : (s.unpark e).memoryOk := by
  unfold State.unpark
  extract_lets -underBinder hit free u v
  have hu : u.memoryOk := h
  clear_value u
  have hv : v.memoryOk := State.memoryOk.foldl hu fun w p hw => State.memoryOk.ite hw.modCore hw
  clear_value v
  exact State.memoryOk.foldl hv fun w p hw => State.memoryOk.ite hw.modCtx hw

theorem State.memoryOk.answerPlacement {s : State} {m : Miss} {code : Nat} (h : s.memoryOk) : (s.answerPlacement m code).memoryOk := by
  unfold State.answerPlacement
  split
  · exact h
  · refine State.memoryOk.ite h.modLaunch ?_
    split
    · dsimp only
      split
      · exact h.modLaunch.taskEnded
      · exact h.modLaunch.taskEnded.addRecord
    · dsimp only
      split
      · exact h.modLaunch.taskEnded
      · exact h.modLaunch.taskEnded.addRecord

theorem State.memoryOk.answerMiss {s : State} {h : Nat} {m : Miss} {e : TlbE} (hs : s.memoryOk) : (s.answerMiss h m e).memoryOk :=
  hs.modHive.ite (hs.modHive.answerPlacement.ite (hs.modHive.modCtx.ite hs.modHive))

theorem State.memoryOk.tlbWrite {s : State} {h : Nat} {tile : Option Nat} {m : Option Miss} {e : TlbE} (hs : s.memoryOk) :
    (s.tlbWrite h tile m e).memoryOk := by
  unfold State.tlbWrite
  split
  · refine State.memoryOk.answerMiss ?_
    refine State.memoryOk.ite ?_ hs
    split
    · exact hs.install.modTile.fillTile
    · exact hs.install
  · refine State.memoryOk.ite ?_ ?_
    · refine State.memoryOk.unpark ?_
      refine State.memoryOk.ite ?_ hs
      split
      · exact hs.install.modTile.fillTile
      · exact hs.install
    · refine State.memoryOk.ite ?_ hs
      split
      · exact hs.install.modTile.fillTile
      · exact hs.install

theorem outcomeOk_execTlbw {s : State} {a b : Reg} (h : s.memoryOk) : outcomeOk (execTlbw a b s) := by
  unfold execTlbw
  refine outcomeOk_run ?_ h
  refine keeps_bind keeps_noPrefix fun x => ?_
  refine keeps_get fun s' hs' => ?_
  refine keeps_bind keeps_trapIf fun x' => ?_
  refine keeps_bind keeps_gate fun x' => ?_
  refine keeps_bind keeps_readG fun p => ?_
  refine keeps_bind keeps_readG fun y => ?_
  refine keeps_bind keeps_trapIf fun x' => ?_
  refine keeps_get fun s' hs' => ?_
  split
  · split
    · exact keeps_bind keeps_trap fun _ => keeps_bind keeps_trapIf fun _ => keeps_bind keeps_trapIf fun _ => keeps_bind (keeps_modify
          fun _ hs => hs.tlbWrite) fun _ => keeps_next
    · exact keeps_bind keeps_trapIf fun _ => keeps_bind keeps_trapIf fun _ => keeps_bind (keeps_modify fun _ hs => hs.tlbWrite) fun _ =>
          keeps_next
  · split
    · exact keeps_bind keeps_trap fun _ => keeps_bind keeps_trapIf fun _ => keeps_bind keeps_trapIf fun _ => keeps_bind (keeps_modify
          fun _ hs => hs.tlbWrite) fun _ => keeps_next
    · exact keeps_bind keeps_trapIf fun _ => keeps_bind keeps_trapIf fun _ => keeps_bind (keeps_modify fun _ hs => hs.tlbWrite) fun _ =>
          keeps_next

theorem State.memoryOk.missRecord {s : State} {h : Nat} (hs : s.memoryOk) : (s.missRecord h).memoryOk := by
  unfold State.missRecord
  dsimp only
  split
  · exact hs
  · exact hs.ite ((State.memoryOk_setTmBytes _ _ _ _ hs).modHive.fillArrive)

theorem outcomeOk_execTlbMissRecord {s : State} {hive : Nat} (h : s.memoryOk) : outcomeOk (execTlbMissRecord hive s) :=
  h.missRecord

theorem State.memoryOk.invCancel {s : State} {cid kind size vf : Nat} {a : Word} (h : s.memoryOk) :
    (s.invCancel cid kind size vf a).memoryOk :=
  h.foldl fun _ _ ht => ht.modHive

theorem State.memoryOk.invApply {s : State} {tile kind size vf addr : Nat} (h : s.memoryOk) :
    (s.invApply tile kind size vf addr).memoryOk :=
  h.foldl fun _ _ ht => ht.dropTlb.ite ht

theorem State.memoryOk.setShoots {s : State} {x : List Shoot} (h : s.memoryOk) : ({ s with shoots := x } : State).memoryOk := h

theorem keeps_tlbinv {a b : Reg} : keeps (tlbinv a b) := by
  unfold tlbinv
  refine keeps_bind keeps_noPrefix fun _ => keeps_get fun s hs => keeps_bind keeps_trapIf fun _ => keeps_bind keeps_gate fun _ =>
    keeps_bind keeps_readG fun x => keeps_bind keeps_readG fun y => ?_
  refine keeps_bind keeps_trapIf fun _ => keeps_get fun u hu => keeps_bind keeps_trapIf fun _ => keeps_bind keeps_trapIf fun _ =>
    keeps_bind keeps_trapIf fun _ => ?_
  extract_lets -underBinder vf addr
  split
  · refine keeps_bind (keeps_set ?_) fun _ => keeps_waitFor
    exact State.memoryOk.setShoots (State.memoryOk.invCancel (State.memoryOk.dropShoots hu))
  · exact keeps_ite keeps_waitFor (keeps_bind (keeps_set hu) fun _ => keeps_next)

theorem outcomeOk_execTlbinvPage {s : State} {a b : Reg} (h : s.memoryOk) : outcomeOk (execTlbinvPage a b s) :=
  outcomeOk_runClose keeps_tlbinv h

theorem outcomeOk_execTlbinvVf {s : State} {a b : Reg} (h : s.memoryOk) : outcomeOk (execTlbinvVf a b s) :=
  outcomeOk_runClose keeps_tlbinv h

theorem outcomeOk_execTlbinvGpa {s : State} {a b : Reg} (h : s.memoryOk) : outcomeOk (execTlbinvGpa a b s) :=
  outcomeOk_runClose keeps_tlbinv h

theorem outcomeOk_execTlbinvAll {s : State} {a b : Reg} (h : s.memoryOk) : outcomeOk (execTlbinvAll a b s) :=
  outcomeOk_runClose keeps_tlbinv h

theorem State.memoryOk.shootDone {s : State} {c : Nat} (h : s.memoryOk) : (s.shootDone c).memoryOk := by
  unfold State.shootDone
  split
  · exact h
  · exact h.ite h.invApply.congr

theorem outcomeOk_execShootdownComplete {s : State} {cid : Nat} (h : s.memoryOk) : outcomeOk (execShootdownComplete cid s) :=
  h.shootDone

theorem outcomeOk_execPeerShootdownRequest {s : State} {kind size vf addr : Nat} (h : s.memoryOk) : outcomeOk
    (execPeerShootdownRequest kind size vf addr s) :=
  h.invCancel.foldl fun _ _ ht => ht.dropTlb

theorem outcomeOk_execTlbEntryEviction {s : State} {hiveLevel : Bool} {place k : Nat} (h : s.memoryOk) : outcomeOk
    (execTlbEntryEviction hiveLevel place k s) := by
  unfold execTlbEntryEviction
  split
  · split
    · exact h.dropTlb
    · exact h
  · exact h.modTile

end Sys2Proof.Machine
end

section
set_option Elab.async false
/-! PROOFS. Memory keeps its form: territory and jobs. -/

namespace Sys2Proof.Machine

theorem State.memoryOk.forceSave {s : State} {c : Nat} (h : s.memoryOk) : (s.forceSave c).memoryOk :=
  h

theorem State.memoryOk.tellLoss {s : State} {c : Nat} (h : s.memoryOk) : (s.tellLoss c).memoryOk :=
  h.ite (h.forceSave.ite h.modCtx)

theorem State.memoryOk.beginMove {s : State} {d : Decision} (h : s.memoryOk) : (s.beginMove d).memoryOk :=
  h.handBack.modTile.foldl fun _ _ ht => ht.tellLoss

theorem State.memoryOk.waggle {s : State} (h : s.memoryOk) : s.waggle.memoryOk :=
  ((h.foldl fun _ _ ht => ht.modTile).foldl fun _ _ ht => ht.modTile).foldl fun _ _ ht => ht.beginMove

theorem outcomeOk_execWaggleBoundary {s : State} (h : s.memoryOk) : outcomeOk (execWaggleBoundary s) :=
  h.waggle

theorem State.memoryOk.expireCede {s : State} {t : Nat} (h : s.memoryOk) : (s.expireCede t).memoryOk := by
  unfold State.expireCede
  split
  · exact h.modTile.ite h
  · exact h

theorem outcomeOk_execCedeRequestExpiry {s : State} {tile : Nat} (h : s.memoryOk) : outcomeOk (execCedeRequestExpiry tile s) :=
  h.expireCede

theorem State.memoryOk.expireGrace {s : State} {t : Nat} (h : s.memoryOk) : (s.expireGrace t).memoryOk := by
  unfold State.expireGrace
  split
  · exact h
  · exact h.ite ((h.foldl fun _ _ ht => ht.forceSave).foldl fun _ _ ht => ht.abortTask)

theorem outcomeOk_execLossGraceExpiry {s : State} {tile : Nat} (h : s.memoryOk) : outcomeOk (execLossGraceExpiry tile s) :=
  h.expireGrace

theorem State.memoryOk.refuseRequests {s : State} {t : Nat} (h : s.memoryOk) : (s.refuseRequests t).memoryOk :=
  h

theorem State.memoryOk.clearTile {s : State} {t : Nat} (h : s.memoryOk) : (s.clearTile t).memoryOk := by
  unfold State.clearTile
  extract_lets -underBinder kept u v w
  have hu : u.memoryOk := ⟨h.1, Memory.wf_filter _ h.2⟩
  clear_value u
  have hv : v.memoryOk := State.memoryOk.foldl hu fun _ _ hx => hx.disown
  clear_value v
  have hw : w.memoryOk := hv.modTile
  clear_value w
  exact State.memoryOk.foldl hw fun _ _ hx => hx.modCore

theorem State.memoryOk.dropL1 {s : State} {t : Nat} (h : s.memoryOk) : (s.dropL1 t).memoryOk :=
  h

theorem State.memoryOk.writeDesc {s : State} {b : Comb} {p : AgentPa} (h : s.memoryOk) : (s.writeDesc b p).memoryOk := by
  unfold State.writeDesc
  split
  · exact h.writeBlock
  · exact h

theorem State.memoryOk.tellGain {s : State} {b : Comb} {via t : Nat} (h : s.memoryOk) : (s.tellGain b via t).memoryOk := by
  unfold State.tellGain
  split
  · exact h.modCtx
  · exact h.modComb

theorem State.memoryOk.jobStatus {s : State} {y j n : Nat} (h : s.memoryOk) : (s.jobStatus y j n).memoryOk :=
  h.writeBlock

theorem State.memoryOk.passTiles {s : State} {y x : Comb} {g : List Nat} {m : Move} (h : s.memoryOk) : (s.passTiles y x g m).memoryOk := by
  unfold State.passTiles
  split
  next t heq =>
    have ht : t.memoryOk := h.descPa.subst heq
    refine State.memoryOk.congr ?_
    exact ht
  next t _ heq =>
    have ht : t.memoryOk := h.descPa.subst heq
    split
    next t heq =>
      have ht : t.memoryOk := ht.descPa.subst heq
      refine State.memoryOk.congr ?_
      exact ht
    next t _ heq =>
      have ht : t.memoryOk := ht.descPa.subst heq
      split
      · refine State.memoryOk.congr ?_
        exact ht
      · split
        · split
          · dsimp only
            split
            · split
              · refine State.memoryOk.congr ?_
                exact (((ht.foldl fun _ _ ht =>
                    (State.memoryOk_releaseTile _ ht).dropL1.clearTile).modComb.modComb.writeDesc.writeDesc.foldl
                    fun _ _ ht => ht.modTile).jobStatus.foldl fun _ _ ht => ht.tellGain).congr
              · refine State.memoryOk.congr ?_
                exact (((ht.foldl fun _ _ ht =>
                    (State.memoryOk_releaseTile _ ht).dropL1.clearTile).modComb.modComb.writeDesc.writeDesc.foldl
                    fun _ _ ht => ht.modTile).jobStatus.foldl fun _ _ ht => ht.tellGain).congr
            · split
              · refine State.memoryOk.congr ?_
                exact ((ht.foldl fun _ _ ht =>
                    (State.memoryOk_releaseTile _ ht).dropL1.clearTile).modComb.modComb.writeDesc.writeDesc.foldl
                    fun _ _ ht => ht.modTile).jobStatus.foldl fun _ _ ht => ht.tellGain
              · refine State.memoryOk.congr ?_
                exact ((ht.foldl fun _ _ ht =>
                    (State.memoryOk_releaseTile _ ht).dropL1.clearTile).modComb.modComb.writeDesc.writeDesc.foldl
                    fun _ _ ht => ht.modTile).jobStatus.foldl fun _ _ ht => ht.tellGain
          · dsimp only
            split
            · refine State.memoryOk.congr ?_
              exact (((ht.foldl fun _ _ ht => (State.memoryOk_releaseTile _ ht).dropL1.clearTile).modComb.modComb.writeDesc.writeDesc.foldl
                  fun _ _ ht => ht.modTile).foldl fun _ _ ht => ht.tellGain).congr
            · refine State.memoryOk.congr ?_
              exact ((ht.foldl fun _ _ ht => (State.memoryOk_releaseTile _ ht).dropL1.clearTile).modComb.modComb.writeDesc.writeDesc.foldl
                  fun _ _ ht => ht.modTile).foldl fun _ _ ht => ht.tellGain
        · split
          · dsimp only
            split
            · split
              · refine State.memoryOk.congr ?_
                exact (((ht.foldl fun _ _ ht =>
                    (State.memoryOk_releaseTile _ ht).dropL1.clearTile).modComb.modComb.writeDesc.writeDesc.foldl
                    fun _ _ ht => ht.modTile).jobStatus.foldl fun _ _ ht => ht.tellGain).congr
              · refine State.memoryOk.congr ?_
                exact (((ht.foldl fun _ _ ht =>
                    (State.memoryOk_releaseTile _ ht).dropL1.clearTile).modComb.modComb.writeDesc.writeDesc.foldl
                    fun _ _ ht => ht.modTile).jobStatus.foldl fun _ _ ht => ht.tellGain).congr
            · split
              · refine State.memoryOk.congr ?_
                exact ((ht.foldl fun _ _ ht =>
                    (State.memoryOk_releaseTile _ ht).dropL1.clearTile).modComb.modComb.writeDesc.writeDesc.foldl
                    fun _ _ ht => ht.modTile).jobStatus.foldl fun _ _ ht => ht.tellGain
              · refine State.memoryOk.congr ?_
                exact ((ht.foldl fun _ _ ht =>
                    (State.memoryOk_releaseTile _ ht).dropL1.clearTile).modComb.modComb.writeDesc.writeDesc.foldl
                    fun _ _ ht => ht.modTile).jobStatus.foldl fun _ _ ht => ht.tellGain
          · dsimp only
            split
            · refine State.memoryOk.congr ?_
              exact (((ht.foldl fun _ _ ht => (State.memoryOk_releaseTile _ ht).dropL1.clearTile).modComb.modComb.writeDesc.writeDesc.foldl
                  fun _ _ ht => ht.modTile).foldl fun _ _ ht => ht.tellGain).congr
            · refine State.memoryOk.congr ?_
              exact ((ht.foldl fun _ _ ht => (State.memoryOk_releaseTile _ ht).dropL1.clearTile).modComb.modComb.writeDesc.writeDesc.foldl
                  fun _ _ ht => ht.modTile).foldl fun _ _ ht => ht.tellGain

theorem State.memoryOk.passOrWait {s : State} {y x : Comb} {g : List Nat} {m : Move} (h : s.memoryOk) : (s.passOrWait y x g m).memoryOk :=
  h.passTiles.ite (h.ite (h.foldl fun _ _ ht => ht.modTile))

theorem State.memoryOk.handover {s : State} {t : Nat} (h : s.memoryOk) : (s.handover t).memoryOk := by
  unfold State.handover
  split
  · split
    · exact h.modTile
    · exact (h.ite (h.foldl fun _ _ ht => ht.refuseRequests)).ite (h.passOrWait.ite h)
  · exact h

theorem outcomeOk_execHandoverDrainComplete {s : State} {tile : Nat} (h : s.memoryOk) : outcomeOk (execHandoverDrainComplete tile s) :=
  h.handover

theorem keeps_territory {d a : Reg} {f : Word → State → Word × State} (hf : ∀ x s, s.memoryOk → (f x s).2.memoryOk) :
    keeps (territory d a f) := by
  unfold territory
  exact keeps_bind keeps_noPrefix fun _ => keeps_get fun _ _ => keeps_bind keeps_trapIf fun _ => keeps_bind keeps_gate fun _ =>
    keeps_bind keeps_readG fun x => keeps_get fun s hs => keeps_bind (keeps_set (hf x s hs)) fun _ => keeps_bind keeps_writeG fun _ =>
        keeps_next

theorem State.memoryOk.chold {s : State} {x : Word} (h : s.memoryOk) : (s.chold x).2.memoryOk := by
  unfold State.chold
  split
  · exact h
  · exact h.modComb

theorem outcomeOk_execChold {s : State} {d a : Reg} (h : s.memoryOk) : outcomeOk (execChold d a s) :=
  outcomeOk_run (keeps_territory fun _ _ hs => hs.chold) h

theorem State.memoryOk.cfloor {s : State} {x : Word} (h : s.memoryOk) : (s.cfloor x).2.memoryOk := by
  unfold State.cfloor
  split
  · exact h
  · exact h.modComb

theorem outcomeOk_execCfloor {s : State} {d a : Reg} (h : s.memoryOk) : outcomeOk (execCfloor d a s) :=
  outcomeOk_run (keeps_territory fun _ _ hs => hs.cfloor) h

theorem State.memoryOk.cload {s : State} {x : Word} (h : s.memoryOk) : (s.cload x).2.memoryOk :=
  h

theorem outcomeOk_execCload {s : State} {d a : Reg} (h : s.memoryOk) : outcomeOk (execCload d a s) :=
  outcomeOk_run (keeps_territory fun _ _ hs => hs.cload) h

theorem State.memoryOk.ccede {s : State} {x : Word} (h : s.memoryOk) : (s.ccede x).2.memoryOk := by
  unfold State.ccede
  split
  · exact h
  · exact State.memoryOk.ite_snd h (State.memoryOk.ite_snd h (State.memoryOk.ite_snd h (State.memoryOk.ite_snd h
        (State.memoryOk.ite_snd h h.modTile))))

theorem outcomeOk_execCcede {s : State} {d a : Reg} (h : s.memoryOk) : outcomeOk (execCcede d a s) :=
  outcomeOk_run (keeps_territory fun _ _ hs => hs.ccede) h

theorem State.memoryOk.jobGo {s : State} {y j : Nat} (h : s.memoryOk) : (s.jobGo y j).memoryOk := by
  unfold State.jobGo
  extract_lets ts
  split
  · exact h.jobStatus
  · split
    · exact h.jobStatus
    · split
      · exact h.jobStatus
      · extract_lets rest ring
        split
        · exact h.jobStatus
        · split
          · exact h.jobStatus
          · exact State.memoryOk.foldl h fun _ _ hu => hu.beginMove

theorem State.memoryOk.request {s : State} {y : Nat} {i : Instr} {f : State → State} (h : s.memoryOk)
    (hf : ∀ u, u.memoryOk → (f u).memoryOk) : (s.request y i f).memoryOk := by
  unfold State.request
  exact (hf s h).ite (h.ite h.later)

theorem outcomeOk_execJobGo {s : State} {v j : Nat} (h : s.memoryOk) : outcomeOk (execJobGo v j s) :=
  h.request fun _ hu => hu.jobGo

theorem State.memoryOk.killJobSaved {s : State} {y j : Nat} (h : s.memoryOk) : (s.killJobSaved y j).memoryOk :=
  h.foldl fun _ _ ht => ht.killSaved

theorem State.memoryOk.redirect {s : State} {y j x : Nat} (h : s.memoryOk) : (s.redirect y j x).memoryOk :=
  h.foldl fun _ _ ht => ht.modTile.ite ht

theorem State.memoryOk.jobEnd {s : State} {y j : Nat} (h : s.memoryOk) : (s.jobEnd y j).memoryOk := by
  unfold State.jobEnd
  split
  · exact h
  · split
    · exact h.jobStatus
    · exact (h.cancelJob.foldl fun _ _ ht => ht.killCtx.ite ht).killJobSaved.redirect.foldl fun _ _ ht => ht.beginMove

theorem outcomeOk_execJobEnd {s : State} {v j : Nat} (h : s.memoryOk) : outcomeOk (execJobEnd v j s) :=
  h.jobEnd

end Sys2Proof.Machine
end

section
set_option Elab.async false
/-! PROOFS. Memory keeps its form: traffic between devices. -/

namespace Sys2Proof.Machine

theorem State.memoryOk.homeAccess {s : State} {r : HomeReq} (h : s.memoryOk) : (s.homeAccess r).memoryOk := by
  unfold State.homeAccess
  refine State.memoryOk.ite h ?_
  refine State.memoryOk.ite h ?_
  split
  · refine State.memoryOk.ite h ((h.ite (State.memoryOk_fillL2 _ _ h)).congr)
  · exact (State.memoryOk_homeWrite _ _ _ _ h).congr
  · refine State.memoryOk.ite h ?_
    split
    next t heq =>
      have ht : t.memoryOk := State.memoryOk.xadd h heq
      refine State.memoryOk.congr ?_
      exact ht
    · exact h
  · exact h.ite ((State.memoryOk_homeWrite _ _ _ _ h).congr)

theorem outcomeOk_execHomeAccess {s : State} {req : HomeReq} (h : s.memoryOk) : outcomeOk (execHomeAccess req s) :=
  h.homeAccess

theorem State.memoryOk.leaveL1 {s : State} {t l : Nat} (h : s.memoryOk) : (s.leaveL1 t l).memoryOk :=
  (State.memoryOk_writeBack _ _ h).ite h

theorem outcomeOk_execL1Writeback {s : State} {tile line : Nat} (h : s.memoryOk) : outcomeOk (execL1Writeback tile line s) :=
  h.leaveL1

theorem outcomeOk_execWriteCombineDrain {s : State} {tile : Nat} (h : s.memoryOk) : outcomeOk (execWriteCombineDrain tile s) :=
  State.memoryOk_drainWcb _ h

theorem outcomeOk_execL2Eviction {s : State} {line : Nat} (h : s.memoryOk) : outcomeOk (execL2Eviction line s) :=
  State.memoryOk_evictL2 _ h

theorem State.memoryOk.evictL1 {s : State} {t l : Nat} (h : s.memoryOk) : (s.evictL1 t l).memoryOk :=
  (h.modTile.ite h).ite ((State.memoryOk_fillL2 _ _ ((h.modTile.ite h).draw)).modTile.ite ((h.modTile.ite h).draw.modTile))

theorem outcomeOk_execL1LineEviction {s : State} {tile line : Nat} (h : s.memoryOk) : outcomeOk (execL1LineEviction tile line s) :=
  h.evictL1

theorem State.memoryOk.tagDrained {s : State} {tag : Nat} (h : s.memoryOk) : (s.tagDrained tag).memoryOk :=
  h.ite ((h.foldl fun _ _ ht => ht.modTile.ite ht).congr)

theorem outcomeOk_execTagDrainComplete {s : State} {tag : Nat} (h : s.memoryOk) : outcomeOk (execTagDrainComplete tag s) :=
  h.tagDrained

theorem State.memoryOk.applyCalendar {s : State} {p : Nat} (h : s.memoryOk) : (s.applyCalendar p).memoryOk := by
  unfold State.applyCalendar
  split
  · exact h
  · exact h.ite h

theorem outcomeOk_execCalendarApply {s : State} {port : Nat} (h : s.memoryOk) : outcomeOk (execCalendarApply port s) :=
  h.applyCalendar

theorem State.memoryOk.applyRoute {s : State} {d : Nat} (h : s.memoryOk) : (s.applyRoute d).memoryOk :=
  h.ite h

theorem outcomeOk_execRouteEntryApply {s : State} {dev : Nat} (h : s.memoryOk) : outcomeOk (execRouteEntryApply dev s) :=
  h.applyRoute

theorem State.memoryOk.countDrop {s : State} {v : Nat} (h : s.memoryOk) : (s.countDrop v).memoryOk := by
  unfold State.countDrop
  exact h.ite h.setMemWord

theorem State.memoryOk.notePost {s : State} {w : PcieWrite} (h : s.memoryOk) : (s.notePost w).memoryOk :=
  h

theorem State.memoryOk.overflowWindow {s : State} {x : LandWin} (h : s.memoryOk) : (s.overflowWindow x).memoryOk :=
  h.setFill

theorem State.memoryOk.postedWrite {s : State} {w : PcieWrite} (h : s.memoryOk) : (s.postedWrite w).memoryOk :=
  h.countDrop.ite (h.countDrop.ite (h.overflowWindow.ite ((State.memoryOk_setTmBytes _ _ _ _ h).fillArrive.raiseLate.ite
      ((State.memoryOk_setTmBytes _ _ _ _ h).fillArrive))))

theorem outcomeOk_execPcieUnsupportedRequest {s : State} {peer : Bool} {tag : Nat} (h : s.memoryOk) : outcomeOk
    (execPcieUnsupportedRequest peer tag s) :=
  h

theorem State.memoryOk.countAcked {s : State} {r : Remote} (h : s.memoryOk) : (s.countAcked r).memoryOk := by
  unfold State.countAcked
  split
  · exact h.countFill
  · exact h

theorem State.memoryOk.answered {s : State} {r : Remote} (h : s.memoryOk) : (s.answered r).memoryOk := by
  unfold State.answered
  split
  · refine State.memoryOk.countAcked h
  · exact h

theorem State.memoryOk.pcieDone {s : State} {id : Nat} (h : s.memoryOk) : (s.pcieDone id).memoryOk := by
  unfold State.pcieDone
  split
  · exact h
  · exact (State.memoryOk_setBytes _ _ h).answered.ite ((State.memoryOk_setBytes _ _ h.drawBytes).answered)

theorem outcomeOk_execPcieCompletion {s : State} {id : Nat} (h : s.memoryOk) : outcomeOk (execPcieCompletion id s) :=
  h.pcieDone

theorem outcomeOk_execMsixPost {s : State} {w : Word} (h : s.memoryOk) : outcomeOk (execMsixPost w s) :=
  h

theorem State.memoryOk.portDown {s : State} {p : Nat} (h : s.memoryOk) : (s.portDown p).memoryOk :=
  h.ite (State.memoryOk_setByte _ _ h)

theorem outcomeOk_execMilayPortDown {s : State} {port : Nat} (h : s.memoryOk) : outcomeOk (execMilayPortDown port s) :=
  h.portDown

theorem State.memoryOk.portUp {s : State} {p : Nat} (h : s.memoryOk) : (s.portUp p).memoryOk :=
  h.ite (State.memoryOk_setByte _ _ h)

theorem outcomeOk_execMilayPortTrained {s : State} {port : Nat} (h : s.memoryOk) : outcomeOk (execMilayPortTrained port s) :=
  h.portUp

theorem State.memoryOk.elsewhere {s : State} {pa n : Nat} (h : s.memoryOk) : (s.elsewhere pa n).memoryOk :=
  (State.memoryOk_fillL2 _ _ (State.memoryOk_setBytes _ _ h.draw.draw.drawBytes)).setL2.ite h.draw

theorem State.memoryOk.fillAhead {s : State} {t : Nat} (h : s.memoryOk) : (s.fillAhead t).memoryOk := by
  unfold State.fillAhead
  split
  · exact h
  · exact h.modTile.ite (h.modTile.fillL1.ite h)

theorem State.memoryOk.milayDone {s : State} {id : Nat} (h : s.memoryOk) : (s.milayDone id).memoryOk := by
  unfold State.milayDone
  split
  · exact h
  · refine State.memoryOk.ite h.answered ?_
    split
    · exact h.elsewhere.answered
    · exact h.elsewhere.congr.fillL1.ite h.elsewhere.congr.modTile

theorem outcomeOk_execMilayAcknowledgement {s : State} {id : Nat} (h : s.memoryOk) : outcomeOk (execMilayAcknowledgement id s) :=
  h.milayDone

theorem State.memoryOk.writeError {s : State} {r : Remote} (h : s.memoryOk) : (s.writeError r).memoryOk := by
  unfold State.writeError
  split
  · exact h.raiseLate
  · split
    · exact h.closeWindows.unwait.deliver
    · refine State.memoryOk.ite h h

theorem State.memoryOk.dropCompanion {s : State} {w : Nat} (h : s.memoryOk) : (s.dropCompanion w).memoryOk :=
  h.foldl fun _ _ ht => ht.dropTlb

theorem State.memoryOk.milayTimeout {s : State} {id : Nat} (h : s.memoryOk) : (s.milayTimeout id).memoryOk := by
  unfold State.milayTimeout
  split
  · exact h
  · split
    · exact h
    · split
      · refine State.memoryOk.dropCompanion h
      · split
        · refine State.memoryOk.writeError h
        · refine State.memoryOk.ite h h

theorem outcomeOk_execMilayAccessTimeout {s : State} {id : Nat} (h : s.memoryOk) : outcomeOk (execMilayAccessTimeout id s) :=
  h.milayTimeout

end Sys2Proof.Machine
end

section
set_option Elab.async false
/-! PROOFS. Memory keeps its form: the tenants. -/

namespace Sys2Proof.Machine

theorem State.memoryOk.setRecord {s : State} {v st status : Nat} (h : s.memoryOk) : (s.setRecord v st status).memoryOk :=
  h.setMemWord

theorem State.memoryOk.setStatus {s : State} {v status : Nat} (h : s.memoryOk) : (s.setStatus v status).memoryOk :=
  h.setRecord

theorem State.memoryOk.endCommand {s : State} {v st status : Nat} (h : s.memoryOk) : (s.endCommand v st status).memoryOk :=
  h.setRecord.modTenant

theorem State.memoryOk.command {s : State} {v code : Nat} {states : List Nat} {start go : State → State} (h : s.memoryOk)
    (hs : ∀ u, u.memoryOk → (start u).memoryOk) (hg : ∀ u, u.memoryOk → (go u).memoryOk) :
    (s.command v code states start go).memoryOk := by
  unfold State.command
  exact (hg s h).ite (h.setStatus.ite (h.setStatus.ite (hs s h)))

theorem State.memoryOk.newKey {s : State} {i : Nat} (h : s.memoryOk) : (s.newKey i).memoryOk :=
  h

theorem State.memoryOk.formYard {s : State} {v : Nat} (h : s.memoryOk) : (s.formYard v).memoryOk :=
  h

theorem State.memoryOk.goCreate {s : State} {v : Nat} (h : s.memoryOk) : (s.goCreate v).memoryOk :=
  h.ite h.formYard.endCommand

theorem State.memoryOk.tenantCreate {s : State} {v : Nat} (h : s.memoryOk) : (s.tenantCreate v).memoryOk := by
  unfold State.tenantCreate
  refine State.memoryOk.command h (fun u hu => ?_) fun u hu => hu.goCreate
  split
  · exact hu.setStatus
  · exact hu.modTenant.goCreate

theorem outcomeOk_execTenantCreate {s : State} {v : Nat} (h : s.memoryOk) : outcomeOk (execTenantCreate v s) :=
  h.tenantCreate

theorem State.memoryOk.tenantStart {s : State} {v : Nat} (h : s.memoryOk) : (s.tenantStart v).memoryOk :=
  h.command (fun _ hu => hu.endCommand) fun _ hu => hu

theorem outcomeOk_execTenantStart {s : State} {v : Nat} (h : s.memoryOk) : outcomeOk (execTenantStart v s) :=
  h.tenantStart

theorem outcomeOk_execTenantReservedCommand {s : State} {v code : Nat} (h : s.memoryOk) : outcomeOk (execTenantReservedCommand v code s) :=
  h.setStatus.ite h

theorem State.memoryOk.writeTileBlock {s : State} {t blk : Nat} (h : s.memoryOk) : (s.writeTileBlock t blk).memoryOk :=
  State.memoryOk_storeSpan _ _ _ h.drawBytes

theorem State.memoryOk.writeDispatcher {s : State} {pa : Nat} (h : s.memoryOk) : (s.writeDispatcher pa).memoryOk :=
  State.memoryOk_storeSpan _ _ _ h.drawBytes

theorem State.memoryOk.setImages {s : State} {x : List YardImage} (h : s.memoryOk) : ({ s with images := x } : State).memoryOk := h

theorem State.memoryOk.writeImage {s : State} {v : Nat} (h : s.memoryOk) : (s.writeImage v).memoryOk := by
  unfold State.writeImage
  extract_lets -underBinder ts u im w x y
  have hu : u.memoryOk := State.memoryOk.foldl h fun _ t hz => State.memoryOk.dropL1 (State.memoryOk_releaseTile t hz)
  clear_value u
  have hw : w.memoryOk := State.memoryOk.foldl hu fun _ _ hz => hz.writeTileBlock
  clear_value w
  have hx : x.memoryOk := State.memoryOk_setBytes _ _ (State.memoryOk_setBytes _ _ hw.writeDispatcher)
  clear_value x
  have hy : y.memoryOk := State.memoryOk.setImages hx
  clear_value y
  exact State.memoryOk.foldl hy fun _ _ hz => State.memoryOk.ite hz.setCtx.modCore hz

theorem State.memoryOk.askYard {s : State} {v : Nat} (h : s.memoryOk) : (s.askYard v).memoryOk :=
  h.foldl fun _ _ ht => ht.modCtx.ite ht

theorem State.memoryOk.disarm {s : State} {v : Nat} (h : s.memoryOk) : (s.disarm v).memoryOk :=
  h

theorem State.memoryOk.beginYardSave {s : State} {v code : Nat} (h : s.memoryOk) : (s.beginYardSave v code).memoryOk :=
  h.setRecord.modTenant.disarm.askYard

theorem State.memoryOk.goSave {s : State} {v : Nat} (h : s.memoryOk) : (s.goSave v).memoryOk :=
  h.writeImage.endCommand.ite h.askYard

theorem State.memoryOk.tenantSave {s : State} {v : Nat} (h : s.memoryOk) : (s.tenantSave v).memoryOk :=
  h.command (fun _ hu => hu.beginYardSave.goSave) fun _ hu => hu.goSave

theorem outcomeOk_execTenantSave {s : State} {v : Nat} (h : s.memoryOk) : outcomeOk (execTenantSave v s) :=
  h.tenantSave

theorem State.memoryOk.loadBlock {s : State} {t blk : Nat} (h : s.memoryOk) : (s.loadBlock t blk).memoryOk := by
  unfold State.loadBlock
  extract_lets tm words acc u
  have hu : u.memoryOk := ⟨h.1, Memory.wf_putCells _ (Memory.wf_filter _ h.2)⟩
  exact hu.modTile

theorem State.memoryOk.loadImage {s : State} {v : Nat} {i : YardImage} (h : s.memoryOk) : (s.loadImage v i).memoryOk :=
  h

theorem State.memoryOk.restart {s : State} {v : Nat} (h : s.memoryOk) : (s.restart v).memoryOk := by
  unfold State.restart
  refine State.memoryOk.foldl h fun t p ht => ?_
  extract_lets bs off
  have hoff (u : State) (hu : u.memoryOk) : (off u).memoryOk := hu.modTenant
  split
  · exact hoff t ht
  · have hr : triedOk (t.restore (cidCore p.1) bs) := ht.restore
    split
    next u _ heq =>
      rw [heq] at hr
      exact hoff u (hr.2 u rfl)
    next heq =>
      rw [heq] at hr
      exact hr.1

theorem State.memoryOk.goResume {s : State} {v : Nat} (h : s.memoryOk) : (s.goResume v).memoryOk :=
  h.restart.endCommand.ite h.restart

theorem State.memoryOk.arrivedTodo {s : State} {v : Nat} (h : s.memoryOk) : (s.arrivedTodo v).2.memoryOk :=
  h

theorem State.memoryOk.beginResume {s : State} {v code : Nat} (h : s.memoryOk) : (s.beginResume v code).memoryOk := by
  unfold State.beginResume
  refine State.memoryOk.modTenant ?_
  refine State.memoryOk.setRecord ?_
  refine State.memoryOk.foldl ?_ fun _ _ ht => ht.loadBlock
  split
  · exact h.loadImage
  · exact h.arrivedTodo

theorem State.memoryOk.tenantResume {s : State} {v : Nat} (h : s.memoryOk) : (s.tenantResume v).memoryOk := by
  unfold State.tenantResume
  refine State.memoryOk.command h (fun u hu => ?_) fun u hu => hu.goResume
  split
  · exact hu.setStatus
  · exact hu.beginResume.goResume

theorem outcomeOk_execTenantResume {s : State} {v : Nat} (h : s.memoryOk) : outcomeOk (execTenantResume v s) :=
  h.tenantResume

theorem State.memoryOk.queueEvent {s : State} {bs : List Byte} (h : s.memoryOk) : (s.queueEvent bs).memoryOk :=
  h

theorem State.memoryOk.endTeardown {s : State} {v : Nat} (h : s.memoryOk) : (s.endTeardown v).memoryOk := by
  unfold State.endTeardown
  extract_lets -underBinder keys u lines w x flr y
  have hu : u.memoryOk := State.memoryOk.foldl h fun _ _ hz => hz.dropL1.clearTile.modTile
  clear_value u
  have hw : w.memoryOk := State.memoryOk.foldl hu fun _ l hz => State.memoryOk_flushSums (l * 128) v hz
  clear_value w
  have hx : x.memoryOk := hw
  clear_value x
  have hy : y.memoryOk := hx.newKey.disarm.endCommand.modTenant
  clear_value y
  exact State.memoryOk.ite hy.queueEvent hy

theorem State.memoryOk.goTeardown {s : State} {v : Nat} (h : s.memoryOk) : (s.goTeardown v).memoryOk :=
  h.ite h.endTeardown

theorem State.memoryOk.beginTeardown {s : State} {v : Nat} (h : s.memoryOk) : (s.beginTeardown v).memoryOk := by
  unfold State.beginTeardown
  extract_lets -underBinder u w x
  have hu : u.memoryOk := State.memoryOk.foldl h fun _ _ hz => State.memoryOk.ite hz.killCtx hz
  clear_value u
  have hw : w.memoryOk := State.memoryOk.foldl hu fun _ _ hz => hz.killSaved
  clear_value w
  have hx : x.memoryOk := hw
  clear_value x
  exact hx.setRecord.modTenant

theorem State.memoryOk.tenantTeardown {s : State} {v : Nat} (h : s.memoryOk) : (s.tenantTeardown v).memoryOk :=
  h.command (fun _ hu => hu.beginTeardown.goTeardown) fun _ hu => hu.goTeardown

theorem outcomeOk_execTenantTeardown {s : State} {v : Nat} (h : s.memoryOk) : outcomeOk (execTenantTeardown v s) :=
  h.tenantTeardown

theorem State.memoryOk.sendPages {s : State} {dev : Nat} {sp : List (Nat × Nat)} (h : s.memoryOk) : (s.sendPages dev sp).memoryOk :=
  h

theorem State.memoryOk.migrateOut {s : State} {v : Nat} (h : s.memoryOk) : (s.migrateOut v).memoryOk := by
  unfold State.migrateOut
  refine State.memoryOk.command h (fun u hu => State.memoryOk.ite hu.setStatus ?_) fun u hu => hu
  extract_lets -underBinder k w x y z
  have hw : w.memoryOk := hu
  clear_value w
  have hx : x.memoryOk := State.memoryOk.disarm (State.memoryOk.setRecord (State.memoryOk_setBytes _ _ hw))
  clear_value x
  have hy : y.memoryOk := hx.modTenant
  clear_value y
  exact State.memoryOk.sendPages (State.memoryOk_of_eq rfl rfl hy)

theorem outcomeOk_execTenantMigrateOut {s : State} {v : Nat} (h : s.memoryOk) : outcomeOk (execTenantMigrateOut v s) :=
  h.migrateOut

theorem State.memoryOk.finalPass {s : State} {v : Nat} (h : s.memoryOk) : (s.finalPass v).memoryOk :=
  h

theorem State.memoryOk.migrationEnds {s : State} {v : Nat} {ok : Bool} (h : s.memoryOk) : (s.migrationEnds v ok).memoryOk :=
  h.ite (h.finalPass.beginTeardown.goTeardown.ite h.endCommand)

theorem outcomeOk_execMigrationDone {s : State} {v : Nat} {ok : Bool} (h : s.memoryOk) : outcomeOk (execMigrationDone v ok s) :=
  h.migrationEnds

theorem State.memoryOk.keySpans {s : State} {sp : List (Nat × Nat)} {k : Nat} (h : s.memoryOk) : (s.keySpans sp k).memoryOk :=
  h

theorem State.memoryOk.migrateIn {s : State} {v : Nat} (h : s.memoryOk) : (s.migrateIn v).memoryOk :=
  h.command (fun _ hu => hu.setStatus.ite (hu.setStatus.ite ((State.memoryOk_storeSpans _ _ hu.draw.congr).formYard.keySpans.endCommand)))
      fun _ hu => hu

theorem outcomeOk_execTenantMigrateIn {s : State} {v : Nat} (h : s.memoryOk) : outcomeOk (execTenantMigrateIn v s) :=
  h.migrateIn

theorem State.memoryOk.storeStep {s : State} {v : Nat} (h : s.memoryOk) : (s.storeStep v).memoryOk := by
  unfold State.storeStep
  extract_lets -underBinder sp
  split
  · exact h
  · extract_lets -underBinder cells u
    have hu : u.memoryOk := h.sendPages
    exact hu

theorem State.memoryOk.goCheckpoint {s : State} {v : Nat} (h : s.memoryOk) : (s.goCheckpoint v).memoryOk :=
  (h.writeImage.storeStep.beginResume.goResume.ite h.askYard).ite h.goResume

theorem State.memoryOk.checkpoint {s : State} {v : Nat} (h : s.memoryOk) : (s.checkpoint v).memoryOk :=
  h.command (fun _ hu => hu.beginYardSave.goCheckpoint) fun _ hu => hu.goCheckpoint

theorem outcomeOk_execTenantCheckpoint {s : State} {v : Nat} (h : s.memoryOk) : outcomeOk (execTenantCheckpoint v s) :=
  h.checkpoint

theorem State.memoryOk.stepComplete {s : State} {v : Nat} (h : s.memoryOk) : (s.stepComplete v).memoryOk := by
  unfold State.stepComplete
  split
  · exact h
  · refine State.memoryOk.setMemWord h

theorem outcomeOk_execCheckpointStepComplete {s : State} {v : Nat} (h : s.memoryOk) : outcomeOk (execCheckpointStepComplete v s) :=
  h.stepComplete

theorem State.memoryOk.dropContexts {s : State} {v : Nat} (h : s.memoryOk) : (s.dropContexts v).memoryOk :=
  (h.foldl fun _ _ ht => ht.dropCommands.stopCommands.setCtx.ite ht).foldl fun _ _ ht => ht.dropL1.clearTile.unpin.modTile

theorem State.memoryOk.mixedStep {s : State} {v : Nat} (h : s.memoryOk) : (s.mixedStep v).memoryOk :=
  h.boundaryTrap.ite h

theorem State.memoryOk.loadStep {s : State} {v : Nat} {c : StepCopy} (h : s.memoryOk) : (s.loadStep v c).memoryOk :=
  (State.memoryOk_storeSpans _ _ h.dropContexts).congr

theorem State.memoryOk.rollBack {s : State} {v : Nat} (h : s.memoryOk) : (s.rollBack v).memoryOk := by
  unfold State.rollBack
  refine State.memoryOk.command h (fun u hu => ?_) fun u hu => hu
  extract_lets -underBinder cs p
  have hp : p.2.memoryOk := State.memoryOk.draw hu
  clear_value p
  split
  · exact hp.setStatus.mixedStep
  · exact hp.disarm.loadStep.endCommand

theorem outcomeOk_execTenantRollBack {s : State} {v : Nat} (h : s.memoryOk) : outcomeOk (execTenantRollBack v s) :=
  h.rollBack

end Sys2Proof.Machine
end

section
set_option Elab.async false
/-! PROOFS. Memory keeps its form: management, boot and reset. -/

namespace Sys2Proof.Machine

theorem State.memoryOk.modMgmt {s : State} {f : Mgmt → Mgmt} (h : s.memoryOk) : (s.modMgmt f).memoryOk :=
  h

theorem State.memoryOk.semRead {s : State} {p : MPort} {tie : Bool} (h : s.memoryOk) : (s.semRead p tie).memoryOk := by
  unfold State.semRead
  extract_lets -underBinder say both
  have hboth (u : State) (hu : u.memoryOk) : (both u).memoryOk := State.memoryOk.ite hu hu
  clear_value both
  exact State.memoryOk.ite (hboth s h) (State.memoryOk.ite (hboth _ h.modMgmt) (hboth _ h.modMgmt))

theorem outcomeOk_execSemRead {s : State} {p : MPort} {tie : Bool} (h : s.memoryOk) : outcomeOk (execSemRead p tie s) :=
  h.semRead

theorem State.memoryOk.semRelease {s : State} {p : MPort} (h : s.memoryOk) : (s.semRelease p).memoryOk :=
  h.modMgmt.ite h

theorem outcomeOk_execSemRelease {s : State} {p : MPort} (h : s.memoryOk) : outcomeOk (execSemRelease p s) :=
  h.semRelease

theorem State.memoryOk.semTimeout {s : State} (h : s.memoryOk) : s.semTimeout.memoryOk :=
  h.modMgmt.ite h

theorem outcomeOk_execSemTimeout {s : State} (h : s.memoryOk) : outcomeOk (execSemTimeout s) :=
  h.semTimeout

theorem State.memoryOk.submit {s : State} {p : MPort} {code seq : Nat} {payload : List Byte} (h : s.memoryOk) :
    (s.submit p code seq payload).memoryOk := by
  unfold State.submit
  split
  · exact h.modMgmt
  · exact h

theorem State.memoryOk.replyTo {s : State} {p : MPort} {code seq status : Nat} {payload : List Byte} (h : s.memoryOk) :
    (s.replyTo p code seq status payload).memoryOk := by
  unfold State.replyTo
  extract_lets -underBinder bs u
  have hu : u.memoryOk := h.modMgmt
  clear_value u
  cases p with
  | a => exact hu
  | b => exact hu

theorem State.memoryOk.guarded {s : State} {p : MPort} {code seq : Nat} {f : State → State} (h : s.memoryOk)
    (hf : ∀ u, u.memoryOk → (f u).memoryOk) : (s.guarded p code seq f).memoryOk := by
  unfold State.guarded
  exact (hf s h).ite h.replyTo

theorem State.memoryOk.getInfo {s : State} {p : MPort} {seq : Nat} (h : s.memoryOk) : (s.getInfo p seq).memoryOk :=
  h.replyTo

theorem outcomeOk_execGetInfo {s : State} {p : MPort} {seq : Nat} (h : s.memoryOk) : outcomeOk (execGetInfo p seq s) :=
  h.submit.getInfo

theorem State.memoryOk.getRetire {s : State} {p : MPort} {seq : Nat} (h : s.memoryOk) : (s.getRetire p seq).memoryOk :=
  h.replyTo

theorem outcomeOk_execGetRetire {s : State} {p : MPort} {seq : Nat} (h : s.memoryOk) : outcomeOk (execGetRetire p seq s) :=
  h.submit.getRetire

theorem State.memoryOk.stageBlob {s : State} {p : MPort} {seq off : Nat} {chunk : List Byte} (h : s.memoryOk) :
    (s.stageBlob p seq off chunk).memoryOk :=
  h.guarded fun _ hu => hu.modMgmt.replyTo

theorem outcomeOk_execStageBlob {s : State} {p : MPort} {seq off : Nat} {chunk : List Byte} (h : s.memoryOk) : outcomeOk
    (execStageBlob p seq off chunk s) :=
  h.submit.stageBlob

theorem State.memoryOk.commitBlob {s : State} {p : MPort} {seq : Nat} (h : s.memoryOk) : (s.commitBlob p seq).memoryOk :=
  h.guarded fun _ hu => hu.modMgmt.replyTo.ite hu.replyTo

theorem outcomeOk_execCommitBlob {s : State} {p : MPort} {seq : Nat} (h : s.memoryOk) : outcomeOk (execCommitBlob p seq s) :=
  h.submit.commitBlob

theorem State.memoryOk.spdmAnswer {s : State} {p : MPort} {seq kind : Nat} {req msg : List Byte} (h : s.memoryOk) :
    (s.spdmAnswer p seq kind req msg).memoryOk := by
  unfold State.spdmAnswer
  split
  · exact h.submit.replyTo
  · exact h

theorem outcomeOk_execSpdm {s : State} {p : MPort} {seq : Nat} {msg : List Byte} (h : s.memoryOk) : outcomeOk (execSpdm p seq msg s) :=
  h.spdmAnswer

theorem outcomeOk_execGetVersion {s : State} {p : MPort} {msg : List Byte} (h : s.memoryOk) : outcomeOk (execGetVersion p msg s) :=
  h.spdmAnswer

theorem outcomeOk_execGetCapabilities {s : State} {p : MPort} {msg : List Byte} (h : s.memoryOk) : outcomeOk
    (execGetCapabilities p msg s) :=
  h.spdmAnswer

theorem outcomeOk_execNegotiateAlgorithms {s : State} {p : MPort} {msg : List Byte} (h : s.memoryOk) : outcomeOk
    (execNegotiateAlgorithms p msg s) :=
  h.spdmAnswer

theorem outcomeOk_execGetDigests {s : State} {p : MPort} {msg : List Byte} (h : s.memoryOk) : outcomeOk (execGetDigests p msg s) :=
  h.spdmAnswer

theorem outcomeOk_execGetCertificate {s : State} {p : MPort} {msg : List Byte} (h : s.memoryOk) : outcomeOk (execGetCertificate p msg s) :=
  h.spdmAnswer

theorem outcomeOk_execChallenge {s : State} {p : MPort} {msg : List Byte} (h : s.memoryOk) : outcomeOk (execChallenge p msg s) :=
  h.spdmAnswer

theorem outcomeOk_execGetMeasurements {s : State} {p : MPort} {index : Nat} (h : s.memoryOk) : outcomeOk (execGetMeasurements p index s) :=
  h.spdmAnswer

theorem State.memoryOk.readEvent {s : State} {p : MPort} (h : s.memoryOk) : (s.readEvent p).memoryOk := by
  unfold State.readEvent
  split
  · exact h
  · refine State.memoryOk.modMgmt h

theorem outcomeOk_execEventQueueRead {s : State} {p : MPort} (h : s.memoryOk) : outcomeOk (execEventQueueRead p s) :=
  h.readEvent

theorem State.memoryOk.eventPost {s : State} {bs : List Byte} (h : s.memoryOk) : (s.eventPost bs).memoryOk := by
  unfold State.eventPost
  refine State.memoryOk.ite h.queueEvent ?_
  split
  · exact h
  · exact h.modMgmt.queueEvent

theorem outcomeOk_execEventPost {s : State} {bytes : List Byte} (h : s.memoryOk) : outcomeOk (execEventPost bytes s) :=
  h.eventPost

theorem State.memoryOk.endEmpty {s : State} {b : Comb} {t : Nat} (h : s.memoryOk) : (s.endEmpty b t).memoryOk := by
  unfold State.endEmpty
  dsimp only
  split
  · exact h.jobStatus
  · exact h.cancelJob.killJobSaved.redirect.jobStatus.congr

theorem State.memoryOk.lastTile {s : State} {b : Comb} {t : Nat} (h : s.memoryOk) : (s.lastTile b t).memoryOk := by
  unfold State.lastTile
  dsimp only
  split
  · split
    · exact h.beginMove
    · exact h
  · exact h.endEmpty

theorem State.memoryOk.missedTile {s : State} {y : Nat} {m : Option Move} (h : s.memoryOk) : (s.missedTile y m).memoryOk := by
  unfold State.missedTile
  split
  · exact h
  · exact h.lastTile.ite h

theorem State.memoryOk.retireTile {s : State} {t : Nat} (h : s.memoryOk) : (s.retireTile t).memoryOk := by
  unfold State.retireTile
  extract_lets -underBinder y was s1 s2 s3 s4
  have h1 : s1.memoryOk := h.handBack
  have h2 : s2.memoryOk := h1.foldl fun _ _ hu => hu.killCtx.modCtx.ite hu
  have h3 : s3.memoryOk := h2.dropL1.clearTile.modTile
  clear_value s3
  have h4 : s4.memoryOk := h3
  clear_value s4
  split
  · exact h
  · split
    · exact h4
    · extract_lets b' s5 r s6
      have h5 : s5.memoryOk := h4.modComb
      have hr : r.2.memoryOk := State.memoryOk.descPa h5
      have h6 : s6.memoryOk := State.memoryOk.writeDesc hr
      clear_value s6
      exact (h6.lastTile.ite h6).missedTile

theorem State.memoryOk.retireChannel {s : State} {p : Nat} (h : s.memoryOk) : (s.retireChannel p).memoryOk :=
  h.ite h

theorem State.memoryOk.retireNow {s : State} {r : Retired} (h : s.memoryOk) : (s.retireNow r).memoryOk := by
  unfold State.retireNow
  split
  · exact h.retireTile
  · exact h.retireChannel
  · exact (((h.foldl fun _ _ ht => ht.retireTile).foldl fun _ _ ht => ht.retireChannel).killCtx.ite ((h.foldl
        fun _ _ ht => ht.retireTile).foldl fun _ _ ht => ht.retireChannel)).modTile

theorem State.memoryOk.lowerFloors {s : State} {v : Nat} (h : s.memoryOk) : (s.lowerFloors v).memoryOk :=
  h

theorem State.memoryOk.redeal {s : State} {port : Nat} (h : s.memoryOk) : (s.redeal port).memoryOk := by
  unfold State.redeal
  extract_lets b slots ys sh r
  split
  · exact h
  · have hr : r.1.memoryOk := by
      refine foldl_keeps (P := fun r : State × List Nat => r.1.memoryOk) _ (fun r i hr => ?_) h
      split
      · exact State.memoryOk_setByte _ _ hr
      · exact hr
    exact hr.congr

theorem State.memoryOk.shortfall {s : State} (h : s.memoryOk) : s.shortfall.memoryOk :=
  h.ite ((h.queueEvent.foldl fun _ _ ht => ht.lowerFloors).foldl fun _ _ ht => ht.redeal)

theorem State.memoryOk.retire {s : State} {p : MPort} {seq : Nat} {r : Retired} (h : s.memoryOk) : (s.retire p seq r).memoryOk :=
  h.guarded fun _ hu => hu.replyTo.ite ((hu.retireNow.modMgmt.queueEvent.shortfall.ite hu.retireNow.modMgmt.queueEvent).replyTo)

theorem outcomeOk_execRetire {s : State} {p : MPort} {seq : Nat} {what : Retired} (h : s.memoryOk) : outcomeOk (execRetire p seq what s) :=
  h.submit.retire

theorem State.memoryOk.stopBoot {s : State} {n : Nat} (h : s.memoryOk) : (s.stopBoot n).memoryOk :=
  h

theorem State.memoryOk.bootRecord {s : State} {b : List Byte} {i : Nat} (h : s.memoryOk) : (s.bootRecord b i).memoryOk := by
  unfold State.bootRecord
  exact (State.memoryOk_setBytes _ _ h).tenantCreate

theorem State.memoryOk.startTsc {s : State} {h : Nat} (hs : s.memoryOk) : (s.startTsc h).memoryOk :=
  hs.ite ((State.memoryOk_setTmBytes _ _ _ _ hs).setCtx)

theorem State.memoryOk.linksStart {s : State} (h : s.memoryOk) : s.linksStart.memoryOk :=
  State.memoryOk_setBytes _ _ h

theorem State.memoryOk.releaseDies {s : State} {b : List Byte} (h : s.memoryOk) : (s.releaseDies b).memoryOk := by
  unfold State.releaseDies
  exact (((h.linksStart.foldl fun _ _ ht => ht.retireNow).foldl fun _ _ ht => ht.bootRecord).foldl fun _ _ ht => ht.startTsc).modMgmt

theorem State.memoryOk.bootFrom {s : State} (h : s.memoryOk) : s.bootFrom.memoryOk := by
  unfold State.bootFrom
  split
  · exact h.stopBoot
  · split
    · dsimp only
      split
      · exact h.modMgmt.stopBoot
      · exact h.modMgmt.modMgmt.stopBoot
    · dsimp only
      split
      · exact h.modMgmt.stopBoot
      · exact h.modMgmt.modMgmt.modMgmt.releaseDies

theorem outcomeOk_execColdReset {s : State} : outcomeOk (execColdReset s) := (State.memoryOk_cleared [] rfl).bootFrom

theorem State.memoryOk.warmReset {s : State} (h : s.memoryOk) : s.warmReset.memoryOk := by
  unfold State.warmReset
  exact h.ite (State.memoryOk_cleared _ (Memory.wf_filter _ h.1)).bootFrom

theorem outcomeOk_execWarmReset {s : State} (h : s.memoryOk) : outcomeOk (execWarmReset s) :=
  h.warmReset

theorem State.memoryOk.resetCommand {s : State} {p : MPort} {seq : Nat} (h : s.memoryOk) : (s.resetCommand p seq).memoryOk :=
  h.guarded fun _ hu => hu.replyTo.warmReset

theorem outcomeOk_execReset {s : State} {p : MPort} {seq : Nat} (h : s.memoryOk) : outcomeOk (execReset p seq s) :=
  h.submit.resetCommand

theorem State.memoryOk.carryCommand {s : State} {code seq : Nat} {payload : List Byte} {args : List Nat} {bs : List Byte} (h : s.memoryOk)
    : (s.carryCommand code seq payload args bs).memoryOk := by
  unfold State.carryCommand
  split
  · exact h.getInfo
  · exact h.getRetire
  · exact h.stageBlob
  · exact h.commitBlob
  · split
    · exact h.retire
    · exact h.replyTo
  · exact h.resetCommand
  · exact h.replyTo
  · exact h.replyTo

theorem State.memoryOk.serveA {s : State} (h : s.memoryOk) : s.serveA.memoryOk :=
  h.ite (h.modMgmt.replyTo.ite h.modMgmt.carryCommand)

theorem State.memoryOk.portAWrite {s : State} {off : Nat} {bs : List Byte} (h : s.memoryOk) : (s.portAWrite off bs).memoryOk :=
  ((h.semRelease.ite h).modMgmt.ite (h.semRelease.ite h)).modMgmt.ite ((h.semRelease.ite h).modMgmt.ite (h.semRelease.ite h))

theorem State.memoryOk.applyPost {s : State} {w : PcieWrite} (h : s.memoryOk) : (s.applyPost w).memoryOk :=
  h.ite (h.notePost.postedWrite.ite (h.notePost.portAWrite.ite h.notePost))

theorem outcomeOk_execPciePostedWrite {s : State} {w : PcieWrite} (h : s.memoryOk) : outcomeOk (execPciePostedWrite w s) :=
  h.applyPost

theorem State.memoryOk.flrVf {s : State} {v : Nat} (h : s.memoryOk) : (s.flrVf v).memoryOk :=
  h.queueEvent.ite h.modTenant.beginTeardown.goTeardown

theorem outcomeOk_execFlrVf {s : State} {v : Nat} (h : s.memoryOk) : outcomeOk (execFlrVf v s) :=
  h.flrVf

theorem outcomeOk_execFlrPf0 {s : State} (h : s.memoryOk) : outcomeOk (execFlrPf0 s) :=
  h

theorem outcomeOk_execFlrPeer {s : State} (h : s.memoryOk) : outcomeOk (execFlrPeer s) :=
  h

theorem State.memoryOk.thermalTrip {s : State} (h : s.memoryOk) : s.thermalTrip.memoryOk :=
  ⟨(State.memoryOk.queueEvent h : (s.queueEvent (eventBytes 4)).memoryOk).1, rfl⟩

theorem outcomeOk_execThermalTrip {s : State} (h : s.memoryOk) : outcomeOk (execThermalTrip s) :=
  h.thermalTrip

end Sys2Proof.Machine
end

section
set_option Elab.async false
/-! PROOFS. Memory keeps its form: every instruction and every event of the model, and a step. -/

namespace Sys2Proof.Machine

theorem outcomeOk_exec {s : State} {i : Instr} (h : s.memoryOk) : outcomeOk (exec i s) := by
  unfold exec
  split
  · exact outcomeOk_execAdd h
  · exact outcomeOk_execSub h
  · exact outcomeOk_execAnd h
  · exact outcomeOk_execOr h
  · exact outcomeOk_execXor h
  · exact outcomeOk_execSll h
  · exact outcomeOk_execSrl h
  · exact outcomeOk_execSra h
  · exact outcomeOk_execSlt h
  · exact outcomeOk_execSlo h
  · exact outcomeOk_execMul h
  · exact outcomeOk_execMulh h
  · exact outcomeOk_execMulhz h
  · exact outcomeOk_execDiv h
  · exact outcomeOk_execDivz h
  · exact outcomeOk_execRem h
  · exact outcomeOk_execRemz h
  · exact outcomeOk_execMin h
  · exact outcomeOk_execMax h
  · exact outcomeOk_execMinz h
  · exact outcomeOk_execMaxz h
  · exact outcomeOk_execClz h
  · exact outcomeOk_execPopc h
  · exact outcomeOk_execBfx h
  · exact outcomeOk_execBfi h
  · exact outcomeOk_execSel h
  · exact outcomeOk_execAddi h
  · exact outcomeOk_execAndi h
  · exact outcomeOk_execOri h
  · exact outcomeOk_execXori h
  · exact outcomeOk_execSlti h
  · exact outcomeOk_execSlli h
  · exact outcomeOk_execSrli h
  · exact outcomeOk_execSrai h
  · exact outcomeOk_execLui h
  · exact outcomeOk_execAuipc h
  · exact outcomeOk_execBeq h
  · exact outcomeOk_execBne h
  · exact outcomeOk_execBlt h
  · exact outcomeOk_execBge h
  · exact outcomeOk_execBlo h
  · exact outcomeOk_execBhs h
  · exact outcomeOk_execJal h
  · exact outcomeOk_execJalr h
  · exact outcomeOk_execLoop h
  · exact outcomeOk_execStart h
  · exact outcomeOk_execHalt h
  · exact outcomeOk_execYield h
  · exact outcomeOk_execUpret h
  · exact outcomeOk_execBqe h
  · exact outcomeOk_execLdB h
  · exact outcomeOk_execLdBz h
  · exact outcomeOk_execLdH h
  · exact outcomeOk_execLdHz h
  · exact outcomeOk_execLdW h
  · exact outcomeOk_execLdWz h
  · exact outcomeOk_execLdD h
  · exact outcomeOk_execLdRo h
  · exact outcomeOk_execStB h
  · exact outcomeOk_execStH h
  · exact outcomeOk_execStW h
  · exact outcomeOk_execStD h
  · exact outcomeOk_execStNt h
  · exact outcomeOk_execPref h
  · exact outcomeOk_execFlush h
  · exact outcomeOk_execInval h
  · exact outcomeOk_execLdv h
  · exact outcomeOk_execVrec h
  · exact outcomeOk_execValid h
  · exact outcomeOk_execVclr h
  · exact outcomeOk_execCasv h
  · exact outcomeOk_execCas h
  · exact outcomeOk_execAmoAdd h
  · exact outcomeOk_execAmoAnd h
  · exact outcomeOk_execAmoOr h
  · exact outcomeOk_execAmoXor h
  · exact outcomeOk_execAmoMin h
  · exact outcomeOk_execAmoMax h
  · exact outcomeOk_execAmoSwap h
  · exact outcomeOk_execAmoXadd h
  · exact outcomeOk_execFenceRel h
  · exact outcomeOk_execFenceAcq h
  · exact outcomeOk_execFenceAr h
  · exact outcomeOk_execEvw h
  · exact outcomeOk_execEvs h
  · exact outcomeOk_execBar h
  · exact outcomeOk_execFillw h
  · exact outcomeOk_execFillt h
  · exact outcomeOk_execFilla h
  · exact outcomeOk_execTsync h
  · exact outcomeOk_execMfs h
  · exact outcomeOk_execMts h
  · exact outcomeOk_execCtxFtWrite h
  · exact outcomeOk_execRingRegisterWrite h
  · exact outcomeOk_execMgrpWrite h
  · exact outcomeOk_execFflagsAccess h
  · exact outcomeOk_execTrapSuppRead h
  · exact outcomeOk_execSKillWrite h
  · exact outcomeOk_execHvTagWrite h
  · exact outcomeOk_execTrap h
  · exact outcomeOk_execEret h
  · exact outcomeOk_execTlbw h
  · exact outcomeOk_execTlbinvPage h
  · exact outcomeOk_execShootdownComplete h
  · exact outcomeOk_execChold h
  · exact outcomeOk_execCfloor h
  · exact outcomeOk_execCload h
  · exact outcomeOk_execCcede h
  · exact outcomeOk_execVadd h
  · exact outcomeOk_execVsub h
  · exact outcomeOk_execVmul h
  · exact outcomeOk_execVfma h
  · exact outcomeOk_execVfms h
  · exact outcomeOk_execVdiv h
  · exact outcomeOk_execVsqrt h
  · exact outcomeOk_execVmin h
  · exact outcomeOk_execVmax h
  · exact outcomeOk_execVabs h
  · exact outcomeOk_execVneg h
  · exact outcomeOk_execVcmp h
  · exact outcomeOk_execVand h
  · exact outcomeOk_execVor h
  · exact outcomeOk_execVxor h
  · exact outcomeOk_execVshl h
  · exact outcomeOk_execVshr h
  · exact outcomeOk_execVsra h
  · exact outcomeOk_execVmov h
  · exact outcomeOk_execVbcast h
  · exact outcomeOk_execVsel h
  · exact outcomeOk_execVperm h
  · exact outcomeOk_execVswz h
  · exact outcomeOk_execVext h
  · exact outcomeOk_execVextMask h
  · exact outcomeOk_execVins h
  · exact outcomeOk_execVinsMask h
  · exact outcomeOk_execVld h
  · exact outcomeOk_execVst h
  · exact outcomeOk_execVldtm h
  · exact outcomeOk_execVsttm h
  · exact outcomeOk_execVgath h
  · exact outcomeOk_execVscat h
  · exact outcomeOk_execVcvt h
  · exact outcomeOk_execVpack h
  · exact outcomeOk_execVunpk h
  · exact outcomeOk_execVqnt h
  · exact outcomeOk_execVred h
  · exact outcomeOk_execVdot h
  · exact outcomeOk_execVrng h
  · exact outcomeOk_execVcls h
  · exact outcomeOk_execVtbl h
  · exact outcomeOk_execVbfly h
  · exact outcomeOk_execVcnt h
  · exact outcomeOk_execVscan h
  · exact outcomeOk_execFmt h
  · exact outcomeOk_execVectorExecute h
  · exact outcomeOk_execCpGo h
  · exact outcomeOk_execCpLand h
  · exact outcomeOk_execCpTm h
  · exact outcomeOk_execGaGo h
  · exact outcomeOk_execScGo h
  · exact outcomeOk_execCoRed h
  · exact outcomeOk_execCoBcast h
  · exact outcomeOk_execCoAr h
  · exact outcomeOk_execMm h
  · exact outcomeOk_execMms h
  · exact outcomeOk_execMmp h
  · exact outcomeOk_execMzero h
  · exact outcomeOk_execMacr h
  · exact outcomeOk_execMacw h
  · exact outcomeOk_execMacst h
  · exact outcomeOk_execMcmdCheck h
  · exact outcomeOk_execMcmdZall h
  · exact outcomeOk_execMcmdPcancel h
  · exact outcomeOk_execMringPop h
  · exact outcomeOk_execMringPush h
  · exact outcomeOk_execMringReset h
  · exact outcomeOk_execMwait h
  · exact outcomeOk_execLnTask h
  · exact outcomeOk_execLnGraph h
  · exact outcomeOk_execLnPhase h
  · exact outcomeOk_execLnCancel h
  · exact outcomeOk_execLnWait h
  · exact outcomeOk_execRpRec h
  · exact outcomeOk_execRpRun h
  · exact outcomeOk_execReplayPush h
  · exact outcomeOk_execWxld h
  · exact outcomeOk_execWxrel h
  · exact outcomeOk_execWxstm h
  · exact outcomeOk_execWxdet h
  · exact outcomeOk_execWxqry h
  · exact outcomeOk_execEnStat h
  · exact outcomeOk_execWax h
  · exact outcomeOk_execWaxLoadComplete h
  · exact outcomeOk_execStreamStart h
  · exact outcomeOk_execStreamEnd h
  · exact outcomeOk_execEngineAccept h
  · exact outcomeOk_execMatrixCommandStart h
  · exact outcomeOk_execMatrixCommandRetire h
  · exact outcomeOk_execMmpPairCommit h
  · exact outcomeOk_execCollectiveComplete h
  · exact outcomeOk_execEngineWriteHome h
  · exact outcomeOk_execTaskDispatch h
  · exact outcomeOk_execHelperTaskStart h
  · exact outcomeOk_execTaskCommit h
  · exact outcomeOk_execSuccessorDispatchable h
  · exact outcomeOk_execTaskFaultRecord h
  · exact outcomeOk_execUpcallEntry h
  · exact outcomeOk_execLateCauseReport h
  · exact outcomeOk_execSingleStepTrap h
  · exact outcomeOk_execSliceExpiry h
  · exact outcomeOk_execBudgetExceeded h
  · exact outcomeOk_execContextSave h
  · exact outcomeOk_execEventArrival h
  · exact outcomeOk_execBarrierArrival h
  · exact outcomeOk_execSuperstepBoundary h
  · exact outcomeOk_execLinkValueArrival h
  · exact outcomeOk_execTlbMissRecord h
  · exact outcomeOk_execPinSwitchComplete h
  · exact outcomeOk_execCalendarApply h
  · exact outcomeOk_execRouteEntryApply h
  · exact outcomeOk_execTenantCreate h
  · exact outcomeOk_execTenantStart h
  · exact outcomeOk_execTenantSave h
  · exact outcomeOk_execTenantResume h
  · exact outcomeOk_execTenantTeardown h
  · exact outcomeOk_execTenantMigrateOut h
  · exact outcomeOk_execTenantMigrateIn h
  · exact outcomeOk_execTenantCheckpoint h
  · exact outcomeOk_execTenantRollBack h
  · exact outcomeOk_execTenantReservedCommand h
  · exact outcomeOk_execJobGo h
  · exact outcomeOk_execJobEnd h
  · exact outcomeOk_execEventPost h
  · exact outcomeOk_execMsixPost h
  · exact outcomeOk_execColdReset
  · exact outcomeOk_execElasticReturnComplete h
  · exact outcomeOk_execEngineCommandComplete h
  · exact outcomeOk_execMmpPairTimeout h
  · exact outcomeOk_execWriteCombineDrain h
  · exact outcomeOk_execLaunchAging h
  · exact outcomeOk_execCedeRequestExpiry h
  · exact outcomeOk_execLossGraceExpiry h
  · exact outcomeOk_execHandoverDrainComplete h
  · exact outcomeOk_execTagDrainComplete h
  · exact outcomeOk_execUpretVacate h
  · exact outcomeOk_execEretRestore h
  · exact outcomeOk_execTlbinvVf h
  · exact outcomeOk_execTlbinvGpa h
  · exact outcomeOk_execTlbinvAll h
  · exact outcomeOk_execFillWordArrival h
  · exact outcomeOk_execHomeAccess h
  · exact outcomeOk_execL1Writeback h
  · exact outcomeOk_execL2Eviction h
  · exact outcomeOk_execWaggleBoundary h
  · exact outcomeOk_execPciePostedWrite h
  · exact outcomeOk_execPcieUnsupportedRequest h
  · exact outcomeOk_execMilayPortDown h
  · exact outcomeOk_execMilayAccessTimeout h
  · exact outcomeOk_execUncorrectableTileError h
  · exact outcomeOk_execCheckpointStepComplete h
  · exact outcomeOk_execMigrationDone h
  · exact outcomeOk_execSemRead h
  · exact outcomeOk_execSemRelease h
  · exact outcomeOk_execSemTimeout h
  · exact outcomeOk_execGetInfo h
  · exact outcomeOk_execGetRetire h
  · exact outcomeOk_execStageBlob h
  · exact outcomeOk_execCommitBlob h
  · exact outcomeOk_execRetire h
  · exact outcomeOk_execReset h
  · exact outcomeOk_execSpdm h
  · exact outcomeOk_execEventQueueRead h
  · exact outcomeOk_execGetVersion h
  · exact outcomeOk_execGetCapabilities h
  · exact outcomeOk_execNegotiateAlgorithms h
  · exact outcomeOk_execGetDigests h
  · exact outcomeOk_execGetCertificate h
  · exact outcomeOk_execChallenge h
  · exact outcomeOk_execGetMeasurements h
  · exact outcomeOk_execWarmReset h
  · exact outcomeOk_execFlrVf h
  · exact outcomeOk_execFlrPf0 h
  · exact outcomeOk_execFlrPeer h
  · exact outcomeOk_execThermalTrip h
  · exact outcomeOk_execTlbEntryEviction h
  · exact outcomeOk_execMilayPortTrained h
  · exact outcomeOk_execPcieCompletion h
  · exact outcomeOk_execMilayAcknowledgement h
  · exact outcomeOk_execPeerShootdownRequest h
  · exact outcomeOk_execDroopStretch h
  · exact outcomeOk_execL1LineEviction h

theorem State.memoryOk.tick {s : State} (h : s.memoryOk) : s.tick.memoryOk :=
  h

theorem State.memoryOk.forRow {s : State} {i : Instr} (h : s.memoryOk) : (s.forRow i).memoryOk := by
  unfold State.forRow
  refine State.memoryOk.ite h h

theorem outcomeOk_freely {s : State} {x : Choice} (h : s.memoryOk) : outcomeOk (s.freely x) := by
  cases x with
  | row i => exact h
  | turn k => exact h
  | tick => exact h.tick
  | writeBack t l => exact outcomeOk_execL1Writeback h
  | dropL1 t l => exact outcomeOk_execL1LineEviction h
  | dropL2 l => exact outcomeOk_execL2Eviction h
  | decay l => exact State.memoryOk.ite h h
  | answer id => exact outcomeOk_execPcieCompletion h
  | acknowledge id => exact outcomeOk_execMilayAcknowledgement h
  | giveUp id => exact outcomeOk_execMilayAccessTimeout h
  | stepDone v => exact outcomeOk_execCheckpointStepComplete h
  | fillAhead t => exact h.fillAhead
  | serveA => exact h.serveA

/-- A plan of a turn keeps memory in its form: the state that it starts from has it, or the outcome that it is. -/
def Plan.memoryOk : Plan → Prop
  | .run _ s => s.memoryOk
  | .raise _ _ s => s.memoryOk
  | .out o => outcomeOk o

/-- An attempt at an issue leaves memory in its form, and so does the plan that it comes to. -/
def Attempt.memoryOk : Attempt → Prop
  | .issues p => p.memoryOk
  | .begins s => s.memoryOk
  | .comes p => p.memoryOk
  | .waits s => s.memoryOk

theorem Plan.memoryOk.outcome {p : Plan} (h : p.memoryOk) : outcomeOk p.outcome := by
  cases p with
  | run i s => exact outcomeOk_exec h
  | raise c tv s => exact outcomeOk_runRaw keeps_trap h
  | out o => exact h

theorem Plan.memoryOk.after {p : Plan} {f : State → State} (h : p.memoryOk) (hf : ∀ s, s.memoryOk → (f s).memoryOk) :
    (p.after f).memoryOk := by
  cases p with
  | run i s => exact hf s h
  | raise c tv s => exact hf s h
  | out o =>
    cases o with
    | next s => exact hf s h
    | fault _ => exact h
    | refused _ => exact h

theorem Plan.memoryOk.attempt {p : Plan} {c : Nat} (h : p.memoryOk) : (p.attempt c).memoryOk := by
  have ho := h.outcome
  unfold Plan.attempt
  split
  next u heq =>
    have hu : u.memoryOk := (heq ▸ ho : outcomeOk (.next u))
    split
    · exact h
    · split
      · split
        · exact (State.memoryOk.modCtx hu : State.memoryOk _)
        · exact hu
      · exact hu
  · exact h

theorem keeps_closeDue : keeps closeDue := by
  unfold closeDue
  exact fun _ hs => keeps_run keeps_closeThese hs

theorem keeps_fetchShared {l : Leaf} : keeps (fetch.fetchShared l) := by
  intro s hs
  unfold fetch.fetchShared
  split
  · exact keeps_run (keeps_bind keeps_pcieRead fun _ _ ht => ht) hs
  · split
    · split
      · exact keeps_run (keeps_bind keeps_remoteRead fun _ _ ht => ht) hs
      · exact hs
    · exact hs

theorem keeps_fetch : keeps fetch := by
  unfold fetch
  refine keeps_get fun s _ => keeps_bind keeps_checkM fun l => ?_
  split
  · exact keeps_pure
  · exact keeps_bind keeps_fetchShared fun _ => keeps_pure

theorem keeps_prologue : keeps prologue := by
  unfold prologue
  exact keeps_bind keeps_closeDue fun _ => keeps_fetch

theorem keeps_discard {α : Type} {m : M α} (hm : keeps m) : keeps (discard m) := by
  intro s h
  have ht := hm s h
  cases hr : m s with
  | ok a t =>
    rw [show discard m s = .ok () t from bind_ok hr]
    exact keeps_ok hm h hr
  | error e t =>
    rw [show discard m s = .error e t from bind_error hr]
    exact keeps_error hm h hr

theorem keeps_barred {i : Instr} : keeps (barred i) := by
  unfold barred
  extract_lets -underBinder last
  have hl (r : PUnit) : keeps (last r) := by
    unfold last
    extract_lets -underBinder fin
    have hf (r : PUnit) : keeps (fin r) := keeps_trap
    clear_value fin
    split
    · exact keeps_bind (keeps_discard keeps_srCheck) hf
    · exact keeps_bind (keeps_discard keeps_srCheck) hf
    · exact keeps_bind keeps_pure hf
  clear_value last
  split
  · exact keeps_bind keeps_noPrefix hl
  · refine keeps_bind keeps_takePfx fun w => keeps_bind keeps_trapIf fun _ => ?_
    split
    · exact keeps_bind keeps_trap hl
    · exact keeps_bind keeps_pure hl

theorem State.memoryOk.charge {s : State} {c : Nat} (h : s.memoryOk) : (s.charge c).memoryOk :=
  h

theorem State.memoryOk.issue {s : State} (h : s.memoryOk) : s.issue.memoryOk := by
  unfold State.issue
  split
  next e tv t heq =>
    have ht : (Plan.raise e tv t).memoryOk := keeps_error keeps_prologue h heq
    exact ht.attempt
  next e t _ heq =>
    have ht : t.memoryOk := keeps_error keeps_prologue h heq
    have ho : (Plan.out (runRaw (fun _ => .error e t) s)).memoryOk := outcomeOk_runRaw (fun _ _ => ht) h
    exact ho.attempt
  next w t heq =>
    have ht : t.memoryOk := keeps_ok keeps_prologue h heq
    split
    next i _ => exact Plan.memoryOk.attempt (p := .run i t) ht
    · exact Plan.memoryOk.attempt (p := .raise .zeroWord 0 t) ht
    · split
      next i _ => exact Plan.memoryOk.attempt (p := .out (runRaw (barred i) t)) (outcomeOk_runRaw keeps_barred ht)
      · exact Plan.memoryOk.attempt (p := .raise .reserved 0 t) ht

theorem State.memoryOk.event {s : State} {c : Nat} {i : Instr} (h : s.memoryOk) : (s.event c i).memoryOk := by
  unfold State.event
  split
  · split
    · exact h
    · split
      · exact h
      · exact h
  · exact h

theorem State.memoryOk.attempt {s : State} {c : Nat} (h : s.memoryOk) : (s.attempt c).memoryOk := by
  unfold State.attempt
  extract_lets -underBinder u
  have hu : u.memoryOk := h
  clear_value u
  split
  · split
    · exact (State.memoryOk.modMe hu : State.memoryOk _)
    · exact hu
  · split
    · exact hu.event
    · split
      · exact hu
      · exact hu.issue

theorem State.memoryOk.pass {s : State} {cs : List Nat} (h : s.memoryOk) : (s.pass cs).memoryOk :=
  h.foldl fun _ _ ht => ht.charge

theorem State.memoryOk.resume {s : State} {c : Nat} (h : s.memoryOk) : (s.resume c).memoryOk := by
  unfold State.resume
  split
  next i _ _ =>
    have ho : outcomeOk (exec i { s with cur := c }) := outcomeOk_exec h
    split
    next u heq => exact (heq ▸ ho : outcomeOk (.next u))
    · exact h
  · exact h

theorem State.memoryOk.noteIssue {s : State} {c : Nat} (h : s.memoryOk) : (s.noteIssue c).memoryOk :=
  h

theorem State.memoryOk.beginCycle {s : State} {k : Nat} (h : s.memoryOk) : (s.beginCycle k).memoryOk :=
  h

theorem State.memoryOk.cycleBegun {s : State} {k : Nat} (h : s.memoryOk) : (s.cycleBegun k).memoryOk :=
  h.beginCycle.landDue.replayPush.foldl fun _ _ ht => ht.resume

theorem State.memoryOk.firstReady {cs : List Nat} {s : State} (h : s.memoryOk) : (s.firstReady cs).memoryOk := by
  induction cs generalizing s with
  | nil => exact h
  | cons c cs ih =>
    have ha : (s.attempt c).memoryOk := h.attempt
    unfold State.firstReady
    split
    next t heq =>
      have ht : t.memoryOk := (heq ▸ ha : (Attempt.waits t).memoryOk)
      exact ih ht.charge
    next p heq => exact (heq ▸ ha : (Attempt.issues p).memoryOk).after fun _ hu => hu.pass.noteIssue
    next t heq =>
      have ht : t.memoryOk := (heq ▸ ha : (Attempt.begins t).memoryOk)
      exact ht.pass.noteIssue
    next p heq => exact (heq ▸ ha : (Attempt.comes p).memoryOk).after fun _ hu => hu.pass

theorem State.memoryOk.turn {s : State} {k : Nat} (h : s.memoryOk) : (s.turn k).memoryOk :=
  h.cycleBegun.firstReady

theorem State.memoryOk.carryOut {s : State} {x : Choice} (h : s.memoryOk) : (s.carryOut x).memoryOk := by
  unfold State.carryOut
  split
  · exact (h.forRow : State.memoryOk _)
  · exact h.turn
  · exact outcomeOk_freely h

theorem State.memoryOk.onTime {s : State} {x : Choice} (h : s.memoryOk) : (s.onTime x).memoryOk := by
  unfold State.onTime
  split
  · exact h
  · exact h.carryOut

theorem Plan.memoryOk.ite {c : Prop} [Decidable c] {p q : Plan} (hp : p.memoryOk) (hq : q.memoryOk) : (if c then p else q).memoryOk := by
  split
  · exact hp
  · exact hq

theorem State.memoryOk.plan {s : State} (h : s.memoryOk) : s.plan.memoryOk := by
  unfold State.plan
  refine Plan.memoryOk.ite h.tick (Plan.memoryOk.ite h (Plan.memoryOk.ite h.tick (Plan.memoryOk.ite h ?_)))
  split
  · exact h.onTime
  · split
    · exact h.tick
    · exact h.carryOut
    · extract_lets p
      have hp : p.2.memoryOk := h.draw
      clear_value p
      exact hp.carryOut

theorem outcomeOk_step {s : State} (h : s.memoryOk) : outcomeOk (step s) := h.plan.outcome

/-- Settles O8: no row of the model and no choice of a step writes memory or tile memory but by the operations that keep the form. -/
theorem everyStepKeepsMemoryCanonical : Obligations.EveryStepKeepsMemoryCanonical :=
  ⟨fun i _ t h e => (e ▸ outcomeOk_exec (i := i) h : outcomeOk (.next t)), fun _ t h e => (e ▸ outcomeOk_step h : outcomeOk (.next t))⟩

end Sys2Proof.Machine
end

section
/-! PROOFS. The memory that a reset leaves, and a first instruction in it (R385). -/

namespace Sys2Proof.Machine

theorem State.memoryOk.loadFirst {s : State} {bs : List Byte} (h : s.memoryOk) : (s.loadFirst bs).memoryOk :=
  State.memoryOk_of_eq (s := s.setBytes 0 bs) rfl rfl (State.memoryOk_setBytes _ _ h)

/-- Settles O7: reset memory lists nothing, and the bytes of a word that is placed in it are stored in its form. -/
theorem resetMemoryIsCanonical : Obligations.ResetMemoryIsCanonical :=
  ⟨State.memoryOk_reset, fun _ _ => State.memoryOk_reset.loadFirst⟩

end Sys2Proof.Machine
end

section
/-! PROOFS. The places of tile memory (R95): a view permutes the banks of each row, and keeps rows and the bytes of a doubleword. -/

namespace Sys2Proof.Machine

/-- The bank that a view gives a bank of a row. -/
def tmBank (view low bank : Nat) : Nat :=
  if view = 1 then Nat.xor bank low
  else if view = 2 then (bank + low) % 64
  else if view = 3 then Nat.xor bank (bitrev6 low)
  else bank

theorem tmPlace_eq (view off : Nat) : tmPlace view off = off / 512 * 512 + tmBank view (off / 512 % 64) (off / 8 % 64) * 8 + off % 8 := rfl

theorem bitrev6_lt (x : Nat) : bitrev6 x < 64 := by unfold bitrev6; omega

theorem tmBank_lt {view low bank : Nat} (hl : low < 64) (hb : bank < 64) : tmBank view low bank < 64 := by
  unfold tmBank
  split
  · exact Nat.xor_lt_two_pow (n := 6) hb hl
  · split
    · omega
    · split
      · exact Nat.xor_lt_two_pow (n := 6) hb (bitrev6_lt low)
      · exact hb

theorem tmBank_injective {view low x y : Nat} (hx : x < 64) (hy : y < 64) (h : tmBank view low x = tmBank view low y) : x = y := by
  unfold tmBank at h
  split at h
  · exact Nat.xor_left_injective h
  · split at h
    · omega
    · split at h
      · exact Nat.xor_left_injective h
      · exact h

/-- A place stands in its offset's row, at its offset's byte of a doubleword. -/
theorem tmPlace_row (view off : Nat) : tmPlace view off / 512 = off / 512 ∧ tmPlace view off % 8 = off % 8 := by
  have hb := tmBank_lt (view := view) (Nat.mod_lt (off / 512) (by decide : 0 < 64)) (Nat.mod_lt (off / 8) (by decide))
  rw [tmPlace_eq]
  omega

/-- Offsets of one doubleword have places in one doubleword. -/
theorem tmPlace_word {view x y : Nat} (h : x / 8 = y / 8) : tmPlace view x / 8 = tmPlace view y / 8 := by
  rw [tmPlace_eq, tmPlace_eq, h, show x / 512 = y / 512 by omega]
  omega

theorem tmPlace_injective {view x y : Nat} (h : tmPlace view x = tmPlace view y) : x = y := by
  have hrow : x / 512 = y / 512 := by rw [← (tmPlace_row view x).1, h, (tmPlace_row view y).1]
  have hbyte : x % 8 = y % 8 := by rw [← (tmPlace_row view x).2, h, (tmPlace_row view y).2]
  rw [tmPlace_eq, tmPlace_eq, hrow, hbyte] at h
  have hbank := tmBank_injective (Nat.mod_lt (x / 8) (by decide)) (Nat.mod_lt (y / 8) (by decide))
    (show tmBank view (y / 512 % 64) (x / 8 % 64) = tmBank view (y / 512 % 64) (y / 8 % 64) by omega)
  omega

theorem tmPlace_lt {view off : Nat} (h : off < 2 ^ 20) : tmPlace view off < 2 ^ 20 := by
  have := (tmPlace_row view off).1
  omega

theorem tmKey_tile {tile : Nat} (h : tile < 1024) (view off : Nat) : tmKey tile view off = tile * 2 ^ 20 + tmPlace view (off % 2 ^ 20) :=
  if_neg (Nat.not_le.mpr h)

/-- Two offsets of a tile share a place only where they are the same to the smallest tile memory (R95, R329). -/
theorem mod_eq_of_tmKey_view {tile view x y : Nat} (h : tmKey tile view x = tmKey tile view y) : x % 2 ^ 18 = y % 2 ^ 18 := by
  unfold tmKey at h
  split at h
  · omega
  · have := tmPlace_injective (Nat.add_left_cancel h)
    omega

theorem view_permutes_places {tile : Nat} (view x y : Nat) (ht : tile < 1024) :
    (tmKey tile view x = tmKey tile view y ↔ x % 2 ^ 20 = y % 2 ^ 20) ∧ tmKey tile view x / 2 ^ 20 = tile ∧
    tmKey tile view x % 8 = x % 8 ∧ (x / 8 = y / 8 → tmKey tile view x / 8 = tmKey tile view y / 8) ∧
    tmKey tile 0 x = tile * 2 ^ 20 + x % 2 ^ 20 := by
  have hlt := tmPlace_lt (view := view) (Nat.mod_lt x (by decide : 0 < 2 ^ 20))
  have hbyte := (tmPlace_row view (x % 2 ^ 20)).2
  simp only [tmKey_tile ht]
  refine ⟨⟨fun h => tmPlace_injective (Nat.add_left_cancel h), fun h => by rw [h]⟩, by omega, by omega, fun h => ?_, by rw [tmPlace_zero]⟩
  have hword := tmPlace_word (view := view) (show x % 2 ^ 20 / 8 = y % 2 ^ 20 / 8 by omega)
  omega

/-! A run of bytes through a view. -/

theorem State.setTmBytes_eq (bs : List Byte) (s : State) (t view off : Nat) : ∃ m, s.setTmBytes t view off bs = { s with tm := m } := by
  induction bs generalizing s off with
  | nil => exact ⟨s.tm, rfl⟩
  | cons b bs ih =>
    obtain ⟨m, hm⟩ := ih (s.setTmByte t view off b) (off + 1)
    exact ⟨m, hm⟩

/-- A run leaves every place that is none of its own. -/
theorem State.tmByte_setTmBytes_ne (s : State) {t view off x v o : Nat} {bs : List Byte}
    (h : ∀ i, i < bs.length → tmKey x v o ≠ tmKey t view (off + i)) : (s.setTmBytes t view off bs).tmByte x v o = s.tmByte x v o := by
  induction bs generalizing s off with
  | nil => rfl
  | cons b bs ih =>
    have hrest : ∀ i, i < bs.length → tmKey x v o ≠ tmKey t view (off + 1 + i) := fun i hi => by
      rw [Nat.add_assoc, Nat.add_comm 1 i]
      exact h (i + 1) (Nat.succ_lt_succ hi)
    have hfirst : tmKey x v o ≠ tmKey t view off := h 0 (Nat.succ_pos _)
    rw [State.setTmBytes, ih _ hrest, State.tmByte_setTmByte_ne _ _ hfirst]

/-- A run of no more bytes than a tile memory has is read back. -/
theorem State.tmByte_setTmBytes_view (s : State) {t view off i : Nat} {bs : List Byte} (hlen : bs.length ≤ 2 ^ 18) (hi : i < bs.length) :
    (s.setTmBytes t view off bs).tmByte t view (off + i) = bs.getD i 0 := by
  induction bs generalizing s off i with
  | nil => exact absurd hi (Nat.not_lt_zero i)
  | cons b bs ih =>
    simp only [List.length_cons] at hlen hi
    cases i with
    | zero =>
      have hne : ∀ j, j < bs.length → tmKey t view off ≠ tmKey t view (off + 1 + j) := fun j hj e => by
        have := mod_eq_of_tmKey_view e
        omega
      rw [Nat.add_zero, State.setTmBytes, State.tmByte_setTmBytes_ne _ hne, State.tmByte_setTmByte_self, List.getD_cons_zero]
    | succ i =>
      rw [State.setTmBytes, List.getD_cons_succ, show off + (i + 1) = off + 1 + i by omega, ih _ (by omega) (by omega)]

end Sys2Proof.Machine
end

section
/-! PROOFS. A store to tile memory (R95, R183). -/

namespace Sys2Proof.Machine

/-! Reading a register leaves the special registers of tiles and cores. -/

theorem State.sameSpecials_trans {s t u : State} (h : s.sameSpecials t) (k : t.sameSpecials u) : s.sameSpecials u :=
  ⟨fun x n => (k.1 x n).trans (h.1 x n), fun x n => (k.2 x n).trans (h.2 x n)⟩

theorem State.sameSpecials_modTile (s : State) (t : Nat) {f : Tile → Tile} (hf : ∀ x, (f x).sr = x.sr) : s.sameSpecials (s.modTile t f) := by
  refine ⟨fun u n => ?_, fun _ _ => rfl⟩
  by_cases hu : u = t
  · rw [hu, State.tile_modTile_self, Tile.sreg, hf, Tile.sreg]
  · rw [State.tile_modTile_ne _ _ hu]

theorem State.sameSpecials_modCore (s : State) (k : Nat) {f : Core → Core} (hf : ∀ x, (f x).sr = x.sr) : s.sameSpecials (s.modCore k f) := by
  refine ⟨fun _ _ => rfl, fun u n => ?_⟩
  by_cases hu : u = k
  · rw [hu, State.core_modCore_self, Core.sreg, hf, Core.sreg]
  · rw [State.core_modCore_ne _ _ hu]

theorem Core.sr_setQueue (x : Core) (d : Dir) (q : List QVal) : (x.setQueue d q).sr = x.sr := by cases d <;> rfl

theorem State.sameSpecials_read (s : State) (r : Reg) : s.sameSpecials (s.read r).2 := by
  unfold State.read
  split
  · rw [State.pop_state]
    split
    · exact s.sameSpecials_modTile _ fun _ => rfl
    · split
      · exact s.sameSpecials_modTile s.myTile (f := fun t => { t with ev := if s.me.got = 0 then _ else t.ev }) fun _ => rfl
      · exact s.sameSpecials_modCore _ fun x => Core.sr_setQueue x _ _
  · exact ⟨fun _ _ => rfl, fun _ _ => rfl⟩

/-! The run of a store whose checks find tile memory. -/

/-- What a store of n bytes of y at p leaves when p is in tile memory. -/
def State.storedTm (u : State) (p : Word) (n : Nat) (y : Word) : State :=
  (u.setTmBytes (ptrTile u.myTile p) (ptrView p) (ptrOff p) (leBytes n y.toNat)).goOn

section
variable {s : State} {b a : Reg} {off : BitVec 9} (h : s.canExecute) (hg : s.operandsReady [a, b] [] true)
include h hg

theorem run_store_tm {n : Nat}
    (hp : ((s.read a).2.read b).2.atTm (BitVec.ofInt 64 ((s.read a).1.toNat + off.toInt * n)) n .write) :
    run (store b a off n) s =
      .next (((s.read a).2.read b).2.storedTm (BitVec.ofInt 64 ((s.read a).1.toNat + off.toInt * n)) n ((s.read a).2.read b).1) := by
  refine run_ok h.1 (bind_run (noPrefix_ok h.2) (bind_run hg (bind_run (readG_ok a s) (bind_run (readG_ok b _) ?_))))
  rw [memAddr_eq]
  exact bind_run (bind_run hp rfl) (next_ok _)

theorem exec_stNt_tm (hp : ((s.read a).2.read b).2.atTm (BitVec.ofInt 64 ((s.read a).1.toNat + off.toInt * (8 : Nat))) 8 .write) :
    execStNt b a off s =
      .next (((s.read a).2.read b).2.storedTm (BitVec.ofInt 64 ((s.read a).1.toNat + off.toInt * (8 : Nat))) 8 ((s.read a).2.read b).1) := by
  refine run_ok h.1 (bind_run (noPrefix_ok h.2) (bind_run hg (bind_run (readG_ok a s) (bind_run (readG_ok b _) ?_))))
  rw [memAddr_eq]
  exact bind_run hp rfl

/-- Every store to tile memory leaves the state of its bytes. -/
theorem exec_store_tm : ∀ f ∈ ([(.stB b a off, 1), (.stH b a off, 2), (.stW b a off, 4), (.stD b a off, 8), (.stNt b a off, 8)] :
      List (Instr × Nat)),
    ((s.read a).2.read b).2.atTm (BitVec.ofInt 64 ((s.read a).1.toNat + off.toInt * f.2)) f.2 .write → f.2 ≤ 8 ∧
    exec f.1 s =
      .next (((s.read a).2.read b).2.storedTm (BitVec.ofInt 64 ((s.read a).1.toNat + off.toInt * f.2)) f.2 ((s.read a).2.read b).1) := by
  simp only [List.forall_mem_cons, List.not_mem_nil, false_implies, implies_true, and_true]
  exact ⟨fun hp => ⟨by decide, run_store_tm h hg hp⟩, fun hp => ⟨by decide, run_store_tm h hg hp⟩,
    fun hp => ⟨by decide, run_store_tm h hg hp⟩, fun hp => ⟨by decide, run_store_tm h hg hp⟩,
    fun hp => ⟨by decide, exec_stNt_tm h hg hp⟩⟩

end

section
variable (u : State) (p y : Word) {n : Nat}

theorem State.tmByte_storedTm (hn : n ≤ 8) {i : Nat} (hi : i < n) :
    (u.storedTm p n y).tmByte (ptrTile u.myTile p) (ptrView p) (ptrOff p + i) = BitVec.ofNat 8 (y.toNat / 256 ^ i) := by
  rw [← leBytes_getD _ hi]
  exact State.tmByte_setTmBytes_view u (by rw [leBytes_length]; omega) (by rwa [leBytes_length])

theorem State.tmByte_storedTm_ne {x v o : Nat} (h : ∀ i, i < n → tmKey x v o ≠ tmKey (ptrTile u.myTile p) (ptrView p) (ptrOff p + i)) :
    (u.storedTm p n y).tmByte x v o = u.tmByte x v o :=
  State.tmByte_setTmBytes_ne u fun i hi => h i (by rwa [leBytes_length] at hi)

/-- A store to tile memory leaves all but tile memory and the context whose turn it is. -/
theorem State.storedTm_frame : ∃ m, u.storedTm p n y = ({ u with tm := m } : State).goOn := by
  obtain ⟨m, hm⟩ := State.setTmBytes_eq (leBytes n y.toNat) u (ptrTile u.myTile p) (ptrView p) (ptrOff p)
  exact ⟨m, congrArg State.goOn hm⟩

end

/-- Settles O25: a view permutes banks, so the bytes of a store have places of their own, and a store writes no other place. -/
theorem storesWriteTileMemory : Obligations.StoresWriteTileMemory := by
  refine ⟨fun tile view x y ht _ => view_permutes_places view x y ht, fun s b a off h hg f hf => ?_⟩
  intro n p y u tile hp
  obtain ⟨hn, hrun⟩ := exec_store_tm h hg f hf hp
  obtain ⟨m, hm⟩ := u.storedTm_frame p y (n := n)
  have hread : s.sameStore u := State.sameStore_trans (s.sameStore_read a) (State.sameStore_read _ b)
  have hspecial : s.sameSpecials u := State.sameSpecials_trans (s.sameSpecials_read a) (State.sameSpecials_read _ b)
  obtain ⟨⟨g, hme⟩, hothers⟩ := State.me_of_checked (s := s) (a := a) (b := b) (State.sameButCache_refl u)
  obtain ⟨hbytes, hsums, htm, hacc, hcache⟩ := hread
  refine ⟨_, hrun, rfl, fun i hi => u.tmByte_storedTm p y hn hi, fun x v o hne => (u.tmByte_storedTm_ne p y hne).trans (htm x v o), ?_⟩
  rw [show ((s.read a).2.read b).2.storedTm _ f.2 ((s.read a).2.read b).1 = _ from hm]
  refine ⟨fun q => ⟨hbytes q, hsums q⟩, hacc, hcache, State.sameOthers_trans hothers (State.sameOthers_modMe _ _), hspecial, ?_⟩
  rw [State.me_goOn, show ({ u with tm := m } : State).me = { s.me with got := g } from hme]
  exact Ctx.sameBut_advance_of _ rfl rfl rfl rfl rfl rfl

end Sys2Proof.Machine
end

section
/-! PROOFS. A fill word in tile memory: what is written there is read back, and what an arrival leaves (R100, R101). -/

namespace Sys2Proof.Machine

theorem State.tmBytes_setTmBytes_view (s : State) {t view off : Nat} {bs : List Byte} (h : bs.length ≤ 2 ^ 18) :
    (s.setTmBytes t view off bs).tmBytes t view off bs.length = bs := by
  induction bs generalizing s off with
  | nil => rfl
  | cons b bs ih =>
    simp only [List.length_cons] at h
    have hfirst : ∀ i, i < bs.length → tmKey t view off ≠ tmKey t view (off + 1 + i) := fun i hi e => by
      have := mod_eq_of_tmKey_view e
      omega
    rw [List.length_cons, State.tmBytes, State.setTmBytes, State.tmByte_setTmBytes_ne _ hfirst, State.tmByte_setTmByte_self, ih _ (by omega)]

/-- The fields of a fill word are words of 32 bits. -/
def FillWord.fits (w : FillWord) : Prop := w.target < 2 ^ 32 ∧ w.count < 2 ^ 32 ∧ w.gen < 2 ^ 32 ∧ w.flags < 2 ^ 32

theorem leNat_take_lt (bs : List Byte) : leNat (bs.take 4) < 2 ^ 32 :=
  (leNat_lt _).trans_le (Nat.pow_le_pow_right (by decide) (List.length_take_le 4 bs) |>.trans (by decide))

theorem fillOf_fits (bs : List Byte) : (fillOf bs).fits := ⟨leNat_take_lt _, leNat_take_lt _, leNat_take_lt _, leNat_take_lt _⟩

theorem FillWord.bytes_length (w : FillWord) : w.bytes.length = 16 := by simp [FillWord.bytes]

/-- A fill word of fields that fit is what its bytes say. -/
theorem fillOf_bytes {w : FillWord} (h : w.fits) : fillOf w.bytes = w := by
  obtain ⟨ht, hc, hg, hf⟩ := h
  have hbytes : ∀ x, x < 2 ^ 32 → leNat (leBytes 4 x) = x := fun x hx => by rw [leNat_leBytes]; exact Nat.mod_eq_of_lt hx
  simp [fillOf, FillWord.bytes, List.drop_append, List.drop_eq_nil_of_le, List.take_of_length_le, hbytes _ ht, hbytes _ hc, hbytes _ hg, hbytes _ hf]

theorem FillWord.fits_setOver {w : FillWord} (h : w.fits) : w.setOver.fits := by
  obtain ⟨ht, hc, hg, hf⟩ := h
  exact ⟨ht, hc, hg, Nat.or_lt_two_pow hf (by decide)⟩

section
variable (s : State) (t view off : Nat)

theorem State.fillAt_fits : (s.fillAt t view off).fits := fillOf_fits _

/-- A fill word that is written is read back. -/
theorem State.fillAt_setFill {w : FillWord} (h : w.fits) : (s.setFill t view off w).fillAt t view off = w := by
  have hread := s.tmBytes_setTmBytes_view (t := t) (view := view) (off := off) (bs := w.bytes) (by simp [FillWord.bytes_length])
  rw [FillWord.bytes_length] at hread
  unfold State.fillAt State.setFill
  rw [hread, fillOf_bytes h]

/-- Writing a fill word leaves all but tile memory. -/
theorem State.setFill_eq (w : FillWord) : ∃ m, s.setFill t view off w = { s with tm := m } := State.setTmBytes_eq _ _ _ _ _

end

/-! A signal leaves tile memory. -/

theorem State.tm_receive (s : State) (c : Nat) (bit : BitVec 32) : (s.receive c bit).tm = s.tm := by
  unfold State.receive
  dsimp only
  split
  · split <;> rfl
  · rfl

theorem State.tm_signal (s : State) (t line : Nat) : (s.signal t line).tm = s.tm := by
  unfold State.signal
  dsimp only
  split
  · rfl
  · exact foldl_leaves (g := State.tm) (fun u c => u.tm_receive c _) _ s

theorem State.tmBytes_congr {s u : State} (h : u.tm = s.tm) (t view off n : Nat) : u.tmBytes t view off n = s.tmBytes t view off n := by
  induction n generalizing off with
  | zero => rfl
  | succ n ih =>
    rw [State.tmBytes, State.tmBytes, ih, State.tmByte, State.tmByte, h]

theorem State.fillAt_congr {s u : State} (h : u.tm = s.tm) (t view off : Nat) : u.fillAt t view off = s.fillAt t view off :=
  congrArg fillOf (State.tmBytes_congr h t view off 16)

theorem cidTile_of_mem_tileCids {t c : Nat} (h : c ∈ tileCids t) : cidTile c = t := by
  obtain ⟨i, hi, rfl⟩ := List.mem_map.mp h
  have := List.mem_range.mp hi
  unfold cidTile
  omega

/-- A signal that no context of the tile waits for stays pending (R196). -/
theorem State.ev_signal {s : State} {t line : Nat} (h : ∀ c, cidTile c = t → (s.ctx c).waitsLine s.cal line = false) :
    ((s.signal t line).tile t).ev = (s.tile t).ev ||| (1#32 <<< line) := by
  have hnone : ((tileCids t).filter (fun c => (s.ctx c).waitsLine s.cal line)).isEmpty = true :=
    List.isEmpty_iff.mpr (List.filter_eq_nil_iff.mpr fun c hc => by simp [h c (cidTile_of_mem_tileCids hc)])
  rw [show s.signal t line = s.modTile t (fun x => { x with ev := x.ev ||| 1#32 <<< line }) from if_pos hnone, State.tile_modTile_self]

/-! What an arrival makes of a well-formed word (R101). -/

/-- An auto-rearming word at which m bytes arrive that reach its target. -/
def FillWord.rearmed (w : FillWord) (m : Nat) : FillWord :=
  { target := w.target, count := (w.count + m) % w.target, gen := (w.gen + (w.count + m) / w.target) % 2 ^ 32, flags := w.flags }

/-- Any other word at which m bytes arrive that reach its target. -/
def FillWord.reached (w : FillWord) (m : Nat) : FillWord :=
  { target := w.target, count := w.count + m, gen := (if w.count < w.target then (w.gen + 1) % 2 ^ 32 else w.gen),
    flags := (if w.target < w.count + m then Nat.lor w.flags 256 else w.flags) }

section
variable {w : FillWord} {m : Nat}

theorem FillWord.arrive_rearm (ht : w.target ≠ 0) (hlt : w.target < 2 ^ 32) (hr : w.target ≤ w.count + m) (ha : w.rearm = true) :
    w.arrive m = (w.rearmed m, true) := by
  have hmod := Nat.mod_lt (w.count + m) (Nat.pos_of_ne_zero ht)
  unfold FillWord.arrive
  dsimp only
  rw [if_pos (show w.target ≠ 0 ∧ w.target ≤ w.count + m from ⟨ht, hr⟩), if_pos ha]
  exact if_neg (show ¬0xFFFFFFFF < (w.count + m) % w.target by omega)

theorem FillWord.arrive_reaches (ht : w.target ≠ 0) (hr : w.target ≤ w.count + m) (ha : w.rearm = false) (hn : w.count + m < 2 ^ 32) :
    w.arrive m = (w.reached m, decide (w.count < w.target)) := by
  have hfit : ¬0xFFFFFFFF < w.count + m := by omega
  unfold FillWord.arrive FillWord.reached
  dsimp only
  simp only [if_pos (show w.target ≠ 0 ∧ w.target ≤ w.count + m from ⟨ht, hr⟩), ha, Bool.false_eq_true, if_false, decide_eq_true_eq]
  by_cases hover : w.target < w.count + m
  · simp only [if_pos hover, FillWord.setOver, if_neg hfit]
  · simp only [if_neg hover, if_neg hfit]

theorem FillWord.arrive_short (hs : w.target = 0 ∨ w.count + m < w.target) (hn : w.count + m < 2 ^ 32) :
    w.arrive m = ({ w with count := w.count + m }, false) := by
  unfold FillWord.arrive
  dsimp only
  rw [if_neg (show ¬(w.target ≠ 0 ∧ w.target ≤ w.count + m) by omega)]
  exact if_neg (show ¬0xFFFFFFFF < w.count + m by omega)

theorem FillWord.fits_rearmed (h : w.fits) (ht : w.target ≠ 0) : (w.rearmed m).fits := by
  obtain ⟨hft, -, -, hff⟩ := h
  exact ⟨hft, (Nat.mod_lt _ (Nat.pos_of_ne_zero ht)).trans hft, Nat.mod_lt _ (by decide), hff⟩

theorem FillWord.fits_reached (h : w.fits) (hn : w.count + m < 2 ^ 32) : (w.reached m).fits := by
  obtain ⟨hft, -, hfg, hff⟩ := h
  have hover : Nat.lor w.flags 256 < 2 ^ 32 := Nat.or_lt_two_pow hff (by decide)
  refine ⟨hft, hn, ?_, ?_⟩
  · show (if w.count < w.target then (w.gen + 1) % 2 ^ 32 else w.gen) < 2 ^ 32
    split <;> omega
  · show (if w.target < w.count + m then Nat.lor w.flags 256 else w.flags) < 2 ^ 32
    split <;> omega

theorem FillWord.fits_counted (h : w.fits) (hn : w.count + m < 2 ^ 32) : ({ w with count := w.count + m } : FillWord).fits := by
  obtain ⟨hft, -, hfg, hff⟩ := h
  exact ⟨hft, hn, hfg, hff⟩

end

section
variable {s : State} {tile view off m : Nat}

theorem State.fillArrive_malformed (hm : (s.fillAt tile view off).malformed = true) :
    (s.fillArrive tile view off m).1 = s.setFill tile view off (s.fillAt tile view off).setOver :=
  congrArg Prod.fst (if_pos hm)

theorem State.fillArrive_wellFormed {w : FillWord} {b : Bool} (hm : (s.fillAt tile view off).malformed = false)
    (ha : (s.fillAt tile view off).arrive m = (w, b)) : (s.fillArrive tile view off m).1 =
      if b && (s.fillAt tile view off).enabled then (s.setFill tile view off w).signal tile (s.fillAt tile view off).line
      else s.setFill tile view off w := by
  rw [show w = ((s.fillAt tile view off).arrive m).1 by rw [ha], show b = ((s.fillAt tile view off).arrive m).2 by rw [ha]]
  exact congrArg Prod.fst (if_neg (by simp [hm]))

theorem State.fillAt_fillArrive {w : FillWord} {b : Bool} (hm : (s.fillAt tile view off).malformed = false)
    (ha : (s.fillAt tile view off).arrive m = (w, b)) (hw : w.fits) :
    (s.fillArrive tile view off m).1.fillAt tile view off = w := by
  rw [State.fillArrive_wellFormed hm ha]
  split
  · rw [State.fillAt_congr (State.tm_signal _ _ _), s.fillAt_setFill tile view off hw]
  · rw [s.fillAt_setFill tile view off hw]

theorem State.tile_setFill (w : FillWord) (u : Nat) : (s.setFill tile view off w).tile u = s.tile u := by
  obtain ⟨m, h⟩ := s.setFill_eq tile view off w
  rw [h]
  rfl

/-- A word that is reached and enabled signals its line, which stays pending when no context waits for it. -/
theorem State.ev_fillArrive {w : FillWord} (hm : (s.fillAt tile view off).malformed = false)
    (ha : (s.fillAt tile view off).arrive m = (w, true)) (he : (s.fillAt tile view off).enabled = true)
    (hwait : ∀ c, cidTile c = tile → (s.ctx c).waitsLine s.cal (s.fillAt tile view off).line = false) :
    ((s.fillArrive tile view off m).1.tile tile).ev = (s.tile tile).ev ||| (1#32 <<< (s.fillAt tile view off).line) := by
  obtain ⟨n, h⟩ := s.setFill_eq tile view off w
  rw [State.fillArrive_wellFormed hm ha, if_pos (by simp [he]), h]
  exact State.ev_signal hwait

end

/-- FILL_WORD_ARRIVAL: the row's four cases. -/
theorem fillWordArrival_counts (s : State) (tile view off m : Nat) :
    let w := s.fillAt tile view off
    let n := w.count + m
    ∃ t, exec (.fillWordArrival tile view off m) s = .next t ∧
      let y := t.fillAt tile view off
      (w.malformed = true → y = { w with flags := Nat.lor w.flags 256 } ∧ ∀ u, t.tile u = s.tile u) ∧
      (w.malformed = false → w.target ≠ 0 → w.target ≤ n → w.rearm = true →
        y.count < w.target ∧ (∃ k, n = k * w.target + y.count ∧ y.gen = (w.gen + k) % 2 ^ 32) ∧ y.flags = w.flags ∧
        y.target = w.target ∧
        (w.enabled = true → (∀ c, cidTile c = tile → (s.ctx c).waitsLine s.cal w.line = false) →
          (t.tile tile).ev = (s.tile tile).ev ||| (1#32 <<< w.line))) ∧
      (w.malformed = false → w.target ≠ 0 → w.target ≤ n → w.rearm = false → n < 2 ^ 32 →
        y.count = n ∧ y.gen = (if w.count < w.target then (w.gen + 1) % 2 ^ 32 else w.gen) ∧ y.target = w.target ∧
        y.flags = (if w.target < n then Nat.lor w.flags 256 else w.flags)) ∧
      (w.malformed = false → (w.target = 0 ∨ n < w.target) → n < 2 ^ 32 →
        y = { w with count := n } ∧ ∀ u, t.tile u = s.tile u) := by
  intro w n
  have hfits : w.fits := s.fillAt_fits tile view off
  refine ⟨_, rfl, fun hm => ⟨?_, fun u => ?_⟩, fun hm ht hr ha => ?_, fun hm ht hr ha hn => ?_, fun hm hs hn => ?_⟩
  · rw [State.fillArrive_malformed hm]
    exact s.fillAt_setFill tile view off (FillWord.fits_setOver hfits)
  · rw [State.fillArrive_malformed hm, State.tile_setFill]
  · have harr := FillWord.arrive_rearm ht hfits.1 hr ha
    rw [State.fillAt_fillArrive hm harr (FillWord.fits_rearmed hfits ht)]
    exact ⟨Nat.mod_lt _ (Nat.pos_of_ne_zero ht), ⟨n / w.target, (Nat.div_add_mod' n w.target).symm, rfl⟩, rfl, rfl,
      fun he hwait => State.ev_fillArrive hm harr he hwait⟩
  · rw [State.fillAt_fillArrive hm (FillWord.arrive_reaches ht hr ha hn) (FillWord.fits_reached hfits hn)]
    exact ⟨rfl, rfl, rfl, rfl⟩
  · have harr := FillWord.arrive_short hs hn
    refine ⟨State.fillAt_fillArrive hm harr (FillWord.fits_counted hfits hn), fun u => ?_⟩
    rw [State.fillArrive_wellFormed hm harr, if_neg (by simp), State.tile_setFill]

end Sys2Proof.Machine
end

section
/-! PROOFS. FILLT, FILLA and FILLW (R129, R204). -/

namespace Sys2Proof.Machine

section
variable {s : State} {d a b : Reg}

theorem exec_fillt (h : s.canExecute) (hg : s.operandsReady [a] [d] false) (hp : fillPtr (s.read a).1 false (s.read a).2 = .ok () (s.read a).2)
    (hd : (s.read a).2.operandsReady [] [d] true) :
    let p := (s.read a).1
    let u := (s.read a).2
    let w := if u.bulkSync u.myTile then u.snapWord p else u.fillWord p
    exec (.fillt d a) s = .next ((u.write d (BitVec.ofNat 64 (w.count * 2 ^ 32 + w.gen))).goOn) :=
  run_ok h.1 (bind_run (noPrefix_ok h.2) (bind_run hg (bind_run (readG_ok a s) (bind_run hp (bind_run hd rfl)))))

theorem exec_filla (h : s.canExecute) (hg : s.operandsReady [a, b] [d] false)
    (hp : fillPtr (s.read a).1 true ((s.read a).2.read b).2 = .ok () ((s.read a).2.read b).2)
    (hd : ((s.read a).2.read b).2.operandsReady [] [d] true) :
    let p := (s.read a).1
    let u := ((s.read a).2.read b).2
    let y := ((s.read a).2.read b).1
    let w := u.fillWord p
    let z : FillWord :=
      { target := y.toNat % 2 ^ 32, count := 0, gen := w.gen, flags := w.flags - (if w.flags.testBit 8 then 256 else 0) }
    exec (.filla d a b) s = .next (((u.setFill u.myTile (ptrView p) (ptrOff p) z).write d
      (BitVec.ofNat 64 ((if w.flags.testBit 8 then 2 ^ 63 else 0) + w.count))).goOn) :=
  run_ok h.1 (bind_run (noPrefix_ok h.2) (bind_run hg (bind_run (readG_ok a s) (bind_run (readG_ok b _) (bind_run hp (bind_run hd rfl))))))

/-- The word that FILLA arms is read back. -/
theorem State.fillWord_setFill (u : State) (p : Word) {z : FillWord} (hz : z.fits) :
    (u.setFill u.myTile (ptrView p) (ptrOff p) z).fillWord p = z := by
  have hcur : (u.setFill u.myTile (ptrView p) (ptrOff p) z).myTile = u.myTile := by
    obtain ⟨m, h⟩ := u.setFill_eq u.myTile (ptrView p) (ptrOff p) z
    rw [h]
    rfl
  rw [State.fillWord, hcur, State.fillAt_setFill _ _ _ _ hz]

end

/-- An instruction that closes the windows first and waits: its pops are undone, not the closes. -/
theorem runClose_wait {m : M Unit} {s t : State} {k : WaitKind} {op : Word} (hl : s.me.live = true) (hc : s.canClose) (hr : s.closesClean)
    (h : m s.closed = .error (.wait k op) t) : runClose m s = .next ((t.unpop s.closed).beginWait k op) := by
  have hkeep : keepQueues m s.closed = .error (.wait k op) (t.unpop s.closed) := by simp only [keepQueues, h]
  unfold runClose runRaw
  rw [if_pos hl, bind_ok (closeAll_ok hc hr), hkeep]

section
variable {s : State} {d a b : Reg} (h : s.canExecuteClosed) (hg : s.closed.operandsReady [a, b] [d] false)
  (hb : s.closed.bulkSync s.closed.myTile = false)
  (hp : fillPtr (s.closed.read a).1 false ((s.closed.read a).2.read b).2 = .ok () ((s.closed.read a).2.read b).2)
include h hg hb hp

theorem exec_fillw (hw : (((s.closed.read a).2.read b).2.fillWord (s.closed.read a).1).gen ≠ ((s.closed.read a).2.read b).1.toNat % 2 ^ 32)
    (hd : ((s.closed.read a).2.read b).2.operandsReady [] [d] true) :
    exec (.fillw d a b) s = .next ((((s.closed.read a).2.read b).2.write d
      (BitVec.ofNat 64 (((s.closed.read a).2.read b).2.fillWord (s.closed.read a).1).gen)).goOn) := by
  obtain ⟨hl, hc, hr, hx⟩ := h
  refine runClose_ok hl hc hr (bind_run (noPrefix_ok hx) (bind_run hg ?_))
  rw [get_bind, hb]
  refine bind_run rfl (bind_run (readG_ok a _) (bind_run (readG_ok b _) (bind_run hp ?_)))
  rw [get_bind, if_neg hw]
  exact bind_run hd rfl

theorem exec_fillw_waits (hw : (((s.closed.read a).2.read b).2.fillWord (s.closed.read a).1).gen = ((s.closed.read a).2.read b).1.toNat % 2 ^ 32) :
    ∃ t, exec (.fillw d a b) s = .next t ∧ t.me.wait = .fillw ∧ t.me.pc = s.closed.me.pc ∧ s.closed.sameStore t := by
  obtain ⟨hl, hc, hr, hx⟩ := h
  obtain ⟨g, hga⟩ := s.closed.me_read a
  obtain ⟨g', hgb⟩ := (s.closed.read a).2.me_read b
  refine ⟨_, runClose_wait (t := ((s.closed.read a).2.read b).2) (k := .fillw)
    (op := BitVec.ofNat 64 (ptrOff (s.closed.read a).1 + (((s.closed.read a).2.read b).1.toNat % 2 ^ 32) * 2 ^ 32)) hl hc hr
    (bind_run (noPrefix_ok hx) (bind_run hg ?_)), ?_, ?_, ?_⟩
  · rw [get_bind, hb]
    refine bind_run rfl (bind_run (readG_ok a _) (bind_run (readG_ok b _) (bind_run hp ?_)))
    rw [get_bind, if_pos hw]
    rfl
  · rw [State.me_wait]
  · rw [State.me_wait, hgb, hga]
  · exact State.sameStore_trans (State.sameStore_trans (State.sameStore_read _ a) (State.sameStore_read _ b))
      (State.sameStore_trans (State.sameStore_unpop _ _) (State.sameStore_modCtx _ _ _))

end

/-- Settles O22: an arrival is the counting of its word, which tile memory reads back, and each instruction is its row. -/
theorem fillWordsCountAndAnswer : Obligations.FillWordsCountAndAnswer := by
  refine ⟨fillWordArrival_counts, fun s d a b h => ⟨fun hg => ?_, fun hg => ?_, fun hx hg hb => ?_⟩⟩
  · exact fun hp hd => exec_fillt h hg hp hd
  · intro p u y w z hp hd
    obtain ⟨-, -, hgen, hflags⟩ : w.fits := u.fillAt_fits _ _ _
    exact ⟨exec_filla h hg hp hd, u.fillWord_setFill p ⟨Nat.mod_lt _ (by decide), Nat.two_pow_pos 32, hgen, (Nat.sub_le _ _).trans_lt hflags⟩⟩
  · exact fun hp => ⟨fun hw hd => exec_fillw hx hg hb hp hw hd, fun hw => exec_fillw_waits hx hg hb hp hw⟩

end Sys2Proof.Machine
end

section
/-! PROOFS. A page whose region is not the pointer's, in memory that cannot be read right (R310, R331): the region mismatch comes first. -/

namespace Sys2Proof.Machine

/-- An entry that maps the first page in region 1 and grants every right. -/
def regionOneEntry : TlbE := { e0 := 0x800000000000001F, e1 := 0, e2 := 0, e3 := 0 }

/-- The first context, whose tile's TLB holds that entry alone, while the first line of memory is bad. -/
def mismatchedBadPage : State :=
  { (State.reset.withFetchWord 32 0).modTile 0 (fun t => { t with tlb := [regionOneEntry] }) with badLines := [0] }

theorem mismatchedBadPage_found : (mismatchedBadPage.tile mismatchedBadPage.myTile).tlb.find?
    (fun e => e.covers (mismatchedBadPage.yardOf mismatchedBadPage.myTile) (ptrAddr 8)) = some regionOneEntry := rfl

/-- The page's address lies in the bad line. -/
theorem mismatchedBadPage_memBad : mismatchedBadPage.memBad (regionOneEntry.ppage + (ptrAddr 8 - regionOneEntry.vpage)) = true := by decide

/-- A load there raises the region mismatch, not the memory error. -/
theorem mismatchedBadPage_load : checkM 8 4 .read mismatchedBadPage = .error (.trap .regionMismatch 8) mismatchedBadPage := rfl

/-- Refutes O24: of a page of another region in memory that cannot be read right, the clause of the memory error says that cause, while the
region mismatch, checked before, is raised. -/
theorem not_accessesAreCheckedAndTranslated : ¬ Obligations.AccessesAreCheckedAndTranslated := by
  rintro ⟨-, htranslated⟩
  obtain ⟨hentry, -⟩ := htranslated mismatchedBadPage 8 4 .read (by decide) rfl (by decide) rfl (.inr rfl) (.inl rfl) rfl
  obtain ⟨-, -, hbad, -⟩ := hentry regionOneEntry mismatchedBadPage_found rfl rfl rfl
  have hcause := mismatchedBadPage_load.symm.trans (hbad (by decide) mismatchedBadPage_memBad)
  injection hcause with hexit
  cases hexit

end Sys2Proof.Machine
end

section
/-! PROOFS. The fetch of a TSC whose program counter names another tile's memory (R91, R92): the pointer passes its checks when the two lie
in one comb, and the bytes fetched are the TSC's own. -/

namespace Sys2Proof.Machine

/-- A comb that holds tile 0 and the first TSC's tile. -/
def combOfTileAndTsc : Comb :=
  { yard := 0, job := 0, tiles := [1024, 0], gen := 0, floor := 0, floorWas := 0, floorAt := 0, hold := false, holdWas := false,
    holdAt := 0, bsp := false, desc := 0, homeTile := 0, homeCore := 0, frames := 0, poolBase := 0, sstep := 0, flags := 0, gains := [],
    gainOvf := false }

/-- The first TSC's context, with its program counter at the first byte of tile 0's memory, which is 1; the TSC's own memory is empty. -/
def tscFetchingFromTile : State :=
  (({ State.reset with cur := 1024 * 64, combs := [combOfTileAndTsc] }).setTmByte 0 0 0 1).setCtx (1024 * 64)
    { (State.reset.ctx 0) with pc := 0xE000000000000000 }

/-- The program counter passes the checks of a fetch. -/
theorem tscFetchingFromTile_atTm : tscFetchingFromTile.atTm tscFetchingFromTile.me.pc 4 .fetch := rfl

/-- What is fetched is the first word of the TSC's own memory. -/
theorem fetch_tscFetchingFromTile : fetch tscFetchingFromTile = .ok 0 tscFetchingFromTile := rfl

/-- What the statement says is fetched: the first word of tile 0's memory. -/
theorem tscFetchingFromTile_named :
    BitVec.ofNat 32 (leNat (tscFetchingFromTile.tmBytes (ptrTile tscFetchingFromTile.myTile tscFetchingFromTile.me.pc)
      (ptrView tscFetchingFromTile.me.pc) (ptrOff tscFetchingFromTile.me.pc) 4)) = 1 := rfl

/-- Refutes O3: a TSC fetches from its own memory also where its program counter names the memory of another tile of its comb, and there
the clause of the fetch from tile memory says the other tile's bytes. -/
theorem not_instructionsAreFetchedAndDecoded : ¬ Obligations.InstructionsAreFetchedAndDecoded := by
  rintro ⟨⟨-, hlocal, -⟩, -⟩
  have hword := hlocal tscFetchingFromTile tscFetchingFromTile_atTm
  rw [tscFetchingFromTile_named, fetch_tscFetchingFromTile] at hword
  injection hword with hzero
  cases hzero

end Sys2Proof.Machine
end

section
/-! PROOFS. A write-back (R103, R104, R105, R107, R108, R323): the line that has been cleaned, what a write at home lets go of L2, and where
the dirty bytes go. -/

namespace Sys2Proof

/-! The entries and the length of a map. -/

/-- An entry of a canonical map is what the map reads. -/
theorem SMap.get_of_mem_wf {α : Type} [DecidableEq α] {d : Nat → α} {m : SMap α} {k : Nat} {a : α} (hwf : SMap.wf d m = true)
    (hmem : (k, a) ∈ m) : SMap.get d m k = a := by
  induction m with
  | nil => cases hmem
  | cons p m ih =>
    obtain ⟨j, b⟩ := p
    obtain ⟨-, habove, hwf'⟩ := SMap.wf_cons.mp hwf
    rcases List.mem_cons.mp hmem with heq | hin
    · cases heq
      simp [SMap.get]
    · have hne : j ≠ k := (SMap.wf_lt habove hwf' _ hin).ne
      simpa [SMap.get, hne] using ih hwf' hin

theorem SMap.nodup_keys {α : Type} [DecidableEq α] {d : Nat → α} {m : SMap α} (hwf : SMap.wf d m = true) :
    (m.map (fun p => p.1)).Nodup := by
  induction m with
  | nil => exact .nil
  | cons p m ih =>
    obtain ⟨j, b⟩ := p
    obtain ⟨-, habove, hwf'⟩ := SMap.wf_cons.mp hwf
    refine List.nodup_cons.mpr ⟨fun hin => ?_, ih hwf'⟩
    obtain ⟨q, hq, heq⟩ := List.mem_map.mp hin
    exact absurd (SMap.wf_lt habove hwf' q hq) (by simp [heq])

theorem SMap.length_set_le {α : Type} [DecidableEq α] (d : Nat → α) (m : SMap α) (k : Nat) (a : α) :
    (SMap.set d m k a).length ≤ m.length + 1 := by
  have herase : (m.erase k).length ≤ m.length := List.length_filter_le _ _
  have hinsert (m : SMap α) : (m.insert k a).length = m.length + 1 := by
    induction m with
    | nil => rfl
    | cons p m ih =>
      obtain ⟨j, b⟩ := p
      rw [SMap.insert]
      split
      · rfl
      · exact congrArg (· + 1) ih
  unfold SMap.set
  split
  · omega
  · rw [hinsert]
    omega

/-- Bytes that are put in a write-combining buffer make it longer by at most their number. -/
theorem SMap.length_setBytes_le {α : Type} [DecidableEq α] (d : Nat → α) (g : Byte → α) (base : Nat) (ps : List (Byte × Nat)) (m : SMap α) :
    (ps.foldl (fun m p => SMap.set d m (base + p.2) (g p.1)) m).length ≤ m.length + ps.length := by
  induction ps generalizing m with
  | nil => simp
  | cons p ps ih =>
    have hset := SMap.length_set_le d m (base + p.2) (g p.1)
    have hrest := ih (SMap.set d m (base + p.2) (g p.1))
    rw [List.foldl_cons, List.length_cons]
    omega

end Sys2Proof

namespace Sys2Proof.Machine

/-! A line after its dirty bytes have been cleaned. -/

/-- The clean bytes of a line with byte k replaced, as the line's cleaning replaces it. -/
def replaceByte (c : BitVec 1024) (k : Nat) (b : Byte) : BitVec 1024 :=
  (c &&& ~~~(BitVec.ofNat 1024 255 <<< (8 * k))) ||| (b.setWidth 1024 <<< (8 * k))

theorem getLsbD_lowByte (j : Nat) : (BitVec.ofNat 1024 255).getLsbD j = decide (j < 8) := by
  have hbit : Nat.testBit 255 j = decide (j < 8) := Nat.testBit_two_pow_sub_one 8 j
  rw [BitVec.getLsbD_ofNat, hbit]
  by_cases hj : j < 8
  · simp [hj, show j < 1024 by omega]
  · simp [hj]

theorem extractLsb'_replaceByte (c : BitVec 1024) (b : Byte) {i k : Nat} (hi : i < 128) :
    (replaceByte c k b).extractLsb' (8 * i) 8 = if i = k then b else c.extractLsb' (8 * i) 8 := by
  apply BitVec.eq_of_getLsbD_eq
  intro j hj
  have hin : 8 * i + j < 1024 := by omega
  have hbits : ((replaceByte c k b).extractLsb' (8 * i) 8).getLsbD j =
      (c.getLsbD (8 * i + j) && !(!decide (8 * i + j < 8 * k) && decide (8 * i + j - 8 * k < 8)) ||
        !decide (8 * i + j < 8 * k) && b.getLsbD (8 * i + j - 8 * k)) := by
    simp only [replaceByte, BitVec.getLsbD_extractLsb', BitVec.getLsbD_or, BitVec.getLsbD_and, BitVec.getLsbD_not, BitVec.getLsbD_shiftLeft,
      BitVec.getLsbD_setWidth, getLsbD_lowByte, hin, hj, decide_true, Bool.true_and,
      show 8 * i + j - 8 * k < 1024 by omega]
  rw [hbits]
  by_cases hik : i = k
  · subst hik
    simp [hj]
  · rw [if_neg hik, BitVec.getLsbD_extractLsb']
    rcases Nat.lt_or_gt_of_ne hik with hlt | hgt
    · have hbefore : 8 * i + j < 8 * k := by omega
      simp [hbefore, hj]
    · have hafter : ¬8 * i + j - 8 * k < 8 := by omega
      have hzero : b.getLsbD (8 * i + j - 8 * k) = false := BitVec.getLsbD_of_ge _ _ (by omega)
      simp [hafter, hzero, hj]

theorem CacheLine.cleaned_cons (x : CacheLine) (k : Nat) (d : DirtyByte) (m : SMap (Option DirtyByte)) :
    ({ x with dirty := (k, some d) :: m }).cleaned = ({ x with dirty := m, clean := replaceByte x.clean k d.byte }).cleaned := rfl

/-- A line in canonical form reads the same after its dirty bytes have been cleaned. -/
theorem CacheLine.byteAt_cleaned {m : SMap (Option DirtyByte)} (hwf : SMap.wf (fun _ => none) m = true) (x : CacheLine) {i : Nat}
    (hi : i < 128) : ({ x with dirty := m }).cleaned.byteAt i = ({ x with dirty := m }).byteAt i := by
  induction m generalizing x with
  | nil => rfl
  | cons p m ih =>
    obtain ⟨k, od⟩ := p
    obtain ⟨hne, habove, hwf'⟩ := SMap.wf_cons.mp hwf
    obtain ⟨d, rfl⟩ := Option.ne_none_iff_exists'.mp hne
    rw [CacheLine.cleaned_cons, ih hwf' { x with clean := replaceByte x.clean k d.byte }]
    by_cases hik : i = k
    · subst hik
      have hget : SMap.get (fun _ => none) m i = none :=
        (SMap.get_mem_or_default (fun _ => none) m i).resolve_left fun hmem => absurd (SMap.wf_lt habove hwf' _ hmem) (lt_irrefl i)
      simp [CacheLine.byteAt, hget, SMap.get, CacheLine.cleanByte, extractLsb'_replaceByte _ _ hi]
    · simp [CacheLine.byteAt, SMap.get, Ne.symm hik, CacheLine.cleanByte, extractLsb'_replaceByte _ _ hi, hik]

/-- The dirty cells of a canonical line are its dirty bytes, each with its address. -/
theorem CacheLine.mem_dirtyCells {x : CacheLine} (hwf : SMap.wf (fun _ => none) x.dirty = true) {l a : Nat} {d : DirtyByte} :
    (a, d) ∈ x.dirtyCells l ↔ ∃ i, a = l * 128 + i ∧ SMap.get (fun _ => none) x.dirty i = some d := by
  unfold CacheLine.dirtyCells
  constructor
  · intro hmem
    obtain ⟨⟨i, od⟩, hin, hmap⟩ := List.mem_filterMap.mp hmem
    obtain ⟨e, rfl, heq⟩ := Option.map_eq_some_iff.mp hmap
    cases heq
    exact ⟨i, rfl, SMap.get_of_mem_wf hwf hin⟩
  · rintro ⟨i, rfl, hget⟩
    refine List.mem_filterMap.mpr ⟨(i, some d), ?_, rfl⟩
    have hin := (SMap.get_mem_or_default (fun _ => none) x.dirty i).resolve_right (by simp [hget])
    rwa [hget] at hin

theorem CacheLine.nodup_dirtyCells {x : CacheLine} (hwf : SMap.wf (fun _ => none) x.dirty = true) (l : Nat) :
    ((x.dirtyCells l).map (fun c => c.1)).Nodup := by
  have hkeys : ((x.dirtyCells l).map (fun c => c.1)).Sublist ((x.dirty.map (fun p => p.1)).map (fun i => l * 128 + i)) := by
    unfold CacheLine.dirtyCells
    generalize x.dirty = m
    induction m with
    | nil => exact .slnil
    | cons p m ih =>
      obtain ⟨i, od⟩ := p
      cases od with
      | none => exact ih.cons _
      | some d => exact ih.cons_cons _
  exact ((SMap.nodup_keys hwf).map (f := fun i => l * 128 + i) fun i j hij => Nat.add_left_cancel hij).sublist hkeys

/-! What a write at home lets go of L2 (R104, R368). -/

/-- Line k of L2 is as it was, or L2 has let go of it and its granule's floor covers its version. -/
def State.keepsOrLetsGo (s t : State) (k : Nat) : Prop :=
  t.l2line k = s.l2line k ∨ (t.l2line k = L2Line.absent ∧ s.evictable k = true ∧ (s.l2line k).ver ≤ t.floorOf (k * 128))

/-- At most L2 differs, no floor has sunk, and every line but l is as it was or has been let go. -/
def State.makesWay (s t : State) (l : Nat) : Prop :=
  s.sameButL2 t ∧ (∀ pa, s.floorOf pa ≤ t.floorOf pa) ∧ ∀ k, k ≠ l → s.keepsOrLetsGo t k

theorem State.evictable_congr {s t : State} {k : Nat} (hline : t.l2line k = s.l2line k)
    (hsum : ∀ i, i < 32 → t.sumEnt (k * 32 + i) = s.sumEnt (k * 32 + i)) : t.evictable k = s.evictable k := by
  have hlive : (List.range 32).any (fun i => (t.sumEnt (k * 32 + i)).live) = (List.range 32).any (fun i => (s.sumEnt (k * 32 + i)).live) := by
    refine Bool.eq_iff_iff.mpr ?_
    simp only [List.any_eq_true, List.mem_range]
    exact exists_congr fun i => and_congr_right fun hi => by rw [hsum i hi]
  unfold State.evictable
  dsimp only
  rw [hline, hlive]

theorem State.makesWay_refl (s : State) (l : Nat) : s.makesWay s l :=
  ⟨s.sameButL2_refl, fun _ => BitVec.le_refl _, fun _ _ => .inl rfl⟩

theorem State.makesWay_trans {s t u : State} {l : Nat} (h : s.makesWay t l) (h' : t.makesWay u l) : s.makesWay u l := by
  obtain ⟨hsame, hfloor, hlines⟩ := h
  obtain ⟨hsame', hfloor', hlines'⟩ := h'
  refine ⟨State.sameButL2_trans hsame hsame', fun pa => BitVec.le_trans (hfloor pa) (hfloor' pa), fun k hk => ?_⟩
  rcases hlines k hk with hkept | ⟨hgone, hevict, hver⟩
  · rcases hlines' k hk with hkept' | ⟨hgone', hevict', hver'⟩
    · exact .inl (hkept'.trans hkept)
    · refine .inr ⟨hgone', ?_, by rwa [← hkept]⟩
      rw [← State.evictable_congr hkept fun i _ => State.sumEnt_of_sameButL2 hsame _]
      exact hevict'
  · have hgone' : u.l2line k = L2Line.absent := (hlines' k hk).elim (fun hkept' => hkept'.trans hgone) fun h => h.1
    exact .inr ⟨hgone', hevict, BitVec.le_trans hver (hfloor' _)⟩

section
variable (s : State) (l : Nat)

theorem State.makesWay_setL2 (x : L2Line) : s.makesWay (s.setL2 l x) l :=
  ⟨s.sameButL2_setL2 l x, fun _ => BitVec.le_refl _, fun _ hk => .inl (State.l2line_setL2_ne _ _ hk)⟩

theorem State.makesWay_useL2 : s.makesWay (s.useL2 l) l :=
  ⟨s.sameButL2_useL2 l, fun _ => BitVec.le_refl _, fun _ hk => .inl (State.l2line_setL2_ne _ _ hk)⟩

theorem State.makesWay_putL2 (t w : Nat) : s.makesWay (s.putL2 l t w) l :=
  State.makesWay_trans (s.makesWay_setL2 l _) (State.makesWay_useL2 _ l)

/-- The floors after a line has been let go. -/
theorem State.floorOf_evictL2 {k : Nat} (he : s.evictable k = true) (pa : Nat) : (s.evictL2 k).floorOf pa =
    if pa / 65536 = k * 128 / 65536 then (if s.floorOf (k * 128) < (s.l2line k).ver then (s.l2line k).ver else s.floorOf (k * 128))
    else s.floorOf pa := by
  unfold State.evictL2
  rw [he]
  exact SMap.get_set _ _ _ _

theorem State.makesWay_evictL2 (k : Nat) : s.makesWay (s.evictL2 k) l := by
  cases he : s.evictable k with
  | false =>
    have hsame : s.evictL2 k = s := by simp [State.evictL2, he]
    rw [hsame]
    exact s.makesWay_refl l
  | true =>
    refine ⟨s.sameButL2_evictL2 k, fun pa => ?_, fun j _ => ?_⟩
    · rw [s.floorOf_evictL2 he]
      split
      · next hgranule =>
        have hfloor : s.floorOf pa = s.floorOf (k * 128) := by unfold State.floorOf; rw [hgranule]
        rw [hfloor]
        split
        · next hlt => exact BitVec.le_of_lt hlt
        · exact BitVec.le_refl _
      · exact BitVec.le_refl _
    · by_cases hj : j = k
      · subst hj
        refine .inr ⟨?_, he, ?_⟩
        · unfold State.evictL2
          rw [he]
          exact State.l2line_setL2_self _ _ _
        · rw [s.floorOf_evictL2 he, if_pos rfl]
          split
          · exact BitVec.le_refl _
          · next hnlt => exact BitVec.not_lt.mp hnlt
      · exact .inl (State.l2line_evictL2_ne hj)

theorem State.makesWay_placeL2 (t : Nat) : s.makesWay (s.placeL2 l t) l := by
  obtain ⟨w, h⟩ | ⟨w, k, -, h⟩ | ⟨-, h⟩ := s.placeL2_cases l t <;> rw [h]
  · exact s.makesWay_putL2 l t w
  · exact State.makesWay_trans (s.makesWay_evictL2 l k) (State.makesWay_putL2 _ l t w)
  · exact s.makesWay_setL2 l _

theorem State.makesWay_moveL2 (y : Nat) : s.makesWay (s.moveL2 l y) l := by
  obtain h | ⟨-, h⟩ | ⟨-, -, h⟩ := s.moveL2_cases l y <;> rw [h]
  · exact s.makesWay_refl l
  · exact s.makesWay_setL2 l _
  · exact State.makesWay_trans (s.makesWay_setL2 l _) (State.makesWay_placeL2 _ l y)

end

theorem State.makesWay_fillL2 (s : State) (pa y : Nat) : s.makesWay (s.fillL2 pa y) (lineOf pa) := by
  unfold State.fillL2
  dsimp only
  split
  · exact s.makesWay_useL2 _
  · exact State.makesWay_trans (s.makesWay_setL2 _ _) (State.makesWay_placeL2 _ _ y)

/-- A line that L2 has no way for is filled without another line's leaving. -/
theorem State.l2line_fillL2_of_absent {s : State} {pa y : Nat} (h : ((s.fillL2 pa y).l2line (lineOf pa)).present = false) {k : Nat}
    (hk : k ≠ lineOf pa) : (s.fillL2 pa y).l2line k = s.l2line k := by
  unfold State.fillL2 at h ⊢
  dsimp only at h ⊢
  split
  · exact State.l2line_setL2_ne _ _ hk
  · next hp =>
    rw [if_neg hp] at h
    have habs : (s.l2line (lineOf pa)).present = false := by simpa using hp
    rcases State.l2line_placeL2 (s := s) (l := lineOf pa) y (x := { s.l2line (lineOf pa) with ver := s.floorOf pa + 1 }) habs
      with ⟨hin, -⟩ | ⟨hway, -, -⟩
    · rw [hin] at h
      cases h
    · obtain ⟨w, hput⟩ | ⟨w, j, hsome, -⟩ | ⟨-, hout⟩ := State.placeL2_cases _ (lineOf pa) y
      · rw [hput, (State.l2line_putL2 _ _ _ _).1] at h
        cases h
      · rw [hway] at hsome
        cases hsome
      · rw [hout, State.l2line_setL2_ne _ _ hk, State.l2line_setL2_ne _ _ hk]

/-- A write at home keeps every other line of L2, or lets go of it as R104 says. -/
theorem State.keepsOrLetsGo_bumpVer (s : State) (pa y : Nat) {k : Nat} (hk : k ≠ lineOf pa) : s.keepsOrLetsGo (s.bumpVer pa y) k := by
  have hway := State.makesWay_trans (s.makesWay_fillL2 pa y) (State.makesWay_moveL2 _ (lineOf pa) y)
  have hpres := ((s.fillL2 pa y).l2line_moveL2 (lineOf pa) y).1
  unfold State.bumpVer
  dsimp only
  split
  · exact (State.makesWay_trans hway (State.makesWay_setL2 _ (lineOf pa) _)).2.2 k hk
  · next hp =>
    have habs : ((s.fillL2 pa y).l2line (lineOf pa)).present = false := by rw [← hpres]; simpa using hp
    left
    rw [State.moveL2_of_absent habs]
    exact State.l2line_fillL2_of_absent habs hk

end Sys2Proof.Machine
end

section
/-! PROOFS. The write-back of a line (R103, R105, R107, R323): one write at home, which advances the line's version by 1. -/

namespace Sys2Proof.Machine

theorem State.sumEnt_putBytes_out {bs : List (Nat × Byte)} {s : State} {w : Nat} (h : ∀ p ∈ bs, p.1 / 4 ≠ w) :
    (s.putBytes bs).sumEnt w = s.sumEnt w := by
  induction bs generalizing s with
  | nil => rfl
  | cons p bs ih =>
    obtain ⟨a, b⟩ := p
    obtain ⟨ha, hbs⟩ := List.forall_mem_cons.mp h
    rw [State.putBytes, ih hbs, State.sumEnt_setSum_ne _ _ (Ne.symm ha)]
    rfl

/-- A word that bytes are written in has no exact-sum entry (R87). -/
theorem State.sumEnt_putBytes_in {bs : List (Nat × Byte)} {s : State} {w : Nat} (h : s.sumEnt w = SumEnt.none ∨ ∃ p ∈ bs, p.1 / 4 = w) :
    (s.putBytes bs).sumEnt w = SumEnt.none := by
  induction bs generalizing s with
  | nil => exact h.resolve_right (by simp)
  | cons p bs ih =>
    obtain ⟨a, b⟩ := p
    rw [State.putBytes]
    refine ih ?_
    by_cases ha : a / 4 = w
    · subst ha
      exact .inl (State.sumEnt_setSum_self _ _ _)
    · refine h.imp (fun hnone => ?_) (fun hex => ?_)
      · rw [State.sumEnt_setSum_ne _ _ (Ne.symm ha)]
        exact hnone
      · obtain ⟨q, hq, hw⟩ := hex
        rcases List.mem_cons.mp hq with rfl | hq
        · exact absurd hw ha
        · exact ⟨q, hq, hw⟩

/-- The version of a line is that of any of its addresses. -/
theorem State.verOf_line (s : State) {a b : Nat} (h : lineOf a = lineOf b) : s.verOf a = s.verOf b := by
  have hgranule : a / 65536 = b / 65536 := by unfold lineOf at h; omega
  unfold State.verOf State.floorOf
  rw [h, hgranule]

/-- The bytes of cells, with their addresses. -/
def cellBytes (cells : List (Nat × DirtyByte)) : List (Nat × Byte) := cells.map (fun c => (c.1, c.2.byte))

section
variable {s : State} {l : Nat} {pg : Pg} {cells : List (Nat × DirtyByte)} (hne : cells ≠ []) (hline : ∀ c ∈ cells, lineOf c.1 = l)
  (hlive : ∀ c ∈ cells, s.isDead c.2.tag = false) (hpg : ∀ c ∈ cells, c.2.pg = pg) (hside : pg.memSide = false)
  (hkey : s.keyClash (l * 128) pg = false) (hspace : paSpace (l * 128) = 0) (hchannel : s.channelDead (l * 128) = false)
  (hplain : s.isDead 0x10000 = false)
include hne hline hlive hpg hside hkey hspace hchannel hplain

/-- The live bytes of one line, of a page whose key the line takes, are written at home in one write. -/
theorem State.sendHome_written (t : Nat) : ∃ k a y, lineOf a = l ∧
    s.sendHome t l cells = (({ s with lineKeys := k } : State).putBytes (cellBytes cells)).bumpVer a y := by
  cases cells with
  | nil => exact absurd rfl hne
  | cons c cs =>
    obtain ⟨a, d⟩ := c
    have ha : lineOf a = l := hline _ List.mem_cons_self
    have hd : d.pg = pg := hpg _ List.mem_cons_self
    have hall : ((a, d) :: cs).filter (fun c => !s.isDead c.2.tag) = (a, d) :: cs :=
      List.filter_eq_self.mpr fun c hc => by simp [hlive c hc]
    have hfree : s.keyClash a pg = false := by
      rw [← hkey]
      unfold State.keyClash State.lineKey
      rw [show lineOf (l * 128) = l by unfold lineOf; omega, ha]
    have hver : versioned a pg = true := by
      have hspaceA : paSpace a = 0 := by unfold paSpace lineOf at *; omega
      simp [versioned, hspaceA, hside]
    obtain ⟨k, hk⟩ := State.takeKey_noClash hfree
    refine ⟨k, a, s.yardOf t, ha, ?_⟩
    have hsend : s.sendHome t l ((a, d) :: cs) = s.homeWrite 0x10000 (s.yardOf t) pg ((a, d.byte) :: cellBytes cs) := by
      have hhere : ¬(paSpace (l * 128) = 0xA ∨ s.channelDead (l * 128) = true) := by simp [hspace, hchannel]
      unfold State.sendHome
      dsimp only
      rw [if_neg hhere, if_neg (by simp [hchannel]), hall, hd]
      rfl
    rw [hsend, State.homeWrite_cons hplain, if_pos hver, hk]
    rfl

theorem State.byte_sendHome_out (t : Nat) {a : Nat} (ha : ∀ c ∈ cells, c.1 ≠ a) : (s.sendHome t l cells).byte a = s.byte a := by
  obtain ⟨k, b, y, -, h⟩ := State.sendHome_written hne hline hlive hpg hside hkey hspace hchannel hplain t
  rw [h, State.byte_of_sameButL2 (State.sameButL2_bumpVer _ _ _)]
  refine State.byte_putBytes_out fun p hp => ?_
  obtain ⟨c, hc, rfl⟩ := List.mem_map.mp hp
  exact ha c hc

theorem State.sumEnt_sendHome_in (t : Nat) {c : Nat × DirtyByte} (hc : c ∈ cells) :
    ((s.sendHome t l cells).sumEnt (c.1 / 4)).live = false := by
  obtain ⟨k, b, y, -, h⟩ := State.sendHome_written hne hline hlive hpg hside hkey hspace hchannel hplain t
  rw [h, State.sumEnt_of_sameButL2 (State.sameButL2_bumpVer _ _ _),
    State.sumEnt_putBytes_in (bs := cellBytes cells) (.inr ⟨(c.1, c.2.byte), List.mem_map.mpr ⟨c, hc, rfl⟩, rfl⟩)]
  rfl

theorem State.verOf_sendHome (t : Nat) : (s.sendHome t l cells).verOf (l * 128) = s.verOf (l * 128) + 1 := by
  obtain ⟨k, a, y, ha, h⟩ := State.sendHome_written hne hline hlive hpg hside hkey hspace hchannel hplain t
  obtain ⟨m, e, hput⟩ := State.putBytes_eq (cellBytes cells) { s with lineKeys := k }
  have hsame : lineOf (l * 128) = lineOf a := by rw [ha]; unfold lineOf; omega
  rw [h, State.verOf_line _ hsame, State.verOf_bumpVer, hput, State.verOf_line s hsame]
  rfl

theorem State.keepsOrLetsGo_sendHome (t : Nat) {j : Nat} (hj : j ≠ l) : s.keepsOrLetsGo (s.sendHome t l cells) j := by
  obtain ⟨k, a, y, ha, h⟩ := State.sendHome_written hne hline hlive hpg hside hkey hspace hchannel hplain t
  obtain ⟨m, e, hput⟩ := State.putBytes_eq (cellBytes cells) { s with lineKeys := k }
  have hlines : (({ s with lineKeys := k } : State).putBytes (cellBytes cells)).l2line j = s.l2line j := by rw [hput]; rfl
  have hevict : (({ s with lineKeys := k } : State).putBytes (cellBytes cells)).evictable j = s.evictable j := by
    refine State.evictable_congr hlines fun i hi => State.sumEnt_putBytes_out fun p hp => ?_
    obtain ⟨c, hc, rfl⟩ := List.mem_map.mp hp
    have hcl := hline c hc
    unfold lineOf at hcl
    dsimp only
    omega
  have hbump := State.keepsOrLetsGo_bumpVer (({ s with lineKeys := k } : State).putBytes (cellBytes cells)) a y (k := j) (by rw [ha]; exact hj)
  unfold State.keepsOrLetsGo at hbump ⊢
  rw [hlines, hevict] at hbump
  rw [h]
  exact hbump

end

theorem State.writeBack_clean {s : State} {tile l : Nat} (h : ((s.tile tile).line l).dirty = []) : s.writeBack tile l = s := by
  simp [State.writeBack, CacheLine.dirtyCells, h]

theorem State.writeBack_dirty {s : State} {tile l : Nat} (h : ((s.tile tile).line l).dirtyCells l ≠ []) :
    s.writeBack tile l = (s.sendHome tile l (((s.tile tile).line l).dirtyCells l)).modTile tile
      (fun x => x.setLine l ((s.tile tile).line l).cleaned) := by
  simp [State.writeBack, h]

/-- After a write-back of a dirty line L1 holds it clean, and its other lines as they were. -/
theorem State.line_writeBack {s : State} {tile l : Nat} (h : ((s.tile tile).line l).dirtyCells l ≠ []) (k : Nat) :
    ((s.writeBack tile l).tile tile).line k = if k = l then ((s.tile tile).line l).cleaned else (s.tile tile).line k := by
  rw [State.writeBack_dirty h, State.tile_modTile_self, State.tile_sendHome]
  exact SMap.get_set _ _ _ _

theorem CacheLine.dirtyCells_ne_nil {x : CacheLine} (hwf : SMap.wf (fun _ => none) x.dirty = true) (h : x.dirty ≠ []) (l : Nat) :
    x.dirtyCells l ≠ [] := by
  obtain ⟨⟨i, od⟩, m, hm⟩ := List.exists_cons_of_ne_nil h
  have hsome : od ≠ none := (SMap.wf_cons.mp (hm ▸ hwf)).1
  obtain ⟨d, rfl⟩ := Option.ne_none_iff_exists'.mp hsome
  have hmem : (l * 128 + i, d) ∈ x.dirtyCells l := by
    refine (CacheLine.mem_dirtyCells hwf).mpr ⟨i, rfl, ?_⟩
    rw [hm]
    simp [SMap.get]
  exact List.ne_nil_of_mem hmem

/-- The part of O29 about the write-back of a line. -/
theorem State.writeBack_wholeLine (s : State) (tile l : Nat) (pg : Pg) (hwf : SMap.wf (fun _ => none) ((s.tile tile).line l).dirty = true)
    (hcells : ∀ i d, SMap.get (fun _ => none) ((s.tile tile).line l).dirty i = some d → i < 128 ∧ s.isDead d.tag = false ∧ d.pg = pg)
    (hside : pg.memSide = false) (hkey : s.keyClash (l * 128) pg = false) (hspace : paSpace (l * 128) = 0)
    (hchannel : s.channelDead (l * 128) = false) (hplain : s.isDead 0x10000 = false) :
    let t := s.writeBack tile l
    (∀ i d, SMap.get (fun _ => none) ((s.tile tile).line l).dirty i = some d →
      t.byte (l * 128 + i) = d.byte ∧ (t.sumEnt ((l * 128 + i) / 4)).live = false) ∧
    (∀ a, (a / 128 = l → SMap.get (fun _ => none) ((s.tile tile).line l).dirty (a % 128) = none) → t.byte a = s.byte a) ∧
    (∀ i, i < 128 → ((t.tile tile).line l).byteAt i = ((s.tile tile).line l).byteAt i) ∧ ((t.tile tile).line l).dirty = [] ∧
    ((t.tile tile).line l).ver = ((s.tile tile).line l).ver ∧
    t.verOf (l * 128) = (if ((s.tile tile).line l).dirty = [] then s.verOf (l * 128) else s.verOf (l * 128) + 1) ∧
    ∀ k, k ≠ l → (t.tile tile).line k = (s.tile tile).line k ∧
      (t.l2line k = s.l2line k ∨
        (t.l2line k = L2Line.absent ∧ s.evictable k = true ∧ (s.l2line k).ver ≤ t.floorOf (k * 128))) := by
  by_cases hd : ((s.tile tile).line l).dirty = []
  · rw [State.writeBack_clean hd, if_pos hd]
    exact ⟨fun i d hget => (by rw [hd] at hget; cases hget), fun _ _ => rfl, fun _ _ => rfl, hd, rfl, rfl, fun _ _ => ⟨rfl, .inl rfl⟩⟩
  · have hne := CacheLine.dirtyCells_ne_nil hwf hd l
    have hmem : ∀ c ∈ ((s.tile tile).line l).dirtyCells l, lineOf c.1 = l ∧ s.isDead c.2.tag = false ∧ c.2.pg = pg := by
      rintro ⟨a, d⟩ hc
      obtain ⟨i, rfl, hget⟩ := (CacheLine.mem_dirtyCells hwf).mp hc
      obtain ⟨hi, htag, hpage⟩ := hcells i d hget
      exact ⟨by unfold lineOf; omega, htag, hpage⟩
    have hline : ∀ c ∈ ((s.tile tile).line l).dirtyCells l, lineOf c.1 = l := fun c hc => (hmem c hc).1
    have hlive : ∀ c ∈ ((s.tile tile).line l).dirtyCells l, s.isDead c.2.tag = false := fun c hc => (hmem c hc).2.1
    have hpage : ∀ c ∈ ((s.tile tile).line l).dirtyCells l, c.2.pg = pg := fun c hc => (hmem c hc).2.2
    have hself : ((s.writeBack tile l).tile tile).line l = ((s.tile tile).line l).cleaned := by rw [State.line_writeBack hne, if_pos rfl]
    dsimp only
    rw [if_neg hd, hself]
    refine ⟨fun i d hget => ?bytes, fun a ha => ?other, fun i hi => ?line, rfl, rfl, ?version, fun k hk => ⟨?l1, ?l2⟩⟩
    case bytes =>
      have hin : (l * 128 + i, d) ∈ ((s.tile tile).line l).dirtyCells l := (CacheLine.mem_dirtyCells hwf).mpr ⟨i, rfl, hget⟩
      rw [State.writeBack_dirty hne]
      exact ⟨State.byte_sendHome_in tile hin (CacheLine.nodup_dirtyCells hwf l) (hlive _ hin) hplain hchannel,
        State.sumEnt_sendHome_in hne hline hlive hpage hside hkey hspace hchannel hplain tile hin⟩
    case other =>
      rw [State.writeBack_dirty hne]
      refine State.byte_sendHome_out hne hline hlive hpage hside hkey hspace hchannel hplain tile fun c hc heq => ?_
      obtain ⟨i, hi, hget⟩ := (CacheLine.mem_dirtyCells (a := c.1) (d := c.2) hwf).mp hc
      obtain ⟨hlt, -⟩ := hcells i c.2 hget
      have hoff : a % 128 = i := by omega
      have hnone := ha (by omega)
      rw [hoff, hget] at hnone
      cases hnone
    case line => exact CacheLine.byteAt_cleaned hwf _ hi
    case version =>
      rw [State.writeBack_dirty hne]
      exact State.verOf_sendHome hne hline hlive hpage hside hkey hspace hchannel hplain tile
    case l1 => rw [State.line_writeBack hne, if_neg hk]
    case l2 =>
      rw [State.writeBack_dirty hne]
      exact State.keepsOrLetsGo_sendHome hne hline hlive hpage hside hkey hspace hchannel hplain tile hk

end Sys2Proof.Machine
end

section
/-! PROOFS. ST.NT, PREF, FLUSH and INVAL (R108, R183, R185). -/

namespace Sys2Proof.Machine

/-! ST.NT. -/

/-- A byte of a context's store, with what travels with it (R108). -/
def State.storedByte (s : State) (c : Nat) (l : Leaf) (b : Byte) : Option DirtyByte :=
  some { byte := b, core := cidCore c, tag := s.tagOf c, pg := l.pg, ptr := l.ptr, pc := (s.ctx c).pc }

/-- The write-combining buffer with the bytes of a store of a context. -/
def State.combinedBytes (s : State) (c : Nat) (l : Leaf) (bs : List Byte) (w : SMap (Option DirtyByte)) : SMap (Option DirtyByte) :=
  (bs.zipIdx).foldl (fun w p => SMap.set (fun _ => none) w (l.pa + p.2) (s.storedByte c l p.1)) w

theorem State.get_combinedBytes (s : State) (c : Nat) (l : Leaf) (bs : List Byte) (w : SMap (Option DirtyByte)) (q : Nat) :
    SMap.get (fun _ => none) (s.combinedBytes c l bs w) q =
      if l.pa ≤ q ∧ q < l.pa + bs.length then s.storedByte c l (bs.getD (q - l.pa) 0) else SMap.get (fun _ => none) w q := by
  have hget := SMap.get_setBytes (fun _ => none) (s.storedByte c l) bs w l.pa 0 q
  rwa [Nat.add_zero] at hget

/-- A doubleword stays in a buffer that was empty: it fills no line. -/
theorem State.combine_empty {s : State} {t : Nat} (c : Nat) (l : Leaf) {bs : List Byte} (hempty : (s.tile t).wcb = []) (hbs : bs.length < 128) :
    s.combine c t l bs = s.modTile t (fun x => { x with wcb := s.combinedBytes c l bs (s.tile t).wcb }) := by
  have hlen : (s.combinedBytes c l bs (s.tile t).wcb).length < 128 := by
    have hle := SMap.length_setBytes_le (fun _ => none) (s.storedByte c l) l.pa bs.zipIdx (s.tile t).wcb
    rw [hempty, List.length_zipIdx, List.length_nil, Nat.zero_add] at hle
    rw [hempty]
    exact Nat.lt_of_le_of_lt hle hbs
  have hfew : ((s.combinedBytes c l bs (s.tile t).wcb).filter (fun p => lineOf p.1 == lineOf l.pa)).length ≠ 128 :=
    ((List.length_filter_le _ _).trans_lt hlen).ne
  refine if_neg ?_
  rw [State.tile_modTile_self]
  exact hfew

theorem State.tile_goOn (s : State) (t : Nat) : s.goOn.tile t = s.tile t := rfl

theorem storeNt_combine {v : State} {l : Leaf} (hc : v.controlAt l) (habs : ((v.tile v.myTile).line (lineOf l.pa)).present = false)
    (bs : List Byte) : storeNt l bs v = .ok () (v.combine v.cur v.myTile l bs) := by
  obtain ⟨htask, htsc, hspace⟩ := hc
  have hpcie : l.pcie = false := by simp [Leaf.pcie, hspace]
  unfold storeNt
  rw [if_neg (by simp [htask, htsc, hpcie]), if_neg (by simp [habs])]

/-- An ST.NT whose checks pass has read its address and its value, and goes on with the non-temporal store. -/
theorem exec_stNt {s t v : State} {b a : Reg} {off : BitVec 9} {l : Leaf} (h : s.canExecute) (hg : s.operandsReady [a, b] [] true)
    (hl : ((s.read a).2.read b).2.atShared (BitVec.ofInt 64 ((s.read a).1.toNat + off.toInt * 8)) 8 .write l v)
    (hstore : storeNt l (leBytes 8 ((s.read a).2.read b).1.toNat) v = .ok () t) : exec (.stNt b a off) s = .next t.goOn := by
  refine run_ok h.1 (bind_run (noPrefix_ok h.2) (bind_run hg (bind_run (readG_ok a s) (bind_run (readG_ok b _) ?_))))
  dsimp only
  rw [memAddr_eq]
  exact bind_run hl (bind_run hstore (next_ok t))

theorem exec_stNt_combine {s v : State} {b a : Reg} {off : BitVec 9} {l : Leaf} (h : s.canExecute) (hg : s.operandsReady [a, b] [] true)
    (hl : ((s.read a).2.read b).2.atShared (BitVec.ofInt 64 ((s.read a).1.toNat + off.toInt * 8)) 8 .write l v) (hc : v.controlAt l)
    (habs : ((v.tile v.myTile).line (lineOf l.pa)).present = false) (hempty : (v.tile v.myTile).wcb = []) :
    let y := ((s.read a).2.read b).1
    ∃ t, exec (.stNt b a off) s = .next t ∧ (t.tile v.myTile).l1 = (v.tile v.myTile).l1 ∧ (∀ q, t.byte q = v.byte q) ∧
      ∀ i, i < 8 → (SMap.get (fun _ => none) (t.tile v.myTile).wcb (l.pa + i)).map DirtyByte.byte =
        some (BitVec.ofNat 8 (y.toNat / 256 ^ i)) := by
  intro y
  have hstore := storeNt_combine hc habs (leBytes 8 y.toNat)
  rw [State.combine_empty v.cur l hempty (by rw [leBytes_length]; omega)] at hstore
  refine ⟨_, exec_stNt h hg hl hstore, ?_, fun q => rfl, fun i hi => ?_⟩
  · rw [State.tile_goOn, State.tile_modTile_self]
  · rw [State.tile_goOn, State.tile_modTile_self, State.get_combinedBytes, leBytes_length, if_pos (by omega),
      Nat.add_sub_cancel_left, leBytes_getD _ hi]
    rfl

/-! PREF. -/

theorem exec_pref {s : State} {a : Reg} (h : s.canExecute) (hg : s.operandsReady [a] [] true) :
    exec (.pref a) s = .next (((s.read a).2.prefetch (s.read a).1).goOn) :=
  run_ok h.1 (bind_run (noPrefix_ok h.2) (bind_run hg (bind_run (readG_ok a s) (bind_run rfl (next_ok _)))))

/-- A read that is translated leaves the state as it was, but for an entry that comes into its tile's TLB (R333). -/
theorem State.translate_read {s v : State} {c g va kind : Nat} {who : Option Nat} {l : Leaf}
    (h : s.translate c g va kind who .read = .leaf l v) : v = s ∨ ∃ e, v = s.fillTile (cidTile c) e := by
  unfold State.translate at h
  dsimp only at h
  split at h
  · split at h
    · cases h
    · exact .inl (Trans.leaf.inj h).2.symm
  · split at h
    · split at h
      · cases h
      · split at h <;> cases h
    · split at h
      · cases h
      · split at h
        · next e fromHive _ =>
          split at h
          · cases h
          · split at h
            · cases h
            · split at h
              · cases h
              · split at h
                · cases h
                · obtain ⟨-, hv⟩ := Trans.leaf.inj h
                  cases fromHive with
                  | false => exact .inl hv.symm
                  | true => exact .inr ⟨e, hv.symm⟩
        · cases h

/-- At most L2, the tiles and the requests that have left differ. -/
def State.sameButFilled (s t : State) : Prop :=
  ∃ l u f n r ts, t = { s with l2 := l, l2Use := u, floors := f, nextReq := n, remotes := r, tiles := ts }

theorem State.sameButFilled_refl (s : State) : s.sameButFilled s := ⟨s.l2, s.l2Use, s.floors, s.nextReq, s.remotes, s.tiles, rfl⟩

theorem State.sameButFilled_trans {s t u : State} (h : s.sameButFilled t) (k : t.sameButFilled u) : s.sameButFilled u := by
  obtain ⟨_, _, _, _, _, _, rfl⟩ := h
  obtain ⟨_, _, _, _, _, _, rfl⟩ := k
  exact ⟨_, _, _, _, _, _, rfl⟩

theorem State.sameButFilled_modTile (s : State) (t : Nat) (f : Tile → Tile) : s.sameButFilled (s.modTile t f) := ⟨_, _, _, _, _, _, rfl⟩

theorem State.sameButFilled_of_sameButL2 {s t : State} (h : s.sameButL2 t) : s.sameButFilled t := by
  obtain ⟨_, _, _, rfl⟩ := h
  exact ⟨_, _, _, _, _, _, rfl⟩

/-- A fill while L1 has room and no bytes wait in the tile's write-combining buffer writes nothing back. -/
theorem State.sameButFilled_fillL1 {s : State} {t : Nat} (c pa : Nat) (pg : Pg) (hempty : (s.tile t).wcb = [])
    (hroom : (s.tile t).l1.length < 1024) : s.sameButFilled (s.fillL1 c t pa pg) := by
  have hsettle : s.settleWcb t = s := by simp [State.settleWcb, hempty]
  have hplace : s.roomL1 t = s := if_pos hroom
  unfold State.fillL1
  dsimp only
  split
  · exact s.sameButFilled_refl
  · rw [hsettle, hplace, ite_self]
    refine State.sameButFilled_trans ?_ (State.sameButFilled_modTile _ t _)
    split
    · exact State.sameButFilled_of_sameButL2 (s.sameButL2_fillL2 pa _)
    · exact s.sameButFilled_refl

/-- The line fill of PREF while L1 has room. -/
theorem State.sameButFilled_prefetch {s : State} (p : Word) (hempty : (s.tile s.myTile).wcb = []) (hroom : (s.tile s.myTile).l1.length < 1024) :
    s.sameButFilled (s.prefetch p) := by
  unfold State.prefetch
  split
  · next l t hcheck =>
    have ht : t = s ∨ ∃ e, t = s.fillTile s.myTile e := State.translate_read (State.check_shared hcheck).2
    have hchecked : s.sameButFilled t := by
      rcases ht with rfl | ⟨e, rfl⟩
      · exact State.sameButFilled_refl _
      · exact s.sameButFilled_modTile _ _
    have hcaches : (t.tile t.myTile).wcb = (s.tile s.myTile).wcb ∧ (t.tile t.myTile).l1 = (s.tile s.myTile).l1 := by
      rcases ht with rfl | ⟨e, rfl⟩
      · exact ⟨rfl, rfl⟩
      · have htile : (s.fillTile s.myTile e).tile (s.fillTile s.myTile e).myTile = _ := State.tile_modTile_self s s.myTile _
        rw [htile]
        exact ⟨rfl, rfl⟩
    split
    · exact hchecked
    · split
      · split
        · exact s.sameButFilled_refl
        · refine State.sameButFilled_trans hchecked ?_
          unfold State.fetchAhead
          split
          · exact t.sameButFilled_refl
          · exact ⟨_, _, _, _, _, _, rfl⟩
      · split
        · exact State.sameButFilled_trans hchecked
            (State.sameButFilled_fillL1 _ _ _ (hcaches.1.trans hempty) (by rw [hcaches.2]; exact hroom))
        · exact State.sameButFilled_trans hchecked (t.sameButFilled_modTile _ _)
  · exact s.sameButFilled_refl

/-! FLUSH and INVAL. -/

/-- A line whose dirty bytes are home, with its exact-sum entries freed at yard scope or wider (R185). -/
def State.freed (w : State) (pa : Nat) (cc : BitVec 2) : State × Flags :=
  if cc = 0 then (w, Flags.none) else w.flushSums pa (w.yardOf w.myTile)

section
variable {s v t : State} {l : Leaf} {a : Reg} {cc : BitVec 2} {drop : Bool}

theorem flushLine_home (hc : v.controlAt l) (hhome : v.reachesHome l.pa) (hquiet : (v.cleanLine v.myTile (lineOf l.pa)).remotes = [])
    (hflags : ((v.cleanLine v.myTile (lineOf l.pa)).freed l.pa cc).2 = Flags.none) :
    flushLine l cc.toNat drop v = .ok () ((v.cleanLine v.myTile (lineOf l.pa)).freed l.pa cc).1 := by
  have hopen : v.homeOpen v.myTile l.pa none = true := hhome
  have hcc : cc.toNat = 0 ↔ cc = 0 := ⟨fun h => BitVec.eq_of_toNat_eq h, fun h => h ▸ rfl⟩
  unfold flushLine
  rw [if_neg (by simp [hopen]), if_neg (by simp [hopen])]
  simp only [hc.2.1, Bool.false_eq_true, if_false]
  generalize v.cleanLine v.myTile (lineOf l.pa) = w at *
  rw [hquiet, if_neg (by simp)]
  unfold State.freed at hflags ⊢
  by_cases hzero : cc = 0
  · rw [if_pos (hcc.mpr hzero), if_pos hzero]
    exact raiseFlags_none w
  · rw [if_neg hzero] at hflags
    rw [if_neg (fun h => hzero (hcc.mp h)), if_neg hzero, hflags]
    exact raiseFlags_none _

/-- At tile scope FLUSH only starts the write-back of a line that the tile cannot reach, and INVAL waits for the line's owner. -/
theorem flushLine_away (haway : ¬v.reachesHome l.pa) :
    flushLine l 0 false v = .ok () v ∧ flushLine l 0 true v = .error (.wait .owned (BitVec.ofNat 64 l.pa)) v := by
  have hshut : v.homeOpen v.myTile l.pa none = false := Bool.eq_false_iff.mpr haway
  unfold flushLine
  exact ⟨if_pos (by simp [hshut]), (if_neg (by simp)).trans (if_pos (by simp [hshut]))⟩

theorem scopeCheck_ok {sc : Nat} (h : sc = 3 → (s.me.sreg 0x807).getLsbD 0 = true) : scopeCheck sc s = .ok () s := by
  refine if_neg ?_
  rintro ⟨h3, hbit⟩
  rw [h h3] at hbit
  cases hbit

variable (h : s.canExecute) (hg : s.operandsReady [a] [] true) (hl : (s.read a).2.atShared (s.read a).1 1 .write l v) (hc : v.controlAt l)
  (hscope : cc.toNat = 3 → (v.me.sreg 0x807).getLsbD 0 = true)
include h hg hl hc hscope

/-- The run of FLUSH and INVAL whose checks pass, up to the line's write-back. -/
theorem run_lineOp (i : Instr) (hflush : flushLine l cc.toNat drop v = .ok () t) :
    run (lineOp i cc a drop) s = .next (if drop then t.dropLine t.myTile (lineOf l.pa) else t).goOn := by
  refine run_ok h.1 (bind_run (noPrefix_ok h.2) (bind_run hg (bind_run (readG_ok a s) (bind_run hl (bind_run (scopeCheck_ok hscope)
    (bind_run rfl (ite_run_neg (by simp [hc.1]) (bind_run hflush ?_))))))))
  cases drop with
  | false => exact next_ok t
  | true => exact bind_run rfl (next_ok _)

theorem run_lineOp_wait (i : Instr) {k : WaitKind} {op : Word} (hflush : flushLine l cc.toNat drop v = .error (.wait k op) v) :
    run (lineOp i cc a drop) s = .next ((v.unpop s).beginWait k op) :=
  run_wait h.1 (bind_run (noPrefix_ok h.2) (bind_run hg (bind_run (readG_ok a s) (bind_run hl (bind_run (scopeCheck_ok hscope)
    (bind_run rfl (ite_run_neg (by simp [hc.1]) (bind_error hflush))))))))

end

theorem Tile.line_setRoLine (x : Tile) (l k : Nat) (y : CacheLine) : (x.setRoLine l y).line k = x.line k := rfl

theorem Tile.roLine_setRoLine_self (x : Tile) (l : Nat) (y : CacheLine) : (x.setRoLine l y).roLine l = y := SMap.get_set_self _ _ _

/-- A line that has been dropped is neither in L1 nor in the read-only cache. -/
theorem State.dropLine_absent (s : State) (t l : Nat) :
    (((s.dropLine t l).tile t).line l).present = false ∧ (((s.dropLine t l).tile t).roLine l).present = false := by
  unfold State.dropLine
  rw [State.tile_modTile_self]
  rw [Tile.line_setRoLine, Tile.line_setLine_self, Tile.roLine_setRoLine_self]
  exact ⟨rfl, rfl⟩

theorem State.sameButCache_flushSums (s : State) (pa y : Nat) : s.sameButCache (s.flushSums pa y).1 := by
  unfold State.flushSums
  dsimp only
  split
  · exact s.sameButCache_refl
  · refine State.sameButCache_trans (State.sameButCache_foldl _ (fun v i => ?_) s)
      (State.sameButCache_of_sameButHome (State.sameButHome_of_sameButL2 (State.sameButL2_bumpVer _ _ _)))
    obtain ⟨m, hm⟩ := State.setBytes_eq (leBytes 4 (v.sumEnt (lineOf pa * 32 + i)).deliver.1) v ((lineOf pa * 32 + i) * 4)
    rw [hm]
    exact ⟨_, _, _, _, _, _, _, _, _, _, rfl⟩

theorem State.sameButCache_freed (s : State) (pa : Nat) (cc : BitVec 2) : s.sameButCache (s.freed pa cc).1 := by
  unfold State.freed
  split
  · exact s.sameButCache_refl
  · exact s.sameButCache_flushSums _ _

section
variable {s v : State} {l : Leaf} {a : Reg} {cc : BitVec 2} (h : s.canExecute) (hg : s.operandsReady [a] [] true)
  (hl : (s.read a).2.atShared (s.read a).1 1 .write l v) (hc : v.controlAt l)
include h hg hl hc

/-- The part of O29 about a line that the tile cannot reach. -/
theorem exec_flush_away (hcc : cc = 0) (haway : ¬v.reachesHome l.pa) : exec (.flush cc a) s = .next v.goOn ∧
    ∃ t, exec (.inval cc a) s = .next t ∧ t.me.wait = .owned ∧ t.me.pc = v.me.pc ∧ v.sameStore t := by
  subst hcc
  obtain ⟨hstarted, hwaits⟩ := flushLine_away haway
  have hscope : (0 : BitVec 2).toNat = 3 → (v.me.sreg 0x807).getLsbD 0 = true := fun h3 => absurd h3 (by decide)
  refine ⟨run_lineOp h hg hl hc (cc := 0) (drop := false) hscope _ hstarted, _,
    run_lineOp_wait h hg hl hc (cc := 0) (drop := true) hscope _ hwaits, ?_, ?_,
    State.sameStore_trans (State.sameStore_unpop v s) (State.sameStore_modCtx _ _ _)⟩
  · rw [State.me_wait]
  · rw [State.me_wait]

/-- The part of O29 about a line that the tile reaches at home. -/
theorem exec_flush_home (hhome : v.reachesHome l.pa) (hscope : cc.toNat = 3 → (v.me.sreg 0x807).getLsbD 0 = true)
    (hquiet : (v.cleanLine v.myTile (lineOf l.pa)).remotes = [])
    (hflags : ((v.cleanLine v.myTile (lineOf l.pa)).freed l.pa cc).2 = Flags.none) :
    exec (.flush cc a) s = .next ((v.cleanLine v.myTile (lineOf l.pa)).freed l.pa cc).1.goOn ∧
    ∃ t, exec (.inval cc a) s = .next t ∧ ((t.tile v.myTile).line (lineOf l.pa)).present = false ∧
      ((t.tile v.myTile).roLine (lineOf l.pa)).present = false ∧
      ∀ q, t.byte q = ((v.cleanLine v.myTile (lineOf l.pa)).freed l.pa cc).1.byte q := by
  have htile : ((v.cleanLine v.myTile (lineOf l.pa)).freed l.pa cc).1.myTile = v.myTile :=
    congrArg cidTile ((State.cur_of_sameButCache (State.sameButCache_freed _ _ _)).trans
      (State.cur_of_sameButCache (v.sameButCache_cleanLine _ _)))
  have hdrop := State.dropLine_absent ((v.cleanLine v.myTile (lineOf l.pa)).freed l.pa cc).1 v.myTile (lineOf l.pa)
  refine ⟨run_lineOp h hg hl hc hscope (drop := false) _ (flushLine_home hc hhome hquiet hflags), _,
    run_lineOp h hg hl hc hscope (drop := true) _ (flushLine_home hc hhome hquiet hflags), ?_⟩
  rw [if_pos rfl, htile]
  exact ⟨hdrop.1, hdrop.2, fun q => rfl⟩

end

/-- Settles O29: each operation is run once through its checks, PREF's frame is that of a fill while L1 has room, and a write-back is one
write at home. -/
theorem lineOperationsMoveWholeLines : Obligations.LineOperationsMoveWholeLines := by
  unfold Obligations.LineOperationsMoveWholeLines
  refine ⟨fun s b a off cc h => ⟨fun hg => ?store, fun hg => ?lines⟩, State.writeBack_wholeLine⟩
  case store => exact fun l v hl hc habs hempty => exec_stNt_combine h hg hl hc habs hempty
  case lines =>
    refine ⟨exec_pref h hg, fun hempty hroom => ?_, fun l v hl hc hcc haway => exec_flush_away h hg hl hc hcc haway,
      fun l v hl hc hhome hscope hquiet hflags => exec_flush_home h hg hl hc hhome hscope hquiet hflags⟩
    obtain ⟨_, _, _, _, _, _, hfilled⟩ := State.sameButFilled_prefetch (s.read a).1 hempty hroom
    rw [hfilled]
    exact ⟨fun _ => rfl, fun _ _ _ => rfl, rfl⟩

end Sys2Proof.Machine
end

section
/-! PROOFS. Fences: what a release writes back and what an acquire drops (R111, R194). -/

namespace Sys2Proof.Machine

/-! A release (R111). -/

/-- A line holds no byte that core k stored. -/
def CacheLine.freeOf (x : CacheLine) (k : Nat) : Prop := ∀ i d, SMap.get (fun _ => none) x.dirty i = some d → d.core ≠ k

theorem CacheLine.freeOf_of_clean {x : CacheLine} (h : x.dirty = []) (k : Nat) : x.freeOf k := by
  intro i d hget
  rw [h] at hget
  cases hget

theorem CacheLine.freeOf_of_noCells {x : CacheLine} {l : Nat} (h : x.dirtyCells l = []) (k : Nat) : x.freeOf k := by
  intro i d hget
  have hin := (SMap.get_mem_or_default (fun _ => none) x.dirty i).resolve_right (by simp [hget])
  rw [hget] at hin
  have hcell : (l * 128 + i, d) ∈ x.dirtyCells l := List.mem_filterMap.mpr ⟨(i, some d), hin, rfl⟩
  rw [h] at hcell
  cases hcell

section
variable {s : State} {t k : Nat}

/-- A line without bytes of a core keeps that through every write-back, and the line that is written back comes to it. -/
theorem State.freeOf_writeBack {l j : Nat} (h : ((s.tile t).line j).freeOf k ∨ j = l) : (((s.writeBack t l).tile t).line j).freeOf k := by
  by_cases hcells : ((s.tile t).line l).dirtyCells l = []
  · have hsame : s.writeBack t l = s := by simp [State.writeBack, hcells]
    rw [hsame]
    rcases h with hfree | rfl
    · exact hfree
    · exact CacheLine.freeOf_of_noCells hcells k
  · rw [State.line_writeBack hcells]
    split
    · exact CacheLine.freeOf_of_clean rfl k
    · next hne => exact h.resolve_right hne

theorem State.freeOf_writeBacks {ls : List Nat} {j : Nat} (h : ((s.tile t).line j).freeOf k ∨ j ∈ ls) :
    (((ls.foldl (fun s l => s.writeBack t l) s).tile t).line j).freeOf k := by
  induction ls generalizing s with
  | nil => exact h.resolve_right (by simp)
  | cons l ls ih =>
    refine ih ?_
    rcases h with hfree | hmem
    · exact .inl (State.freeOf_writeBack (.inl hfree))
    · rcases List.mem_cons.mp hmem with rfl | hmem
      · exact .inl (State.freeOf_writeBack (.inr rfl))
      · exact .inr hmem

theorem State.line_drainWcb (s : State) (t j : Nat) : ((s.drainWcb t).tile t).line j = (s.tile t).line j := by
  have hsent : (s.sendLines t (s.leaving t) (((s.leaving t).map (fun c => lineOf c.1)).eraseDups)).tile t = s.tile t :=
    foldl_leaves (g := fun v => v.tile t) (fun v l => v.tile_sendHome t l _ t) _ s
  rw [State.drainWcb_eq, State.tile_modTile_self, hsent]
  rfl

/-- The lines of a tile's L1 that hold a byte that core k stored are those that its release writes back. -/
theorem State.freeOf_releaseCore (s : State) (t k j : Nat) : (((s.releaseCore t k).tile t).line j).freeOf k := by
  unfold State.releaseCore
  rw [State.line_drainWcb]
  refine State.freeOf_writeBacks ?_
  by_cases hfree : ((s.tile t).line j).freeOf k
  · exact .inl hfree
  · right
    simp only [CacheLine.freeOf, not_forall, not_not] at hfree
    obtain ⟨i, d, hget, hcore⟩ := hfree
    have hline : (j, (s.tile t).line j) ∈ (s.tile t).l1 := by
      refine (SMap.get_mem_or_default (fun _ => CacheLine.absent) (s.tile t).l1 j).resolve_right fun habs => ?_
      have hdirty : ((s.tile t).line j).dirty = [] := congrArg CacheLine.dirty habs
      exact CacheLine.freeOf_of_clean hdirty k i d hget hcore
    have hbyte : (i, some d) ∈ ((s.tile t).line j).dirty := by
      have hin := (SMap.get_mem_or_default (fun _ => none) ((s.tile t).line j).dirty i).resolve_right (by simp [hget])
      rwa [hget] at hin
    exact List.mem_map.mpr ⟨_, List.mem_filter.mpr ⟨hline, List.any_eq_true.mpr ⟨_, hbyte, by simp [hcore]⟩⟩, rfl⟩

end

section
variable {s : State} {sc : Nat}

theorem release_busy (h : s.copBusy s.cur = true) : release sc s = .error (.wait .drain 0) s := if_pos h

theorem release_tile (h : s.copBusy s.cur = false) : release 0 s = .ok () s := if_neg (by simp [h])

theorem release_written (h : s.copBusy s.cur = false) (hsc : sc ≠ 0) (hblocked : s.dirtyBlocked s.myTile s.myCore = false)
    (hsent : (s.releaseCore s.myTile s.myCore).remotes = []) : release sc s = .ok () (s.releaseCore s.myTile s.myCore) := by
  have hquiet : (s.releaseCore s.myTile s.myCore).remoteBusy (s.releaseCore s.myTile s.myCore).cur sc = false := by
    simp [State.remoteBusy, hsent]
  unfold release
  rw [if_neg (by simp [h]), if_neg hsc, if_neg (by simp [hblocked])]
  exact if_neg (by simp [hquiet])

end

/-! An acquire (R111). -/

section
variable (s : State) (t : Nat)

theorem State.acquireTile_tile : s.acquireTile t 0 = s := rfl

theorem State.acquireTile_eq (sc : Nat) : ∃ ts, s.acquireTile t sc = { s with tiles := ts } := by
  unfold State.acquireTile
  split
  · exact ⟨s.tiles, rfl⟩
  · exact ⟨_, rfl⟩

theorem State.ro_acquireTile {sc : Nat} (h : sc ≠ 0) : ((s.acquireTile t sc).tile t).ro = [] := by
  unfold State.acquireTile
  rw [if_neg h, State.tile_modTile_self]

/-- A line that an acquire reaches and that is still there holds dirty bytes, and its clean ones are to be filled again. -/
theorem State.line_acquireTile {sc l : Nat} (h : sc ≠ 0) (hp : (((s.acquireTile t sc).tile t).line l).present = true)
    (hreach : paSpace (l * 128) ≠ 0xA ∨ 2 ≤ sc) :
    (((s.acquireTile t sc).tile t).line l).refill = true ∧ (((s.acquireTile t sc).tile t).line l).dirty ≠ [] := by
  have hmem := (SMap.get_mem_or_default (fun _ => CacheLine.absent) ((s.acquireTile t sc).tile t).l1 l).resolve_right fun habs => by
    have hp' : CacheLine.absent.present = true := habs ▸ hp
    cases hp'
  have hl1 : ((s.acquireTile t sc).tile t).l1 = (s.tile t).l1.filterMap (fun p =>
      if paSpace (p.1 * 128) = 0xA ∧ sc < 2 then some p
      else if p.2.dirty.isEmpty then none else some (p.1, { p.2 with refill := true })) := by
    unfold State.acquireTile
    rw [if_neg h, State.tile_modTile_self]
  have hin : (l, ((s.acquireTile t sc).tile t).line l) ∈ ((s.acquireTile t sc).tile t).l1 := hmem
  generalize ((s.acquireTile t sc).tile t).line l = x at hin ⊢
  rw [hl1] at hin
  obtain ⟨⟨j, y⟩, -, hy⟩ := List.mem_filterMap.mp hin
  dsimp only at hy
  split at hy
  · next hkept =>
    cases hy
    exact absurd hkept.2 (by have := hreach.resolve_left (fun hne => hne hkept.1); omega)
  · split at hy
    · cases hy
    · next hdirty =>
      cases hy
      exact ⟨rfl, fun hnil => hdirty (by simp [show y.dirty = [] from hnil])⟩

end

/-! The fences (R194). -/

section
variable {s t : State} {sc : BitVec 2}

theorem scopeCheck_trap {n : Nat} (h3 : n = 3) (hbit : (s.me.sreg 0x807).getLsbD 0 = false) :
    scopeCheck n s = .error (.trap .scopePolicy 0) s := if_pos ⟨h3, by rw [hbit]; rfl⟩

theorem acquire_ok (n : Nat) (s : State) : acquire n s = .ok () (s.acquireTile s.myTile n) := rfl

variable (h : s.canExecuteClosed)
include h

theorem exec_fence_policy (h3 : sc.toNat = 3) (hbit : (s.closed.me.sreg 0x807).getLsbD 0 = false) (hclose : s.closed.canClose) :
    exec (.fenceAcq sc) s = .next (s.raised s.closed .scopePolicy 0) ∧ exec (.fenceRel sc) s = .next (s.raised s.closed .scopePolicy 0) ∧
      exec (.fenceAr sc) s = .next (s.raised s.closed .scopePolicy 0) := by
  obtain ⟨hl, hc, hr, hx⟩ := h
  have hcheck {β : Type} (f : Unit → M β) : (scopeCheck sc.toNat >>= f) s.closed = .error (.trap .scopePolicy 0) s.closed :=
    bind_error (scopeCheck_trap h3 hbit)
  exact ⟨runClose_trap hl hc hr (bind_run (noPrefix_ok hx) (hcheck _)) hclose, runClose_trap hl hc hr (bind_run (noPrefix_ok hx) (hcheck _)) hclose,
    runClose_trap hl hc hr (bind_run (noPrefix_ok hx) (hcheck _)) hclose⟩

variable (hscope : sc.toNat = 3 → (s.closed.me.sreg 0x807).getLsbD 0 = true)
include hscope

theorem exec_fenceAcq : exec (.fenceAcq sc) s = .next ((s.closed.acquireTile s.closed.myTile (s.closed.fenceScope sc)).goOn) := by
  obtain ⟨hl, hc, hr, hx⟩ := h
  exact runClose_ok hl hc hr (bind_run (noPrefix_ok hx) (bind_run (scopeCheck_ok hscope) (bind_run rfl (bind_run (acquire_ok _ _) (next_ok _)))))

theorem exec_fenceRel (hrel : release (s.closed.fenceScope sc) s.closed = .ok () t) : exec (.fenceRel sc) s = .next t.goOn := by
  obtain ⟨hl, hc, hr, hx⟩ := h
  exact runClose_ok hl hc hr (bind_run (noPrefix_ok hx) (bind_run (scopeCheck_ok hscope) (bind_run rfl (bind_run hrel (next_ok _)))))

theorem exec_fenceAr (hrel : release (s.closed.fenceScope sc) s.closed = .ok () t) :
    exec (.fenceAr sc) s = .next ((t.acquireTile t.myTile (s.closed.fenceScope sc)).goOn) := by
  obtain ⟨hl, hc, hr, hx⟩ := h
  exact runClose_ok hl hc hr (bind_run (noPrefix_ok hx) (bind_run (scopeCheck_ok hscope) (bind_run rfl (bind_run hrel
    (bind_run (acquire_ok _ _) (next_ok _))))))

end

/-- Settles O32: a release writes back the lines with bytes of its core one by one, an acquire keeps of a line only its dirty bytes, and each
fence is one run. -/
theorem fencesMakeStoresVisible : Obligations.FencesMakeStoresVisible := by
  unfold Obligations.FencesMakeStoresVisible
  refine ⟨fun s sc => ⟨release_busy, release_tile, ?_, ?_, State.acquireTile_tile s _, ?_⟩, fun s sc h => ⟨fun hscope => ?_, ?_⟩⟩
  · intro hquiet hsc hblocked t hsent
    exact ⟨release_written hquiet hsc hblocked hsent, fun l i d hget => s.freeOf_releaseCore s.myTile s.myCore l i d hget⟩
  · exact fun hsc => ⟨s.ro_acquireTile s.myTile hsc, fun l hp hreach => s.line_acquireTile s.myTile hsc hp hreach⟩
  · obtain ⟨ts, hacq⟩ := s.acquireTile_eq s.myTile sc
    rw [hacq]
    rfl
  · exact ⟨exec_fenceAcq h hscope, fun t hrel => ⟨exec_fenceRel h hscope hrel, exec_fenceAr h hscope hrel⟩⟩
  · exact fun h3 hbit hclose => exec_fence_policy h h3 hbit hclose

end Sys2Proof.Machine
end

section
/-! PROOFS. Event lines: a signal that arrives, EVW and EVS (R127, R196-R199). -/

namespace Sys2Proof.Machine

/-! A signal at a context that waits (R196, R198). -/

/-- A context of a tile is one of the contexts that its signals reach. -/
theorem mem_tileCids {c : Nat} (h : cidSlot c < 12) : c ∈ tileCids (cidTile c) := by
  have hslot : c % 16 < 12 := h
  have hid : (c / 64 * 4 + (c / 16 % 4 * 12 + c % 16) / 12) * 16 + (c / 16 % 4 * 12 + c % 16) % 12 = c := by omega
  exact List.mem_map.mpr ⟨c / 16 % 4 * 12 + c % 16, List.mem_range.mpr (by omega), hid⟩

theorem nodup_tileCids (t : Nat) : (tileCids t).Nodup :=
  List.nodup_range.map_on (fun i hi j hj h => by
    rw [List.mem_range] at hi hj
    omega)

/-- The lines that a context has received once one more has come (R196, R198). -/
def Ctx.withLine (x : Ctx) (bit : BitVec 32) : BitVec 32 := if x.wait = .pop ∧ x.got ≠ 0 then bit else x.got ||| bit

section
variable (s : State) (c : Nat) (bit : BitVec 32)

/-- What a signal changes where it is received: a context, and the event lines of its tile. -/
theorem State.receive_eq : ∃ xs ts, s.receive c bit = { s with ctxs := xs, tiles := ts } := by
  unfold State.receive
  dsimp only
  split
  · split
    · exact ⟨_, _, rfl⟩
    · exact ⟨_, _, rfl⟩
  · exact ⟨_, _, rfl⟩

theorem State.ctx_receive_ne {d : Nat} (h : d ≠ c) : (s.receive c bit).ctx d = s.ctx d := by
  unfold State.receive
  dsimp only
  split
  · refine (State.ctx_modCtx_ne _ _ h).trans ?_
    split
    · rfl
    · exact State.ctx_modTile _ _ _ _
  · exact State.ctx_modCtx_ne _ _ h

theorem State.got_receive_self : ((s.receive c bit).ctx c).got = (s.ctx c).withLine bit := by
  unfold State.receive Ctx.withLine
  dsimp only
  by_cases h : (s.ctx c).wait = .pop ∧ (s.ctx c).got ≠ 0
  · rw [if_pos (by simpa using h), if_pos h, State.ctx_modCtx_self]
  · rw [if_neg (by simpa using h), if_neg h, State.ctx_modCtx_self]

theorem State.sameStore_receive : s.sameStore (s.receive c bit) := by
  unfold State.receive
  dsimp only
  split
  · refine State.sameStore_trans ?_ (State.sameStore_modCtx _ c _)
    split
    · exact s.sameStore_refl
    · exact State.sameStore_modTile s _ _ (fun _ => ⟨rfl, rfl, rfl⟩)
  · exact State.sameStore_modCtx s c _

/-- A context gives lines back to its tile only where it waits at a pop and has received a line before (R198). -/
theorem State.tile_receive (h : (s.ctx c).wait = .pop → (s.ctx c).got = 0) (t : Nat) : (s.receive c bit).tile t = s.tile t := by
  have hkeep : ¬((s.ctx c).wait == .pop && (s.ctx c).got != 0) = true := by simpa using h
  unfold State.receive
  dsimp only
  rw [if_neg hkeep]
  rfl

end

/-- A signal at the contexts cs, one after the other. -/
def State.receives (s : State) (cs : List Nat) (bit : BitVec 32) : State := cs.foldl (fun s c => s.receive c bit) s

section
variable {s : State} {cs : List Nat} {bit : BitVec 32}

theorem State.ctx_receives_out {d : Nat} (h : d ∉ cs) : (s.receives cs bit).ctx d = s.ctx d := by
  induction cs generalizing s with
  | nil => rfl
  | cons c cs ih =>
    obtain ⟨hne, hrest⟩ := not_or.mp (fun hd => h (List.mem_cons.mpr hd))
    exact (ih hrest).trans (s.ctx_receive_ne c bit hne)

theorem State.got_receives_in {c : Nat} (h : c ∈ cs) (hnodup : cs.Nodup) : ((s.receives cs bit).ctx c).got = (s.ctx c).withLine bit := by
  induction cs generalizing s with
  | nil => cases h
  | cons k cs ih =>
    obtain ⟨hk, hrest⟩ := List.nodup_cons.mp hnodup
    rcases List.mem_cons.mp h with rfl | hin
    · exact (congrArg Ctx.got (State.ctx_receives_out (s := s.receive c bit) hk)).trans (s.got_receive_self c bit)
    · refine (ih (s := s.receive k bit) hin hrest).trans ?_
      rw [s.ctx_receive_ne k bit (fun heq => hk (heq ▸ hin))]

theorem State.tile_receives (hnodup : cs.Nodup) (h : ∀ c ∈ cs, (s.ctx c).wait = .pop → (s.ctx c).got = 0) (t : Nat) :
    (s.receives cs bit).tile t = s.tile t := by
  induction cs generalizing s with
  | nil => rfl
  | cons k cs ih =>
    obtain ⟨hk, hrest⟩ := List.nodup_cons.mp hnodup
    refine (ih (s := s.receive k bit) hrest fun c hc => ?_).trans (s.tile_receive k bit (h k List.mem_cons_self) t)
    rw [s.ctx_receive_ne k bit (fun heq => hk (heq ▸ hc))]
    exact h c (List.mem_cons_of_mem k hc)

theorem State.sameStore_receives : s.sameStore (s.receives cs bit) :=
  foldl_keeps (fun u => s.sameStore u) cs (fun u c hu => State.sameStore_trans hu (u.sameStore_receive c bit)) s.sameStore_refl

theorem State.cur_receives : (s.receives cs bit).cur = s.cur :=
  foldl_leaves (g := State.cur) (fun u c => by obtain ⟨_, _, h⟩ := u.receive_eq c bit; rw [h]) cs s

end

/-- The contexts of a tile that wait on a line. -/
def State.waiters (s : State) (t line : Nat) : List Nat := (tileCids t).filter (fun c => (s.ctx c).waitsLine s.cal line)

section
variable {s : State} {t line : Nat}

theorem State.signal_pending (h : s.waiters t line = []) : s.signal t line = s.modTile t (fun x => { x with ev := x.ev ||| 1#32 <<< line }) :=
  if_pos (List.isEmpty_iff.mpr h)

theorem State.signal_received (h : s.waiters t line ≠ []) : s.signal t line = s.receives (s.waiters t line) (1#32 <<< line) :=
  if_neg fun he => h (List.isEmpty_iff.mp he)

theorem State.waiters_nil (h : ∀ c, cidTile c = t → (s.ctx c).waitsLine s.cal line = false) : s.waiters t line = [] :=
  List.filter_eq_nil_iff.mpr fun c hc => by simp [h c (cidTile_of_mem_tileCids hc)]

theorem State.mem_waiters {c : Nat} (ht : cidTile c = t) (hslot : cidSlot c < 12) (hw : (s.ctx c).waitsLine s.cal line = true) :
    c ∈ s.waiters t line := List.mem_filter.mpr ⟨ht ▸ mem_tileCids hslot, hw⟩

theorem State.nodup_waiters (s : State) (t line : Nat) : (s.waiters t line).Nodup := (nodup_tileCids t).filter _

theorem State.sameStore_signal (s : State) (t line : Nat) : s.sameStore (s.signal t line) := by
  by_cases h : s.waiters t line = []
  · rw [State.signal_pending h]
    exact State.sameStore_modTile s _ _ (fun _ => ⟨rfl, rfl, rfl⟩)
  · rw [State.signal_received h]
    exact State.sameStore_receives

theorem State.cur_signal (s : State) (t line : Nat) : (s.signal t line).cur = s.cur := by
  by_cases h : s.waiters t line = []
  · rw [State.signal_pending h]
    rfl
  · rw [State.signal_received h]
    exact State.cur_receives

theorem State.ctx_signal_out {c : Nat} (hc : c ∉ s.waiters t line) : (s.signal t line).ctx c = s.ctx c := by
  by_cases h : s.waiters t line = []
  · rw [State.signal_pending h]
    rfl
  · rw [State.signal_received h]
    exact State.ctx_receives_out hc

theorem State.got_signal_in {c : Nat} (hc : c ∈ s.waiters t line) : ((s.signal t line).ctx c).got = (s.ctx c).withLine (1#32 <<< line) := by
  rw [State.signal_received (List.ne_nil_of_mem hc)]
  exact State.got_receives_in hc (s.nodup_waiters t line)

/-- A context that waits on a line has it once it has come; a pop has it alone (R196, R198). -/
theorem Ctx.withLine_eq (x : Ctx) (bit : BitVec 32) : x.withLine bit = if x.wait = .pop then bit else x.got ||| bit := by
  unfold Ctx.withLine
  by_cases hp : x.wait = .pop
  · by_cases hg : x.got = 0
    · simp [hp, hg]
    · rw [if_pos ⟨hp, hg⟩, if_pos hp]
  · rw [if_neg (fun h => hp h.1), if_neg hp]

end

/-- EVENT_ARRIVAL: what every signal leaves, and the two ways in which a line is taken. -/
theorem eventArrival_reaches (s : State) (tile line : Nat) (hline : line < 32) :
    ∃ t, exec (.eventArrival tile line) s = .next t ∧ s.sameStore t ∧ t.cur = s.cur ∧
      (∀ c, cidTile c ≠ tile → t.ctx c = s.ctx c) ∧
      ((∀ c, cidTile c = tile → (s.ctx c).waitsLine s.cal line = false) →
        (t.tile tile).ev = (s.tile tile).ev ||| (1#32 <<< line) ∧ ∀ c, t.ctx c = s.ctx c) ∧
      (∀ c, cidTile c = tile → cidSlot c < 12 → (s.ctx c).waitsLine s.cal line = true →
        (t.ctx c).got = (if (s.ctx c).wait = .pop then 1#32 <<< line else (s.ctx c).got ||| (1#32 <<< line)) ∧
        ((∀ d, (s.ctx d).wait = .pop → (s.ctx d).got = 0) → (t.tile tile).ev = (s.tile tile).ev)) := by
  have hrow : exec (.eventArrival tile line) s = .next (s.signal tile line) := by
    show Host.Outcome.next (s.signal tile (line % 32)) = _
    rw [Nat.mod_eq_of_lt hline]
  refine ⟨_, hrow, s.sameStore_signal tile line, s.cur_signal tile line, fun c hc => ?_, fun hnone => ⟨State.ev_signal hnone, fun c => ?_⟩,
    fun c ht hslot hw => ?_⟩
  · exact State.ctx_signal_out fun hin => hc (cidTile_of_mem_tileCids (List.mem_of_mem_filter hin))
  · rw [State.signal_pending (State.waiters_nil hnone)]
    rfl
  · have hin := State.mem_waiters ht hslot hw
    refine ⟨by rw [State.got_signal_in hin, Ctx.withLine_eq], fun hpop => ?_⟩
    rw [State.signal_received (List.ne_nil_of_mem hin), State.tile_receives (s.nodup_waiters tile line) (fun d _ => hpop d)]

/-! EVW (R197). -/

section
variable (u : State) (ls : BitVec 32)

theorem State.got_takeLines : (u.takeLines ls).me.got = u.me.got &&& ~~~ls := congrArg Ctx.got (State.me_modMe _ _)

theorem State.ev_takeLines : ((u.takeLines ls).tile u.myTile).ev =
    if u.me.got = 0 then (u.tile u.myTile).ev &&& ~~~ls else (u.tile u.myTile).ev :=
  congrArg Tile.ev (State.tile_modTile_self u u.myTile (fun t => { t with ev := if u.me.got = 0 then t.ev &&& ~~~ls else t.ev }))

end

section
variable {s : State} {d a : Reg} (h : s.canExecuteClosed) (hg : s.closed.operandsReady [a] [d] false)
include h hg

theorem exec_evw_takes (hm : (s.closed.read a).1 ≠ 0) (hw : (s.closed.read a).1.extractLsb' 32 32 = 0)
    (hls : (s.closed.read a).2.pendingLines &&& (s.closed.read a).1.setWidth 32 ≠ 0) (hd : (s.closed.read a).2.operandsReady [] [d] true) :
    let u := (s.closed.read a).2
    let ls := u.pendingLines &&& (s.closed.read a).1.setWidth 32
    exec (.evw d a) s = .next (((u.takeLines ls).write d (ls.setWidth 64)).goOn) := by
  obtain ⟨hl, hc, hr, hx⟩ := h
  have hmask : ((s.closed.read a).1 == 0 || (s.closed.read a).1.extractLsb' 32 32 != 0) = false := by
    rw [beq_false_of_ne hm, hw]
    rfl
  refine runClose_ok hl hc hr (bind_run (noPrefix_ok hx) (bind_run hg (bind_run (readG_ok a _) ?_)))
  rw [hmask]
  exact bind_run rfl (bind_run rfl (ite_run_neg hls (bind_run hd rfl)))

theorem exec_evw_waits (hm : (s.closed.read a).1 ≠ 0) (hw : (s.closed.read a).1.extractLsb' 32 32 = 0)
    (hls : (s.closed.read a).2.pendingLines &&& (s.closed.read a).1.setWidth 32 = 0) :
    exec (.evw d a) s = .next ((((s.closed.read a).2).unpop s.closed).beginWait .evw (s.closed.read a).1) := by
  obtain ⟨hl, hc, hr, hx⟩ := h
  have hmask : ((s.closed.read a).1 == 0 || (s.closed.read a).1.extractLsb' 32 32 != 0) = false := by
    rw [beq_false_of_ne hm, hw]
    rfl
  refine runClose_wait hl hc hr (bind_run (noPrefix_ok hx) (bind_run hg (bind_run (readG_ok a _) ?_)))
  rw [hmask]
  exact bind_run rfl (bind_run rfl (ite_run_pos hls rfl))

theorem exec_evw_badMask (hm : (s.closed.read a).1 = 0 ∨ (s.closed.read a).1.extractLsb' 32 32 ≠ 0) (hclose : (s.closed.read a).2.canClose) :
    exec (.evw d a) s = .next (s.raised (s.closed.read a).2 .eventOperand 0) := by
  obtain ⟨hl, hc, hr, hx⟩ := h
  have hmask : ((s.closed.read a).1 == 0 || (s.closed.read a).1.extractLsb' 32 32 != 0) = true := by simpa using hm
  refine runClose_trap hl hc hr (bind_run (noPrefix_ok hx) (bind_run hg (bind_run (readG_ok a _) ?_))) hclose
  rw [hmask]
  exact bind_error rfl

end

/-! EVS (R199). -/

section
variable {s : State} {a : Reg} (h : s.canExecute) (hg : s.operandsReady [a] [] true)
include h hg

theorem exec_evs_sends (hx : (s.read a).1 &&& ~~~(0x03FF801F : Word) = 0)
    (hr : (s.read a).2.reaches (s.read a).2.myTile ((s.read a).2.evsTile (s.read a).2.cur (s.read a).1) = true) (ht : (s.read a).2.inTask = false) :
    exec (.evs a) s = .next (((s.read a).2.sendSignal (s.read a).2.cur (s.read a).1).goOn) := by
  have hbits : ((s.read a).1 &&& ~~~(0x03FF801F : Word) != 0) = false := bne_eq_false_iff_eq.mpr hx
  refine run_ok h.1 (bind_run (noPrefix_ok h.2) (bind_run hg (bind_run (readG_ok a s) ?_)))
  rw [hbits]
  refine bind_run rfl (bind_run rfl ?_)
  rw [hr]
  exact bind_run rfl (ite_run_neg (by simp [ht]) (bind_run rfl (next_ok _)))

theorem exec_evs_badOperand (hx : (s.read a).1 &&& ~~~(0x03FF801F : Word) ≠ 0) (hclose : (s.read a).2.canClose) :
    exec (.evs a) s = .next (s.raised (s.read a).2 .eventOperand 0) := by
  have hbits : ((s.read a).1 &&& ~~~(0x03FF801F : Word) != 0) = true := bne_iff_ne.mpr hx
  refine run_trap h.1 (bind_run (noPrefix_ok h.2) (bind_run hg (bind_run (readG_ok a s) ?_))) hclose
  rw [hbits]
  exact bind_error rfl

theorem exec_evs_outOfReach (hx : (s.read a).1 &&& ~~~(0x03FF801F : Word) = 0)
    (hr : (s.read a).2.reaches (s.read a).2.myTile ((s.read a).2.evsTile (s.read a).2.cur (s.read a).1) = false) (hclose : (s.read a).2.canClose) :
    exec (.evs a) s = .next (s.raised (s.read a).2 .combAccess 0) := by
  have hbits : ((s.read a).1 &&& ~~~(0x03FF801F : Word) != 0) = false := bne_eq_false_iff_eq.mpr hx
  refine run_trap h.1 (bind_run (noPrefix_ok h.2) (bind_run hg (bind_run (readG_ok a s) ?_))) hclose
  rw [hbits]
  refine bind_run rfl (bind_run rfl ?_)
  rw [hr]
  exact bind_error rfl

end

/-- The signal that an EVS sends, by the line's number. -/
theorem State.sendSignal_eq (u : State) (x : Word) : u.sendSignal u.cur x =
    u.later (.eventArrival (if x.getLsbD 15 then (x.extractLsb' 16 10).toNat else u.myTile) (x.toNat % 32)) := by
  have hline : (x.extractLsb' 0 5).toNat = x.toNat % 32 := by simp [BitVec.extractLsb'_toNat]
  unfold State.sendSignal
  rw [hline]
  rfl

/-- Settles O21: a signal is the arrival at each of its waiters in turn, and EVW and EVS are one run for each way they end. -/
theorem eventsReachTheirWaiters : Obligations.EventsReachTheirWaiters := by
  unfold Obligations.EventsReachTheirWaiters
  refine ⟨eventArrival_reaches, fun s d a => ⟨fun h hg => ?evw, fun h hg => ?evs⟩⟩
  case evw =>
    intro m u ls
    exact ⟨fun hm hw hls hd => ⟨exec_evw_takes h hg hm hw hls hd, u.got_takeLines ls, u.ev_takeLines ls⟩,
      fun hm hw hls => exec_evw_waits h hg hm hw hls, fun hm hclose => exec_evw_badMask h hg hm hclose⟩
  case evs =>
    intro x u dest
    refine ⟨fun hx hr ht => ?_, fun hx hclose => exec_evs_badOperand h hg hx hclose, fun hx hr hclose => exec_evs_outOfReach h hg hx hr hclose⟩
    rw [exec_evs_sends h hg hx hr ht, State.sendSignal_eq]

end Sys2Proof.Machine
end

section
/-! PROOFS. Barriers and supersteps: arrivals, BAR and TSYNC, and the superstep boundary (R129, R201-R203, R300). -/

namespace Sys2Proof.Machine

/-! An arrival (R202, R300). -/

/-- The round that an arrival opens, and that of a round which one more has joined: full once all members have arrived, but for a
superstep's. -/
def Round.closed (r : Round) : Round := if r.arrived.length < r.members || r.tsync then r else { r with full := true }

/-- The first round of a domain that context c opens. -/
def State.newRound (s : State) (c dom members : Nat) : Round :=
  { yard := s.yardOf (cidTile c), job := s.jobOf (cidTile c), dom := dom, members := members, arrived := [s.tagOf c], tsync := (s.ctx c).barTok == 2,
    full := false, since := (s.ctx c).barAt }

/-- A round which context c has joined. -/
def State.joined (s : State) (c : Nat) (r : Round) : Round :=
  { r with arrived := r.arrived ++ [s.tagOf c], tsync := r.tsync || (s.ctx c).barTok == 2, since := Nat.max r.since (s.ctx c).barAt }

theorem Round.closed_eq {r : Round} (h : r.tsync = false) (hf : r.full = false) : r.closed = { r with full := decide (r.members ≤ r.arrived.length) } := by
  unfold Round.closed
  rw [h, Bool.or_false]
  by_cases hlt : r.arrived.length < r.members
  · rw [if_pos (by simpa using hlt), decide_eq_false (by omega)]
    cases r
    cases h
    cases hf
    rfl
  · rw [if_neg (by simpa using hlt), decide_eq_true (by omega)]

section
variable {s : State} {c dom members : Nat}

/-- The context learns what has become of its arrival. -/
def State.told (s : State) (c n : Nat) : State := s.modCtx c (fun x => { x with barTok := n })

theorem State.told_frame (s : State) (c n : Nat) (rs : List Round) :
    (({ s.told c n with rounds := rs } : State).ctx c).barTok = n ∧ s.sameStore { s.told c n with rounds := rs } ∧
      ∀ k, k ≠ c → ({ s.told c n with rounds := rs } : State).ctx k = s.ctx k :=
  ⟨congrArg Ctx.barTok (State.ctx_modCtx_self s c (fun x => { x with barTok := n })), s.sameStore_refl, fun _ hk => State.ctx_modCtx_ne s (fun x => { x with barTok := n }) hk⟩

variable (hlive : (s.ctx c).live = true) (htok : (s.ctx c).barTok = 1)
include hlive htok

theorem State.arrive_opens (h : s.openRound (s.yardOf (cidTile c)) dom = none) :
    s.arrive c dom members = { s.told c 0 with rounds := s.rounds ++ [(s.newRound c dom members).closed] } := by
  unfold State.arrive
  rw [if_neg (by simp [hlive, htok])]
  dsimp only
  rw [h]
  rfl

theorem State.arrive_joins {r : Round} (h : s.openRound (s.yardOf (cidTile c)) dom = some r) (hm : r.members = members) :
    s.arrive c dom members = { s.told c 0 with rounds := s.rounds.map (fun q => if q = r then (s.joined c r).closed else q) } := by
  unfold State.arrive
  rw [if_neg (by simp [hlive, htok])]
  dsimp only
  rw [h]
  exact if_neg (fun hne => hne hm)

theorem State.arrive_refused {r : Round} (h : s.openRound (s.yardOf (cidTile c)) dom = some r) (hm : r.members ≠ members) :
    s.arrive c dom members = s.told c 3 := by
  unfold State.arrive
  rw [if_neg (by simp [hlive, htok])]
  dsimp only
  rw [h]
  exact if_pos hm

end

/-- A round takes no more arrivals where it is full or all its members have arrived. -/
theorem State.openRound_none {s : State} {yard dom : Nat}
    (h : ∀ r ∈ s.rounds, r.yard = yard → r.dom = dom → r.full = true ∨ r.members ≤ r.arrived.length) : s.openRound yard dom = none := by
  refine List.find?_eq_none.mpr fun r hr hopen => ?_
  simp only [Bool.and_eq_true, beq_iff_eq, Bool.not_eq_true', decide_eq_true_eq] at hopen
  obtain ⟨⟨⟨hy, hd⟩, hfull⟩, hlt⟩ := hopen
  rcases h r hr hy hd with hf | hle
  · rw [hf] at hfull
    cases hfull
  · omega

theorem State.openRound_first {s : State} {yard dom : Nat} {r : Round} {f g : List Round} (hrs : s.rounds = f ++ r :: g) (hy : r.yard = yard)
    (hd : r.dom = dom) (hfull : r.full = false) (hlt : r.arrived.length < r.members)
    (hf : ∀ q ∈ f, q.yard = yard → q.dom = dom → q.full = true ∨ q.members ≤ q.arrived.length) : s.openRound yard dom = some r := by
  have hnone : f.find? (fun r => r.yard == yard && r.dom == dom && !r.full && decide (r.arrived.length < r.members)) = none :=
    State.openRound_none (s := { s with rounds := f }) hf
  unfold State.openRound
  rw [hrs, List.find?_append, hnone, Option.none_or]
  exact List.find?_cons_of_pos (by simp [hy, hd, hfull, hlt])

/-- A list in which one element has been replaced, that stood in it once. -/
theorem map_replace_once {f g : List Round} {r q : Round} (hf : r ∉ f) (hg : r ∉ g) :
    (f ++ r :: g).map (fun x => if x = r then q else x) = f ++ q :: g := by
  have hsame (l : List Round) (h : r ∉ l) : l.map (fun x => if x = r then q else x) = l :=
    (List.map_congr_left fun x hx => if_neg (fun (heq : x = r) => h (heq ▸ hx))).trans (List.map_id l)
  rw [List.map_append, List.map_cons, hsame f hf, hsame g hg, if_pos rfl]

/-- BARRIER_ARRIVAL: the arrival opens a round, or joins the one that is open, or is refused. -/
theorem barrierArrival_counts (s : State) (c dom members : Nat) (hlive : (s.ctx c).live = true) (htok : (s.ctx c).barTok = 1)
    (hmem : 1 ≤ members) :
    ∃ t, exec (.barrierArrival c dom members) s = .next t ∧
      let yard := s.yardOf (cidTile c)
      let tag := s.tagOf c
      ((∀ r ∈ s.rounds, r.yard = yard → r.dom = dom → r.full = true ∨ r.members ≤ r.arrived.length) →
        ∃ r, t.rounds = s.rounds ++ [r] ∧ r.yard = yard ∧ r.dom = dom ∧ r.members = members ∧ r.arrived = [tag] ∧
          r.full = decide (members = 1) ∧ r.since = (s.ctx c).barAt ∧ (t.ctx c).barTok = 0) ∧
      (∀ r f g, s.rounds = f ++ r :: g → r ∉ f → r ∉ g → r.yard = yard → r.dom = dom → r.full = false →
        r.arrived.length < r.members → (∀ q ∈ f, q.yard = yard → q.dom = dom → q.full = true ∨ q.members ≤ q.arrived.length) →
        (r.members = members → r.tsync = false → ∃ q, t.rounds = f ++ q :: g ∧ q.arrived = r.arrived ++ [tag] ∧
          q.full = decide (r.members ≤ r.arrived.length + 1) ∧ q.since = Nat.max r.since (s.ctx c).barAt ∧
          (t.ctx c).barTok = 0) ∧
        (r.members ≠ members → t.rounds = s.rounds ∧ (t.ctx c).barTok = 3)) ∧
      s.sameStore t ∧ ∀ k, k ≠ c → t.ctx k = s.ctx k := by
  have hsync : ((s.ctx c).barTok == 2) = false := by simp [htok]
  refine ⟨s.arrive c dom members, rfl, fun hnone => ?opens, fun r f g hrs hf hg hy hd hfull hlt hfirst => ⟨fun hm hts => ?joins, fun hm => ?refused⟩, ?frame⟩
  case opens =>
    rw [State.arrive_opens hlive htok (State.openRound_none hnone),
      show (s.newRound c dom members).closed = _ from Round.closed_eq hsync rfl]
    refine ⟨_, rfl, rfl, rfl, rfl, rfl, ?_, rfl, (s.told_frame c 0 _).1⟩
    show decide (members ≤ 1) = decide (members = 1)
    exact decide_eq_decide.mpr (by omega)
  case joins =>
    have hclosed : (s.joined c r).closed = _ := Round.closed_eq (by simp [State.joined, hts, hsync]) hfull
    rw [State.arrive_joins hlive htok (State.openRound_first hrs hy hd hfull hlt hfirst) hm, hrs, map_replace_once hf hg, hclosed]
    exact ⟨_, rfl, rfl, by simp [State.joined], rfl, (s.told_frame c 0 _).1⟩
  case refused =>
    rw [State.arrive_refused hlive htok (State.openRound_first hrs hy hd hfull hlt hfirst) hm]
    exact ⟨rfl, (s.told_frame c 3 s.rounds).1⟩
  case frame =>
    cases ho : s.openRound (s.yardOf (cidTile c)) dom with
    | none =>
      rw [State.arrive_opens hlive htok ho]
      exact (s.told_frame c 0 _).2
    | some r =>
      by_cases hm : r.members = members
      · rw [State.arrive_joins hlive htok ho hm]
        exact (s.told_frame c 0 _).2
      · rw [State.arrive_refused hlive htok ho hm]
        exact (s.told_frame c 3 s.rounds).2

/-! BAR and TSYNC (R202, R203). -/

/-- The domain and the members that a barrier register names, and the round of that domain in which the context has arrived. -/
def State.barDom (s : State) (k : Nat) : Nat := ((s.me.sreg (0x340 + k)).extractLsb' 32 16).toNat
def State.barMembers (s : State) (k : Nat) : Nat := ((s.me.sreg (0x340 + k)).extractLsb' 0 16).toNat
def State.myRound (s : State) (k : Nat) : Option Round := s.roundOf (s.yardOf s.myTile) (s.barDom k) (s.tagOf s.cur)

/-- The context leaves its round of the domain, and its copies are dropped at yard scope. -/
def State.throughBarrier (s : State) (k : Nat) : State :=
  let v := s.leaveRound (s.yardOf s.myTile) (s.barDom k) (s.tagOf s.cur)
  v.acquireTile v.myTile 1

/-- The context has sent its arrival. -/
def State.sentArrival (v : State) (kind dom members : Nat) : State :=
  (v.modMe (fun x => { x with barTok := kind, barAt := v.cal })).later (.barrierArrival v.cur dom members)

section
variable {s : State} {k kind : Nat} {wk : WaitKind} {ready : M Unit} (hon : (s.me.sreg (0x340 + k)).getLsbD 63 = true)
  (hmem : s.barMembers k ≠ 0) (htok : s.me.barTok = 0)
include hon hmem htok

theorem barrier_goesOn {r : Round} (hr : s.myRound k = some r) (hfull : r.full = true) (hready : ready s = .ok () s) :
    barrier k kind wk ready s = .ok () (s.throughBarrier k) := by
  have hcheck : (!(s.me.sreg (0x340 + k)).getLsbD 63 || s.barMembers k == 0) = false := by simp [hon, hmem]
  have hround : s.roundOf (s.yardOf s.myTile) ((s.me.sreg (0x340 + k)).extractLsb' 32 16).toNat (s.tagOf s.cur) = some r := hr
  refine bind_run rfl ?_
  dsimp only
  rw [show (!(s.me.sreg (0x340 + k)).getLsbD 63 || ((s.me.sreg (0x340 + k)).extractLsb' 0 16).toNat == 0) = false from hcheck]
  refine bind_run rfl (ite_run_neg (by simp [htok]) (ite_run_neg (by simp [htok]) ?_))
  rw [hround]
  exact ite_run_pos hfull (bind_run hready (bind_run rfl rfl))

theorem barrier_arrives {v : State} (hr : s.myRound k = none) (hrel : release 1 s = .ok () v) :
    barrier k kind wk ready s = .error (.wait wk (s.barOp s.cur k)) (v.sentArrival kind (s.barDom k) (s.barMembers k)) := by
  have hcheck : (!(s.me.sreg (0x340 + k)).getLsbD 63 || s.barMembers k == 0) = false := by simp [hon, hmem]
  have hround : s.roundOf (s.yardOf s.myTile) ((s.me.sreg (0x340 + k)).extractLsb' 32 16).toNat (s.tagOf s.cur) = none := hr
  refine bind_run rfl ?_
  dsimp only
  rw [show (!(s.me.sreg (0x340 + k)).getLsbD 63 || ((s.me.sreg (0x340 + k)).extractLsb' 0 16).toNat == 0) = false from hcheck]
  refine bind_run rfl (ite_run_neg (by simp [htok]) (ite_run_neg (by simp [htok]) ?_))
  rw [hround]
  exact bind_run hrel (bind_run rfl rfl)

end

section
variable {s : State} {a : Reg} (h : s.canExecuteClosed) (ht : s.closed.inTask = false) (hg : s.closed.operandsReady [a] [] true)
  (hx : (s.closed.read a).1.toNat ≤ 7)
include h ht hg hx

/-- BAR goes on, or waits, as its barrier does. -/
theorem exec_bar_goesOn {v : State} (hb : barrier (s.closed.read a).1.toNat 1 .bar (pure ()) (s.closed.read a).2 = .ok () v) :
    exec (.bar a) s = .next v.goOn := by
  obtain ⟨hl, hc, hr, hp⟩ := h
  have hrange : decide (7 < (s.closed.read a).1.toNat) = false := decide_eq_false (by omega)
  refine runClose_ok hl hc hr (bind_run (noPrefix_ok hp) (bind_run rfl ?_))
  rw [ht]
  refine bind_run rfl (bind_run hg (bind_run (readG_ok a _) ?_))
  rw [hrange]
  exact bind_run rfl (bind_run hb (next_ok v))

theorem exec_bar_waits {v : State} {op : Word} (hb : barrier (s.closed.read a).1.toNat 1 .bar (pure ()) (s.closed.read a).2 = .error (.wait .bar op) v) :
    exec (.bar a) s = .next ((v.unpop s.closed).beginWait .bar op) := by
  obtain ⟨hl, hc, hr, hp⟩ := h
  have hrange : decide (7 < (s.closed.read a).1.toNat) = false := decide_eq_false (by omega)
  refine runClose_wait hl hc hr (bind_run (noPrefix_ok hp) (bind_run rfl ?_))
  rw [ht]
  refine bind_run rfl (bind_run hg (bind_run (readG_ok a _) ?_))
  rw [hrange]
  exact bind_run rfl (bind_error hb)

end

/-- TSYNC goes on once the round in which its context has arrived is full. -/
theorem exec_tsync_goesOn {s : State} {d : Reg} (h : s.canExecuteClosed) (ht : s.closed.inTask = false) (hg : s.closed.operandsReady [] [d] true)
    (hbsp : s.closed.bulkSync s.closed.myTile = true) (hon : (s.closed.me.sreg 0x340).getLsbD 63 = true) (hmem : s.closed.barMembers 0 ≠ 0)
    (htok : s.closed.me.barTok = 0) {r : Round} (hr : s.closed.myRound 0 = some r) (hfull : r.full = true) :
    let w := s.closed.throughBarrier 0
    exec (.tsync d) s = .next ((w.write d (w.sstep w.myTile)).goOn) := by
  obtain ⟨hl, hc, hclean, hp⟩ := h
  have hround : s.closed.roundOf (s.closed.yardOf s.closed.myTile) (barDomain s.closed.me) (s.closed.tagOf s.closed.cur) = some r := hr
  have harrived : waitUntil (fun s => s.me.barTok != 0 || (s.roundOf (s.yardOf s.myTile) (barDomain s.me) (s.tagOf s.cur)).isSome ||
      ((s.helpersOf s.myCore).isEmpty && s.sendsDone s.myCore)) .tsync (s.closed.barOp s.closed.cur 0) s.closed = .ok () s.closed :=
    if_pos (by
      dsimp only
      rw [hround, Option.isSome_some, Bool.or_true]
      rfl)
  refine runClose_ok hl hc hclean (bind_run (noPrefix_ok hp) (bind_run rfl ?_))
  rw [ht]
  refine bind_run rfl ?_
  rw [hbsp]
  refine bind_run rfl (bind_run (State.operandsReady_later hg) (bind_run harrived (bind_run (barrier_goesOn hon hmem htok hr hfull hg) ?_)))
  exact bind_run rfl rfl

/-- BAR: with a full round the context goes through, and without one it sends its arrival and waits. -/
theorem bar_completes {s : State} {a : Reg} (h : s.canExecuteClosed) (ht : s.closed.inTask = false) (hg : s.closed.operandsReady [a] [] true)
    (hx : (s.closed.read a).1.toNat ≤ 7) :
    let c := s.closed
    let u := (c.read a).2
    let bar := u.me.sreg (0x340 + (c.read a).1.toNat)
    let dom := (bar.extractLsb' 32 16).toNat
    let members := (bar.extractLsb' 0 16).toNat
    bar.getLsbD 63 = true → members ≠ 0 → u.me.barTok = 0 →
    (∀ r, u.roundOf (u.yardOf u.myTile) dom (u.tagOf u.cur) = some r → r.full = true →
      let v := u.leaveRound (u.yardOf u.myTile) dom (u.tagOf u.cur)
      exec (.bar a) s = .next ((v.acquireTile v.myTile 1).goOn)) ∧
    (u.roundOf (u.yardOf u.myTile) dom (u.tagOf u.cur) = none → ∀ v, release 1 u = .ok () v →
      ∃ t, exec (.bar a) s = .next t ∧ t.me.barTok = 1 ∧ t.me.barAt = v.cal ∧ t.me.wait = .bar ∧ t.me.pc = v.me.pc ∧
        t.me.waitOp = u.barOp u.cur (c.read a).1.toNat ∧
        t.agenda = v.agenda ++ [.barrierArrival v.cur dom members]) := by
  intro c u bar dom members hon hmem htok
  refine ⟨fun r hr hfull => exec_bar_goesOn h ht hg hx (barrier_goesOn hon hmem htok hr hfull rfl), fun hr v hrel => ?_⟩
  have hsent : (v.sentArrival 1 dom members).me = { v.me with barTok := 1, barAt := v.cal } :=
    State.me_modMe v (fun x => { x with barTok := 1, barAt := v.cal })
  have hwait := State.me_wait (v.sentArrival 1 dom members) s.closed .bar (u.barOp u.cur (c.read a).1.toNat)
  rw [hsent] at hwait
  exact ⟨_, exec_bar_waits h ht hg hx (barrier_arrives hon hmem htok hr hrel), congrArg Ctx.barTok hwait, congrArg Ctx.barAt hwait,
    congrArg Ctx.wait hwait, (congrArg Ctx.pc hwait).trans rfl, congrArg Ctx.waitOp hwait, rfl⟩

/-! The superstep's boundary (R129, R203, R300). -/

/-- A round of a superstep in which every member has arrived 64 calendar cycles ago. -/
def State.dueRound (s : State) (yard dom : Nat) : Option Round :=
  s.rounds.find? (fun r => r.yard == yard && r.dom == dom && r.tsync && !r.full && decide (r.members ≤ r.arrived.length) &&
    decide (r.since + 64 ≤ s.cal))

/-- The combs whose superstep ends with a round. -/
def State.superstepCombs (s : State) (yard : Nat) (r : Round) : List Comb := s.combs.filter (fun c => c.yard == yard && c.job == r.job && c.bsp)

/-- The snapshots of every tile of some combs. -/
def State.snapshots (s : State) (cs : List Comb) : State := cs.foldl (fun s (c : Comb) => c.tiles.foldl (fun s t => s.snapshot t) s) s

section
variable {s : State} {yard dom : Nat}

theorem State.superstep_none (h : s.dueRound yard dom = none) : s.superstep yard dom = s := by
  have hfind : s.rounds.find? _ = none := h
  unfold State.superstep
  rw [hfind]

theorem State.superstep_due {r : Round} (h : s.dueRound yard dom = some r) :
    let u : State := { s with rounds := s.rounds.map (fun q => if q = r then { q with full := true } else q) }
    s.superstep yard dom = { u.snapshots (s.superstepCombs yard r) with
      combs := (u.snapshots (s.superstepCombs yard r)).combs.map (fun c =>
        if (s.superstepCombs yard r).any (fun j => j.yard == c.yard && j.job == c.job) then { c with sstep := c.sstep + 1 } else c) } := by
  have hfind : s.rounds.find? _ = some r := h
  unfold State.superstep
  rw [hfind]
  rfl

theorem State.dueRound_none (h : ∀ r ∈ s.rounds, r.yard = yard → r.dom = dom → r.tsync = true → r.full = true ∨ r.arrived.length < r.members ∨
    s.cal < r.since + 64) : s.dueRound yard dom = none := by
  refine List.find?_eq_none.mpr fun r hr hdue => ?_
  simp only [Bool.and_eq_true, beq_iff_eq, Bool.not_eq_true', decide_eq_true_eq] at hdue
  obtain ⟨⟨⟨⟨⟨hy, hd⟩, ht⟩, hfull⟩, hall⟩, hcal⟩ := hdue
  rcases h r hr hy hd ht with hf | hlt | hlt
  · rw [hf] at hfull
    cases hfull
  · omega
  · omega

theorem State.dueRound_only {r : Round} (hr : r ∈ s.rounds) (hy : r.yard = yard) (hd : r.dom = dom) (ht : r.tsync = true) (hfull : r.full = false)
    (hall : r.members ≤ r.arrived.length) (hcal : r.since + 64 ≤ s.cal) (honly : ∀ q ∈ s.rounds, q.yard = yard → q.dom = dom → q = r) :
    s.dueRound yard dom = some r := by
  cases hfind : s.dueRound yard dom with
  | none => exact absurd (List.find?_eq_none.mp hfind r hr) (by simp [hy, hd, ht, hfull, hall, hcal])
  | some q =>
    have hq := List.find?_some hfind
    simp only [Bool.and_eq_true, beq_iff_eq] at hq
    obtain ⟨⟨⟨⟨⟨hqy, hqd⟩, -⟩, -⟩, -⟩, -⟩ := hq
    rw [honly q (List.mem_of_find?_eq_some hfind) hqy hqd]

end

/-- The fill words of the tile memory of a tile as they stand. -/
def State.fillWordsNow (s : State) (t : Nat) : List Host.Cell := s.tm.filter (fun p => p.1 / 2 ^ 20 == t)

/-- At most the snapshots of tiles differ, and each is the one before or the one of this moment. -/
def State.sameButSnaps (s t : State) : Prop :=
  (∃ ts, t = { s with tiles := ts }) ∧
    ∀ u, (t.tile u).l1 = (s.tile u).l1 ∧ (t.tile u).ro = (s.tile u).ro ∧ (t.tile u).wcb = (s.tile u).wcb

section
variable (s : State)

theorem State.sameButSnaps_refl : s.sameButSnaps s := ⟨⟨s.tiles, rfl⟩, fun _ => ⟨rfl, rfl, rfl⟩⟩

theorem State.sameButSnaps_trans {s t u : State} (h : s.sameButSnaps t) (k : t.sameButSnaps u) : s.sameButSnaps u := by
  obtain ⟨⟨ts, rfl⟩, hc⟩ := h
  obtain ⟨⟨us, rfl⟩, kc⟩ := k
  exact ⟨⟨us, rfl⟩, fun x => ⟨(kc x).1.trans (hc x).1, (kc x).2.1.trans (hc x).2.1, (kc x).2.2.trans (hc x).2.2⟩⟩

theorem State.sameButSnaps_snapshot (t : Nat) : s.sameButSnaps (s.snapshot t) := by
  obtain ⟨-, -, -, -, hcaches⟩ := State.sameStore_modTile s t (fun x => { x with snap := s.fillWordsNow t }) (fun _ => ⟨rfl, rfl, rfl⟩)
  exact ⟨⟨_, rfl⟩, hcaches⟩

theorem State.sameButSnaps_snapshots (cs : List Comb) : s.sameButSnaps (s.snapshots cs) :=
  foldl_keeps (fun v => s.sameButSnaps v) cs (fun _ c hv => foldl_keeps (fun v => s.sameButSnaps v) c.tiles
    (fun w t hw => State.sameButSnaps_trans hw (w.sameButSnaps_snapshot t)) hv) s.sameButSnaps_refl

theorem State.fillWordsNow_of_sameButSnaps {s t : State} (h : s.sameButSnaps t) (u : Nat) : t.fillWordsNow u = s.fillWordsNow u := by
  obtain ⟨⟨ts, rfl⟩, -⟩ := h
  rfl

/-- A tile whose snapshot has been taken keeps it while others' are taken, and its own again. -/
theorem State.snap_snapshot {u t : Nat} (h : (s.tile u).snap = s.fillWordsNow u ∨ u = t) :
    ((s.snapshot t).tile u).snap = (s.snapshot t).fillWordsNow u := by
  rw [State.fillWordsNow_of_sameButSnaps (s.sameButSnaps_snapshot t)]
  by_cases hu : u = t
  · subst hu
    exact congrArg Tile.snap (State.tile_modTile_self s u (fun x => { x with snap := s.fillWordsNow u }))
  · refine (congrArg Tile.snap (State.tile_modTile_ne s _ hu)).trans (h.resolve_right hu)

theorem State.snap_snapshotTiles {u : Nat} (ts : List Nat) {s : State} (h : (s.tile u).snap = s.fillWordsNow u ∨ u ∈ ts) :
    ((ts.foldl (fun s t => s.snapshot t) s).tile u).snap = (ts.foldl (fun s t => s.snapshot t) s).fillWordsNow u := by
  induction ts generalizing s with
  | nil => exact h.resolve_right (by simp)
  | cons t ts ih =>
    refine ih ?_
    rcases h with hsnap | hmem
    · exact .inl (s.snap_snapshot (.inl hsnap))
    · exact (List.mem_cons.mp hmem).imp (fun heq => s.snap_snapshot (.inr heq)) id

theorem State.snap_snapshots {u : Nat} (cs : List Comb) {s : State} (h : (s.tile u).snap = s.fillWordsNow u ∨ ∃ c ∈ cs, u ∈ c.tiles) :
    ((s.snapshots cs).tile u).snap = (s.snapshots cs).fillWordsNow u := by
  induction cs generalizing s with
  | nil => exact h.resolve_right (by simp)
  | cons c cs ih =>
    refine ih (s := c.tiles.foldl (fun s t => s.snapshot t) s) ?_
    rcases h with hsnap | ⟨b, hb, hu⟩
    · exact .inl (State.snap_snapshotTiles c.tiles (.inl hsnap))
    · rcases List.mem_cons.mp hb with rfl | hb
      · exact .inl (State.snap_snapshotTiles b.tiles (.inr hu))
      · exact .inr ⟨b, hb, hu⟩

end

/-- SUPERSTEP_BOUNDARY, when a round is due. -/
theorem superstepBoundary_due {s : State} {yard dom : Nat} {r : Round} (hr : r ∈ s.rounds) (hy : r.yard = yard) (hd : r.dom = dom)
    (ht : r.tsync = true) (hfull : r.full = false) (hall : r.members ≤ r.arrived.length) (hcal : r.since + 64 ≤ s.cal)
    (honly : ∀ q ∈ s.rounds, q.yard = yard → q.dom = dom → q = r) :
    ∃ t, exec (.superstepBoundary yard dom) s = .next t ∧ { r with full := true } ∈ t.rounds ∧
      (∀ q ∈ t.rounds, q.yard = yard → q.dom = dom → q.full = true) ∧ t.combs.length = s.combs.length ∧
      (∀ (i : Nat) (b : Comb), s.combs[i]? = some b → b.yard = yard → b.job = r.job → b.bsp = true →
        t.combs[i]? = some { b with sstep := b.sstep + 1 } ∧
        ∀ u ∈ b.tiles, (t.tile u).snap = s.tm.filter (fun p => p.1 / 2 ^ 20 == u)) ∧
      (∀ c, t.ctx c = s.ctx c) ∧ s.sameStore t := by
  have hstep := State.superstep_due (State.dueRound_only hr hy hd ht hfull hall hcal honly)
  dsimp only at hstep
  refine ⟨s.superstep yard dom, rfl, ?_⟩
  rw [hstep]
  generalize hu : ({ s with rounds := s.rounds.map (fun q => if q = r then { q with full := true } else q) } : State) = u
  obtain ⟨⟨ts, hts⟩, hcaches⟩ := u.sameButSnaps_snapshots (s.superstepCombs yard r)
  have hrounds : (u.snapshots (s.superstepCombs yard r)).rounds = s.rounds.map (fun q => if q = r then { q with full := true } else q) := by
    rw [hts, ← hu]
  have hcombs : (u.snapshots (s.superstepCombs yard r)).combs = s.combs := by rw [hts, ← hu]
  refine ⟨?full, fun q hq hqy hqd => ?all, ?length, fun i b hb hby hbj hbsp => ⟨?count, fun x hx => ?snap⟩, ?ctx, ?store⟩
  case full =>
    refine hrounds ▸ List.mem_map.mpr ⟨r, hr, if_pos rfl⟩
  case all =>
    obtain ⟨p, hp, rfl⟩ := List.mem_map.mp (hrounds ▸ hq)
    by_cases hpr : p = r
    · rw [if_pos hpr]
    · rw [if_neg hpr] at hqy hqd
      exact absurd (honly p hp hqy hqd) hpr
  case length =>
    rw [List.length_map, hcombs]
  case count =>
    have hmem : b ∈ s.superstepCombs yard r := List.mem_filter.mpr ⟨List.mem_of_getElem? hb, by simp [hby, hbj, hbsp]⟩
    rw [List.getElem?_map, hcombs, hb]
    exact congrArg some (if_pos (List.any_eq_true.mpr ⟨b, hmem, by simp⟩))
  case snap =>
    have hmem : b ∈ s.superstepCombs yard r := List.mem_filter.mpr ⟨List.mem_of_getElem? hb, by simp [hby, hbj, hbsp]⟩
    refine (State.snap_snapshots (s.superstepCombs yard r) (s := u) (.inr ⟨b, hmem, hx⟩)).trans ?_
    rw [State.fillWordsNow_of_sameButSnaps (u.sameButSnaps_snapshots _), ← hu]
    rfl
  case ctx =>
    intro c
    show (u.snapshots _).ctx c = _
    rw [hts, ← hu]
    rfl
  case store =>
    subst hu
    refine ⟨fun _ => ?_, fun _ => ?_, fun _ _ _ => ?_, fun _ _ _ => ?_, fun x => hcaches x⟩
    all_goals
      rw [hts]
      rfl

/-- Settles O23: an arrival takes one of its three ways, BAR and TSYNC are runs of one barrier, and a boundary is due or leaves all as it was. -/
theorem barriersAndSuperstepsComplete : Obligations.BarriersAndSuperstepsComplete := by
  unfold Obligations.BarriersAndSuperstepsComplete
  refine ⟨barrierArrival_counts, fun s a d h ht => ⟨fun hg hx => bar_completes h ht hg hx, ?tsync⟩, fun s yard dom => ⟨fun hnone => ?early, ?due⟩⟩
  case tsync =>
    intro hg hbsp bar dom hon hmem htok r hr hfull
    have hmembers : s.closed.barMembers 0 ≠ 0 := fun h0 => hmem (BitVec.eq_of_toNat_eq h0)
    exact exec_tsync_goesOn h ht hg hbsp hon hmembers htok hr hfull
  case early => exact congrArg Host.Outcome.next (State.superstep_none (State.dueRound_none hnone))
  case due => exact fun r hr hy hd ht hfull hall hcal honly => superstepBoundary_due hr hy hd ht hfull hall hcal honly

end Sys2Proof.Machine
end

section
/-! PROOFS. A load whose fill writes back a line that lists a byte outside itself (R90, R181). -/

namespace Sys2Proof.Machine

/-- A dirty byte 0 of the first context. -/
def strayByte : DirtyByte := { byte := 0, core := 0, tag := 0, pg := Pg.plain, ptr := 0, pc := 0 }

/-- A line that lists that byte at distance 0x200, past its own 128 bytes. -/
def strayLine : CacheLine := { present := true, clean := 0, ver := 0, refill := false, dirty := [(0x200, some strayByte)], pg := Pg.plain }

/-- The first context with 0xF1 at 0x200, about to load it; the L1 of its tile is full of entries for line 0, each as above. -/
def strayFull : State :=
  (((State.reset.withFetchWord 32 0).setBytes 0x200 [0xF1]).modMe (fun x => x.setGreg 2 0x200)).modTile 0
    (fun t => { t with l1 := List.replicate 1024 (0, strayLine) })

/-- The page of 0x200. -/
def strayLeaf : Leaf := { va := 0x200, pa := 0x200, region := 0, pg := { memSide := false, key := some 1 }, exactSum := false }

/-- The same once line 0 has left L1. -/
def strayGone : State := (strayFull.draw.2.writeBack 0 0).modTile 0 (fun x => x.setLine 0 CacheLine.absent)

theorem strayFull_atShared : (strayFull.read 2).2.atShared 0x200 1 .read strayLeaf strayFull := rfl

/-- The fill of the line can be made. -/
theorem strayFull_canFill : strayFull.canFill strayLeaf.pa := show strayFull.fillable strayFull.myTile strayLeaf.pa = true by decide +kernel

/-- A choice among zeros is zero. -/
theorem getD_zeros {l : List Nat} (h : ∀ x ∈ l, x = 0) (i : Nat) : l.getD i 0 = 0 := by
  rcases hx : l[i]? with _ | x
  · rw [List.getD_eq_getElem?_getD, hx, Option.getD_none]
  · rw [List.getD_eq_getElem?_getD, hx, Option.getD_some, h x (List.mem_of_getElem? hx)]

theorem strayFull_leavers : ∀ l ∈ strayFull.l1Leavers 0, l = 0 := by
  intro l hl
  obtain ⟨p, hp, rfl⟩ := List.mem_map.mp hl
  exact congrArg Prod.fst (List.eq_of_mem_replicate (List.mem_of_mem_filter hp))

/-- Whatever line is chosen to leave, it is line 0. -/
theorem strayFull_roomL1 : strayFull.roomL1 0 = strayGone := by
  have hfull : ¬((strayFull.tile 0).l1.length < 1024) := (List.length_replicate (n := 1024) (a := (0, strayLine))).not_lt
  unfold State.roomL1
  rw [if_neg hfull]
  dsimp only
  rw [getD_zeros strayFull_leavers]
  rfl

/-- The fill reads line 4 after the byte has gone home. -/
theorem strayFull_fillL1 :
    let w := strayFull.settleWcb strayFull.myTile
    let v := w.fillL1 w.cur w.myTile strayLeaf.pa strayLeaf.pg
    v.l1Bytes v.myTile strayLeaf.pa 1 = [0] := by
  have habsent : ((strayFull.tile strayFull.myTile).line (lineOf strayLeaf.pa)).present = false := by decide +kernel
  have hempty : strayFull.settleWcb strayFull.myTile = strayFull := rfl
  have htile : strayFull.myTile = 0 := rfl
  dsimp only
  rw [hempty]
  unfold State.fillL1
  dsimp only
  rw [habsent, hempty, htile, strayFull_roomL1]
  decide +kernel

/-- Refutes O26: a full L1 may hold an entry that lists a dirty byte outside its line. A load that finds its line absent makes room by writing that
byte back, which overwrites the byte to be loaded before the fill reads it. -/
theorem not_loadsReadTheirBytes : ¬ Obligations.LoadsReadTheirBytes := by
  rintro ⟨hloads, -⟩
  obtain ⟨-, hshared, -⟩ := hloads strayFull 4 2 0 0 ⟨rfl, rfl⟩ rfl _ (.tail _ (.head _))
  have hpointer : BitVec.ofInt 64 ((strayFull.read 2).1.toNat + (0 : BitVec 9).toInt * (1 : Nat)) = 0x200 := by decide +kernel
  dsimp only at hshared
  rw [hpointer] at hshared
  have hcontrol : strayFull.controlAt strayLeaf := ⟨by decide +kernel, by decide +kernel, by decide⟩
  obtain ⟨-, hfill⟩ := hshared strayLeaf strayFull strayFull_atShared hcontrol
  obtain ⟨-, hbytes⟩ := hfill (by decide +kernel) strayFull_canFill (by decide +kernel)
  have hzero := strayFull_fillL1.symm.trans (hbytes (by decide +kernel) (by decide +kernel) rfl)
  exact absurd hzero (by decide +kernel)

end Sys2Proof.Machine
end

section
/-! PROOFS. The atomics of a control context at home: the AMOs, CAS and CASV (R120, R190, R191). -/

namespace Sys2Proof.Machine

/-! What an AMO writes (R191). -/

section
variable {n old b : Nat}

theorem amoAddF_eq : amoAddF n old b = (BitVec.ofNat (8 * n) old + BitVec.ofNat (8 * n) b).toNat := by
  rw [BitVec.toNat_add, BitVec.toNat_ofNat, BitVec.toNat_ofNat, ← Nat.add_mod]
  rfl

theorem amoSwapF_eq : amoSwapF n old b = (BitVec.ofNat (8 * n) b).toNat := (BitVec.toNat_ofNat _ _).symm

variable (h : old < 2 ^ (8 * n))
include h

theorem amoAndF_eq : amoAndF n old b = (BitVec.ofNat (8 * n) old &&& BitVec.ofNat (8 * n) b).toNat := by
  rw [BitVec.toNat_and, BitVec.toNat_ofNat, BitVec.toNat_ofNat, Nat.mod_eq_of_lt h]
  rfl

theorem amoOrF_eq : amoOrF n old b = (BitVec.ofNat (8 * n) old ||| BitVec.ofNat (8 * n) b).toNat := by
  rw [BitVec.toNat_or, BitVec.toNat_ofNat, BitVec.toNat_ofNat, Nat.mod_eq_of_lt h]
  rfl

theorem amoXorF_eq : amoXorF n old b = (BitVec.ofNat (8 * n) old ^^^ BitVec.ofNat (8 * n) b).toNat := by
  rw [BitVec.toNat_xor, BitVec.toNat_ofNat, BitVec.toNat_ofNat, Nat.mod_eq_of_lt h]
  rfl

/-- The less of two numbers, or the greater, is one of them. -/
theorem toNat_ite_ofNat (p : Prop) [Decidable p] :
    (if p then b % 2 ^ (8 * n) else old) = (if p then BitVec.ofNat (8 * n) b else BitVec.ofNat (8 * n) old).toNat := by
  split
  · exact (BitVec.toNat_ofNat _ _).symm
  · exact ((BitVec.toNat_ofNat _ _).trans (Nat.mod_eq_of_lt h)).symm

theorem amoMinF_eq : amoMinF n old b =
    (if (BitVec.ofNat (8 * n) b).toInt < (BitVec.ofNat (8 * n) old).toInt then BitVec.ofNat (8 * n) b else BitVec.ofNat (8 * n) old).toNat := by
  unfold amoMinF
  simp only [BitVec.slt_iff_toInt_lt]
  exact toNat_ite_ofNat h _

theorem amoMaxF_eq : amoMaxF n old b =
    (if (BitVec.ofNat (8 * n) old).toInt < (BitVec.ofNat (8 * n) b).toInt then BitVec.ofNat (8 * n) b else BitVec.ofNat (8 * n) old).toNat := by
  unfold amoMaxF
  simp only [BitVec.slt_iff_toInt_lt]
  exact toNat_ite_ofNat h _

end

/-! The line at home, once the tile's own bytes of it have gone there. -/

/-- The line is brought into L2 where its page is versioned. -/
def State.broughtHome (s : State) (l : Leaf) : State := if versioned l.pa l.pg then s.fillL2 l.pa (s.payer s.cur) else s

/-- An atomic writes its new value, if it has one. -/
def State.actedHome (s : State) (l : Leaf) (n : Nat) (x : Option Nat) : State :=
  match x with
  | some x => (s.broughtHome l).writeHome l n x
  | none => s.broughtHome l

theorem State.sameButL2_broughtHome (s : State) (l : Leaf) : s.sameButL2 (s.broughtHome l) := by
  unfold State.broughtHome
  split
  · exact s.sameButL2_fillL2 _ _
  · exact s.sameButL2_refl

theorem State.verOf_broughtHome (s : State) (l : Leaf) : (s.broughtHome l).verOf l.pa = s.verOf l.pa := by
  unfold State.broughtHome
  split
  · exact s.verOf_fillL2 _ _
  · rfl

/-- Bytes of words without a live entry read at home as they stand. -/
theorem State.homeBytes_eq_bytes {s : State} {pa n : Nat} (h : ∀ i, i < n → (s.sumEnt ((pa + i) / 4)).live = false) :
    s.homeBytes pa n = s.bytes pa n := by
  induction n generalizing pa with
  | zero => rfl
  | succ n ih =>
    have hfirst : (s.sumEnt (pa / 4)).live = false := h 0 (by omega)
    have hrest : s.homeBytes (pa + 1) n = s.bytes (pa + 1) n := ih (fun i hi => by
      rw [show pa + 1 + i = pa + (i + 1) by omega]
      exact h (i + 1) (by omega))
    have hbyte : s.homeByte pa = s.byte pa := by
      unfold State.homeByte
      dsimp only
      rw [hfirst]
      rfl
    rw [State.homeBytes, State.bytes, hrest, hbyte]

/-- A read at home of a live tag under the line's own key. -/
theorem State.homeRead_plain {s : State} {tag pa : Nat} {pg : Pg} (hd : s.isDead tag = false) (hk : s.keyClash pa pg = false) (n : Nat) :
    s.homeRead tag pa n pg = s.homeBytes pa n := by
  unfold State.homeRead
  rw [hd, hk]
  rfl

theorem State.jobRequests_eq (s old : State) (pas : List Nat) : ∃ rows, s.jobRequests old pas = { s with agenda := rows } := by
  unfold State.jobRequests
  refine foldl_keeps (fun v => ∃ rows, v = { s with agenda := rows }) _ (fun v p hv => ?_) ⟨s.agenda, rfl⟩
  obtain ⟨rows, rfl⟩ := hv
  unfold State.jobRequest
  dsimp only
  split <;> split <;> exact ⟨_, rfl⟩

/-- The tag stays live, and the line under its key. -/
theorem State.broughtHome_live {s : State} {l : Leaf} (hdead : s.isDead (s.tagOf s.cur) = false) (hkey : s.keyClash l.pa l.pg = false) :
    (s.broughtHome l).isDead ((s.broughtHome l).tagOf (s.broughtHome l).cur) = false ∧ (s.broughtHome l).keyClash l.pa l.pg = false := by
  obtain ⟨_, _, _, hbrought⟩ := s.sameButL2_broughtHome l
  rw [hbrought]
  exact ⟨hdead, hkey⟩

section
variable {s : State} {l : Leaf} {n : Nat} (hspace : paSpace l.pa = 0) (hdead : s.isDead (s.tagOf s.cur) = false)
  (hkey : s.keyClash l.pa l.pg = false)
include hspace hdead hkey

/-- The bytes that an atomic finds. -/
theorem State.homeSeen_broughtHome (hsums : ∀ w, w / 32 = l.pa / 128 → (s.sumEnt w).live = false) (hn : n ∣ 128) (ha : l.pa % n = 0) :
    (s.broughtHome l).homeSeen l n = s.bytes l.pa n := by
  have hnotConfig : ¬(paSpace l.pa = 0xF ∧ (s.broughtHome l).me.priv ≠ .h) := fun h => absurd (hspace.symm.trans h.1) (by decide)
  have hsame := s.sameButL2_broughtHome l
  have hquiet : ∀ i, i < n → ((s.broughtHome l).sumEnt ((l.pa + i) / 4)).live = false := fun i hi => by
    have hline : (l.pa + i) / 128 = l.pa / 128 := lineOf_aligned hn ha hi
    rw [State.sumEnt_of_sameButL2 hsame]
    exact hsums _ (by omega)
  obtain ⟨hlive, hkeyed⟩ := State.broughtHome_live hdead hkey
  unfold State.homeSeen
  rw [if_neg hnotConfig, State.homeRead_plain hlive hkeyed, State.homeBytes_eq_bytes hquiet, State.bytes_congr (State.byte_of_sameButL2 hsame)]

/-- A write of a number puts its bytes at home and changes no other byte. -/
theorem State.byte_actedHome (x : Nat) (hn : 0 < n) (q : Nat) :
    (s.actedHome l n (some x)).byte q = if l.pa ≤ q ∧ q < l.pa + n then BitVec.ofNat 8 (x / 256 ^ (q - l.pa)) else s.byte q := by
  obtain ⟨_, _, _, hbrought⟩ := s.sameButL2_broughtHome l
  have hplain : paSpace l.pa ≠ 0xF := fun h => absurd (hspace.symm.trans h) (by decide)
  obtain ⟨hlive, hkeyed⟩ := State.broughtHome_live hdead hkey
  obtain ⟨k, hk⟩ := State.takeKey_noClash hkeyed
  show ((s.broughtHome l).writeHome l n x).byte q = _
  unfold State.writeHome
  rw [if_neg hplain]
  generalize hcells : (leBytes n x).zipIdx.map (fun p => (l.pa + p.2, p.1)) = cells
  obtain ⟨ts, hdrop⟩ := ((s.broughtHome l).homeWrite ((s.broughtHome l).tagOf (s.broughtHome l).cur)
    ((s.broughtHome l).payer (s.broughtHome l).cur) l.pg cells).dropCopy_eq l.pa
  have hwrite : ((s.broughtHome l).homeWrite ((s.broughtHome l).tagOf (s.broughtHome l).cur)
      ((s.broughtHome l).payer (s.broughtHome l).cur) l.pg cells).byte q = (((s.broughtHome l).takeKey l.pa l.pg).putBytes cells).byte q := by
    obtain ⟨m, rfl⟩ : ∃ m, n = m + 1 := ⟨n - 1, by omega⟩
    rw [leBytes, List.zipIdx_cons, List.map_cons] at hcells
    rw [← hcells]
    exact State.byte_homeWrite_cons hlive _ l.pg l.pa _ _ q
  rw [hdrop]
  refine hwrite.trans ?_
  rw [← hcells, hk]
  split
  · next hin =>
    obtain ⟨i, rfl⟩ : ∃ i, q = l.pa + i := ⟨q - l.pa, by omega⟩
    have hi : i < (leBytes n x).length := by
      rw [leBytes_length]
      omega
    rw [State.byte_putBytes_placed hi, Nat.add_sub_cancel_left, ← leBytes_getD x (by omega : i < n), List.getD_eq_getElem _ _ hi]
  · next hout =>
    refine (State.byte_putBytes_out fun p hp hpq => hout ?_).trans ?_
    · have hrange := mem_placedAt hp
      rw [leBytes_length, hpq] at hrange
      exact hrange
    · rw [hbrought]
      rfl

end

theorem State.sameButCache_dropCopy (s : State) (pa : Nat) : s.sameButCache (s.dropCopy pa) := by
  obtain ⟨_, hdrop⟩ := s.dropCopy_eq pa
  rw [hdrop]
  exact ⟨_, _, _, _, _, _, _, _, _, _, rfl⟩

/-- An atomic at home changes nothing but the memory system. -/
theorem State.sameButCache_actedHome {s : State} {l : Leaf} (hspace : paSpace l.pa = 0) (n : Nat) (x : Option Nat) :
    s.sameButCache (s.actedHome l n x) := by
  have hbrought : s.sameButCache (s.broughtHome l) := State.sameButCache_of_sameButHome (State.sameButHome_of_sameButL2 (s.sameButL2_broughtHome l))
  cases x with
  | none => exact hbrought
  | some x =>
    have hplain : paSpace l.pa ≠ 0xF := fun h => absurd (hspace.symm.trans h) (by decide)
    refine State.sameButCache_trans hbrought ?_
    show (s.broughtHome l).sameButCache ((s.broughtHome l).writeHome l n x)
    unfold State.writeHome
    rw [if_neg hplain]
    exact State.sameButCache_trans (State.sameButCache_of_sameButHome (State.sameButHome_homeWrite _ _ _ _ _)) (State.sameButCache_dropCopy _ _)

/-! The run of an atomic (R120). -/

section
variable {u v : State} {l : Leaf} (n : Nat) (f : State → Nat → Word × Option Nat)

/-- At tile scope. -/
theorem homeAtomic_tile (hc : u.controlAt l) (hh : u.reachesHome l.pa) :
    let h := u.cleanLine u.myTile (lineOf l.pa)
    let r := f (h.broughtHome l) (leNat ((h.broughtHome l).homeSeen l n))
    homeAtomic l n 0 f u = .ok r.1 (h.actedHome l n r.2) := by
  intro h r
  unfold homeAtomic
  refine ite_run_neg (fun hsc => hsc rfl) (bind_run (atHome_control hc hh n) (bind_run rfl (bind_run rfl ?_)))
  have hacted : (match r.2 with | some x => (h.broughtHome l).writeHome l n x | none => h.broughtHome l) = h.actedHome l n r.2 := rfl
  rw [← hacted]
  exact bind_run rfl (ite_run_neg (fun hsc => hsc rfl) rfl)

/-- At yard scope: a release before, an acquire after. -/
theorem homeAtomic_yard (hrel : release 1 u = .ok () v) (hc : v.controlAt l) (hh : v.reachesHome l.pa) :
    let h := v.cleanLine v.myTile (lineOf l.pa)
    let r := f (h.broughtHome l) (leNat ((h.broughtHome l).homeSeen l n))
    let w := h.actedHome l n r.2
    homeAtomic l n 1 f u = .ok r.1 (w.acquireTile w.myTile 1) := by
  intro h r w
  unfold homeAtomic
  refine ite_run_pos (by decide) (bind_run hrel (bind_run (atHome_control hc hh n) (bind_run rfl (bind_run rfl ?_))))
  have hacted : (match r.2 with | some x => (h.broughtHome l).writeHome l n x | none => h.broughtHome l) = w := rfl
  rw [← hacted]
  exact bind_run rfl (ite_run_pos (by decide) rfl)

end

/-- A release changes nothing but the memory system. -/
theorem sameButCache_release {n : Nat} {u v : State} (h : release n u = .ok () v) : u.sameButCache v := by
  unfold release at h
  dsimp only at h
  repeat' split at h
  all_goals cases h
  · exact u.sameButCache_refl
  · exact State.sameButCache_trans (State.sameButCache_foldl _ (fun w k => w.sameButCache_writeBack _ k) u) (State.sameButCache_drainWcb _ _)

theorem Ctx.pos_setGreg (x : Ctx) (r : Reg) (w : Word) : (x.setGreg r w).pos = x.pos := by
  unfold Ctx.setGreg
  split <;> rfl

theorem Ctx.pos_advance (x : Ctx) (n : Nat) : (x.advance n).pos = x.pos + 1 := by
  unfold Ctx.advance
  dsimp only
  split
  · split
    · exact Ctx.pos_setGreg _ _ _
    · exact Ctx.pos_setGreg _ _ _
  · rfl

/-- What a long-latency result leaves: a window, the next position, and every byte. -/
theorem State.long_goOn (s : State) (la : BitVec 4) (d : Reg) (x : Word) :
    ((s.long la d x).goOn).me.windows = s.me.windows ++ [s.me.laWindow la [.g d x]] ∧ ((s.long la d x).goOn).me.pos = s.me.pos + 1 ∧
      ∀ q, ((s.long la d x).goOn).byte q = s.byte q := by
  refine ⟨?_, ?_, fun _ => rfl⟩
  · rw [State.me_goOn, Ctx.windows_advance]
    exact congrArg Ctx.windows (State.me_modMe s (fun c => { c with windows := c.windows ++ [c.laWindow la [.g d x]] }))
  · rw [State.me_goOn, Ctx.pos_advance]
    exact congrArg (fun c => c.pos + 1) (State.me_modMe s (fun c => { c with windows := c.windows ++ [c.laWindow la [.g d x]] }))

section
variable {s u : State} {d a b : Reg} (h : s.canExecute) (ha : isQueue a = false) (hb : isQueue b = false) {l : Leaf} (hc : u.controlAt l)
  (hsum : l.exactSum = false)
include h ha hb hc hsum

/-- An AMO of a control context is its step at home. -/
theorem amo_runs {w : BitVec 1} {la : BitVec 4} {i : Instr} {op : Nat → Nat → Nat → Nat} (hd : isQueue d = false)
    (hs : s.atShared (s.me.greg a) (if w = 0 then 4 else 8) .atomic l u) {x : Word} {t : State}
    (hat : homeAtomic l (if w = 0 then 4 else 8) 0 (amoStep (if w = 0 then 4 else 8) op (s.me.greg b)) u = .ok x t) :
    run (amo i op d a b w 0 la) s = .next (((t.jobRequests u [l.pa]).long la d x).goOn) := by
  obtain ⟨htask, -, hspace⟩ := hc
  have hgate : s.operandsReady [a, b] [d] false := State.operandsReady_registers (by simp [ha, hb]) (by simp [hd]) false
  have hpcie : l.pcie = false := by simp [Leaf.pcie, hspace]
  refine run_ok h.1 (bind_run (noPrefix_ok h.2) (bind_run hgate (bind_run (readG_register ha s) (bind_run (readG_register hb s)
    (bind_run hs ?_)))))
  dsimp only
  rw [hsum, hpcie]
  refine bind_run rfl (bind_run rfl (bind_run rfl (ite_run_neg (by rw [htask]; decide) (bind_run rfl (bind_run hat (bind_run rfl ?_))))))
  exact bind_run rfl rfl

/-- A conditional write of a control context is its step at home. -/
theorem condWrite_runs {la : BitVec 4} {i : Instr} {mem : Bool} {f : Word → Word → Leaf → State → Nat → Word × Option Nat}
    (hmem : (l.pg.memSide && !mem) = false) (hs : s.atShared (s.me.greg a) 8 .atomic l u) {x : Word} {t : State}
    (hat : homeAtomic l 8 1 (f (s.me.greg b) (u.me.greg d) l) u = .ok x t) :
    run (condWrite i d a b la mem f) s = .next ((t.long la d x).goOn) := by
  obtain ⟨htask, -, hspace⟩ := hc
  have hgate : s.operandsReady [a, b] [] true := State.operandsReady_registers (by simp [ha, hb]) (by simp) true
  have hpcie : l.pcie = false := by simp [Leaf.pcie, hspace]
  refine run_ok h.1 (bind_run (noPrefix_ok h.2) (bind_run hgate (bind_run (readG_register ha s) (bind_run (readG_register hb s)
    (bind_run hs ?_)))))
  dsimp only
  rw [hsum, hpcie, hmem]
  exact bind_run rfl (bind_run rfl (ite_run_neg (by rw [htask]; decide) (bind_run hat (bind_run rfl rfl))))

end

/-! What an atomic leaves (R120, R190, R191). -/

theorem leBytes_leNat (bs : List Byte) : leBytes bs.length (leNat bs) = bs := by
  induction bs with
  | nil => rfl
  | cons b bs ih =>
    have hb : BitVec.ofNat 8 (leNat (b :: bs)) = b := BitVec.eq_of_toNat_eq (by
      have hlt := b.isLt
      rw [BitVec.toNat_ofNat, leNat]
      omega)
    have hbs : leNat (b :: bs) / 256 = leNat bs := by
      have hlt := b.isLt
      rw [leNat]
      omega
    rw [List.length_cons, leBytes, hb, hbs, ih]

theorem State.bytes_length (s : State) (pa n : Nat) : (s.bytes pa n).length = n := by
  induction n generalizing pa with
  | zero => rfl
  | succ n ih => rw [State.bytes, List.length_cons, ih]

theorem State.bytes_getD {i n : Nat} (s : State) (pa : Nat) (hi : i < n) : (s.bytes pa n).getD i 0 = s.byte (pa + i) := by
  induction n generalizing pa i with
  | zero => omega
  | succ n ih =>
    rw [State.bytes]
    cases i with
    | zero => rfl
    | succ i => rw [List.getD_cons_succ, ih _ (by omega), Nat.add_assoc, Nat.add_comm 1 i]

/-- A byte of a number that is read from memory. -/
theorem State.byte_of_leNat_bytes {i n : Nat} (s : State) (pa : Nat) (hi : i < n) :
    s.byte (pa + i) = BitVec.ofNat 8 (leNat (s.bytes pa n) / 256 ^ i) := by
  have hback := leBytes_leNat (s.bytes pa n)
  rw [State.bytes_length] at hback
  rw [← leBytes_getD _ hi, hback, State.bytes_getD s pa hi]

theorem State.leNat_bytes_lt (s : State) (pa n : Nat) : leNat (s.bytes pa n) < 2 ^ (8 * n) := by
  have hlt := leNat_lt (s.bytes pa n)
  rwa [State.bytes_length, show (256 : Nat) = 2 ^ 8 from rfl, ← pow_mul] at hlt

/-- The context and its tag stay as the tile writes a line back. -/
theorem State.cleanLine_live {u : State} (hdead : u.isDead (u.tagOf u.cur) = false) (t k : Nat) :
    (u.cleanLine t k).isDead ((u.cleanLine t k).tagOf (u.cleanLine t k).cur) = false := by
  have hclean := u.sameButCache_cleanLine t k
  unfold State.tagOf
  rw [State.isDead_of_sameButCache hclean, State.cur_of_sameButCache hclean, State.ctx_of_sameButCache hclean]
  exact hdead

theorem State.me_of_sameButCache {s t : State} (h : s.sameButCache t) : t.me = s.me :=
  (congrArg t.ctx (State.cur_of_sameButCache h)).trans (State.ctx_of_sameButCache h s.cur)

/-- The number at home once an atomic has written x there, and the register's window. -/
theorem State.acted_goOn {h w : State} {x : Ctx} {pa n new : Nat} {la : BitVec 4} {d : Reg} {v : Word} (hme : w.me = x)
    (hbyte : ∀ q, w.byte q = if pa ≤ q ∧ q < pa + n then BitVec.ofNat 8 (new / 256 ^ (q - pa)) else h.byte q) :
    let t := (w.long la d v).goOn
    t.me.windows = x.windows ++ [x.laWindow la [.g d v]] ∧ (∀ i, i < n → t.byte (pa + i) = BitVec.ofNat 8 (new / 256 ^ i)) ∧
      (∀ q, q < pa ∨ pa + n ≤ q → t.byte q = h.byte q) ∧ t.me.pos = x.pos + 1 := by
  obtain ⟨hwin, hpos, hsame⟩ := w.long_goOn la d v
  rw [hme] at hwin hpos
  refine ⟨hwin, fun i hi => ?_, fun q hq => ?_, hpos⟩
  · rw [hsame, hbyte, if_pos (by omega), Nat.add_sub_cancel_left]
  · rw [hsame, hbyte, if_neg (by omega)]

/-- An AMO of a control context at tile scope (R191). -/
theorem amo_acts {s u : State} {d a b : Reg} {la : BitVec 4} {w : BitVec 1} {l : Leaf} {i : Instr} {op : Nat → Nat → Nat → Nat} (h : s.canExecute)
    (hd : isQueue d = false) (ha : isQueue a = false) (hb : isQueue b = false)
    (hs : s.atShared (s.me.greg a) (if w = 0 then 4 else 8) .atomic l u) (hc : u.controlAt l) (hsum : l.exactSum = false) (hme : u.me = s.me)
    (hh : u.reachesHome l.pa) (hdead : u.isDead (u.tagOf u.cur) = false)
    (hkey : (u.cleanLine u.myTile (lineOf l.pa)).keyClash l.pa l.pg = false)
    (hsums : ∀ k, k / 32 = l.pa / 128 → ((u.cleanLine u.myTile (lineOf l.pa)).sumEnt k).live = false) :
    let n := if w = 0 then 4 else 8
    let v := u.cleanLine u.myTile (lineOf l.pa)
    let old := leNat (v.bytes l.pa n)
    ∃ t, run (amo i op d a b w 0 la) s = .next t ∧
      t.me.windows = s.me.windows ++ [s.me.laWindow la [.g d ((BitVec.ofNat (8 * n) old).signExtend 64)]] ∧
      (∀ i, i < n → t.byte (l.pa + i) = BitVec.ofNat 8 (op n old (s.me.greg b).toNat / 256 ^ i)) ∧
      (∀ q, q < l.pa ∨ l.pa + n ≤ q → t.byte q = v.byte q) ∧ t.me.pos = s.me.pos + 1 := by
  have hn : (if w = 0 then 4 else 8) ∣ 65536 ∧ (if w = 0 then 4 else 8) ∣ 128 ∧ 0 < (if w = 0 then 4 else 8) := by split <;> decide
  have hrun := fun x t => amo_runs h ha hb hc hsum (la := la) (i := i) (op := op) hd hs (x := x) (t := t)
  intro n v old
  obtain ⟨-, haligned⟩ := State.atShared_leaf hs hn.1
  have hspace := hc.2.2
  have hlive := State.cleanLine_live hdead u.myTile (lineOf l.pa)
  have hat := homeAtomic_tile n (amoStep n op (s.me.greg b)) hc hh
  dsimp only at hat
  rw [State.homeSeen_broughtHome hspace hlive hkey hsums hn.2.1 haligned] at hat
  refine ⟨_, hrun _ _ hat, ?_⟩
  obtain ⟨rows, hrows⟩ := (v.actedHome l n (some (op n old (s.me.greg b).toNat))).jobRequests_eq u [l.pa]
  have hsame : u.sameButCache (v.actedHome l n (some (op n old (s.me.greg b).toNat))) :=
    State.sameButCache_trans (u.sameButCache_cleanLine _ _) (State.sameButCache_actedHome hspace n _)
  refine State.acted_goOn ?_ (fun q => ?_)
  · exact (congrArg State.me hrows).trans ((State.me_of_sameButCache hsame).trans hme)
  · exact (congrArg (fun x => x.byte q) hrows).trans (State.byte_actedHome hspace hlive hkey _ hn.2.2 q)

/-- A byte where a number of n bytes, if there is one, has been written at pa. -/
def State.byteOr (s : State) (pa n : Nat) (x : Option Nat) (q : Nat) : Byte :=
  match x with
  | some x => if pa ≤ q ∧ q < pa + n then BitVec.ofNat 8 (x / 256 ^ (q - pa)) else s.byte q
  | none => s.byte q

section
variable {s u v : State} {d a b : Reg} {la : BitVec 4} {l : Leaf} (hx : s.canExecute) (ha : isQueue a = false) (hb : isQueue b = false)
  (hs : s.atShared (s.me.greg a) 8 .atomic l u) (hc : u.controlAt l) (hsum : l.exactSum = false) (hme : u.me = s.me)
  (hrel : release 1 u = .ok () v) (hh : v.reachesHome l.pa) (hdead : v.isDead (v.tagOf v.cur) = false)
  (hkey : (v.cleanLine v.myTile (lineOf l.pa)).keyClash l.pa l.pg = false)
include hx ha hb hs hc hsum hme hrel hh hdead hkey

/-- A conditional write of a control context that answers x and writes y, if it does (R190). -/
theorem condWrite_acts {i : Instr} {mem : Bool} {f : Word → Word → Leaf → State → Nat → Word × Option Nat} {x : Word} {y : Option Nat}
    (hmem : (l.pg.memSide && !mem) = false)
    (hf : let h := v.cleanLine v.myTile (lineOf l.pa)
      f (s.me.greg b) (s.me.greg d) l (h.broughtHome l) (leNat ((h.broughtHome l).homeSeen l 8)) = (x, y)) :
    let h := v.cleanLine v.myTile (lineOf l.pa)
    ∃ w : State, run (condWrite i d a b la mem f) s = .next ((w.long la d x).goOn) ∧ w.me = s.me ∧
      ∀ q, w.byte q = h.byteOr l.pa 8 y q := by
  intro h
  have hsame := sameButCache_release hrel
  have hcv : v.controlAt l := by
    obtain ⟨htask, htsc, hspace⟩ := hc
    unfold State.controlAt State.inTask
    rw [State.cur_of_sameButCache hsame]
    exact ⟨htask, htsc, hspace⟩
  have hspace := hc.2.2
  have hlive := State.cleanLine_live hdead v.myTile (lineOf l.pa)
  have hat := homeAtomic_yard 8 (f (s.me.greg b) (u.me.greg d) l) hrel hcv hh
  have hold : u.me.greg d = s.me.greg d := congrArg (fun c => c.greg d) hme
  dsimp only at hat hf
  rw [hold, hf] at hat
  obtain ⟨ts, hacq⟩ := (h.actedHome l 8 y).acquireTile_eq (h.actedHome l 8 y).myTile 1
  have hacted : u.sameButCache (h.actedHome l 8 y) := State.sameButCache_trans hsame
    (State.sameButCache_trans (v.sameButCache_cleanLine _ _) (State.sameButCache_actedHome hspace 8 y))
  refine ⟨_, condWrite_runs hx ha hb hc hsum hmem hs (hold ▸ hat), ?_, fun q => ?_⟩
  · exact (congrArg State.me hacq).trans ((State.me_of_sameButCache hacted).trans hme)
  · refine (congrArg (fun x => x.byte q) hacq).trans ?_
    cases y with
    | none => exact State.byte_of_sameButL2 (h.sameButL2_broughtHome l) q
    | some y => exact State.byte_actedHome hspace hlive hkey y (by decide) q

/-- CAS (R190). -/
theorem cas_acts (hsums : ∀ k, k / 32 = l.pa / 128 → ((v.cleanLine v.myTile (lineOf l.pa)).sumEnt k).live = false) :
    let h := v.cleanLine v.myTile (lineOf l.pa)
    let old := leNat (h.bytes l.pa 8)
    ∃ w : State, exec (.cas d a b la) s = .next ((w.long la d (BitVec.ofNat 64 old)).goOn) ∧ w.me = s.me ∧
      ∀ q, w.byte q = if l.pa ≤ q ∧ q < l.pa + 8 then
        BitVec.ofNat 8 ((if BitVec.ofNat 64 old = s.me.greg b then (s.me.greg d).toNat else old) / 256 ^ (q - l.pa)) else h.byte q := by
  intro h old
  obtain ⟨-, haligned⟩ := State.atShared_leaf hs (by decide)
  have hseen := State.homeSeen_broughtHome hc.2.2 (State.cleanLine_live hdead v.myTile (lineOf l.pa)) hkey hsums (by decide) haligned
  obtain ⟨w, hrun, hwme, hbyte⟩ := condWrite_acts hx ha hb hs hc hsum hme hrel hh hdead hkey (la := la) (i := .cas d a b la) (mem := true) (f := casStep)
    (x := BitVec.ofNat 64 old) (y := if BitVec.ofNat 64 old = s.me.greg b then some (s.me.greg d).toNat else none) (Bool.and_false _) (by
      dsimp only
      rw [hseen]
      rfl)
  refine ⟨w, hrun, hwme, fun q => (hbyte q).trans ?_⟩
  by_cases heq : BitVec.ofNat 64 old = s.me.greg b
  · rw [if_pos heq, if_pos heq]
    rfl
  · rw [if_neg heq, if_neg heq]
    show h.byte q = _
    split
    · next hin =>
      obtain ⟨i, rfl⟩ : ∃ i, q = l.pa + i := ⟨q - l.pa, by omega⟩
      rw [Nat.add_sub_cancel_left]
      exact h.byte_of_leNat_bytes l.pa (by omega)
    · rfl

/-- CASV (R190). -/
theorem casv_acts (hside : l.pg.memSide = false) :
    let h := v.cleanLine v.myTile (lineOf l.pa)
    ∃ w : State, exec (.casv d a b la) s = .next ((w.long la d (if h.verOf l.pa = s.me.greg b then 1 else 0)).goOn) ∧ w.me = s.me ∧
      ∀ i, i < 8 → w.byte (l.pa + i) =
        if h.verOf l.pa = s.me.greg b then BitVec.ofNat 8 ((s.me.greg d).toNat / 256 ^ i) else h.byte (l.pa + i) := by
  intro h
  obtain ⟨w, hrun, hwme, hbyte⟩ := condWrite_acts hx ha hb hs hc hsum hme hrel hh hdead hkey (la := la) (i := .casv d a b la) (mem := false) (f := casvStep)
    (x := if h.verOf l.pa = s.me.greg b then 1 else 0) (y := if h.verOf l.pa = s.me.greg b then some (s.me.greg d).toNat else none)
    (by rw [hside]; rfl) (by
      dsimp only
      unfold casvStep
      rw [State.verOf_broughtHome]
      split <;> rfl)
  refine ⟨w, hrun, hwme, fun i hi => (hbyte _).trans ?_⟩
  by_cases heq : h.verOf l.pa = s.me.greg b
  · rw [if_pos heq, if_pos heq]
    refine (if_pos (by omega)).trans ?_
    rw [Nat.add_sub_cancel_left]
  · rw [if_neg heq, if_neg heq]
    rfl

end

/-- Settles O33: each form runs to one act at home, and what an AMO writes is its operation on the old value. -/
theorem atomicsActOnceAtHome : Obligations.AtomicsActOnceAtHome := by
  unfold Obligations.AtomicsActOnceAtHome
  intro s d a b la hx hd ha hb p y ready after
  constructor
  · intro f hf w l u n hready v old
    obtain ⟨hs, hc, hsum, hme, hh, hdead, hkey, hsums⟩ := hready
    have hacts := fun i op => amo_acts (la := la) (i := i) (op := op) hx hd ha hb hs hc hsum hme hh hdead hkey hsums
    have hlt : old < 2 ^ (8 * n) := v.leNat_bytes_lt l.pa n
    simp only [List.mem_cons, List.not_mem_nil, or_false] at hf
    rcases hf with rfl | rfl | rfl | rfl | rfl | rfl | rfl
    · exact amoAddF_eq (n := n) (old := old) (b := y.toNat) ▸ hacts (.amoAdd d a b w 0 la) amoAddF
    · exact amoAndF_eq (b := y.toNat) hlt ▸ hacts (.amoAnd d a b w 0 la) amoAndF
    · exact amoOrF_eq (b := y.toNat) hlt ▸ hacts (.amoOr d a b w 0 la) amoOrF
    · exact amoXorF_eq (b := y.toNat) hlt ▸ hacts (.amoXor d a b w 0 la) amoXorF
    · exact amoMinF_eq (b := y.toNat) hlt ▸ hacts (.amoMin d a b w 0 la) amoMinF
    · exact amoMaxF_eq (b := y.toNat) hlt ▸ hacts (.amoMax d a b w 0 la) amoMaxF
    · exact amoSwapF_eq (n := n) (old := old) (b := y.toNat) ▸ hacts (.amoSwap d a b w 0 la) amoSwapF
  · intro l u v hrel hready h old
    obtain ⟨hs, hc, hsum, hme, hh, hdead, hkey, hsums⟩ := hready
    constructor
    · obtain ⟨w, hrun, hwme, hbyte⟩ := cas_acts (d := d) (la := la) hx ha hb hs hc hsum hme hrel hh hdead hkey hsums
      have hword : (BitVec.ofNat (8 * 8) old).signExtend 64 = BitVec.ofNat 64 old := BitVec.signExtend_eq _
      refine ⟨_, hrun, ?_⟩
      dsimp only [after]
      rw [hword]
      exact State.acted_goOn hwme hbyte
    · intro hside
      obtain ⟨w, hrun, hwme, hbyte⟩ := casv_acts (d := d) (la := la) hx ha hb hs hc hsum hme hrel hh hdead hkey hside
      obtain ⟨hwin, -, hsame⟩ := w.long_goOn la d (if h.verOf l.pa = y then 1 else 0)
      rw [hwme] at hwin
      exact ⟨_, hrun, hwin, fun i hi => (hsame _).trans (hbyte i hi)⟩

end Sys2Proof.Machine
end

section
/-! PROOFS. The commands that a tile's engines hold: a late cause leaves them, and a command that ends leaves its engine (R215, R242, R264, R312). -/

namespace Sys2Proof.Machine

/-- Every tile's engines hold the same commands. -/
def State.sameEng (s t : State) : Prop := ∀ u, (t.tile u).eng = (s.tile u).eng

theorem State.sameEng_refl (s : State) : s.sameEng s := fun _ => rfl

theorem State.sameEng_trans {s t u : State} (h : s.sameEng t) (k : t.sameEng u) : s.sameEng u := fun x => (k x).trans (h x)

theorem State.sameEng_of_tiles {s t : State} (h : t.tiles = s.tiles) : s.sameEng t := fun u =>
  congrArg (fun m => (SMap.get (fun _ => Tile.reset) m u).eng) h

theorem State.sameEng_foldl {α : Type} (l : List α) {f : State → α → State} (hf : ∀ (s : State) (x : α), s.sameEng (f s x)) (s : State) :
    s.sameEng (l.foldl f s) :=
  foldl_keeps (fun v => s.sameEng v) l (fun v x hv => State.sameEng_trans hv (hf v x)) s.sameEng_refl

section
variable (s : State)

theorem State.sameEng_modTile {t : Nat} {f : Tile → Tile} (hf : ∀ x : Tile, (f x).eng = x.eng) : s.sameEng (s.modTile t f) := fun u => by
  by_cases hu : u = t
  · subst hu
    rw [State.tile_modTile_self]
    exact hf _
  · rw [State.tile_modTile_ne _ _ hu]

theorem State.tiles_disown (ls : List Nat) : (s.disown ls).tiles = s.tiles := by
  unfold State.disown
  refine foldl_leaves (g := State.tiles) (fun v l => ?_) ls s
  rfl

theorem State.tiles_releaseSolo (c : Nat) : (s.releaseSolo c).tiles = s.tiles := by
  unfold State.releaseSolo
  refine foldl_leaves (g := State.tiles) (fun v l => ?_) _ s
  rfl

theorem State.sameEng_countDone (q : QEntry) : s.sameEng (s.countDone q) := fun t => by
  obtain ⟨_, h⟩ := s.tile_countDone q t
  rw [h]

theorem State.sameEng_noteLate (q : QEntry) (e : Cause) : s.sameEng (s.noteLate q e) := by
  unfold State.noteLate
  split
  · exact s.sameEng_refl
  · exact s.sameEng_modTile (fun _ => rfl)

/-! The end of a task. -/

theorem State.sameEng_dropFrame (t f : Nat) : s.sameEng (s.dropFrame t f) :=
  State.sameEng_trans (t := s.clearFrame t (s.frameOff t f)) (State.sameEng_of_tiles rfl) (State.sameEng_modTile _ (fun _ => rfl))

theorem State.sameEng_unpin (t : Nat) : s.sameEng (s.unpin t) := by
  unfold State.unpin
  split
  · exact s.sameEng_refl
  · split
    · exact s.sameEng_modTile (fun _ => rfl)
    · exact s.sameEng_modTile (fun _ => rfl)

theorem State.sameEng_dropCommands (c : Nat) : s.sameEng (s.dropCommands c) := by
  unfold State.dropCommands
  dsimp only
  refine State.sameEng_trans (State.sameEng_of_tiles ?_) (State.sameEng_modTile _ (fun _ => rfl))
  exact s.tiles_disown _

theorem State.sameEng_freeHelper (c : Nat) : s.sameEng (s.freeHelper c) := by
  have hsolo : s.sameEng (s.releaseSolo c) := State.sameEng_of_tiles (s.tiles_releaseSolo c)
  have hgone : s.sameEng (((s.releaseSolo c).dropCommands c).setCtx c Ctx.reset) :=
    State.sameEng_trans hsolo (State.sameEng_trans (State.sameEng_dropCommands _ c) (State.sameEng_of_tiles rfl))
  unfold State.freeHelper
  refine State.sameEng_trans hgone (State.sameEng_trans (State.sameEng_foldl _ (fun v p => ?_) _) (State.sameEng_unpin _ _))
  exact v.sameEng_modTile (fun _ => rfl)

theorem State.tiles_graphStep (y j i : Nat) : (s.graphStep y j i).tiles = s.tiles := by
  unfold State.graphStep
  split
  · rfl
  · split <;> extract_lets g' t <;> split <;> rfl

theorem State.sameEng_dropRetained (y j : Nat) : s.sameEng (s.dropRetained y j) := by
  unfold State.dropRetained
  split
  · exact s.sameEng_refl
  · refine State.sameEng_foldl _ (fun v t => State.sameEng_foldl _ (fun v n => ?_) v) s
    refine State.sameEng_trans (State.sameEng_foldl _ (fun v e => ?_) v) (State.sameEng_of_tiles rfl)
    split
    · exact v.sameEng_refl
    · exact v.sameEng_dropFrame _ _

theorem State.sameEng_launchDone (y j i : Nat) : s.sameEng (s.launchDone y j i) := by
  have hstep : s.sameEng (s.graphStep y j i) := State.sameEng_of_tiles (s.tiles_graphStep y j i)
  unfold State.launchDone
  dsimp only
  split
  · exact State.sameEng_trans hstep (State.sameEng_dropRetained _ _ _)
  · exact hstep

theorem State.sameEng_taskEnded (y j : Nat) (launch : Option Nat) : s.sameEng (s.taskEnded y j launch) := by
  unfold State.taskEnded
  split
  · exact s.sameEng_refl
  · split
    · exact s.sameEng_refl
    · split
      · exact s.sameEng_refl
      · dsimp only
        split
        · exact State.sameEng_trans (State.sameEng_of_tiles rfl) (State.sameEng_launchDone _ _ _ _)
        · exact State.sameEng_of_tiles rfl

theorem State.sameEng_endTask (c : Nat) : s.sameEng (s.endTask c) := by
  unfold State.endTask
  split
  · exact s.sameEng_refl
  · next h _ =>
    have hfree : s.sameEng ((s.freeHelper c).dropFrame (cidTile c) h.frame) :=
      State.sameEng_trans (s.sameEng_freeHelper c) (State.sameEng_dropFrame _ _ _)
    refine State.sameEng_trans hfree (State.sameEng_trans ?_ (State.sameEng_taskEnded _ _ _ _))
    split <;> exact State.sameEng_of_tiles rfl

theorem State.sameEng_taskFault (c : Nat) (e : Cause) (toH : Bool) : s.sameEng (s.taskFault c e toH) := by
  unfold State.taskFault
  split
  · exact s.sameEng_refl
  · exact State.sameEng_trans (s.sameEng_endTask c) (State.sameEng_of_tiles (State.tiles_addRecord _ _ _))

/-- R215, R243, R312: whatever a late cause ends or records, the engines hold what they held. -/
theorem State.sameEng_raiseLate (q : QEntry) (e : Cause) (m k : Nat) (tv : Word) : s.sameEng (s.raiseLate q e m k tv) := by
  refine State.sameEng_trans (s.sameEng_noteLate q e) ?_
  unfold State.raiseLate
  dsimp only
  split
  · split
    · exact State.sameEng_of_tiles (State.tiles_addRecord _ _ _)
    · split
      · exact State.sameEng_taskFault _ _ _ _
      · exact State.sameEng_of_tiles rfl
  · split
    · split
      · exact State.sameEng_of_tiles (State.tiles_addRecord _ _ _)
      · exact State.sameEng_refl _
    · split <;> exact State.sameEng_of_tiles rfl

end

/-! The end of a command (R242). -/

/-- A command that ends is filtered out of its tile's engines, and every other engine holds what it held. -/
theorem State.eng_endCmd (s : State) (t : Nat) (e : ECmd) (u : Nat) : ((s.endCmd t e).tile u).eng =
    if u = t then (s.tile u).eng.filter (fun y => y.id != e.id) else (s.tile u).eng := by
  refine (State.sameEng_countDone _ e.q u).trans ?_
  have hdisown (l : List Nat) : (s.disown l).tile u = s.tile u := congrArg (fun m => SMap.get (fun _ => Tile.reset) m u) (s.tiles_disown l)
  split
  · next hu =>
    subst hu
    rw [State.tile_modTile_self, hdisown]
  · next hu =>
    rw [State.tile_modTile_ne _ _ hu, hdisown]

/-- No command of a number stands at a tile. -/
def State.noCmd (s : State) (m : Member) : Prop := ∀ y ∈ (s.tile m.1).eng, y.id ≠ m.2.id

theorem State.noCmd_endCmd {s : State} {m : Member} (h : s.noCmd m) (t : Nat) (e : ECmd) : (s.endCmd t e).noCmd m := fun y hy => by
  rw [State.eng_endCmd] at hy
  split at hy
  · exact h y (List.mem_of_mem_filter hy)
  · exact h y hy

theorem State.noCmd_endCmd_self (s : State) (m : Member) : (s.endCmd m.1 m.2).noCmd m := fun y hy => by
  rw [State.eng_endCmd, if_pos rfl] at hy
  exact bne_iff_ne.mp (List.mem_filter.mp hy).2

theorem State.noCmd_raiseLate {s : State} {m : Member} (h : s.noCmd m) (q : QEntry) (e : Cause) (i k : Nat) (tv : Word) :
    (s.raiseLate q e i k tv).noCmd m := fun y hy => h y (s.sameEng_raiseLate q e i k tv m.1 ▸ hy)

/-- The members whose commands end with a cause have left their engines (R264). -/
theorem State.noCmd_collFail {s : State} {ms : List Member} (c : Nat → Cause) {x : Member} (hx : x ∈ ms) : (s.collFail ms c).noCmd x := by
  have hkeep (l : List (Member × Nat)) (v : State) (hv : v.noCmd x) :
      (l.foldl (fun s (p : Member × Nat) => (s.endCmd p.1.1 p.1.2).raiseLate p.1.2.q (c p.2) 0 0 0) v).noCmd x :=
    foldl_keeps (fun v : State => v.noCmd x) l (fun v p hv => State.noCmd_raiseLate (State.noCmd_endCmd hv _ _) _ _ _ _ _) hv
  obtain ⟨i, hi⟩ : ∃ i, (x, i) ∈ ms.zipIdx := by
    obtain ⟨i, hi⟩ := List.getElem?_of_mem hx
    exact ⟨i, List.mem_zipIdx_iff_getElem?.mpr hi⟩
  obtain ⟨f, g, hsplit⟩ := List.append_of_mem hi
  unfold State.collFail
  rw [hsplit, List.foldl_append, List.foldl_cons]
  exact hkeep g _ (State.noCmd_raiseLate (State.noCmd_endCmd_self _ x) _ _ _ _ _)

end Sys2Proof.Machine
end

section
/-! PROOFS. Runs of bytes in the memory of one tile: where they are read back, how they are cut, and what an engine's access of them gives
(R92, R95, R258). -/

namespace Sys2Proof.Machine

/-! Runs through a view. -/

section
variable (s : State) (t view off : Nat)

theorem State.tmBytes_append (m n : Nat) : s.tmBytes t view off (m + n) = s.tmBytes t view off m ++ s.tmBytes t view (off + m) n := by
  induction m generalizing off with
  | zero => simp [State.tmBytes]
  | succ m ih =>
    rw [Nat.succ_add, State.tmBytes, State.tmBytes, ih, List.cons_append, show off + 1 + m = off + (m + 1) by omega]

theorem State.tmBytes_getD {i n : Nat} (hi : i < n) : (s.tmBytes t view off n).getD i 0 = s.tmByte t view (off + i) := by
  induction n generalizing off i with
  | zero => omega
  | succ n ih =>
    rw [State.tmBytes]
    cases i with
    | zero => rfl
    | succ i => rw [List.getD_cons_succ, ih _ (by omega), Nat.add_assoc, Nat.add_comm 1 i]

theorem State.tmBytes_take {i n : Nat} (hi : i ≤ n) : (s.tmBytes t view off n).take i = s.tmBytes t view off i := by
  obtain ⟨m, rfl⟩ := Nat.exists_eq_add_of_le hi
  rw [State.tmBytes_append]
  exact List.take_left' (State.tmBytes_length s t view off i)

theorem State.tmBytes_drop_take {i m n : Nat} (h : i + m ≤ n) : ((s.tmBytes t view off n).drop i).take m = s.tmBytes t view (off + i) m := by
  obtain ⟨k, rfl⟩ := Nat.exists_eq_add_of_le h
  rw [Nat.add_assoc, State.tmBytes_append, List.drop_left' (State.tmBytes_length s t view off i)]
  exact State.tmBytes_take s t view (off + i) (by omega)

theorem State.setTmBytes_append (xs ys : List Byte) :
    s.setTmBytes t view off (xs ++ ys) = (s.setTmBytes t view off xs).setTmBytes t view (off + xs.length) ys := by
  induction xs generalizing s off with
  | nil => rfl
  | cons x xs ih =>
    rw [List.cons_append, State.setTmBytes, State.setTmBytes, ih, List.length_cons, Nat.add_assoc, Nat.add_comm 1]

end

theorem State.tmBytes_ext {s u : State} {t view off n : Nat} (h : ∀ i, i < n → u.tmByte t view (off + i) = s.tmByte t view (off + i)) :
    u.tmBytes t view off n = s.tmBytes t view off n := by
  induction n generalizing off with
  | zero => rfl
  | succ n ih =>
    have hfirst : u.tmByte t view off = s.tmByte t view off := h 0 (by omega)
    have hrest : u.tmBytes t view (off + 1) n = s.tmBytes t view (off + 1) n := ih (fun i hi => by
      rw [Nat.add_assoc, Nat.add_comm 1 i]
      exact h (i + 1) (by omega))
    rw [State.tmBytes, State.tmBytes, hfirst, hrest]

section
variable (s : State) {t view off : Nat} {bs : List Byte} (ht : t < 1024) (hfit : off + bs.length ≤ 0x100000)
include ht hfit

/-- A run that lies in a tile's memory leaves the bytes beside it. -/
theorem State.tmByte_run_out {o : Nat} (ho : o < 0x100000) (h : o < off ∨ off + bs.length ≤ o) :
    (s.setTmBytes t view off bs).tmByte t view o = s.tmByte t view o :=
  s.tmByte_setTmBytes_ne (fun i hi hkey => by
    have := ((view_permutes_places view o (off + i) ht).1).mp hkey
    omega)

/-- It is read back. -/
theorem State.tmByte_run_in {i : Nat} (hi : i < bs.length) : (s.setTmBytes t view off bs).tmByte t view (off + i) = bs.getD i 0 := by
  induction bs generalizing s off i with
  | nil => exact absurd hi (Nat.not_lt_zero i)
  | cons b bs ih =>
    rw [List.length_cons] at hfit hi
    cases i with
    | zero =>
      rw [Nat.add_zero, State.setTmBytes, State.tmByte_run_out _ ht (by omega) (by omega) (by omega), State.tmByte_setTmByte_self, List.getD_cons_zero]
    | succ i =>
      rw [State.setTmBytes, List.getD_cons_succ, show off + (i + 1) = off + 1 + i by omega, ih _ (by omega) (by omega)]

end

/-- A run leaves the memory of every other tile. -/
theorem State.tmBytes_run_otherTile (s : State) {t u view v off o : Nat} {bs : List Byte} (ht : t < 1024) (hu : u < 1024) (hne : u ≠ t) (n : Nat) :
    (s.setTmBytes t view off bs).tmBytes u v o n = s.tmBytes u v o n :=
  State.tmBytes_ext fun i _ => s.tmByte_setTmBytes_ne fun j _ hkey => hne (by
    rw [← (view_permutes_places v (o + i) 0 hu).2.1, hkey, (view_permutes_places view (off + j) 0 ht).2.1])

/-! An engine's place in tile memory (R92). -/

/-- An entry's accesses of a kind may go through a pointer into a tile's memory now. -/
def State.tmReach (s : State) (q : QEntry) (p : Word) (k : AKind) : Prop :=
  isTm p = true ∧ checkPtr (s.withSr q) q.cid p 1 k = none ∧
    s.routeOpen (s.yardOf (cidTile q.cid)) (cidTile q.cid) (ptrTile (cidTile q.cid) p) = true

theorem State.tmReach_tm {s : State} {q : QEntry} {p : Word} {k : AKind} (h : s.tmReach q p k) (m : SMap Byte) :
    ({ s with tm := m } : State).tmReach q p k := h

theorem State.tmReach_setTmBytes {s : State} {q : QEntry} {p : Word} {k : AKind} (h : s.tmReach q p k) (t view off : Nat) (bs : List Byte) :
    (s.setTmBytes t view off bs).tmReach q p k := by
  obtain ⟨m, hm⟩ := s.setTmBytes_eq bs t view off
  rw [hm]
  exact State.tmReach_tm h m

theorem State.place_tm {s : State} {q : QEntry} {p : Word} {k : AKind} (h : s.tmReach q p k) (sc : Nat) {d n size : Nat}
    (hsize : (ptrOff p + d) % size = 0) (hfit : ptrOff p + d + n ≤ 0x100000) :
    s.place q sc p d n size k = .ok (.tm (ptrTile (cidTile q.cid) p) (ptrView p) (ptrOff p + d)) s := by
  obtain ⟨htm, hcheck, hroute⟩ := h
  have haligned : ¬((ptrOff p : Int) + (d : Int)) % (size : Int) ≠ 0 := by
    rw [not_not]
    exact_mod_cast hsize
  have hinside : ¬((ptrOff p : Int) + (d : Int) < 0 ∨ 0x100000 < (ptrOff p : Int) + (d : Int) + (n : Int)) := by omega
  unfold State.place
  dsimp only
  rw [if_pos htm, hcheck]
  refine (if_neg haligned).trans ((if_neg hinside).trans ?_)
  rw [hroute]
  rfl

/-- The bytes from a place to the end of its line. -/
theorem toLine_nat (p : Word) (d : Nat) : toLine p d = 128 - (p.toNat + d) % 128 := by
  unfold toLine
  rw [BitVec.ofInt_natCast, BitVec.toNat_add, BitVec.toNat_ofNat]
  omega

theorem toLine_pos (p : Word) (d : Nat) : 0 < toLine p d := by
  rw [toLine_nat]
  omega

/-- After the rest of a line a whole line follows. -/
theorem toLine_next (p : Word) (d : Nat) : toLine p (d + toLine p d : Nat) = 128 := by
  rw [toLine_nat p (d + toLine p d), toLine_nat]
  omega

section
variable {s : State} {q : QEntry} {p : Word} (h : s.tmReach q p .read) (id : Nat)
include h

/-- One run of a read. -/
theorem State.readRun_tm_step {d n : Nat} (hfit : ptrOff p + d + n ≤ 0x100000) (fuel : Nat) {k : Nat} (hk : k < n) :
    let u := ptrTile (cidTile q.cid) p
    let m := Nat.min (n - k) (toLine p (d + k : Nat))
    s.readRun q id p d n 1 (fuel + 1) (s.tmBytes u (ptrView p) (ptrOff p + d) k) =
      s.readRun q id p d n 1 fuel (s.tmBytes u (ptrView p) (ptrOff p + d) (k + m)) := by
  intro u m
  have hm : m ≤ n - k := Nat.min_le_left _ _
  have hplace := s.place_tm h q.scope (d := d + k) (n := m) (size := 1) (Nat.mod_one _) (by omega)
  rw [State.tmBytes_append]
  conv_lhs => unfold State.readRun
  dsimp only
  rw [State.tmBytes_length, if_neg (by omega), if_pos rfl, ← Nat.cast_add, hplace, Nat.add_assoc]
  rfl

/-- R258: a piece of at most 128 bytes is read in one run or two. -/
theorem State.readRun_tm {d n : Nat} (hn : n ≤ 128) (hfit : ptrOff p + d + n ≤ 0x100000) :
    s.readRun q id p d n 1 3 [] = (some (s.tmBytes (ptrTile (cidTile q.cid) p) (ptrView p) (ptrOff p + d) n, none), s) := by
  have hdone (fuel : Nat) : s.readRun q id p d n 1 (fuel + 1) (s.tmBytes (ptrTile (cidTile q.cid) p) (ptrView p) (ptrOff p + d) n) =
      (some (s.tmBytes (ptrTile (cidTile q.cid) p) (ptrView p) (ptrOff p + d) n, none), s) := by
    unfold State.readRun
    rw [State.tmBytes_length, if_pos (Nat.le_refl n)]
  by_cases h0 : n = 0
  · subst h0
    exact hdone 2
  · have hfirst := State.readRun_tm_step h id hfit 2 (k := 0) (by omega)
    simp only [Nat.sub_zero, Nat.zero_add, Nat.add_zero] at hfirst
    refine hfirst.trans ?_
    by_cases hline : n ≤ toLine p d
    · rw [show Nat.min n (toLine p d) = n from Nat.min_eq_left hline]
      exact hdone 1
    · rw [show Nat.min n (toLine p d) = toLine p d from Nat.min_eq_right (by omega)]
      have hsecond := State.readRun_tm_step h id hfit 1 (k := toLine p d) (by omega)
      dsimp only at hsecond
      rw [toLine_next, show Nat.min (n - toLine p d) 128 = n - toLine p d from Nat.min_eq_left (by omega),
        show toLine p d + (n - toLine p d) = n by omega] at hsecond
      exact hsecond.trans (hdone 0)

end

end Sys2Proof.Machine
end

section
/-! PROOFS. CP.TM: a copy within tile memory (R124, R258, R260, R354, R366). -/

namespace Sys2Proof.Machine

section
variable (q : QEntry)

/-- The tiles of a copy's two pointers, and its length. -/
def QEntry.srcTile : Nat := ptrTile (cidTile q.cid) q.a
def QEntry.dstTile : Nat := ptrTile (cidTile q.cid) q.b
def QEntry.copyLen : Nat := (q.sreg 0x250).toNat

/-- A copy at progress i as one piece at a time: on to its end or that of the destination's line. -/
def QEntry.copyPiece (i : Nat) : Piece :=
  let m := Nat.min (q.copyLen - i) (toLine q.b i)
  { n := m, stop := i + m, src := q.a, sd := i, dst := q.b, dd := i, size := 1, ring := none }

/-- The bytes that a copy reads up to a progress count, as they were before it began. -/
def State.copySource (s : State) (n : Nat) : List Byte := s.tmBytes q.srcTile (ptrView q.a) (ptrOff q.a) n

/-- The state once a copy has moved its first bytes. -/
def State.copied (s : State) (i : Nat) : State := s.setTmBytes q.dstTile (ptrView q.b) (ptrOff q.b) (s.copySource q i)

/-- A CP.TM can go on: both of its runs lie in tile memories that it may reach, and its flits may leave (R260, R354, R366). -/
structure State.CopyReady (s : State) : Prop where
  inst : ∃ a b, q.inst = .cpTm a b
  src : s.tmReach q q.a .read
  dst : s.tmReach q q.b .write
  srcTile : q.srcTile < 1024
  dstTile : q.dstTile < 1024
  srcFits : ptrOff q.a + q.copyLen ≤ 0x100000
  dstFits : ptrOff q.b + q.copyLen ≤ 0x100000
  port : (q.srcTile = cidTile q.cid ∧ q.dstTile = cidTile q.cid) ∨ s.portOpen (cidTile q.cid) 4 = true

end

theorem QEntry.copyPiece_le {q : QEntry} {i : Nat} (hi : i < q.copyLen) : (q.copyPiece i).n ≤ q.copyLen - i ∧ (q.copyPiece i).n ≤ 128 ∧ 0 < (q.copyPiece i).n := by
  have hpos := toLine_pos q.b i
  have hline : toLine q.b i ≤ 128 := by
    rw [toLine_nat]
    omega
  have hn : (q.copyPiece i).n = Nat.min (q.copyLen - i) (toLine q.b i) := rfl
  rw [hn]
  exact ⟨Nat.min_le_left _ _, (Nat.min_le_right _ _).trans hline, Nat.lt_min.mpr ⟨by omega, hpos⟩⟩

theorem State.copied_add (q : QEntry) (s : State) (i m : Nat) :
    (s.copied q i).setTmBytes q.dstTile (ptrView q.b) (ptrOff q.b + i) (s.tmBytes q.srcTile (ptrView q.a) (ptrOff q.a + i) m) = s.copied q (i + m) := by
  have hlen : (s.copySource q i).length = i := s.tmBytes_length _ _ _ _
  unfold State.copied
  conv_rhs => rw [State.copySource, State.tmBytes_append, State.setTmBytes_append]
  rw [show s.tmBytes q.srcTile (ptrView q.a) (ptrOff q.a) i = s.copySource q i from rfl, hlen]

section
variable {s : State} {q : QEntry} (h : s.CopyReady q)
include h

/-! The command's pieces. -/

theorem State.CopyReady.piece (v : State) {i : Nat} (hi : i < q.copyLen) : v.piece q i = some (q.copyPiece i) := by
  obtain ⟨a, b, hinst⟩ := h.inst
  unfold State.piece
  rw [hinst]
  exact if_neg (Nat.not_le.mpr hi)

theorem State.CopyReady.noPiece (v : State) {i : Nat} (hi : q.copyLen ≤ i) : v.piece q i = none := by
  obtain ⟨a, b, hinst⟩ := h.inst
  unfold State.piece
  rw [hinst]
  exact if_pos hi

theorem State.CopyReady.gathBad (v : State) (i : Nat) : v.gathBad q i = none := by
  obtain ⟨a, b, hinst⟩ := h.inst
  unfold State.gathBad
  rw [hinst]

theorem State.CopyReady.oneTm : q.oneTm = (q.srcTile == q.dstTile) := by
  obtain ⟨a, b, hinst⟩ := h.inst
  unfold QEntry.oneTm QEntry.ringForm
  rw [hinst]
  dsimp only
  rw [h.src.1, h.dst.1, Bool.true_and, Bool.true_and]
  rfl

theorem State.CopyReady.canMove (i : Nat) : s.canMove q (q.copyPiece i) = true := by
  obtain ⟨a, b, hinst⟩ := h.inst
  unfold State.canMove
  rcases h.port with ⟨hsrc, hdst⟩ | hport
  · have hsrc' : (ptrTile (cidTile q.cid) q.a == cidTile q.cid) = true := beq_iff_eq.mpr hsrc
    have hdst' : (ptrTile (cidTile q.cid) q.b == cidTile q.cid) = true := beq_iff_eq.mpr hdst
    simp only [QEntry.copyPiece, h.src.1, h.dst.1, hsrc', hdst', Bool.and_true, Bool.or_true, Bool.true_or]
  · rw [hinst]
    exact Bool.or_eq_true_iff.mpr (.inr hport)

/-- A copy stays ready as it moves. -/
theorem State.CopyReady.setTmBytes (t view off : Nat) (bs : List Byte) : (s.setTmBytes t view off bs).CopyReady q := by
  obtain ⟨m, hm⟩ := s.setTmBytes_eq bs t view off
  rw [hm]
  exact ⟨h.inst, h.src, h.dst, h.srcTile, h.dstTile, h.srcFits, h.dstFits, h.port⟩

/-! The source. -/

theorem State.CopyReady.readRun (id : Nat) {i : Nat} (hi : i < q.copyLen) :
    s.readRun q id (q.copyPiece i).src (q.copyPiece i).sd (q.copyPiece i).n (q.copyPiece i).size 3 [] =
      (some (s.tmBytes q.srcTile (ptrView q.a) (ptrOff q.a + i) (q.copyPiece i).n, none), s) := by
  obtain ⟨hle, h128, -⟩ := QEntry.copyPiece_le hi
  have hfit := h.srcFits
  exact State.readRun_tm h.src id h128 (by omega)

/-- The bytes of a copy within one tile, read before any is written (R258). -/
theorem State.CopyReady.sourceBytes {fuel i : Nat} (hi : i ≤ q.copyLen) (hfuel : q.copyLen - i < fuel) :
    s.sourceBytes q fuel i (s.copySource q i) = s.copySource q q.copyLen := by
  induction fuel generalizing i with
  | zero => omega
  | succ fuel ih =>
    unfold State.sourceBytes
    by_cases hend : q.copyLen ≤ i
    · rw [h.noPiece s hend, show i = q.copyLen by omega]
    · obtain ⟨hle, -, hpos⟩ := QEntry.copyPiece_le (q := q) (i := i) (by omega)
      rw [h.piece s (by omega)]
      dsimp only
      rw [h.readRun 0 (by omega)]
      dsimp only
      have happend : s.copySource q i ++ s.tmBytes q.srcTile (ptrView q.a) (ptrOff q.a + i) (q.copyPiece i).n =
          s.copySource q (i + (q.copyPiece i).n) := (s.tmBytes_append _ _ _ _ _).symm
      rw [happend]
      exact ih (show i + (q.copyPiece i).n ≤ q.copyLen by omega) (show q.copyLen - (i + (q.copyPiece i).n) < fuel by omega)

/-! The move. -/

/-- One piece of a copy moves the bytes that its source held at first. -/
theorem State.CopyReady.movePiece (id : Nat) {i : Nat} (hi : i < q.copyLen) (held : List Byte)
    (hheld : q.srcTile = q.dstTile → held = s.copySource q q.copyLen) :
    (s.copied q i).movePiece q id i .none false held = .go (s.copied q (q.copyPiece i).stop) (q.copyPiece i).stop := by
  have hready : (s.copied q i).CopyReady q := h.setTmBytes _ _ _ _
  obtain ⟨hle, -, hpos⟩ := QEntry.copyPiece_le hi
  have hdfit := h.dstFits
  have hdst : (s.copied q i).pieceDst q (q.copyPiece i) = .ok (.tm q.dstTile (ptrView q.b) (ptrOff q.b + i)) (s.copied q i) :=
    State.place_tm hready.dst _ (Nat.mod_one _) (by omega)
  have hfree : ¬(!((s.copied q i).placeFree (.tm q.dstTile (ptrView q.b) (ptrOff q.b + i)) (some id)) || !((s.copied q i).canMove q (q.copyPiece i))) = true := by
    rw [hready.canMove]
    exact Bool.false_ne_true
  have hread := hready.readRun id hi
  have hlen : ((s.copied q i).tmBytes q.srcTile (ptrView q.a) (ptrOff q.a + i) (q.copyPiece i).n).length = (q.copyPiece i).n := State.tmBytes_length _ _ _ _ _
  have hmoved : (if q.oneTm then ((held.drop i).take (q.copyPiece i).n, s.copied q i)
      else (s.copied q i).landBytes q (q.copyPiece i) ((s.copied q i).tmBytes q.srcTile (ptrView q.a) (ptrOff q.a + i) (q.copyPiece i).n)) =
      (s.tmBytes q.srcTile (ptrView q.a) (ptrOff q.a + i) (q.copyPiece i).n, s.copied q i) := by
    by_cases hone : q.srcTile = q.dstTile
    · rw [if_pos (h.oneTm.trans (beq_iff_eq.mpr hone)), hheld hone, State.copySource, State.tmBytes_drop_take _ _ _ _ (by omega)]
    · obtain ⟨a, b, hinst⟩ := h.inst
      rw [if_neg (by rw [h.oneTm]; simpa using hone)]
      unfold State.landBytes
      rw [hinst]
      dsimp only
      rw [State.copied, State.tmBytes_run_otherTile _ h.dstTile h.srcTile hone]
  have hnonempty : ((s.copied q i).tmBytes q.srcTile (ptrView q.a) (ptrOff q.a + i) (q.copyPiece i).n).isEmpty = false := by
    rw [List.isEmpty_eq_false_iff, ← List.length_pos_iff, hlen]
    exact hpos
  unfold State.movePiece
  rw [h.gathBad, h.piece _ hi]
  dsimp only
  rw [hdst]
  dsimp only
  refine (if_neg (by decide)).trans ((if_neg hfree).trans ?_)
  rw [hread]
  dsimp only
  rw [hlen, hmoved, hnonempty]
  exact congrArg (fun v => EStep.go v (q.copyPiece i).stop) (State.copied_add q s i _)

theorem State.CopyReady.movePieces (id : Nat) (held : List Byte) (hheld : q.srcTile = q.dstTile → held = s.copySource q q.copyLen) {fuel i : Nat}
    (hi : i ≤ q.copyLen) (hfuel : q.copyLen - i < fuel) : ((s.copied q i).movePieces q id .none held fuel i).1 = .done (s.copied q q.copyLen) := by
  induction fuel generalizing i with
  | zero => omega
  | succ fuel ih =>
    unfold State.movePieces
    by_cases hend : q.copyLen ≤ i
    · have hdone : (s.copied q i).movePiece q id i .none false held = .done (s.copied q i) := by
        unfold State.movePiece
        rw [h.gathBad, h.noPiece _ hend]
      rw [hdone, show i = q.copyLen by omega]
    · obtain ⟨hle, -, hpos⟩ := QEntry.copyPiece_le (q := q) (i := i) (by omega)
      rw [h.movePiece id (by omega) held hheld]
      exact ih (show i + (q.copyPiece i).n ≤ q.copyLen by omega) (show q.copyLen - (i + (q.copyPiece i).n) < fuel by omega)

/-- R260: a CP.TM that goes on from its start runs to its end. -/
theorem State.CopyReady.finishMove {t : Nat} {e : ECmd} (hq : e.q = q) (hmoved : e.moved = 0) (hfill : q.sreg 0x251 = 0) (hover : s.overtakes q 0 = false) :
    s.finishMove t e = (s.copied q q.copyLen).endCmd t e := by
  subst hq
  obtain ⟨a, b, hinst⟩ := h.inst
  have hcmdFill : s.cmdFill e.q = .none := by
    unfold State.cmdFill QEntry.fill State.fillOp
    rw [hinst]
    exact if_pos hfill
  have hstart : s.cmdStart e.q = none := by
    unfold State.cmdStart QEntry.ringForm
    rw [hcmdFill, hinst]
    dsimp only
    rw [h.src.1, h.dst.1]
    rfl
  have htotal : e.q.total = e.q.copyLen := by
    unfold QEntry.total
    rw [hinst]
    rfl
  have hsource : s.sourceBytes e.q (e.q.total + 1) 0 [] = s.copySource e.q e.q.copyLen := h.sourceBytes (i := 0) (Nat.zero_le _) (by omega)
  have hheld : e.q.srcTile = e.q.dstTile →
      (if e.moved = 0 ∧ e.q.oneTm = true then s.sourceBytes e.q (e.q.total + 1) 0 [] else e.src) = s.copySource e.q e.q.copyLen := fun hone => by
    rw [if_pos ⟨hmoved, h.oneTm.trans (beq_iff_eq.mpr hone)⟩, hsource]
  have hrun := h.movePieces e.id _ hheld (fuel := e.q.total + 1) (Nat.zero_le _) (by omega)
  unfold State.finishMove
  rw [if_neg (by rw [hover]; simp), if_pos hmoved, hstart]
  dsimp only
  rw [hcmdFill, hmoved] at *
  have hbegin : s.copied e.q 0 = s := rfl
  rw [hbegin] at hrun
  rw [hrun]

end

end Sys2Proof.Machine
end

section
/-! PROOFS. A broadcast to one member (R264), and what the end of a command leaves (R242). -/

namespace Sys2Proof.Machine

/-! The end of a command leaves every memory. -/

theorem State.tm_mem_endCmd (s : State) (t : Nat) (e : ECmd) : (s.endCmd t e).tm = s.tm ∧ (s.endCmd t e).mem = s.mem := by
  obtain ⟨_, _, _, _, _, _, _, hdisown⟩ := s.sameButWork_disown ((s.l2.filter (fun p => p.2.engine == some e.id)).map (fun p => p.1))
  have hkeep : (s.disown ((s.l2.filter (fun p => p.2.engine == some e.id)).map (fun p => p.1))).tm = s.tm := by
    unfold State.disown
    refine foldl_leaves (g := State.tm) (fun v l => ?_) _ s
    rfl
  have hcount (v : State) : (v.countDone e.q).tm = v.tm ∧ (v.countDone e.q).mem = v.mem := by
    unfold State.countDone State.countOn
    split <;> exact ⟨rfl, rfl⟩
  refine ⟨(hcount _).1.trans hkeep, (hcount _).2.trans ?_⟩
  show (s.disown _).mem = s.mem
  rw [hdisown]

theorem State.tmByte_endCmd (s : State) (t : Nat) (e : ECmd) (u view off : Nat) : (s.endCmd t e).tmByte u view off = s.tmByte u view off :=
  congrArg (fun m => SMap.get emptyByte m (tmKey u view off)) (s.tm_mem_endCmd t e).1

theorem State.byte_endCmd (s : State) (t : Nat) (e : ECmd) (a : Nat) : (s.endCmd t e).byte a = s.byte a :=
  congrArg (fun m => SMap.get emptyByte m a) (s.tm_mem_endCmd t e).2

/-- Without flags and without a cause a command ends as it is. -/
theorem State.raiseOr_none {s : State} {q : QEntry} {fls : List (Nat × Flags)} (h : ∀ f ∈ fls, f.2 = Flags.none) : s.raiseOr q fls none = s := by
  have hall : fls.foldl (fun (f : Flags) p => f ||| p.2) Flags.none = Flags.none := by
    refine List.foldlRecOn fls _ (motive := fun f => f = Flags.none) rfl (fun f hf p hp => ?_)
    rw [hf, h p hp]
    rfl
  have hcause (traps : Option Word) : traps.bind (fun x => firstCause fls (x.setWidth 5)) = none := by
    cases traps with
    | none => rfl
    | some x => exact firstCause_none h _
  have hflags : s.orFlagsOf q Flags.none = s := if_pos rfl
  unfold State.raiseOr
  rw [hall, hflags]
  dsimp only
  rw [hcause]

/-! The elements of a collective in tile memory. -/

/-- The first k elements of w bytes from a place. -/
def State.elems (s : State) (t view off w k : Nat) : List Nat := (List.range k).map (fun j => leNat (s.tmBytes t view (off + j * w) w))

theorem State.elems_length (s : State) (t view off w k : Nat) : (s.elems t view off w k).length = k := by simp [State.elems]

/-- Elements that are written as they were read give their bytes. -/
theorem State.elems_bytes (s : State) (t view off w k : Nat) : (s.elems t view off w k).flatMap (leBytes w) = s.tmBytes t view off (k * w) := by
  induction k with
  | zero => rw [Nat.zero_mul]; rfl
  | succ k ih =>
    have hlast : leBytes w (leNat (s.tmBytes t view (off + k * w) w)) = s.tmBytes t view (off + k * w) w := by
      have hback := leBytes_leNat (s.tmBytes t view (off + k * w) w)
      rwa [State.tmBytes_length] at hback
    unfold State.elems at ih ⊢
    rw [List.range_succ, List.map_append, List.flatMap_append, ih, Nat.succ_mul, State.tmBytes_append]
    simp [hlast]

section
variable {q : QEntry} {m : Member} (hq : m.2.q = q) {w n : Nat}
include hq

/-- The source of a member in tile memory is read element by element. -/
theorem State.collRead_tm {v : State} (h : v.tmReach q q.a .read) (halign : ptrOff q.a % w = 0) (hfit : ptrOff q.a + n * w ≤ 0x100000)
    {fuel k : Nat} (hk : k ≤ n) (hfuel : n - k < fuel) :
    v.collRead m n w fuel (v.elems q.srcTile (ptrView q.a) (ptrOff q.a) w k) = (some (v.elems q.srcTile (ptrView q.a) (ptrOff q.a) w n, none), v) := by
  subst hq
  induction fuel generalizing k with
  | zero => omega
  | succ fuel ih =>
    unfold State.collRead
    rw [State.elems_length]
    by_cases hend : n ≤ k
    · rw [if_pos hend, show k = n by omega]
    · have hroom : k * w + w ≤ n * w := by
        rw [← Nat.succ_mul]
        exact Nat.mul_le_mul_right w (by omega)
      have hplace := v.place_tm h m.2.q.scope (d := k * w) (n := w) (size := w)
        (by rw [Nat.add_mul_mod_self_right]; exact halign) (by omega)
      have hnext : v.elems m.2.q.srcTile (ptrView m.2.q.a) (ptrOff m.2.q.a) w k ++
          [leNat (v.tmBytes m.2.q.srcTile (ptrView m.2.q.a) (ptrOff m.2.q.a + k * w) w)] =
          v.elems m.2.q.srcTile (ptrView m.2.q.a) (ptrOff m.2.q.a) w (k + 1) := by
        unfold State.elems
        rw [List.range_succ, List.map_append]
        rfl
      rw [if_neg hend, hplace]
      refine Eq.trans ?_ (ih (show k + 1 ≤ n by omega) (by omega))
      rw [← hnext]
      rfl

/-- Its destination takes them one after the other. -/
theorem State.collWrite_tm {v : State} (h : v.tmReach q q.b .write) (halign : ptrOff q.b % w = 0) {xs : List Nat} {i : Nat}
    (hfit : ptrOff q.b + (i + xs.length) * w ≤ 0x100000) :
    v.collWrite m .none w i xs = (some none, v.setTmBytes q.dstTile (ptrView q.b) (ptrOff q.b + i * w) (xs.flatMap (leBytes w))) := by
  subst hq
  induction xs generalizing v i with
  | nil => rfl
  | cons x xs ih =>
    have hroom : i * w + w ≤ (i + (x :: xs).length) * w := by
      rw [← Nat.succ_mul, List.length_cons]
      exact Nat.mul_le_mul_right w (by omega)
    have hplace := v.place_tm h m.2.q.scope (d := i * w) (n := w) (size := w)
      (by rw [Nat.add_mul_mod_self_right]; exact halign) (by omega)
    have hrest := ih (i := i + 1) (State.tmReach_setTmBytes h m.2.q.dstTile (ptrView m.2.q.b) (ptrOff m.2.q.b + i * w) (leBytes w x)) (by
      rw [List.length_cons] at hfit
      rwa [show i + 1 + xs.length = i + (xs.length + 1) by omega])
    unfold State.collWrite
    rw [hplace]
    refine Eq.trans ?_ (hrest.trans ?_)
    · rfl
    · rw [List.flatMap_cons, State.setTmBytes_append, leBytes_length, Nat.succ_mul, Nat.add_assoc]

end

/-! What the sending of a member's part leaves (R358). -/

section
variable {s : State} (m : Member)

/-- The member has sent its part. -/
def State.sent (s : State) (m : Member) : State := s.setMoved m.1 m.2 m.2.src 1

theorem State.collSend_one (hmoved : m.2.moved = 0) : s.collSend [m] = if s.portOpen m.1 6 then s.sent m else s := by
  unfold State.collSend
  rw [List.filter_cons, hmoved]
  cases s.portOpen m.1 6 <;> rfl

theorem State.tile_sent (u : Nat) : ∃ es, (s.sent m).tile u = { s.tile u with eng := es } := by
  unfold State.sent State.setMoved
  by_cases hu : u = m.1
  · subst hu
    rw [State.tile_modTile_self]
    exact ⟨_, rfl⟩
  · rw [State.tile_modTile_ne _ _ hu]
    exact ⟨_, rfl⟩

theorem State.collUnsent_sent : (s.sent m).collUnsent [m] = false := by
  unfold State.collUnsent State.sent State.setMoved
  simp only [List.any_cons, List.any_nil, Bool.or_false, State.tile_modTile_self, List.any_map, List.any_eq_false, Function.comp_apply]
  intro e _
  by_cases he : e.id = m.2.id
  · rw [if_pos he]
    simp
  · rw [if_neg he]
    simp [he]

theorem State.matrixBefore_sent (t : Nat) (q : QEntry) : (s.sent m).matrixBefore t q = s.matrixBefore t q := by
  obtain ⟨es, htile⟩ := s.tile_sent m t
  unfold State.matrixBefore
  rw [htile]

theorem State.tmReach_sent {q : QEntry} {p : Word} {k : AKind} (h : s.tmReach q p k) (hk : k ≠ .fetch) : (s.sent m).tmReach q p k := by
  obtain ⟨htm, hcheck, hroute⟩ := h
  have hreach (a b : Nat) : ((s.sent m).withSr q).reaches a b = (s.withSr q).reaches a b := by
    obtain ⟨es, htile⟩ := s.tile_sent m b
    have hsent : ((s.sent m).tile b).move = (s.tile b).move := by rw [htile]
    have hmove : (((s.sent m).withSr q).tile b).move = ((s.withSr q).tile b).move := hsent
    unfold State.reaches
    rw [hmove]
    rfl
  refine ⟨htm, ?_, hroute⟩
  rw [← hcheck]
  unfold checkPtr
  simp only [htm, hreach, hk, false_and, if_false, if_true]

end

/-- R264: what a broadcast to one member needs beside its members and its format: it is on tile scope, its rank is its root, and it counts on no
fill word. -/
structure Member.Broadcasts (m : Member) : Prop where
  inst : ∃ a b, m.2.q.inst = .coBcast a b 0
  root : collRank m.2.q = (collKey m.2.q).2.2.2
  count : (collBar m.2.q.sreg).toNat % 65536 = 1
  fill : m.2.q.sreg 0x273 = 0
  moved : m.2.moved = 0

section
variable {s : State} {m : Member} (h : m.Broadcasts)
include h

theorem Member.Broadcasts.scope : m.2.q.scope = 0 := by
  obtain ⟨a, b, hinst⟩ := h.inst
  unfold QEntry.scope
  rw [hinst]
  rfl

theorem Member.Broadcasts.key : (collKey m.2.q).1 = 1 := by
  obtain ⟨a, b, hinst⟩ := h.inst
  unfold collKey
  rw [hinst]

theorem Member.Broadcasts.cmdFill (v : State) : v.cmdFill m.2.q = .none := by
  obtain ⟨a, b, hinst⟩ := h.inst
  unfold State.cmdFill QEntry.fill State.fillOp
  rw [hinst]
  exact if_pos h.fill

theorem Member.Broadcasts.complete : ¬[m].length < (collBar m.2.q.sreg).toNat % 65536 := by
  rw [h.count]
  exact Nat.lt_irrefl 1

theorem Member.Broadcasts.rootFound : [m].find? (fun x => collRank x.2.q == (collKey m.2.q).2.2.2) = some m :=
  List.find?_cons_of_pos (beq_iff_eq.mpr h.root)

theorem Member.Broadcasts.fillsFit : ([m].any (fun x => s.cmdFill x.2.q == .bad)) = false := by
  rw [List.any_cons, h.cmdFill]
  rfl

section
variable {yard dom : Nat} (hms : s.collMembers yard dom = [m]) {f : Fmt} (hf : collFmt (m.2.q.sreg 0x272) = some f)
include hms hf

/-- While its part has not been sent, the member waits. -/
theorem Member.Broadcasts.waits (hunsent : (s.collSend [m]).collUnsent [m] = true) : s.collective yard dom = s.collSend [m] := by
  unfold State.collective
  rw [hms]
  dsimp only
  rw [if_neg h.complete, h.rootFound, hf]
  dsimp only
  rw [h.key, h.fillsFit]
  refine (if_neg (by simp)).trans ((if_neg (by simp)).trans ((if_neg (by simp)).trans (if_pos ?_)))
  rw [hunsent]
  rfl

/-- Once it has, and no earlier command of its context stands in the way, its source is read and its destination written. -/
theorem Member.Broadcasts.delivers {u x : State} {xs : List Nat} (hu : s.collSend [m] = u) (hsent : u.collUnsent [m] = false)
    (hmat : u.matrixBefore m.1 m.2.q = false) (hover : u.overtakes m.2.q 0 = false) (hlen : xs.length = (m.2.q.sreg 0x271).toNat)
    (hreads : u.collReads (m.2.q.sreg 0x271).toNat (f.width / 8) [m] [] = (some [(xs, none)], u))
    (hdeliver : ∀ fls : List (Nat × Flags), (∀ p ∈ fls, p.2 = Flags.none) → u.collDeliver (f.width / 8) xs fls [m] = (true, x)) :
    s.collective yard dom = x := by
  have hfar : [m].filter (fun x => x.2.q.scope != 0) = [] := by
    rw [List.filter_cons, h.scope]
    rfl
  have helems : ((List.range (m.2.q.sreg 0x271).toNat).map (fun j => (xs.getD j 0, Flags.none))).map (fun e => e.1) = xs := by
    rw [List.map_map, ← hlen]
    refine List.ext_getElem (by simp) (fun i hi hi' => ?_)
    simp [List.getElem?_eq_getElem hi']
  have hflags : ∀ p ∈ (((List.range (m.2.q.sreg 0x271).toNat).map (fun j => (xs.getD j 0, Flags.none))).zipIdx).map (fun e => (e.2, e.1.2)),
      p.2 = Flags.none := fun p hp => by
    obtain ⟨e, he, rfl⟩ := List.mem_map.mp hp
    obtain ⟨j, -, hj⟩ := List.mem_map.mp (List.fst_mem_of_mem_zipIdx he)
    exact congrArg Prod.snd hj.symm
  unfold State.collective
  rw [hms]
  dsimp only
  rw [if_neg h.complete, h.rootFound, hf]
  dsimp only
  rw [h.key, h.fillsFit, hfar, hu]
  refine (if_neg (by simp)).trans ((if_neg (by simp)).trans ((if_neg (by simp)).trans ((if_neg ?_).trans ((if_neg (by simp)).trans ?_))))
  · simp [hsent, hmat, hover]
  · have hnone : [(xs, (none : Option (Cause × Word)))].findIdx? (fun r => r.2.isSome) = none := rfl
    have hreceivers : (if (1 : Nat) = 0 then [m] else [m]) = [m] := rfl
    simp only [List.foldl_nil, if_true, hreads, hnone, List.headD_cons, helems]
    rw [hreceivers, hdeliver _ hflags]
    rfl

end


/-- R264: a broadcast to one member copies its source. -/
theorem Member.Broadcasts.copies {yard dom : Nat} (hms : s.collMembers yard dom = [m]) {f : Fmt} (hf : collFmt (m.2.q.sreg 0x272) = some f)
    (hport : s.portOpen m.1 6 = true) (hmat : s.matrixBefore m.1 m.2.q = false) (hover : (s.collSend [m]).overtakes m.2.q 0 = false)
    (hsrc : s.tmReach m.2.q m.2.q.a .read) (hdst : s.tmReach m.2.q m.2.q.b .write) (ht : m.2.q.dstTile < 1024)
    (hsa : ptrOff m.2.q.a % (f.width / 8) = 0) (hda : ptrOff m.2.q.b % (f.width / 8) = 0)
    (hsfit : ptrOff m.2.q.a + (m.2.q.sreg 0x271).toNat * (f.width / 8) ≤ 0x100000)
    (hdfit : ptrOff m.2.q.b + (m.2.q.sreg 0x271).toNat * (f.width / 8) ≤ 0x100000) :
    ∀ i, i < (m.2.q.sreg 0x271).toNat * (f.width / 8) →
      (s.collective yard dom).tmByte m.2.q.dstTile (ptrView m.2.q.b) (ptrOff m.2.q.b + i) = s.tmByte m.2.q.srcTile (ptrView m.2.q.a) (ptrOff m.2.q.a + i) := by
  have hsend : s.collSend [m] = s.sent m := (State.collSend_one m h.moved).trans (if_pos hport)
  rw [hsend] at hover
  have hlen := (s.sent m).elems_length m.2.q.srcTile (ptrView m.2.q.a) (ptrOff m.2.q.a) (f.width / 8) (m.2.q.sreg 0x271).toNat
  have hread := State.collRead_tm (m := m) rfl (State.tmReach_sent m hsrc (by decide)) hsa hsfit
    (fuel := (m.2.q.sreg 0x271).toNat + 1) (k := 0) (Nat.zero_le _) (by omega)
  have hwrite := State.collWrite_tm (m := m) rfl (State.tmReach_sent m hdst (by decide)) hda
    (xs := (s.sent m).elems m.2.q.srcTile (ptrView m.2.q.a) (ptrOff m.2.q.a) (f.width / 8) (m.2.q.sreg 0x271).toNat) (i := 0) (by
      rwa [hlen, Nat.zero_add])
  rw [State.elems_bytes, Nat.zero_mul, Nat.add_zero] at hwrite
  have hreads : (s.sent m).collReads (m.2.q.sreg 0x271).toNat (f.width / 8) [m] [] =
      (some [((s.sent m).elems m.2.q.srcTile (ptrView m.2.q.a) (ptrOff m.2.q.a) (f.width / 8) (m.2.q.sreg 0x271).toNat, none)], s.sent m) := by
    unfold State.collReads
    rw [show (s.sent m).collRead m _ _ _ [] = _ from hread]
    rfl
  have hdone := h.delivers hms hf (x := ((s.sent m).setTmBytes m.2.q.dstTile (ptrView m.2.q.b) (ptrOff m.2.q.b)
      ((s.sent m).tmBytes m.2.q.srcTile (ptrView m.2.q.a) (ptrOff m.2.q.a) ((m.2.q.sreg 0x271).toNat * (f.width / 8)))).endCmd m.1 m.2)
    hsend (State.collUnsent_sent m) ((State.matrixBefore_sent m _ _).trans hmat) hover hlen hreads (fun fls hfls => by
      unfold State.collDeliver
      dsimp only
      rw [h.cmdFill, hwrite]
      dsimp only
      rw [State.raiseOr_none hfls]
      rfl)
  intro i hi
  rw [hdone, State.tmByte_endCmd, State.tmByte_run_in _ ht (by rwa [State.tmBytes_length]) (by rwa [State.tmBytes_length]), State.tmBytes_getD _ _ _ _ hi]
  rfl

end

theorem engHeads_one (e : ECmd) : engHeads [e] = [e] := rfl

/-- R242: the one command of an engine goes on when its engine does. -/
theorem engineComplete_one {s : State} {t : Nat} {e : ECmd} (h : (s.tile t).eng = [e]) :
    exec (.engineCommandComplete t e.eng) s = .next (s.advanceCmd t e) := by
  have hmine : (s.tile t).eng.filter (fun x => x.eng == e.eng) = [e] := by
    rw [h]
    simp
  refine congrArg Host.Outcome.next ?_
  unfold State.engineComplete
  dsimp only
  rw [hmine, engHeads_one, List.map_singleton, List.find?_singleton]
  by_cases hsame : s.advanceCmd t e = s
  · rw [hsame]
    simp
  · rw [if_pos (bne_iff_ne.mpr hsame)]
    rfl

/-- R122: the one command of an engine of the copy or gather engine whose piece can go writes it. -/
theorem engineHome_one {s x : State} {t i : Nat} {e : ECmd} (h : (s.tile t).eng = [e]) (he : e.eng ≤ 1)
    (hgo : e.moved ≠ 0 ∨ (s.cmdStart e.q = none ∧ s.overtakes e.q 0 = false)) (hpiece : s.movePiece e.q e.id e.moved (s.cmdFill e.q) true e.src = .go x i) :
    exec (.engineWriteHome t) s = .next (x.setMoved t e e.src i) := by
  have hheads : engHeads ((s.tile t).eng.filter (fun x => x.eng == 0)) ++ engHeads ((s.tile t).eng.filter (fun x => x.eng == 1)) = [e] := by
    rw [h]
    obtain h0 | h1 : e.eng = 0 ∨ e.eng = 1 := by omega
    · rw [List.filter_cons, List.filter_cons, h0]
      rfl
    · rw [List.filter_cons, List.filter_cons, h1]
      rfl
  have hstep : ¬(false = true ∨ (e.moved = 0 ∧ ((s.cmdStart e.q).isSome = true ∨ s.overtakes e.q 0 = true))) := by
    rintro (hf | ⟨h0, hblock⟩)
    · cases hf
    · obtain hne | ⟨hstart, hover⟩ := hgo
      · exact hne h0
      · rw [hstart, hover] at hblock
        simp at hblock
  refine congrArg Host.Outcome.next ?_
  unfold State.engineHome
  dsimp only
  rw [hheads, List.foldl_cons, List.foldl_nil, if_neg hstep, hpiece]

/-! The members of a collective (R264). -/

section
variable {s : State} {yard dom : Nat} {m : Member} {ms : List Member} (hms : s.collMembers yard dom = m :: ms)
include hms

theorem State.collective_waits (h : (m :: ms).length < (collBar m.2.q.sreg).toNat % 65536) : s.collective yard dom = s := by
  unfold State.collective
  rw [hms]
  exact if_pos h

theorem State.collective_mismatch (hcount : (collBar m.2.q.sreg).toNat % 65536 ≤ (m :: ms).length) (hdiffer : ∃ x ∈ ms, collKey x.2.q ≠ collKey m.2.q)
    (hroot : ((m :: ms).find? (fun x => collRank x.2.q == (collKey m.2.q).2.2.2)).isSome = true) (hfmt : (collFmt (m.2.q.sreg 0x272)).isSome = true) :
    s.collective yard dom = s.collFail (m :: ms) (fun _ => .collMismatch) := by
  obtain ⟨r, hr⟩ := Option.isSome_iff_exists.mp hroot
  obtain ⟨f, hf⟩ := Option.isSome_iff_exists.mp hfmt
  have hsame : (m :: ms).all (fun x => collKey x.2.q == collKey m.2.q && (collBar x.2.q.sreg).toNat % 65536 == (collBar m.2.q.sreg).toNat % 65536) = false := by
    obtain ⟨x, hx, hne⟩ := hdiffer
    refine List.all_eq_false.mpr ⟨x, List.mem_cons_of_mem m hx, ?_⟩
    rw [beq_false_of_ne hne]
    exact Bool.false_ne_true
  unfold State.collective
  rw [hms]
  dsimp only
  rw [if_neg (Nat.not_lt.mpr hcount), hr, hf, hsame]
  rfl

end

/-- Settles O49: the one command of an engine is tried alone; a copy moves its bytes piece by piece, from what its source held at first where it
stays in one tile; and a collective goes on with all of its members or with none. -/
theorem enginesMoveTheirBytes : Obligations.EnginesMoveTheirBytes := by
  unfold Obligations.EnginesMoveTheirBytes
  refine ⟨fun s t e heng => ⟨engineComplete_one heng, ?_, ?_⟩, fun s yard dom m ms hms => ⟨?_, ?_, ?_⟩⟩
  · intro a b hinst hmoved len src dst u w htm htm' hu hw hfill hck hck' hfit hfit' hover hroute hport
    have hready : s.CopyReady e.q := ⟨⟨a, b, hinst⟩, ⟨htm, hck, hroute u (by simp)⟩, ⟨htm', hck', hroute w (by simp)⟩, hu, hw, hfit, hfit', hport⟩
    obtain ⟨m, hm⟩ := s.setTmBytes_eq (s.copySource e.q len) w (ptrView dst) (ptrOff dst)
    have hlen : (s.copySource e.q len).length = len := s.tmBytes_length _ _ _ _
    refine ⟨(s.copied e.q len).endCmd t e, ?_, ?_, fun i hi => ?_, fun i hi hout => ?_, fun p => ?_⟩
    · rw [engineComplete_one heng, State.advanceCmd, hinst]
      exact congrArg Host.Outcome.next (hready.finishMove rfl hmoved hfill hover)
    · have htile : (s.copied e.q len).tile t = s.tile t := congrArg (fun m => SMap.get (fun _ => Tile.reset) m t) (s.tiles_setTmBytes _ _ _ _)
      rw [State.eng_endCmd, if_pos rfl, htile, heng]
      simp
    · rw [State.tmByte_endCmd, ← State.tmBytes_getD s u (ptrView src) (ptrOff src) hi]
      exact s.tmByte_run_in hw (by rwa [hlen]) (by rwa [hlen])
    · rw [State.tmByte_endCmd]
      exact s.tmByte_run_out hw (by rwa [hlen]) hi (by rwa [hlen])
    · rw [State.byte_endCmd]
      exact congrArg (fun v => v.byte p) hm
  · exact fun he hgo x i hpiece => engineHome_one heng he hgo hpiece
  · exact fun hlt => congrArg Host.Outcome.next (State.collective_waits hms hlt)
  · intro hcount hdiffer hroot hfmt
    exact ⟨congrArg Host.Outcome.next (State.collective_mismatch hms hcount hdiffer hroot hfmt), fun x hx => State.noCmd_collFail _ hx⟩
  · intro a b sc f hone hcount hinst hsc hf hrank hfill hmoved
    subst hone hsc
    have hm : m.Broadcasts := ⟨⟨a, b, hinst⟩, hrank, hcount, hfill, hmoved⟩
    constructor
    · intro hmem hport
      have hsend : s.collSend [m] = s := (State.collSend_one m hmoved).trans (if_neg (by rw [hport]; exact Bool.false_ne_true))
      have hunsent : (s.collSend [m]).collUnsent [m] = true := by
        rw [hsend]
        exact List.any_eq_true.mpr ⟨m, by simp, List.any_eq_true.mpr ⟨m.2, hmem, by simp [hmoved]⟩⟩
      exact congrArg Host.Outcome.next ((hm.waits hms hf hunsent).trans hsend)
    · intro hport hmat hover n width src dst u w htm htm' _ hw hsa hda hck hck' hroute hsfit hdfit
      exact ⟨_, rfl, hm.copies hms hf hport hmat hover ⟨htm, hck, hroute u (by simp)⟩ ⟨htm', hck', hroute w (by simp)⟩ hw hsa hda hsfit hdfit⟩

end Sys2Proof.Machine
end

section
/-! PROOFS. A line that an engine owns and that L2 has no way for: a write at home forgets its owner (R104, R122, R368). -/

namespace Sys2Proof.Machine

/-! A set of L2 whose ways are all held. -/

/-- A line of this device's HBM is absent, and each way of its set holds a line that an engine owns. -/
structure State.fullAt (s : State) (l : Nat) : Prop where
  space : paSpace (l * 128) = 0
  absent : (s.l2line l).present = false
  owned : ∀ j, (s.l2line j).present = true → (s.l2line j).engine ≠ none
  ways : ∀ w < 16, ∃ j, (s.l2line j).present = true ∧ paSpace (j * 128) = 0 ∧ l2SetOf j = l2SetOf l ∧ (s.l2line j).way = w

theorem State.mem_l2_of_present {s : State} {j : Nat} (h : (s.l2line j).present = true) : (j, s.l2line j) ∈ s.l2 := by
  refine (SMap.get_mem_or_default (fun _ => L2Line.absent) s.l2 j).resolve_right fun habsent => ?_
  have hline : s.l2line j = L2Line.absent := habsent
  rw [hline] at h
  cases h

theorem State.not_evictable_of_owned {s : State} {j : Nat} (h : (s.l2line j).present = true → (s.l2line j).engine ≠ none) :
    s.evictable j = false := by
  unfold State.evictable
  dsimp only
  cases hp : (s.l2line j).present with
  | false => rfl
  | true => simp [h hp]

section
variable {s : State} {l : Nat} (h : s.fullAt l)
include h

/-- Another record of the absent line leaves the set full. -/
theorem State.fullAt_setL2 {x : L2Line} (hx : x.present = false) : (s.setL2 l x).fullAt l := by
  have hline (j : Nat) : (s.setL2 l x).l2line j = if j = l then x else s.l2line j := SMap.get_set _ _ _ _
  have hother {j : Nat} (hj : (s.l2line j).present = true) : j ≠ l := fun heq => by rw [heq, h.absent] at hj; cases hj
  refine ⟨h.space, by rw [hline, if_pos rfl]; exact hx, fun j hj => ?_, fun w hw => ?_⟩
  · rw [hline] at hj ⊢
    split at hj
    · rw [hx] at hj
      cases hj
    · next hne =>
      rw [if_neg hne]
      exact h.owned j hj
  · obtain ⟨j, hpresent, hrest⟩ := h.ways w hw
    refine ⟨j, ?_⟩
    rw [hline, if_neg (hother hpresent)]
    exact ⟨hpresent, hrest⟩

/-- Sixteen ways hold sixteen lines. -/
theorem State.l2Calm_of_fullAt : s.l2Calm = false := by
  have hsub : Finset.range 16 ⊆ (s.l2.map (fun p => (s.l2line p.1).way)).toFinset := fun w hw => by
    obtain ⟨j, hpresent, -, -, hway⟩ := h.ways w (Finset.mem_range.mp hw)
    exact List.mem_toFinset.mpr (List.mem_map.mpr ⟨_, State.mem_l2_of_present hpresent, hway⟩)
  have hcard := (Finset.card_le_card hsub).trans (List.toFinset_card_le _)
  rw [Finset.card_range, List.length_map] at hcard
  unfold State.l2Calm
  rw [decide_eq_false (by omega)]
  rfl

theorem State.wayFor_of_fullAt (t : Nat) : s.wayFor l t = none := by
  unfold State.wayFor
  dsimp only
  refine List.findSome?_eq_none_iff.mpr fun r _ => ?_
  have hused {w : Nat} (hw : w < 16) : ((s.l2Set l).map (fun k => (s.l2line k).way)).contains w = true := by
    obtain ⟨j, hpresent, hspace, hset, hway⟩ := h.ways w hw
    have hj : j ∈ s.l2Set l := List.mem_map.mpr ⟨_, List.mem_filter.mpr ⟨State.mem_l2_of_present hpresent, by simp [hpresent, hspace, hset]⟩, rfl⟩
    exact List.contains_iff_mem.mpr (List.mem_map.mpr ⟨j, hj, hway⟩)
  have hfree : (List.range 16).find? (fun w => s.wayRank (hiveOfPa (l * 128)) t w == r &&
      !((s.l2Set l).map (fun k => (s.l2line k).way)).contains w) = none := by
    refine List.find?_eq_none.mpr fun w hw => ?_
    rw [hused (List.mem_range.mp hw)]
    simp
  have hgone : (s.l2Set l).filter (fun k => s.wayRank (hiveOfPa (l * 128)) t (s.l2line k).way == r && s.evictable k) = [] := by
    refine List.filter_eq_nil_iff.mpr fun k _ => ?_
    rw [State.not_evictable_of_owned (h.owned k)]
    simp
  rw [hfree, hgone]
  rfl

/-- The line that has no way is put down as absent, without its owner. -/
theorem State.placeL2_of_fullAt (t : Nat) : s.placeL2 l t = s.setL2 l L2Line.absent := by
  unfold State.placeL2
  dsimp only
  rw [if_neg (not_not_intro h.space), State.l2Calm_of_fullAt h, State.wayFor_of_fullAt h]
  rfl

/-- A write to such a line leaves it absent and without an owner. -/
theorem State.l2line_bumpVer_of_fullAt (y : Nat) : (s.bumpVer (l * 128) y).l2line l = L2Line.absent := by
  have hl : lineOf (l * 128) = l := by unfold lineOf; omega
  have hfill : s.fillL2 (l * 128) y = (s.setL2 l { s.l2line l with ver := s.floorOf (l * 128) + 1 }).setL2 l L2Line.absent := by
    unfold State.fillL2
    dsimp only
    rw [hl, if_neg (by simp [h.absent])]
    refine State.placeL2_of_fullAt (State.fullAt_setL2 h ?_) y
    exact h.absent
  have hgone : (s.fillL2 (l * 128) y).l2line l = L2Line.absent := by rw [hfill, State.l2line_setL2_self]
  unfold State.bumpVer
  dsimp only
  rw [hl, State.moveL2_of_absent (by rw [hgone]; rfl), hgone]
  exact hgone

end

/-! More lines than a set has ways. -/

/-- Line l, a lower line k and fifteen others above k share a set of L2. -/
structure Crowd (l k : Nat) (js : List Nat) : Prop where
  below : k < l
  first : ∀ j ∈ js, k < j
  nodup : (k :: js).Nodup
  length : (k :: js).length = 16
  out : l ∉ k :: js
  range : ∀ j ∈ l :: k :: js, 2 ^ 23 ≤ j ∧ j < 2 ^ 24
  same : ∀ j ∈ k :: js, l2SetOf j = l2SetOf l

theorem l2SetOf_lt (l : Nat) : l2SetOf l < 2 ^ 18 := by
  have hhive : hiveOfPa (l * 128) < 64 := Nat.mod_lt _ (by decide)
  have hset : Config.l2SetOfLine l % 4096 < 4096 := Nat.mod_lt _ (by decide)
  unfold l2SetOf
  omega

/-- Wherever the implementation puts the lines, some set has more than its sixteen ways can hold. -/
theorem exists_crowd : ∃ l k js, Crowd l k js := by
  have hmaps : ∀ j ∈ Finset.Ico (2 ^ 23) (2 ^ 24), l2SetOf j ∈ Finset.range (2 ^ 18) := fun j _ => Finset.mem_range.mpr (l2SetOf_lt j)
  obtain ⟨y, -, hy⟩ := Finset.exists_lt_card_fiber_of_mul_lt_card_of_maps_to (n := 16) hmaps
    (by rw [Finset.card_range, Nat.card_Ico]; norm_num)
  obtain ⟨F, hsub, hcard⟩ := Finset.exists_subset_card_eq (Nat.succ_le_of_lt hy)
  have hmem {j : Nat} (hj : j ∈ F) : (2 ^ 23 ≤ j ∧ j < 2 ^ 24) ∧ l2SetOf j = y := by
    obtain ⟨hin, hset⟩ := Finset.mem_filter.mp (hsub hj)
    exact ⟨Finset.mem_Ico.mp hin, hset⟩
  have hne : F.Nonempty := Finset.card_pos.mp (by rw [hcard]; decide)
  have hkF : F.min' hne ∈ F := F.min'_mem hne
  have hrest : (F.erase (F.min' hne)).card = 16 := by rw [Finset.card_erase_of_mem hkF, hcard]
  obtain ⟨l, hl⟩ := Finset.card_pos.mp (show 0 < (F.erase (F.min' hne)).card by rw [hrest]; decide)
  have hlF : l ∈ F := Finset.mem_of_mem_erase hl
  have hjs {j : Nat} (hj : j ∈ ((F.erase (F.min' hne)).erase l).toList) : j ∈ F ∧ F.min' hne < j ∧ j ≠ l := by
    obtain ⟨hjl, hjr⟩ := Finset.mem_erase.mp (Finset.mem_toList.mp hj)
    exact ⟨Finset.mem_of_mem_erase hjr, F.min'_lt_of_mem_erase_min' hne hjr, hjl⟩
  have hall {j : Nat} (hj : j ∈ F.min' hne :: ((F.erase (F.min' hne)).erase l).toList) : j ∈ F := by
    rcases List.mem_cons.mp hj with rfl | hj
    · exact hkF
    · exact (hjs hj).1
  refine ⟨l, F.min' hne, ((F.erase (F.min' hne)).erase l).toList, F.min'_lt_of_mem_erase_min' hne hl, fun j hj => (hjs hj).2.1, ?_, ?_, ?_,
    fun j hj => ?_, fun j hj => (hmem (hall hj)).2.trans (hmem hlF).2.symm⟩
  · exact List.nodup_cons.mpr ⟨fun h => (hjs h).2.1.false, Finset.nodup_toList _⟩
  · rw [List.length_cons, Finset.length_toList, Finset.card_erase_of_mem hl, hrest]
  · rintro (_ | ⟨_, h⟩)
    · exact (F.min'_lt_of_mem_erase_min' hne hl).false
    · exact (hjs h).2.2 rfl
  · rcases List.mem_cons.mp hj with rfl | hj
    · exact (hmem hlF).1
    · exact (hmem (hall hj)).1

end Sys2Proof.Machine
end

section
/-! PROOFS. Why a copy's destination line may lose its owner while the others are taken: the state that refutes O45 (R111, R122, R368). -/

namespace Sys2Proof.Machine

/-- A dirty byte of core 0. -/
def crowdByte : DirtyByte := { byte := 0, core := 0, tag := 0, pg := Pg.plain, ptr := 0, pc := 0 }

/-- The line below k by as much as k is below l, in L1. It lists a dirty byte past its own 128, the first one of line l. -/
def crowdCarrier (l k : Nat) : CacheLine :=
  { present := true, clean := 0, ver := 0, refill := false, dirty := [((l - (2 * k - l)) * 128, some crowdByte)], pg := Pg.plain }

/-- Lines k and js in the ways of one set; an engine owns each but k. -/
def crowdWay (k : Nat) (js : List Nat) (j : Nat) : L2Line :=
  { present := true, ver := 0, tenant := 0, way := (k :: js).idxOf j, used := 0, engine := if j = k then none else some 9, solo := none }

/-- The context of a TSC, about to copy one byte to line l, to k, and to as far below k. -/
def crowdCtx (l k : Nat) : Ctx :=
  { Ctx.reset with
    live := true
    g := [(2, BitVec.ofNat 64 (l * 128))]
    sr := [(0x250, 1), (0x253, 3), (0x255, BitVec.ofInt 64 ((k - l) * 128)), (0x400, 0), (0x401, 0xFFFFFFFFFFFFFF), (0x402, 0x1F)] }

/-- The device with that context's turn, that L2 and that L1. -/
def crowdState (l k : Nat) (js : List Nat) (ctxs : SMap Ctx) : State :=
  { State.reset with
    cur := 65536
    ctxs := ctxs
    tiles := [(1024, { Tile.reset with l1 := [(2 * k - l, crowdCarrier l k)] })]
    l2 := (k :: js).map (fun j => (j, crowdWay k js j)) }

/-- The same with the context as it is at the issue. -/
def crowdIssue (l k : Nat) (js : List Nat) : State := crowdState l k js [(65536, crowdCtx l k)]

/-- The command. -/
def crowdCopy (l k : Nat) (js : List Nat) : QEntry :=
  { (crowdIssue l k js).capture 65536 (.cpGo 1 2 0) 0 0 (BitVec.ofNat 64 (l * 128)) 0 with seq := 0 }

section
variable {l k : Nat} {js : List Nat} (h : Crowd l k js)

/-! What holds of L2 at first: every line that it holds but k is owned, and k and l are not. -/

theorem SMap.get_map_keys {α : Type} (d f : Nat → α) (m : List Nat) (j : Nat) : SMap.get d (m.map (fun j => (j, f j))) j = if j ∈ m then f j else d j := by
  induction m with
  | nil => rfl
  | cons i m ih =>
    rw [List.map_cons, SMap.get]
    by_cases hij : i = j
    · subst hij
      simp
    · rw [if_neg hij, ih]
      simp [Ne.symm hij]

theorem l2line_crowdState (c : SMap Ctx) (j : Nat) :
    (crowdState l k js c).l2line j = if j ∈ k :: js then crowdWay k js j else L2Line.absent := SMap.get_map_keys _ _ _ j

/-! The command's destination lines. -/

theorem State.translate_tsc {s : State} {c : Nat} (hc : isTsc c = true) {va : Nat} (hgood : s.memBad va = false) {g kind : Nat}
    {who : Option Nat} {a : AKind} :
    s.translate c g va kind who a = .leaf { va := va, pa := va, region := g, pg := Pg.plain, exactSum := false } s := by
  unfold State.translate
  rw [if_pos hc, hgood]
  rfl

/-- The line of row i. -/
def crowdRow (l k i : Nat) : Nat := l - i * (l - k)

include h

theorem crowdRow_bounds {i : Nat} (hi : i < 3) : 0 < crowdRow l k i ∧ crowdRow l k i < 2 ^ 24 := by
  obtain ⟨hl, hl'⟩ := h.range l List.mem_cons_self
  obtain ⟨hk, -⟩ := h.range k (by simp)
  have hkl := h.below
  unfold crowdRow
  interval_cases i <;> omega

theorem crowdRow_pointer {i : Nat} (hi : i < 3) :
    BitVec.ofNat 64 (l * 128) + BitVec.ofInt 64 (i * (BitVec.ofInt 64 (((k : Int) - l) * 128)).toInt) = BitVec.ofNat 64 (crowdRow l k i * 128) := by
  obtain ⟨hl, hl'⟩ := h.range l List.mem_cons_self
  obtain ⟨hk, hk'⟩ := h.range k (by simp)
  have hkl := h.below
  have hstride : (BitVec.ofInt 64 (((k : Int) - l) * 128)).toInt = ((k : Int) - l) * 128 := by
    rw [BitVec.toInt_ofInt]
    exact Int.bmod_eq_of_le (by norm_num; omega) (by norm_num; omega)
  have hsum : (crowdRow l k i * 128 : Nat) = ((l * 128 : Nat) : Int) + i * (((k : Int) - l) * 128) := by
    unfold crowdRow
    interval_cases i <;> omega
  rw [hstride, ← BitVec.ofInt_natCast, ← BitVec.ofInt_add, ← hsum, BitVec.ofInt_natCast]

theorem crowdRow_fields {i : Nat} (hi : i < 3) :
    let p : Word := BitVec.ofNat 64 (crowdRow l k i * 128)
    p.extractLsb' 56 4 = 0 ∧ ptrTag p = 0 ∧ ptrAddr p = crowdRow l k i * 128 := by
  obtain ⟨hlo, hhi⟩ := crowdRow_bounds h hi
  dsimp only
  unfold ptrTag ptrAddr
  generalize crowdRow l k i = n at *
  refine ⟨BitVec.eq_of_toNat_eq ?_, ?_, ?_⟩ <;>
    simp only [BitVec.extractLsb'_toNat, BitVec.toNat_ofNat, BitVec.ofNat_eq_ofNat, Nat.shiftRight_eq_div_pow] <;> omega

/-- A state as crowdIssue, with at most other records of contexts than the issuing one. -/
def crowdLike (l k : Nat) (js : List Nat) (s : State) : Prop :=
  ∃ c, SMap.get (fun _ => Ctx.reset) c 65536 = crowdCtx l k ∧ s = crowdState l k js c

theorem crowdRow_checkPtr (s : State) {i : Nat} (hi : i < 3) :
    checkPtr (s.withSr (crowdCopy l k js)) 65536 (BitVec.ofNat 64 (crowdRow l k i * 128)) 1 .write = none := by
  obtain ⟨hplain, htag, haddr⟩ := crowdRow_fields h hi
  obtain ⟨-, hhi⟩ := crowdRow_bounds h hi
  have hctx : ((s.withSr (crowdCopy l k js)).ctx 65536).sr = (crowdCtx l k).sr := by
    unfold State.withSr
    rw [show (crowdCopy l k js).cid = 65536 from rfl, State.ctx_modCtx_self]
    rfl
  unfold checkPtr isTm Ctx.sreg
  rw [hctx, htag, haddr, if_neg (not_not_intro hplain)]
  simp [crowdCtx, SMap.get, grants, Nat.mod_one]
  omega

theorem Crowd.pointer_ne_zero : BitVec.ofNat 64 (l * 128) ≠ 0 := by
  obtain ⟨hlo, hhi⟩ := h.range l List.mem_cons_self
  intro heq
  have hnat := congrArg BitVec.toNat heq
  simp only [BitVec.ofNat_eq_ofNat, BitVec.toNat_ofNat] at hnat
  omega

theorem crowdCopy_ringForm : (crowdCopy l k js).ringForm = none := if_neg h.pointer_ne_zero

/-- Piece i is the one byte of row i. -/
theorem crowdRow_piece (s : State) {i : Nat} (hi : i < 3) : ∃ sd, s.piece (crowdCopy l k js) i =
    some { n := 1, stop := i + 1, src := 0, sd := sd, dst := BitVec.ofNat 64 (l * 128),
           dd := i * (BitVec.ofInt 64 (((k : Int) - l) * 128)).toInt, size := 1, ring := none } := by
  have hlen : ((crowdCopy l k js).sreg 0x250).toNat = 1 := rfl
  have hstride : (crowdCopy l k js).sreg 0x255 = BitVec.ofInt 64 (((k : Int) - l) * 128) := rfl
  have hmore : ¬(crowdCopy l k js).total ≤ i := by
    rw [show (crowdCopy l k js).total = 3 from rfl]
    omega
  have hroom (p : Word) (d : Int) : Nat.min 1 (toLine p d) = 1 := by
    have hmod := Nat.mod_lt (p + BitVec.ofInt 64 d).toNat (show 0 < 128 by decide)
    unfold toLine
    exact Nat.min_eq_left (by omega)
  refine ⟨i * ((crowdCopy l k js).sreg 0x254).toInt, ?_⟩
  unfold State.piece
  rw [show (crowdCopy l k js).inst = .cpGo 1 2 0 from rfl]
  dsimp only
  rw [if_neg hmore, crowdCopy_ringForm h, hlen, hstride]
  simp only [Nat.div_one, Nat.mod_one, Nat.sub_zero, Option.isSome_none, Option.map_none, Bool.false_eq_true, if_false, hroom]
  simp only [Nat.cast_zero, add_zero]
  rfl

theorem crowdRow_place {s : State} (hs : crowdLike l k js s) {i : Nat} (hi : i < 3) :
    ∃ leaf t, crowdLike l k js t ∧ leaf.pa = crowdRow l k i * 128 ∧
      s.place (crowdCopy l k js) 0 (BitVec.ofNat 64 (l * 128)) (i * (BitVec.ofInt 64 (((k : Int) - l) * 128)).toInt) 1 1 .write =
        .ok (.mem leaf) t := by
  obtain ⟨c, hc, rfl⟩ := hs
  obtain ⟨-, htag, haddr⟩ := crowdRow_fields h hi
  obtain ⟨-, hhi⟩ := crowdRow_bounds h hi
  have hspace : paSpace (crowdRow l k i * 128) = 0 := by
    unfold paSpace
    omega
  have htm : isTm (BitVec.ofNat 64 (l * 128)) = false := by
    have hfirst := (crowdRow_fields h (show 0 < 3 by decide)).2.1
    unfold isTm
    rw [show l = crowdRow l k 0 by unfold crowdRow; omega, hfirst]
    rfl
  have hgood : ((crowdState l k js c).withSr (crowdCopy l k js)).memBad (crowdRow l k i * 128) = false := by
    unfold State.memBad State.channelDead
    rw [show ((crowdState l k js c).withSr (crowdCopy l k js)).deadChannels = [] from rfl,
      show ((crowdState l k js c).withSr (crowdCopy l k js)).badLines = [] from rfl, hspace,
      decide_eq_false (show ¬hbmBytes ≤ crowdRow l k i * 128 by unfold hbmBytes; omega)]
    rfl
  have hcarries : (crowdState l k js c).carries (cidTile 65536) (crowdRow l k i * 128) = true := by
    unfold State.carries
    rw [decide_eq_true (show 1024 ≤ cidTile 65536 by decide)]
    rfl
  have hreach : inReach ((crowdCopy l k js).sreg 0x807) 0 (crowdRow l k i * 128) = true := by
    unfold inReach
    rw [hspace]
    rfl
  refine ⟨⟨crowdRow l k i * 128, crowdRow l k i * 128, 0, Pg.plain, false⟩,
    ((crowdState l k js c).withSr (crowdCopy l k js)).unSr (crowdCopy l k js) ((crowdState l k js c).ctx 65536), ⟨_, ?_, rfl⟩, rfl, ?_⟩
  · have hback : (((crowdState l k js c).withSr (crowdCopy l k js)).unSr (crowdCopy l k js) ((crowdState l k js c).ctx 65536)).ctx 65536 =
        (crowdState l k js c).ctx 65536 := by
      unfold State.unSr State.withSr
      rw [show (crowdCopy l k js).cid = 65536 from rfl, State.ctx_setCtx_self, State.ctx_modCtx_self]
    exact hback.trans hc
  · unfold State.place
    simp only [htm, Bool.false_eq_true, if_false, crowdRow_pointer h hi, htag, haddr, reduceCtorEq,
      show (crowdCopy l k js).cid = 65536 from rfl, crowdRow_checkPtr h _ hi,
      State.translate_tsc (show isTsc 65536 = true by decide) hgood, hcarries, hreach]
    rfl

/-- Row i adds its line to the list. -/
theorem crowdRow_destLines {s : State} (hs : crowdLike l k js s) {i : Nat} (hi : i < 3) (fuel : Nat) {acc : List Nat}
    (hnew : crowdRow l k i ∉ acc) : ∃ t, crowdLike l k js t ∧
      s.destLines (crowdCopy l k js) (fuel + 1) i acc = t.destLines (crowdCopy l k js) fuel (i + 1) (acc ++ [crowdRow l k i]) := by
  obtain ⟨sd, hpiece⟩ := crowdRow_piece h s hi
  obtain ⟨leaf, t, ht, hpa, hplace⟩ := crowdRow_place h hs hi
  refine ⟨t, ht, ?_⟩
  have hline : lineOf leaf.pa = crowdRow l k i := by
    rw [hpa]
    unfold lineOf
    omega
  rw [State.destLines, hpiece]
  dsimp only
  rw [show (crowdCopy l k js).scope = 0 from rfl, hplace]
  simp [hline, hnew]

/-- The lines that the command is to own: l, k, and the one that lists a byte of l. -/
theorem crowd_cmdLines : ∃ t, crowdLike l k js t ∧ (crowdIssue l k js).cmdLines (crowdCopy l k js) = (some [l, k, 2 * k - l], t) := by
  have hkl := h.below
  obtain ⟨hl, hl'⟩ := h.range l List.mem_cons_self
  obtain ⟨hk, -⟩ := h.range k (by simp)
  have h0 : crowdRow l k 0 = l := by unfold crowdRow; omega
  have h1 : crowdRow l k 1 = k := by unfold crowdRow; omega
  have h2 : crowdRow l k 2 = 2 * k - l := by unfold crowdRow; omega
  have hstart : crowdLike l k js (crowdIssue l k js) := ⟨_, rfl, rfl⟩
  obtain ⟨s1, hs1, e1⟩ := crowdRow_destLines h hstart (show 0 < 3 by decide) 3 (acc := []) (by simp)
  obtain ⟨s2, hs2, e2⟩ := crowdRow_destLines h hs1 (show 1 < 3 by decide) 2 (acc := [l]) (by rw [h1]; simp; omega)
  obtain ⟨s3, hs3, e3⟩ := crowdRow_destLines h hs2 (show 2 < 3 by decide) 1 (acc := [l, k]) (by rw [h2]; simp; omega)
  refine ⟨s3, hs3, ?_⟩
  show (crowdIssue l k js).destLines (crowdCopy l k js) 4 0 [] = _
  rw [e1, h0]
  show s1.destLines _ _ _ [l] = _
  rw [e2, h1]
  show s2.destLines _ _ _ [l, k] = _
  rw [e3, h2]
  rfl

end
end Sys2Proof.Machine
end

section
/-! PROOFS. Owning the lines of a command one by one, and the refutation of O45 (R111, R122). -/

namespace Sys2Proof.Machine

/-! A tile with one line of dirty bytes. -/

/-- No tag is dead and no pseudo-channel retired; the tile's write-combining buffer is empty, and of its lines only m may hold dirty bytes. -/
structure State.tidy (s : State) (t m : Nat) (x : CacheLine) : Prop where
  dead : s.dead = []
  channels : s.deadChannels = []
  wcb : (s.tile t).wcb = []
  line : (s.tile t).line m = x
  clean : ∀ j, j ≠ m → ((s.tile t).line j).dirty = []

/-- What ownLines does with a line. -/
def State.ownLine (t id : Nat) (s : State) (l : Nat) : State :=
  let s := (s.cleanLine t l).modTile t (fun x => x.setLine l CacheLine.absent)
  s.setL2 l { s.l2line l with engine := some id }

theorem State.sameButCache_ownLine (s : State) (t id l : Nat) : s.sameButCache (s.ownLine t id l) := by
  unfold State.ownLine
  exact State.sameButCache_trans (State.sameButCache_trans (s.sameButCache_cleanLine t l) (State.sameButCache_modTile _ _ _))
    (State.sameButCache_of_sameButHome (State.sameButHome_of_sameButL2 (State.sameButL2_setL2 _ _ _)))

theorem State.drainWcb_empty {s : State} {t : Nat} (h : (s.tile t).wcb = []) : s.drainWcb t = s.modTile t (fun x => { x with wcb := [] }) := by
  have hnone : s.leaving t = [] := by
    unfold State.leaving Tile.combined
    rw [h]
    rfl
  simp only [State.drainWcb_eq, hnone, h, List.map_nil, List.eraseDups_nil, State.sendLines, List.foldl_nil, List.filter_nil]

/-- The tile after a line has been taken from it. -/
theorem State.tile_ownLine (s : State) (t id l : Nat) : ((s.ownLine t id l).tile t) = ((s.cleanLine t l).tile t).setLine l CacheLine.absent := by
  unfold State.ownLine
  rw [State.tile_setL2, State.tile_modTile_self]

theorem State.l2line_ownLine (s : State) (t id l j : Nat) : (s.ownLine t id l).l2line j =
    if j = l then { (s.cleanLine t l).l2line l with engine := some id } else (s.cleanLine t l).l2line j := by
  unfold State.ownLine
  by_cases hj : j = l
  · subst hj
    rw [if_pos rfl, State.l2line_setL2_self, State.l2line_modTile]
  · rw [if_neg hj, State.l2line_setL2_ne _ _ hj, State.l2line_modTile]

theorem Tile.wcb_setLine (x : Tile) (l : Nat) (c : CacheLine) : (x.setLine l c).wcb = x.wcb := rfl

theorem Tile.line_setLine (x : Tile) (l j : Nat) (c : CacheLine) : (x.setLine l c).line j = if j = l then c else x.line j :=
  SMap.get_set _ _ _ _

section
variable {s : State} {t m id : Nat} {x : CacheLine} (h : s.tidy t m x)
include h

theorem State.tidy_drainWcb : (s.drainWcb t).tidy t m x := by
  rw [State.drainWcb_empty h.wcb]
  have htile := s.tile_modTile_self t (fun x => { x with wcb := [] })
  exact ⟨h.dead, h.channels, congrArg Tile.wcb htile, (congrArg (fun y : Tile => y.line m) htile).trans h.line,
    fun j hj => (congrArg (fun y : Tile => (y.line j).dirty) htile).trans (h.clean j hj)⟩

theorem State.l2line_drainWcb_of_tidy (j : Nat) : (s.drainWcb t).l2line j = s.l2line j := by
  rw [State.drainWcb_empty h.wcb, State.l2line_modTile]

theorem State.cleanLine_of_tidy {l : Nat} (hl : l ≠ m) : s.cleanLine t l = s.drainWcb t :=
  congrArg (fun u : State => u.drainWcb t) (State.writeBack_clean (h.clean l hl))

/-- A line without dirty bytes is taken from the tile, and no other one. -/
theorem State.tidy_ownLine {l : Nat} (hl : l ≠ m) : (s.ownLine t id l).tidy t m x := by
  have hd := State.tidy_drainWcb h
  have htile := s.tile_ownLine t id l
  rw [State.cleanLine_of_tidy h hl] at htile
  obtain ⟨_, _, _, _, _, _, _, _, _, _, heq⟩ := s.sameButCache_ownLine t id l
  refine ⟨(congrArg State.dead heq).trans h.dead, (congrArg State.deadChannels heq).trans h.channels, ?_, ?_, fun j hj => ?_⟩ <;> rw [htile]
  · rw [Tile.wcb_setLine]
    exact hd.wcb
  · rw [Tile.line_setLine, if_neg (Ne.symm hl)]
    exact hd.line
  · rw [Tile.line_setLine]
    split
    · rfl
    · exact hd.clean j hj

/-- It gets its owner, and nothing else of L2 changes. -/
theorem State.l2line_ownLine_of_tidy {l : Nat} (hl : l ≠ m) (j : Nat) :
    (s.ownLine t id l).l2line j = if j = l then { s.l2line l with engine := some id } else s.l2line j := by
  rw [State.l2line_ownLine, State.cleanLine_of_tidy h hl, State.l2line_drainWcb_of_tidy h, State.l2line_drainWcb_of_tidy h]

end

theorem State.fullAt_of_l2 {s u : State} {l : Nat} (h : s.fullAt l) (heq : u.l2 = s.l2) : u.fullAt l := by
  have hline (j : Nat) : u.l2line j = s.l2line j := by
    unfold State.l2line
    rw [heq]
  refine ⟨h.space, ?_, fun j => ?_, fun w hw => ?_⟩
  · rw [hline]
    exact h.absent
  · rw [hline]
    exact h.owned j
  · obtain ⟨j, hj⟩ := h.ways w hw
    rw [← hline] at hj
    exact ⟨j, hj⟩

/-- The owner of a line for which L2 has no way is forgotten when the line that lists one of its bytes is taken. -/
theorem State.ownLine_forgets {s : State} {t m l id : Nat} {x : CacheLine} (h : s.tidy t m x) (hfull : s.fullAt l) (hm : m < l)
    (hdirty : x.dirty = [((l - m) * 128, some crowdByte)]) : (s.ownLine t id m).l2line l = L2Line.absent := by
  have hcells : ((s.tile t).line m).dirtyCells m = [(l * 128, crowdByte)] := by
    unfold CacheLine.dirtyCells
    rw [h.line, hdirty]
    show [(m * 128 + (l - m) * 128, crowdByte)] = _
    rw [show m * 128 + (l - m) * 128 = l * 128 by omega]
  have hspace : paSpace (m * 128) = 0 := by
    have := hfull.space
    unfold paSpace at *
    omega
  have hplain (tag : Nat) : s.isDead tag = false := by
    unfold State.isDead
    rw [h.dead]
    rfl
  have hchannel : s.channelDead (m * 128) = false := by
    unfold State.channelDead
    rw [h.channels]
    exact Bool.and_false _
  have hversioned : versioned (l * 128) crowdByte.pg = true := by
    unfold versioned
    rw [hfull.space]
    rfl
  have hsend : s.sendHome t m [(l * 128, crowdByte)] = ((s.setByte (l * 128) 0).setSum (l * 128 / 4) SumEnt.none).bumpVer (l * 128) (s.yardOf t) := by
    unfold State.sendHome
    dsimp only
    rw [if_neg (show ¬(paSpace (m * 128) = 0xA ∨ s.channelDead (m * 128) = true) by simp [hspace, hchannel]), hchannel]
    simp only [List.filter_cons, hplain, Bool.not_false, if_true, List.filter_nil, Bool.false_eq_true, if_false, List.map_cons, List.map_nil]
    rw [State.homeWrite_cons (hplain _), if_pos hversioned]
    rfl
  have hwrite : (s.writeBack t m).l2line l = L2Line.absent := by
    rw [State.writeBack_dirty (by rw [hcells]; simp), hcells, State.l2line_modTile, hsend]
    have hafter : ((s.setByte (l * 128) 0).setSum (l * 128 / 4) SumEnt.none).fullAt l := State.fullAt_of_l2 hfull rfl
    exact State.l2line_bumpVer_of_fullAt hafter _
  have hwcb : ((s.writeBack t m).tile t).wcb = [] := by
    rw [State.writeBack_dirty (by rw [hcells]; simp), State.tile_modTile_self, State.tile_sendHome, Tile.wcb_setLine]
    exact h.wcb
  rw [State.l2line_ownLine, if_neg (by omega)]
  unfold State.cleanLine
  rw [State.drainWcb_empty hwcb, State.l2line_modTile]
  exact hwrite

end Sys2Proof.Machine
end

section
/-! PROOFS. Refuting O45: the command of the crowd is issued, and its first line has no owner (R122, R368). -/

namespace Sys2Proof.Machine

/-- Lines that can all be had now are taken one by one, once the core's dirty bytes have gone home. -/
theorem State.ownLines_of_free {s u : State} {q : QEntry} {t k l : Nat} {ls : List Nat} (id : Nat) (ht : cidTile q.cid = t) (hk : cidCore q.cid = k)
    (hlines : s.cmdLines q = (some (l :: ls), u))
    (hfree : ((l :: ls).any (fun l => !(u.homeOpen t (l * 128) none)) || u.dirtyBlocked t k ||
      (s.core k).vq.any (fun e => decide (e.ord < q.ord) && sharedForm e.inst e.a)) = false) :
    s.ownLines q id = (some ((l :: ls).foldl (State.ownLine t id) (u.releaseCore t k)), (l :: ls).foldl (State.ownLine t id) (u.releaseCore t k)) := by
  unfold State.ownLines
  rw [hlines]
  dsimp only
  rw [ht, hk, hfree]
  rfl

section
variable {l k : Nat} {js : List Nat}

theorem paSpace_crowd {j : Nat} (hj : j < 2 ^ 24) : paSpace (j * 128) = 0 := by
  unfold paSpace
  omega

theorem crowd_evictable (c : SMap Ctx) : (crowdState l k js c).evictable k = true := by
  unfold State.evictable
  rw [l2line_crowdState, if_pos List.mem_cons_self]
  unfold crowdWay
  rw [if_pos rfl]
  rfl

theorem crowd_tidy (c : SMap Ctx) : (crowdState l k js c).tidy 1024 (2 * k - l) (crowdCarrier l k) := by
  refine ⟨rfl, rfl, rfl, if_pos rfl, fun j hj => ?_⟩
  show (SMap.get (fun _ => CacheLine.absent) [(2 * k - l, crowdCarrier l k)] j).dirty = []
  unfold SMap.get
  rw [if_neg (Ne.symm hj)]
  rfl

variable (h : Crowd l k js)
include h

theorem Crowd.lt {j : Nat} (hj : j ∈ l :: k :: js) : j < 2 ^ 24 := (h.range j hj).2

/-- The line below k is neither l nor in L2. -/
theorem Crowd.carrier_notMem : 2 * k - l ∉ l :: k :: js := by
  have hkl := h.below
  have hk := (h.range k (by simp)).1
  have hl := (h.range l List.mem_cons_self).2
  intro hmem
  rcases List.mem_cons.mp hmem with heq | hmem
  · omega
  · rcases List.mem_cons.mp hmem with heq | hmem
    · omega
    · have := h.first _ hmem
      omega

/-- Each of the command's lines has room: k may leave, and no other set holds a line. -/
theorem crowd_l2Room (c : SMap Ctx) {j : Nat} : (crowdState l k js c).l2Room j = true := by
  have hk : (k, crowdWay k js k) ∈ (crowdState l k js c).l2 := List.mem_map.mpr ⟨k, List.mem_cons_self, rfl⟩
  by_cases hset : l2SetOf j = l2SetOf l
  · have hroom : ((crowdState l k js c).l2Set j).any (fun i => (crowdState l k js c).evictable i) = true := by
      refine List.any_eq_true.mpr ⟨k, List.mem_map.mpr ⟨_, List.mem_filter.mpr ⟨hk, ?_⟩, rfl⟩, crowd_evictable c⟩
      simp [crowdWay, paSpace_crowd (h.lt (j := k) (by simp)), hset, h.same k List.mem_cons_self]
    unfold State.l2Room
    rw [hroom, Bool.or_true]
  · have hempty : (crowdState l k js c).l2Set j = [] := by
      refine List.map_eq_nil_iff.mpr (List.filter_eq_nil_iff.mpr fun p hp => ?_)
      obtain ⟨i, hi, rfl⟩ := List.mem_map.mp hp
      have hne : l2SetOf i ≠ l2SetOf j := fun heq => hset (heq.symm.trans (h.same i hi))
      simp [hne]
    unfold State.l2Room
    rw [hempty]
    simp

theorem crowd_homeOpen (c : SMap Ctx) {j : Nat} (hj : j ∈ [l, k, 2 * k - l]) : (crowdState l k js c).homeOpen 1024 (j * 128) none = true := by
  have hline : lineOf (j * 128) = j := by
    unfold lineOf
    omega
  have hfree : ((crowdState l k js c).l2line j).engine = none ∧ ((crowdState l k js c).l2line j).solo = none := by
    rw [l2line_crowdState]
    split
    · next hmem =>
      have hjk : j = k := by
        rcases List.mem_cons.mp hj with rfl | hj
        · exact absurd hmem h.out
        · rcases List.mem_cons.mp hj with heq | hj
          · exact heq
          · rw [List.mem_singleton.mp hj] at hmem
            exact absurd (List.mem_cons_of_mem _ hmem) h.carrier_notMem
      exact ⟨if_pos hjk, rfl⟩
    · exact ⟨rfl, rfl⟩
  unfold State.homeOpen State.lineFree State.requests
  dsimp only
  rw [hline, crowd_l2Room h, hfree.1, hfree.2]
  rfl

/-- Once l and k are owned, every way of their set holds an owned line. -/
theorem crowd_fullAt {c : SMap Ctx} {s : State} {id : Nat} (hs : ∀ j, s.l2line j = if j = k then { crowdWay k js k with engine := some id }
    else if j = l then { L2Line.absent with engine := some id } else (crowdState l k js c).l2line j) : s.fullAt l := by
  have hkl := h.below
  have hline {j : Nat} (hj : j ∈ k :: js) : (s.l2line j).present = true ∧ (s.l2line j).engine ≠ none ∧ (s.l2line j).way = (k :: js).idxOf j := by
    rw [hs]
    by_cases hjk : j = k
    · subst hjk
      rw [if_pos rfl]
      exact ⟨rfl, by simp, rfl⟩
    · rw [if_neg hjk, if_neg (ne_of_mem_of_not_mem hj h.out), l2line_crowdState, if_pos hj]
      refine ⟨rfl, ?_, rfl⟩
      unfold crowdWay
      rw [if_neg hjk]
      simp
  refine ⟨paSpace_crowd (h.lt List.mem_cons_self), ?_, fun j hj => ?_, fun w hw => ?_⟩
  · rw [hs, if_neg (by omega), if_pos rfl]
    rfl
  · by_cases hmem : j ∈ k :: js
    · exact (hline hmem).2.1
    · rw [hs, if_neg (ne_of_mem_of_not_mem List.mem_cons_self hmem).symm, l2line_crowdState, if_neg hmem] at hj
      split at hj <;> cases hj
  · have hlt : w < (k :: js).length := by rw [h.length]; exact hw
    have hmem : (k :: js)[w] ∈ k :: js := List.getElem_mem hlt
    obtain ⟨hpresent, -, hway⟩ := hline hmem
    exact ⟨_, hpresent, paSpace_crowd (h.lt (List.mem_cons_of_mem _ hmem)), h.same _ hmem, hway.trans (h.nodup.idxOf_getElem w hlt)⟩

/-- The command is given its lines, and line l has no owner. -/
theorem crowd_ownLines : ∃ t, (crowdIssue l k js).ownLines (crowdCopy l k js) 1 = (some t, t) ∧ t.pushBlocked = false ∧
    (t.l2line l).engine = none := by
  obtain ⟨t, ⟨c, hc, rfl⟩, hlines⟩ := crowd_cmdLines h
  have hopen : [l, k, 2 * k - l].any (fun j => !((crowdState l k js c).homeOpen 1024 (j * 128) none)) = false :=
    List.any_eq_false.mpr fun j hj => by simp [crowd_homeOpen h c hj]
  have hfree : ([l, k, 2 * k - l].any (fun j => !((crowdState l k js c).homeOpen 1024 (j * 128) none)) ||
      (crowdState l k js c).dirtyBlocked 1024 4096 || ((crowdIssue l k js).core 4096).vq.any
        (fun e => decide (e.ord < (crowdCopy l k js).ord) && sharedForm e.inst e.a)) = false := by
    rw [hopen]
    rfl
  have hlk : l ≠ 2 * k - l := ne_of_mem_of_not_mem List.mem_cons_self h.carrier_notMem
  have hkk : k ≠ 2 * k - l := ne_of_mem_of_not_mem (by simp) h.carrier_notMem
  have hkl := h.below
  have htidy := State.tidy_drainWcb (crowd_tidy (l := l) (k := k) (js := js) c)
  have htidyL := State.tidy_ownLine (id := 1) htidy hlk
  have htidyK := State.tidy_ownLine (id := 1) htidyL hkk
  refine ⟨(((crowdState l k js c).drainWcb 1024).ownLine 1024 1 l |>.ownLine 1024 1 k).ownLine 1024 1 (2 * k - l), ?_, ?_, ?_⟩
  · have hrelease : (crowdState l k js c).releaseCore 1024 4096 = (crowdState l k js c).drainWcb 1024 := rfl
    have hown := State.ownLines_of_free (s := crowdIssue l k js) (q := crowdCopy l k js) 1
      (show cidTile 65536 = 1024 by decide) (show cidCore 65536 = 4096 by decide) hlines hfree
    rw [hrelease] at hown
    exact hown
  · have hcache : (crowdState l k js c).sameButCache _ := State.sameButCache_trans (State.sameButCache_trans (State.sameButCache_trans
      (State.sameButCache_drainWcb _ 1024) (State.sameButCache_ownLine _ 1024 1 l)) (State.sameButCache_ownLine _ 1024 1 k))
      (State.sameButCache_ownLine _ 1024 1 (2 * k - l))
    obtain ⟨_, _, _, _, _, _, _, _, _, _, heq⟩ := hcache
    rw [heq]
    have hme : (crowdState l k js c).me = crowdCtx l k := hc
    show (decide (16 ≤ Core.reset.vq.length) || !Core.reset.held.isEmpty || (crowdState l k js c).copHeld) = false
    unfold State.copHeld
    rw [hme]
    rfl
  · have hfull : (((crowdState l k js c).drainWcb 1024).ownLine 1024 1 l |>.ownLine 1024 1 k).fullAt l := by
      refine crowd_fullAt h (c := c) (id := 1) fun j => ?_
      simp only [State.l2line_ownLine_of_tidy htidyL hkk, State.l2line_ownLine_of_tidy htidy hlk,
        State.l2line_drainWcb_of_tidy (crowd_tidy (l := l) (k := k) (js := js) c), l2line_crowdState, h.out, List.mem_cons_self,
        if_true, if_false, hkl.ne]
    rw [State.ownLine_forgets htidyK hfull (by omega) rfl]
    rfl

end

/-- Refutes O45: with a crowd in a set of L2, a copy to l, k and the line below k is given its lines; yet taking the last writes back a dirty byte
that it lists outside itself, and as the set has no way left for l, L2 forgets that an engine owns l. -/
theorem not_engineCommandsJoinTheirQueue : ¬ Obligations.EngineCommandsJoinTheirQueue := by
  rintro ⟨-, -, hmove⟩
  obtain ⟨l, k, js, h⟩ := exists_crowd
  obtain ⟨t, hown, hpush, hnone⟩ := crowd_ownLines h
  obtain ⟨u, -, hlines⟩ := crowd_cmdLines h
  have hcheck : cpCheck 0 (crowdIssue l k js) 0 (BitVec.ofNat 64 (l * 128)) = none := by
    unfold cpCheck
    rw [if_neg (show ¬scopeBad (crowdIssue l k js) 0 = true by simp [scopeBad]), if_neg]
    rintro (⟨hb, -⟩ | hlen)
    · exact h.pointer_ne_zero hb
    · cases hlen
  have hprefix : ((crowdIssue l k js).me.sreg 0x024).getLsbD 63 = false := by
    rw [show (crowdIssue l k js).me.sreg 0x024 = 0 from rfl]
    decide
  have htask : (crowdIssue l k js).inTask = false := show isHelperSlot (cidSlot 65536) = false by decide
  obtain ⟨hissue, -⟩ := hmove (crowdIssue l k js) 1 2 0 ⟨rfl, hprefix⟩ rfl _ (.head _)
  obtain ⟨-, howned⟩ := hissue hcheck htask rfl t t hown hpush
  have hl := howned _ (congrArg Prod.fst hlines) l List.mem_cons_self
  rw [hnone] at hl
  cases hl

end Sys2Proof.Machine
end
